-- ==== Sys2Proof/Word.lean ====
section
/-!
DEFINITION. The word types of the model and nothing else: a byte, the wider words that registers and records use, and byte strings.
-/

namespace Sys2Proof

/-- One byte (R3). -/
abbrev Byte := BitVec 8
/-- A 64-bit register or record word (R3). -/
abbrev W64 := BitVec 64
/-- A 48-bit internal address (R28). -/
abbrev Addr := BitVec 48
/-- A string of bytes, lowest address first. -/
abbrev Bytes := List Byte

end Sys2Proof
end

