-- ==== Sys2Proof/Syntax.lean ====
section
/-!
DEFINITION. The commands of the block: one constructor per row of the spec's table of operations and events, with
the row's operands. A mailbox command carries the mailbox it runs on and its arguments; an event carries what the
outside world supplies (a frame, a reading, an outcome).
-/

namespace Sys2Proof

/-- A logical port, named by its first lane (R75). -/
abbrev PortId := Fin 64
/-- A mailbox (Table 15-7). -/
abbrev MbId := Fin 8
/-- A cluster. -/
abbrev ClusterId := Fin 16

/-- A hardware thread: cluster, core and thread of the core (R292). -/
structure Tid where
  cluster : Fin 16
  core : Fin 12
  thr : Fin 16
  deriving DecidableEq, Repr, Inhabited

/-- Sender and header of an update message (Table 18-2). -/
structure UpdHeader where
  addr : Bytes
  port : BitVec 16
  session : BitVec 32
  seq : BitVec 32
  deriving DecidableEq, Repr, Inhabited

/-- A rail of group 2 or 3, or of group 1 (Table 19-2). -/
inductive RailGroup where
  | one
  | two
  | three
  deriving DecidableEq, Repr, Inhabited

/-- An item of the version and key store, of the journal or of the logbook, as R531 and R590 name them. -/
inductive StoreItem where
  | keySlot (slot : Fin 4)
  | minFwVersion
  | currentManifest
  | pendingManifest
  | fwState
  | journalRecord (chunk : Nat)
  | logWord (id : Nat)
  deriving DecidableEq, Repr, Inhabited

/-- Why an MRAM block is worn (R528, R530). -/
inductive WearCause where
  /-- A read found this many corrected bits in a 64-byte word. -/
  | corrected (bits : Nat)
  /-- A write ended FAILED. -/
  | writeFailed
  /-- A word has more than 8 bit errors; the item that is lost in both copies, if one is. -/
  | uncorrectable (lost : Option StoreItem)
  deriving DecidableEq, Repr, Inhabited

/-- The party whose read of host memory gets no completion (R441). -/
inductive DmaReader where
  | thread (tid : Tid) (entry : Fin 17)
  | mailbox (mb : Fin 8)
  | txRing (r : Fin 8)
  deriving DecidableEq, Repr, Inhabited

/-- Who gives a table command (R191): a mailbox with its record, or a thread whose due word is the TCMD. -/
inductive TblSource where
  | mailbox (mb : MbId) (cmd : Bytes)
  | thread (tid : Tid)
  deriving DecidableEq, Repr, Inhabited

/-- The commands. -/
inductive Instr where
  -- The plan and its commit
  | planStageBegin (mb : MbId) (size : BitVec 32)
  | planStageData (mb : MbId) (off len : BitVec 32) (payload : Option Bytes)
  | planStageEnd (mb : MbId)
  | planCheck (mb : MbId)
  | planCommit (mb : MbId) (args : Bytes)
  | planAbort (mb : MbId)
  | planStatus (mb : MbId)
  | commitCheckDone
  | commitEntropyReady
  | commitPrepareDone
  | epochInstant
  | epochRetire
  | groupDecisionPoint
  | prepared (link : Fin 3)
  | abort (link : Fin 3)
  | preparedAck (link : Fin 3)
  -- Ports and device time
  | rxFrame (port : PortId) (frame : Bytes) (lost fecBad : Bool)
  | mmFragmentRx (port : PortId) (start : Bool) (frameCount fragCount : BitVec 2) (data : Bytes)
  | linkUp (port : PortId)
  | anRestart (port : PortId)
  | linkLoss (port : PortId)
  | verifyTimeout (port : PortId)
  | verifyResponseRx (port : PortId) (respond : Bool)
  | txFrame (port : PortId)
  | portStatus (mb : MbId) (port : BitVec 8)
  | portRestart (mb : MbId) (port : BitVec 8)
  | portLoopback (mb : MbId) (port mode : BitVec 8)
  | portCounters (mb : MbId) (port : BitVec 8) (first count : BitVec 16)
  | macsecSaInstall (mb : MbId) (args : Bytes)
  | macsecTxSelect (mb : MbId) (port an : BitVec 8)
  | macsecSaErase (mb : MbId) (port dir : BitVec 8) (sci : BitVec 64) (an : BitVec 8)
  | macsecStatus (mb : MbId) (port : BitVec 8)
  | timeGet (mb : MbId)
  | timeSet (mb : MbId) (sec : BitVec 48) (ns : BitVec 32) (frac : BitVec 16)
  | timeOffset (mb : MbId) (ns : BitVec 64) (frac : BitVec 16)
  | timeFreq (mb : MbId) (adj : BitVec 32)
  | timeStatus (mb : MbId)
  | txTsRead (mb : MbId) (port : BitVec 8) (max : BitVec 8)
  | hawkServoCorrection (freq : BitVec 32) (corrNs : BitVec 64) (frac : BitVec 16) (offsetNs : BitVec 64)
  | ppsOutEdge
  | ppsInEdge (rising : Bool)
  | refCheck (deviationPpm : BitVec 16) (stopped : Bool)
  | timeReady
  | hodAllocAnswer
  | txComplete (port : PortId)
  -- Parse graph and classification
  | parseComplete
  | fragContextExpire (engine : Fin 2) (key : Bytes)
  | parseNodeRepair (engine : Fin 2) (node : Fin 1024)
  | classifyEnter (pipe : Fin 2)
  | classifyHandon
  | classifyScrub
  | classifyRewriteDone
  | streamGateReopen (mb : MbId) (gate : BitVec 16)
  | streamFilterUnblock (mb : MbId) (filter : BitVec 16)
  | meterClearRed (mb : MbId) (meter : BitVec 16)
  -- Order restore and egress
  | orderRelease
  | orderAgeClose (od : BitVec 16)
  | egressAdmit
  | gateEvent (port : PortId)
  | gateListSwitch (port : PortId)
  | transmitOpportunity (port : PortId)
  | cbRecoveryReset (fn : BitVec 16)
  | cbLatentTest (fn : BitVec 16)
  | dupEntryExpire (pair : Fin 16)
  | queueAgeDrop (port : PortId) (queue : Fin 16)
  -- Buffers
  | headCacheRefill (pool : Fin 5)
  | bundleReadDone (pool : Fin 5) (lost : Bool)
  | headCacheWriteout (pool : Fin 5)
  | chainSweepDone (pool : Fin 5) (chain : Fin 64)
  | unlinkedSweep (pool : Fin 5)
  -- Forwarding tables
  | configCleanup
  | lookup (tid : Tid)
  | cacheLineExpire
  | learn (tid : Tid)
  | learnApply
  | learnRatePeriod
  | ageClockTick
  | ageingPassStart
  | routineChunk (i : Fin 4)
  | tableEntryRepair
  | pinnedScrub
  | search (who : TblSource)
  | tableNext (who : TblSource)
  | insert (who : TblSource)
  | delete (who : TblSource)
  | flushByPort (who : TblSource)
  | invalidate (who : TblSource)
  | ageNow (who : TblSource)
  | tableStatus (who : TblSource)
  -- Threads, dispatch and events
  | bufAlloc (tid : Tid)
  | bufHold (tid : Tid)
  | bufRelease (tid : Tid)
  | egressPost (tid : Tid)
  | next (tid : Tid)
  | pass (tid : Tid)
  | wait (tid : Tid)
  | sleep (tid : Tid)
  | chsend (tid : Tid)
  | chrecv (tid : Tid)
  | signal (tid : Tid)
  | srld (tid : Tid)
  | srst (tid : Tid)
  | sradd (tid : Tid)
  | srswap (tid : Tid)
  | tmrset (tid : Tid)
  | tmrcan (tid : Tid)
  | tmrpop (tid : Tid)
  | trap (tid : Tid)
  | retx (tid : Tid)
  | pairedWord (tid : Tid)
  | nop (tid : Tid)
  | alu (tid : Tid)
  | insh (tid : Tid)
  | ld (tid : Tid)
  | st (tid : Tid)
  | tas (tid : Tid)
  | loop (tid : Tid)
  | setlc (tid : Tid)
  | br (tid : Tid)
  | bal (tid : Tid)
  | jr (tid : Tid)
  | mode (tid : Tid)
  | fence (tid : Tid)
  | mfs (tid : Tid)
  | mts (tid : Tid)
  | fmov (tid : Tid)
  | mov (tid : Tid)
  | mul (tid : Tid)
  | bswap (tid : Tid)
  | cmp (tid : Tid)
  | tst (tid : Tid)
  | lea (tid : Tid)
  | lr (tid : Tid)
  | sc (tid : Tid)
  | skw (tid : Tid)
  | bmove (tid : Tid)
  | bfill (tid : Tid)
  | bcmp (tid : Tid)
  | bsum (tid : Tid)
  | bscan (tid : Tid)
  | cop (tid : Tid)
  | cmov (tid : Tid)
  | csave (tid : Tid)
  | crestore (tid : Tid)
  | acquire (tid : Tid)
  | tryLock (tid : Tid)
  | release (tid : Tid)
  | force (tid : Tid)
  | longOpComplete (tid : Tid) (entry : Fin 17) (host : BitVec 64)
  | storePerformed (tid : Tid) (index : Fin 32)
  | eventDelivery (tid : Tid)
  | threadWake (tid : Tid)
  | dispatchEnqueue
  | unspill (cluster : ClusterId) (pool : BitVec 16)
  | dispatchFill (cluster : ClusterId)
  | timerDue (cluster : ClusterId)
  | reservationExpire (tid : Tid)
  | blockElementDone (tid : Tid)
  | slotTableSwitch
  | icacheFillDone (tid : Tid)
  | icacheReload (tid : Tid)
  -- Locks and keys
  | lockGrant
  | lockWaitTimeout (lock : Fin 4096)
  | lockHoldLong (lock : Fin 4096)
  | lockStatus (mb : MbId) (lock : BitVec 16)
  | lockForceRelease (mb : MbId) (lock : BitVec 16)
  | lockGroupStatus (mb : MbId) (group : BitVec 8)
  | sealerKeyInstall (mb : MbId) (index : BitVec 16) (domain use : BitVec 8) (wrapped : Bytes)
  | sealerKeyErase (mb : MbId) (index : BitVec 16)
  | sealerKeyStatus (mb : MbId) (index : BitVec 16)
  -- Memory
  | hbmActivate (pc : Fin 128) (bank : Fin 32)
  | targetedRefresh
  | hbmRequestDone (pc : Fin 128) (bank : Fin 32)
  | eccWriteback
  | hbmRefresh (pc : Fin 128) (bank : Fin 32)
  | refreshWindowEnd
  | hbmTempRead (t0 t1 t2 t3 : Int)
  | patrolScrub
  | hbmTrainStep (stack : Fin 4) (passed : Bool) (report : Bytes)
  | hbmTrackingStep (pc : Fin 128) (eye : Nat)
  | hbmStatus (mb : MbId)
  | hbmTrainReport (mb : MbId) (stack : BitVec 8) (indOut : Option (BitVec 64))
  | hbmRetrain (mb : MbId) (stack : BitVec 8)
  | memRead (mb : MbId) (addr : BitVec 64) (length : BitVec 32) (indOut : Option (BitVec 64))
  | memWrite (mb : MbId) (addr : BitVec 64) (length : BitVec 32) (payload : Option Bytes)
  -- Hawk and the host interface
  | mbDoorbell (mb : MbId) (v : BitVec 16)
  | resultRead (mb : MbId) (off : BitVec 9) (len : BitVec 4)
  | mailboxResult (mb : MbId)
  | hostLockdown (v : BitVec 1)
  | intStatusClear (mask : BitVec 64)
  | intEnableWrite (v : BitVec 64)
  | ringEnable (tx : Bool) (r : Fin 8) (log2 : BitVec 5) (slotUnits : BitVec 8)
  | ringDisable (tx : Bool) (r : Fin 8)
  | txRingHeadWrite (r : Fin 8) (head : BitVec 32)
  | errRingEnable (enable : Bool) (log2 : BitVec 5)
  | registerWrite (off : BitVec 16) (data : Bytes)
  | bar2Read (off : BitVec 26) (len : Nat)
  | bar2Write (off : BitVec 26) (data : Bytes)
  | pcieHotReset
  | pcieLinkUp
  | configurationSpaceWrite (busMaster : Bool)
  | dmaReadTimeout (who : DmaReader)
  | deviceInfo (mb : MbId)
  | readyWait (mb : MbId) (mask : BitVec 32) (timeoutUs : BitVec 32)
  | hawkRestart (mb : MbId)
  | hawkRestartEnd
  | threadNotify (mb : MbId) (threadId : BitVec 16)
  | echo (mb : MbId) (args : Bytes)
  | counterRead (mb : MbId) (addr : BitVec 64) (count : BitVec 32) (indOut : Option (BitVec 64))
  | errorRingRead (mb : MbId) (max : BitVec 16) (consume : Bool) (indOut : Option (BitVec 64))
  | ringCopyWrite
  | txDescriptor (r : Fin 8) (desc : Bytes)
  | txDescriptorRetry (r : Fin 8)
  | txFrameAccept (r : Fin 8) (frame : Bytes)
  | errorRecordDeliver
  -- Faults
  | slotOverrun (l5 : BitVec 6) (l4 : BitVec 8) (l3 : BitVec 10) (l2 : BitVec 12)
  | stepStall (cluster : ClusterId) (cores : List (Fin 12))
  | unitRestart (mb : MbId) (loc : BitVec 64)
  | unitRestartEnd (l5 : BitVec 6) (l4 : BitVec 8)
  | deviceRestart (mb : MbId) (confirm : BitVec 32)
  | deviceRestartDecision
  | processorResetRelease
  | heartbeatTimeout (l5 : BitVec 6) (l4 : BitVec 8)
  | watchdogExpire
  | pairDecision (pair : BitVec 9) (entry : Nat)
  | pairWaitTimeout (pair : BitVec 9) (entry : Nat)
  | comparatorSelfTest (cmp : Fin 34) (detects : Bool) (codeValid : Bool)
  | comparatorReplace (cmp : Fin 32)
  | restartHoldEnd
  | faultStatus (mb : MbId)
  | faultNRelease (mb : MbId)
  | faultInject (mb : MbId) (kind : BitVec 8) (loc : BitVec 64) (index : BitVec 16)
  -- Span links
  | spanFecLock (link : Fin 3)
  | spanStateTx (link : Fin 3)
  | spanState (link : Fin 3)
  | spanLinkDown (link : Fin 3) (lockLost : Bool)
  | flitRx (link : Fin 3) (flit : Bytes) (fecBad : Bool)
  | timeSyncTx (link : Fin 3)
  | timeSync (link : Fin 3)
  | readReq (link : Fin 3)
  | writeReq (link : Fin 3)
  | readResp (link : Fin 3)
  | learnMessage (link : Fin 3)
  | hawkMsg (link : Fin 3)
  | packet (link : Fin 3)
  | spanPacketSend (link : Fin 3)
  | spanStatus (mb : MbId) (link : BitVec 8)
  | spanRejoin (mb : MbId) (link : BitVec 8)
  | spanCounters (mb : MbId) (link : BitVec 8) (first count : BitVec 16)
  -- Service port, firmware, keys
  | neighborSolicitation (frame : Bytes)
  | icmpv6EchoRequest (frame : Bytes)
  | svcFrameDrop (frame : Bytes)
  | hello (h : UpdHeader)
  | manifestPart (h : UpdHeader) (offset : BitVec 32) (data : Bytes)
  | manifestEnd (h : UpdHeader) (size : BitVec 32)
  | block (h : UpdHeader) (chunk : BitVec 16) (blk : BitVec 8) (crc : BitVec 32) (data : Bytes)
  | chunkQuery (h : UpdHeader) (chunk : BitVec 16)
  | finish (h : UpdHeader)
  | activate (h : UpdHeader)
  | sessionAbort (h : UpdHeader) (reason : BitVec 8) (rollback : Bool)
  | sessionTimeout
  | svcEnChange (level : Bool)
  | svcEnableLapse
  | chunkComplete (chunk : BitVec 16)
  | chunkWritten (chunk : BitVec 16) (pulses : Fin 9)
  | loaderVerify
  | healthConfirm (fuseReadsBack : Bool)
  | healthTimeout
  | restoreDone
  | mramBlockRetire (block : BitVec 14) (byte : BitVec 12) (cause : WearCause)
  | trngStartupDone (passed : Bool)
  | trngHealthFail
  | drbgReseed
  | uartCharacterRx (c : BitVec 8)
  | svcEnable (mb : MbId) (enable : BitVec 8) (seconds : BitVec 32)
  | svcStatus (mb : MbId)
  | fwStatus (mb : MbId)
  | fwActivate (mb : MbId)
  | fwRollback (mb : MbId)
  | keySlotWrite (mb : MbId) (slot : BitVec 8) (key : Bytes)
  | keySlotRevoke (mb : MbId) (slot : BitVec 8)
  | keyStatus (mb : MbId)
  | kekInstall (mb : MbId) (kind : BitVec 8) (key : Bytes)
  | fusePlanSigned (mb : MbId) (confirm : BitVec 32) (readsBack : Bool)
  | trngRead (mb : MbId) (count : BitVec 16)
  -- Power, governor, bring-up, logbook
  | vinValid
  | vinUvlo
  | vinAverage (mv : Nat) (ma : Nat)
  | railGroupUp (g : RailGroup)
  | railFault (g : RailGroup)
  | plumbReading (cluster : ClusterId) (ps : Option Nat) (stepRateMhz : Nat)
  | tempMeasure (clusters : List Int) (stage : Int) (svc : Int)
  | smbusReadWord (cmd : BitVec 8)
  | smbusAlertResponse
  | smbusNack (cmd : BitVec 8) (write : Bool)
  | pfailAssert
  | pfailRelease
  | resetAssert
  | resetRelease
  | serviceDieStart
  | onDieMemoryInit
  | pcieEndpointUp
  | hawkStart
  | logbookMount
  | logbookDeltaWrite (pulses : Fin 9)
  | logbookGenerationWrite (pulses : Fin 9)
  | histogramSample
  | logbookStatus (mb : MbId)
  | logbookRead (mb : MbId) (kind : BitVec 8) (first : BitVec 64) (count : BitVec 32) (indOut : Option (BitVec 64))
  | histogramRead (mb : MbId) (id : BitVec 32) (firstBin : BitVec 16) (count : BitVec 16)
  -- Balls
  | testEnRise
  | testEnFall
  | gpioWrite (reg : BitVec 6) (value : BitVec 64)
  | gpioInputChange (levels : BitVec 16)
  | tapReset
  | extest (captured : Nat) (shifted : Nat)
  | samplePreload (captured : Nat) (shifted : Nat)
  | idcode
  | highz
  | clamp
  | extestPulse (captured : Nat) (shifted : Nat)
  | extestTrain (captured : Nat) (shifted : Nat)
  | bypass (code : BitVec 8)
  deriving DecidableEq, Repr

end Sys2Proof
end

