-- ==== Sys2Proof/WellFormed.lean ====
section
/-!
DEFINITION. Well-formed commands: what the types of the operands leave open and the device's environment cannot send
otherwise, such as the length of a span flit. A meaning is total and does not depend on it.
-/

namespace Sys2Proof

/-- A value of the 1,211 cells of the boundary register (R613). -/
def Instr.cells (v : Nat) : Bool := decide (v < 2 ^ 1211)

/-- The record of a mailbox's table command has 64 bytes (Table 6-7). -/
def Instr.source : TblSource → Bool
  | .mailbox _ cmd => decide (cmd.length = 64)
  | .thread _ => true

/-- Whether a command's operands are those that the spec's layouts allow. -/
def Instr.wf : Instr → Bool
  | .planStageData _ _ _ payload => payload.all (fun b => decide (b.length < 2 ^ 32))
  | .planCommit _ args => decide (args.length ≤ 224)
  | .macsecSaInstall _ args => decide (args.length = 80)
  | .search who => source who
  | .tableNext who => source who
  | .insert who => source who
  | .delete who => source who
  | .flushByPort who => source who
  | .invalidate who => source who
  | .ageNow who => source who
  | .tableStatus who => source who
  | .sealerKeyInstall _ _ _ _ wrapped => decide (wrapped.length = 40)
  | .hbmTrainStep _ _ report => decide (report.length = 1024)
  | .resultRead _ _ len => decide (len.toNat = 1) || decide (len.toNat = 2) || decide (len.toNat = 4) || decide (len.toNat = 8)
  | .registerWrite _ data => decide (data.length ≤ 64) && decide (data ≠ [])
  | .bar2Read _ len => decide (1 ≤ len) && decide (len ≤ 4096)
  | .bar2Write _ data => decide (data ≠ []) && decide (data.length ≤ 4096)
  | .echo _ args => decide (args.length ≤ 224)
  | .txDescriptor _ desc => decide (desc.length = 32)
  | .flitRx _ flit _ => decide (flit.length = 64)
  | .hello h => decide (h.addr.length = 16)
  | .manifestPart h _ _ => decide (h.addr.length = 16)
  | .manifestEnd h _ => decide (h.addr.length = 16)
  | .block h _ _ _ _ => decide (h.addr.length = 16)
  | .chunkQuery h _ => decide (h.addr.length = 16)
  | .finish h => decide (h.addr.length = 16)
  | .activate h => decide (h.addr.length = 16)
  | .sessionAbort h _ _ => decide (h.addr.length = 16)
  | .keySlotWrite _ _ key => decide (key.length = 96)
  | .kekInstall _ _ key => decide (key.length = 32)
  | .tempMeasure cs _ _ => decide (cs.length = 16)
  | .extest captured shifted => cells captured && cells shifted
  | .samplePreload captured shifted => cells captured && cells shifted
  | .extestPulse captured shifted => cells captured && cells shifted
  | .extestTrain captured shifted => cells captured && cells shifted
  | .planStageBegin _ _ | .planStageEnd _ | .planCheck _ | .planAbort _ | .planStatus _ | .commitCheckDone
  | .commitEntropyReady | .commitPrepareDone | .epochInstant | .epochRetire | .groupDecisionPoint | .prepared _ | .abort _
  | .preparedAck _ | .rxFrame _ _ _ _ | .mmFragmentRx _ _ _ _ _ | .linkUp _ | .anRestart _ | .linkLoss _ | .verifyTimeout _
  | .verifyResponseRx _ _ | .txFrame _ | .portStatus _ _ | .portRestart _ _ | .portLoopback _ _ _ | .portCounters _ _ _ _
  | .macsecTxSelect _ _ _ | .macsecSaErase _ _ _ _ _ | .macsecStatus _ _ | .timeGet _ | .timeSet _ _ _ _ | .timeOffset _ _ _
  | .timeFreq _ _ | .timeStatus _ | .txTsRead _ _ _ | .hawkServoCorrection _ _ _ _ | .ppsOutEdge | .ppsInEdge _
  | .refCheck _ _ | .timeReady | .hodAllocAnswer | .txComplete _ | .parseComplete | .fragContextExpire _ _
  | .parseNodeRepair _ _ | .classifyEnter _ | .classifyHandon | .classifyScrub | .classifyRewriteDone | .streamGateReopen _ _
  | .streamFilterUnblock _ _ | .meterClearRed _ _ | .orderRelease | .orderAgeClose _ | .egressAdmit | .gateEvent _
  | .gateListSwitch _ | .transmitOpportunity _ | .cbRecoveryReset _ | .cbLatentTest _ | .dupEntryExpire _ | .queueAgeDrop _ _
  | .headCacheRefill _ | .bundleReadDone _ _ | .headCacheWriteout _ | .chainSweepDone _ _ | .unlinkedSweep _ | .configCleanup
  | .lookup _ | .cacheLineExpire | .learn _ | .learnApply | .learnRatePeriod | .ageClockTick | .ageingPassStart
  | .routineChunk _ | .tableEntryRepair | .pinnedScrub | .bufAlloc _ | .bufHold _ | .bufRelease _ | .egressPost _ | .next _
  | .pass _ | .wait _ | .sleep _ | .chsend _ | .chrecv _ | .signal _ | .srld _ | .srst _ | .sradd _ | .srswap _ | .tmrset _
  | .tmrcan _ | .tmrpop _ | .trap _ | .retx _ | .pairedWord _ | .nop _ | .alu _ | .insh _ | .ld _ | .st _ | .tas _ | .loop _
  | .setlc _ | .br _ | .bal _ | .jr _ | .mode _ | .fence _ | .mfs _ | .mts _ | .fmov _ | .mov _ | .mul _ | .bswap _ | .cmp _
  | .tst _ | .lea _ | .lr _ | .sc _ | .skw _ | .bmove _ | .bfill _ | .bcmp _ | .bsum _ | .bscan _ | .cop _ | .cmov _
  | .csave _ | .crestore _ | .acquire _ | .tryLock _ | .release _ | .force _ | .longOpComplete _ _ _ | .storePerformed _ _
  | .eventDelivery _ | .threadWake _ | .dispatchEnqueue | .unspill _ _ | .dispatchFill _ | .timerDue _ | .reservationExpire _
  | .blockElementDone _ | .slotTableSwitch | .icacheFillDone _ | .icacheReload _ | .lockGrant | .lockWaitTimeout _
  | .lockHoldLong _ | .lockStatus _ _ | .lockForceRelease _ _ | .lockGroupStatus _ _ | .sealerKeyErase _ _
  | .sealerKeyStatus _ _ | .hbmActivate _ _ | .targetedRefresh | .hbmRequestDone _ _ | .eccWriteback | .hbmRefresh _ _
  | .refreshWindowEnd | .hbmTempRead _ _ _ _ | .patrolScrub | .hbmTrackingStep _ _ | .hbmStatus _ | .hbmTrainReport _ _ _
  | .hbmRetrain _ _ | .memRead _ _ _ _ | .memWrite _ _ _ _ | .mbDoorbell _ _ | .mailboxResult _ | .hostLockdown _
  | .intStatusClear _ | .intEnableWrite _ | .ringEnable _ _ _ _ | .ringDisable _ _ | .txRingHeadWrite _ _
  | .errRingEnable _ _ | .pcieHotReset | .pcieLinkUp | .configurationSpaceWrite _ | .dmaReadTimeout _ | .deviceInfo _
  | .readyWait _ _ _ | .hawkRestart _ | .hawkRestartEnd | .threadNotify _ _ | .counterRead _ _ _ _ | .errorRingRead _ _ _ _
  | .ringCopyWrite | .txDescriptorRetry _ | .txFrameAccept _ _ | .errorRecordDeliver | .slotOverrun _ _ _ _ | .stepStall _ _
  | .unitRestart _ _ | .unitRestartEnd _ _ | .deviceRestart _ _ | .deviceRestartDecision | .processorResetRelease
  | .heartbeatTimeout _ _ | .watchdogExpire | .pairDecision _ _ | .pairWaitTimeout _ _ | .comparatorSelfTest _ _ _
  | .comparatorReplace _ | .restartHoldEnd | .faultStatus _ | .faultNRelease _ | .faultInject _ _ _ _ | .spanFecLock _
  | .spanStateTx _ | .spanState _ | .spanLinkDown _ _ | .timeSyncTx _ | .timeSync _ | .readReq _ | .writeReq _ | .readResp _
  | .learnMessage _ | .hawkMsg _ | .packet _ | .spanPacketSend _ | .spanStatus _ _ | .spanRejoin _ _ | .spanCounters _ _ _ _
  | .neighborSolicitation _ | .icmpv6EchoRequest _ | .svcFrameDrop _ | .sessionTimeout | .svcEnChange _ | .svcEnableLapse
  | .chunkComplete _ | .chunkWritten _ _ | .loaderVerify | .healthConfirm _ | .healthTimeout | .restoreDone
  | .mramBlockRetire _ _ _ | .trngStartupDone _ | .trngHealthFail | .drbgReseed | .uartCharacterRx _ | .svcEnable _ _ _
  | .svcStatus _ | .fwStatus _ | .fwActivate _ | .fwRollback _ | .keySlotRevoke _ _ | .keyStatus _ | .fusePlanSigned _ _ _
  | .trngRead _ _ | .vinValid | .vinUvlo | .vinAverage _ _ | .railGroupUp _ | .railFault _ | .plumbReading _ _ _
  | .smbusReadWord _ | .smbusAlertResponse | .smbusNack _ _ | .pfailAssert | .pfailRelease | .resetAssert | .resetRelease
  | .serviceDieStart | .onDieMemoryInit | .pcieEndpointUp | .hawkStart | .logbookMount | .logbookDeltaWrite _
  | .logbookGenerationWrite _ | .histogramSample | .logbookStatus _ | .logbookRead _ _ _ _ _ | .histogramRead _ _ _ _
  | .testEnRise | .testEnFall | .gpioWrite _ _ | .gpioInputChange _ | .tapReset | .idcode | .highz | .clamp | .bypass _ => true

end Sys2Proof
end

