-- ==== Sys2Proof/Decode.lean ====
section
/-!
DEFINITION. The words of the table of operations and events: no row of it gives a command any bits, so that no word
spells one. Commands come from outside the device as they are (a write, a frame, a tick), not as words that it decodes.
-/

namespace Sys2Proof

/-- The command that a word of `nbits` bits spells: none, as no row of the table gives bits. -/
def decodeTableWord (_nbits _w : Nat) : Option Instr := none

end Sys2Proof
end

