-- ==== Sys2Proof/Machine/Map.lean ====
section
/-!
DEFINITION. Sparse tables as plain data: a list of (key, value) pairs with strictly rising keys. A table that the
spec numbers (ports, threads, locks, buffers) is held so; a key that is not listed has the table's default.
-/

namespace Sys2Proof.Machine

/-- A sparse table: keys strictly rising. -/
abbrev Table (α : Type) := List (Nat × α)

/-- The value listed at key `k`, if one is. -/
def tblFind {α : Type} (m : Table α) (k : Nat) : Option α :=
  match m with
  | [] => none
  | (j, v) :: r => if j = k then some v else tblFind r k

/-- The value at key `k`, `d` where none is listed. -/
def tblGet {α : Type} (d : α) (m : Table α) (k : Nat) : α := (tblFind m k).getD d

/-- The table with `v` at key `k`. -/
def tblSet {α : Type} (m : Table α) (k : Nat) (v : α) : Table α :=
  match m with
  | [] => [(k, v)]
  | (j, w) :: r => if k < j then (k, v) :: (j, w) :: r else if k = j then (k, v) :: r else (j, w) :: tblSet r k v

/-- The table with key `k` at its default. -/
def tblDel {α : Type} (m : Table α) (k : Nat) : Table α := m.filter (fun e => e.1 ≠ k)

/-- The table with the value at `k` changed by `f`. -/
def tblMod {α : Type} (d : α) (m : Table α) (k : Nat) (f : α → α) : Table α := tblSet m k (f (tblGet d m k))

/-- Counter `k` of a table of counters, plus `n`, modulo 2^64 (R6). -/
def cntAdd (m : Table Nat) (k n : Nat) : Table Nat := tblMod 0 m k (fun v => (v + n) % 2 ^ 64)

/-- A gauge or word set to a value. -/
def cntSet (m : Table Nat) (k v : Nat) : Table Nat := tblSet m k (v % 2 ^ 64)

/-- Counter `k` of a table of counters. -/
def cntGet (m : Table Nat) (k : Nat) : Nat := tblGet 0 m k

/-- Insert into a list kept in rising order of `key`, after equal keys. -/
def insertBy {α : Type} (key : α → Nat) (x : α) : List α → List α
  | [] => [x]
  | y :: r => if key x < key y then x :: y :: r else y :: insertBy key x r

/-- Element `i` of a list changed by `f`. -/
def listMod {α : Type} (f : α → α) : List α → Nat → List α
  | [], _ => []
  | x :: r, 0 => f x :: r
  | x :: r, n + 1 => x :: listMod f r n

/-- The first element satisfying `p`, and the list without it. -/
def takeFirst {α : Type} (p : α → Bool) : List α → Option (α × List α)
  | [] => none
  | x :: r => if p x then some (x, r) else (takeFirst p r).map (fun q => (q.1, x :: q.2))

/-- The position of the first element satisfying `p`. -/
def indexOf? {α : Type} (p : α → Bool) (l : List α) : Option Nat :=
  (l.findIdx? p)

end Sys2Proof.Machine
end

