-- ==== Sys2Proof/Machine/Bytes.lean ====
section
/-!
DEFINITION. Byte strings as the spec's records use them: reading and writing little-endian and network-order fields
at a byte offset (R3), slices, and bit fields of a natural number.
-/

namespace Sys2Proof.Machine

/-- Byte `i` of `b` as a number; 0 beyond its end. -/
def byteAt (b : Bytes) (i : Nat) : Nat := ((b.drop i).headD 0).toNat

/-- The little-endian value of a whole byte string (R3). -/
def leVal : Bytes → Nat
  | [] => 0
  | x :: xs => x.toNat + 256 * leVal xs

/-- The big-endian (network order) value of a whole byte string (R3). -/
def beVal (b : Bytes) : Nat := b.foldl (fun a x => a * 256 + x.toNat) 0

/-- `n` bytes of `b` from `off`; bytes beyond its end read 0. -/
def slice (b : Bytes) (off n : Nat) : Bytes :=
  let t := (b.drop off).take n
  t ++ List.replicate (n - t.length) 0

/-- The little-endian field of `n` bytes at `off`. -/
def leAt (b : Bytes) (off n : Nat) : Nat := leVal (slice b off n)

/-- The network-order field of `n` bytes at `off`. -/
def beAt (b : Bytes) (off n : Nat) : Nat := beVal (slice b off n)

/-- `v` as `n` little-endian bytes (modulo `256 ^ n`). -/
def toLE : Nat → Nat → Bytes
  | 0, _ => []
  | n + 1, v => BitVec.ofNat 8 v :: toLE n (v / 256)

/-- `v` as `n` network-order bytes (modulo `256 ^ n`). -/
def toBE (n v : Nat) : Bytes := (toLE n v).reverse

/-- `n` zero bytes. -/
def zeros (n : Nat) : Bytes := List.replicate n 0

/-- `b` with the bytes `d` written over it from `off`; a gap reads 0. -/
def patchBytes (b : Bytes) (off : Nat) (d : Bytes) : Bytes :=
  slice b 0 off ++ d ++ b.drop (off + d.length)

/-- Bits `[hi:lo]` of `v`. -/
def bits (v hi lo : Nat) : Nat := (v >>> lo) % 2 ^ (hi + 1 - lo)

/-- Bit `i` of `v`. -/
def bit (v i : Nat) : Bool := v.testBit i

/-- 1 for true, 0 for false. -/
def b2n (b : Bool) : Nat := if b then 1 else 0

/-- `v` with bit `i` set. -/
def setBit (v i : Nat) : Nat := v ||| 2 ^ i

/-- `v` with bit `i` clear. -/
def clearBit (v i : Nat) : Nat := if v.testBit i then v - 2 ^ i else v

/-- `v` with bit `i` made equal to `b`. -/
def putBit (v i : Nat) (b : Bool) : Nat := if b then setBit v i else clearBit v i

/-- The bits of `v` that are not bits of `m` (a write-one-to-clear of `m`, R8). -/
def clearMask (v m : Nat) : Nat := v - (v &&& m)

/-- A two's-complement value of `n` bits read as an integer. -/
def signedOf (n v : Nat) : Int :=
  let w := v % 2 ^ n
  if n = 0 then 0 else if w < 2 ^ (n - 1) then (w : Int) else (w : Int) - 2 ^ n

/-- An integer as an `n`-bit two's-complement number. -/
def toSigned (n : Nat) (v : Int) : Nat := (v % (2 ^ n : Int)).toNat

/-- The value held at most at `m` (a saturating counter, R6). -/
def satTo (m v : Nat) : Nat := if v ≤ m then v else m

/-- The ceiling of `a / b`. -/
def ceilDiv (a b : Nat) : Nat := (a + b - 1) / b

/-- `a` rounded up to a multiple of `b`. -/
def roundUp (a b : Nat) : Nat := ceilDiv a b * b

/-- Whether every byte of a string is zero (reserved fields, R7). -/
def allZero (b : Bytes) : Bool := b.all (· == 0)

/-- The bytes of a little-endian string cut into `n`-byte records. -/
def records (n : Nat) (b : Bytes) (count : Nat) : List Bytes :=
  (List.range count).map (fun i => slice b (n * i) n)

end Sys2Proof.Machine
end

