-- ==== Sys2Proof/Machine/Memory.lean ====
section
/-!
DEFINITION. Byte memory as a list of (address, byte) cells in one canonical form: addresses strictly rising, and no
cell equal to what an unlisted address reads as, which is zero (HBM is zero-filled by training, R427; for the other
memories see the assumption log).
-/

namespace Sys2Proof.Machine

/-- A byte memory. -/
abbrev Memory := List Host.Cell

/-- The cells of a memory start above `lo`, rise strictly and are not zero. -/
def Memory.above (lo : Option Nat) : Memory → Bool
  | [] => true
  | (a, b) :: r => (match lo with | none => true | some l => decide (l < a)) && decide (b ≠ 0) && Memory.above (some a) r

/-- The canonical form of a memory. -/
def Memory.wf (m : Memory) : Bool := Memory.above none m

/-- The byte at an address. -/
def memGet (m : Memory) (a : Nat) : Byte :=
  match m with
  | [] => 0
  | (j, v) :: r => if j = a then v else memGet r a

/-- The memory with `v` at address `a`: the cell is removed when `v` is zero. -/
def memSet (m : Memory) (a : Nat) (v : Byte) : Memory :=
  match m with
  | [] => if v = 0 then [] else [(a, v)]
  | (j, w) :: r =>
    if a < j then (if v = 0 then (j, w) :: r else (a, v) :: (j, w) :: r)
    else if a = j then (if v = 0 then r else (a, v) :: r)
    else (j, w) :: memSet r a v

/-- The bytes `d` written from address `a` upward. -/
def memWrite (m : Memory) (a : Nat) : Bytes → Memory
  | [] => m
  | b :: r => memWrite (memSet m a b) (a + 1) r

/-- `n` bytes read from address `a` upward. -/
def memRead (m : Memory) (a : Nat) : Nat → Bytes
  | 0 => []
  | n + 1 => memGet m a :: memRead m (a + 1) n

/-- The memory with every cell of `[lo, hi)` zero. -/
def memClear (m : Memory) (lo hi : Nat) : Memory := m.filter (fun c => decide (c.1 < lo) || decide (hi ≤ c.1))

end Sys2Proof.Machine
end

