-- ==== Sys2Proof/Machine/StateData.lean ====
section
/-!
DEFINITION. The state of the packet path as plain data: ports, parse engines, classifier, table engine, buffers,
order restore and egress (chapters "Ports and device time" to "Order restore, egress and redundancy").
-/

namespace Sys2Proof.Machine

/-! ### Ports (R75 to R100) -/

/-- A secure association (R91 to R97). -/
structure MacSa where
  port : Nat
  tx : Bool
  sci : Nat
  an : Nat
  /-- The next packet number to send, or one above the highest received. -/
  next : Nat
  /-- Lowest acceptable packet number (receive). -/
  lowest : Nat
  ssci : Nat
  salt : Bytes
  key : Bytes
  /-- MACSEC_TX_SELECT has selected it. -/
  selected : Bool := false
  /-- Installed under a configuration that a commit has changed or removed (R97). -/
  old : Bool := false
  deriving DecidableEq, Repr, Inhabited

/-- The receive fields delivered with the head (Table 3-4). -/
structure RxFields where
  port : Nat := 0
  len : Nat := 0
  /-- RX_TIME in nanoseconds. -/
  time : Nat := 0
  macsec : Nat := 0
  scIndex : Nat := 0
  preemptable : Bool := false
  deriving DecidableEq, Repr, Inhabited

/-- A frame that waits for Hod's allocation (R81, R82). -/
structure RxWait where
  bytes : Bytes
  rx : RxFields
  /-- The epoch of its admission slot (R61), and the beacon tick of admission. -/
  epoch : Nat
  tick : Nat
  /-- The HSR pair whose pass-through copy this is (R258). -/
  pass : Option Nat := none
  deriving DecidableEq, Repr, Inhabited

/-- A preemptable frame in reassembly (R89). -/
structure Reasm where
  frameCount : Nat
  fragCount : Nat
  data : Bytes
  time : Nat
  deriving DecidableEq, Repr, Inhabited

/-- A frame in a port's transmit buffer (R83), with what its egress descriptor asks of the port (R106). -/
structure TxItem where
  handle : Nat
  /-- The frame without its FCS. -/
  bytes : Bytes
  epoch : Nat := 0
  tsTag : Option Nat := none
  /-- ONE_STEP: 0 none, 1 ORIGIN, 2 CORRECTION. -/
  oneStep : Nat := 0
  osOff : Nat := 0
  csumOff : Nat := 0
  rxTime : Nat := 0
  queue : Nat := 0
  preemptable : Bool := false
  domain : Nat := 0
  /-- Pair and member of a PAIR copy, and session of a mirror copy, for their counters. -/
  pair : Option (Nat × Nat) := none
  mirror : Option Nat := none
  deriving DecidableEq, Repr, Inhabited

/-- A frame on the wire: the wire bytes that a port sends for an item, and how many of them have gone out in earlier
fragments. -/
structure OnWire where
  item : TxItem
  wire : Bytes
  sent : Nat := 0
  frags : Nat := 0
  /-- Beacon tick at which the present fragment or frame began. -/
  start : Nat := 0
  /-- The 2-bit frame count of its mPackets. -/
  frameCount : Nat := 0
  deriving DecidableEq, Repr, Inhabited

/-- One logical port. -/
structure PortSt where
  /-- 0 DISABLED, 1 TRAINING, 2 UP, 3 DOWN (Table 3-17). -/
  st : Nat := 0
  lastChange : Nat := 0
  loopback : Nat := 0
  verifyFailed : Bool := false
  preemptActive : Bool := false
  verifyTries : Nat := 0
  /-- Beacon tick at which the last verify attempt began. -/
  verifyAt : Nat := 0
  /-- Transmit-timestamp entries held, oldest first, and the head index (R106). -/
  tsRing : List Bytes := []
  tsHead : Nat := 0
  reasm : Option Reasm := none
  txBuf : List TxItem := []
  onWire : Option OnWire := none
  /-- A preemptable frame whose transmission an express frame has interrupted (R88). -/
  held : Option OnWire := none
  /-- Frame count of the next preemptable frame, and the tick at which the wire is free again. -/
  mmCount : Nat := 0
  freeAt : Nat := 0
  deriving DecidableEq, Repr, Inhabited

/-- The port complex. -/
structure PortsState where
  ports : Table PortSt := []
  sas : List MacSa := []
  /-- Frames that wait for Hod's answer, oldest first. -/
  rxWait : List RxWait := []
  deriving DecidableEq, Repr, Inhabited

/-! ### Buffers (R206 to R230) -/

/-- A buffer's state word (Table 7-2). -/
structure BufWord where
  gen : Nat := 0
  ref : Nat := 0
  domain : Nat := 0
  /-- 0 FREE_LISTED, 1 FREE_CACHED, 2 IN_USE, 3 RETIRED. -/
  st : Nat := 0
  chain : Nat := 0
  unlinked : Bool := false
  deriving DecidableEq, Repr, Inhabited

/-- One pool of Hod. -/
structure PoolSt where
  /-- Handles in the head cache, head first, and the ring position of the head. -/
  head : List Nat := []
  headPos : Nat := 0
  /-- Chain heads: the handle of the first bundle (unlisted: an empty chain). -/
  chains : Table Nat := []
  /-- Chains that a lost bundle has stopped (R228). -/
  stopped : List Nat := []
  rotIn : Nat := 0
  rotOut : Nat := 0
  /-- Bundle reads in flight: chain and bundle handle, oldest first. -/
  reads : List (Nat × Nat) := []
  fresh : Nat := 0
  /-- Buffers freed during a Hod restart (R227). -/
  freeQueue : List Nat := []
  /-- Buffers in use or retired; and the lowest F_p seen since the first commit. -/
  used : Nat := 0
  freeMin : Option Nat := none
  retired : Nat := 0
  deriving DecidableEq, Repr, Inhabited

/-- Hod. -/
structure HodState where
  pools : Table PoolSt := []
  /-- State words by 2^23 × pool + index. -/
  words : Table BufWord := []
  /-- H_d,p by 8 × domain + pool. -/
  held : Table Nat := []
  /-- The 16 holding slots of each thread, by THREAD_ID. -/
  slots : Table (List Nat) := []
  deriving DecidableEq, Repr, Inhabited

/-! ### Packets between the ports and the dispatchers -/

/-- A classification result after the merge of R148. -/
structure ClassRes where
  action : Nat := 0
  consume : Bool := false
  domain : Nat := 0
  prio : Nat := 0
  orderDomain : Nat := 0
  /-- Stream handle; 0xFFFF for none. -/
  stream : Nat := 0xFFFF
  chain : Nat := 0
  meter : Option Nat := none
  ring : Nat := 0
  mirror : Nat := 0
  user : Nat := 0
  holt : Bool := false
  isDefault : Bool := false
  /-- An IDENT entry gave the stream handle (R152). -/
  ident : Bool := false
  /-- The rule or entry that won, for its hit counter. -/
  rule : Option Nat := none
  deriving DecidableEq, Repr, Inhabited

/-- A packet from its admission on. -/
structure Packet where
  handle : Nat := 0xFFFFFFFF
  rx : RxFields := {}
  epoch : Nat := 0
  /-- The beacon tick of its admission slot, and its SOURCE (Table 8-1). -/
  tick : Nat := 0
  source : Nat := 0
  /-- The 64 bytes of thread metadata, as far as they are written. -/
  md : Bytes := []
  /-- Fragment state of Table 4-2, with the recorded decision that a DECIDED fragment takes. -/
  fragState : Nat := 0
  decision : Option ClassRes := none
  /-- Fragment key of a first fragment whose decision is awaited, and its engine. -/
  fragKey : Bytes := []
  /-- Beacon tick of its delivery to the classifier, and then of its hand-on. -/
  delivered : Nat := 0
  deriving DecidableEq, Repr, Inhabited

/-- States of a fragment context. -/
inductive FragSt where
  | waiting
  | pending
  | decided
  deriving DecidableEq, Repr, Inhabited

/-- A fragment context (R125 to R131). -/
structure FragCtx where
  engine : Nat
  key : Bytes
  epoch : Nat
  st : FragSt
  /-- The beacon tick at which it expires. -/
  due : Nat
  decision : ClassRes := {}
  held : List Packet := []
  sum : Nat := 0
  fin : Option Nat := none
  deriving DecidableEq, Repr, Inhabited

/-- The two Stencil engines. -/
structure StencilState where
  /-- Heads in walk. -/
  walking : List Packet := []
  ctxs : List FragCtx := []
  /-- Nodes with an uncorrectable error that await their rewrite: engine and node (R122). -/
  badNodes : List (Nat × Nat) := []
  deriving DecidableEq, Repr, Inhabited

/-- A packet in the rule search (R138, R139). -/
structure ClsBusy where
  pkt : Packet
  enter : Nat
  res : ClassRes
  /-- A filter, gate or meter has stopped it, or a memory error has (R160). -/
  policed : Bool := false
  errorDrop : Bool := false
  yellow : Bool := false
  prio : Option Nat := none
  express : Bool := false
  deriving DecidableEq, Repr, Inhabited

/-- A stream gate's state (R154). -/
structure SGateSt where
  latched : Bool := false
  /-- Start of the interval that `octets` counts, in ns. -/
  interval : Nat := 0
  octets : Nat := 0
  deriving DecidableEq, Repr, Inhabited

/-- A meter's state (R155): token buckets in 10^-9 bits. -/
structure MeterSt where
  last : Nat := 0
  bc : Nat := 0
  be : Nat := 0
  allRed : Bool := false
  deriving DecidableEq, Repr, Inhabited

/-- The two classifiers. -/
structure ClsState where
  /-- Input buffers in delivery order, both pipelines together. -/
  input : List Packet := []
  busy : List ClsBusy := []
  /-- Filters that MAX_SDU has blocked. -/
  blocked : List Nat := []
  gates : Table SGateSt := []
  /-- Meters that have been used since they were last refilled. -/
  meters : Table MeterSt := []
  /-- Memories with an uncorrectable word that awaits its rewrite: L5 and L4 (R160). -/
  bad : List (Nat × Nat) := []
  /-- Packets handed on, which their dispatcher has yet to enqueue (R307). -/
  handed : List Packet := []
  deriving DecidableEq, Repr, Inhabited

/-! ### Order restore and egress (R231 to R266) -/

/-- An order-restore entry (R231 to R237). -/
structure OrderEntry where
  od : Nat
  tick : Nat
  source : Nat
  handle : Nat
  domain : Nat
  epoch : Nat
  prio : Nat := 0
  rxTime : Nat := 0
  /-- Posted descriptors in order. -/
  descs : List Bytes := []
  complete : Bool := false
  drop : Bool := false
  deriving DecidableEq, Repr, Inhabited

/-- A descriptor that awaits egress admission. -/
structure AdmitItem where
  desc : Bytes
  /-- The first copy uses a reference already handed over; every other copy takes a HOLD (R240). -/
  owned : Bool := true
  epoch : Nat := 0
  tick : Nat := 0
  /-- The port the packet was admitted on. -/
  ingress : Option Nat := none
  prio : Nat := 0
  domain : Nat := 0
  rxTime : Nat := 0
  deriving DecidableEq, Repr, Inhabited

/-- A claim on one occurrence of a gate entry (R248). -/
structure Claim where
  handle : Nat
  stream : Nat
  port : Nat
  queue : Nat
  op : Nat
  /-- Opening and end of the occurrence, device time in ns. -/
  opening : Nat
  closing : Nat
  epoch : Nat
  /-- 0 live; 1 used or released, so that the occurrence serves no other frame of the stream; 2 lapsed before its frame
  arrived. -/
  st : Nat := 0
  deriving DecidableEq, Repr, Inhabited

/-- A frame on an egress queue. -/
structure QFrame where
  handle : Nat
  start : Nat
  len : Nat
  epoch : Nat := 0
  tick : Nat := 0
  domain : Nat := 0
  ingress : Option Nat := none
  rxTime : Nat := 0
  tsTag : Option Nat := none
  oneStep : Nat := 0
  osOff : Nat := 0
  csumOff : Nat := 0
  /-- Bytes written over the frame (R252), inserted after a position (R259), and appended after padding (R257). -/
  seqAt : Option (Nat × Nat) := none
  insert : Option (Nat × Bytes) := none
  append : Bytes := []
  pair : Option (Nat × Nat) := none
  mirror : Option Nat := none
  /-- The packet as admitted, for a mirror copy (R149). -/
  bytes : Option Bytes := none
  deriving DecidableEq, Repr, Inhabited

/-- One operation of a gate control list. -/
structure GateOp where
  op : Nat
  states : Nat
  interval : Nat
  deriving DecidableEq, Repr, Inhabited

/-- A gate control list as a port follows it (R243). -/
structure GateList where
  ops : List GateOp
  base : Nat
  cycle : Nat
  holdAdv : Nat
  relAdv : Nat
  epoch : Nat
  deriving DecidableEq, Repr, Inhabited

/-- A port's gates (R243 to R247). -/
structure GateSt where
  list : Option GateList := none
  /-- The operation in force and the device time at which it began; none before the first cycle start. -/
  op : Option (Nat × Nat) := none
  hold : Bool := false
  /-- A changed list (none: all gates open) and the device time at which it takes effect (R246). -/
  next : Option (Option GateList × Nat) := none
  deriving DecidableEq, Repr, Inhabited

/-- Credit of a shaped queue (R251), in units of 1 / (1.6 × 10^9) bit. -/
structure Cbs where
  credit : Int := 0
  deriving DecidableEq, Repr, Inhabited

/-- An 802.1CB function's state (R252 to R254). -/
structure CbFn where
  takeAny : Bool := true
  recov : Nat := 65535
  /-- History bits, bit 0 the newest. -/
  history : Nat := 0
  gen : Nat := 0
  /-- Beacon tick of the last frame passed, and of the last latent error test. -/
  lastPass : Nat := 0
  lastTest : Nat := 0
  /-- PASSED minus DISCARDED at the last latent error test. -/
  baseDiff : Int := 0
  deriving DecidableEq, Repr, Inhabited

/-- A duplicate-table entry of a PRP or HSR pair (R255 to R258). -/
structure DupEntry where
  mac : Nat
  seq : Nat
  member : Nat
  made : Nat
  /-- Forwarded from A to B, and from B to A; admitted locally (HSR). -/
  fwdA : Bool := false
  fwdB : Bool := false
  admitted : Bool := false
  deriving DecidableEq, Repr, Inhabited

/-- A PRP or HSR pair. -/
structure PairSt where
  seq : Nat := 0
  dups : List DupEntry := []
  deriving DecidableEq, Repr, Inhabited

/-- A copy that awaits its write to a receive ring (R262, R458). -/
structure RingCopy where
  ring : Nat
  handle : Nat
  start : Nat
  len : Nat
  /-- 0 COPY_TO_PROCESSOR, 1 MIRROR with its session. -/
  mirror : Option Nat := none
  port : Nat := 0
  host : Bool := false
  domain : Nat := 0
  marked : Bool := false
  rxTime : Nat := 0
  stream : Nat := 0xFFFF
  reason : Nat := 0
  user : Nat := 0
  epoch : Nat := 0
  /-- The packet as admitted, for a copy that classification makes (R149). -/
  bytes : Option Bytes := none
  deriving DecidableEq, Repr, Inhabited

/-- Order-restore unit and egress complex. -/
structure EgressState where
  entries : List OrderEntry := []
  entriesMax : Nat := 0
  /-- Released descriptors, and the admission FIFO of direct posts. -/
  released : List AdmitItem := []
  fifo : List AdmitItem := []
  claims : List Claim := []
  /-- Queues by 16 × port + queue. -/
  queues : Table (List QFrame) := []
  depthMax : Table Nat := []
  gates : Table GateSt := []
  cbs : Table Cbs := []
  /-- Beacon tick to which every credit has been brought. -/
  cbsTick : Nat := 0
  fns : Table CbFn := []
  pairs : Table PairSt := []
  /-- Copies seen by each mirror session, for its SAMPLE_N rotation. -/
  sample : Table Nat := []
  copies : List RingCopy := []
  deriving DecidableEq, Repr, Inhabited

end Sys2Proof.Machine
end

