-- ==== Sys2Proof/Machine/StateCore.lean ====
section
/-!
DEFINITION. The state of the clusters as plain data: threads, cores, dispatchers, delay lists, shared registers,
coprocessors, keys and locks (chapters "Core pipeline and timing" to "Coprocessors and locks").
-/

namespace Sys2Proof.Machine

/-! ### Registers and results in flight (R267 to R271) -/

/-- A register that a result can name (Tables 10-2 and 12-4). -/
inductive Reg where
  | a
  | x
  | y
  | b
  /-- Pointer register `n`. -/
  | p (n : Nat)
  deriving DecidableEq, Repr, Inhabited

/-- What a short result writes when it lands. -/
inductive Dst where
  | reg (r : Reg) (v : W64)
  /-- Z, N, C and V. -/
  | flags (z n c v : Bool)
  /-- FMOV with DIR 1: Z, N, C, V, E and IE from bits [6:0] (R339). -/
  | fmov (v : W64)
  /-- F.E. -/
  | ebit (v : Bool)
  /-- F.Z alone. -/
  | zbit (v : Bool)
  /-- Bytes of bank 0. -/
  | bytes (off : Nat) (d : Bytes)
  /-- A status register of Table 10-4, written by MTS. -/
  | status (n : Nat) (v : W64)
  /-- A register of the core's coprocessor, written by CMOV. -/
  | copro (unit n : Nat) (v : W64)
  deriving DecidableEq, Repr, Inhabited

/-- A result in flight: it lands at the end of tick `land`, and a word issued at tick p sees it when land ≤ p + 1
(R269). -/
structure Pend where
  land : Nat
  dst : Dst
  deriving DecidableEq, Repr, Inhabited

/-! ### Long operations (R273 to R277) -/

/-- What a scoreboard entry names (R273). -/
inductive Names where
  | reg (r : Reg)
  /-- Bytes of bank 0. -/
  | range (off len : Nat)
  /-- A coprocessor's register file (R382). -/
  | unit (u : Nat)
  /-- LC, for a block instruction. -/
  | lc
  deriving DecidableEq, Repr, Inhabited

/-- A load's byte order and extension (R337). -/
structure LoadFmt where
  size : Nat
  be : Bool := false
  sx : Bool := false
  deriving DecidableEq, Repr, Inhabited

/-- The destination of a Render computation with a long source (R362). -/
inductive RDest where
  | none
  | reg (r : Reg)
  /-- Bank 0 at an offset, in the instruction's size and byte order. -/
  | bank0 (off : Nat)
  deriving DecidableEq, Repr, Inhabited

/-- What a Render instruction computes once its long source has arrived. -/
structure RPost where
  op : Nat
  fmt : LoadFmt
  nf : Bool := false
  tri : Bool := false
  /-- The other source's value, where there is one. -/
  other : W64 := 0
  carry : Bool := false
  dest : RDest := .none
  deriving DecidableEq, Repr, Inhabited

/-- A long operation that waits for its completion. -/
inductive LongOp where
  /-- A load of `n` bytes at an internal address into a register. -/
  | load (addr : Nat) (fmt : LoadFmt) (r : Reg)
  /-- A Render instruction's long source. -/
  | rload (addr : Nat) (post : RPost)
  /-- A load-reserved of HBM (R369). -/
  | lr (addr : Nat) (fmt : LoadFmt) (r : Reg)
  /-- TAS at a cluster-memory address, done once its result is known (R338). -/
  | tas (addr : Nat) (r : Reg) (got : Option W64)
  /-- SC, done once its outcome is known (R370). -/
  | sc (addr : Nat) (fmt : LoadFmt) (r : Reg) (v : W64) (got : Option W64)
  /-- An operation whose result is decided: bytes for bank 0, the event that it sets, and the fault that it reports. -/
  | result (off : Nat) (d : Bytes) (flag : Option Nat) (fault : Option Nat)
  /-- CHSEND or SIGNAL with its operands. -/
  | chsend (off target chan : Nat) (v : W64) (handle : Option Nat)
  | signal (off target n : Nat)
  /-- PASS, whose item enters the next dispatcher when it completes, or the status that was decided at once. -/
  | pass (off : Nat) (st : Option Nat)
  /-- EPOST with DIRECT that waits for space in the admission FIFO. -/
  | direct (off : Nat) (desc : Bytes)
  | tmrset (off n tag : Nat)
  | tmrcan (off tag : Nat)
  | tcmd (off : Nat) (cmd : Bytes)
  /-- A table command whose routine runs. -/
  | tcmdRun (off : Nat)
  /-- ACQUIRE that waits for a lock. -/
  | lockWait (off lock : Nat)
  /-- A coprocessor function, with its outcome: the registers it writes, the status of a rejection, and the key that
  KEY_UNWRAP installs (R391, R392). -/
  | cop (unit func : Nat) (regs : Table W64) (err : Option Nat) (key : Option (Nat × Nat × Bytes))
  | crestore (unit : Nat) (regs : Table W64)
  /-- A block instruction (R372 to R376). -/
  | block
  deriving DecidableEq, Repr, Inhabited

/-- A scoreboard entry (R273). -/
structure SbEntry where
  id : Nat
  names : List Names
  op : LongOp
  issued : Nat
  /-- Issue order among the thread's long accesses (R276). -/
  seq : Nat := 0
  /-- The tick at which it completes exactly, or the latest at which it completes; none while it waits for an event. -/
  due : Option Nat
  exact : Bool := false
  /-- How many requests it takes, and what each that is done has returned: address, status and bytes. -/
  need : Nat := 1
  parts : List (Nat × Nat × Bytes) := []
  deriving DecidableEq, Repr, Inhabited

/-- A posted store that is outstanding (R274 to R276). -/
structure PostedStore where
  addr : Nat
  data : Bytes
  seq : Nat
  issued : Nat
  /-- How many requests it takes, and the statuses of those that are done. -/
  need : Nat := 1
  done : List Nat := []
  deriving DecidableEq, Repr, Inhabited

/-- An element of a block in flight (R374). -/
structure BlockElem where
  /-- Element number, and the tick at which it is complete: none while it waits for memory. -/
  k : Nat
  due : Option Nat
  /-- The values read, once read. -/
  ps : W64 := 0
  pd : W64 := 0
  err : Option Nat := none
  deriving DecidableEq, Repr, Inhabited

/-- A block instruction in progress (R372 to R376). -/
structure Block where
  /-- The opcode: 0x20 BMOVE to 0x24 BSCAN. -/
  op : Nat
  pd : Nat
  ps : Nat
  fn : Bool
  /-- Elements requested, and the total. -/
  requested : Nat := 0
  total : Nat
  inflight : List BlockElem := []
  /-- An early stop: no more requests, and the elements that are in flight have no effect. -/
  stop : Bool := false
  /-- An event is to be delivered: no more requests (R375). -/
  held : Bool := false
  /-- The instruction's scoreboard entry. -/
  entry : Nat
  deriving DecidableEq, Repr, Inhabited

/-! ### Work items (R301 to R312) -/

/-- A packet on its way through the coats. -/
structure Item where
  handle : Nat
  epoch : Nat
  tick : Nat
  source : Nat
  /-- It holds an order-restore entry. -/
  entry : Bool := true
  domain : Nat := 0
  od : Nat := 0
  chain : Nat := 0
  /-- Which coat of the chain it enters or is in. -/
  coat : Nat := 0
  /-- Pool of the queue or thread. -/
  pool : Nat := 0
  express : Bool := false
  fragHash : Nat := 0
  stream : Nat := 0xFFFF
  prio : Nat := 0
  rxTime : Nat := 0
  port : Nat := 0
  /-- Metadata bytes 0 to 55 and the CARRY of the work slot. -/
  md : Bytes := []
  carry : Bytes := []
  spilled : Bool := false
  /-- Bytes of the packet, and the tick at which it entered its queue. -/
  len : Nat := 0
  entered : Nat := 0
  /-- It came from a host ring. -/
  host : Bool := false
  /-- Pair number and side of a paired coat (R510). -/
  pair : Option (Nat × Nat) := none
  /-- The thread has PASSed it or posted it with LAST (R304). -/
  done : Bool := false
  deriving DecidableEq, Repr, Inhabited

/-- What a full shadow holds: the item, its window, metadata and work slot. -/
structure Shadow where
  item : Item
  win : Bytes
  md : Bytes
  work : Bytes
  deriving DecidableEq, Repr, Inhabited

/-- A dispatcher's queue for one pool of one live epoch (R306 to R308). -/
structure DispQueue where
  pool : Nat
  epoch : Nat
  items : List Item := []
  spill : List Item := []
  deriving DecidableEq, Repr, Inhabited

/-! ### Threads (R292 to R299) -/

/-- What a thread waits for (R314). -/
inductive Wait where
  | none
  /-- WAIT: an armed event. -/
  | event
  /-- NEXT: WORK. -/
  | work
  /-- SLEEP: its delay-list entry, or FAULT. -/
  | sleep
  /-- CHRECV in the 16-thread configuration: channel k. -/
  | channel (k : Nat)
  deriving DecidableEq, Repr, Inhabited

/-- Where a control word has put the thread: in the delay slot of a branch at `at_` with its target if it is taken, or
in the shadow of a MODE at `at_`, in shadow word or instruction `s`. -/
inductive Flow where
  | plain
  | slot (at_ : Nat) (target : Option Nat) (tick : Nat)
  | shadow (at_ s : Nat) (render : Bool)
  deriving DecidableEq, Repr, Inhabited

/-- What the plan of an epoch binds a thread to: its pool and program. -/
structure Binding where
  epoch : Nat
  pool : Nat
  domain : Nat
  service : Bool := false
  crossDomain : Bool := false
  program : Nat
  first : Nat
  len : Nat
  entryPc : Nat
  startRender : Bool := false
  lockGroups : Nat := 0
  bankTable : Nat := 0xFFFF
  regionSet : Nat := 0xFFFF
  excPc : Nat := 0xFFFFFFFF
  eventPc : Nat := 0xFFFFFFFF
  winStart : Nat := 0
  deriving DecidableEq, Repr, Inhabited

/-- An issue word of a Render instruction (Table 12-5). -/
inductive RStep where
  /-- The line buffer refills for an instruction that crosses a code line. -/
  | refill
  /-- The table read of operand `k`, a TIND. -/
  | table (k : Nat)
  /-- The load of operand `k`. -/
  | source (k : Nat)
  | final
  deriving DecidableEq, Repr, Inhabited

/-- A Render instruction between its issue words (R360). -/
structure RProg where
  steps : List RStep
  /-- Address of each memory operand, by operand: in bank 0 (true) or internal. -/
  addrs : Table (Bool × Nat) := []
  /-- Values loaded so far, by operand. -/
  vals : Table W64 := []
  /-- Operands whose source word has issued. -/
  src : List Nat := []
  /-- Pointer changes of POSTINC and PREDEC. -/
  ptrs : Table W64 := []
  /-- Earliest tick of the final word, and of the word that carries an operand read from a table. -/
  ready : Nat := 0
  tready : Nat := 0
  deriving DecidableEq, Repr, Inhabited

/-- One hardware thread. -/
structure Thread where
  /-- It is bound and has not stopped. -/
  running : Bool := false
  bind : Option Binding := none
  a : W64 := 0
  x : W64 := 0
  y : W64 := 0
  b : BitVec 8 := 0
  /-- F of Table 10-3. -/
  fz : Bool := false
  fn : Bool := false
  fc : Bool := false
  fv : Bool := false
  fe : Bool := false
  mode : Bool := false
  ie : Bool := false
  ex : Bool := false
  lc : Nat := 0
  pc : Nat := 0
  /-- P0 to P7. -/
  p : Table W64 := []
  /-- Sticky bits of EVF; the level bits follow their conditions. -/
  evf : Nat := 0
  /-- The tick in which each event flag last set (R313). -/
  setAt : Table Nat := []
  evm : Nat := 0x00020000
  epc : Nat := 0
  ef : Nat := 0
  elc : Nat := 0
  ecause : Nat := 0
  einfo : Nat := 0
  eaddr : Nat := 0
  faultInfo : Nat := 0
  epoch : Nat := 0
  /-- Bank 0 (Table 9-5), the active window, metadata and work slot included. -/
  mem : Memory := []
  /-- Window words of 8 bytes that the thread has stored to (R302). -/
  stored : List Nat := []
  item : Option Item := none
  shadow : Option Shadow := none
  /-- Items that PASS has taken and that have not entered their next dispatcher, by scoreboard entry. -/
  passing : Table Item := []
  /-- Tick at which the shadow became empty. -/
  emptied : Nat := 0
  pend : List Pend := []
  sb : List SbEntry := []
  stores : List PostedStore := []
  /-- Sequence number of the next long access. -/
  seq : Nat := 0
  /-- A FENCE waits. -/
  fence : Bool := false
  loopFirst : Nat := 0
  loopLast : Nat := 0
  loopValid : Bool := false
  flow : Flow := .plain
  /-- The shadow word that a re-issued MODE continues at (R350). -/
  resume : Nat := 0
  /-- The reservation: its 64-byte granule and the tick of the LR. -/
  resv : Option (Nat × Nat) := none
  /-- Receive channels: messages with their handles. -/
  chans : Table (List (W64 × Option Nat)) := []
  wait : Wait := .none
  /-- The tick at which it blocked, and the deadline entry of a SLEEP in the 4-thread and 8-thread configurations. -/
  waitAt : Nat := 0
  sleeping : Bool := false
  block : Option Block := none
  rprog : Option RProg := none
  /-- Line address held in the line buffer, and its 64 bytes. -/
  line : Option (Nat × Bytes) := none
  /-- Lines served from the plan store because all four ways of their set are locked (R280). -/
  served : List (Nat × Bytes) := []
  /-- A fetch miss is being filled. -/
  missing : Bool := false
  /-- The earliest tick at which the next word can issue. -/
  nextAt : Nat := 0
  deriving DecidableEq, Repr, Inhabited

/-! ### Cores and clusters -/

/-- An instruction-cache line (R278). -/
structure ICLine where
  line : Nat
  /-- EPOCH[0] of the code space. -/
  space : Nat
  locked : Bool := false
  /-- Tick of the last use, for replacement. -/
  used : Nat := 0
  data : Bytes
  deriving DecidableEq, Repr, Inhabited

/-- A coprocessor (R378 to R384). -/
structure Copro where
  owner : Option Nat := none
  /-- S0 to S7 or K0 to K15; an unlisted register is 0. -/
  regs : Table W64 := []
  deriving DecidableEq, Repr, Inhabited

/-- An operation on way to the cluster's shared memory or registers: it takes effect at the end of tick `land`, in
ascending core and then thread order (R272, R323). -/
inductive ClKind where
  | store (addr : Nat) (data : Bytes)
  | tas (addr : Nat) (entry : Nat)
  | sc (addr : Nat) (data : Bytes) (entry : Nat)
  /-- A load-reserved reads and reserves. -/
  | srst (n : Nat) (v : W64)
  | sradd (n : Nat) (v : W64) (r : Reg)
  | srswap (n : Nat) (v : W64) (r : Reg)
  deriving DecidableEq, Repr, Inhabited

/-- A `ClKind` with its place in the order. -/
structure ClOp where
  land : Nat
  tid : Nat
  kind : ClKind
  deriving DecidableEq, Repr, Inhabited

/-- A delay-list entry (R325). -/
structure TimerEnt where
  tid : Nat
  tag : Nat
  deadline : Nat
  sleep : Bool := false
  due : Bool := false
  dueAt : Nat := 0
  deriving DecidableEq, Repr, Inhabited

/-- One cluster. -/
structure Cluster where
  ops : List ClOp := []
  shreg : Table W64 := []
  /-- Tick at which CLUSTER_READY set: the list tick counter starts there. -/
  readyAt : Nat := 0
  timers : List TimerEnt := []
  queues : List DispQueue := []
  deriving DecidableEq, Repr, Inhabited

/-! ### Locks and keys -/

/-- A request that waits for a lock (R395 to R399). -/
structure LockWait where
  tid : Nat
  entry : Nat
  since : Nat
  maxWaitUs : Nat := 0
  deriving DecidableEq, Repr, Inhabited

/-- A held lock. -/
structure LockSt where
  holder : Nat
  grantNs : Nat := 0
  grantTick : Nat := 0
  maxHoldUs : Nat := 0
  reported : Bool := false
  waiters : List LockWait := []
  deriving DecidableEq, Repr, Inhabited

/-- A grant that has been decided and whose status is on its way (R398). -/
structure LockGrant where
  lock : Nat
  tid : Nat
  entry : Nat
  status : Nat
  since : Nat
  by_ : Nat
  deriving DecidableEq, Repr, Inhabited

/-- A LOCK word accepted by the lock unit (R397). -/
structure LockOp where
  tick : Nat
  tid : Nat
  entry : Nat
  sub : Nat
  lock : Nat
  off : Nat
  deriving DecidableEq, Repr, Inhabited

/-- A key of the Sealer key table (R388 to R393). -/
structure KeyEnt where
  domain : Nat
  use : Nat
  key : Bytes
  deriving DecidableEq, Repr, Inhabited

/-- Clusters, locks and keys. -/
structure CoreState where
  /-- Tick at which the processor die left reset: core ticks count from it (R293). -/
  base : Nat := 0
  /-- Threads by THREAD_ID. -/
  threads : Table Thread := []
  clusters : Table Cluster := []
  /-- Instruction-cache lines by 512 × (12 × cluster + core) + 4 × set + way. -/
  icache : Table ICLine := []
  /-- Coprocessors by 2 × (12 × cluster + core) + unit. -/
  copros : Table Copro := []
  /-- Epoch whose slot tables are in force, and the switch tick that awaits (R295). -/
  slotEpoch : Nat := 0
  slotSwitchAt : Option Nat := none
  /-- Held locks by number. -/
  locks : Table LockSt := []
  grants : List LockGrant := []
  /-- Operations accepted and not yet applied: they are applied in the order of their slot and then of THREAD_ID. -/
  lockOps : List LockOp := []
  /-- Largest wait before a grant, in slots. -/
  waitMax : Nat := 0
  /-- The 4,096 Sealer keys. -/
  keys : Table KeyEnt := []
  deriving DecidableEq, Repr, Inhabited

end Sys2Proof.Machine
end

