-- ==== Sys2Proof/Config.lean ====
section
/-!
DEFINITION. What an implementation or a unit fixes and the spec leaves open: opaque constants without a body, so
that no proof can see their values. Each is named in the assumption log.
-/

namespace Sys2Proof

/-- UNIT_ID as fused (R554). -/
opaque Config.unitId : BitVec 64
/-- LOADER_VERSION of the resident loader (Table 15-4). -/
opaque Config.loaderVersion : BitVec 32
/-- The fused SHA-384 hash of firmware key 0 or 1 (R554). -/
opaque Config.fwKeyHash : Nat → Bytes
/-- The CURRENT manifest as shipped (R525). -/
opaque Config.factoryManifest : Bytes
/-- Chunk `i` of the firmware image as shipped (R525). -/
opaque Config.factoryChunk : Nat → Bytes
/-- Byte `n` drawn from the random number generator (R560). -/
opaque Config.trngByte : Nat → BitVec 8
/-- The MRAM block of a generation that holds a logbook word; Table 19-11 gives no layout within a generation. -/
opaque Config.logBlock : Nat → Nat
/-- A value that the spec leaves open, by the count of free values drawn before it. -/
opaque Config.freeWord : Nat → BitVec 64

/-- The position in Hod's state cache that holds a buffer's state word, by 2^23 × pool + index (R225). -/
opaque Config.statePos : Nat → Nat

/-- The DETAIL of a failing format check whose table gives none (Table 2-9), by its check code and ENTRY. -/
opaque Config.checkDetail : Nat → Nat → Nat

/-- The index of the order-restore entry that has an order key, as the work slot shows it (Table 10-6). -/
opaque Config.entryIndex : Nat → BitVec 32

/-- The frame length in bytes at which an express stream's latency is computed (R32), by its IDENT entry; the plan
does not state it. -/
opaque Config.expressFrame : Bytes → Nat

/-- The parse nodes that a frame of an express stream visits (R32, Table 1-10), by its IDENT entry; the plan does not
state it. -/
opaque Config.expressHops : Bytes → Nat

/-- Whether the HBM word at a location (its location code and word index packed into a number) holds part of a section
body that the rebuild of a unit, by 256 × L5 + L4, reads from the plan store (R501); the spec gives the plan store no
layout. -/
opaque Config.storeBody : Nat → Nat → Bool

/-- Whether word `w` of a cluster's delay-list memory holds an entry while so many entries are held; the spec gives the
memory no layout (R327, R629). -/
opaque Config.delayWord : Nat → Nat → Bool

/-- What word `w` of a cluster's dispatcher queue memory holds while the item of an order key stands at its head: 1 that
item, 2 queue links, else neither; the spec gives the memory no layout (R312, R629). -/
opaque Config.queueWord : Nat → Nat → BitVec 2

/-- Whether word `w` of the order-restore unit's memory belongs to the entry of an order key; the spec gives the memory
no layout (R629). -/
opaque Config.orderWord : Nat → Nat → Bool

end Sys2Proof
end

