-- ==== Sys2Proof/Machine/StateCtl.lean ====
section
/-!
DEFINITION. The state of the control side as plain data: the time unit, the fault manager, Hawk and the host
interface, the service die (service port, firmware, keys, TRNG, MRAM), power and governor, the logbook, and the
board-facing balls. Field defaults are the values after reset; a default that the spec does not give is named in the
assumption log.
-/

namespace Sys2Proof.Machine

/-! ### Time unit (R101 to R108) -/

/-- The time unit. Device time is held exactly, in units of 2^-43 ns: one beacon tick adds
`5 * (2^40 + FREQ_ADJ)` of them (R101). -/
structure TimeState where
  /-- Device time in units of 2^-43 ns. -/
  t : Nat := 0
  /-- FREQ_ADJ, signed, at most ±549,755,813. -/
  freqAdj : Int := 0
  /-- The part of a slewed correction not yet applied, in units of 2^-43 ns (R102). -/
  slew : Int := 0
  /-- TIME_VALID. -/
  valid : Bool := false
  /-- SYNC_STATE of Table 3-6. -/
  sync : Nat := 0
  /-- Consecutive sync intervals with the offset below LOCK_THRESHOLD_NS. -/
  lockCount : Nat := 0
  /-- OFFSET_NS. -/
  offsetNs : Int := 0
  /-- PPS_IN_TIME in nanoseconds. -/
  ppsIn : Nat := 0
  /-- PPS_IN_SEEN. -/
  ppsInSeen : Bool := false
  /-- Beacon tick of the last accepted PPS_IN edge, plus one; 0 for none. -/
  ppsInTick : Nat := 0
  /-- REF_OUT_OF_TOLERANCE. -/
  refOut : Bool := false
  /-- Whole second of the last PPS_OUT rise. -/
  ppsOutSecond : Nat := 0
  /-- Beacon tick at which PPS_OUT falls again; the ball is high before it. -/
  ppsOutUntil : Nat := 0
  deriving DecidableEq, Repr, Inhabited

/-! ### Error records and the fault manager (R489 to R524) -/

/-- A location code (R12, Table 0-7) without its L7 field, which the device's DEV_ID gives. -/
structure Loc where
  l6 : Nat := 0
  l5 : Nat := 63
  l4 : Nat := 255
  l3 : Nat := 1023
  l2 : Nat := 4095
  l1 : Nat := 1048575
  deriving DecidableEq, Repr, Inhabited

/-- An error record (R490). -/
structure ErrRecord where
  /-- Device time at detection in nanoseconds (0 before READY.TIME). -/
  ns : Nat
  sev : Nat
  cls : Nat
  code : Nat
  loc : Nat
  /-- Bytes 22 to 30. -/
  detail : Bytes
  injected : Bool := false
  queued : Bool := false
  deriving DecidableEq, Repr, Inhabited

/-- The open summary record of the on-die ring (R493). -/
structure Summary where
  ns : Nat
  loc : Nat
  sev : Nat
  lost : Nat
  cls : Nat
  code : Nat
  deriving DecidableEq, Repr, Inhabited

/-- A unit that is recovering (R495). -/
structure Recovery where
  /-- The unit, by L6, L5 and L4. -/
  loc : Loc
  sev : Nat
  cls : Nat
  code : Nat
  /-- Beacon tick at which the recovery began. -/
  since : Nat
  /-- The mailbox whose UNIT_RESTART waits for the end. -/
  mailbox : Option Nat := none
  /-- The READY bit, and whether the CLUSTER_READY bit, that the restart has cleared. -/
  ready : Option Nat := none
  cluster : Bool := false
  deriving DecidableEq, Repr, Inhabited

/-- A fault placed by FAULT_INJECT and not yet found (R522), or an error present in a stored word. -/
structure ErrorMark where
  loc : Loc
  /-- The word index w of R629. -/
  word : Nat
  /-- Wrong bits in the word: 1 corrected, 2 uncorrectable, 3 a parity error. -/
  kind : Nat
  injected : Bool := true
  deriving DecidableEq, Repr, Inhabited

/-- What one side of a paired item has posted (R511). -/
structure PairSide where
  descs : List Bytes := []
  /-- Captured words, each at its packet offset. -/
  words : List (Nat × Bytes) := []
  last : Bool := false
  deriving DecidableEq, Repr, Inhabited

/-- A paired item a comparator holds undecided (R510 to R513). -/
structure PairItem where
  pair : Nat
  /-- The order-restore entry the item completes. -/
  entry : Nat
  epoch : Nat
  handle : Nat
  /-- Cluster of side A, which writes the captured words. -/
  cluster : Nat := 0
  a : PairSide := {}
  b : PairSide := {}
  /-- Beacon tick of the first side's LAST. -/
  firstLast : Option Nat := none
  deriving DecidableEq, Repr, Inhabited

/-- The fault manager, on the processor die. -/
structure FaultState where
  /-- The closed records of the on-die ring, oldest first (R492). -/
  ring : List ErrRecord := []
  /-- The open summary, always the newest record held. -/
  summary : Option Summary := none
  /-- OVERFLOW. -/
  overflow : Nat := 0
  /-- Table 17-8 counters by offset. -/
  counters : Table Nat := []
  recovering : List Recovery := []
  /-- S2 records per unit with their ticks, for the repetition rule (R498). -/
  s2Log : List (Loc × Nat) := []
  /-- Unit restarts with their ticks (R498). -/
  restartLog : List (Loc × Nat) := []
  marks : List ErrorMark := []
  /-- Faults of kinds 4, 6, 7 and 8 that FAULT_INJECT has placed and that have not yet been met: kind, L5, L4. -/
  planted : List (Nat × Nat × Nat) := []
  /-- Comparators and spares (0 to 33) that have failed (R516, R517). -/
  cmpFailed : List Nat := []
  /-- Comparator numbers that failed and have not been replaced, with the tick and the device time in ns of the failure. -/
  cmpWaiting : List (Nat × Nat × Nat) := []
  /-- Which comparator serves each number: listed only after a replacement; 0xFF for failed without a spare. -/
  cmpServer : Table Nat := []
  /-- Spares in use. -/
  sparesUsed : List Nat := []
  noSpare : Bool := false
  /-- Pairs whose next decision meets an injected digest flip (kind 5). -/
  digestFlips : List Nat := []
  pairItems : List PairItem := []
  /-- A DEVICE restart that is decided and not yet carried out: class, code, location. -/
  trigger : Option (Nat × Nat × Nat) := none
  /-- Beacon tick at which DEVICE_RESTART begins (Table 17-7). -/
  commandRestartAt : Option Nat := none
  deriving DecidableEq, Repr, Inhabited

/-! ### Hawk and the host interface (R435 to R466) -/

/-- Control registers of one host ring (Table 15-12). -/
structure RingCtl where
  base : Nat := 0
  log2 : Nat := 0
  slotUnits : Nat := 0
  enabled : Bool := false
  head : Nat := 0
  tail : Nat := 0
  mirror : Nat := 0
  /-- Copies dropped since the last one written (R458). -/
  dropsBefore : Nat := 0
  deriving DecidableEq, Repr, Inhabited

/-- A transmit descriptor that the device has read and not yet accepted (R459, R460). -/
structure TxPending where
  desc : Bytes
  /-- The buffer that Hod granted. -/
  handle : Option Nat := none
  deriving DecidableEq, Repr, Inhabited

/-- A completed command's result before and after it becomes visible (Table 15-8). -/
structure Reply where
  status : Nat := 0
  data : Bytes := []
  cursor : Nat := 0
  indDone : Nat := 0
  deriving DecidableEq, Repr, Inhabited

/-- One mailbox (Tables 15-6 to 15-8). -/
structure Mailbox where
  /-- Command area, 256 bytes (empty for all zero). -/
  area : Bytes := []
  /-- The last value written to MB_DOORBELL. -/
  doorbell : Nat := 0
  run : Bool := false
  queued : Bool := false
  overrun : Bool := false
  runSeq : Nat := 0
  /-- The copy of the command area that Hawk executes. -/
  copied : Bytes := []
  /-- A completed command's result that is not yet visible. -/
  reply : Option Reply := none
  /-- The result area: SEQ, STATE and READ_COUNT with the visible result. -/
  resSeq : Nat := 0
  resDone : Bool := false
  readCount : Nat := 0
  res : Reply := {}
  /-- READY_WAIT in progress: mask and the tick of its timeout. -/
  wait : Option (Nat × Nat) := none
  deriving DecidableEq, Repr, Inhabited

/-- Hawk and the PCIe endpoint. -/
structure HostState where
  /-- HAWK_STATE: 0 RESET, 1 RUNNING, 2 RESTARTING. -/
  hawkState : Nat := 0
  hawkRestarts : Nat := 0
  /-- A Hawk restart that waits for an armed epoch instant (R463). -/
  hawkDeferred : Bool := false
  clusterReady : Nat := 0
  readyChanged : Nat := 0
  intStatus : Nat := 0
  intEnable : Nat := 0
  winFault : Bool := false
  winFaultStatus : Nat := 0
  winFaultAddr : Nat := 0
  winFaults : Nat := 0
  violationCount : Nat := 0
  violationOffset : Nat := 0
  /-- The MSI-X table by 4-byte word; vector control word n is word 4 n + 3, and an unlisted one reads 0. -/
  msix : Table Nat := []
  /-- MSI-X pending bits. -/
  pba : Nat := 0
  busMaster : Bool := false
  linkUp : Bool := false
  mailboxes : Table Mailbox := []
  rx : Table RingCtl := []
  tx : Table RingCtl := []
  txPending : Table TxPending := []
  err : RingCtl := {}
  /-- Tables 15-17 and 15-18 by address offset from 0x13_0A00_0000. -/
  counters : Table Nat := []
  /-- Host memory as the device has written it, by bus address. -/
  mem : Memory := []
  /-- Data of the last read completion that the endpoint returned. -/
  readData : Bytes := []
  deriving DecidableEq, Repr, Inhabited

/-- Registers of BAR0 that a DEVICE restart keeps (Tables 15-4, 0-5; R507). -/
structure HostKept where
  lockdownWritten : Bool := false
  lockdown : Bool := false
  writeViolation : Bool := false
  mbRights : Table Nat := []
  /-- WIN_READ, WIN_WRITE and WIN_BASE of each BAR2 window, as the register's 64 bits. -/
  windows : Table Nat := []
  hostWin : Nat := 0
  deriving DecidableEq, Repr, Inhabited

/-! ### Service die (R525 to R564) -/

/-- The states of an update session (Table 18-4). -/
inductive SessState where
  | listen
  | opened
  | manifest
  | transfer
  | done
  deriving DecidableEq, Repr, Inhabited

/-- The states of an image chunk in a session (Table 18-3, CHUNK_STATE). -/
inductive ChunkSt where
  | empty
  | receiving
  | writing
  | written
  | bad
  deriving DecidableEq, Repr, Inhabited

/-- A chunk that has received blocks. -/
structure ChunkRx where
  received : Nat := 0
  blocks : Table Bytes := []
  deriving DecidableEq, Repr, Inhabited

/-- The update session (R536 to R542). -/
structure Session where
  st : SessState := .listen
  id : Nat := 0
  peerAddr : Bytes := []
  peerPort : Nat := 0
  /-- SEQ of the last request answered, and the answer. -/
  lastSeq : Option Nat := none
  lastReply : Bytes := []
  /-- Beacon tick of the last accepted message. -/
  lastTick : Nat := 0
  /-- The manifest as reassembled (R538). -/
  manifest : Bytes := []
  chunks : Table ChunkSt := []
  rx : Table ChunkRx := []
  /-- FINISH waits for the last chunk's write: its SEQ (R542). -/
  finishSeq : Option Nat := none
  /-- Both enables have lapsed and the chunk being written is awaited (R534). -/
  closing : Bool := false
  deriving DecidableEq, Repr, Inhabited

/-- The states of Table 18-7. -/
inductive FwState where
  | idle
  | writing
  | written
  | trial
  | restoring
  deriving DecidableEq, Repr, Inhabited

/-- One chunk record of the rollback journal (R545). -/
structure JournalRec where
  chunk : Nat
  slot : Nat
  oldDigest : Bytes
  done : Bool
  deriving DecidableEq, Repr, Inhabited

/-- The states of a plan-signing key slot (R555). -/
inductive KeySlot where
  | empty
  | written (key : Bytes)
  | revoked
  deriving DecidableEq, Repr, Inhabited

/-- The states of the random number generator (R561). -/
inductive TrngState where
  | collecting
  | ready
  | failed
  deriving DecidableEq, Repr, Inhabited

/-- The service die: MRAM wear, service port, firmware, keys and fuses, random numbers. -/
structure SvcState where
  /-- The service die is out of reset (step 1 of Table 19-6). -/
  running : Bool := false
  /-- DEV_ID[1:0] at the strap balls and as sampled (R601). -/
  devIdStrap : Nat := 0
  devId : Nat := 0
  /-- MRAM blocks retired to a spare or donor, by block. -/
  retired : Table Nat := []
  sparesLeft : Nat := 1312
  donated : List Nat := []
  slotsDonated : Nat := 0
  /-- Blocks of the last journal slot taken that are still free donors (R529). -/
  donorPool : Nat := 0
  /-- Blocks with an uncorrectable word (R530). -/
  unreadable : List Nat := []
  /-- CURRENT failed verification and the processor die is held (R548). -/
  imageBad : Bool := false
  wearStage : Nat := 0
  /-- Beacon tick of the last MRAM_CORRECTED record per block, plus one (R528). -/
  correctedAt : Table Nat := []
  /-- The image region by 64 KiB chunk, and the journal's chunk slots. -/
  image : Table Bytes := []
  slots : Table Bytes := []
  journal : List JournalRec := []
  fw : FwState := .idle
  current : Bytes := Config.factoryManifest
  pending : Bytes := []
  /-- The first Hawk start of a TRIAL is still to come (Table 18-7). -/
  trialFirst : Bool := false
  /-- The activation's Hawk start has set READY.MAILBOX: tick by which health must be confirmed. -/
  healthBy : Option Nat := none
  fallbackReason : Nat := 0
  /-- The image that the last Hawk start ran was PENDING. -/
  runningPending : Bool := false
  minFwVersion : Nat := 0
  session : Session := {}
  svcEn : Bool := false
  /-- Tick at which the host enable lapses. -/
  hostEnableUntil : Option Nat := none
  drops : Nat := 0
  fwKeyRevoked : List Nat := []
  planSigFuse : Bool := false
  keySlots : Table KeySlot := []
  keks : Table Bytes := []
  trng : TrngState := .collecting
  trngFails : Nat := 0
  /-- Position of the next free value drawn from the DRBG. -/
  trngPos : Nat := 0
  /-- Records waiting for the processor die (R563). -/
  queue : List ErrRecord := []
  queueSummary : Option Summary := none
  queueLost : Nat := 0
  /-- FAULT_N asserted (R518). -/
  faultN : Bool := false
  /-- End of the 10 s latch after a DEVICE restart (R519). -/
  restartHoldUntil : Option Nat := none
  deviceRestarts : Nat := 0
  lastClass : Nat := 0
  lastCode : Nat := 0
  lastLoc : Nat := 0
  deriving DecidableEq, Repr, Inhabited

/-! ### Power, governor and resets (R565 to R584) -/

/-- Plumb's state for one cluster (R571 to R575, Table 19-4). -/
structure Plumb where
  /-- Set-point code k: 0.66 V + 2.5 mV × k; 0.80 V is 56. -/
  vcode : Nat := 56
  count : Nat := 0
  delay : Nat := 0
  margin : Int := 0
  marginLow : Bool := false
  sensorLost : Bool := false
  /-- Tick of the last SLOT_MARGIN_LOW record, plus one. -/
  lastRecord : Nat := 0
  rate : Nat := 0
  temp : Int := 0
  events : Nat := 0
  vmaxUs : Nat := 0
  /-- It has had a reading in its target band, or met a clamp (R575). -/
  settled : Bool := false
  deriving DecidableEq, Repr, Inhabited

/-- Power stage, input monitor, temperatures and reset pins. -/
structure PowerState where
  vinValid : Bool := false
  /-- Groups of Table 19-2 in regulation. -/
  group1 : Bool := false
  group2 : Bool := false
  group3 : Bool := false
  /-- Ticks of RAIL_FAULT within the last 60 s, and rails held off (R569). -/
  railFaults : List Nat := []
  railsHeldOff : Bool := false
  vinMv : Nat := 0
  iinMa : Nat := 0
  lowRun : Nat := 0
  lowClear : Nat := 0
  highRun : Nat := 0
  highClear : Nat := 0
  vinLow : Bool := false
  vinHigh : Bool := false
  tempHigh : Bool := false
  tempOver : Bool := false
  tjMax : Int := 0
  tempSvc : Int := 0
  tempStage : Int := 0
  vengMv : Nat := 0
  /-- Input energy in nanojoules since the last reset of the block, and since the last whole joule. -/
  energyNj : Nat := 0
  jouleNj : Nat := 0
  plumb : Table Plumb := []
  /-- SMBus ALERT asserted (R578). -/
  alert : Bool := false
  pfailLow : Bool := false
  resetLow : Bool := false
  testEn : Bool := false
  /-- The processor die is out of reset, and the tick its 10 ms hold began otherwise. -/
  dieOut : Bool := false
  holdFrom : Nat := 0
  /-- A 10 ms hold has begun and the die has not been released since. -/
  holding : Bool := false
  cleanMarker : Bool := true
  lastLossUnclean : Bool := false
  /-- On-die memories are initialised (step 9), and the endpoint answers (step 10). -/
  memInit : Bool := false
  endpointUp : Bool := false
  /-- A DEVICE restart has happened whose record the on-die ring is to hold at release (R507). -/
  restartRecord : Bool := false
  /-- The loader has verified the image since the last processor-die reset. -/
  loaderOk : Bool := false
  deriving DecidableEq, Repr, Inhabited

/-! ### Logbook (R586 to R593) -/

/-- A logbook word (Table 19-8). -/
structure LogWord where
  value : Nat := 0
  sat : Bool := false
  lost : Bool := false
  deriving DecidableEq, Repr, Inhabited

/-- One entry of the event log (R591). -/
structure LogEvent where
  record : ErrRecord
  stamp : Nat
  deriving DecidableEq, Repr, Inhabited

/-- A delta record in MRAM (R588). -/
structure LogDelta where
  seq : Nat
  words : List (Nat × Nat)
  /-- More words had changed than the record carries. -/
  short : Bool := false
  deriving DecidableEq, Repr, Inhabited

/-- A generation in MRAM (R588). -/
structure LogGen where
  seq : Nat
  stamp : Nat
  words : Table LogWord
  deriving DecidableEq, Repr, Inhabited

/-- The logbook. Word IDs 0 to 0x1_3FFF are those of Table 19-9; histogram bins follow. -/
structure LogState where
  words : Table LogWord := []
  /-- Changes since the last write to MRAM. -/
  dirty : Table Nat := []
  genA : Option LogGen := none
  genB : Option LogGen := none
  deltas : List LogDelta := []
  nextSeq : Nat := 1
  secondsSinceGen : Nat := 0
  events : List LogEvent := []
  /-- Lifetime index of the next entry, and of the oldest held. -/
  eventNext : Nat := 0
  eventFirst : Nat := 0
  /-- Entries written in the current second. -/
  eventsThisSecond : Nat := 0
  writingStopped : Bool := false
  deltaLost : Bool := false
  mounted : Bool := false
  deriving DecidableEq, Repr, Inhabited

/-! ### Balls, GPIO and JTAG (R594 to R613) -/

/-- The instructions of the TAP (Table 20-11). -/
inductive TapIr where
  | extest
  | sample
  | idcode
  | highz
  | clamp
  | extestPulse
  | extestTrain
  | bypass
  deriving DecidableEq, Repr, Inhabited

/-- GPIO registers and the TAP. -/
structure PkgState where
  gpioIn : Nat := 0
  gpioDir : Nat := 0
  gpioOut : Nat := 0
  gpioOd : Nat := 0
  gpioChanged : Nat := 0
  /-- Levels the board applies to the GPIO balls. -/
  gpioBoard : Nat := 0
  ir : TapIr := .idcode
  /-- The 1,211 cells of the boundary register, cell 0 in bit 0. -/
  boundary : Nat := 0
  /-- Levels held on covered outputs by EXTEST, CLAMP or pulse and train modes. -/
  driven : Option Nat := none
  deriving DecidableEq, Repr, Inhabited

/-- What leaves the device, as its environment sees it. -/
inductive Output where
  /-- A frame at a port's output balls. -/
  | frame (port : Nat) (bytes : Bytes)
  /-- A preemptable fragment at a port's output balls. -/
  | fragment (port : Nat) (bytes : Bytes) (final : Bool)
  /-- A frame or fragment cut off at a port's output balls (R85, R505). -/
  | cut (port : Nat)
  /-- A verify or respond mPacket at a port's output balls (R87). -/
  | verify (port : Nat) (respond : Bool)
  /-- An MSI-X message of a vector. -/
  | msix (vector : Nat)
  /-- A frame of the service port. -/
  | service (bytes : Bytes)
  /-- An update datagram of the service port: destination address and port, payload. -/
  | datagram (addr : Bytes) (port : Nat) (payload : Bytes)
  /-- A span message of a link: type code and bytes. -/
  | span (link : Nat) (kind : Nat) (bytes : Bytes)
  /-- The PPS_OUT ball rises. -/
  | pps
  /-- An SMBus word, or a refusal of the transfer. -/
  | smbusWord (w : Nat)
  | smbusNack
  /-- Serial data captured for shifting out of the TAP. -/
  | tap (width : Nat) (value : Nat)
  deriving DecidableEq, Repr, Inhabited

end Sys2Proof.Machine
end

