-- ==== Sys2Proof/Machine/StateMem.lean ====
section
/-!
DEFINITION. The state of the table engine, the HBM controller and the span unit as plain data (chapters "Forwarding
tables and learning", "Memory subsystem" and "Span links and multi-device boards").
-/

namespace Sys2Proof.Machine

/-! ### Table engine (R165 to R205) -/

/-- A line of the lookaside cache (R177): a copy of one HBM entry. -/
structure CacheLine where
  set : Nat
  /-- Way 0 to 7 of the set. -/
  way : Nat := 0
  /-- Bucket × 2 + position. -/
  loc : Nat
  data : Bytes
  /-- Tick of its fill, for the 1 ms residency, and of its last use. -/
  filled : Nat
  used : Nat
  deriving DecidableEq, Repr, Inhabited

/-- A learning request (R179, R197). -/
structure LearnReq where
  /-- Entry bytes 0 to 18. -/
  key : Bytes
  port : Nat
  /-- The link of a peer's message. -/
  link : Option Nat := none
  deriving DecidableEq, Repr, Inhabited

/-- Who runs a routine (R191, R194). -/
inductive RoutineHolder where
  /-- The periodic pass. -/
  | engine
  | mailbox (n : Nat)
  /-- A thread, with its scoreboard entry. -/
  | thread (tid entry : Nat)
  /-- The flush of a span link that went down (R475). -/
  | span (link : Nat)
  deriving DecidableEq, Repr, Inhabited

/-- A routine in progress (R186, R194): an ageing pass, or FLUSH_BY_PORT with its command record. -/
structure Routine where
  pass : Bool
  cmd : Bytes := []
  holders : List RoutineHolder
  /-- The bucket it started at, and the first bucket not yet processed. -/
  start : Nat := 0
  next : Nat := 0
  count : Nat := 0
  revoked : Bool := false
  /-- A pass recounts O_d and the valid entries as it goes (R205). -/
  seen : Table Nat := []
  seenAll : Nat := 0
  deriving DecidableEq, Repr, Inhabited

/-- The table engine. Entries of the HBM table lie in HBM, and those of the pinned table in the plan. -/
structure TableState where
  cache : List CacheLine := []
  learn : List LearnReq := []
  learnMax : Nat := 0
  /-- Insertions by learning in the present 1 ms period, per domain, and the period's start tick. -/
  rate : Table Nat := []
  rateFrom : Nat := 0
  /-- O_d, and the valid HBM entries. -/
  held : Table Nat := []
  occupancy : Nat := 0
  ageClock : Nat := 0
  /-- Ticks at which the age clock last advanced and at which the last periodic pass fell due. -/
  ageAt : Nat := 0
  sweepAt : Nat := 0
  /-- Starts of passes that wait for the running pass to end (R186). -/
  passWait : List RoutineHolder := []
  routines : List Routine := []
  /-- The HBM seeds, once fixed, and whether they were drawn (R201). -/
  seeds : Option (List Bytes) := none
  drawn : Bool := false
  /-- Configured entries by location (bucket × 2 + position): the record that the plan store holds there. -/
  conf : Table Bytes := []
  /-- Locations that a commit has marked OLD or NEW, for cleanup. -/
  marked : List Nat := []
  /-- Entries that failed parity and await their repair, by location (R189). -/
  repairs : List Nat := []
  /-- Pinned entries that await their rewrite (R190). -/
  pinnedBad : List Nat := []
  /-- Link flushes that wait for a routine to end (R475): link and domain. -/
  flushes : List (Nat × Nat) := []
  deriving DecidableEq, Repr, Inhabited

/-! ### HBM (R406 to R434) -/

/-- What a queued HBM request is for. -/
inductive HbmFor where
  /-- A thread's scoreboard entry. -/
  | load (tid entry : Nat)
  /-- A load-reserved, and a store-conditional, of a thread's scoreboard entry (R369, R370). -/
  | lr (tid entry : Nat)
  | sc (tid entry : Nat)
  /-- A thread's posted store, by its sequence number. -/
  | store (tid seq : Nat)
  | scrub
  | writeback
  deriving DecidableEq, Repr, Inhabited

/-- A request that waits in the controller (R410 to R412). -/
structure HbmReq where
  port : Nat
  source : Nat
  /-- First byte, and the bytes to write; none to read `n` bytes. All lie in one line. -/
  addr : Nat
  n : Nat
  write : Option Bytes := none
  accepted : Nat
  use : HbmFor
  /-- Activated, and not yet done. -/
  active : Bool := false
  deriving DecidableEq, Repr, Inhabited

/-- A throttled source (R419): port, source, pseudo-channel and bank. -/
structure Throttle where
  port : Nat
  source : Nat
  pc : Nat
  bank : Nat
  last : Nat := 0
  deriving DecidableEq, Repr, Inhabited

/-- An HBM stack (R427 to R430). -/
structure StackSt where
  /-- 0 UNTRAINED, 1 TRAINING, 2 READY, 3 FAILED. -/
  st : Nat := 0
  /-- The training step in progress, 1 to 5. -/
  step : Nat := 0
  attempts : Nat := 0
  temp : Int := 0
  fast : Bool := false
  marginLow : Bool := false
  lanes : Nat := 0
  readyNs : Nat := 0
  /-- The training records of pseudo-channels 0 to 31 (Table 14-7), as last measured. -/
  report : Bytes := []
  /-- The mailbox whose HBM_RETRAIN waits for the end. -/
  mailbox : Option Nat := none
  deriving DecidableEq, Repr, Inhabited

/-- The HBM controller. -/
structure HbmState where
  stackSet : Table StackSt := []
  waiting : List HbmReq := []
  /-- Activations per row in the window, by (32 × pseudo-channel + bank) × 16384 + row. -/
  rows : Table Nat := []
  throttles : List Throttle := []
  /-- Rows that await a targeted refresh: pseudo-channel, bank, row. -/
  targeted : List (Nat × Nat × Nat) := []
  windowFrom : Nat := 0
  /-- Refreshes done in the window, by 32 × pseudo-channel + bank. -/
  refreshed : Table Nat := []
  postponed : Table Nat := []
  scrubAt : Nat := 0
  scrubHours : Nat := 24
  /-- Tick of each pseudo-channel's last tracking step, and of its last HBM_MARGIN_LOW record plus one. -/
  tracked : Table Nat := []
  marginAt : Table Nat := []
  deriving DecidableEq, Repr, Inhabited

/-! ### Span links (R467 to R488) -/

/-- Who waits for a window read (R475, R481). -/
inductive SpanWho where
  | thread (tid entry part : Nat)
  /-- A transfer of BAR2 or of a mailbox command, by its number. -/
  | xfer (id : Nat)
  /-- Nobody any more: the thread has been restarted. -/
  | nobody
  deriving DecidableEq, Repr, Inhabited

/-- An outstanding window read: TAG, and who waits for its bytes. -/
structure SpanRead where
  tag : Nat
  who : SpanWho
  /-- Bytes requested. -/
  n : Nat
  deriving DecidableEq, Repr, Inhabited

/-- A span link. -/
structure SpanLink where
  /-- 0 DISABLED, 1 TRAINING, 2 JOINING, 3 QUARANTINE, 4 JOINED, 5 TIME_HOLD. -/
  st : Nat := 0
  reason : Nat := 0
  changeNs : Nat := 0
  /-- INBOUND_VIOLATION holds until SPAN_REJOIN or a new join. -/
  violation : Bool := false
  /-- SEQ of the next flit to send; the replay buffer, oldest first; SEQ of the next flit to accept. -/
  txSeq : Nat := 0
  replay : List Bytes := []
  rxSeq : Nat := 0
  retry : Bool := false
  /-- Times in succession that one SEQ was replayed. -/
  replayed : Nat := 0
  /-- Flits formed and not yet sent, because 128 are unacknowledged. -/
  queue : List Bytes := []
  /-- Credits held and credits to return, per VC. -/
  credits : Table Nat := []
  returns : Table Nat := []
  /-- Messages in assembly per VC (4 for CONTROL), and whole messages received and not yet handled. -/
  partials : Table Bytes := []
  /-- Each with the device time of its last flit, in nanoseconds, and its length in flits. -/
  rx : List (Nat × Nat × Bytes) := []
  reads : List SpanRead := []
  /-- Messages that wait on VC0 for credits, or for one of the 256 places for reads: a window read with who waits for it,
  and the message. -/
  wait0 : List (Option SpanRead × Bytes) := []
  nextTag : Nat := 0
  /-- Sequenced flits formed, and of these acknowledged, since FEC lock. -/
  formed : Nat := 0
  acked : Nat := 0
  /-- Copies that wait on VC3, oldest first, and handles of copies sent and not acknowledged, with the number of their
  last flit among those formed. -/
  packets : List AdmitItem := []
  unacked : List (Nat × Nat) := []
  peerSeen : Bool := false
  sentSeen : Bool := false
  /-- The last STATE received. -/
  peer : Bytes := []
  lastFlit : Nat := 0
  lastState : Nat := 0
  stateSentAt : Nat := 0
  /-- TIME_SYNC: SEQ of the last request and T1, and the tick it was sent. -/
  syncSeq : Nat := 0
  syncT1 : Nat := 0
  syncAt : Nat := 0
  offset : Int := 0
  offsetMax : Nat := 0
  good : Nat := 0
  deriving DecidableEq, Repr, Inhabited

/-- Who asked for a transfer through a peer window. -/
inductive XferFor where
  | bar2
  /-- MEM_READ on a mailbox, with its indirect buffer. -/
  | mailbox (n : Nat) (ind : Option Nat)
  deriving DecidableEq, Repr, Inhabited

/-- A read of a peer window by BAR2 or a mailbox command: its requests follow one another. -/
structure Xfer where
  id : Nat
  who : XferFor
  link : Nat
  /-- Offset in the peer's map, its length, and the bytes received. -/
  off : Nat
  n : Nat
  data : Bytes := []
  deriving DecidableEq, Repr, Inhabited

/-- The span unit. -/
structure SpanState where
  links : Table SpanLink := []
  xfers : List Xfer := []
  nextXfer : Nat := 0
  /-- Messages for the Hawk firmware that have been received: link and body. -/
  hawkMsgs : List (Nat × Bytes) := []
  deriving DecidableEq, Repr, Inhabited

end Sys2Proof.Machine
end

