-- ==== Sys2Proof/Machine/StatePlan.lean ====
section
/-!
DEFINITION. The plan's state as plain data (R36 to R74): section bodies, the plans of the live epochs, the staging
session and a commit in progress.
-/

namespace Sys2Proof.Machine

/-- A section body: its length and its bytes that are not zero (R37). -/
structure Sec where
  len : Nat := 0
  mem : Memory := []
  deriving DecidableEq, Repr, Inhabited

/-- A plan of a live epoch, as the plan store holds it (R43). -/
structure PlanCopy where
  epoch : Nat
  /-- The complete body of every section present, by TYPE_ID. -/
  secs : Table Sec
  /-- MAX_RESIDENCE in microseconds. -/
  maxRes : Nat
  serial : Nat
  digest : Bytes
  /-- The board digest (R41). -/
  board : Bytes
  randomSeeds : Bool
  deriving DecidableEq, Repr, Inhabited

/-- The staging states of Table 2-8. -/
inductive StageState where
  | empty
  | loading
  | loaded
  | checked
  | committing
  deriving DecidableEq, Repr, Inhabited

/-- The staging session (R47 to R51). -/
structure Staging where
  st : StageState := .empty
  owner : Option Nat := none
  /-- IMAGE_SIZE given at PLAN_STAGE_BEGIN. -/
  size : Nat := 0
  /-- The staged bytes by image offset. -/
  image : Memory := []
  /-- Sections that a PARTIAL commit has taken whole, and leading patch records it has taken (R66). -/
  doneSecs : List Nat := []
  doneRecs : Table Nat := []
  /-- The digest of the plan that the last PARTIAL commit produced (R66). -/
  rebase : Option Bytes := none
  /-- The epoch in force at the last PLAN_CHECK that passed. -/
  checkedAt : Option Nat := none
  /-- PREP_BOUND_US of the last passing check. -/
  prepBound : Nat := 0
  deriving DecidableEq, Repr, Inhabited

/-- The step of R58 that a commit has reached. -/
inductive CommitStep where
  | checking
  | entropy
  /-- Preparation waits for the old epoch's retirement (R187). -/
  | waiting
  | preparing
  | prepared
  | armed
  deriving DecidableEq, Repr, Inhabited

/-- What a PARTIAL commit selects (R66). -/
structure CommitSel where
  mask : Nat
  limitSection : Nat
  limitCount : Nat
  deriving DecidableEq, Repr, Inhabited

/-- A PREPARED message held (R72). -/
structure PreparedMsg where
  dev : Nat
  digest : Bytes
  epoch : Nat
  atTime : Nat
  deriving DecidableEq, Repr, Inhabited

/-- A commit in COMMITTING (R58). -/
structure Commit where
  mailbox : Nat
  step : CommitStep
  fromState : StageState
  sel : Option CommitSel := none
  /-- AT_TIME in nanoseconds. -/
  atTime : Option Nat := none
  group : Bool := false
  groupMask : Nat := 0
  /-- The plan that results, with the check report's 32 bytes. -/
  plan : Option PlanCopy := none
  report : Bytes := []
  /-- HBM buckets that the commit writes. -/
  buckets : Nat := 0
  /-- PREP_BOUND_US, and the beacon tick at which preparation began and ended. -/
  prepBound : Nat := 0
  prepFrom : Nat := 0
  prepEnd : Nat := 0
  /-- The beacon tick before which the instant cannot be (the latest of (a) and (c)). -/
  notBefore : Nat := 0
  /-- Whether the preparation has written versions of configured entries. -/
  wrote : Bool := false
  /-- Whether the new epoch's locked lines are in the instruction caches (R281). -/
  linesIn : Bool := false
  /-- Peers that have acknowledged our PREPARED on VC1. -/
  acks : List Nat := []
  abortSeen : Bool := false
  deriving DecidableEq, Repr, Inhabited

/-- Plans and staging. -/
structure PlanState where
  staging : Staging := {}
  commit : Option Commit := none
  /-- The epoch in force, 0 while no plan is. -/
  epoch : Nat := 0
  cur : Option PlanCopy := none
  /-- The old epoch's plan, the tick it retires at and RETIRE_AT in nanoseconds. -/
  old : Option PlanCopy := none
  retireTick : Nat := 0
  retireNs : Nat := 0
  /-- The instant of the epoch in force: device time, its fraction, and the beacon tick. -/
  instNs : Nat := 0
  instFrac : Nat := 0
  instTick : Nat := 0
  ageDrops : Nat := 0
  /-- PREPARED messages held, the latest of each peer (R72). -/
  prepared : List PreparedMsg := []
  /-- The commit that a Hawk restart has cut off: its mailbox and its result, and whether its versions of configured
  entries are still to be released (R65, R68). -/
  cut : Option (Nat × Bytes) := none
  undo : Bool := false
  deriving DecidableEq, Repr, Inhabited

/-! ### Reading section bodies -/

/-- Byte `i` of a section body. -/
def Sec.byte (x : Sec) (i : Nat) : Nat := (memGet x.mem i).toNat

/-- The little-endian field of `n` bytes at `off` of a section body. -/
def Sec.le (x : Sec) (off n : Nat) : Nat := leVal (memRead x.mem off n)

/-- The cells of `m` in `[off, off + n)`, moved to start at address 0. -/
def memSub (m : Memory) (off n : Nat) : Memory :=
  (m.filter (fun c => decide (off ≤ c.1) && decide (c.1 < off + n))).map (fun c => (c.1 - off, c.2))

/-- `n` bytes of a memory from `off`, walking the memory once. -/
def memBytes (m : Memory) (off n : Nat) : Bytes :=
  let rec go (cs : Memory) (a : Nat) : Nat → Bytes
    | 0 => []
    | k + 1 =>
      match cs with
      | [] => List.replicate (k + 1) 0
      | (j, v) :: r => if j = a then v :: go r (a + 1) k else 0 :: go ((j, v) :: r) (a + 1) k
  go (m.filter (fun c => decide (off ≤ c.1) && decide (c.1 < off + n))) off n

/-- All bytes of a section body. -/
def Sec.bytes (x : Sec) : Bytes := memBytes x.mem 0 x.len

/-- Whether the bytes `[off, off + n)` of a section body are all zero. -/
def Sec.zeroIn (x : Sec) (off n : Nat) : Bool := x.mem.all (fun c => decide (c.1 < off) || decide (off + n ≤ c.1))

/-- A section body whose bytes are `b`. -/
def Sec.ofBytes (b : Bytes) : Sec := { len := b.length, mem := memWrite [] 0 b }

/-- Preamble size of a section type, by its owning chapter (R37). -/
def secPre (t : Nat) : Nat :=
  match t with
  | 0x03 => 256 | 0x04 => 64 | 0x05 => 3200 | 0x06 => 3904 | 0x07 => 64 | 0x09 => 576 | 0x0A => 64 | 0x12 => 64
  | _ => 0

/-- Entry size of a section type, by its owning chapter (R622). -/
def secSize (t : Nat) : Nat :=
  match t with
  | 0x01 => 64 | 0x02 => 64 | 0x03 => 64 | 0x04 => 8 | 0x05 => 192 | 0x06 => 160 | 0x07 => 64 | 0x08 => 32
  | 0x09 => 32 | 0x0A => 32 | 0x0B => 64 | 0x0C => 64 | 0x0D => 128 | 0x0E => 64 | 0x0F => 64 | 0x10 => 32
  | 0x11 => 32 | 0x12 => 16 | 0x13 => 64 | 0x14 => 32 | 0x15 => 128 | _ => 64

/-- Number of entries of a section body. -/
def Sec.count (t : Nat) (x : Sec) : Nat := (x.len - secPre t) / secSize t

/-- Offset of entry `i` in a body of type `t`. -/
def entOff (t i : Nat) : Nat := secPre t + i * secSize t

/-- The bytes of entry `i` of a section of type `t`. -/
def Sec.entry (t : Nat) (x : Sec) (i : Nat) : Bytes := memBytes x.mem (entOff t i) (secSize t)

/-- The bytes of the preamble of a section of type `t`. -/
def Sec.preamble (t : Nat) (x : Sec) : Bytes := memBytes x.mem 0 (secPre t)

/-- The numbers in rising order, each once, of a rising list. -/
def dedupRising : List Nat → List Nat
  | [] => []
  | a :: r =>
    match dedupRising r with
    | [] => [a]
    | b :: t => if a = b then b :: t else a :: b :: t

/-- Indices of the entries that are not all zero, in rising order. -/
def Sec.used (t : Nat) (x : Sec) : List Nat :=
  dedupRising ((x.mem.filter (fun c => decide (secPre t ≤ c.1) && decide (c.1 < x.len))).map (fun c => (c.1 - secPre t) / secSize t))

/-- The used entries of a section with their indices. -/
def Sec.entries (t : Nat) (x : Sec) : List (Nat × Bytes) := (x.used t).map (fun i => (i, x.entry t i))

/-- The entries whose first byte is `k`, in order, with their section indices: an entry's number among its kind is
its position here. -/
def Sec.kind (t k : Nat) (x : Sec) : List (Nat × Bytes) := (x.entries t).filter (fun e => byteAt e.2 0 == k)

/-- Section `t` of a plan; empty when it is absent. -/
def PlanCopy.sec (p : PlanCopy) (t : Nat) : Sec := tblGet {} p.secs t

/-- Whether a plan has section `t`. -/
def PlanCopy.has (p : PlanCopy) (t : Nat) : Bool := (tblFind p.secs t).isSome

/-- No plan: every section absent. -/
def PlanCopy.none : PlanCopy :=
  { epoch := 0, secs := [], maxRes := 0, serial := 0, digest := zeros 48, board := zeros 48, randomSeeds := false }

/-- The plan in force. -/
def PlanState.now (p : PlanState) : PlanCopy := p.cur.getD PlanCopy.none

/-- The plan of a live epoch: the one in force unless the epoch is the old one's. -/
def PlanState.of (p : PlanState) (e : Nat) : PlanCopy :=
  match p.old with
  | some o => if o.epoch = e then o else p.now
  | none => p.now

/-- A failed check (Table 2-9, R55). -/
structure CheckFail where
  status : Nat := 8
  code : Nat
  section_ : Nat := 0
  entry : Nat := 0xFFFFFFFF
  detail : Nat := 0
  deriving DecidableEq, Repr, Inhabited

/-- The first failure of a list of checks (R52). -/
def firstFail : List (Option CheckFail) → Option CheckFail
  | [] => none
  | some f :: _ => some f
  | none :: r => firstFail r

/-- A format check of a section that concerns no single entry; DETAIL is open where the check's table gives none. -/
def failAll (t n : Nat) (bad : Bool) (detail : Nat := Config.checkDetail (t * 256 + n) 0xFFFFFFFF) : Option CheckFail :=
  if bad then some { code := t * 256 + n, section_ := t, detail := detail } else none

/-- A format check of entry `i` of a section; DETAIL is open where the check's table gives none. -/
def failAt (t n i : Nat) (bad : Bool) (detail : Nat := Config.checkDetail (t * 256 + n) i) : Option CheckFail :=
  if bad then some { code := t * 256 + n, section_ := t, entry := i, detail := detail } else none

/-- A cross-section check at entry `i` of section `t`. -/
def failX (code t i detail : Nat) (bad : Bool) : Option CheckFail :=
  if bad then some { code := code, section_ := t, entry := i, detail := detail } else none

end Sys2Proof.Machine
end

