-- ==== Sys2Proof/Machine/State.lean ====
section
/-!
DEFINITION. The machine's state, its reasons to stop, and the state after reset.
-/

namespace Sys2Proof.Machine

/-- Reasons for a fault. -/
inductive Fault where
  /-- No meaning raises it: the spec gives every command an effect, so the model never faults (safe). -/
  | none
  deriving DecidableEq, Repr

/-- Reasons for a refusal. -/
inductive Refusal where
  /-- Raised by a dispatch arm of a command that has no meaning yet (safe). -/
  | notModelled (mnemonic : String)
  deriving DecidableEq, Repr

/-- The whole device. -/
structure State where
  /-- Commands waiting, first in first out. -/
  pending : List Instr := []
  /-- Beacon ticks since the processor die's time base began (the model's clock; R19). -/
  now : Nat := 0
  /-- The READY vector and LANE_READY (Table 15-4). -/
  ready : Nat := 0
  laneReady : Nat := 0
  /-- HBM, cluster memories and Hawk memory by internal address (Table 1-6). -/
  mem : Memory := []
  /-- Counters of the processor die's data path, by address offset from 0x13_0000_0000. -/
  cnt : Table Nat := []
  plan : PlanState := {}
  ports : PortsState := {}
  hod : HodState := {}
  stencil : StencilState := {}
  cls : ClsState := {}
  egress : EgressState := {}
  core : CoreState := {}
  table : TableState := {}
  hbm : HbmState := {}
  span : SpanState := {}
  time : TimeState := {}
  fault : FaultState := {}
  host : HostState := {}
  kept : HostKept := {}
  svc : SvcState := {}
  power : PowerState := {}
  log : LogState := {}
  pkg : PkgState := {}
  /-- What has left the device, newest first. -/
  out : List Output := []
  /-- How many free values have been drawn. -/
  free : Nat := 0
  deriving DecidableEq, Repr, Inhabited

/-- The machine with no input power (R566): every field at the value the spec states or the assumption log names. -/
def State.reset : State := {}

/-- The outcome of a meaning. -/
abbrev Res := Host.Outcome State Fault Refusal

end Sys2Proof.Machine
end

