-- ==== Sys2Proof/Machine/PortCfg.lean ====
section
/-!
DEFINITION. Reading the PORTS, TIME and MACSEC sections of a plan (Tables 3-1, 3-2, 3-10, 3-12 and 3-14).
-/

namespace Sys2Proof.Machine

/-- A row of Table 3-1 by MODE. -/
structure PortMode where
  lanes : Nat
  /-- Line rate of a lane in units of 0.03125 Gb/s. -/
  rate : Nat
  /-- MAC rate in Gb/s. -/
  mac : Nat
  fec : List Nat
  an : Bool
  pam4 : Bool := false
  deriving DecidableEq, Repr

/-- Table 3-1. -/
def portMode (m : Nat) : Option PortMode :=
  match m with
  | 1 => some { lanes := 1, rate := 40, mac := 1, fec := [0], an := true }
  | 2 => some { lanes := 1, rate := 330, mac := 10, fec := [0, 1], an := true }
  | 3 => some { lanes := 1, rate := 825, mac := 25, fec := [0, 1, 2], an := true }
  | 4 => some { lanes := 1, rate := 1700, mac := 50, fec := [3], an := true, pam4 := true }
  | 5 => some { lanes := 2, rate := 850, mac := 50, fec := [3], an := false }
  | 6 => some { lanes := 4, rate := 825, mac := 100, fec := [0, 2], an := true }
  | 7 => some { lanes := 4, rate := 850, mac := 100, fec := [3], an := false }
  | 8 => some { lanes := 2, rate := 1700, mac := 100, fec := [3], an := true, pam4 := true }
  | 9 => some { lanes := 4, rate := 1700, mac := 200, fec := [3], an := true, pam4 := true }
  | 10 => some { lanes := 8, rate := 1700, mac := 400, fec := [3], an := false, pam4 := true }
  | _ => none

/-- The PLL that a line rate needs (R76): 26.5625 and 53.125 Gb/s share one. -/
def pllRate (r : Nat) : Nat := if r = 1700 then 850 else r

/-- Receive and transmit PMA/PCS latencies in ns (Table 3-2). -/
def portLatency (mode fec : Nat) : Nat × Nat :=
  match mode, fec with
  | 1, _ => (160, 110)
  | 2, 0 => (55, 40)
  | 2, _ => (230, 60)
  | 3, 0 => (40, 30)
  | 3, 1 => (110, 35)
  | 3, _ => (250, 80)
  | 4, _ => (330, 100)
  | 5, _ => (335, 100)
  | 6, 0 => (45, 35)
  | 6, _ => (250, 85)
  | 7, _ => (310, 95)
  | 8, _ => (300, 92)
  | 9, _ => (230, 78)
  | 10, _ => (180, 68)
  | _, _ => (0, 0)

/-- The PORTS entry of lane `n` (Table 3-10). -/
def portEnt (p : PlanCopy) (n : Nat) : Bytes := (p.sec 1).entry 1 n
/-- ENABLED. -/
def portEnabled (p : PlanCopy) (n : Nat) : Bool := decide (n < 64) && (byteAt (portEnt p n) 3).testBit 0
/-- The port's MODE row. -/
def portModeOf (p : PlanCopy) (n : Nat) : PortMode := (portMode (byteAt (portEnt p n) 1)).getD { lanes := 1, rate := 0, mac := 1, fec := [], an := false }
/-- Number of lanes of a port. -/
def portLanes (p : PlanCopy) (n : Nat) : Nat := (portModeOf p n).lanes
/-- A FLAGS bit of a port: 1 AN, 2 TRAINING, 3 PREEMPT, 4 VERIFY. -/
def portFlag (p : PlanCopy) (n i : Nat) : Bool := (byteAt (portEnt p n) 3).testBit i
/-- DROP_DOMAIN. -/
def portDropDomain (p : PlanCopy) (n : Nat) : Nat := byteAt (portEnt p n) 4
/-- MAX_FRAME. -/
def portMaxFrame (p : PlanCopy) (n : Nat) : Nat := leAt (portEnt p n) 10 2
/-- MIN_FRAG. -/
def portMinFrag (p : PlanCopy) (n : Nat) : Nat := byteAt (portEnt p n) 5
/-- RX_TS_ADJ_PS. -/
def portRxAdj (p : PlanCopy) (n : Nat) : Int := signedOf 32 (leAt (portEnt p n) 12 4)
/-- TX_TS_ADJ_PS. -/
def portTxAdj (p : PlanCopy) (n : Nat) : Int := signedOf 32 (leAt (portEnt p n) 16 4)

/-- The lane mask of a port. -/
def laneMask (p : PlanCopy) (n : Nat) : Nat := (2 ^ portLanes p n - 1) * 2 ^ n

/-- The TIME entry (Table 3-12). -/
def timeEnt (p : PlanCopy) : Bytes := (p.sec 2).entry 2 0
/-- SERVO: 0 NONE, 1 HAWK, 2 HOST. -/
def servoOf (p : PlanCopy) : Nat := byteAt (timeEnt p) 0
/-- SLEW_LIMIT_NS. -/
def slewLimit (p : PlanCopy) : Nat := leAt (timeEnt p) 24 4
/-- LOCK_THRESHOLD_NS. -/
def lockThreshold (p : PlanCopy) : Nat := leAt (timeEnt p) 28 4
/-- A FLAGS bit of TIME: 0 PPS_OUT_EN, 1 PPS_IN_EN, 2 PPS_IN_FALLING. -/
def timeFlag (p : PlanCopy) (i : Nat) : Bool := (byteAt (timeEnt p) 3).testBit i

/-- The SecY entry of a port, if it has one (Table 3-14). -/
def secyOf (p : PlanCopy) (n : Nat) : Option Bytes :=
  (((p.sec 0x16).kind 0x16 1).find? (fun e => byteAt e.2 1 == n)).map (fun e => e.2)

/-- The receive SCs: SC_INDEX and entry. -/
def rxScs (p : PlanCopy) : List (Nat × Bytes) := (((p.sec 0x16).kind 0x16 2).zipIdx).map (fun e => (e.2, e.1.2))

/-- The receive SC of a port with an SCI: SC_INDEX and entry. -/
def rxScOf (p : PlanCopy) (n sci : Nat) : Option (Nat × Bytes) :=
  (rxScs p).find? (fun e => byteAt e.2 1 == n && leAt e.2 8 8 == sci)

/-- CIPHER is GCM-AES-XPN-256. -/
def secyXpn (e : Bytes) : Bool := byteAt e 2 == 2
/-- A FLAGS bit of a SecY: 0 PROTECT_FRAMES, 1 REPLAY_PROTECT, 2 INCLUDE_SCI, 3 USE_ES, 4 USE_SCB. -/
def secyFlag (e : Bytes) (i : Nat) : Bool := (byteAt e 3).testBit i
/-- VALIDATE: 0 DISABLED, 1 CHECK, 2 STRICT. -/
def secyValidate (e : Bytes) : Nat := byteAt e 4
/-- The largest packet number of a cipher suite (R95). -/
def pnMax (xpn : Bool) : Nat := if xpn then 2 ^ 64 - 1 else 2 ^ 32 - 1
/-- PN_THRESHOLD, or 3/4 of the PN space. -/
def pnThreshold (e : Bytes) : Nat :=
  let v := leAt e 20 8
  if v ≠ 0 then v else if secyXpn e then 3 * 2 ^ 62 else 3 * 2 ^ 30

/-- The PMA/PCS latencies of a port in ns, with 15 ns more each way under a SecY (R80). -/
def portLatOf (p : PlanCopy) (n : Nat) : Nat × Nat :=
  let l := portLatency (byteAt (portEnt p n) 1) (byteAt (portEnt p n) 2)
  let x := if (secyOf p n).isSome then 15 else 0
  (l.1 + x, l.2 + x)

end Sys2Proof.Machine
end

