-- ==== Sys2Proof/Machine/PoolCfg.lean ====
section
/-!
DEFINITION. Reading the POOLS and DOMAINS sections (Tables 2-6, 7-1, 7-10 and 7-11), and their format checks
(Tables 2-18 and 7-12).
-/

namespace Sys2Proof.Machine

/-- Buffer size of a pool (Table 7-1). -/
def poolSize (p : Nat) : Nat :=
  match p with
  | 0 => 128
  | 1 => 256
  | 2 => 512
  | 3 => 2048
  | 4 => 10240
  | _ => 0

/-- HEADROOM. -/
def headroom (p : PlanCopy) : Nat := (p.sec 0x0A).le 0 2
/-- The POOLS entry of a pool. -/
def poolEnt (p : PlanCopy) (k : Nat) : Bytes := (p.sec 0x0A).entry 0x0A k
/-- COUNT of a pool; 0 for an absent pool. -/
def poolCount (p : PlanCopy) (k : Nat) : Nat := if k < 5 then leAt (poolEnt p k) 8 4 else 0
/-- BASE of a pool. -/
def poolBase (p : PlanCopy) (k : Nat) : Nat := leAt (poolEnt p k) 16 8
/-- FALLBACK of a pool. -/
def poolFallback (p : PlanCopy) (k : Nat) : Nat := byteAt (poolEnt p k) 1
/-- The present pools, smallest first. -/
def presentPools (p : PlanCopy) : List Nat := (List.range 5).filter (fun k => decide (0 < poolCount p k))

/-- The DOMAINS entry of a domain (Table 2-6). -/
def domEnt (p : PlanCopy) (d : Nat) : Bytes := (p.sec 0x15).entry 0x15 d
/-- ENABLED. -/
def domEnabled (p : PlanCopy) (d : Nat) : Bool := decide (d < 16) && (byteAt (domEnt p d) 1).testBit 0
/-- PAIRED_ALLOWED. -/
def domPaired (p : PlanCopy) (d : Nat) : Bool := (byteAt (domEnt p d) 1).testBit 1
/-- RING_ACCESS. -/
def domRing (p : PlanCopy) (d : Nat) : Bool := (byteAt (domEnt p d) 1).testBit 2
/-- CLUSTER_MASK. -/
def domClusters (p : PlanCopy) (d : Nat) : Nat := leAt (domEnt p d) 2 2
/-- BUF_QUOTA of a pool. -/
def bufQuota (p : PlanCopy) (d k : Nat) : Nat := leAt (domEnt p d) (20 + 4 * k) 4
/-- BUF_RESERVE of a pool. -/
def bufReserve (p : PlanCopy) (d k : Nat) : Nat := leAt (domEnt p d) (40 + 4 * k) 4
/-- TABLE_QUOTA. -/
def tableQuota (p : PlanCopy) (d : Nat) : Nat := leAt (domEnt p d) 60 4
/-- TABLE_RESERVE. -/
def tableReserve (p : PlanCopy) (d : Nat) : Nat := leAt (domEnt p d) 64 4
/-- PINNED_FIRST and PINNED_COUNT. -/
def pinnedRange (p : PlanCopy) (d : Nat) : Nat × Nat := (leAt (domEnt p d) 68 4, leAt (domEnt p d) 72 4)
/-- ORDER_FIRST and ORDER_COUNT. -/
def orderRange (p : PlanCopy) (d : Nat) : Nat × Nat := (leAt (domEnt p d) 76 4, leAt (domEnt p d) 80 4)
/-- SLOT_SHARE. -/
def slotShare (p : PlanCopy) (d : Nat) : Nat := leAt (domEnt p d) 84 2
/-- RING_MASK. -/
def ringMask (p : PlanCopy) (d : Nat) : Nat := leAt (domEnt p d) 86 2
/-- LOCK_GROUP_MASK. -/
def lockGroupMask (p : PlanCopy) (d : Nat) : Nat := leAt (domEnt p d) 88 8
/-- The enabled domains. -/
def enabledDomains (p : PlanCopy) : List Nat := (List.range 16).filter (fun d => domEnabled p d)

/-- DOMAINS (Table 2-18). -/
def checkDomains (p : PlanCopy) : Option CheckFail :=
  firstFail (failAll 0x15 1 (decide ((p.sec 0x15).count 0x15 ≠ 16)) :: (List.range 16).map (fun d =>
    firstFail [
      failAt 0x15 2 d (decide (byteAt (domEnt p d) 0 ≠ d)),
      failAt 0x15 3 d (decide (8 ≤ byteAt (domEnt p d) 1) || !allZero (slice (domEnt p d) 96 32))]))

/-- Whether two present pools overlap. -/
def poolsOverlap (p : PlanCopy) (a b : Nat) : Bool :=
  decide (poolBase p a < poolBase p b + poolCount p b * poolSize b) && decide (poolBase p b < poolBase p a + poolCount p a * poolSize a)

/-- The checks of one POOLS entry. -/
def checkPool (p : PlanCopy) (k : Nat) : Option CheckFail :=
  let e := poolEnt p k
  let present := decide (0 < leAt e 8 4)
  firstFail [
    failAt 0x0A 2 k (decide (byteAt e 0 ≠ k) || decide (leAt e 4 4 ≠ poolSize k)),
    failAt 0x0A 3 k (decide (8388608 < leAt e 8 4)),
    failAt 0x0A 4 k (decide (leAt e 16 8 % 0x10000 ≠ 0) ||
      (present && (decide (0x0F80000000 < leAt e 16 8 + leAt e 8 4 * poolSize k) ||
        (List.range k).any (fun j => decide (0 < poolCount p j) && poolsOverlap p j k)))),
    failAt 0x0A 6 k (decide (4 - k < byteAt e 1)),
    failAt 0x0A 8 k (!allZero (slice e 2 2) || !allZero (slice e 12 4) || !allZero (slice e 24 8))]

/-- An enabled port that no present pool fits (0x0A07). -/
def poolUnfit (p : PlanCopy) : Bool :=
  (List.range 64).any (fun n => portEnabled p n &&
    !(presentPools p).any (fun k => decide (headroom p + portMaxFrame p n - 4 ≤ poolSize k)))

/-- POOLS (Table 7-12); `inForce` is the plan in force, if one is. -/
def checkPools (p : PlanCopy) (inForce : Option PlanCopy) : Option CheckFail :=
  let h := headroom p
  firstFail ([
    failAll 0x0A 1 (decide ((p.sec 0x0A).count 0x0A ≠ 5)),
    failAll 0x0A 5 (decide (256 < h) || decide (h % 8 ≠ 0) ||
      (match inForce with | some q => decide (headroom q ≠ h) | none => false)),
    failAll 0x0A 7 (poolUnfit p),
    failAll 0x0A 8 (!(p.sec 0x0A).zeroIn 2 62)] ++ (List.range 5).map (checkPool p))

end Sys2Proof.Machine
end

