-- ==== Sys2Proof/Machine/EgressCfg.lean ====
section
/-!
DEFINITION. Reading the QUEUES_GATES and REDUNDANCY sections (Tables 8-13 and 8-15).
-/

namespace Sys2Proof.Machine

/-- Entry `i` of kind `k` of section `t`, if it exists. -/
def kindEnt (p : PlanCopy) (t k i : Nat) : Option Bytes := (((p.sec t).kind t k)[i]?).map (fun e => e.2)

/-- The PORT_SCHED entry of a port. -/
def schedOf (p : PlanCopy) (n : Nat) : Option Bytes :=
  (((p.sec 0x0B).kind 0x0B 1).find? (fun e => byteAt e.2 1 == n)).map (fun e => e.2)

/-- The QUEUE entry of a queue. -/
def queueOf (p : PlanCopy) (n q : Nat) : Option Bytes :=
  (((p.sec 0x0B).kind 0x0B 2).find? (fun e => byteAt e.2 1 == n && byteAt e.2 2 == q)).map (fun e => e.2)

/-- PRIO_MAP[c]: the queue of a traffic class on a port (R265). -/
def prioMap (p : PlanCopy) (n c : Nat) : Nat :=
  match schedOf p n with
  | some e => bits (leAt e 4 8) (4 * c + 3) (4 * c)
  | none => c

/-- PREEMPT_MASK of a port. -/
def preemptMask (p : PlanCopy) (n : Nat) : Nat :=
  match schedOf p n with
  | some e => leAt e 30 2
  | none => 0

/-- LIMIT_FRAMES of a queue. -/
def limitFrames (p : PlanCopy) (n q : Nat) : Nat := ((queueOf p n q).map (fun e => leAt e 4 4)).getD 4096
/-- LIMIT_BYTES of a queue. -/
def limitBytes (p : PlanCopy) (n q : Nat) : Nat := ((queueOf p n q).map (fun e => leAt e 8 4)).getD 4194304

/-- A queue's credit-based shaper: IDLE_SLOPE, HI_CREDIT and LO_CREDIT, when CBS_EN is set. -/
def cbsOf (p : PlanCopy) (n q : Nat) : Option (Nat × Nat × Int) :=
  match queueOf p n q with
  | some e => if (byteAt e 3).testBit 0 then some (leAt e 12 8, leAt e 20 4, signedOf 32 (leAt e 24 4)) else none
  | none => none

/-- Gate operation `k` of a plan. -/
def gateOp (p : PlanCopy) (k : Nat) : GateOp :=
  match kindEnt p 0x0B 3 (k / 7) with
  | some e =>
    let o := slice e (8 + 8 * (k % 7)) 8
    { op := byteAt o 0, states := leAt o 2 2, interval := leAt o 4 4 }
  | none => { op := 0, states := 0, interval := 0 }

/-- The gate control list of a port, when GATES_EN is set on an enabled port (R243). -/
def gateListOf (p : PlanCopy) (n : Nat) : Option GateList :=
  match schedOf p n with
  | some e =>
    if (byteAt e 2).testBit 0 ∧ portEnabled p n then
      some {
        ops := (List.range (leAt e 14 2)).map (fun k => gateOp p (leAt e 12 2 + k))
        base := leAt e 16 6 * 1000000000 + leAt e 22 4
        cycle := leAt e 26 4
        holdAdv := leAt e 32 4
        relAdv := leAt e 36 4
        epoch := p.epoch }
    else none
  | none => none

/-- PORT_MASK of a group; 0 when it is absent. -/
def groupMask (p : PlanCopy) (i : Nat) : Nat := ((kindEnt p 0x0B 4 i).map (fun e => leAt e 8 8)).getD 0

/-- A mirror session's entry. -/
def mirrorOf (p : PlanCopy) (i : Nat) : Option Bytes := kindEnt p 0x0B 5 i

/-- An 802.1CB function's entry. -/
def cbOf (p : PlanCopy) (f : Nat) : Option Bytes := kindEnt p 0x0C 1 f
/-- A FLAGS bit of a function: 0 GEN, 1 REC, 2 MATCH, 3 TAKE_NO_SEQUENCE, 4 LATENT_EN. -/
def cbFlag (e : Bytes) (i : Nat) : Bool := (byteAt e 1).testBit i
/-- A function's outputs: port and queue byte. -/
def cbOuts (e : Bytes) : List (Nat × Nat) := (List.range (byteAt e 3)).map (fun i => (byteAt e (16 + 2 * i), byteAt e (17 + 2 * i)))

/-- A pair's entry. -/
def pairOf (p : PlanCopy) (i : Nat) : Option Bytes := kindEnt p 0x0C 2 i

/-- The pair that a port is a member of: index, entry, and whether it is member B. -/
def pairAt (p : PlanCopy) (n : Nat) : Option (Nat × Bytes × Bool) :=
  ((((p.sec 0x0C).kind 0x0C 2).zipIdx).find? (fun e => byteAt e.1.2 2 == n || byteAt e.1.2 3 == n)).map
    (fun e => (e.2, e.1.2, byteAt e.1.2 3 == n))

/-- The MAC addresses of a pair's proxy list. -/
def proxyMacs (p : PlanCopy) (e : Bytes) : List Nat :=
  (List.range (leAt e 14 2)).filterMap (fun i => (kindEnt p 0x0C 3 (leAt e 12 2 + i)).map (fun x => beAt x 8 6))

end Sys2Proof.Machine
end

