-- ==== Sys2Proof/Machine/CoreCfg.lean ====
section
/-!
DEFINITION. Reading the PROGRAMS, SLOT_TABLES, DISPATCH, BANKS_REGIONS, LOCK_GROUPS and PAIRS sections (Tables 9-8,
9-9, 9-11, 10-12, 10-14, 13-14 and 17-9).
-/

namespace Sys2Proof.Machine

/-! ### Threads and slot tables (R292, R329) -/

/-- THREAD_ID. -/
def tidNum (t : Tid) : Nat := t.cluster.val * 192 + t.core.val * 16 + t.thr.val
/-- Cluster of a THREAD_ID. -/
def tidCluster (t : Nat) : Nat := t / 192
/-- Core within the cluster. -/
def tidCore (t : Nat) : Nat := t % 192 / 16
/-- Thread within the core. -/
def tidThr (t : Nat) : Nat := t % 16
/-- Core number 12 × cluster + core. -/
def tidUnit (t : Nat) : Nat := t / 16

/-- The CLUSTER entry of a cluster. -/
def clusterEnt (p : PlanCopy) (n : Nat) : Bytes := (p.sec 0x0E).entry 0x0E n
/-- PACE: whether the cluster is FREE. -/
def freePace (p : PlanCopy) (n : Nat) : Bool := byteAt (clusterEnt p n) 2 == 1
/-- TICK_NS, 0 read as 1,000. -/
def tickNs (p : PlanCopy) (n : Nat) : Nat :=
  let v := leAt (clusterEnt p n) 4 4
  if v = 0 then 1000 else v
/-- SHREG_DOMAIN of a shared register. -/
def shregDomain (p : PlanCopy) (n r : Nat) : Nat := bits (byteAt (clusterEnt p n) (8 + r / 2)) (4 * (r % 2) + 3) (4 * (r % 2))
/-- The CORE entry of a core, by 12 × cluster + core. -/
def coreEnt (p : PlanCopy) (u : Nat) : Bytes := (p.sec 0x0E).entry 0x0E (16 + u)
/-- THREADS of a core. -/
def coreThreads (p : PlanCopy) (u : Nat) : Nat := byteAt (coreEnt p u) 3
/-- POSITION of a core's slot table. -/
def position (p : PlanCopy) (u k : Nat) : Nat := byteAt (coreEnt p u) (4 + k)
/-- The positions of a thread, in ascending order. -/
def positionsOf (p : PlanCopy) (t : Nat) : List Nat :=
  let e := coreEnt p (tidUnit t)
  (List.range 32).filter (fun k => byteAt e (4 + k) == tidThr t)
/-- Whether a thread exists in its core's configuration. -/
def threadExists (p : PlanCopy) (t : Nat) : Bool := decide (t < 3072) && decide (tidThr t < coreThreads p (tidUnit t))

/-! ### Pools and chains (R330) -/

/-- The POOL entry of a pool. -/
def poolEntry (p : PlanCopy) (i : Nat) : Option Bytes := kindEnt p 0x0F 1 i
/-- The CHAIN entry of a chain. -/
def chainEntry (p : PlanCopy) (i : Nat) : Option Bytes := kindEnt p 0x0F 2 i
/-- QUEUE_DEPTH of a pool. -/
def queueDepth (p : PlanCopy) (i : Nat) : Nat := ((poolEntry p i).map (fun e => leAt e 6 2)).getD 0
/-- Cluster of a pool. -/
def poolCluster (p : PlanCopy) (i : Nat) : Nat := ((poolEntry p i).map (fun e => byteAt e 1)).getD 0
/-- DOMAIN of a pool. -/
def poolDomain (p : PlanCopy) (i : Nat) : Nat := ((poolEntry p i).map (fun e => byteAt e 3)).getD 0
/-- WIN_START of a pool. -/
def poolWinStart (p : PlanCopy) (i : Nat) : Nat := ((poolEntry p i).map (fun e => leAt e 40 2)).getD 0
/-- Whether a POOL entry names a thread. -/
def poolHas (e : Bytes) (t : Nat) : Bool :=
  byteAt e 1 == tidCluster t && (leAt e 8 24).testBit (16 * tidCore t + tidThr t)
/-- The threads of a pool. -/
def poolTids (p : PlanCopy) (i : Nat) : List Nat :=
  match poolEntry p i with
  | some e => ((List.range 192).filter (fun k => (leAt e 8 24).testBit k)).map (fun k => byteAt e 1 * 192 + k)
  | none => []
/-- The pool that a thread belongs to. -/
def poolOf (p : PlanCopy) (t : Nat) : Option Nat :=
  ((p.sec 0x0F).kind 0x0F 1).findIdx? (fun e => poolHas e.2 t)

/-- A coat of a chain. -/
structure CoatRec where
  coat : Nat
  select : Nat
  pools : List Nat
  deriving DecidableEq, Repr

/-- The coats of a chain. -/
def chainCoats (p : PlanCopy) (i : Nat) : List CoatRec :=
  match chainEntry p i with
  | some e => (List.range (byteAt e 1)).map (fun k =>
      let b := slice e (8 + 16 * k) 16
      { coat := byteAt b 0, select := byteAt b 1, pools := (List.range (byteAt b 2)).map (fun j => leAt b (4 + 2 * j) 2) })
  | none => []
/-- DOMAIN of a chain. -/
def chainDomain (p : PlanCopy) (i : Nat) : Option Nat := (chainEntry p i).map (fun e => byteAt e 2)
/-- The pair whose PAIRS entry names a chain, and its body; an entry that a CLEAR left all zero is no pair. -/
def pairOfChain (p : PlanCopy) (chain : Nat) : Option (Nat × Bytes) :=
  if p.has 0x14 then ((List.range ((p.sec 0x14).count 0x14)).map (fun i => (i, (p.sec 0x14).entry 0x14 i))).find? (fun e => !allZero e.2 && leAt e.2 0 2 == chain)
  else none

/-! ### Programs (R288) -/

/-- The PROGRAM entry of a program. -/
def progEntry (p : PlanCopy) (i : Nat) : Option Bytes := kindEnt p 0x0D 1 i
/-- The 64 bytes of a code line that has a CODE entry. -/
def codeLine (p : PlanCopy) (line : Nat) : Option Bytes :=
  (((p.sec 0x0D).kind 0x0D 2).find? (fun e => leAt e.2 4 4 == line)).map (fun e => slice e.2 64 64)

/-- What a plan binds a thread to (R297). -/
def bindingOf (p : PlanCopy) (t : Nat) : Option Binding :=
  match poolOf p t with
  | none => none
  | some k =>
    match poolEntry p k with
    | none => none
    | some e =>
      let g := leAt e 4 2
      (progEntry p g).map (fun r => {
        epoch := p.epoch, pool := k, domain := byteAt e 3, service := (byteAt e 2).testBit 0, crossDomain := (byteAt e 2).testBit 1
        program := g, first := leAt r 4 4, len := leAt r 8 4, entryPc := leAt r 12 4, startRender := (byteAt r 1).testBit 2
        lockGroups := leAt r 40 8, bankTable := leAt r 48 2, regionSet := leAt r 50 2
        excPc := leAt e 32 4, eventPc := leAt e 36 4, winStart := leAt e 40 2 })

/-! ### Banks and regions (R289) -/

/-- The BANK entry of a bank of a table: its TARGET and rights. -/
def bankOf (p : PlanCopy) (table bank : Nat) : Option (Nat × Nat) :=
  if 255 < table then none
  else (((p.sec 0x10).kind 0x10 1).find? (fun e => byteAt e.2 1 == table && byteAt e.2 2 == bank)).map (fun e => (leAt e.2 8 8, byteAt e.2 3))

/-- The regions of a set: BASE, LIMIT and rights. -/
def regionsOf (p : PlanCopy) (set : Nat) : List (Nat × Nat × Nat) :=
  if 255 < set then []
  else (((p.sec 0x10).kind 0x10 2).filter (fun e => byteAt e.2 1 == set)).map (fun e => (leAt e.2 8 8, leAt e.2 16 8, byteAt e.2 3))

/-! ### Lock groups (R405) -/

/-- ENABLED of a lock group; without the section, a group that an enabled domain owns is enabled. -/
def groupEnabled (p : PlanCopy) (g : Nat) : Bool :=
  if p.has 0x11 then (byteAt ((p.sec 0x11).entry 0x11 g) 1).testBit 0
  else (enabledDomains p).any (fun d => (lockGroupMask p d).testBit g)
/-- MAX_WAIT_US. -/
def groupMaxWait (p : PlanCopy) (g : Nat) : Nat := if p.has 0x11 then leAt ((p.sec 0x11).entry 0x11 g) 4 4 else 0
/-- MAX_HOLD_US. -/
def groupMaxHold (p : PlanCopy) (g : Nat) : Nat := if p.has 0x11 then leAt ((p.sec 0x11).entry 0x11 g) 8 4 else 0

end Sys2Proof.Machine
end

