-- ==== Sys2Proof/Machine/Ops.lean ====
section
/-!
DEFINITION. Shared operations of the control side: device time, READY bits, interrupts, mailbox replies, error records
and the logbook's counting.
-/

namespace Sys2Proof.Machine

/-! ### Time -/

/-- Beacon ticks in a microsecond, a millisecond and a second (R19: 625 ps each). -/
def usTicks (n : Nat) : Nat := 1600 * n
/-- Beacon ticks of `n` milliseconds. -/
def msTicks (n : Nat) : Nat := 1600000 * n
/-- Beacon ticks of `n` seconds. -/
def secTicks (n : Nat) : Nat := 1600000000 * n
/-- Beacon ticks of `n` nanoseconds, rounded up. -/
def nsTicks (n : Nat) : Nat := ceilDiv (n * 8) 5

/-- Whether READY bit `i` is set. -/
def isReady (s : State) (i : Nat) : Bool := s.ready.testBit i

/-- Units of 2^-43 ns in one nanosecond. -/
def unitNs : Nat := 2 ^ 43

/-- What a slew adds per tick, in units of 2^-43 ns (R102). -/
def slewPerTick : Nat := 5 * 549755813

/-- Device time after `n` beacon ticks (R101, R102): the rate FREQ_ADJ sets, and the part of a slew they apply. -/
def timeAfter (t : TimeState) (n : Nat) : TimeState :=
  let base : Int := 5 * (2 ^ 40 + t.freqAdj) * n
  let mag := Nat.min (slewPerTick * n) t.slew.natAbs
  let part : Int := if t.slew < 0 then -(mag : Int) else mag
  { t with t := ((t.t : Int) + base + part).toNat % (2 ^ 48 * 1000000000 * unitNs), slew := t.slew - part }

/-- The state at beacon tick `tick`, when that is later: device time runs while READY.TIME is set. -/
def advanceTo (s : State) (tick : Nat) : State :=
  if tick ≤ s.now then s
  else { s with now := tick, time := if isReady s 5 then timeAfter s.time (tick - s.now) else s.time }

/-- Device time in whole nanoseconds. -/
def devNs (s : State) : Nat := s.time.t / unitNs

/-- The 16-bit binary fraction of a nanosecond of device time. -/
def devFrac (s : State) : Nat := s.time.t % unitNs / 2 ^ 27

/-- The 10-byte form of a time in nanoseconds (R621). -/
def time10 (ns : Nat) : Bytes := toLE 6 (ns / 1000000000) ++ toLE 4 (ns % 1000000000)

/-- The 12-byte form of device time (R621). -/
def time12 (ns frac : Nat) : Bytes := time10 ns ++ toLE 2 frac

/-- The nanoseconds of a 10-byte form. -/
def ofTime10 (b : Bytes) : Nat := leAt b 0 6 * 1000000000 + leAt b 6 4

/-- Device time as records carry it: 0 before READY.TIME (R490). -/
def recordNs (s : State) : Nat := if isReady s 5 then devNs s else 0

/-! ### Interrupts and READY (R443, Table 15-5) -/

/-- Whether vector `n` is masked: bit 0 of its MSI-X vector control word, which PCI Express resets to 1. -/
def vectorMasked (h : HostState) (n : Nat) : Bool := ((tblFind h.msix (4 * n + 3)).getD 1).testBit 0

/-- Vector `n` is signalled once, or its pending bit sets while it is masked (R443) or while the device may issue no
memory request (R436). -/
def signalVector (s : State) (n : Nat) : State :=
  if vectorMasked s.host n ∨ isReady s 22 = false then { s with host := { s.host with pba := setBit s.host.pba n } }
  else { s with out := .msix n :: s.out }

/-- The cause of INT_STATUS bit `n` occurs (R443). -/
def raiseInt (s : State) (n : Nat) : State :=
  if s.host.intStatus.testBit n then s
  else
    let s1 := { s with host := { s.host with intStatus := setBit s.host.intStatus n } }
    if s.host.intEnable.testBit n then signalVector s1 n else s1

/-! ### Status codes (Table 0-6) -/

/-- OK. -/
def stOk : Nat := 0x0
/-- E_BUSY. -/
def eBusy : Nat := 0x1
/-- E_NOT_READY. -/
def eNotReady : Nat := 0x2
/-- E_ARGS. -/
def eArgs : Nat := 0x3
/-- E_RIGHTS. -/
def eRights : Nat := 0x4
/-- E_LOCKED. -/
def eLocked : Nat := 0x5
/-- E_NOT_ATOMIC. -/
def eNotAtomic : Nat := 0x6
/-- E_STAGE_FULL. -/
def eStageFull : Nat := 0x7
/-- E_CHECK. -/
def eCheck : Nat := 0x8
/-- E_SIGNATURE. -/
def eSignature : Nat := 0x9
/-- E_EPOCH. -/
def eEpoch : Nat := 0xA
/-- E_NOT_FOUND. -/
def eNotFound : Nat := 0xB
/-- E_TABLE_FULL. -/
def eTableFull : Nat := 0xC
/-- E_PARITY. -/
def eParity : Nat := 0xD
/-- S_ABANDONED. -/
def sAbandoned : Nat := 0xE
/-- E_UNSUPPORTED. -/
def eUnsupported : Nat := 0xF
/-- E_SEQUENCE. -/
def eSequence : Nat := 0x10
/-- E_TIMEOUT. -/
def eTimeout : Nat := 0x11
/-- E_QUARANTINE. -/
def eQuarantine : Nat := 0x12
/-- E_RANGE. -/
def eRange : Nat := 0x13
/-- E_VERSION. -/
def eVersion : Nat := 0x14
/-- E_PARTIAL. -/
def ePartial : Nat := 0x15

/-! ### Mailboxes -/

/-- Mailbox `n`. -/
def getMb (s : State) (n : Nat) : Mailbox := tblGet {} s.host.mailboxes n

/-- The state with mailbox `n` changed. -/
def modMb (s : State) (n : Nat) (f : Mailbox → Mailbox) : State :=
  { s with host := { s.host with mailboxes := tblMod {} s.host.mailboxes n f } }

/-- The command on mailbox `n` completes with a reply; MAILBOX_RESULT makes it visible (R444). -/
def replyWith (s : State) (n : Nat) (r : Reply) : State := modMb s n (fun m => { m with reply := some r })

/-- The command on mailbox `n` completes with a status and result data. -/
def reply (s : State) (n status : Nat) (data : Bytes := []) : State := replyWith s n { status := status, data := data }

/-- A mailbox command runs when the READY bit it needs is set, and otherwise completes with E_NOT_READY (R448, 5). -/
def whenReady (s : State) (mb bit : Nat) (k : State → State) : State :=
  if isReady s bit then k s else reply s mb eNotReady

/-- A READY_WAIT whose MASK bits are all set completes with OK and READY (Table 15-10). -/
def settleWaits (s : State) : State :=
  { s with host := { s.host with mailboxes := s.host.mailboxes.map (fun e =>
      match e.2.wait with
      | some (mask, _) =>
        if mask &&& s.ready = mask then (e.1, { e.2 with wait := none, reply := some { status := stOk, data := toLE 4 s.ready } }) else e
      | none => e) } }

/-- READY bit `i` takes the value `b`; a change sets READY_CHANGED and INT_STATUS bit 25 (Tables 15-4, 15-5). -/
def setReady (s : State) (i : Nat) (b : Bool) : State :=
  if s.ready.testBit i = b then s
  else
    settleWaits (raiseInt { s with
      ready := putBit s.ready i b
      host := { s.host with readyChanged := setBit s.host.readyChanged i } } 25)

/-- Pending vectors that are not masked are signalled once memory requests may leave (R436, R443). -/
def flushVectors (s : State) : State :=
  (List.range 64).foldl (fun x n =>
    if x.host.pba.testBit n ∧ vectorMasked x.host n = false ∧ isReady x 22 then
      signalVector { x with host := { x.host with pba := clearBit x.host.pba n } } n
    else x) s

/-- READY.PCIE_DMA follows the link and Bus Master Enable (R436). -/
def refreshDma (s : State) : State :=
  flushVectors (setReady s 22 (s.host.linkUp && s.host.busMaster && s.power.dieOut))

/-- A host-interface counter of Tables 15-17 and 15-18. -/
def hostCount (s : State) (off n : Nat) : State :=
  { s with host := { s.host with counters := cntAdd s.host.counters off n } }

/-! ### The logbook's counting (R586, R591) -/

/-- The largest value of a logbook word (R586). -/
def logMax : Nat := 0xFFFFFFFFFF

/-- A logbook word after `n` more counts: it saturates and keeps SAT (R586). -/
def logWordAdd (w : LogWord) (n : Nat) : LogWord :=
  { w with value := satTo logMax (w.value + n), sat := w.sat || decide (logMax ≤ w.value + n) }

/-- Logbook word `id` counts `n`. -/
def logCount (s : State) (id n : Nat) : State :=
  { s with log := { s.log with
      words := tblMod {} s.log.words id (fun w => logWordAdd w n)
      dirty := tblMod 0 s.log.dirty id (fun v => v + n) } }

/-- POWER_ON_SECONDS in [39:0] and POWER_UPS in [63:40] (R591). -/
def eventStamp (s : State) : Nat :=
  (tblGet {} s.log.words 0).value % 2 ^ 40 + ((tblGet {} s.log.words 1).value % 2 ^ 24) * 2 ^ 40

/-- The event log keeps a record of severity S2 and above, or of class POWER; at most 16 entries per second, and none
once logbook writing has stopped (R591, R592). -/
def logEvent (s : State) (r : ErrRecord) : State :=
  if r.sev < 2 ∧ r.cls ≠ 0x11 then s
  else if s.log.writingStopped then s
  else if 16 ≤ s.log.eventsThisSecond then logCount s 0x00D 1
  else
    let ev := s.log.events ++ [{ record := r, stamp := eventStamp s }]
    let drop := ev.length - 16384
    { s with log := { s.log with
        events := ev.drop drop
        eventFirst := s.log.eventFirst + drop
        eventNext := s.log.eventNext + 1
        eventsThisSecond := s.log.eventsThisSecond + 1 } }

/-- RECORDS of the record's class and severity (Table 19-9), and the event log. -/
def logRecord (s : State) (r : ErrRecord) : State := logEvent (logCount s (0x010 + 5 * (r.cls - 1) + r.sev) 1) r

/-! ### Error records (R489 to R493) -/

/-- The 64-bit location code (Table 0-7), with the device's DEV_ID as L7. -/
def locCode (s : State) (l : Loc) : Nat :=
  s.svc.devId * 2 ^ 60 + l.l6 * 2 ^ 56 + l.l5 * 2 ^ 50 + l.l4 * 2 ^ 42 + l.l3 * 2 ^ 32 + l.l2 * 2 ^ 20 + l.l1

/-- The location that a 64-bit code names (Table 0-7), without L7. -/
def locOfCode (v : Nat) : Loc :=
  { l6 := bits v 59 56, l5 := bits v 55 50, l4 := bits v 49 42, l3 := bits v 41 32, l2 := bits v 31 20, l1 := bits v 19 0 }

/-- A unit of the processor die by L5 and L4, whole below (Table 17-6). -/
def unitLoc (l5 l4 : Nat) : Loc := { l6 := 0, l5 := l5, l4 := l4 }

/-- The unit that a location lies in: L6, L5 and L4. -/
def unitOf (l : Loc) : Loc := { l6 := l.l6, l5 := l.l5, l4 := l.l4 }

/-- The 32 bytes of a record (R490). -/
def recordBytes (r : ErrRecord) : Bytes :=
  time10 r.ns ++ toLE 1 r.sev ++ toLE 1 r.cls ++ toLE 2 r.code ++ toLE 8 r.loc ++ slice r.detail 0 9 ++
    toLE 1 (b2n r.injected * 128 + b2n r.queued * 64)

/-- The record a summary stands for (R493). -/
def summaryRecord (m : Summary) : ErrRecord :=
  { ns := m.ns, sev := m.sev, cls := 0x0F, code := 0x0001, loc := m.loc
    detail := toLE 4 m.lost ++ toLE 1 m.cls ++ toLE 2 m.code ++ [0, 0] }

/-- Records held on the on-die ring (R492), an open summary among them. -/
def ringHeld (f : FaultState) : Nat := f.ring.length + (match f.summary with | some _ => 1 | none => 0)

/-- A summary opened by its first lost record (R493). -/
def summaryOpen (r : ErrRecord) : Summary :=
  { ns := r.ns, loc := r.loc, sev := r.sev, lost := 1, cls := r.cls, code := r.code }

/-- A summary that stands for one more lost record (R493). -/
def summaryAdd (m : Summary) (r : ErrRecord) : Summary :=
  let m1 := { m with lost := satTo 0xFFFFFFFF (m.lost + 1) }
  if m.sev < r.sev then { m1 with sev := r.sev, cls := r.cls, code := r.code } else m1

/-- The fault manager handles an arriving record: the four cases of R492. -/
def ringStore (f : FaultState) (r : ErrRecord) : FaultState :=
  match f.summary with
  | some m =>
    if ringHeld f < 63 then
      { f with ring := f.ring ++ [summaryRecord m, r], summary := none, counters := cntAdd f.counters (8 * r.sev) 1 }
    else { f with overflow := f.overflow + 1, summary := some (summaryAdd m r) }
  | none =>
    if ringHeld f < 63 then { f with ring := f.ring ++ [r], counters := cntAdd f.counters (8 * r.sev) 1 }
    else { f with overflow := f.overflow + 1, summary := some (summaryOpen r) }

/-- The service die asserts FAULT_N, and INT_STATUS bit 30 sets (R518). -/
def assertFaultN (s : State) : State := raiseInt { s with svc := { s.svc with faultN := true } } 30

/-- A record of the processor die's fault manager: ring, logbook, and FAULT_N for S3 and S4 (R492, R518). -/
def putRecord (s : State) (r : ErrRecord) : State :=
  let s1 := logRecord { s with fault := ringStore s.fault r } r
  if 3 ≤ r.sev then assertFaultN s1 else s1

/-- Form and write a record at the present device time. -/
def record (s : State) (sev cls code : Nat) (l : Loc) (detail : Bytes := []) (injected : Bool := false) : State :=
  putRecord s { ns := recordNs s, sev := sev, cls := cls, code := code, loc := locCode s l, detail := slice detail 0 9, injected := injected }

/-- The service die's queue of 32 records takes a record under the rule of R492 (R563). -/
def svcQueueStore (v : SvcState) (r : ErrRecord) : SvcState :=
  let held := v.queue.length + (match v.queueSummary with | some _ => 1 | none => 0)
  match v.queueSummary with
  | some m =>
    if held < 31 then { v with queue := v.queue ++ [summaryRecord m, r], queueSummary := none }
    else { v with queueLost := v.queueLost + 1, queueSummary := some (summaryAdd m r) }
  | none =>
    if held < 31 then { v with queue := v.queue ++ [r] }
    else { v with queueLost := v.queueLost + 1, queueSummary := some (summaryOpen r) }

/-- A record of the service die: to the on-die ring while the processor die is out of reset, and otherwise to the
service die's own queue (R563). -/
def svcRecord (s : State) (sev cls code : Nat) (l : Loc) (detail : Bytes := []) : State :=
  let r : ErrRecord := { ns := recordNs s, sev := sev, cls := cls, code := code, loc := locCode s l, detail := slice detail 0 9 }
  if s.power.dieOut then putRecord s r
  else
    let s1 := logRecord { s with svc := svcQueueStore s.svc r } r
    if 3 ≤ sev then assertFaultN s1 else s1

/-- A counter of the fault manager (Table 17-8). -/
def faultCount (s : State) (off n : Nat) : State :=
  { s with fault := { s.fault with counters := cntAdd s.fault.counters off n } }

/-- The location of a SERVICE or POWER record: a unit `n` of the service die (R563, R585). -/
def svcLoc (n : Nat) : Loc := { l6 := 1, l5 := n, l4 := 0 }

/-- The location of a POWER record (R585): 7:d.6:1.5:0.4:0.3:-.2:-.1:-. -/
def powerLoc : Loc := { l6 := 1, l5 := 0, l4 := 0 }

/-- What a command leaves behind as output. -/
def emit (s : State) (o : Output) : State := { s with out := o :: s.out }

/-- A value that the spec leaves open: the next free word, and the state that has drawn it. -/
def drawFree (s : State) : BitVec 64 × State := (Config.freeWord s.free, { s with free := s.free + 1 })

end Sys2Proof.Machine
end

