-- ==== Sys2Proof/Machine/Cross.lean ====
section
/-!
DEFINITION. What several units ask of one another: the plan's part in a Hawk restart, what a DEVICE restart wipes, and
the check report and commit result of a plan command (Tables 2-9 and 2-12).
-/

namespace Sys2Proof.Machine

/-! ### Reports -/

/-- The 32 bytes of a check report (Table 2-9). -/
def reportBytes (status code sec entry detail prep buckets kib : Nat) : Bytes :=
  toLE 2 status ++ toLE 2 code ++ toLE 2 sec ++ zeros 2 ++ toLE 4 entry ++ toLE 8 detail ++ toLE 4 prep ++ toLE 4 buckets ++ toLE 4 kib

/-- A report of an outcome that no check caused (Table 2-9): what a report of checks gave stays. -/
def reportStatus (status : Nat) (r : Bytes) : Bytes := toLE 2 status ++ zeros 6 ++ toLE 4 0xFFFFFFFF ++ zeros 8 ++ slice r 20 12

/-- The 96 bytes of a commit result (Table 2-12): the epoch and the plan in force. -/
def commitResult (s : State) (report : Bytes) : Bytes :=
  report ++ toLE 4 s.plan.epoch ++ time12 s.plan.instNs s.plan.instFrac ++ slice s.plan.now.digest 0 48

/-! ### The plan and Hawk -/

/-- The epoch in force, as EPOCH of BAR0 shows it. -/
def epochInForce (s : State) : Nat := s.plan.epoch

/-- Whether an epoch instant is armed (R463). -/
def epochArmed (s : State) : Bool :=
  match s.plan.commit with
  | some c => c.step == .armed
  | none => false

/-- A key revocation or a fuse change takes a checked image back to LOADED (R556, R557). -/
def planStagingToLoaded (s : State) : State :=
  if s.plan.staging.st = .checked then { s with plan := { s.plan with staging := { s.plan.staging with st := .loaded, checkedAt := none } } }
  else s

/-- A Hawk restart abandons a commit that is not armed: the state is as before the PLAN_COMMIT, which completes with
E_PARTIAL when the restart ends (R51, R68). -/
def planHawkRestart (s : State) : State :=
  match s.plan.commit with
  | none => s
  | some c =>
    if c.step = .armed then s
    else { s with
      table := if s.plan.epoch = 0 then { s.table with seeds := none, drawn := false } else s.table
      plan := { s.plan with
        commit := none, cut := some (c.mailbox, commitResult s (reportStatus ePartial [])), undo := c.wrote || c.linesIn
        staging := { s.plan.staging with st := c.fromState } } }

/-! ### Clusters and stacks -/

/-- Whether a cluster runs at its own pace (R20). -/
def clusterFree (s : State) (n : Nat) : Bool := freePace s.plan.now n

/-- The highest of the four stack temperatures, in thousandths of a degree. -/
def hottestStack (s : State) : Int :=
  let t (n : Nat) : Int := (tblGet {} s.hbm.stackSet n).temp
  1000 * [t 1, t 2, t 3].foldl (fun a b => if a < b then b else a) (t 0)

/-! ### DEVICE restarts and power (R505, R507, R566) -/

/-- READY bits that the service die sets: SERVICE, TRNG and LOGBOOK. -/
def readyKept : Nat := 2 ^ 0 + 2 ^ 4 + 2 ^ 21

/-- Everything on the processor die, HBM included, returns to its reset values. The service die, the logbook, the balls,
the BAR0 registers of Table 0-5 and the world outside keep theirs. -/
def dieWipe (s : State) : State :=
  { s with
    ready := s.ready &&& readyKept, laneReady := 0, mem := [], cnt := [], plan := {}, ports := {}, hod := {}, stencil := {}
    cls := {}, egress := {}, core := { base := s.now }, table := {}, hbm := {}, span := {}, time := {}
    fault := { marks := s.fault.marks.filter (fun m => m.loc.l6 == 1) }
    host := { mem := s.host.mem, readData := s.host.readData } }

end Sys2Proof.Machine
end

