-- ==== Sys2Proof/Machine/Digest.lean ====
section
/-!
DEFINITION. The digests and check values the spec names by their standards: CRC-32C (R124), the Ethernet FCS
(IEEE 802.3), and SHA-384 (FIPS 180-4; R36, R540, R547).
-/

namespace Sys2Proof.Machine

/-- One step of a reflected CRC of 32 bits with the reversed polynomial `poly`. -/
def crcBit (poly c : Nat) : Nat := if c % 2 = 1 then (c / 2) ^^^ poly else c / 2

/-- One byte into a reflected CRC of 32 bits. -/
def crcByte (poly c : Nat) (b : Byte) : Nat :=
  let d := c ^^^ b.toNat
  (List.range 8).foldl (fun a _ => crcBit poly a) d

/-- A reflected CRC-32 over `b`, initial value and final XOR of all ones. -/
def crcReflected (poly : Nat) (b : Bytes) : Nat := (b.foldl (crcByte poly) 0xFFFFFFFF) ^^^ 0xFFFFFFFF

/-- CRC-32C as R124 defines it (Castagnoli polynomial, reflected). -/
def crc32c (b : Bytes) : Nat := crcReflected 0x82F63B78 b

/-- The Ethernet frame check sequence value (IEEE 802.3 3.2.9). -/
def crc32 (b : Bytes) : Nat := crcReflected 0xEDB88320 b

/-- Round constants 0 to 15 of SHA-384 (FIPS 180-4). -/
def sha384K0 : List (BitVec 64) :=
  [0x428a2f98d728ae22, 0x7137449123ef65cd, 0xb5c0fbcfec4d3b2f, 0xe9b5dba58189dbbc,
   0x3956c25bf348b538, 0x59f111f1b605d019, 0x923f82a4af194f9b, 0xab1c5ed5da6d8118,
   0xd807aa98a3030242, 0x12835b0145706fbe, 0x243185be4ee4b28c, 0x550c7dc3d5ffb4e2,
   0x72be5d74f27b896f, 0x80deb1fe3b1696b1, 0x9bdc06a725c71235, 0xc19bf174cf692694]

/-- Round constants 16 to 31 of SHA-384 (FIPS 180-4). -/
def sha384K1 : List (BitVec 64) :=
  [0xe49b69c19ef14ad2, 0xefbe4786384f25e3, 0x0fc19dc68b8cd5b5, 0x240ca1cc77ac9c65,
   0x2de92c6f592b0275, 0x4a7484aa6ea6e483, 0x5cb0a9dcbd41fbd4, 0x76f988da831153b5,
   0x983e5152ee66dfab, 0xa831c66d2db43210, 0xb00327c898fb213f, 0xbf597fc7beef0ee4,
   0xc6e00bf33da88fc2, 0xd5a79147930aa725, 0x06ca6351e003826f, 0x142929670a0e6e70]

/-- Round constants 32 to 47 of SHA-384 (FIPS 180-4). -/
def sha384K2 : List (BitVec 64) :=
  [0x27b70a8546d22ffc, 0x2e1b21385c26c926, 0x4d2c6dfc5ac42aed, 0x53380d139d95b3df,
   0x650a73548baf63de, 0x766a0abb3c77b2a8, 0x81c2c92e47edaee6, 0x92722c851482353b,
   0xa2bfe8a14cf10364, 0xa81a664bbc423001, 0xc24b8b70d0f89791, 0xc76c51a30654be30,
   0xd192e819d6ef5218, 0xd69906245565a910, 0xf40e35855771202a, 0x106aa07032bbd1b8]

/-- Round constants 48 to 63 of SHA-384 (FIPS 180-4). -/
def sha384K3 : List (BitVec 64) :=
  [0x19a4c116b8d2d0c8, 0x1e376c085141ab53, 0x2748774cdf8eeb99, 0x34b0bcb5e19b48a8,
   0x391c0cb3c5c95a63, 0x4ed8aa4ae3418acb, 0x5b9cca4f7763e373, 0x682e6ff3d6b2b8a3,
   0x748f82ee5defb2fc, 0x78a5636f43172f60, 0x84c87814a1f0ab72, 0x8cc702081a6439ec,
   0x90befffa23631e28, 0xa4506cebde82bde9, 0xbef9a3f7b2c67915, 0xc67178f2e372532b]

/-- Round constants 64 to 79 of SHA-384 (FIPS 180-4). -/
def sha384K4 : List (BitVec 64) :=
  [0xca273eceea26619c, 0xd186b8c721c0c207, 0xeada7dd6cde0eb1e, 0xf57d4f7fee6ed178,
   0x06f067aa72176fba, 0x0a637dc5a2c898a6, 0x113f9804bef90dae, 0x1b710b35131c471b,
   0x28db77f523047d84, 0x32caab7b40c72493, 0x3c9ebe0a15c9bebc, 0x431d67c49c100d4c,
   0x4cc5d4becb3e42b6, 0x597f299cfc657e2a, 0x5fcb6fab3ad6faec, 0x6c44198c4a475817]

/-- The initial hash value of SHA-384 (FIPS 180-4). -/
def sha384Init : List (BitVec 64) :=
  [0xcbbb9d5dc1059ed8, 0x629a292a367cd507, 0x9159015a3070dd17, 0x152fecd8f70e5939,
   0x67332667ffc00b31, 0x8eb44a8768581511, 0xdb0c2e0d64f98fa7, 0x47b5481dbefa4fa4]

/-- The message schedule of one 128-byte block: newest word first, `n` words still to make. -/
def sha384Schedule : Nat → List (BitVec 64) → List (BitVec 64)
  | 0, w => w
  | n + 1, w =>
    let g (i : Nat) : BitVec 64 := w.getD i 0
    let s0 := (g 14).rotateRight 1 ^^^ (g 14).rotateRight 8 ^^^ (g 14 >>> 7)
    let s1 := (g 1).rotateRight 19 ^^^ (g 1).rotateRight 61 ^^^ (g 1 >>> 6)
    sha384Schedule n ((s1 + g 6 + s0 + g 15) :: w)

/-- One round of SHA-384 on the eight working variables. -/
def sha384Round (v : List (BitVec 64)) (kw : BitVec 64 × BitVec 64) : List (BitVec 64) :=
  match v with
  | [a, b, c, d, e, f, g, h] =>
    let s1 := e.rotateRight 14 ^^^ e.rotateRight 18 ^^^ e.rotateRight 41
    let ch := (e &&& f) ^^^ (~~~e &&& g)
    let t1 := h + s1 + ch + kw.1 + kw.2
    let s0 := a.rotateRight 28 ^^^ a.rotateRight 34 ^^^ a.rotateRight 39
    let maj := (a &&& b) ^^^ (a &&& c) ^^^ (b &&& c)
    [t1 + (s0 + maj), a, b, c, d + t1, e, f, g]
  | _ => v

/-- One 128-byte block into the hash value. -/
def sha384Block (hv : List (BitVec 64)) (blk : Bytes) : List (BitVec 64) :=
  let w0 := ((List.range 16).map (fun i => BitVec.ofNat 64 (beAt blk (8 * i) 8))).reverse
  let w := (sha384Schedule 64 w0).reverse
  let k := sha384K0 ++ sha384K1 ++ sha384K2 ++ sha384K3 ++ sha384K4
  let v := (k.zip w).foldl sha384Round hv
  List.zipWith (· + ·) hv v

/-- The blocks of a padded message, `n` of them. -/
def sha384Blocks : Nat → List (BitVec 64) → Bytes → List (BitVec 64)
  | 0, hv, _ => hv
  | n + 1, hv, b => sha384Blocks n (sha384Block hv (b.take 128)) (b.drop 128)

/-- SHA-384 (FIPS 180-4): 48 bytes. -/
def sha384 (b : Bytes) : Bytes :=
  let l := b.length
  let padLen := (239 - l % 128) % 128
  let m := b ++ [0x80] ++ zeros padLen ++ toBE 16 (8 * l)
  ((sha384Blocks (m.length / 128) sha384Init m).take 6).flatMap (fun w => toBE 8 w.toNat)

end Sys2Proof.Machine
end

