-- ==== Sys2Proof/Machine/Ecdsa.lean ====
section
/-!
DEFINITION. ECDSA over P-384 (FIPS 186-5), which signs plans and firmware manifests (R38, R543, R555): curve points
in Jacobian coordinates, the check of a public key, and verification over SHA-384.
-/

namespace Sys2Proof.Machine

/-- The field prime of P-384. -/
def p384P : Nat := 2 ^ 384 - 2 ^ 128 - 2 ^ 96 + 2 ^ 32 - 1
/-- The order of the base point of P-384. -/
def p384N : Nat := 0xFFFFFFFFFFFFFFFFFFFFFFFFFFFFFFFFFFFFFFFFFFFFFFFFC7634D81F4372DDF581A0DB248B0A77AECEC196ACCC52973
/-- The coefficient b of P-384. -/
def p384B : Nat := 0xB3312FA7E23EE7E4988E056BE3F82D19181D9C6EFE8141120314088F5013875AC656398D8A2ED19D2A85C8EDD3EC2AEF
/-- The base point's x. -/
def p384Gx : Nat := 0xAA87CA22BE8B05378EB1C71EF320AD746E1D3B628BA79B9859F741E082542A385502F25DBF55296C3A545E3872760AB7
/-- The base point's y. -/
def p384Gy : Nat := 0x3617DE4A96262C6F5D9E98BF9292DC29F8F41DBD289A147CE9DA3113B5F0B8C00A60B1CE1D7E819D7A431D7C90EA0E5F

/-- `b ^ e` modulo `m`, over the `n` low bits of `e`. -/
def powModGo (m : Nat) : Nat → Nat → Nat → Nat
  | 0, _, _ => 1 % m
  | n + 1, b, e =>
    let r := powModGo m n (b * b % m) (e / 2)
    if e % 2 = 1 then b * r % m else r

/-- The inverse modulo the prime `m` (of up to 384 bits). -/
def invMod (m a : Nat) : Nat := powModGo m 384 (a % m) (m - 2)

/-- A point in Jacobian coordinates; z = 0 is the point at infinity. -/
structure JPoint where
  x : Nat
  y : Nat
  z : Nat
  deriving DecidableEq, Repr

/-- Subtraction modulo the field prime. -/
def fsub (a b : Nat) : Nat := (a + (p384P - b % p384P)) % p384P

/-- Doubling of a point. -/
def jDouble (p : JPoint) : JPoint :=
  let q := p384P
  if p.z = 0 ∨ p.y = 0 then ⟨1, 1, 0⟩
  else
    let yy := p.y * p.y % q
    let s := 4 * p.x * yy % q
    let zz := p.z * p.z % q
    let m := 3 * (fsub p.x zz) * ((p.x + zz) % q) % q
    let x := fsub (m * m % q) (2 * s % q)
    let y := fsub (m * fsub s x % q) (8 * (yy * yy % q) % q)
    ⟨x, y, 2 * p.y * p.z % q⟩

/-- Addition of two points. -/
def jAdd (a b : JPoint) : JPoint :=
  let q := p384P
  if a.z = 0 then b else if b.z = 0 then a
  else
    let za := a.z * a.z % q
    let zb := b.z * b.z % q
    let u1 := a.x * zb % q
    let u2 := b.x * za % q
    let s1 := a.y * zb * b.z % q
    let s2 := b.y * za * a.z % q
    if u1 = u2 then (if s1 = s2 then jDouble a else ⟨1, 1, 0⟩)
    else
      let h := fsub u2 u1
      let r := fsub s2 s1
      let hh := h * h % q
      let hhh := h * hh % q
      let v := u1 * hh % q
      let x := fsub (fsub (r * r % q) hhh) (2 * v % q)
      let y := fsub (r * fsub v x % q) (s1 * hhh % q)
      ⟨x, y, a.z * b.z % q * h % q⟩

/-- The multiple of a point over the `n` low bits of `k`. -/
def jMul : Nat → Nat → JPoint → JPoint
  | 0, _, _ => ⟨1, 1, 0⟩
  | n + 1, k, p =>
    let r := jMul n (k / 2) (jDouble p)
    if k % 2 = 1 then jAdd p r else r

/-- Whether `(x, y)` is a valid affine point of P-384. -/
def p384OnCurve (x y : Nat) : Bool :=
  decide (x < p384P) && decide (y < p384P) &&
    decide (y * y % p384P = fsub ((x * x % p384P * x + p384B) % p384P) (3 * x % p384P))

/-- A 96-byte public key (x, then y, big-endian) is a valid point of the curve (R555). -/
def p384KeyValid (key : Bytes) : Bool := p384OnCurve (beAt key 0 48) (beAt key 48 48)

/-- ECDSA P-384 verification over the SHA-384 digest `dg` of a message, with the signature `r`, `s`. -/
def ecdsaVerify (key dg : Bytes) (r s : Nat) : Bool :=
  if r = 0 ∨ s = 0 ∨ p384N ≤ r ∨ p384N ≤ s ∨ p384KeyValid key = false then false
  else
    let w := invMod p384N s
    let u1 := beAt dg 0 48 * w % p384N
    let u2 := r * w % p384N
    let g := jMul 384 u1 ⟨p384Gx, p384Gy, 1⟩
    let h := jMul 384 u2 ⟨beAt key 0 48, beAt key 48 48, 1⟩
    let t := jAdd g h
    if t.z = 0 then false
    else
      let zi := invMod p384P t.z
      decide (t.x * (zi * zi % p384P) % p384P % p384N = r)

/-- Whether a signature trailer is formed as Table 2-4 says and verifies under a public key over a digest (R39). -/
def trailerVerifies (key dg t : Bytes) : Bool :=
  decide (t.length = 128) && decide (leAt t 0 4 = 0x4E474953) && decide (leAt t 4 4 = 1) && allZero (slice t 104 24) &&
    ecdsaVerify key dg (beAt t 8 48) (beAt t 56 48)

end Sys2Proof.Machine
end

