-- ==== Sys2Proof/Machine/Firmware.lean ====
section
/-!
DEFINITION. The service die's firmware store: manifests, image chunks, the rollback journal, MRAM wear, fallback, and
the begin of a Hawk restart, which firmware activation shares with the host interface (R463, R464, R525 to R553).
-/

namespace Sys2Proof.Machine

/-! ### Manifest fields (Table 18-5) -/

/-- FW_VERSION. -/
def mfVersion (m : Bytes) : Nat := leAt m 12 4
/-- SEC_VERSION. -/
def mfSec (m : Bytes) : Nat := leAt m 16 4
/-- IMAGE_SIZE. -/
def mfImageSize (m : Bytes) : Nat := leAt m 20 4
/-- CHUNK_COUNT. -/
def mfChunks (m : Bytes) : Nat := leAt m 24 2
/-- HEALTH_S. -/
def mfHealth (m : Bytes) : Nat := leAt m 26 2
/-- KEY_INDEX. -/
def mfKeyIndex (m : Bytes) : Nat := leAt m 40 1
/-- CHUNK_DIGEST[i]. -/
def mfChunkDigest (m : Bytes) (i : Nat) : Bytes := slice m (256 + 48 * i) 48
/-- The signature trailer's offset. -/
def mfTrailer (m : Bytes) : Nat := 256 + 48 * mfChunks m

/-- Capacity of the rollback journal in chunks (Table 18-1, R529). -/
def journalCapacity (v : SvcState) : Nat := 192 - v.slotsDonated

/-- The MRAM blocks of image chunk `i`. -/
def chunkBlocks (i : Nat) : List Nat := (List.range 16).map (fun k => 512 + 16 * i + k)

/-- The MRAM blocks of journal slot `j`. -/
def slotBlocks (j : Nat) : List Nat := (List.range 16).map (fun k => 3584 + 16 * j + k)

/-- Chunk `i` of the image region as it stands. -/
def imageChunk (v : SvcState) (i : Nat) : Bytes := (tblFind v.image i).getD (Config.factoryChunk i)

/-- The journal's record of chunk `i`, if it holds one. -/
def journalOf (v : SvcState) (i : Nat) : Option JournalRec := v.journal.find? (fun r => r.chunk = i)

/-- Chunk `i` of CURRENT, assembled from the journal and unchanged chunks (Table 18-7); none where a word of it is
uncorrectable (R530). -/
def currentChunk (v : SvcState) (i : Nat) : Option Bytes :=
  match journalOf v i with
  | some r =>
    if r.oldDigest = zeros 48 then some (imageChunk v i)
    else if (slotBlocks r.slot).any (fun b => v.unreadable.contains b) then none
    else some (tblGet [] v.slots r.slot)
  | none => if (chunkBlocks i).any (fun b => v.unreadable.contains b) then none else some (imageChunk v i)

/-- Chunk `i` of PENDING, from the image region. -/
def pendingChunk (v : SvcState) (i : Nat) : Option Bytes :=
  if (chunkBlocks i).any (fun b => v.unreadable.contains b) then none else some (imageChunk v i)

/-- The chunk's own bytes: the last chunk is as long as IMAGE_SIZE leaves it (R539). -/
def chunkLen (m : Bytes) (i : Nat) : Nat := Nat.min 65536 (mfImageSize m - 65536 * i)

/-- The signature trailer (Table 2-4 layout) verifies under the manifest's own key (Table 18-6, 0x0006). -/
def mfSignatureOk (m : Bytes) : Bool :=
  trailerVerifies (slice m 96 96) (sha384 (m.take (mfTrailer m))) (m.drop (mfTrailer m))

/-- Verification of an image: every chunk, the whole, and the signature (R547). -/
def imageVerifies (m : Bytes) (chunk : Nat → Option Bytes) : Bool :=
  let cs := (List.range (mfChunks m)).map (fun i => (chunk i).map (fun c => slice c 0 (chunkLen m i)))
  cs.all (fun c => c.isSome) &&
    ((List.range (mfChunks m)).all (fun i => decide (sha384 ((cs.getD i none).getD []) = mfChunkDigest m i))) &&
    decide (sha384 (cs.flatMap (fun c => c.getD [])) = slice m 48 48) && mfSignatureOk m

/-! ### MRAM writes -/

/-- The retry bin of a write with this many extra pulses (R526): 0, 1, 2, 3, 4 to 7, FAILED. -/
def retryBin (pulses : Nat) : Nat := if pulses < 4 then pulses else if pulses < 8 then 4 else 5

/-- Logbook word of bin `k` of histogram `h` (0 to 5): numbered after the counters of Table 19-9. -/
def histWord (h k : Nat) : Nat := 0x2_0000 + 64 * h + k

/-- Logbook word of bin `k` of the retry histogram of MRAM block `b`. -/
def retryWord (b k : Nat) : Nat := 0x3_0000 + 8 * b + k

/-- A write to MRAM block `b` counts in its write counter and its retry bin (R526, R527), and replaces an
uncorrectable word. -/
def mramWrite (pulses : Nat) (s : State) (b : Nat) : State :=
  let s1 := logCount (logCount s (0x1_0000 + b) 1) (retryWord b (retryBin pulses)) 1
  { s1 with svc := { s1.svc with unreadable := s1.svc.unreadable.filter (fun x => x ≠ b) } }

/-- A record of class SERVICE at unit `n` of the service die (R563). -/
def serviceRecord (s : State) (sev code n : Nat) (detail : Bytes := []) : State := svcRecord s sev 0x10 code (svcLoc n) detail

/-! ### Journal -/

/-- The lowest journal slot that no record uses. -/
def freeSlot (v : SvcState) : Nat :=
  ((List.range 192).find? (fun j => v.journal.all (fun r => decide (r.slot ≠ j)))).getD 0

/-- Steps 1 and 2 of R545 for chunk `i`: the old chunk goes to a journal slot, and its record is written as COPIED. -/
def journalCopy (s : State) (i : Nat) (pulses : Nat) : State :=
  let v := s.svc
  match journalOf v i with
  | some _ => s
  | none =>
    let j := freeSlot v
    let has := decide (i < mfChunks v.current)
    let old := if has then mfChunkDigest v.current i else zeros 48
    let v1 := { v with
      slots := if has then tblSet v.slots j (imageChunk v i) else v.slots
      journal := v.journal ++ [{ chunk := i, slot := j, oldDigest := old, done := false }]
      fw := .writing }
    let s1 := { s with svc := v1 }
    if has then (slotBlocks j).foldl (mramWrite pulses) s1 else s1

/-- Steps 3 and 4 of R545: the new chunk is written, and its record is marked DONE. -/
def journalWrite (s : State) (i : Nat) (data : Bytes) (pulses : Nat) : State :=
  let v := s.svc
  let v1 := { v with
    image := tblSet v.image i data
    journal := v.journal.map (fun r => if r.chunk = i then { r with done := true } else r) }
  (chunkBlocks i).foldl (mramWrite pulses) { s with svc := v1 }

/-- JOURNAL_REPAIR (R546): each COPIED record has its chunk copied back and is cleared. -/
def journalRepair (s : State) : State :=
  let v := s.svc
  let torn := v.journal.filter (fun r => !r.done)
  let img := torn.foldl (fun m r => if r.oldDigest = zeros 48 then m else tblSet m r.chunk (tblGet [] v.slots r.slot)) v.image
  { s with svc := { v with image := img, journal := v.journal.filter (fun r => r.done) } }

/-- The journal is copied back whole and released (R551, R552). -/
def journalRestore (v : SvcState) : SvcState :=
  { v with
    image := v.journal.foldl (fun m r => if r.oldDigest = zeros 48 then m else tblSet m r.chunk (tblGet [] v.slots r.slot)) v.image
    journal := []
    slots := []
    pending := []
    fw := .idle }

/-! ### Session close (R537) -/

/-- One update datagram to an address and port (Table 18-2). -/
def sendUpdate (s : State) (addr : Bytes) (port type session seq : Nat) (body : Bytes) : State :=
  emit s (.datagram addr port
    (toBE 2 0x5356 ++ [1] ++ toBE 1 type ++ toBE 4 session ++ toBE 4 seq ++ toBE 2 body.length ++ [0, 0] ++ body))

/-- At a close each RECEIVING chunk returns to EMPTY, and a WRITING one keeps its data until it is written (R537). -/
def closeChunks (x : Session) : Session :=
  { x with
    chunks := x.chunks.filter (fun e => e.2 = .writing)
    rx := x.rx.filter (fun e => (tblGet ChunkSt.empty x.chunks e.1) = .writing) }

/-- The session closes with a reason: INT_STATUS bit 31, an S0 record, and the closing ABORT unless the host's own
ABORT closed it (R537). -/
def closeSession (s : State) (reason : Nat) : State :=
  let x := s.svc.session
  if x.st = .listen then s
  else
    let s1 := if reason = 1 then s
      else
        let f := drawFree s
        sendUpdate f.2 x.peerAddr x.peerPort 11 x.id (f.1.toNat % 2 ^ 32) (toBE 1 reason ++ [0])
    let s2 := serviceRecord (raiseInt s1 31) 0 0x0002 5 (toLE 1 reason)
    let y := closeChunks x
    { s2 with svc := { s2.svc with session := { st := .listen, chunks := y.chunks, rx := y.rx } } }

/-! ### Hawk restarts and fallback (R463, R464, R549, R551) -/

/-- A Hawk restart starts: HAWK_STATE RESTARTING, READY.HAWK and READY.MAILBOX clear, INT_STATUS bit 28; an unarmed
commit is abandoned (R464, R68). -/
def hawkRestartNow (s : State) : State :=
  let s1 := planHawkRestart { s with host := { s.host with hawkState := 2, hawkDeferred := false }, power := { s.power with loaderOk := false } }
  raiseInt (setReady (setReady s1 2 false) 3 false) 28

/-- Fallback with a reason (R551): FW_STATE becomes RESTORING and the next Hawk start runs CURRENT. -/
def fallback (s : State) (reason : Nat) : State :=
  if s.svc.fw ≠ .trial then s
  else
    let s1 := { s with svc := { s.svc with
      fw := .restoring, fallbackReason := reason, trialFirst := false, healthBy := none, runningPending := false } }
    logCount (serviceRecord s1 0 0x0007 2 (toLE 1 reason)) 0x008 1

/-- A Hawk restart that is due: in TRIAL a further one falls back with reason RESTART (R551); while an epoch instant
is armed it waits (R463). `activation` marks the restart that an activation itself starts. -/
def hawkRestartDue (s : State) (activation : Bool) : State :=
  if s.power.dieOut = false ∨ s.host.hawkState ≠ 1 then s
  else if epochArmed s then { s with host := { s.host with hawkDeferred := true } }
  else
    let s1 := if !activation && decide (s.svc.fw = .trial) then fallback s 2 else s
    hawkRestartNow s1

/-- Fallback while firmware runs: CURRENT is run through a Hawk restart (R551). -/
def fallbackRestart (s : State) (reason : Nat) : State := hawkRestartDue (fallback s reason) true

/-- Activation of a WRITTEN image (R549): TRIAL, its record, and the Hawk restart that runs PENDING. -/
def activateFirmware (s : State) : State :=
  let s1 := { s with svc := { s.svc with fw := .trial, trialFirst := true, healthBy := none, fallbackReason := 0, imageBad := false } }
  hawkRestartDue (logCount (serviceRecord s1 0 0x0005 2) 0x007 1) true

/-- A rollback (R552): WRITING and WRITTEN pass to RESTORING, TRIAL falls back with reason HOST. -/
def rollbackFirmware (s : State) : State :=
  match s.svc.fw with
  | .writing => { s with svc := { s.svc with fw := .restoring } }
  | .written => { s with svc := { s.svc with fw := .restoring } }
  | .trial => fallbackRestart s 5
  | .idle => s
  | .restoring => s

/-! ### MRAM retirement (R528 to R531) -/

/-- Whether a block's region has been donated, so that a failing block in it is not replaced (R529). -/
def regionDonated (v : SvcState) (b : Nat) : Bool :=
  (decide (6784 ≤ b) && decide (b < 15072) && decide (1 ≤ v.wearStage)) ||
    (decide (3584 ≤ b) && decide (b < 6656) && decide (192 - v.slotsDonated ≤ (b - 3584) / 16))

/-- The detail of an MRAM record: the block number in bytes 22 to 23 (R563). -/
def mramDetail (b : Nat) : Bytes := toLE 2 b

/-- The location of an MRAM record: L3 the macro, L2:L1 the byte offset within it (R563). -/
def mramLoc (b byte : Nat) : Loc :=
  let off := 4096 * (b % 1024) + byte
  { l6 := 1, l5 := 1, l4 := 0, l3 := b / 1024, l2 := off / 2 ^ 20, l1 := off % 2 ^ 20 }

/-- A record of class SERVICE about an MRAM block. -/
def mramRecord (s : State) (sev code b byte : Nat) : State := svcRecord s sev 0x10 code (mramLoc b byte) (mramDetail b)

/-- A donor block for a retirement with no spare free: the state, and whether a donor was found (R529). -/
def takeDonor (s : State) (b byte : Nat) : State × Bool :=
  let v := s.svc
  if v.donated.length < 8288 then
    let s1 := { s with svc := { v with donated := (15071 - v.donated.length) :: v.donated, wearStage := Nat.max v.wearStage 1 } }
    if v.wearStage = 0 then
      (mramRecord { s1 with log := { s1.log with writingStopped := true } } 2 0x000B b byte, true)
    else (s1, true)
  else if 0 < v.donorPool then ({ s with svc := { v with donorPool := v.donorPool - 1 } }, true)
  else if v.slotsDonated < 192 then
    (mramRecord { s with svc := { v with slotsDonated := v.slotsDonated + 1, donorPool := 15, wearStage := Nat.max v.wearStage 2 } }
      2 0x000C b byte, true)
  else if v.wearStage < 3 then (mramRecord { s with svc := { v with wearStage := 3 } } 3 0x000D b byte, false)
  else (s, false)

/-- Block `b` is retired: to a spare, or to a donor, and an S1 record is written (R528, R529). -/
def retireBlock (s : State) (b byte : Nat) : State :=
  if regionDonated s.svc b then s
  else if 0 < s.svc.sparesLeft then
    let n := 15072 + (1312 - s.svc.sparesLeft)
    mramRecord { s with svc := { s.svc with sparesLeft := s.svc.sparesLeft - 1, retired := tblSet s.svc.retired b n } } 1 0x000A b byte
  else
    let d := takeDonor s b byte
    if d.2 then mramRecord { d.1 with svc := { d.1.svc with retired := tblSet d.1.svc.retired b 0xFFFF } } 1 0x000A b byte
    else d.1

/-- The largest SEC_VERSION among the manifests that still verify, 0xFFFF when neither does (R531). -/
def minVersionRecovered (v : SvcState) : Nat :=
  let c := if mfSignatureOk v.current then [mfSec v.current] else []
  let p := if mfSignatureOk v.pending then [mfSec v.pending] else []
  match c ++ p with
  | [] => 0xFFFF
  | x :: r => r.foldl Nat.max x

/-- An item is lost in both copies (R531, R590). -/
def loseItem (s : State) (it : StoreItem) : State :=
  match it with
  | .keySlot k => { s with svc := { s.svc with keySlots := tblSet s.svc.keySlots k.val .revoked } }
  | .minFwVersion =>
    let bad := !mfSignatureOk s.svc.current && !mfSignatureOk s.svc.pending
    { s with svc := { s.svc with
      minFwVersion := minVersionRecovered s.svc
      wearStage := if bad then 3 else s.svc.wearStage } }
  | .currentManifest => { s with svc := { s.svc with current := [] } }
  | .pendingManifest =>
    let s1 := { s with svc := { s.svc with pending := [] } }
    (match s.svc.fw with
     | .writing => rollbackFirmware s1
     | .written => rollbackFirmware s1
     | .trial => fallbackRestart s1 4
     | .idle => s1
     | .restoring => s1)
  | .fwState => let s1 := journalRepair s; { s1 with svc := { s1.svc with fw := .idle } }
  | .journalRecord i =>
    { s with svc := { s.svc with journal := s.svc.journal.map (fun r => if r.chunk = i then { r with done := true } else r) } }
  | .logWord id =>
    let s1 := logCount { s with log := { s.log with words := tblSet s.log.words id { value := 0, lost := true } } } 0x00F 1
    svcRecord s1 2 0x11 0x000C powerLoc (toLE 4 id)

end Sys2Proof.Machine
end

