-- ==== Sys2Proof/Machine/Errors.lean ====
section
/-!
DEFINITION. Handling one error after another (R495 to R506): containment, unit restarts, escalation and DEVICE
restarts. A containment action (S2) ends within the command that detects the error; a unit restart (S3) ends at
UNIT_RESTART_END; a DEVICE restart (S4) is decided here and carried out by DEVICE_RESTART_DECISION.
-/

namespace Sys2Proof.Machine

/-- The restart bound of a unit in beacon ticks (Table 17-5); none for a unit without a restart. -/
def restartBound (l5 l4 : Nat) : Option Nat :=
  if l5 ≤ 15 then
    (if l4 ≤ 11 then some (usTicks 20) else if l4 ≤ 35 then some (usTicks 2) else if l4 = 36 then some (usTicks 50)
     else if l4 = 38 then some 64 else none)
  else if l5 = 16 then (if l4 ≤ 63 then some (usTicks 20) else if l4 ≤ 127 then some (usTicks 50) else none)
  else if l5 = 18 ∨ l5 = 19 then some (usTicks 100)
  else if l5 = 20 ∨ l5 = 21 then some (usTicks 200)
  else if l5 = 22 then some (usTicks 200)
  else if l5 = 23 then some (usTicks 50)
  else if l5 = 24 then some (usTicks 20)
  else if l5 = 25 then (if l4 ≤ 63 then some (usTicks 20) else if l4 ≤ 67 then some (usTicks 50) else none)
  else if l5 = 26 then some (usTicks 20)
  else if l5 = 28 then (if l4 ≤ 2 then some (usTicks 20) else none)
  else if l5 = 30 then some (msTicks 60)
  else none

/-- The unit that restarts when a part of a block fails: the blocks of Table 17-5 that restart whole are named by
their L5 alone, with L4 kept where Table 17-5 restarts the parts apart. -/
def restartUnit (l : Loc) : Loc :=
  if l.l5 ≤ 16 then { l6 := 0, l5 := l.l5, l4 := l.l4 }
  else if l.l5 = 25 then { l6 := 0, l5 := 25, l4 := if l.l4 ≤ 63 then l.l4 else 64 }
  else if l.l5 = 28 then { l6 := 0, l5 := 28, l4 := l.l4 }
  else { l6 := 0, l5 := l.l5, l4 := 0 }

/-- The READY bit of a unit's block (Table 1-2), where it has one; Hawk's two bits are handled with Hawk. -/
def unitReadyBit (l : Loc) : Option Nat :=
  if l.l5 ≤ 15 then (if 12 ≤ l.l4 ∧ l.l4 ≤ 35 then some 23 else none)
  else if l.l5 = 18 ∨ l.l5 = 19 then some 12
  else if l.l5 = 20 ∨ l.l5 = 21 then some 13
  else if l.l5 = 22 then some 10
  else if l.l5 = 23 then some 11
  else if l.l5 = 24 ∨ l.l5 = 25 then some 14
  else if l.l5 = 26 then some 24
  else if l.l5 = 28 then some (15 + l.l4)
  else none

/-- CLUSTER_READY[n], and CLUSTERS with it (Table 1-2), clear at the restart of a core or dispatcher. -/
def clusterDown (s : State) (n : Nat) : State :=
  setReady { s with host := { s.host with clusterReady := clearBit s.host.clusterReady n } } 18 false

/-- The READY bits of a unit clear (R501, step 1). -/
def unitReadyClear (s : State) (u : Loc) : State :=
  let s1 := match unitReadyBit u with
    | some b => setReady s b false
    | none => s
  if u.l5 ≤ 15 ∧ (u.l4 ≤ 11 ∨ u.l4 = 36) then clusterDown s1 u.l5 else s1

/-- A DEVICE restart is decided (R504): its trigger is kept for DEVICE_RESTART_DECISION. -/
def decideDevice (s : State) (cls code loc : Nat) : State :=
  match s.fault.trigger with
  | some _ => s
  | none => { s with fault := { s.fault with trigger := some (cls, code, loc) } }

/-- The detail of an ESCALATED record (R496): the old severity, and the class and code of the new error. -/
def escDetail (old cls code : Nat) : Bytes := toLE 1 old ++ toLE 1 cls ++ toLE 2 code

/-- The fault manager writes an ESCALATED record at severity `sev` (R496). -/
def escalated (s : State) (sev old cls code : Nat) (l : Loc) : State :=
  faultCount (record s sev 0x0F 0x0003 l (escDetail old cls code)) 0x30 1

/-- Whether a unit recovers. -/
def recovering (s : State) (u : Loc) : Bool := s.fault.recovering.any (fun r => r.loc == u)

/-- A unit restart begins (R501, step 1), unless it would be the third within 10 s of beacon time: then a DEVICE
restart takes its place (R498). -/
def startRestart (s : State) (u : Loc) (cls code : Nat) (mailbox : Option Nat := none) : State :=
  let log := s.fault.restartLog.filter (fun e => decide (s.now < e.2 + secTicks 10))
  let s0 := { s with fault := { s.fault with restartLog := log } }
  if 2 ≤ (log.filter (fun e => e.1 == u)).length then
    decideDevice (escalated s0 4 3 cls code u) cls code (locCode s u)
  else
    match restartBound u.l5 u.l4 with
    | none => decideDevice s0 cls code (locCode s u)
    | some bound =>
      let bit := match unitReadyBit u with
        | some b => if isReady s0 b ∧ u.l5 ≠ 28 then some b else none
        | none => none
      let down : Bool := decide (u.l5 ≤ 15) && (decide (u.l4 ≤ 11) || decide (u.l4 = 36)) && s0.host.clusterReady.testBit u.l5
      let s1 := { s0 with fault := { s0.fault with
        restartLog := log ++ [(u, s.now)]
        recovering := s0.fault.recovering ++
          [{ loc := u, sev := 3, cls := cls, code := code, since := s.now, mailbox := mailbox, ready := bit, cluster := down }] } }
      let us := ceilDiv bound 1600
      let s2 := faultCount (record s1 3 0x0F 0x0002 u (toLE 1 cls ++ toLE 2 code ++ toLE 4 us)) 0x40 1
      let s3 := unitReadyClear s2 u
      if u.l5 = 30 then hawkRestartNow (if s3.svc.fw = .trial then fallback (record s3 3 0x0E 0x0001 u) 2 else record s3 3 0x0E 0x0001 u) else s3

/-- Units whose errors of S3 or above are S4: the HBM controller, the time unit, the PCIe endpoint and the fault
manager (R502, R504). -/
def noRestartUnit (l5 : Nat) : Bool := decide (l5 = 17) || decide (l5 = 27) || decide (l5 = 29) || decide (l5 = 31)

/-- An error of severity `sev` in the unit of `l`, after its record: escalation, restart or DEVICE restart
(R495 to R498, R502, R504). -/
def handleError (s : State) (sev cls code : Nat) (l : Loc) : State :=
  let u := restartUnit l
  if sev < 2 then s
  else
    match s.fault.recovering.find? (fun r => r.loc == u) with
    | some r =>
      -- R496: a recovering unit's recovery is raised by one
      decideDevice (escalated s (Nat.min 4 (r.sev + 1)) r.sev cls code l) cls code (locCode s l)
    | none =>
      if sev = 4 then decideDevice s cls code (locCode s l)
      else if sev = 3 then
        (if noRestartUnit u.l5 then decideDevice s cls code (locCode s l) else startRestart s u cls code)
      else
        let log := s.fault.s2Log.filter (fun e => decide (s.now < e.2 + secTicks 1)) ++ [(u, s.now)]
        let s1 := { s with fault := { s.fault with s2Log := log } }
        if (log.filter (fun e => e.1 == u)).length < 16 then s1
        else
          let s2 := escalated { s1 with fault := { s1.fault with s2Log := log.filter (fun e => e.1 != u) } } 3 2 cls code u
          if noRestartUnit u.l5 then decideDevice s2 0x0F 0x0003 (locCode s u) else startRestart s2 u 0x0F 0x0003

/-- An error detected in a unit of the processor die: its record, and what follows from it. -/
def errorIn (s : State) (sev cls code : Nat) (l : Loc) (detail : Bytes := []) (injected : Bool := false) : State :=
  let sev1 := if sev = 3 ∧ noRestartUnit l.l5 then 4 else sev
  handleError (record s sev1 cls code l detail injected) sev1 cls code l

/-- The mark that FAULT_INJECT has placed in word `w` of a memory, if one is there (R522, R629). -/
def findMark (s : State) (l : Loc) (w : Nat) : Option ErrorMark :=
  s.fault.marks.find? (fun m => m.loc == l && m.word == w)

/-- The state without the marks in word `w` of a memory: the word was written whole, or corrected. -/
def clearMark (s : State) (l : Loc) (w : Nat) : State :=
  { s with fault := { s.fault with marks := s.fault.marks.filter (fun m => !(m.loc == l && m.word == w)) } }

end Sys2Proof.Machine
end

