-- ==== Sys2Proof/Machine/Power.lean ====
section
/-!
DEFINITION. Power, governor, resets and bring-up (R565 to R585), DEVICE restarts as the service die carries them out
(R505, R507), and FAULT_N's release by power (R518).
-/

namespace Sys2Proof.Machine

/-- A record of class POWER (Table 19-7). -/
def powerRecord (s : State) (sev code : Nat) (l : Loc := powerLoc) (detail : Bytes := []) : State := svcRecord s sev 0x11 code l detail

/-! ### DEVICE restarts (R505, R507) -/

/-- A DEVICE restart: every port, span link and PCIe goes silent, the processor die is held in reset for 10 ms, FAULT_N
is asserted and the trigger is kept (R505). A trial falls back with reason RESTART (R551). -/
def deviceRestartNow (s : State) (cls code loc : Nat) : State :=
  let s1 := fallback s 2
  let s2 := logCount (assertFaultN (dieWipe s1)) 0x005 1
  { s2 with
    svc := { s2.svc with deviceRestarts := s2.svc.deviceRestarts + 1, lastClass := cls, lastCode := code, lastLoc := loc, restartHoldUntil := none }
    power := { s2.power with
      dieOut := false, holdFrom := s.now, holding := true, loaderOk := false, memInit := false, endpointUp := false, restartRecord := true
      plumb := [], energyNj := 0, tjMax := 0, tempStage := 0, tempSvc := 0, vengMv := 0, vinMv := 0, iinMa := 0 } }

/-- Whether nothing holds the processor die in reset but its 10 ms hold (R568, R580, R583, R603). -/
def releaseAllowed (s : State) : Bool :=
  s.svc.running && s.power.group2 && s.power.group3 && !s.power.resetLow && !s.power.pfailLow && !s.power.testEn &&
    !s.power.railsHeldOff && !s.svc.imageBad

/-- The processor die leaves reset (step 5 of Table 19-6): after a DEVICE restart the ring holds its S4 record (R507),
the 10 s latch begins (R519), and the service die's queued records follow (R563). -/
def dieRelease (s : State) : State :=
  if s.power.dieOut then s
  else
    let s0 := dieWipe s
    let rec0 : ErrRecord :=
      { ns := 0, sev := 4, cls := 0x0F, code := 0x000A, loc := s.svc.lastLoc, detail := slice (toLE 1 s.svc.lastClass ++ toLE 2 s.svc.lastCode) 0 9 }
    let f1 := if s.power.restartRecord then ringStore s0.fault rec0 else s0.fault
    let qs := s.svc.queue ++ (match s.svc.queueSummary with | some m => [summaryRecord m] | none => [])
    { s0 with
      fault := qs.foldl ringStore f1
      svc := { s0.svc with
        queue := [], queueSummary := none
        restartHoldUntil := if s.power.restartRecord then some (s.now + secTicks 10) else s0.svc.restartHoldUntil }
      power := { s0.power with dieOut := true, holding := false, restartRecord := false, plumb := [] } }

/-- PROCESSOR_RESET_RELEASE: 10 ms after the hold began the processor die leaves reset (R505, R583). -/
def execProcessorResetRelease (s : State) : Res :=
  .next (if releaseAllowed s ∧ s.power.dieOut = false then dieRelease (if s.power.holding then advanceTo s (s.power.holdFrom + msTicks 10) else s) else s)

/-! ### Input power (R565 to R569) -/

/-- Everything that loses its contents with input power: the processor die, and the service die's volatile state. MRAM
and fuses keep theirs (R15, R566, R559). -/
def powerOff (s : State) : State :=
  let s1 := dieWipe s
  let v := s1.svc
  { s1 with
    ready := 0
    kept := {}
    svc := { v with
      running := false, svcEn := false, session := {}, hostEnableUntil := none, drops := 0, keks := [], trng := .collecting
      trngFails := 0, queue := [], queueSummary := none, queueLost := 0, restartHoldUntil := none }
    power := { cleanMarker := s.power.cleanMarker, pfailLow := s.power.pfailLow, resetLow := s.power.resetLow, testEn := s.power.testEn }
    log := { s1.log with words := [], dirty := [], mounted := false, eventsThisSecond := 0, secondsSinceGen := 0 }
    pkg := {} }

/-- VIN_UVLO: VIN falls below the UVLO falling threshold and every rail switches off (R566). -/
def execVinUvlo (s : State) : Res := .next (if s.power.vinValid then powerOff s else s)

/-- VIN_VALID: a power-up of the service die begins; FAULT_N is released (R518), a trial falls back with reason POWER
(R551), and whether the last loss was clean is found (R582). -/
def execVinValid (s : State) : Res :=
  .next (
    if s.power.vinValid then s
    else
      let s1 := powerOff s
      let s2 := { s1 with
        svc := { s1.svc with faultN := false, deviceRestarts := 0, lastClass := 0, lastCode := 0, lastLoc := 0 }
        power := { s1.power with vinValid := true, cleanMarker := false, lastLossUnclean := !s.power.cleanMarker } }
      fallback s2 3)

/-- RAIL_GROUP_UP: groups come up in order, each in regulation before the next starts (R568); groups 2 and 3 ramp again
10 ms after a hold began. With group 3 up the processor die leaves reset when nothing holds it. -/
def execRailGroupUp (g : RailGroup) (s : State) : Res :=
  .next (
    match g with
    | .one => if s.power.vinValid then { s with power := { s.power with group1 := true } } else s
    | .two =>
      if s.power.group1 = false ∨ s.power.railsHeldOff ∨ s.power.pfailLow then s
      else
        let s1 := if s.power.holding then advanceTo s (s.power.holdFrom + msTicks 10) else s
        { s1 with power := { s1.power with group2 := true } }
    | .three =>
      if s.power.group2 = false ∨ s.power.group3 then s
      else
        let s1 := { s with power := { s.power with group3 := true } }
        if releaseAllowed s1 then dieRelease s1 else s1)

/-- RAIL_FAULT: a rail of group 2 or 3 has left regulation for 10 µs: a DEVICE restart with both groups off, and the
third within 60 s holds them off; group 1 is a loss of input power (R569). -/
def execRailFault (g : RailGroup) (s : State) : Res :=
  .next (
    match g with
    | .one => powerOff s
    | .two => railDown s
    | .three => railDown s)
where
  railDown (s : State) : State :=
    if s.svc.running = false ∨ s.power.group2 = false then s
    else
      let s1 := deviceRestartNow (powerRecord s 4 0x0005) 0x11 0x0005 (locCode s powerLoc)
      let times := s.now :: s.power.railFaults.filter (fun t => decide (s.now < t + secTicks 60))
      { s1 with power := { s1.power with
        group2 := false, group3 := false, railFaults := times, railsHeldOff := s1.power.railsHeldOff || decide (3 ≤ times.length) } }

/-! ### Flags and SMBus alert (R567, R578) -/

/-- The state of cluster `n`'s governor. -/
def getPlumb (s : State) (n : Nat) : Plumb := tblGet {} s.power.plumb n

/-- FLAGS of Table 19-3, bits 5 to 0. -/
def powerFlags (s : State) : Nat :=
  b2n s.power.vinLow + 2 * b2n s.power.vinHigh + 4 * b2n s.power.tempHigh + 8 * b2n s.power.tempOver +
    16 * b2n (s.power.plumb.any (fun e => e.2.marginLow)) + 32 * b2n (s.power.plumb.any (fun e => e.2.sensorLost))

/-- ALERT is asserted when a bit of STATUS [5:0] sets (R578). -/
def withAlert (old new : State) : State :=
  if clearMask (powerFlags new) (powerFlags old) = 0 then new else { new with power := { new.power with alert := true } }

/-- VIN_AVERAGE: the 1 ms averages move the VIN_LOW and VIN_HIGH flags after ten in a row (R567), and count energy. -/
def execVinAverage (mv ma : Nat) (s : State) : Res :=
  .next (
    if s.svc.running = false then s
    else
      let p := s.power
      let nj := mv * ma
      let run (c : Bool) (n : Nat) : Nat := if c then n + 1 else 0
      let p1 := { p with
        vinMv := mv, iinMa := ma
        energyNj := p.energyNj + nj
        jouleNj := (p.jouleNj + nj) % 1000000000
        lowRun := run (decide (mv < 33000)) p.lowRun, lowClear := run (decide (33500 ≤ mv)) p.lowClear
        highRun := run (decide (80000 < mv)) p.highRun, highClear := run (decide (mv ≤ 79500)) p.highClear }
      let s1 := { s with power := { p1 with
        vinLow := if p1.lowRun = 10 then true else if p1.lowClear = 10 then false else p.vinLow
        vinHigh := if p1.highRun = 10 then true else if p1.highClear = 10 then false else p.vinHigh } }
      let s2 := logCount s1 0x00B ((p.jouleNj + nj) / 1000000000)
      let s3 := if p1.lowRun = 10 ∧ p.vinLow = false then powerRecord s2 0 0x0001 else s2
      let s4 := if p1.highRun = 10 ∧ p.vinHigh = false then powerRecord s3 0 0x0002 else s3
      withAlert s s4)

/-! ### Plumb (R570 to R575) -/

/-- The set-point code of 0.88 V. -/
def vMax : Nat := 88

/-- The law for a BEACON cluster (R571): one reading's effect on the set point and the count of 64. -/
def beaconLaw (p : Plumb) (d : Nat) : Plumb :=
  let m : Int := 625 - (d : Int)
  if m * 100 < 21 * 625 then { p with vcode := Nat.min vMax (p.vcode + 1), count := 0 }
  else if 23 * 625 ≤ m * 100 then
    if p.count + 1 = 64 then { p with vcode := p.vcode - 1, count := 0 } else { p with count := p.count + 1 }
  else { p with count := 0 }

/-- The law for a FREE cluster (R572), by its step rate in M steps per second. -/
def freeLaw (p : Plumb) (r : Nat) : Plumb :=
  if r < 1300 then { p with vcode := Nat.min vMax (p.vcode + 1), count := 0 }
  else if 1400 ≤ r then
    if p.count + 1 = 64 then { p with vcode := p.vcode - 1, count := 0 } else { p with count := p.count + 1 }
  else { p with count := 0 }

/-- A reading is in the target band, or the set point is at a clamp (R575). -/
def plumbSettled (free : Bool) (p : Plumb) (d r : Nat) : Bool :=
  p.settled || decide (p.vcode = 0) || decide (p.vcode = vMax) ||
    (if free then decide (1300 ≤ r) && decide (r < 1400) else decide (21 * 625 ≤ (625 - (d : Int)) * 100) && decide ((625 - (d : Int)) * 100 < 23 * 625))

/-- READY.GOVERNOR sets once every cluster has settled; CLUSTERS follows it once the memories are initialised (R575). -/
def governorReady (s : State) : State :=
  if s.power.dieOut && (List.range 16).all (fun n => (getPlumb s n).settled) then
    let s1 := setReady s 20 true
    if s1.power.memInit then setReady { s1 with host := { s1.host with clusterReady := 0xFFFF } } 18 true else s1
  else s

/-- The location of cluster `n`'s sensor (R573). -/
def sensorLoc (n : Nat) : Loc := { l6 := 0, l5 := n, l4 := 40 }

/-- SENSOR_LOST: the set point moves to 0.88 V and stays until a DEVICE restart or power-up (R574). -/
def sensorLost (s : State) (n : Nat) (p : Plumb) : State :=
  if p.sensorLost then s
  else
    powerRecord { s with power := { s.power with plumb := tblSet s.power.plumb n { p with sensorLost := true, vcode := vMax, marginLow := false, settled := true } } }
      2 0x0007 (sensorLoc n)

/-- MARGIN_LOW's entry at 0.88 V with m below 8%, and its end at 12%; one record per cluster per second (R573). -/
def marginLaw (s : State) (n : Nat) (p : Plumb) (d : Nat) : State :=
  let m : Int := 625 - (d : Int)
  let pm : Int := m * 1000 / 625
  if p.marginLow = false ∧ p.vcode = vMax ∧ m * 100 < 8 * 625 then
    let p1 := { p with marginLow := true, events := p.events + 1 }
    let s1 := logCount { s with power := { s.power with plumb := tblSet s.power.plumb n p1 } } (0x080 + n) 1
    if p.lastRecord = 0 ∨ p.lastRecord - 1 + secTicks 1 ≤ s.now then
      powerRecord { s1 with power := { s1.power with plumb := tblSet s1.power.plumb n { p1 with lastRecord := s.now + 1 } } }
        0 0x0006 (sensorLoc n) (toLE 2 (toSigned 16 pm))
    else s1
  else if p.marginLow ∧ 12 * 625 ≤ m * 100 then { s with power := { s.power with plumb := tblSet s.power.plumb n { p with marginLow := false } } }
  else { s with power := { s.power with plumb := tblSet s.power.plumb n p } }

/-- PLUMB_READING: one microsecond's reading of a cluster (R571 to R575); no reading for 4 µs is `none`. -/
def execPlumbReading (c : ClusterId) (ps : Option Nat) (rate : Nat) (s : State) : Res :=
  .next (
    let n := c.val
    if s.power.dieOut = false then s
    else
      let p := getPlumb s n
      let free := clusterFree s n
      match ps with
      | none => governorReady (withAlert s (sensorLost s n p))
      | some d =>
        if d < 150 ∨ 700 < d then governorReady (withAlert s (sensorLost s n { p with delay := d }))
        else
          let p1 := { p with delay := d, margin := (625 - (d : Int)) * 1000 / 625, rate := if free then rate else 1600 }
          let p2 := if p.sensorLost then p1 else if free then freeLaw p1 rate else beaconLaw p1 d
          let p3 := { p2 with vmaxUs := p2.vmaxUs + b2n (decide (p2.vcode = vMax)), settled := plumbSettled free p2 d rate }
          let s1 := if p.sensorLost ∨ free then { s with power := { s.power with plumb := tblSet s.power.plumb n p3 } } else marginLaw s n p3 d
          let s2 := if p3.vcode = vMax ∧ p3.vmaxUs % 1000000 = 0 then logCount s1 (0x090 + n) 1 else s1
          governorReady (withAlert s s2))

/-! ### Temperature (R576) -/

/-- TEMP_MEASURE: the millisecond measurement in m°C; TJ_MAX is the hottest cluster reading, while the processor die is
out of reset. -/
def execTempMeasure (cs : List Int) (stage svc : Int) (s : State) : Res :=
  .next (
    if s.svc.running = false then s
    else
      let p := { s.power with tempStage := stage, tempSvc := svc }
      if s.power.dieOut = false ∨ cs = [] then { s with power := p }
      else
        let tj := cs.foldl (fun a b => if a < b then b else a) (cs.headD 0)
        let plumb := (List.range 16).foldl (fun m n => tblMod {} m n (fun q => { q with temp := cs.getD n q.temp })) p.plumb
        let hi := if 100000 ≤ tj then true else if tj < 95000 then false else p.tempHigh
        let ov := if 105000 ≤ tj then true else if tj < 100000 then false else p.tempOver
        let s1 := { s with power := { p with tjMax := tj, plumb := plumb, tempHigh := hi, tempOver := ov } }
        let s2 := if hi && !p.tempHigh then powerRecord s1 0 0x0008 else s1
        let s3 := if ov && !p.tempOver then powerRecord s2 0 0x0009 else s2
        withAlert s s3)

/-! ### SMBus (R578) -/

/-- SMBus works from READY.SERVICE on, and not while boundary scan holds the balls (R578, R613). -/
def smbusUp (s : State) : Bool :=
  isReady s 0 && (match s.pkg.ir with
    | .extest => false | .highz => false | .clamp => false | .extestPulse => false | .extestTrain => false
    | .sample => true | .idcode => true | .bypass => true)

/-- The word of an SMBus Read Word command (Table 19-5). -/
def smbusWord (s : State) (cmd : Nat) : Option Nat :=
  let eighth (mc : Int) : Nat := toSigned 16 (mc * 8 / 1000)
  match cmd with
  | 0x00 => some (powerFlags s + 64 * b2n s.svc.faultN + 128 * b2n (!s.power.dieOut))
  | 0x01 => some (s.power.vinMv / 10 % 65536)
  | 0x02 => some (s.power.vinMv * s.power.iinMa / 100000 % 65536)
  | 0x03 => some (if s.power.dieOut then eighth s.power.tjMax else 0x8000)
  | 0x04 => some (eighth s.power.tempSvc)
  | 0x05 => some (s.ready % 65536)
  | 0x06 => some (s.ready / 65536 % 65536)
  | 0x07 => some ((match s.svc.fw with | .idle => 0 | .writing => 1 | .written => 2 | .trial => 3 | .restoring => 4) + 16 * s.svc.wearStage)
  | _ => none

/-- SMBUS_READ_WORD: answers a Read Word of Table 19-5; any other command is NACKed. -/
def execSmbusReadWord (cmd : BitVec 8) (s : State) : Res :=
  .next (if smbusUp s = false then s
    else match smbusWord s cmd.toNat with
      | some w => emit s (.smbusWord w)
      | none => emit s .smbusNack)

/-- SMBUS_ALERT_RESPONSE: a read of the Alert Response Address returns this device's address and releases ALERT. -/
def execSmbusAlertResponse (s : State) : Res :=
  .next (if smbusUp s && s.power.alert then emit { s with power := { s.power with alert := false } } (.smbusWord (2 * (0x58 + s.svc.devId))) else s)

/-- SMBUS_NACK: every other command and every write is NACKed. -/
def execSmbusNack (_cmd : BitVec 8) (_write : Bool) (s : State) : Res := .next (if smbusUp s then emit s .smbusNack else s)

/-! ### PFAIL_N, RESET_N, TEST_EN (R579 to R583, R603) -/

/-- The delta record written at PFAIL_N: up to 504 changed words; the rest are lost and counted (R580, R588). -/
def pfailDelta (s : State) : State :=
  if s.log.writingStopped ∨ s.log.mounted = false then s
  else
    let ws := s.log.dirty.take 504
    let lost := s.log.dirty.length - ws.length
    let s1 := { s with log := { s.log with
      deltas := (s.log.deltas ++ [({ seq := s.log.nextSeq, words := ws, short := decide (0 < lost) } : LogDelta)]).drop (s.log.deltas.length + 1 - 256)
      nextSeq := s.log.nextSeq + 1, dirty := [] } }
    if lost = 0 then s1 else logCount s1 0x00E lost

/-- PFAIL_ASSERT: a DEVICE restart with groups 2 and 3 off; the delta record and the clean-shutdown marker are written
and then no further MRAM write starts (R580). -/
def execPfailAssert (s : State) : Res :=
  .next (
    if s.power.pfailLow then s
    else if s.svc.running = false then { s with power := { s.power with pfailLow := true } }
    else
      let s1 := logCount (powerRecord s 4 0x0003) 0x003 1
      let s2 := deviceRestartNow s1 0x11 0x0003 (locCode s powerLoc)
      let s3 := pfailDelta s2
      { s3 with power := { s3.power with pfailLow := true, group2 := false, group3 := false, cleanMarker := true } })

/-- PFAIL_RELEASE: PFAIL_N is high again; groups 2 and 3 ramp after the 10 ms hold (R581). -/
def execPfailRelease (s : State) : Res :=
  .next (if s.power.pfailLow then
      { s with power := { s.power with pfailLow := false, holdFrom := s.now, holding := true, cleanMarker := s.power.cleanMarker && !s.svc.running } }
    else s)

/-- A DEVICE restart by the RESET_PIN code (R583, R603). -/
def resetPinRestart (s : State) : State :=
  if s.svc.running = false then s
  else deviceRestartNow (logCount (powerRecord s 4 0x000A) 0x004 1) 0x11 0x000A (locCode s powerLoc)

/-- RESET_ASSERT: RESET_N has been low for 1 µs: a DEVICE restart; it also ends the hold of three RAIL_FAULTs
(R569, R583). -/
def execResetAssert (s : State) : Res :=
  .next (if s.power.resetLow then s
    else
      let s1 := resetPinRestart s
      { s1 with power := { s1.power with resetLow := true, railsHeldOff := false, railFaults := [] } })

/-- RESET_RELEASE: RESET_N is high; the processor die is released after the 10 ms hold (R583). -/
def execResetRelease (s : State) : Res :=
  .next (if s.power.resetLow then { s with power := { s.power with resetLow := false, holdFrom := s.now, holding := true } } else s)

/-- TEST_EN_RISE: the processor die is held as if RESET_N were low, with a DEVICE restart of code RESET_PIN (R603). -/
def execTestEnRise (s : State) : Res :=
  .next (if s.power.testEn then s else let s1 := resetPinRestart s; { s1 with power := { s1.power with testEn := true } })

/-- TEST_EN_FALL: the processor die leaves reset 10 ms later; instructions that need TEST_EN act as BYPASS (R603, R612). -/
def execTestEnFall (s : State) : Res :=
  .next (if s.power.testEn then
      { s with
        power := { s.power with testEn := false, holdFrom := s.now, holding := true }
        pkg := { s.pkg with
          ir := (match s.pkg.ir with
            | .extest => .bypass | .highz => .bypass | .clamp => .bypass | .extestPulse => .bypass | .extestTrain => .bypass
            | .sample => .sample | .idcode => .idcode | .bypass => .bypass)
          driven := none } }
    else s)

/-! ### Power-up (R584, Table 19-6) -/

/-- SERVICE_DIE_START: the service die leaves reset, samples DEV_ID (R601), reads the fuses, repairs the journal (R546)
and sets READY.SERVICE. -/
def execServiceDieStart (s : State) : Res :=
  .next (if s.power.group1 = false ∨ s.svc.running then s
    else
      let s1 := journalRepair { s with svc := { s.svc with running := true, devId := s.svc.devIdStrap % 4 } }
      setReady s1 0 true)

/-- ON_DIE_MEMORY_INIT: the engines' READY bits set; CLUSTERS and CLUSTER_READY wait for GOVERNOR (R575). -/
def execOnDieMemoryInit (s : State) : Res :=
  .next (if s.power.dieOut = false then s
    else
      let s1 := { s with power := { s.power with memInit := true } }
      governorReady ([12, 13, 14, 23, 24].foldl (fun x b => setReady x b true) s1))

/-- PCIE_ENDPOINT_UP: the endpoint answers configuration requests (step 10). -/
def execPcieEndpointUp (s : State) : Res :=
  .next (if s.power.dieOut then refreshDma { s with power := { s.power with endpointUp := true } } else s)

end Sys2Proof.Machine
end

