-- ==== Sys2Proof/Machine/Logbook.lean ====
section
/-!
DEFINITION. The logbook: its writing to MRAM, its mount, the per-second samples, and its mailbox commands (R586 to R593).
-/

namespace Sys2Proof.Machine

/-- Result data too long for the result area goes to the indirect buffer while READY.PCIE_DMA is set, and the command
completes with E_TIMEOUT otherwise (R450). -/
def replyBulk (s : State) (mb : Nat) (indOut : Option (BitVec 64)) (data : Bytes) (direct : Bytes := []) : State :=
  match indOut with
  | none => reply s mb stOk (data ++ direct)
  | some a =>
    if isReady s 22 then
      replyWith (hostCount { s with host := { s.host with mem := memWrite s.host.mem a.toNat data } } 0x30 data.length) mb
        { status := stOk, data := direct, indDone := data.length }
    else replyWith s mb { status := eTimeout, data := direct }

/-- A command with IND_IN of `len` bytes: the payload is read before the command executes, and a failed read completes
it with E_TIMEOUT (R450). -/
def withPayload (s : State) (mb : Nat) (payload : Option Bytes) (len : Nat) (k : Bytes → State → State) : State :=
  if len = 0 ∨ 4194304 < len then reply s mb eArgs
  else
    match payload with
    | none => reply (if isReady s 22 then hostCount s 0x38 1 else s) mb eTimeout
    | some d =>
      if isReady s 22 = false then reply s mb eTimeout
      else modMb (k (slice d 0 len) (hostCount s 0x30 len)) mb (fun m => { m with reply := m.reply.map (fun r => { r with indDone := len }) })

/-- MRAM writes are allowed: PFAIL_N has not stopped them and logbook writing goes on (R580, R592). -/
def logMayWrite (s : State) : Bool := s.svc.running && s.log.mounted && !s.log.writingStopped && !s.power.pfailLow

/-- A full generation goes to the older of A and B (R588). -/
def writeGeneration (s : State) (pulses : Nat) : State :=
  let g : LogGen := { seq := s.log.nextSeq, stamp := (tblGet {} s.log.words 0).value, words := s.log.words }
  let seqOf (o : Option LogGen) : Nat := match o with | some x => x.seq | none => 0
  let intoA := decide (seqOf s.log.genA ≤ seqOf s.log.genB)
  let s1 := { s with log := { s.log with
    genA := if intoA then some g else s.log.genA
    genB := if intoA then s.log.genB else some g
    nextSeq := s.log.nextSeq + 1, dirty := [], secondsSinceGen := 0 } }
  (List.range 256).foldl (fun x k => mramWrite pulses x ((if intoA then 7040 else 7296) + k)) s1

/-- A delta record goes to the next block of the delta ring (R588). -/
def writeDelta (s : State) (pulses : Nat) : State :=
  let d : LogDelta := { seq := s.log.nextSeq, words := s.log.dirty }
  let s1 := { s with log := { s.log with
    deltas := (s.log.deltas ++ [d]).drop (s.log.deltas.length + 1 - 256), nextSeq := s.log.nextSeq + 1, dirty := [] } }
  mramWrite pulses s1 (6784 + s.log.nextSeq % 256)

/-- LOGBOOK_DELTA_WRITE: a second has passed: the second's counts, then the delta record, or a generation when more than
504 words changed (R588). -/
def execLogbookDeltaWrite (pulses : Fin 9) (s : State) : Res :=
  .next (
    if s.svc.running = false then s
    else
      let s1 := logCount s 0x000 1
      let s2 := if s.power.dieOut then logCount s1 0x00C 1 else s1
      let s3 := { s2 with log := { s2.log with eventsThisSecond := 0, secondsSinceGen := s2.log.secondsSinceGen + 1 } }
      if logMayWrite s3 = false then s3
      else if 504 < s3.log.dirty.length then writeGeneration s3 pulses.val
      else writeDelta s3 pulses.val)

/-- LOGBOOK_GENERATION_WRITE: a full generation every 256 s (R588). -/
def execLogbookGenerationWrite (pulses : Fin 9) (s : State) : Res :=
  .next (if logMayWrite s ∧ 256 ≤ s.log.secondsSinceGen then writeGeneration s pulses.val else s)

/-- The newer of the two generations. -/
def newerGen (a b : Option LogGen) : Option LogGen :=
  match a, b with
  | some x, some y => if x.seq < y.seq then some y else some x
  | some x, none => some x
  | none, y => y

/-- LOGBOOK_MOUNT: the newer generation and every newer delta in sequence order, plus the counts made since power-up;
POWER_UPS counts, and an unclean loss is counted and recorded (R582, R589). -/
def execLogbookMount (s : State) : Res :=
  .next (
    if isReady s 0 = false ∨ s.log.mounted then s
    else
      let g := newerGen s.log.genA s.log.genB
      let base : Table LogWord := match g with | some x => x.words | none => []
      let lo : Nat := match g with | some x => x.seq | none => 0
      let ds := s.log.deltas.filter (fun d => decide (lo < d.seq))
      let add (m : Table LogWord) (w : Nat × Nat) : Table LogWord := tblMod {} m w.1 (fun x => logWordAdd x w.2)
      let stored := ds.foldl (fun m d => d.words.foldl add m) base
      let lostDelta := match ds.getLast? with | some d => d.short | none => false
      let s1 := { s with log := { s.log with words := s.log.dirty.foldl add stored, mounted := true, deltaLost := lostDelta } }
      let s2 := logCount s1 0x001 1
      let s3 := if s.power.lastLossUnclean then powerRecord (logCount s2 0x002 1) 0 0x0004 else s2
      let s4 := if lostDelta then powerRecord s3 0 0x000B else s3
      setReady s4 21 true)

/-- One sample of histogram `h` in bin `k` (R587). -/
def histSample (s : State) (h k : Nat) : State := logCount s (histWord h k) 1

/-- The bin of a value in a histogram with first bound `lo`, bin width `w` and last bin `last` (R587). -/
def histBin (v lo w : Int) (last : Nat) : Nat :=
  if v < lo then 0 else Nat.min last (((v - lo) / w).toNat + 1)

/-- The lowest margin among BEACON clusters in permille, when one is BEACON. -/
def lowestMargin (s : State) : Option Int :=
  let ms := ((List.range 16).filter (fun n => !clusterFree s n)).map (fun n => (getPlumb s n).margin)
  match ms with
  | [] => none
  | x :: r => some (r.foldl (fun a b => if b < a then b else a) x)

/-- HISTOGRAM_SAMPLE: the per-second samples of Table 19-10. -/
def execHistogramSample (s : State) : Res :=
  .next (
    if s.svc.running = false then s
    else
      let s1 := histSample s 2 (histBin s.power.vinMv 30000 2000 27)
      let s2 := histSample s1 3 (Nat.min 33 (s.power.vinMv * s.power.iinMa / 10000000))
      if s.power.dieOut = false then s2
      else
        let s3 := histSample s2 0 (histBin s.power.tjMax (-40000) 5000 33)
        let s4 := histSample s3 1 (histBin (hottestStack s) (-40000) 5000 33)
        let s5 := (List.range 16).foldl (fun x n => histSample x 4 ((getPlumb s n).vcode / 2)) s4
        match lowestMargin s with
        | some m => histSample s5 5 (histBin m 0 10 41)
        | none => s5)

/-- A logbook word lies in a donated block (Table 19-8). -/
def wordDonated (s : State) (id : Nat) : Bool := decide (0 < s.svc.wearStage) && s.svc.donated.contains (Config.logBlock id)

/-- The 64 bits of a logbook word (Table 19-8). -/
def logWordBits (s : State) (id : Nat) : Nat :=
  let w := tblGet {} s.log.words id
  if wordDonated s id then 2 ^ 42
  else w.value % 2 ^ 40 + 2 ^ 40 * b2n w.sat + 2 ^ 41 * b2n w.lost

/-- Whether Table 19-9 names a counter ID. -/
def counterIdKnown (id : Nat) : Bool :=
  decide (id ≤ 0x064) || (decide (0x080 ≤ id) && decide (id ≤ 0x09F)) || (decide (0x1_0000 ≤ id) && decide (id ≤ 0x1_3FFF))

/-- LOGBOOK_STATUS (Table 19-13). -/
def execLogbookStatus (mb : MbId) (s : State) : Res :=
  .next (whenReady s mb.val 21 (fun s =>
    let g := newerGen s.log.genA s.log.genB
    let gs : Nat := match g with | some x => x.seq | none => 0
    let gt : Nat := match g with | some x => x.stamp | none => 0
    reply s mb.val stOk (toLE 1 s.svc.wearStage ++
      toLE 1 (b2n s.log.writingStopped + 2 * b2n s.power.lastLossUnclean + 4 * b2n s.log.deltaLost) ++ [0, 0] ++
      toLE 8 gs ++ toLE 8 gt ++ toLE 8 s.log.eventNext ++ toLE 4 s.log.events.length ++
      toLE 4 s.svc.donated.length ++ zeros 12)))

/-- The 40 bytes of an event entry (R591). -/
def eventBytes (e : LogEvent) : Bytes := recordBytes e.record ++ toLE 8 e.stamp

/-- LOGBOOK_READ (Table 19-12). -/
def execLogbookRead (mb : MbId) (kind : BitVec 8) (first : BitVec 64) (count : BitVec 32) (ind : Option (BitVec 64)) (s : State) : Res :=
  .next (whenReady s mb.val 21 (fun s =>
    let f := first.toNat
    let n := count.toNat
    if kind.toNat = 0 then
      if (if ind.isSome then 131072 else 62) < n ∨ 0x1_4000 < f + n then reply s mb.val eArgs
      else replyBulk s mb.val ind ((List.range n).flatMap (fun i => toLE 8 (if counterIdKnown (f + i) then logWordBits s (f + i) else 0)))
    else if kind.toNat = 1 then
      if (if ind.isSome then 16384 else 12) < n ∨ f < s.log.eventFirst ∨ s.log.eventNext < f + n then reply s mb.val eArgs
      else replyBulk s mb.val ind (((s.log.events.drop (f - s.log.eventFirst)).take n).flatMap eventBytes)
    else reply s mb.val eArgs))

/-- Bins of a histogram (Table 19-10); none for an unknown ID. -/
def histBins (id : Nat) : Option Nat :=
  if id = 0 ∨ id = 1 then some 34
  else if id = 2 then some 28
  else if id = 3 then some 34
  else if id = 4 then some 45
  else if id = 5 then some 42
  else if 0x1000 ≤ id ∧ id < 0x1000 + 16384 then some 6
  else none

/-- The logbook word of a bin. -/
def binWord (id k : Nat) : Nat := if id < 0x1000 then histWord id k else retryWord (id - 0x1000) k

/-- HISTOGRAM_READ (Table 19-12). -/
def execHistogramRead (mb : MbId) (id : BitVec 32) (fb n : BitVec 16) (s : State) : Res :=
  .next (whenReady s mb.val 21 (fun s =>
    match histBins id.toNat with
    | none => reply s mb.val eArgs
    | some b =>
      if b < fb.toNat + n.toNat then reply s mb.val eArgs
      else reply s mb.val stOk ((List.range n.toNat).flatMap (fun i => toLE 8 (logWordBits s (binWord id.toNat (fb.toNat + i)))))))

end Sys2Proof.Machine
end

