-- ==== Sys2Proof/Machine/Hbm.lean ====
section
/-!
DEFINITION. The HBM controller (R406 to R434): address decode, line accesses with ECC and activation tracking,
arbitration of queued requests, refresh, scrubbing, training and tracking.
-/

namespace Sys2Proof.Machine

/-! ### Decode (R406) -/

/-- Size of HBM in bytes. -/
def hbmSize : Nat := 0x1000000000
/-- Pseudo-channel 0 to 127 of an address (Table 14-1). -/
def hbmPc (a : Nat) : Nat := bits a 12 6 ^^^ bits a 28 22
/-- Bank within the pseudo-channel. -/
def hbmBank (a : Nat) : Nat := bits a 17 13 ^^^ bits a 33 29
/-- Row within the bank. -/
def hbmRow (a : Nat) : Nat := bits a 35 22
/-- Stack of an address. -/
def hbmStack (a : Nat) : Nat := hbmPc a % 4

/-- Location of a stack. -/
def stackLoc (n : Nat) : Loc := { l6 := 2 + n }

/-- Location and word index of the 64-bit word at an address (R520): the word in its row, 128 words a row. -/
def hbmWordLoc (a : Nat) : Loc × Nat :=
  let g := hbmPc a
  ({ l6 := 2 + g % 4, l5 := g / 4 % 16, l4 := g / 64, l3 := hbmBank a }, hbmRow a * 128 + bits a 21 18 * 8 + bits a 5 3)

/-- The location code fields of an erroneous word: row × 8,192 plus the bit within the row. -/
def hbmErrLoc (a : Nat) : Loc :=
  let lw := hbmWordLoc a
  { lw.1 with l2 := lw.2 * 64 / 2 ^ 20, l1 := lw.2 * 64 % 2 ^ 20 }

/-! ### HBM_QOS (R434) -/

/-- THRESHOLD of the plan in force. -/
def hbmThreshold (p : PlanCopy) : Nat := if p.has 0x12 then leAt ((p.sec 0x12).preamble 0x12) 0 2 else 2048
/-- SCRUB_HOURS of the plan in force. -/
def hbmScrubHours (p : PlanCopy) : Nat := if p.has 0x12 then byteAt ((p.sec 0x12).preamble 0x12) 2 else 24
/-- TARGET_NS of a port (Table 14-4). -/
def hbmTarget (p : PlanCopy) (q : Nat) : Nat :=
  if p.has 0x12 then leAt ((p.sec 0x12).entry 0x12 q) 4 4
  else
    match q with
    | 0 => 250 | 1 => 400 | 2 => 300 | 3 => 2000 | 4 => 600 | 5 => 2000 | 6 => 1000 | _ => 20000

/-- A counter of a QoS port (Table 14-8). -/
def qosCnt (s : State) (q off n : Nat) : State := { s with cnt := cntAdd s.cnt (0x9000000 + 0x100 * q + off) n }
/-- A counter of a pseudo-channel (Table 14-9). -/
def pcCnt (s : State) (g off : Nat) : State := { s with cnt := cntAdd s.cnt (0x9010000 + 0x100 * g + off) 1 }

/-! ### Activation (R418 to R420) -/

/-- Key of a row in the trackers. -/
def rowKey (g b r : Nat) : Nat := (32 * g + b) * 16384 + r

/-- Whether a source is throttled on a bank. -/
def throttled (s : State) (q src g b : Nat) : Bool :=
  s.hbm.throttles.any (fun t => t.port == q && t.source == src && t.pc == g && t.bank == b)

/-- The rows next to a crossed row that exist (R420). -/
def rowNeighbours (r : Nat) : List Nat :=
  (if 2 ≤ r then [r - 2] else []) ++ (if 1 ≤ r then [r - 1] else []) ++ (if r + 1 < 16384 then [r + 1] else []) ++
    (if r + 2 < 16384 then [r + 2] else [])

/-- A row crosses THRESHOLD (R419, R420). -/
def rowCross (s : State) (q src g b r : Nat) : State :=
  let s1 := { s with hbm := { s.hbm with
    rows := tblDel s.hbm.rows (rowKey g b r)
    targeted := s.hbm.targeted ++ (rowNeighbours r).map (fun x => (g, b, x)) } }
  if throttled s q src g b then s1
  else
    let s2 := { s1 with hbm := { s1.hbm with throttles := s1.hbm.throttles ++ [{ port := q, source := src, pc := g, bank := b, last := s.now }] } }
    record (qosCnt s2 q 0x30 1) 0 0x0C 0x0002 (unitLoc 27 g) (toLE 1 q ++ toLE 2 src ++ toLE 1 g ++ toLE 1 b ++ toLE 2 r)

/-- An activation of the row of `a` by source `src` of port `q` (R408, R418). -/
def hbmActivate (s : State) (q src a : Nat) : State :=
  let g := hbmPc a
  let b := hbmBank a
  let r := hbmRow a
  let n := tblGet 0 s.hbm.rows (rowKey g b r) + 1
  let s1 := pcCnt { s with hbm := { s.hbm with
    throttles := s.hbm.throttles.map (fun t => if t.port == q && t.source == src && t.pc == g && t.bank == b then { t with last := s.now } else t) } } g 0x00
  if hbmThreshold s.plan.now ≤ n then rowCross s1 q src g b r
  else { s1 with hbm := { s1.hbm with rows := tblSet s1.hbm.rows (rowKey g b r) n } }

/-! ### ECC (R422 to R425) -/

/-- Start of the line of an address. -/
def lineOf (a : Nat) : Nat := a - a % 64

/-- The detail of an HBM record: address, port and source. -/
def hbmDetail (a q src : Nat) : Bytes := toLE 6 a ++ toLE 1 q ++ toLE 2 src

/-- An uncorrectable error met at a word (R424): its count, its record and what follows. -/
def hbmLost (s : State) (a q src : Nat) (inj : Bool) : State :=
  let s1 := pcCnt (qosCnt s q 0x40 1) (hbmPc a) 0x28
  handleError (record s1 2 0x0C 0x0004 (hbmErrLoc a) (hbmDetail a q src) inj) 2 0x0C 0x0004 (unitLoc 27 0)

/-- A corrected error met at a word (R423): its count, its record, and a write-back of the line. -/
def hbmCorrected (s : State) (a : Nat) (inj : Bool) : State :=
  let s1 := record (pcCnt s (hbmPc a) 0x20) 1 0x0C 0x0003 (hbmErrLoc a) (hbmDetail a 0 0) inj
  if s1.hbm.waiting.any (fun r => decide (r.use = HbmFor.writeback) && r.addr == lineOf a) then s1
  else { s1 with hbm := { s1.hbm with waiting := s1.hbm.waiting ++
    [{ port := 7, source := 0, addr := lineOf a, n := 64, accepted := s.now, use := .writeback }] } }

/-- The marks in the words of a line, with the words' addresses. A parity error (kind 3) leaves the word's ECC right. -/
def lineMarks (s : State) (line : Nat) : List (Nat × ErrorMark) :=
  if s.fault.marks.isEmpty then []
  else
    (List.range 8).filterMap (fun i =>
      let lw := hbmWordLoc (line + 8 * i)
      ((findMark s lw.1 lw.2).filter (fun m => m.kind ≠ 3)).map (fun m => (line + 8 * i, m)))

/-- A read of one line by a source: whether its data arrives (R422 to R424). -/
def hbmReadLine (s : State) (q src line : Nat) : Bool × State :=
  let s1 := qosCnt (hbmActivate s q src line) q 0x00 1
  match lineMarks s1 line with
  | [] => (true, s1)
  | ms =>
    match ms.find? (fun m => decide (2 ≤ m.2.kind)) with
    | some m => (false, hbmLost s1 m.1 q src m.2.injected)
    | none => (true, ms.foldl (fun x m => hbmCorrected x m.1 m.2.injected) s1)

/-- The lines that `n` bytes from `a` touch, in ascending order. -/
def linesOf (a n : Nat) : List Nat :=
  if n = 0 then [] else (List.range ((a + n - 1) / 64 - a / 64 + 1)).map (fun i => (a / 64 + i) * 64)

/-- A read of `n` bytes of HBM by a source: the first failing line, if one fails, with the bytes. -/
def hbmRead (s : State) (q src a n : Nat) : Option Nat × Bytes × State :=
  let r := (linesOf a n).foldl (fun (x : Option Nat × State) line =>
    match x.1 with
    | some _ => x
    | none =>
      let y := hbmReadLine x.2 q src line
      (if y.1 then none else some line, y.2)) (none, s)
  (r.1, memBytes s.mem a n, r.2)

/-- The reservations on the 64-byte granule of `a` are lost (Table 12-6). -/
def dropResv (s : State) (a n : Nat) : State :=
  if s.core.threads.any (fun t => t.2.resv.isSome) then
    { s with core := { s.core with threads := s.core.threads.map (fun t =>
        match t.2.resv with
        | some (g, _) => if (linesOf a n).contains g then (t.1, { t.2 with resv := none }) else t
        | none => t) } }
  else s

/-- The words of a line that bytes `[a, a + n)` cover in part. -/
def partWords (line a n : Nat) : List Nat :=
  (List.range 8).map (fun i => line + 8 * i) |>.filter (fun w =>
    decide (w < a + n) && decide (a < w + 8) && (decide (w < a) || decide (a + n < w + 8)))

/-- The words that they cover whole. -/
def wholeWords (line a n : Nat) : List Nat :=
  (List.range 8).map (fun i => line + 8 * i) |>.filter (fun w => decide (a ≤ w) && decide (w + 8 ≤ a + n))

/-- The mark at a word's address. -/
def markAt (s : State) (w : Nat) : Option ErrorMark :=
  if s.fault.marks.isEmpty then none else (findMark s (hbmWordLoc w).1 (hbmWordLoc w).2).filter (fun m => m.kind ≠ 3)

/-- The state without the mark at a word. -/
def unmark (s : State) (w : Nat) : State :=
  if s.fault.marks.isEmpty then s else clearMark s (hbmWordLoc w).1 (hbmWordLoc w).2

/-- A write of bytes that lie in one line by a source: whether it is performed (R408, R409, R425). -/
def hbmWriteLine (s : State) (q src a : Nat) (d : Bytes) : Bool × State :=
  let line := lineOf a
  let n := d.length
  let s1 := hbmActivate s q src line
  let parts := partWords line a n
  match parts.findSome? (fun w => (markAt s1 w).bind (fun m => if 2 ≤ m.kind then some (w, m) else none)) with
  | some (w, m) => (false, hbmLost s1 w q src m.injected)
  | none =>
    let s2 := parts.foldl (fun x w =>
      match markAt x w with
      | some m => record (pcCnt (unmark x w) (hbmPc w) 0x20) 1 0x0C 0x0003 (hbmErrLoc w) (hbmDetail w 0 0) m.injected
      | none => x) s1
    let s3 := (wholeWords line a n).foldl unmark s2
    let s4 := { s3 with hbm := { s3.hbm with waiting := s3.hbm.waiting.filter (fun r => !(decide (r.use = HbmFor.writeback) && r.addr == line)) } }
    (true, qosCnt (dropResv { s4 with mem := memWrite s4.mem a d } a n) q 0x08 1)

/-- The pieces of a write, cut at lines. -/
def linePieces (a : Nat) (d : Bytes) : List (Nat × Bytes) :=
  (linesOf a d.length).map (fun line =>
    let lo := Nat.max a line
    let hi := Nat.min (a + d.length) (line + 64)
    (lo, (d.drop (lo - a)).take (hi - lo)))

/-- A write of HBM by a source: the first byte of the first piece that is refused, if one is. The pieces behind a
refused one are not written. -/
def hbmWrite (s : State) (q src a : Nat) (d : Bytes) : Option Nat × State :=
  (linePieces a d).foldl (fun (x : Option Nat × State) p =>
    match x.1 with
    | some _ => x
    | none =>
      let y := hbmWriteLine x.2 q src p.1 p.2
      (if y.1 then none else some p.1, y.2)) (none, s)

/-- A write by a unit whose refusal has no consequence of its own. -/
def hbmPut (s : State) (q src a : Nat) (d : Bytes) : State := (hbmWrite s q src a d).2

/-! ### Queued requests (R410 to R415) -/

/-- Urgency of a request by its age against its port's target (R411). -/
def urgency (s : State) (r : HbmReq) : Nat :=
  let age := (s.now - r.accepted) * 5
  let t := hbmTarget s.plan.now r.port * 8
  if 90 * t ≤ 100 * age then 3 else if 75 * t ≤ 100 * age then 2 else if 50 * t ≤ 100 * age then 1 else 0

/-- The throttle on a request's source and bank. -/
def throttleOf (s : State) (r : HbmReq) : Option Throttle :=
  s.hbm.throttles.find? (fun t => t.port == r.port && t.source == r.source && t.pc == hbmPc r.addr && t.bank == hbmBank r.addr)

/-- Requests of one source stay in acceptance order (R415): none of its earlier requests is still held. -/
def firstOfSource (l : List HbmReq) (r : HbmReq) : Bool :=
  match l.find? (fun x => x.port == r.port && x.source == r.source) with
  | some x => decide (x = r)
  | none => false

/-- The order of R412: urgency, then age, then port, then source. -/
def hbmBefore (s : State) (a b : HbmReq) : Bool :=
  let ka := (3 - urgency s a, a.accepted, a.port, a.source)
  let kb := (3 - urgency s b, b.accepted, b.port, b.source)
  decide (ka.1 < kb.1) || (ka.1 == kb.1 && (decide (ka.2.1 < kb.2.1) || (ka.2.1 == kb.2.1 &&
    (decide (ka.2.2.1 < kb.2.2.1) || (ka.2.2.1 == kb.2.2.1 && decide (ka.2.2.2 < kb.2.2.2))))))

/-- The request that a bank activates next (R412, R419). -/
def nextActivate (s : State) (g b : Nat) : Option HbmReq :=
  let ok := s.hbm.waiting.filter (fun r => !r.active && hbmPc r.addr == g && hbmBank r.addr == b && firstOfSource s.hbm.waiting r &&
    decide (r.use ≠ HbmFor.writeback) &&
    (match throttleOf s r with
      | some t => decide (t.last + 320 ≤ s.now)
      | none => true))
  match ok with
  | [] => none
  | x :: r => some (r.foldl (fun a c => if hbmBefore s c a then c else a) x)

/-- HBM_ACTIVATE: the bank activates a row for its most urgent waiting request. -/
def execHbmActivate (g : Fin 128) (b : Fin 32) (s : State) : Res :=
  .next (match nextActivate s g.val b.val with
    | none => s
    | some r =>
      let s1 := hbmActivate s r.port r.source r.addr
      let s2 := if urgency s r = 3 then qosCnt s1 r.port 0x28 1 else s1
      { s2 with hbm := { s2.hbm with waiting := s2.hbm.waiting.map (fun x => if x = r then { x with active := true } else x) } })

/-- A thread's scoreboard entry receives what a request has returned. -/
def loadPart (s : State) (tid entry a st : Nat) (d : Bytes) : State :=
  { s with core := { s.core with threads := tblMod {} s.core.threads tid (fun t =>
      { t with sb := t.sb.map (fun e => if e.id = entry then { e with parts := e.parts ++ [(a, st, d)] } else e) }) } }

/-- A thread's posted store receives the status of a request. -/
def storePart (s : State) (tid seq st : Nat) : State :=
  { s with core := { s.core with threads := tblMod {} s.core.threads tid (fun t =>
      { t with stores := t.stores.map (fun e => if e.seq = seq then { e with done := e.done ++ [st] } else e) }) } }

/-- Latency accounting of a request that is done (R411, R414). -/
def qosDone (s : State) (r : HbmReq) : State :=
  let lat := s.now - r.accepted
  let s1 := qosCnt s r.port 0x10 lat
  let k := 0x9000000 + 0x100 * r.port + 0x18
  let s2 := { s1 with cnt := tblSet s1.cnt k (Nat.max (cntGet s1.cnt k) lat) }
  if hbmTarget s.plan.now r.port * 8 < lat * 5 ∧ (throttleOf s r).isNone then qosCnt s2 r.port 0x20 1 else s2

/-- The line access of an activated request, without a second activation. -/
def hbmServe (s : State) (r : HbmReq) : Nat × Bytes × State :=
  let s0 := { s with hbm := { s.hbm with waiting := s.hbm.waiting.erase r } }
  let undo (x : State) : State := { x with hbm := { x.hbm with rows := s.hbm.rows, throttles := s.hbm.throttles, targeted := s.hbm.targeted } }
  match r.write with
  | none =>
    let y := hbmReadLine s0 r.port r.source (lineOf r.addr)
    let s1 := { undo y.2 with cnt := tblSet y.2.cnt (0x9010000 + 0x100 * hbmPc r.addr) (cntGet s0.cnt (0x9010000 + 0x100 * hbmPc r.addr)) }
    (if y.1 then stOk else eParity, memBytes s0.mem r.addr r.n, s1)
  | some d =>
    let y := hbmWriteLine s0 r.port r.source r.addr d
    let s1 := { undo y.2 with cnt := tblSet y.2.cnt (0x9010000 + 0x100 * hbmPc r.addr) (cntGet s0.cnt (0x9010000 + 0x100 * hbmPc r.addr)) }
    (if y.1 then stOk else eParity, [], s1)

/-- A thread's reservation changes. -/
def putResv (s : State) (tid : Nat) (v : Option (Nat × Nat)) : State :=
  { s with core := { s.core with threads := tblMod {} s.core.threads tid (fun t => { t with resv := v }) } }

/-- A load-reserved is performed: it reserves the granule, from the tick of its issue (R369, R371). -/
def lrDone (s : State) (tid entry a : Nat) : State :=
  match (tblGet {} s.core.threads tid).sb.find? (fun e => e.id == entry) with
  | some e => putResv s tid (some (lineOf a, e.issued))
  | none => s

/-- A store-conditional meets its place in the controller's order: it stores when the reservation holds (R370). -/
def scDone (s : State) (r : HbmReq) (tid entry : Nat) : State :=
  let ok := match (tblGet {} s.core.threads tid).resv with
    | some (g, at_) => g == lineOf r.addr && decide (s.now < at_ + 1024)
    | none => false
  let s0 := putResv s tid none
  if ok then
    let x := hbmServe s0 r
    loadPart (qosDone x.2.2 r) tid entry r.addr x.1 [0]
  else loadPart (qosDone { s0 with hbm := { s0.hbm with waiting := s0.hbm.waiting.erase r } } r) tid entry r.addr stOk [1]

/-- HBM_REQUEST_DONE: the line access that a bank has activated completes. -/
def execHbmRequestDone (g : Fin 128) (b : Fin 32) (s : State) : Res :=
  .next (match s.hbm.waiting.find? (fun r => r.active && hbmPc r.addr == g.val && hbmBank r.addr == b.val) with
    | none => s
    | some r =>
      match r.use with
      | .sc tid entry => scDone s r tid entry
      | _ =>
        let x := hbmServe s r
        let s1 := qosDone x.2.2 r
        match r.use with
        | .load tid entry => loadPart s1 tid entry r.addr x.1 x.2.1
        | .lr tid entry => loadPart (if x.1 = stOk then lrDone s1 tid entry r.addr else s1) tid entry r.addr x.1 x.2.1
        | .store tid seq => storePart s1 tid seq x.1
        | _ => s1)

/-- ECC_WRITEBACK: a corrected line is written back (R423). -/
def execEccWriteback (s : State) : Res :=
  .next (match s.hbm.waiting.find? (fun r => decide (r.use = HbmFor.writeback)) with
    | none => s
    | some r =>
      let s1 := qosCnt (hbmActivate { s with hbm := { s.hbm with waiting := s.hbm.waiting.erase r } } 7 0 r.addr) 7 0x08 1
      (lineMarks s1 r.addr).foldl (fun x m => if m.2.kind = 1 then unmark x m.1 else x) s1)

/-- PATROL_SCRUB: the scrubber reads the next line (R426). -/
def execPatrolScrub (s : State) : Res :=
  .next (let a := s.hbm.scrubAt
    if s.ready / 64 % 16 ≠ 15 then s
    else
      let s1 := pcCnt (hbmReadLine s 7 0 a).2 (hbmPc a) 0x30
      let nxt := (a + 64) % hbmSize
      { s1 with hbm := { s1.hbm with scrubAt := nxt, scrubHours := if nxt = 0 then hbmScrubHours s.plan.now else s1.hbm.scrubHours } })

/-! ### Refresh and rows (R416 to R421) -/

/-- TARGETED_REFRESH: the first row that awaits one is refreshed (R420). -/
def execTargetedRefresh (s : State) : Res :=
  .next (match s.hbm.targeted with
    | [] => s
    | (g, _, _) :: r => pcCnt { s with hbm := { s.hbm with targeted := r } } g 0x18)

/-- Length of a refresh window in ticks (R416). -/
def refreshWindow : Nat := 51200000

/-- Refreshes per window of a pseudo-channel's banks (R416, R417). -/
def refreshCount (s : State) (g : Nat) : Nat := if (tblGet {} s.hbm.stackSet (g % 4)).fast then 16384 else 8192

/-- Whether a request of urgency 2 or 3 waits on a bank. -/
def urgentWaits (s : State) (g b : Nat) : Bool :=
  s.hbm.waiting.any (fun r => hbmPc r.addr == g && hbmBank r.addr == b && decide (2 ≤ urgency s r))

/-- HBM_REFRESH: the next periodic refresh of a bank falls due (R416). -/
def execHbmRefresh (g : Fin 128) (b : Fin 32) (s0 : State) : Res :=
  .next (let k := 32 * g.val + b.val
    let n := tblGet 0 s0.hbm.refreshed k
    let total := refreshCount s0 g.val
    if total ≤ n then s0
    else
      let s := advanceTo s0 (s0.hbm.windowFrom + n * refreshWindow / total)
      let late := tblGet 0 s.hbm.postponed k
      if urgentWaits s g.val b.val ∧ late < 8 then
        pcCnt { s with hbm := { s.hbm with postponed := tblSet s.hbm.postponed k (late + 1), refreshed := tblSet s.hbm.refreshed k (n + 1) } } g.val 0x10
      else
        { s with hbm := { s.hbm with postponed := tblSet s.hbm.postponed k 0, refreshed := tblSet s.hbm.refreshed k (n + 1) }
                 cnt := cntAdd s.cnt (0x9010000 + 0x100 * g.val + 0x08) (late + 1) })

/-- REFRESH_WINDOW_END: counts and throttles restart (R421). -/
def execRefreshWindowEnd (s0 : State) : Res :=
  .next (let s := advanceTo s0 (s0.hbm.windowFrom + refreshWindow)
    { s with hbm := { s.hbm with windowFrom := s.hbm.windowFrom + refreshWindow, rows := [], throttles := [], refreshed := [] } })

/-! ### Stacks (R417, R427 to R432) -/

/-- Stack `n`. -/
def getStack (s : State) (n : Nat) : StackSt := tblGet {} s.hbm.stackSet n
/-- The state with stack `n` changed. -/
def modStack (s : State) (n : Nat) (f : StackSt → StackSt) : State :=
  { s with hbm := { s.hbm with stackSet := tblMod {} s.hbm.stackSet n f } }

/-- A stack's temperature as Hawk reads it (R417). -/
def stackTemp (s : State) (n : Nat) (t : Int) : State :=
  let x := getStack s n
  let s1 := modStack s n (fun x => { x with temp := t, fast := decide (85 < t) })
  if 85 < t ∧ ¬ 85 < x.temp then record s1 0 0x0C 0x0001 (stackLoc n) (toLE 1 (toSigned 8 t)) else s1

/-- HBM_TEMP_READ: Hawk reads the four stacks' temperatures once per millisecond. -/
def execHbmTempRead (t0 t1 t2 t3 : Int) (s : State) : Res :=
  .next (if isReady s 2 then stackTemp (stackTemp (stackTemp (stackTemp s 0 t0) 1 t1) 2 t2) 3 t3 else s)

/-- Set bits of a 32-bit number. -/
def popCount32 (v : Nat) : Nat := ((List.range 32).filter (fun i => v.testBit i)).length

/-- A training report with the pseudo-channel and attempt numbers that the device gives (Table 14-7). -/
def trainReport (attempt : Nat) (d : Bytes) : Bytes :=
  ((List.range 32).map (fun i =>
    let r := slice d (32 * i) 32
    toLE 1 i ++ slice r 1 1 ++ toLE 1 attempt ++ [0] ++ slice r 4 10 ++ [0, 0] ++ slice r 16 8 ++ zeros 8)).flatten

/-- Lanes that a report's REPAIRED fields replace. -/
def lanesRepaired (d : Bytes) : Nat := ((List.range 32).map (fun i => popCount32 (leAt d (32 * i + 4) 4))).foldl (· + ·) 0

/-- Every byte of a stack becomes zero with valid check bits (step 5 of Table 14-5). -/
def zeroStack (s : State) (n : Nat) : State :=
  { s with
    mem := s.mem.filter (fun c => !(decide (c.1 < hbmSize) && hbmStack c.1 == n))
    fault := { s.fault with marks := s.fault.marks.filter (fun m => m.loc.l6 ≠ 2 + n) } }

/-- A mailbox whose HBM_RETRAIN has run to its end is answered. -/
def stackReply (s : State) (n : Nat) : State :=
  match (getStack s n).mailbox with
  | some m => reply (modStack s n (fun x => { x with mailbox := none })) m stOk
  | none => s

/-- READY.TABLES sets once the four stacks are ready (step 12 of Table 19-6); the age clock starts at 0 (R185). -/
def tablesReady (s : State) : State :=
  if s.ready / 64 % 16 = 15 ∧ isReady s 10 = false then
    setReady { s with table := { s.table with ageClock := 0, ageAt := s.now, sweepAt := s.now, rateFrom := s.now } } 10 true
  else s

/-- HBM_TRAIN_STEP: a step of Table 14-5 ends on a stack, with the records that step 4 has measured (R427, R428). -/
def execHbmTrainStep (st : Fin 4) (passed : Bool) (report : Bytes) (s : State) : Res :=
  .next (let n := st.val
    let x := getStack s n
    if isReady s 2 = false ∨ 2 ≤ x.st then s
    else
      let step := Nat.max 1 x.step
      let att := Nat.max 1 x.attempts
      let s1 := modStack s n (fun x => { x with st := 1, step := step, attempts := att })
      let s2 := if step = 4 ∨ passed = false then modStack s1 n (fun x => { x with report := trainReport att report, lanes := lanesRepaired report }) else s1
      if step = 5 then
        tablesReady (stackReply (setReady (modStack (zeroStack s2 n) n (fun x => { x with st := 2, step := 0, readyNs := recordNs s })) (6 + n) true) n)
      else if passed then modStack s2 n (fun x => { x with step := step + 1 })
      else if att < 3 then modStack s2 n (fun x => { x with step := 1, attempts := att + 1 })
      else stackReply (record (modStack s2 n (fun x => { x with st := 3, step := 0 })) 3 0x0C 0x0005 (stackLoc n)) n)

/-- Ticks between two tracking steps (R429). -/
def trackPeriod : Nat := msTicks 10

/-- HBM_TRACKING_STEP: a pseudo-channel re-centres its timing and finds an eye, in thousandths of a UI (R429, R430). -/
def execHbmTrackingStep (pc : Fin 128) (eye : Nat) (s0 : State) : Res :=
  .next (let g := pc.val
    if (getStack s0 (g % 4)).st ≠ 2 then s0
    else
      let s := advanceTo s0 (tblGet 0 s0.hbm.tracked g + trackPeriod)
      let s1 := pcCnt { s with hbm := { s.hbm with tracked := tblSet s.hbm.tracked g s.now } } g 0x38
      if 350 ≤ eye then s1
      else
        let s2 := modStack s1 (g % 4) (fun x => { x with marginLow := true })
        let last := tblGet 0 s.hbm.marginAt g
        if last ≠ 0 ∧ s.now < last - 1 + secTicks 3600 then s2
        else record { s2 with hbm := { s2.hbm with marginAt := tblSet s2.hbm.marginAt g (s.now + 1) } } 0 0x0C 0x0006 (unitLoc 27 g))

/-- STATE of a stack: training begins once READY.HAWK has set (R427). -/
def stackState (s : State) (x : StackSt) : Nat := if x.st = 0 ∧ isReady s 2 then 1 else x.st

/-- HBM_STATUS (Table 14-6). -/
def execHbmStatus (mb : MbId) (s : State) : Res :=
  .next (reply s mb.val stOk ((List.range 4).flatMap (fun n =>
    let x := getStack s n
    toLE 1 (stackState s x) ++ toLE 1 x.attempts ++ toLE 1 (toSigned 8 x.temp) ++ toLE 1 (b2n x.fast + 2 * b2n x.marginLow) ++
      toLE 1 (satTo 255 x.lanes) ++ time10 x.readyNs ++ [0])))

/-- HBM_TRAIN_REPORT: the stack's 32 records to the indirect buffer; a stack that has not been measured gives NOT_RUN. -/
def execHbmTrainReport (mb : MbId) (stack : BitVec 8) (ind : Option (BitVec 64)) (s : State) : Res :=
  .next (if 3 < stack.toNat then reply s mb.val eArgs
    else
      let x := getStack s stack.toNat
      let d := if x.report = [] then (List.range 32).flatMap (fun i => toLE 1 i ++ [3] ++ zeros 30) else x.report
      match ind with
      | none => reply s mb.val eArgs
      | some _ => replyBulk s mb.val ind d)

/-- HBM_RETRAIN: the stack is trained again; refused while a plan is in force (R432). -/
def execHbmRetrain (mb : MbId) (stack : BitVec 8) (s : State) : Res :=
  .next (if 3 < stack.toNat then reply s mb.val eArgs
    else if isReady s 19 ∨ (getStack s stack.toNat).st = 1 then reply s mb.val eBusy
    else setReady (modStack s stack.toNat (fun x => { x with st := 1, step := 1, attempts := 1, mailbox := some mb.val })) (6 + stack.toNat) false)

end Sys2Proof.Machine
end

