-- ==== Sys2Proof/Machine/Buffers.lean ====
section
/-!
DEFINITION. Hod (R206 to R230): handles, allocation, references, free lists, head caches and recovery.
-/

namespace Sys2Proof.Machine

/-- No buffer (R210). -/
def noHandle : Nat := 0xFFFFFFFF

/-- A handle from pool, index and generation (Table 7-3). -/
def mkHandle (pool idx gen : Nat) : Nat := pool * 2 ^ 29 + idx * 64 + gen % 64
/-- POOL of a handle. -/
def hPool (h : Nat) : Nat := h / 2 ^ 29
/-- INDEX of a handle. -/
def hIndex (h : Nat) : Nat := h / 64 % 2 ^ 23
/-- GEN of a handle. -/
def hGen (h : Nat) : Nat := h % 64
/-- The buffer of a handle: 2^23 × pool + index. -/
def hKey (h : Nat) : Nat := h / 64

/-- The internal address of a buffer (R207). -/
def bufAddr (s : State) (h : Nat) : Nat := poolBase s.plan.now (hPool h) + hIndex h * poolSize (hPool h)

/-- A pool's state. -/
def getPool (s : State) (p : Nat) : PoolSt := tblGet {} s.hod.pools p
/-- The state with a pool changed. -/
def modPool (s : State) (p : Nat) (f : PoolSt → PoolSt) : State := { s with hod := { s.hod with pools := tblMod {} s.hod.pools p f } }
/-- A buffer's state word. -/
def getWord (s : State) (h : Nat) : BufWord := tblGet {} s.hod.words (hKey h)
/-- The state with a buffer's state word changed. -/
def modWord (s : State) (h : Nat) (f : BufWord → BufWord) : State :=
  { s with hod := { s.hod with words := tblMod {} s.hod.words (hKey h) f } }
/-- A counter of a pool (Table 7-8). -/
def poolCnt (s : State) (p off : Nat) : State := { s with cnt := cntAdd s.cnt (0x5000000 + 0x100 * p + off) 1 }
/-- A domain's counter for a pool (Table 7-9). -/
def domPoolCnt (s : State) (d p off : Nat) : State := { s with cnt := cntAdd s.cnt (0x5010000 + 0x100 * d + 0x20 * p + off) 1 }

/-- H_d,p. -/
def heldOf (s : State) (d p : Nat) : Nat := tblGet 0 s.hod.held (8 * d + p)
/-- F_p: the pool's buffers that are neither in use nor retired. -/
def freeOf (s : State) (p : Nat) : Nat := poolCount s.plan.now p - (getPool s p).used
/-- The state with H_d,p changed. -/
def modHeld (s : State) (d p : Nat) (f : Nat → Nat) : State :=
  { s with hod := { s.hod with held := tblMod 0 s.hod.held (8 * d + p) f } }

/-- U_p: what the enabled domains still lack of their reserves (R213). -/
def reserveDeficit (s : State) (p : Nat) : Nat :=
  ((enabledDomains s.plan.now).map (fun e => bufReserve s.plan.now e p - heldOf s e p)).sum

/-- Whether Hod's allocation path restarts (R227). -/
def hodDown (s : State) : Bool := recovering s (unitLoc 23 0)

/-- Reads word `w` of one of Hod's duplicated memories, a pool's or the holding slots (R227): an error in one copy is corrected from the other with an S1
record, and a word lost in both is S4 DUAL_COPY_LOST. -/
def dupTouch (s : State) (l4 w : Nat) : State :=
  let l0 : Loc := { unitLoc 23 l4 with l3 := 0 }
  let l1 : Loc := { unitLoc 23 l4 with l3 := 1 }
  match findMark s l0 w, findMark s l1 w with
  | none, none => s
  | a, b =>
    let lost := (match a with | some m => decide (2 ≤ m.kind) | none => false) && (match b with | some m => decide (2 ≤ m.kind) | none => false)
    let inj := (match a with | some m => m.injected | none => false) || (match b with | some m => m.injected | none => false)
    let s1 := clearMark (clearMark s l0 w) l1 w
    if lost then errorIn s1 4 0x0F 0x000B l0 [] inj else record s1 1 0x06 0x0005 l0 [] inj
/-- Reads word `w` of pool `p`'s memory. -/
def hodTouch (s : State) (p w : Nat) : State := dupTouch s p w
/-- Reads the holding slots of a thread, 8 words of two handles (Table 17-11). -/
def slotTouch (s : State) (t : Nat) : State :=
  if s.fault.marks.isEmpty then s else (List.range 8).foldl (fun x k => dupTouch x 6 (8 * t + k)) s

/-- Reads a state word through the state cache: an uncorrectable error there only drops the cached word (R227). -/
def stateTouch (s : State) (h : Nat) : State :=
  let l : Loc := { unitLoc 23 5 with l3 := 0 }
  match findMark s l (Config.statePos (hKey h)) with
  | none => s
  | some m => record (clearMark s l (Config.statePos (hKey h))) 1 0x06 0x0005 l [] m.injected

/-- The word of a head-cache position (Table 17-11). -/
def headWord (pos : Nat) : Nat := pos % 16384 / 2

/-- Why a pool refuses an allocation (R213). -/
inductive PoolRefusal where
  | empty
  | quota
  | starved
  deriving DecidableEq, Repr

/-- The refusal test of R213 for domain `d` in pool `p`. -/
def poolRefuses (s : State) (d p : Nat) : Option PoolRefusal :=
  let h := heldOf s d p
  let f := freeOf s p
  if h = bufQuota s.plan.now d p then some .quota
  else if bufReserve s.plan.now d p ≤ h ∧ f ≤ reserveDeficit s p then some .quota
  else if f = 0 then some .empty
  else if (getPool s p).head = [] ∨ hodDown s then some .starved
  else none

/-- REASON of a refusal (Table 7-6). -/
def refusalReason (r : PoolRefusal) : Nat :=
  match r with
  | .empty => 1
  | .quota => 2
  | .starved => 3

/-- The counter of a refusal (Table 7-8). -/
def refusalCounter (r : PoolRefusal) : Nat :=
  match r with
  | .empty => 0x28
  | .quota => 0x30
  | .starved => 0x38

/-- A pool grants: the head handle, the state word and the charge (R216, R219). -/
def poolGrant (s : State) (d p : Nat) : Nat × State :=
  let q := getPool s p
  match q.head with
  | [] => (noHandle, s)
  | h :: r =>
    let s0 := hodTouch (hodTouch s p (headWord q.headPos)) p (8257 + d / 2)
    let s1 := modPool s0 p (fun q => { q with
      head := r, headPos := (q.headPos + 1) % 16384, used := q.used + 1
      freeMin := some (Nat.min (q.freeMin.getD (freeOf s p)) (freeOf s p - 1)) })
    let s2 := { s1 with hod := { s1.hod with words := tblSet s1.hod.words (hKey h) { gen := hGen h, ref := 1, domain := d, st := 2 } } }
    (h, poolCnt (modHeld s2 d p (· + 1)) p 0x00)

/-- The result of an allocation: a handle, or the first refusal with its pool. -/
inductive AllocResult where
  | granted (h : Nat)
  | refused (reason pool : Nat)
  | badSize
  deriving DecidableEq, Repr

/-- Tries pools in order: each counts its own refusal (R212). -/
def allocFrom (s : State) (d : Nat) : List Nat → AllocResult × State
  | [] => (.badSize, s)
  | p :: r =>
    match poolRefuses s d p with
    | none => let g := poolGrant s d p; (.granted g.1, g.2)
    | some why =>
      let s1 := domPoolCnt (poolCnt s p (refusalCounter why)) d p 0x08
      match allocFrom s1 d r with
      | (.granted h, s2) => (.granted h, s2)
      | (_, s2) => (.refused (refusalReason why) p, s2)

/-- An allocation of need `n` for domain `d` (R212): the smallest present pool that fits, then FALLBACK larger ones;
FALLBACKS counts in the pool that refused first. -/
def hodAlloc (s : State) (d n : Nat) : AllocResult × State :=
  let fit := (presentPools s.plan.now).filter (fun p => decide (n ≤ poolSize p))
  if n = 0 then (.badSize, s)
  else
    match fit with
    | [] => (.badSize, s)
    | p :: r =>
      match allocFrom s d (p :: r.take (poolFallback s.plan.now p)) with
      | (.granted h, s1) => (.granted h, if hPool h = p then s1 else poolCnt s1 p 0x20)
      | x => x

/-! ### Frees -/

/-- A buffer whose last reference has gone (R219, R227, R228): its generation rises, its charge is released, and its
new handle goes to the head cache's tail, to the free queue during a Hod restart, or stays UNLINKED. -/
def bufFree (s : State) (h : Nat) : State :=
  let p := hPool h
  let w := getWord s h
  let g := (w.gen + 1) % 64
  let nh := mkHandle p (hIndex h) g
  let s1 := poolCnt (modHeld (hodTouch s p (8257 + w.domain / 2)) w.domain p (· - 1)) p 0x08
  let q := getPool s1 p
  if hodDown s1 then
    (if q.freeQueue.length < 16384 then
      modPool (modWord s1 h (fun w => { w with gen := g, ref := 0, st := 1 })) p (fun q => { q with freeQueue := q.freeQueue ++ [nh], used := q.used - 1 })
    else modPool (modWord s1 h (fun w => { w with gen := g, ref := 0, st := 0, unlinked := true })) p (fun q => { q with used := q.used - 1 }))
  else if q.head.length < 16384 then
    modPool (modWord (hodTouch s1 p (headWord (q.headPos + q.head.length))) h (fun w => { w with gen := g, ref := 0, st := 1 })) p
      (fun q => { q with head := q.head ++ [nh], used := q.used - 1 })
  else modPool (modWord s1 h (fun w => { w with gen := g, ref := 0, st := 0, unlinked := true })) p (fun q => { q with used := q.used - 1 })

/-- A reference is removed without the checks of Table 7-5; the last one frees the buffer. A retired buffer's count
stays (R228). -/
def bufDrop (s : State) (h : Nat) : State :=
  let w := getWord s h
  if w.st = 3 then s
  else
    let s1 := poolCnt s (hPool h) 0x18
    if w.ref ≤ 1 then bufFree s1 h else modWord s1 h (fun w => { w with ref := w.ref - 1 })

/-- Who asks for a HOLD or RELEASE: its holder ID (Table 17-4), its domain, its cross-domain right, and the THREAD_ID
when it is a thread. -/
structure Requester where
  id : Nat
  domain : Option Nat := none
  cross : Bool := true
  thread : Option Nat := none
  deriving DecidableEq, Repr

/-- Reason, status, pool counter and record code of a rejected reference operation (Table 7-5). -/
structure RefReject where
  reason : Nat
  status : Nat
  counter : Option Nat
  code : Option Nat
  deriving DecidableEq, Repr

/-- The checks of Table 7-5 in order, with R228's test of a retired buffer ahead of order 2. -/
def refCheck (s : State) (h : Nat) (hold : Bool) (r : Requester) : Option RefReject :=
  let p := hPool h
  let w := getWord s h
  if 4 < p ∨ poolCount s.plan.now p = 0 then some { reason := 5, status := eArgs, counter := none, code := some 1 }
  else if w.st = 3 ∧ hGen h = w.gen ∧ hIndex h < (getPool s p).fresh then some { reason := 0, status := eParity, counter := none, code := none }
  else if (getPool s p).fresh ≤ hIndex h ∨ hGen h ≠ w.gen ∨ w.st ≠ 2 then
    some { reason := 6, status := eSequence, counter := some 0x40, code := some 1 }
  else if w.ref = 0 then some { reason := 7, status := eSequence, counter := some 0x40, code := some 1 }
  else if !hold && (match r.thread with | some t => !(tblGet [] s.hod.slots t).contains h | none => false) then
    some { reason := 8, status := eRights, counter := some 0x48, code := some 2 }
  else if !r.cross && (match r.domain with | some d => decide (d ≠ w.domain) | none => false) then
    some { reason := 9, status := eRights, counter := some 0x48, code := some 3 }
  else if hold ∧ 63 ≤ w.ref then some { reason := 10, status := eArgs, counter := some 0x50, code := none }
  else none

/-- A rejected operation: its pool counter and its S0 record of class BUFFER (R222). -/
def refReject (s : State) (h : Nat) (r : Requester) (x : RefReject) : State :=
  let s1 := match x.counter with
    | some off => poolCnt s (hPool h) off
    | none => s
  match x.code with
  | some c => record s1 0 0x06 c (unitLoc 23 (Nat.min (hPool h) 4)) (toLE 4 h ++ toLE 2 r.id)
  | none => s1

/-- The holding slots of a thread. -/
def threadSlots (s : State) (t : Nat) : List Nat := tblGet [] s.hod.slots t

/-- The state with a thread's holding slots changed. -/
def modSlots (s : State) (t : Nat) (f : List Nat → List Nat) : State :=
  { s with hod := { s.hod with slots := tblMod [] s.hod.slots t f } }

/-- HOLD: adds a reference (R219). -/
def hodHold (s : State) (h : Nat) (r : Requester) : Option RefReject × State :=
  let s0 := stateTouch (match r.thread with | some t => slotTouch s t | none => s) h
  match refCheck s0 h true r with
  | some x => (some x, refReject s0 h r x)
  | none => (none, poolCnt (modWord s0 h (fun w => { w with ref := w.ref + 1 })) (hPool h) 0x10)

/-- RELEASE: removes a reference (R219); on a retired buffer only the holder's reference goes (R228). -/
def hodRelease (s : State) (h : Nat) (r : Requester) : Option RefReject × State :=
  let s0 := stateTouch (match r.thread with | some t => slotTouch s t | none => s) h
  let unslot := fun (x : State) => match r.thread with
    | some t => modSlots x t (fun l => l.erase h)
    | none => x
  match refCheck s0 h false r with
  | some x => (some x, refReject (if x.status = eParity then unslot s0 else s0) h r x)
  | none => (none, bufDrop (unslot s0) h)

/-- A unit of the processor die as a requester: it has its own holder ID, and its domain is the charged one (R223). -/
def unitReq (l5 l4 : Nat) : Requester := { id := 0x1000 + 0x100 * l5 + l4 }

/-- A unit releases a reference it holds. -/
def unitRelease (s : State) (h : Nat) (l5 l4 : Nat) : State := if h = noHandle then s else (hodRelease s h (unitReq l5 l4)).2

/-- Revocation of one reference (R226). -/
def revokeRef (s : State) (h : Nat) : State := poolCnt (bufDrop s h) (hPool h) 0x58

/-- Whether a recharge to domain `d` succeeds (R215). -/
def rechargeOk (s : State) (h d : Nat) : Bool :=
  let p := hPool h
  decide ((getWord s h).domain = d) ||
    (decide (heldOf s d p ≠ bufQuota s.plan.now d p) &&
      !(decide (bufReserve s.plan.now d p ≤ heldOf s d p) && decide (freeOf s p ≤ reserveDeficit s p)))

/-- The charge moves to domain `d` (R215). -/
def recharge (s : State) (h d : Nat) : State :=
  let p := hPool h
  let old := (getWord s h).domain
  if old = d then s
  else modWord (modHeld (modHeld s old p (· - 1)) d p (· + 1)) h (fun w => { w with domain := d })

/-! ### Head caches and chains (R216, R217, R228) -/

/-- The handle of a chain's first bundle. -/
def chainHead (q : PoolSt) (c : Nat) : Nat := tblGet noHandle q.chains c

/-- The chains that a refill may read: not empty and not stopped, in rotation from `rotIn`. -/
def refillChains (q : PoolSt) : List Nat :=
  ((List.range 64).map (fun i => (q.rotIn + i) % 64)).filter (fun c =>
    decide (chainHead q c ≠ noHandle) && !q.stopped.contains c && !(q.reads.any (fun e => e.1 == c)))

/-- HEAD_CACHE_REFILL: below 8,192 handles a refill starts bundle reads, one per chain and up to 64 in flight, or takes
fresh indices when the chains are empty (R216, R217). -/
def execHeadCacheRefill (pool : Fin 5) (s : State) : Res :=
  let p := pool.val
  let q := getPool s p
  let n := poolCount s.plan.now p
  .next (if 8192 ≤ q.head.length ∨ n = 0 ∨ hodDown s then s
    else
      let cs := (refillChains q).take (64 - q.reads.length)
      if cs ≠ [] then
        let s1 := cs.foldl (fun x c => hodTouch x p (8192 + c)) s
        modPool s1 p (fun q => { q with reads := q.reads ++ cs.map (fun c => (c, chainHead q c)), rotIn := (q.rotIn + cs.length) % 64 })
      else if q.reads = [] ∧ (List.range 64).all (fun c => decide (chainHead q c = noHandle)) then
        let k := Nat.min (8192 - q.head.length) (n - q.fresh)
        modPool (hodTouch s p 8256) p (fun q => { q with
          head := q.head ++ (List.range k).map (fun i => mkHandle p (q.fresh + i) 0), fresh := q.fresh + k })
      else s)

/-- The handles that a bundle's first 128 bytes list (Table 7-4). -/
def bundleHandles (b : Bytes) : List Nat := (List.range (Nat.min 30 (byteAt b 4))).map (fun i => leAt b (8 + 4 * i) 4)

/-- Whether an unlinked buffer or a lost chain awaits a sweep is held in the state words; a handle leaves the chains. -/
def cacheHandle (s : State) (h : Nat) : State := modWord s h (fun w => { w with st := 1, gen := hGen h })

/-- BUNDLE_READ_DONE: the oldest bundle read of the pool returns: the 30 handles it lists and its own enter the head
cache (R216); a lost bundle retires its buffer and stops its chain (R228). -/
def execBundleReadDone (pool : Fin 5) (lost : Bool) (s : State) : Res :=
  let p := pool.val
  let q := getPool s p
  .next (match q.reads with
    | [] => s
    | (c, h) :: r =>
      let rd := hbmRead s 2 64 (bufAddr s h) 128
      if lost ∨ rd.1.isSome then
        let s1 := errorIn rd.2.2 2 0x06 0x0004 (unitLoc 23 p)
        let s2 := modWord s1 h (fun w => { w with st := 3 })
        poolCnt (modPool s2 p (fun q => { q with
          reads := r, chains := tblDel q.chains c, stopped := q.stopped ++ [c], used := q.used + 1, retired := q.retired + 1 })) p 0x60
      else
        let b := rd.2.1
        let hs := bundleHandles b ++ [h]
        let s1 := hs.foldl cacheHandle rd.2.2
        let nx := leAt b 0 4
        modPool s1 p (fun q => { q with
          reads := r, head := q.head ++ hs
          chains := if nx = noHandle then tblDel q.chains c else tblSet q.chains c nx }))

/-- A bundle of up to 31 free handles is written to chain `c`: its own buffer is the last of them (Table 7-4). -/
def writeBundle (s : State) (p c : Nat) (hs : List Nat) : State :=
  match hs.reverse with
  | [] => s
  | b :: r =>
    let listed := r.reverse
    let q := getPool s p
    let d := toLE 4 (chainHead q c) ++ toLE 1 listed.length ++ zeros 3 ++ listed.flatMap (toLE 4) ++ zeros (4 * (30 - listed.length))
    let s1 := hbmPut s 1 64 (bufAddr s b) d
    let s2 := hs.foldl (fun x h => modWord x h (fun w => { w with st := 0, chain := c, unlinked := false, gen := hGen h })) s1
    modPool (hodTouch s2 p (8192 + c)) p (fun q => { q with chains := tblSet q.chains c b })

/-- The next chain in the write-out's rotation that is not stopped. -/
def outChain (q : PoolSt) : Option Nat :=
  ((List.range 64).map (fun i => (q.rotOut + i) % 64)).find? (fun c => !q.stopped.contains c)

/-- Bundles are written while the head cache holds more than 14,336 handles (R216). -/
def writeOut (p : Nat) : Nat → State → State
  | 0, s => s
  | fuel + 1, s =>
    let q := getPool s p
    match outChain q with
    | none => s
    | some c =>
      if q.head.length ≤ 14336 then s
      else
        let keep := q.head.length - 31
        let s1 := modPool (writeBundle s p c (q.head.drop keep)) p (fun q => { q with head := q.head.take keep, rotOut := (c + 1) % 64 })
        writeOut p fuel s1

/-- HEAD_CACHE_WRITEOUT. -/
def execHeadCacheWriteout (pool : Fin 5) (s : State) : Res :=
  .next (if hodDown s then s else writeOut pool.val 67 s)

/-- Free handles gathered by a sweep of the pool's state array: those whose state word satisfies `f`. -/
def sweepHandles (s : State) (p : Nat) (f : BufWord → Bool) : List Nat :=
  (s.hod.words.filter (fun e => decide (e.1 / 2 ^ 23 = p) && f e.2)).map (fun e => mkHandle p (e.1 % 2 ^ 23) e.2.gen)

/-- Writes handles into bundles of 31 on a chain. -/
def bundleUp (p c : Nat) : Nat → List Nat → State → State
  | 0, _, s => s
  | fuel + 1, hs, s => if hs = [] then s else bundleUp p c fuel (hs.drop 31) (writeBundle s p c (hs.take 31))

/-- CHAIN_SWEEP_DONE: the buffers that the lost chain held are written into fresh bundles of it, and it is used again
(R228). -/
def execChainSweepDone (pool : Fin 5) (chain : Fin 64) (s : State) : Res :=
  let p := pool.val
  let c := chain.val
  .next (if (getPool s p).stopped.contains c = false then s
    else
      let hs := sweepHandles s p (fun w => decide (w.st = 0) && decide (w.chain = c) && !w.unlinked)
      let s1 := modPool s p (fun q => { q with stopped := q.stopped.filter (· ≠ c), chains := tblDel q.chains c })
      bundleUp p c hs.length hs s1)

/-- UNLINKED_SWEEP: links the UNLINKED buffers of a pool into its chains (R227, R228). -/
def execUnlinkedSweep (pool : Fin 5) (s : State) : Res :=
  let p := pool.val
  .next (if hodDown s then s
    else
      match outChain (getPool s p) with
      | none => s
      | some c =>
        let hs := sweepHandles s p (fun w => decide (w.st = 0) && w.unlinked)
        bundleUp p c hs.length hs s)

/-- The end of a Hod restart: each free queue moves to its pool's head-cache tail (R227). -/
def hodRestartEnd (s : State) : State :=
  (List.range 5).foldl (fun x p =>
    modPool x p (fun q => { q with head := q.head ++ q.freeQueue, freeQueue := [], reads := [] })) s

end Sys2Proof.Machine
end

