-- ==== Sys2Proof/Machine/ClassCfg.lean ====
section
/-!
DEFINITION. Reading the RULES_RANGE, RULES_HOLT and STREAMS sections (Tables 5-2 to 5-6, 5-12, 5-14, 5-16, 5-17).
-/

namespace Sys2Proof.Machine

/-- Rules or Holt entries of a pipeline. -/
def rulesPerPipe : Nat := 24576

/-- The section whose PIPE_MASK names a pipeline: 5 native, 6 Holt-compatible (R137). -/
def pipeSection (p : PlanCopy) (pipe : Nat) : Option Nat :=
  if (p.sec 5).byte 0 |>.testBit pipe then some 5 else if (p.sec 6).byte 0 |>.testBit pipe then some 6 else none

/-- PRIORITY_CLASS_MASK of a pipeline. -/
def priorityMask (p : PlanCopy) (pipe : Nat) : Nat :=
  match pipeSection p pipe with
  | some t => (p.sec t).le (2 + 2 * pipe) 2
  | none => 0

/-- DEFAULT_RESULT of a pipeline. -/
def defaultResult (p : PlanCopy) (pipe : Nat) : Bytes :=
  match pipeSection p pipe with
  | some t => memBytes (p.sec t).mem (64 + 32 * pipe) 32
  | none => zeros 32

/-- Profile `k` of a pipeline. -/
def profileOf (p : PlanCopy) (t pipe k : Nat) : Bytes := memBytes (p.sec t).mem (128 + 96 * (16 * pipe + k)) 96

/-- The valid entries of a pipeline: index within the pipeline, and entry. -/
def pipeRules (p : PlanCopy) (t pipe : Nat) : List (Nat × Bytes) :=
  (((p.sec t).entries t).filter (fun e => decide (e.1 / rulesPerPipe = pipe) && (byteAt e.2 0).testBit 0)).map
    (fun e => (e.1 % rulesPerPipe, e.2))

/-- A descriptor of a table of a pipeline in RULES_HOLT. -/
def holtTable (p : PlanCopy) (pipe t : Nat) : Bytes := memBytes (p.sec 6).mem (3200 + 8 * (8 * pipe + t)) 8
/-- PORT_META of a port. -/
def portMeta (p : PlanCopy) (n : Nat) : Nat := (p.sec 6).le (3328 + 8 * n) 8

/-- The fields of a result record (Table 5-6). -/
structure RuleResult where
  action : Nat
  consume : Bool
  streamEn : Bool
  meterEn : Bool
  domain : Nat
  prio : Nat
  od : Nat
  stream : Nat
  chain : Nat
  meter : Nat
  ring : Nat
  mirror : Nat
  user : Nat
  deriving DecidableEq, Repr, Inhabited

/-- A result record read. -/
def resultOf (b : Bytes) : RuleResult :=
  { action := byteAt b 0, consume := (byteAt b 1).testBit 0, streamEn := (byteAt b 1).testBit 1, meterEn := (byteAt b 1).testBit 2
    domain := byteAt b 2, prio := byteAt b 3, od := leAt b 4 2, stream := leAt b 6 2, chain := leAt b 8 2, meter := leAt b 10 2
    ring := byteAt b 12, mirror := byteAt b 13, user := leAt b 16 8 }

/-- The IDENT entries: handle and entry. -/
def identsOf (p : PlanCopy) : List (Nat × Bytes) := (((p.sec 7).kind 7 1).zipIdx).map (fun e => (e.2, e.1.2))
/-- The filters: number and entry. -/
def filtersOf (p : PlanCopy) : List (Nat × Bytes) := (((p.sec 7).kind 7 2).zipIdx).map (fun e => (e.2, e.1.2))
/-- A stream gate's entry. -/
def sgateOf (p : PlanCopy) (g : Nat) : Option Bytes := kindEnt p 7 3 g
/-- Operation `k` of the stream gates. -/
def sgateOp (p : PlanCopy) (k : Nat) : Bytes :=
  match kindEnt p 7 4 (k / 7) with
  | some e => slice e (8 + 8 * (k % 7)) 8
  | none => zeros 8
/-- A stream gate's operations. -/
def sgateOps (p : PlanCopy) (e : Bytes) : List Bytes := (List.range (leAt e 6 2)).map (fun k => sgateOp p (leAt e 4 2 + k))
/-- BASE_TIME of a stream gate. -/
def sgateBase (e : Bytes) : Nat := leAt e 8 6 * 1000000000 + leAt e 14 4
/-- CYCLE_NS of a stream gate. -/
def sgateCycle (e : Bytes) : Nat := leAt e 18 4
/-- A meter's entry. -/
def meterOf (p : PlanCopy) (m : Nat) : Option Bytes := kindEnt p 7 5 m
/-- The offset register that a STREAMS slot names: 0 L2, 1 VLAN, 2 L3, 3 L4. -/
def streamSlot (p : PlanCopy) (k : Nat) : Nat := (p.sec 7).byte k
/-- IPV4_CLASS and IPV6_CLASS. -/
def ipClasses (p : PlanCopy) : Nat × Nat := ((p.sec 7).le 4 2, (p.sec 7).le 6 2)

end Sys2Proof.Machine
end

