-- ==== Sys2Proof/Machine/Order.lean ====
section
/-!
DEFINITION. The order-restore unit (R231 to R237): entries, posts, release in key order and the gap rule.
-/

namespace Sys2Proof.Machine

/-- MAX_RESIDENCE of a live epoch in beacon ticks; 0 for an epoch that has retired. -/
def residence (s : State) (e : Nat) : Nat :=
  let p := s.plan.of e
  if p.epoch = e then usTicks p.maxRes else 0

/-- Whether a packet admitted at `tick` under epoch `e` is older than its MAX_RESIDENCE (R63). -/
def aged (s : State) (e tick : Nat) : Bool := decide (tick + residence s e < s.now)

/-- A counter of a domain (Table 8-9). -/
def domCnt (s : State) (d off : Nat) : State := { s with cnt := cntAdd s.cnt (0x6401000 + 0x80 * d + off) 1 }
/-- A counter of a port's egress block (Table 8-7). -/
def portEgr (s : State) (n off : Nat) : State := { s with cnt := cntAdd s.cnt (0x6000400 + 0x1000 * n + off) 1 }
/-- A counter of a queue (Table 8-6). -/
def queueCnt (s : State) (n q off k : Nat) : State := { s with cnt := cntAdd s.cnt (0x6000000 + 0x1000 * n + 0x40 * q + off) k }
/-- A counter of the order-restore unit (Table 8-8). -/
def orderCnt (s : State) (off : Nat) : State := { s with cnt := cntAdd s.cnt (0x6400000 + off) 1 }

/-- An age drop before an egress queue: PLAN_STATUS, the domain and the port of admission count it (R63, Table 8-7). -/
def ageDrop (s : State) (d source : Nat) : State :=
  let s1 := domCnt { s with plan := { s.plan with ageDrops := s.plan.ageDrops + 1 } } d 0x08
  if source < 64 then portEgr s1 source 0x38 else s1

/-! ### Entries -/

/-- The entry with a key (R232). -/
def findEntry (s : State) (tick source : Nat) : Option OrderEntry :=
  s.egress.entries.find? (fun e => e.tick == tick && e.source == source)

/-- The state with the entry of a key changed. -/
def modEntry (s : State) (tick source : Nat) (f : OrderEntry → OrderEntry) : State :=
  { s with egress := { s.egress with entries := s.egress.entries.map (fun e => if e.tick == tick && e.source == source then f e else e) } }

/-- The state without the entry of a key. -/
def delEntry (s : State) (tick source : Nat) : State :=
  { s with egress := { s.egress with entries := s.egress.entries.filter (fun e => !(e.tick == tick && e.source == source)) } }

/-- The unit's capacity (R233). -/
def orderCapacity : Nat := 1048576

/-- A packet receives an entry, or ORDER_FULL counts in the unit and the domain (R231, R233). -/
def orderEnter (s : State) (e : OrderEntry) : Bool × State :=
  if orderCapacity ≤ s.egress.entries.length then (false, domCnt (orderCnt s 0x20) e.domain 0x00)
  else
    let es := s.egress.entries ++ [e]
    (true, { s with egress := { s.egress with entries := es, entriesMax := Nat.max s.egress.entriesMax es.length } })

/-- HANDLE of an egress descriptor. -/
def dHandle (d : Bytes) : Nat := leAt d 0 4
/-- DEST_KIND. -/
def dKind (d : Bytes) : Nat := byteAt d 8

/-- The references that the entry's descriptors have handed over, but for the packet's own buffer (R221). -/
def descHandles (e : OrderEntry) : List Nat := (e.descs.map dHandle).filter (fun h => h ≠ e.handle)

/-- The unit's releases of a list of references. -/
def releaseAll (s : State) (hs : List Nat) : State := hs.foldl (fun x h => unitRelease x h 24 0) s

/-- A unit or recovery that discards a packet holding an entry completes the entry with a drop marker (R235). -/
def orderDrop (s : State) (tick source : Nat) : State :=
  match findEntry s tick source with
  | none => s
  | some e => modEntry (releaseAll s (descHandles e)) tick source (fun e => { e with descs := [], complete := true, drop := true })

/-! ### Posts (R234) -/

/-- A descriptor that is malformed against Table 8-2: DISCARD and CONSUME read no other field. -/
def descMalformed (s : State) (d : Bytes) : Bool :=
  let k := dKind d
  let h := dHandle d
  if k = 6 ∨ k = 7 then false
  else
    decide (7 < k) || decide (leAt d 6 2 < 60) || decide (10236 < leAt d 6 2) || decide (4 < hPool h) ||
      decide (poolCount s.plan.now (hPool h) = 0) || decide (poolSize (hPool h) < leAt d 4 2 + leAt d 6 2) ||
      (decide (k = 0) && decide (63 < byteAt d 9)) || (decide (k = 4) && decide (2 < byteAt d 9)) ||
      (decide (k = 5) && !(decide (byteAt d 9 ≤ 7) || decide (byteAt d 9 = 15))) ||
      decide (64 ≤ byteAt d 12) || decide (16 ≤ byteAt d 13) || ((byteAt d 13).testBit 1 && (byteAt d 13).testBit 2) ||
      !allZero (slice d 24 8)

/-- The references that a post hands over: another buffer than the packet's with the post itself, the packet's with
LAST (R221). -/
def handedBy (d : Bytes) (last : Bool) (item : Nat) : List Nat :=
  (if dKind d < 6 ∧ dHandle d ≠ item then [dHandle d] else []) ++ (if last then [item] else [])

/-- A thread's slots without the handles it hands over. -/
def unslot (s : State) (t : Option Nat) (hs : List Nat) : State :=
  match t with
  | some t => hs.foldl (fun x h => modSlots x t (fun l => l.erase h)) s
  | none => s

/-- Whether a thread holds the handles. -/
def holdsAll (s : State) (t : Option Nat) (hs : List Nat) : Bool :=
  match t with
  | some t => hs.all (fun h => (threadSlots s t).contains h)
  | none => true

/-- EGRESS_POST to an entry, by thread `t` or a comparator (none), for the packet in buffer `item` (R234). -/
def postEntry (s : State) (t : Option Nat) (tick source item : Nat) (d : Bytes) (last : Bool) : Nat × State :=
  let hs := handedBy d last item
  match findEntry s tick source with
  | none => (eTimeout, (hs.foldl bufDrop (unslot (orderCnt s 0x30) t hs)))
  | some e =>
    if e.complete ∨ 8 ≤ e.descs.length ∨ descMalformed s d ∨ holdsAll s t hs = false then (eArgs, orderCnt s 0x30)
    else
      let s1 := unslot s t hs
      if 6 ≤ dKind d then
        (if last then
          let s2 := releaseAll s1 (descHandles e ++ [item])
          (stOk, modEntry (domCnt s2 e.domain (if dKind d = 6 then 0x10 else 0x18)) tick source
            (fun e => { e with descs := [], complete := true, drop := true }))
        else (stOk, s1))
      else (stOk, modEntry s1 tick source (fun e => { e with descs := e.descs ++ [d], complete := last }))

/-! ### Release (R236, R237) -/

/-- Whether an entry is the oldest unreleased one of its ordering domain. -/
def isHead (s : State) (e : OrderEntry) : Bool :=
  s.egress.entries.all (fun f => decide (f.od ≠ e.od) || decide (e.tick < f.tick) || (e.tick == f.tick && decide (e.source ≤ f.source)))

/-- The older of two entries: ADMIT_TICK, then the lower ordering domain. -/
def earlier (a b : OrderEntry) : OrderEntry :=
  if b.tick < a.tick ∨ (b.tick = a.tick ∧ b.od < a.od) then b else a

/-- The entry that the unit releases next: among complete heads, the oldest. -/
def nextRelease (s : State) : Option OrderEntry :=
  match s.egress.entries.filter (fun e => e.complete && isHead s e) with
  | [] => none
  | e :: r => some (r.foldl earlier e)

/-- The admission items of an entry: the last descriptor that names the packet's buffer uses its reference, and every
other of them takes a HOLD. -/
def entryItems (e : OrderEntry) : List AdmitItem :=
  let n := (e.descs.filter (fun d => dHandle d == e.handle)).length
  let rec go (k : Nat) : List Bytes → List AdmitItem
    | [] => []
    | d :: r =>
      let mine := dHandle d == e.handle
      let k' := if mine then k + 1 else k
      { desc := d, owned := !mine || k' == n, epoch := e.epoch, tick := e.tick, prio := e.prio, domain := e.domain, rxTime := e.rxTime
        ingress := if e.source < 64 then some e.source else none } :: go k' r
  go 0 e.descs

/-- Reads the words of an entry, which are held twice (Table 17-3): a word lost in one copy comes from the other, and one
lost in both is S4 DUAL_COPY_LOST. -/
def orderTouch (s : State) (tick source : Nat) : State :=
  let ms := s.fault.marks.filter (fun m => unitOf m.loc == unitLoc 24 0 && Config.orderWord m.word (tick * 128 + source))
  let lost (m : ErrorMark) : Bool := decide (2 ≤ m.kind) && ms.any (fun o => o.word == m.word && o.loc != m.loc && decide (2 ≤ o.kind))
  let s1 := ms.foldl (fun x m => clearMark x m.loc m.word) s
  match ms.find? lost with
  | some m => errorIn s1 4 0x0F 0x000B m.loc [] m.injected
  | none => s1

/-- ORDER_RELEASE: the oldest complete head is released, at the earliest at ADMIT_TICK + 192; a packet beyond its
MAX_RESIDENCE is discarded there (R63, R236). -/
def execOrderRelease (s0 : State) : Res :=
  .next (if recovering s0 (unitLoc 24 0) then s0
    else
      match nextRelease s0 with
      | none => s0
      | some e =>
        let s := delEntry (orderTouch (advanceTo s0 (e.tick + 192)) e.tick e.source) e.tick e.source
        if e.drop then orderCnt s 0x18
        else if aged s e.epoch e.tick then ageDrop (releaseAll s (descHandles e ++ [e.handle])) e.domain e.source
        else
          let items := entryItems e
          let s1 := if items.any (fun i => dHandle i.desc == e.handle) then s else unitRelease s e.handle 24 0
          orderCnt { s1 with egress := { s1.egress with released := s1.egress.released ++ items } } 0x10)

/-- ORDER_AGE_CLOSE: the oldest unreleased entry of an ordering domain, still incomplete when MAX_RESIDENCE has passed,
is closed with an age marker (R237). -/
def execOrderAgeClose (od : BitVec 16) (s0 : State) : Res :=
  .next (match s0.egress.entries.find? (fun e => e.od == od.toNat && !e.complete && isHead s0 e) with
    | none => s0
    | some e =>
      let s := advanceTo s0 (e.tick + residence s0 e.epoch)
      ageDrop (orderCnt (delEntry (releaseAll s (descHandles e)) e.tick e.source) 0x28) e.domain e.source)

end Sys2Proof.Machine
end

