-- ==== Sys2Proof/Machine/Gates.lean ====
section
/-!
DEFINITION. The egress complex's schedule (R243 to R251): gate control lists, claims on their occurrences, holds and
the credit-based shaper.
-/

namespace Sys2Proof.Machine

/-- A port's gates. -/
def getGate (s : State) (n : Nat) : GateSt := tblGet {} s.egress.gates n
/-- The state with a port's gates changed. -/
def modGate (s : State) (n : Nat) (f : GateSt → GateSt) : State :=
  { s with egress := { s.egress with gates := tblMod {} s.egress.gates n f } }
/-- A queue's frames, head first. -/
def getQueue (s : State) (n q : Nat) : List QFrame := tblGet [] s.egress.queues (16 * n + q)
/-- The state with a queue changed. -/
def modQueue (s : State) (n q : Nat) (f : List QFrame → List QFrame) : State :=
  { s with egress := { s.egress with queues := tblMod [] s.egress.queues (16 * n + q) f } }
/-- A port's state. -/
def getPort (s : State) (n : Nat) : PortSt := tblGet {} s.ports.ports n
/-- The state with a port changed. -/
def modPort (s : State) (n : Nat) (f : PortSt → PortSt) : State :=
  { s with ports := { s.ports with ports := tblMod {} s.ports.ports n f } }
/-- Whether a port's LANE_READY bits are set: they set and clear together (R98). -/
def portUp (s : State) (n : Nat) : Bool := s.laneReady.testBit n
/-- Whether preemption is active on a port (R87). -/
def preempting (s : State) (n : Nat) : Bool :=
  (getPort s n).preemptActive && !(getPort s n).verifyFailed && portFlag s.plan.now n 3
/-- Whether a queue's frames go to the preemptable MAC (R250). -/
def preemptable (s : State) (n q : Nat) : Bool := preempting s n && (preemptMask s.plan.now n).testBit q

/-! ### Lists and time -/

/-- A port's fixed transmit path in units of 2^-43 ns: the transmit bridge's 6.25 ns and the latency of Table 3-2
(R244). -/
def txPath (s : State) (n : Nat) : Nat := (25 + 4 * (portLatOf s.plan.now n).2) * unitNs / 4

/-- The device time at the output ball of what leaves now, in units of 2^-43 ns: events are applied early by the
transmit path (R244). -/
def gateTime (s : State) (n : Nat) : Nat := s.time.t + txPath s n

/-- The states of operation `i`. -/
def opStates (l : GateList) (i : Nat) : Nat := ((l.ops[i]?).map (fun o => o.states)).getD 0xFFFF
/-- The interval of operation `i`. -/
def opLen (l : GateList) (i : Nat) : Nat := ((l.ops[i]?).map (fun o => o.interval)).getD 0
/-- OP of operation `i`. -/
def opKind (l : GateList) (i : Nat) : Nat := ((l.ops[i]?).map (fun o => o.op)).getD 0
/-- The start of operation `i` within a cycle. -/
def opOffset (l : GateList) (i : Nat) : Nat := ((l.ops.take i).map (fun o => o.interval)).sum

/-- The operation of an offset within the cycle, with its start. -/
def opAt (ops : List GateOp) (i start pos : Nat) : Nat × Nat :=
  match ops with
  | [] => (0, 0)
  | [_] => (i, start)
  | o :: r => if pos < start + o.interval then (i, start) else opAt r (i + 1) (start + o.interval) pos

/-- The operation in force at device time `t` ns, with the time it began; none before the first cycle start. -/
def locate (l : GateList) (t : Nat) : Option (Nat × Nat) :=
  if t < l.base ∨ l.cycle = 0 then none
  else
    let c := l.base + (t - l.base) / l.cycle * l.cycle
    let p := opAt l.ops 0 0 (t - c)
    some (p.1, c + p.2)

/-- The first cycle start at or after `t` ns. -/
def firstStart (l : GateList) (t : Nat) : Nat :=
  if t ≤ l.base ∨ l.cycle = 0 then l.base else l.base + ceilDiv (t - l.base) l.cycle * l.cycle

/-- The gates of a port that are open now (R243). -/
def openGates (s : State) (n : Nat) : Nat :=
  match (getGate s n).list, (getGate s n).op with
  | some l, some (i, _) => opStates l i
  | _, _ => 0xFFFF

/-- The first time at or after `t`, the start of operation `i`, at which queue `q` is closed by the list. -/
def closeFrom (l : GateList) (q : Nat) : Nat → Nat → Nat → Option Nat
  | 0, _, _ => none
  | fuel + 1, i, t =>
    if (opStates l i).testBit q = false then some t
    else closeFrom l q fuel ((i + 1) % l.ops.length) (t + opLen l i)

/-- The next event that closes queue `q` of port `n`, in device time ns (R245), the pending list included. -/
def nextClose (s : State) (n q : Nat) : Option Nat :=
  let g := getGate s n
  let now := gateTime s n / unitNs
  let base := match g.list, g.op with
    | some l, some (i, st) => closeFrom l q (l.ops.length + 1) i st
    | some l, none => closeFrom l q (l.ops.length + 1) 0 (firstStart l now)
    | none, _ => none
  match g.next with
  | none => base
  | some (l, t) =>
    match base with
    | some c => if c ≤ t then some c else (match l with | none => none | some x => closeFrom x q (x.ops.length + 1) 0 t)
    | none => match l with | none => none | some x => closeFrom x q (x.ops.length + 1) 0 t

/-- Whether a frame of `len` bytes without FCS fits before the next event that closes its queue (R245). -/
def frameFits (s : State) (n q len : Nat) : Bool :=
  match nextClose s n q with
  | none => true
  | some c => decide (gateTime s n + (len + 12) * 8 * unitNs / (portModeOf s.plan.now n).mac ≤ c * unitNs)

/-! ### The credit-based shaper (R251) -/

/-- Units of credit in a bit: one beacon tick at 1 bit/s is one unit. -/
def creditUnit : Nat := 1600000000

/-- A queue's credit after `dt` ticks of unchanged conditions. -/
def creditAfter (credit : Int) (idle hi rate dt : Nat) (lo : Int) (sending waiting opened : Bool) : Int :=
  let c : Int :=
    if sending then credit + dt * ((idle : Int) - rate)
    else if waiting then (if opened then credit + dt * (idle : Int) else credit)
    else if 0 < credit then 0
    else if opened then min 0 (credit + dt * (idle : Int)) else credit
  max (lo * creditUnit) (min ((hi : Int) * creditUnit) c)

/-- The queues with CBS_EN under the plan in force. -/
def cbsQueues (s : State) : List (Nat × Nat) :=
  (((s.plan.now.sec 0x0B).kind 0x0B 2).filter (fun e => (byteAt e.2 3).testBit 0)).map (fun e => (byteAt e.2 1, byteAt e.2 2))

/-- Whether port `n` is sending a frame of queue `q`. -/
def sendingQueue (s : State) (n q : Nat) : Bool :=
  match (getPort s n).onWire with
  | some w => decide (w.item.queue = q)
  | none => false

/-- Every credit brought up to the present tick, before a condition it depends on changes. -/
def cbsSync (s : State) : State :=
  let dt := s.now - s.egress.cbsTick
  let one := fun (m : Table Cbs) (nq : Nat × Nat) =>
    match cbsOf s.plan.now nq.1 nq.2 with
    | none => m
    | some (idle, hi, lo) =>
      let k := 16 * nq.1 + nq.2
      let rate := (portModeOf s.plan.now nq.1).mac * 1000000000
      let c := creditAfter (tblGet {} m k).credit idle hi rate dt lo (sendingQueue s nq.1 nq.2)
        (getQueue s nq.1 nq.2 != []) ((openGates s nq.1).testBit nq.2)
      tblSet m k { credit := c }
  { s with egress := { s.egress with cbs := (cbsQueues s).foldl one s.egress.cbs, cbsTick := s.now } }

/-- Whether a queue's credit allows a transmission (R250). -/
def creditOk (s : State) (n q : Nat) : Bool :=
  match cbsOf s.plan.now n q with
  | none => true
  | some _ => decide (0 ≤ (tblGet {} s.egress.cbs (16 * n + q)).credit)

/-! ### Claims (R158, R159, R246 to R249) -/

/-- The end of the open time that operation `i`, beginning at `t`, gives queue `q`: within one cycle. -/
def windowEnd (l : GateList) (q i t : Nat) : Nat := (closeFrom l q (l.ops.length + 1) i t).getD (t + l.cycle)

/-- The first occurrence of operation `i` that opens at or after `t` and that `taken` does not hold. -/
def freeOccurrence (l : GateList) (i : Nat) (taken : Nat → Bool) : Nat → Nat → Nat
  | 0, o => o
  | fuel + 1, o => if taken o then freeOccurrence l i taken fuel (o + l.cycle) else o

/-- A claim for a frame of `stream` in buffer `h`, ready at `ready` ns: the occurrence, and whether it was shifted past
one already claimed for the stream (R158). -/
def makeClaim (s : State) (p : PlanCopy) (h stream n q i ready : Nat) : Option (Bool × State) :=
  match gateListOf p n with
  | none => none
  | some l =>
    let off := opOffset l i
    let first := firstStart { l with base := l.base + off } ready
    let mine := s.egress.claims.filter (fun c => c.stream == stream && c.port == n && c.op == i)
    let o := freeOccurrence l i (fun t => mine.any (fun c => c.opening == t)) (mine.length + 1) first
    let c : Claim := { handle := h, stream := stream, port := n, queue := q, op := i, opening := o, closing := windowEnd l q i o, epoch := p.epoch }
    some (decide (o ≠ first), { s with egress := { s.egress with claims := s.egress.claims ++ [c] } })

/-- Claims with the one of a buffer's live claim changed. -/
def modClaim (s : State) (h : Nat) (f : Claim → Claim) : State :=
  { s with egress := { s.egress with claims := s.egress.claims.map (fun c => if c.handle == h && c.st == 0 then f c else c) } }

/-- A claim is released: its occurrence then serves no frame of the stream (R159). -/
def cancelClaim (s : State) (h : Nat) : State := modClaim s h (fun c => { c with st := 1 })

/-- The live claim of a buffer on a queue. -/
def claimOf (s : State) (h n q : Nat) : Option Claim :=
  s.egress.claims.find? (fun c => c.handle == h && c.port == n && c.queue == q && c.st == 0)

/-- Whether a claim's frame stands in its queue. -/
def claimQueued (s : State) (c : Claim) : Bool := (getQueue s c.port c.queue).any (fun f => f.handle == c.handle)

/-- The claims of port `n` whose occurrence has ended: the frame of a queued one is sent as an ordinary frame and
CLAIM_VOID counts; one whose frame has not arrived lapses and CLAIM_UNUSED counts (R248). A void or lapsed claim goes
when its occurrence is over and its buffer has been freed. -/
def sweepClaims (s : State) (n : Nat) (jumped : Bool) : State :=
  let ended := fun (c : Claim) => c.port == n && decide (c.closing * unitNs ≤ gateTime s n)
  let one := fun (x : State) (c : Claim) =>
    if ended c = false ∨ c.st ≠ 0 then x
    else if claimQueued s c then portEgr (if jumped then portEgr x n 0x20 else x) n 0x28
    else portEgr x n 0x20
  let s1 := s.egress.claims.foldl one s
  let next := s.egress.claims.filterMap (fun c =>
    if ended c = false then some c
    else if c.st = 0 then (if claimQueued s c then none else some { c with st := 2 })
    else if c.st = 1 then none
    else if (getWord s c.handle).gen = hGen c.handle ∧ (getWord s c.handle).st = 2 then some c else none)
  { s1 with egress := { s1.egress with claims := next } }

/-! ### Gate events -/

/-- A hold asserted or released (R250): MM_HOLD counts each assertion. -/
def setHold (s : State) (n : Nat) (b : Bool) : State :=
  let s1 := modGate s n (fun g => { g with hold := b })
  if b ∧ (getGate s n).hold = false then { s1 with cnt := cntAdd s1.cnt (0x1000000 + 0x1000 * n + 0x2A8) 1 } else s1

/-- The hold that operation kind `k` asks for. -/
def holdOf (k : Nat) (h : Bool) : Bool := if k = 1 then true else if k = 2 then false else h

/-- GATE_EVENT: the next event of a port's list that is due: a hold ahead of its operation, or the move to the next
operation (R243, R244, R250). -/
def execGateEvent (port : PortId) (s0 : State) : Res :=
  let n := port.val
  let s := cbsSync s0
  let g := getGate s n
  let t := gateTime s n
  .next (match g.list, g.op with
    | none, _ => s0
    | some l, none =>
      match locate l (t / unitNs) with
      | none => s0
      | some o => sweepClaims (setHold (modGate s n (fun g => { g with op := some o })) n (holdOf (opKind l o.1) g.hold)) n false
    | some l, some (i, st) =>
      let nx := st + opLen l i
      let j := (i + 1) % l.ops.length
      let k := opKind l j
      let early := if k = 1 ∧ g.hold = false then l.holdAdv else if k = 2 ∧ g.hold then l.relAdv else 0
      if nx * unitNs ≤ t then
        sweepClaims (setHold (modGate s n (fun g => { g with op := some (j, nx) })) n (holdOf k g.hold)) n false
      else if (nx - early) * unitNs ≤ t then setHold s n (holdOf k g.hold)
      else s0)

/-- GATE_LIST_SWITCH: a changed list takes effect at its time; when GATES_EN has been cleared, claims of the old epoch
for occurrences from then on are void (R246). -/
def execGateListSwitch (port : PortId) (s0 : State) : Res :=
  let n := port.val
  .next (match (getGate s0 n).next with
    | none => s0
    | some (l, t) =>
      if gateTime s0 n < t * unitNs then s0
      else
        let s := cbsSync s0
        match l with
        | some x =>
          sweepClaims (setHold (modGate s n (fun g => { g with list := some x, op := some (0, t), next := none })) n
            (holdOf (opKind x 0) (getGate s n).hold)) n false
        | none =>
          let void := fun (c : Claim) => c.port == n && c.st == 0 && decide (t ≤ c.opening) && decide (c.epoch ≠ s.plan.epoch)
          let s1 := s.egress.claims.foldl (fun x c => if void c then portEgr x n 0x28 else x) s
          modGate { s1 with egress := { s1.egress with claims := s1.egress.claims.map (fun c => if void c then { c with st := 1 } else c) } } n
            (fun g => { g with list := none, op := none, hold := false, next := none }))

/-- What an epoch instant does to a port's gates (R246). -/
def gatePortEpoch (old new : PlanCopy) (s : State) (n : Nat) : State :=
  let key := fun (l : Option GateList) => l.map (fun x => { x with epoch := 0 })
  let a := gateListOf old n
  let b := gateListOf new n
  if key a = key b then s
  else
    let s1 := portEgr s n 0x30
    let now := ceilDiv s.time.t unitNs
    let g := getGate s n
    let cycleEnd := match g.list with
      | some l => firstStart l (now + 1)
      | none => now
    match g.list, b with
    | none, none => modGate s1 n (fun g => { g with next := none })
    | _, none => modGate s1 n (fun g => { g with next := some (none, cycleEnd) })
    | _, some l => modGate s1 n (fun g => { g with next := some (some l, firstStart l cycleEnd) })

/-- Gates at an epoch instant. -/
def gatesEpoch (s : State) (old new : PlanCopy) : State := (List.range 64).foldl (gatePortEpoch old new) (cbsSync s)

/-- Device time has stepped: each port's list position follows it, and claims whose occurrence the step jumps over
lapse (R247). -/
def gatesStepped (s : State) : State :=
  (List.range 64).foldl (fun x n =>
    match (getGate x n).list with
    | none => sweepClaims x n true
    | some l => sweepClaims (modGate x n (fun g => { g with op := locate l (gateTime x n / unitNs) })) n true) (cbsSync s)

end Sys2Proof.Machine
end

