-- ==== Sys2Proof/Machine/SpanCfg.lean ====
section
/-!
DEFINITION. Reading the SPAN section (Table 16-10).
-/

namespace Sys2Proof.Machine

/-- The SPAN entry of a link; all zero when the section is absent (R488). -/
def spanEnt (p : PlanCopy) (k : Nat) : Bytes := if p.has 0x13 then (p.sec 0x13).entry 0x13 k else zeros 64
/-- ENABLED. -/
def spanOn (p : PlanCopy) (k : Nat) : Bool := (byteAt (spanEnt p k) 1).testBit 0
/-- FOLLOW_TIME of an enabled link. -/
def spanFollow (p : PlanCopy) (k : Nat) : Bool := spanOn p k && (byteAt (spanEnt p k) 1).testBit 1
/-- FLUSH_ON_DOWN. -/
def spanFlush (p : PlanCopy) (k : Nat) : Bool := (byteAt (spanEnt p k) 1).testBit 2
/-- PEER_DEV_ID. -/
def spanPeerId (p : PlanCopy) (k : Nat) : Nat := byteAt (spanEnt p k) 2
/-- Whether DOMAIN_MASK holds a domain. -/
def spanDomain (p : PlanCopy) (k d : Nat) : Bool := (leAt (spanEnt p k) 6 2).testBit d
/-- DELAY_ASYM_PS, signed. -/
def spanAsymPs (p : PlanCopy) (k : Nat) : Int := signedOf 32 (leAt (spanEnt p k) 8 4)
/-- Whether device time follows a peer (R477). -/
def timeFollows (p : PlanCopy) : Bool := (List.range 3).any (spanFollow p)

end Sys2Proof.Machine
end

