-- ==== Sys2Proof/Machine/Egress.lean ====
section
/-!
DEFINITION. Egress admission (R238 to R242, R252 to R262): expansion of descriptors, 802.1CB functions, PRP and HSR
pairs, mirrors, and the enqueueing of copies.
-/

namespace Sys2Proof.Machine

/-- A counter of a CB function (Table 8-10). -/
def fnCnt (s : State) (f off k : Nat) : State := { s with cnt := cntAdd s.cnt (0x6800000 + 0x40 * f + off) k }
/-- A counter of a pair (Table 8-11). -/
def pairCnt (s : State) (p off : Nat) : State := { s with cnt := cntAdd s.cnt (0x6A00000 + 0x100 * p + off) 1 }
/-- A counter of a mirror session (Table 8-12). -/
def mirrorCnt (s : State) (m off : Nat) : State := { s with cnt := cntAdd s.cnt (0x6B00000 + 0x40 * m + off) 1 }
/-- A function's state. -/
def getFn (s : State) (f : Nat) : CbFn := tblGet {} s.egress.fns f
/-- The state with a function changed. -/
def setFn (s : State) (f : Nat) (v : CbFn) : State := { s with egress := { s.egress with fns := tblSet s.egress.fns f v } }
/-- A pair's state. -/
def getPair (s : State) (p : Nat) : PairSt := tblGet {} s.egress.pairs p
/-- The state with a pair changed. -/
def modPair (s : State) (p : Nat) (f : PairSt → PairSt) : State :=
  { s with egress := { s.egress with pairs := tblMod {} s.egress.pairs p f } }

/-- The length of a queued frame without FCS: the frame with what admission adds to it. -/
def frameLen (f : QFrame) : Nat := f.len + f.append.length + (match f.insert with | some (_, b) => b.length | none => 0)

/-- Bytes queued on a queue. -/
def queueBytes (s : State) (n q : Nat) : Nat := ((getQueue s n q).map frameLen).sum

/-- A copy that a port's queue refuses, with its counters: a mirror copy counts in its session as well (R241, R260). -/
def refuseCopy (s : State) (n q l4 : Nat) (f : QFrame) (down : Bool) : State :=
  let s1 := if down then portEgr s n 0x00 else domCnt (queueCnt s n q 0x18 1) f.domain 0x20
  let s2 := match f.mirror with
    | some m => mirrorCnt s1 m 0x10
    | none => s1
  unitRelease s2 f.handle 25 l4

/-- Admits one copy to a queue, with its reference (R241, R242, R249). -/
def enqueue (s : State) (n q : Nat) (f : QFrame) : State :=
  let l4 := if f.mirror.isSome then 67 else 64
  let p := s.plan.of f.epoch
  let len := frameLen f
  if portUp s n = false then refuseCopy s n q l4 f true
  else if limitFrames p n q ≤ (getQueue s n q).length ∨ limitBytes p n q < queueBytes s n q + len then refuseCopy s n q l4 f false
  else
    let begun := fun (c : Claim) => decide (c.opening * unitNs ≤ gateTime s n)
    let late : Bool := match claimOf s f.handle n q with
      | some c => begun c
      | none => false
    let lapsed := s.egress.claims.any (fun c => c.handle == f.handle && c.port == n && c.queue == q && c.st == 2)
    if lapsed ∨ (late ∧ !((openGates s n).testBit q && frameFits s n q len)) then
      unitRelease (cancelClaim (portEgr s n 0x18) f.handle) f.handle 25 l4
    else
      let s1 := cbsSync (if late then portEgr s n 0x10 else s)
      let s2 := queueCnt (modQueue s1 n q (· ++ [f])) n q 0x00 1
      let d := queueBytes s2 n q
      { s2 with egress := { s2.egress with depthMax := tblMod 0 s2.egress.depthMax (16 * n + q) (fun m => Nat.max m d) } }

/-- A copy that admission makes: its port, queue and frame. -/
structure Copy where
  port : Nat
  queue : Nat
  frame : QFrame
  deriving DecidableEq, Repr

/-- References for copies before any of them is queued or dropped: the first uses the descriptor's own when it has one,
and every other takes a HOLD with the cross-domain right; one that REFCNT_MAX refuses is dropped (R240). -/
def takeRefs (s : State) (own : Bool) : List Copy → List Copy × State
  | [] => ([], s)
  | c :: r =>
    if own then
      let x := takeRefs s false r
      (c :: x.1, x.2)
    else
      match hodHold s c.frame.handle (unitReq 25 64) with
      | (none, s1) => let x := takeRefs s1 false r; (c :: x.1, x.2)
      | (some why, s1) => takeRefs (if why.reason = 10 then portEgr s1 c.port 0x08 else s1) false r

/-- Copies with their references are enqueued or dropped. -/
def admitCopies (s : State) (h : Nat) (own : Bool) (cs : List Copy) : State :=
  match cs with
  | [] => if own then unitRelease s h 25 64 else s
  | _ =>
    let x := takeRefs s own cs
    x.1.foldl (fun y c => enqueue y c.port c.queue c.frame) x.2

/-- The frame of an item's descriptor, as every copy of it starts. -/
def itemFrame (i : AdmitItem) : QFrame :=
  let d := i.desc
  let fl := byteAt d 13
  { handle := dHandle d, start := leAt d 4 2, len := leAt d 6 2, epoch := i.epoch, tick := i.tick, domain := i.domain
    ingress := i.ingress, rxTime := i.rxTime, tsTag := if fl.testBit 0 then some (leAt d 14 2) else none
    oneStep := if fl.testBit 1 then 1 else if fl.testBit 2 then 2 else 0, osOff := leAt d 16 2, csumOff := leAt d 18 2 }

/-- The queue of a copy on port `n` by a QUEUE byte: its queue, or PRIO_MAP of the packet's PRIORITY with USE_MAP. -/
def copyQueue (p : PlanCopy) (n qb prio : Nat) : Nat := if qb.testBit 4 then prioMap p n prio else qb % 16

/-! ### 802.1CB functions (R252 to R254) -/

/-- Bits shifted in above a recovery history of `len` bits, with the bits lost (802.1CB 7.4.3.4). -/
def shiftHistory (h len : Nat) : Nat → Nat × Nat
  | 0 => (h, 0)
  | k + 1 =>
    let x := shiftHistory (h * 2 % 2 ^ len) len k
    (x.1, x.2 + b2n (!h.testBit (len - 1)))

/-- What a recovery function decides of a frame: passed, out of order, rogue, and packets found lost. -/
structure Recov where
  pass : Bool
  ooo : Bool := false
  rogue : Bool := false
  lost : Nat := 0
  st : CbFn

/-- Signed distance of sequence numbers modulo 65,536 (802.1CB 7.4.3.2.1). -/
def seqDelta (a b : Nat) : Int := signedOf 16 (a + 65536 - b % 65536)

/-- Vector recovery (802.1CB-2017, 7.4.3.4). -/
def vectorRecover (x : CbFn) (len seq : Nat) : Recov :=
  let d := seqDelta seq x.recov
  if x.takeAny then { pass := true, st := { x with takeAny := false, recov := seq, history := 1 } }
  else if (len : Int) ≤ d ∨ d ≤ -(len : Int) then { pass := false, rogue := true, st := x }
  else if d ≤ 0 then
    let k := (-d).toNat
    if x.history.testBit k then { pass := false, st := x }
    else { pass := true, ooo := true, st := { x with history := setBit x.history k } }
  else
    let y := shiftHistory x.history len d.toNat
    { pass := true, ooo := decide (d ≠ 1), lost := y.2, st := { x with recov := seq, history := setBit y.1 0 } }

/-- Match recovery (802.1CB-2017, 7.4.3.5). -/
def matchRecover (x : CbFn) (seq : Nat) : Recov :=
  if x.takeAny then { pass := true, st := { x with takeAny := false, recov := seq } }
  else
    let d := seqDelta seq x.recov
    if d = 0 then { pass := false, st := x }
    else { pass := true, ooo := decide (d ≠ 1), st := { x with recov := seq } }

/-- Step 1 of R252: whether the descriptor passes its function's recovery, and the counters. -/
def cbRecovery (s : State) (f : Nat) (e d : Bytes) : Bool × State :=
  if cbFlag e 1 = false then (true, fnCnt s f 0x00 1)
  else if (byteAt d 13).testBit 3 = false then
    (if cbFlag e 3 then (true, setFn (fnCnt s f 0x00 1) f { getFn s f with lastPass := s.now })
     else (false, fnCnt (fnCnt s f 0x28 1) f 0x08 1))
  else
    let r := if cbFlag e 2 then matchRecover (getFn s f) (leAt d 20 2) else vectorRecover (getFn s f) (byteAt e 2) (leAt d 20 2)
    let s1 := fnCnt (fnCnt (fnCnt s f 0x10 (b2n r.ooo)) f 0x18 (b2n r.rogue)) f 0x20 r.lost
    if r.pass then (true, setFn (fnCnt s1 f 0x00 1) f { r.st with lastPass := s.now })
    else (false, setFn (fnCnt s1 f 0x08 1) f r.st)

/-- A CB_FUNCTION descriptor (R252). -/
def admitCb (s : State) (i : AdmitItem) (p : PlanCopy) : State :=
  let d := i.desc
  let f := leAt d 10 2
  let h := dHandle d
  let refuse := fun (x : State) => if i.owned then unitRelease x h 25 64 else x
  match cbOf p f with
  | none => refuse s
  | some e =>
    match cbRecovery s f e d with
    | (false, s1) => refuse s1
    | (true, s1) =>
      let seq := (getFn s1 f).gen
      let s2 := if cbFlag e 0 then setFn s1 f { getFn s1 f with gen := (seq + 1) % 65536 } else s1
      let fr := { itemFrame i with seqAt := if cbFlag e 0 ∧ leAt d 22 2 ≠ 0xFFFF then some (leAt d 22 2, seq) else none }
      admitCopies s2 h i.owned ((cbOuts e).map (fun o => { port := o.1, queue := copyQueue p o.1 o.2 i.prio, frame := fr }))

/-- CB_RECOVERY_RESET: RESET_MS without a frame passed (R252). -/
def execCbRecoveryReset (fn : BitVec 16) (s0 : State) : Res :=
  let f := fn.toNat
  .next (match cbOf s0.plan.now f with
    | none => s0
    | some e =>
      let x := getFn s0 f
      if cbFlag e 1 = false ∨ x.takeAny then s0
      else
        let s := advanceTo s0 (x.lastPass + msTicks (leAt e 4 2))
        fnCnt (setFn s f { x with takeAny := true, recov := 65535, history := 0 }) f 0x30 1)

/-- CB_LATENT_TEST: the latent error test of 802.1CB 7.4.4 with two paths (R254). -/
def execCbLatentTest (fn : BitVec 16) (s0 : State) : Res :=
  let f := fn.toNat
  .next (match cbOf s0.plan.now f with
    | none => s0
    | some e =>
      if cbFlag e 4 = false then s0
      else
        let x := getFn s0 f
        let s := advanceTo s0 (x.lastTest + msTicks (leAt e 8 4))
        let diff : Int := (cntGet s.cnt (0x6800000 + 0x40 * f) : Int) - cntGet s.cnt (0x6800000 + 0x40 * f + 0x08)
        let s1 := setFn s f { x with lastTest := s.now, baseDiff := diff }
        if leAt e 6 2 < (x.baseDiff - diff).natAbs then fnCnt (record s1 0 0x07 0x0001 (unitLoc 25 65) (toLE 2 f)) f 0x38 1 else s1)

/-! ### PRP and HSR pairs (R257, R259) -/

/-- Whether an 802.1Q tag follows the source address. -/
def hasTag (b : Bytes) : Bool := beAt b 12 2 == 0x8100

/-- LSDU_SIZE of a frame of `len` bytes, trailer or tag counted. -/
def lsduSize (tagged : Bool) (len : Nat) : Nat := len - (if tagged then 16 else 12)

/-- A PAIR copy's frame on member A (`b` false) or B. -/
def pairFrame (s : State) (i : AdmitItem) (x : Nat) (hsr : Bool) (seq : Nat) (b : Bool) : QFrame :=
  let fr := itemFrame i
  let hd := memRead s.mem (bufAddr s fr.handle + fr.start) 16
  let tag := hasTag hd
  if hsr then
    let size := lsduSize tag (fr.len + 6)
    { fr with insert := some (if tag then 16 else 12, [0x89, 0x2F] ++ toBE 2 (b2n b * 4096 + size % 4096) ++ toBE 2 seq), pair := some (x, b2n b) }
  else
    let pad := 60 - fr.len
    let size := lsduSize tag (fr.len + pad + 6)
    { fr with append := zeros pad ++ toBE 2 seq ++ toBE 2 ((if b then 0xB000 else 0xA000) + size % 4096) ++ [0x88, 0xFB], pair := some (x, b2n b) }

/-- A PAIR descriptor: one copy per member with the pair's sequence number (R257, R259). -/
def admitPair (s : State) (i : AdmitItem) (p : PlanCopy) : State :=
  let x := leAt i.desc 10 2
  match pairOf p x with
  | none => if i.owned then unitRelease s (dHandle i.desc) 25 64 else s
  | some e =>
    let seq := (getPair s x).seq
    let hsr := byteAt e 1 == 2
    let s1 := modPair s x (fun v => { v with seq := (seq + 1) % 65536 })
    let one := fun (b : Bool) =>
      let n := byteAt e (if b then 3 else 2)
      ({ port := n, queue := copyQueue p n (byteAt i.desc 12) i.prio, frame := pairFrame s i x hsr seq b } : Copy)
    admitCopies s1 (dHandle i.desc) i.owned [one false, one true]

/-! ### Copies to processor and mirrors (R260 to R262) -/

/-- A copy queued for the ring machinery (R262, R458). -/
def queueRing (s : State) (c : RingCopy) : State := { s with egress := { s.egress with copies := s.egress.copies ++ [c] } }

/-- A mirror copy of a packet, with its reference, goes to its session (R260). -/
def mirrorCopy (s : State) (m : Nat) (p : PlanCopy) (f : QFrame) (rc : RingCopy) : State :=
  let drop := fun (x : State) => unitRelease x f.handle 25 67
  match mirrorOf p m with
  | none => drop s
  | some e =>
    let k := tblGet 0 s.egress.sample m
    let n := leAt e 8 4
    let s1 := { s with egress := { s.egress with sample := tblSet s.egress.sample m ((k + 1) % Nat.max 1 n) } }
    if k ≠ 0 then drop (mirrorCnt s1 m 0x08)
    else
      let t := leAt e 6 2
      let len := if t = 0 then f.len else Nat.min t f.len
      if byteAt e 1 = 0 then
        enqueue s1 (byteAt e 2) (byteAt e 3 % 16) { f with len := len, mirror := some m, tsTag := none, oneStep := 0, domain := byteAt e 5 }
      else queueRing s1 { rc with ring := byteAt e 4, handle := f.handle, start := f.start, len := len, mirror := some m, domain := byteAt e 5 }

/-! ### Admission (R240) -/

/-- A copy for a span link: it is dropped when the link is not JOINED, when DOMAIN_MASK lacks its domain, and when 4,096
copies wait (R482). -/
def spanAdmit (s : State) (i : AdmitItem) : State :=
  let k := byteAt i.desc 9 % 4
  let l := tblGet {} s.span.links k
  if l.st ≠ 4 ∨ spanDomain s.plan.now k i.domain = false ∨ 4096 ≤ l.packets.length then
    unitRelease { s with cnt := cntAdd s.cnt (0xB000000 + 0x100 * k + 0x78) 1 } (dHandle i.desc) 25 64
  else { s with span := { s.span with links := tblSet s.span.links k { l with packets := l.packets ++ [i] } } }

/-- Expands one descriptor (Table 8-3). -/
def admitItem (s : State) (i : AdmitItem) : State :=
  let d := i.desc
  let p := s.plan.of i.epoch
  let k := dKind d
  let h := dHandle d
  let qb := byteAt d 12
  let on := fun (n : Nat) => ({ port := n, queue := copyQueue p n qb i.prio, frame := itemFrame i } : Copy)
  if k = 0 then admitCopies s h i.owned [on (byteAt d 9)]
  else if k = 1 then
    let mask := groupMask p (leAt d 10 2)
    let ports := (List.range 64).filter (fun n => mask.testBit n && !(qb.testBit 5 && i.ingress == some n))
    admitCopies s h i.owned (ports.map on)
  else if k = 2 then admitCb s i p
  else if k = 3 then admitPair s i p
  else if 6 ≤ k then (if i.owned then unitRelease s h 25 64 else s)
  else
    let x := if i.owned then (none, s) else hodHold s h (unitReq 25 64)
    match x.1 with
    | some _ => x.2
    | none =>
      if k = 4 then spanAdmit x.2 { i with owned := true }
      else queueRing x.2 { ring := byteAt d 9, handle := h, start := leAt d 4 2, len := leAt d 6 2, domain := i.domain, epoch := i.epoch
                           port := i.ingress.getD 0, rxTime := i.rxTime }

/-- EGRESS_ADMIT: admission takes the next descriptor: released entries first, then the FIFO (R240). -/
def execEgressAdmit (s : State) : Res :=
  .next (if recovering s (unitLoc 25 64) then s
    else
      match s.egress.released, s.egress.fifo with
      | i :: r, _ => admitItem { s with egress := { s.egress with released := r } } i
      | [], i :: r => admitItem { s with egress := { s.egress with fifo := r } } i
      | [], [] => s)

/-- Entries of the admission FIFO (R239). -/
def fifoCapacity : Nat := 4096

/-- A direct post by thread `t` of domain `d`, under the epoch of its work item (R239): none while the FIFO is full. -/
def postDirect (s : State) (t epoch domain : Nat) (desc : Bytes) : Option Nat × State :=
  let hs := if dKind desc < 6 then [dHandle desc] else []
  if descMalformed s desc ∨ holdsAll s (some t) hs = false then (some eArgs, orderCnt s 0x30)
  else if fifoCapacity ≤ s.egress.fifo.length then (none, orderCnt s 0x38)
  else if 6 ≤ dKind desc then (some stOk, s)
  else
    let s1 := unslot s (some t) hs
    let i : AdmitItem := { desc := desc, owned := true, epoch := epoch, tick := s.now, domain := domain }
    (some stOk, { s1 with egress := { s1.egress with fifo := s1.egress.fifo ++ [i] } })

/-- Every frame queued on a port is released and counted, and its claims lapse (R242). -/
def flushPort (s : State) (n : Nat) : State :=
  let one := fun (x : State) (q : Nat) =>
    let fs := getQueue x n q
    modQueue (fs.foldl (fun y f => unitRelease (portEgr y n 0x00) f.handle 25 n) x) n q (fun _ => [])
  let s1 := (List.range 16).foldl one (cbsSync s)
  { s1 with egress := { s1.egress with claims := s1.egress.claims.map (fun c => if c.port == n && c.st == 0 then { c with st := 1 } else c) } }

/-- Functions and pairs whose fields a commit changes start afresh (R253, R257). -/
def redundancyEpoch (s : State) (old new : PlanCopy) : State :=
  let fs := s.egress.fns.filter (fun e => cbOf old e.1 == cbOf new e.1)
  let ps := s.egress.pairs.map (fun e => if pairOf old e.1 == pairOf new e.1 then e else (e.1, { e.2 with seq := 0 }))
  { s with egress := { s.egress with fns := fs, pairs := ps } }

/-- DUP_ENTRY_EXPIRE: the oldest entry of a pair's duplicate table expires ENTRY_FORGET_MS after it was made, and
counts for the member that made it (R256). -/
def execDupEntryExpire (pair : Fin 16) (s0 : State) : Res :=
  let x := pair.val
  .next (match pairOf s0.plan.now x, (getPair s0 x).dups with
    | some e, d :: r =>
      let s := advanceTo s0 (d.made + msTicks (leAt e 8 4))
      pairCnt (modPair s x (fun v => { v with dups := r })) x (if d.member = 0 then 0x28 else 0x30)
    | none, _ :: _ => modPair s0 x (fun v => { v with dups := [] })
    | _, [] => s0)

/-! ### Transmission selection (R245, R250) -/

/-- A frame's bytes: the buffer's, with the written, inserted and appended bytes. -/
def frameBytes (s : State) (f : QFrame) : Bytes :=
  let b := match f.bytes with
    | some x => slice x 0 f.len
    | none => memRead s.mem (bufAddr s f.handle + f.start) f.len
  let b1 := match f.seqAt with
    | some (o, v) => if o + 2 ≤ f.len then patchBytes b o (toBE 2 v) else b
    | none => b
  let b2 := match f.insert with
    | some (o, x) => b1.take o ++ x ++ b1.drop o
    | none => b1
  b2 ++ f.append

/-- The claimed frames of the occurrences in force, in claim order: queue and handle. -/
def claimedNow (s : State) (n : Nat) : List (Nat × Nat) :=
  let t := gateTime s n
  (s.egress.claims.filter (fun c => c.port == n && c.st == 0 && decide (c.opening * unitNs ≤ t) && decide (t < c.closing * unitNs))).map
    (fun c => (c.queue, c.handle))

/-- The first frame of a queue that no live claim keeps for its own occurrence. -/
def headFrame (s : State) (n q : Nat) : Option QFrame := (getQueue s n q).find? (fun f => (claimOf s f.handle n q).isNone)

/-- Whether a frame of queue `q` may start now. -/
def mayStart (s : State) (n q : Nat) (f : QFrame) (credit : Bool) : Bool :=
  let pre := preemptable s n q
  let pt := getPort s n
  (openGates s n).testBit q && (pre || frameFits s n q (Nat.max 60 (frameLen f))) &&
    (!credit || creditOk s n q) &&
    (if pre then !(getGate s n).hold && pt.onWire.isNone && pt.held.isNone
     else match pt.onWire with
       | some w => w.item.preemptable && preempting s n
       | none => true)

/-- The frame that a port takes next: a claimed frame of the occurrence in force, else the head of the first eligible
queue (R250). -/
def selectFrame (s : State) (n : Nat) : Option (Nat × QFrame) :=
  let claimed := (claimedNow s n).findSome? (fun c =>
    match (getQueue s n c.1).find? (fun f => f.handle == c.2) with
    | some f => if mayStart s n c.1 f false then some (c.1, f) else none
    | none => none)
  match claimed with
  | some x => some x
  | none => ((List.range 16).map (fun i => 15 - i)).findSome? (fun q =>
      match headFrame s n q with
      | some f => if mayStart s n q f true then some (q, f) else none
      | none => none)

/-- A frame leaves its queue. -/
def dequeue (s : State) (n q : Nat) (f : QFrame) : State := modQueue s n q (fun l => l.erase f)

/-- A queued frame older than its epoch's MAX_RESIDENCE is discarded (R63, R630). -/
def queueAgeDrop (s : State) (n q : Nat) (f : QFrame) : State :=
  let s1 := domCnt (queueCnt (cancelClaim (dequeue s n q f) f.handle) n q 0x20 1) f.domain 0x08
  unitRelease { s1 with plan := { s1.plan with ageDrops := s1.plan.ageDrops + 1 } } f.handle 25 n

/-- The frame as the port's transmit buffer holds it. -/
def txItemOf (s : State) (n q : Nat) (f : QFrame) : TxItem :=
  { handle := f.handle, bytes := frameBytes s f, epoch := f.epoch, tsTag := f.tsTag, oneStep := f.oneStep, osOff := f.osOff
    csumOff := f.csumOff, rxTime := f.rxTime, queue := q, preemptable := preemptable s n q, domain := f.domain, pair := f.pair, mirror := f.mirror }

/-- One port's selections until a frame is taken or none is eligible: an aged frame is discarded at dequeue, and so is
one whose body cannot be read. -/
def transmitSelect (s : State) (n : Nat) : Nat → State
  | 0 => s
  | fuel + 1 =>
    match selectFrame s n with
    | none => s
    | some (q, f) =>
      if aged s f.epoch f.tick then transmitSelect (queueAgeDrop s n q f) n fuel
      else
        let s1 := cancelClaim (dequeue s n q f) f.handle
        let rd := hbmRead s1 2 n (bufAddr s f.handle + f.start) f.len
        (match rd.1 with
          | none => modPort rd.2.2 n (fun p => { p with txBuf := p.txBuf ++ [txItemOf s n q f] })
          | some _ => transmitSelect (unitRelease rd.2.2 f.handle 25 n) n fuel)

/-- TRANSMIT_OPPORTUNITY: an idle port, or one that sends a preemptable frame, takes its next eligible frame into its
transmit buffer (R83, R85, R250). -/
def execTransmitOpportunity (port : PortId) (s0 : State) : Res :=
  let n := port.val
  let pt := getPort s0 n
  let busy := pt.txBuf != [] || (match pt.onWire with | some w => !w.item.preemptable | none => false)
  .next (if portUp s0 n = false ∨ busy ∨ recovering s0 (unitLoc 25 n) then s0
    else
      let s := cbsSync (if pt.onWire.isNone then advanceTo s0 pt.freeAt else s0)
      let frames := ((List.range 16).map (fun q => (getQueue s n q).length)).sum
      transmitSelect s n (frames + 1))

/-- QUEUE_AGE_DROP: a queued head frame beyond MAX_RESIDENCE is discarded whether or not its gate is open (R630). -/
def execQueueAgeDrop (port : PortId) (queue : Fin 16) (s0 : State) : Res :=
  let n := port.val
  let q := queue.val
  .next (match getQueue s0 n q with
    | [] => s0
    | f :: _ =>
      let s := advanceTo s0 (f.tick + residence s0 f.epoch + 1)
      queueAgeDrop (cbsSync s) n q f)

end Sys2Proof.Machine
end

