-- ==== Sys2Proof/Machine/Aes.lean ====
section
/-!
DEFINITION. AES-256 (FIPS 197) and the modes of it that the spec names by their standards: GCM and GMAC
(SP 800-38D), CMAC (SP 800-38B) and AES key wrap (RFC 3394); R92, R93, R393, R394, Table 13-7.
-/

namespace Sys2Proof.Machine

/-- Multiplication by x in GF(2^8) of AES. -/
def gfDouble (a : Nat) : Nat := if a < 128 then 2 * a else (2 * a - 256) ^^^ 0x1B

/-- Multiplication in GF(2^8) of AES: `n` bits of `b` still to take. -/
def gfMulGo : Nat → Nat → Nat → Nat
  | 0, _, _ => 0
  | n + 1, a, b => (if b % 2 = 1 then a else 0) ^^^ gfMulGo n (gfDouble a) (b / 2)

/-- Multiplication in GF(2^8) of AES. -/
def gfMul (a b : Nat) : Nat := gfMulGo 8 a b

/-- The inverse in GF(2^8) of AES, 0 for 0: the power 254. -/
def gfInv (a : Nat) : Nat :=
  let p2 := gfMul a a
  let p4 := gfMul p2 p2
  let p8 := gfMul p4 p4
  let p16 := gfMul p8 p8
  let p32 := gfMul p16 p16
  let p64 := gfMul p32 p32
  let p128 := gfMul p64 p64
  gfMul p128 (gfMul p64 (gfMul p32 (gfMul p16 (gfMul p8 (gfMul p4 p2)))))

/-- The affine step of the AES S-box. -/
def aesAffine (b : Nat) : Nat :=
  let r (i : Nat) : Nat := (b * 2 ^ i ||| b / 2 ^ (8 - i)) % 256
  b ^^^ r 1 ^^^ r 2 ^^^ r 3 ^^^ r 4 ^^^ 0x63

/-- The inverse affine step of the AES S-box. -/
def aesAffineInv (b : Nat) : Nat :=
  let r (i : Nat) : Nat := (b * 2 ^ i ||| b / 2 ^ (8 - i)) % 256
  r 1 ^^^ r 3 ^^^ r 6 ^^^ 0x05

/-- The AES S-box. -/
def aesSub (a : Nat) : Nat := aesAffine (gfInv a)

/-- The inverse AES S-box. -/
def aesSubInv (a : Nat) : Nat := gfInv (aesAffineInv a)

/-- The key schedule of AES-256: words made so far, newest first; `n` words still to make, the next having index `i`. -/
def aesExpand : Nat → Nat → Nat → List (List Nat) → List (List Nat)
  | 0, _, _, w => w
  | n + 1, i, rcon, w =>
    let t := w.headD []
    let old := w.getD 7 []
    let t1 := if i % 8 = 0 then
        (match (t.drop 1 ++ t.take 1).map aesSub with
         | x :: r => (x ^^^ rcon) :: r
         | [] => [])
      else if i % 8 = 4 then t.map aesSub else t
    aesExpand n (i + 1) (if i % 8 = 0 then gfDouble rcon else rcon) (List.zipWith (· ^^^ ·) old t1 :: w)

/-- The fifteen 16-byte round keys of a 32-byte key. -/
def aesRoundKeys (key : Bytes) : List (List Nat) :=
  let k := (slice key 0 32).map (·.toNat)
  let w0 := ((List.range 8).map (fun i => (k.drop (4 * i)).take 4)).reverse
  let w := ((aesExpand 52 8 1 w0).reverse).flatten
  (List.range 15).map (fun r => (w.drop (16 * r)).take 16)

/-- ShiftRows of a block in column order. -/
def aesShift (s : List Nat) : List Nat :=
  (List.range 16).map (fun i => s.getD ((i + 4 * (i % 4)) % 16) 0)

/-- InvShiftRows of a block in column order. -/
def aesShiftInv (s : List Nat) : List Nat :=
  (List.range 16).map (fun i => s.getD ((i + 12 * (i % 4)) % 16) 0)

/-- MixColumns with the first row `m` of the circulant matrix. -/
def aesMix (m : List Nat) (s : List Nat) : List Nat :=
  (List.range 16).map (fun i =>
    let c := i / 4
    let r := i % 4
    (List.range 4).foldl (fun a k => a ^^^ gfMul (m.getD ((k + 4 - r) % 4) 0) (s.getD (4 * c + k) 0)) 0)

/-- AES-256 encryption of one 16-byte block. -/
def aesEncrypt (key blk : Bytes) : Bytes :=
  let rk := aesRoundKeys key
  let x (a b : List Nat) := List.zipWith (· ^^^ ·) a b
  let s0 := x ((slice blk 0 16).map (·.toNat)) (rk.getD 0 [])
  let s13 := (List.range 13).foldl (fun s r => x (aesMix [2, 3, 1, 1] (aesShift (s.map aesSub))) (rk.getD (r + 1) [])) s0
  (x (aesShift (s13.map aesSub)) (rk.getD 14 [])).map (BitVec.ofNat 8)

/-- AES-256 decryption of one 16-byte block. -/
def aesDecrypt (key blk : Bytes) : Bytes :=
  let rk := aesRoundKeys key
  let x (a b : List Nat) := List.zipWith (· ^^^ ·) a b
  let s0 := x ((slice blk 0 16).map (·.toNat)) (rk.getD 14 [])
  let s13 := (List.range 13).foldl
    (fun s r => aesMix [14, 11, 13, 9] (x ((aesShiftInv s).map aesSubInv) (rk.getD (13 - r) []))) s0
  (x ((aesShiftInv s13).map aesSubInv) (rk.getD 0 [])).map (BitVec.ofNat 8)

/-- The XOR of two byte strings, as long as the shorter. -/
def xorBytes (a b : Bytes) : Bytes := List.zipWith (· ^^^ ·) a b

/-- Multiplication in GF(2^128) of GHASH: `n` bits of `y` still to take, most significant first. -/
def ghashMulGo : Nat → Nat → Nat → Nat
  | 0, _, _ => 0
  | n + 1, v, y =>
    (if y.testBit n then v else 0) ^^^
      ghashMulGo n (if v % 2 = 1 then (v / 2) ^^^ (0xE1 * 2 ^ 120) else v / 2) y

/-- GHASH of a string of whole 16-byte blocks, `n` blocks. -/
def ghashGo (h : Nat) : Nat → Nat → Bytes → Nat
  | 0, y, _ => y
  | n + 1, y, b => ghashGo h n (ghashMulGo 128 h (y ^^^ beAt b 0 16)) (b.drop 16)

/-- `b` padded with zeros to whole 16-byte blocks. -/
def padTo16 (b : Bytes) : Bytes := b ++ zeros ((16 - b.length % 16) % 16)

/-- GHASH of additional data and ciphertext with their lengths (SP 800-38D). -/
def ghash (h : Nat) (aad c : Bytes) : Nat :=
  let m := padTo16 aad ++ padTo16 c ++ toBE 8 (8 * aad.length) ++ toBE 8 (8 * c.length)
  ghashGo h (m.length / 16) 0 m

/-- Counter-mode key stream of `n` blocks from the 16-byte counter block `ctr` (last 32 bits count). -/
def gctrStream (key ctr : Bytes) : Nat → Nat → Bytes
  | 0, _ => []
  | n + 1, i =>
    aesEncrypt key (slice ctr 0 12 ++ toBE 4 (beAt ctr 12 4 + i)) ++ gctrStream key ctr n (i + 1)

/-- AES-256-GCM with a 12-byte IV: ciphertext and 16-byte tag. -/
def gcmSeal (key iv aad p : Bytes) : Bytes × Bytes :=
  let h := beVal (aesEncrypt key (zeros 16))
  let j0 := slice iv 0 12 ++ [0, 0, 0, 1]
  let c := xorBytes p (gctrStream key j0 (ceilDiv p.length 16) 1)
  (c, xorBytes (toBE 16 (ghash h aad c)) (aesEncrypt key j0))

/-- AES-256-GCM opening: the plaintext when the tag agrees. -/
def gcmOpen (key iv aad c tag : Bytes) : Option Bytes :=
  let h := beVal (aesEncrypt key (zeros 16))
  let j0 := slice iv 0 12 ++ [0, 0, 0, 1]
  if xorBytes (toBE 16 (ghash h aad c)) (aesEncrypt key j0) = tag then
    some (xorBytes c (gctrStream key j0 (ceilDiv c.length 16) 1))
  else none

/-- Doubling of a CMAC subkey (SP 800-38B). -/
def cmacDouble (v : Nat) : Nat :=
  if v < 2 ^ 127 then 2 * v else ((2 * v) % 2 ^ 128) ^^^ 0x87

/-- The chained value over `n` whole blocks of CMAC. -/
def cmacGo (key : Bytes) : Nat → Bytes → Bytes → Bytes
  | 0, x, _ => x
  | n + 1, x, b => cmacGo key n (aesEncrypt key (xorBytes x (b.take 16))) (b.drop 16)

/-- AES-256-CMAC (SP 800-38B): 16 bytes. -/
def cmac (key m : Bytes) : Bytes :=
  let k1 := cmacDouble (beVal (aesEncrypt key (zeros 16)))
  let k2 := cmacDouble k1
  let n := if m.length = 0 then 1 else ceilDiv m.length 16
  let head := m.take (16 * (n - 1))
  let last := m.drop (16 * (n - 1))
  let lastBlk := if last.length = 16 then xorBytes last (toBE 16 k1)
    else xorBytes (slice (last ++ [0x80]) 0 16) (toBE 16 k2)
  aesEncrypt key (xorBytes (cmacGo key (n - 1) (zeros 16) head) lastBlk)

/-- One step of RFC 3394 wrapping: (A, R) after step `t` on block index `i`. -/
def kwStep (key : Bytes) (n : Nat) (ar : Bytes × List Bytes) (t : Nat) : Bytes × List Bytes :=
  let i := t % n
  let b := aesEncrypt key (ar.1 ++ ar.2.getD i [])
  (xorBytes (b.take 8) (toBE 8 (t + 1)), ar.2.set i (b.drop 8))

/-- One step of RFC 3394 unwrapping. -/
def kwStepInv (key : Bytes) (n : Nat) (ar : Bytes × List Bytes) (t : Nat) : Bytes × List Bytes :=
  let i := t % n
  let b := aesDecrypt key (xorBytes ar.1 (toBE 8 (t + 1)) ++ ar.2.getD i [])
  (b.take 8, ar.2.set i (b.drop 8))

/-- AES key wrap (RFC 3394) of `p`, a multiple of 8 bytes. -/
def keyWrap (key p : Bytes) : Bytes :=
  let n := p.length / 8
  let r := (List.range (6 * n)).foldl (kwStep key n) (List.replicate 8 0xA6, records 8 p n)
  r.1 ++ r.2.flatten

/-- AES key unwrap (RFC 3394): the key data when the check value agrees. -/
def keyUnwrap (key c : Bytes) : Option Bytes :=
  let n := c.length / 8 - 1
  let r := ((List.range (6 * n)).reverse).foldl (kwStepInv key n) (c.take 8, records 8 (c.drop 8) n)
  if r.1 = List.replicate 8 0xA6 then some r.2.flatten else none

end Sys2Proof.Machine
end

