-- ==== Sys2Proof/Machine/TimeUnit.lean ====
section
/-!
DEFINITION. The time unit (R101 to R108, R621): device time and its corrections, the servo, PPS and the reference.
-/

namespace Sys2Proof.Machine

/-- The time unit's location. -/
def timeLoc : Loc := unitLoc 17 0

/-- The TIME entry's SERVO; NONE before the first plan. -/
def servoNow (s : State) : Nat := servoOf s.plan.now

/-- A correction in units of 2^-43 ns from signed nanoseconds and a 16-bit fraction (Table 3-8). -/
def corrUnits (ns : Int) (frac : Nat) : Int := ns * unitNs + (frac : Int) * 2 ^ 27

/-- Whole signed nanoseconds of a correction, toward zero. -/
def corrNs (d : Int) : Int := if d < 0 then -((d.natAbs / unitNs : Nat) : Int) else ((d.natAbs / unitNs : Nat) : Int)

/-- Device time steps by `d`, to 0 when that would be below it (R102): the remainder of a slew is discarded and a
TIME_STEP record is written. -/
def timeStep (s : State) (d : Int) : State :=
  let v := ((s.time.t : Int) + d).toNat
  let s1 := { s with time := { s.time with t := v, slew := 0, ppsOutSecond := v / (1000000000 * unitNs) } }
  gatesStepped (record s1 0 0x02 0x0001 timeLoc (toLE 8 (toSigned 64 (corrNs d))))

/-- Applies a correction by a slew or a step (R102). -/
def timeCorrect (s : State) (d : Int) : State :=
  let lim := slewLimit s.plan.now
  if 0 < lim ∧ d.natAbs ≤ lim * unitNs then { s with time := { s.time with slew := d } } else timeStep s d

/-- Whether a host command may steer device time (R103, R477). -/
def hostSteers (s : State) : Bool := decide (servoNow s ≠ 1) && !timeFollows s.plan.now

/-- TIME_READY: READY.TIME sets with device time 0, within 2 ms of the processor die leaving reset (R101). -/
def execTimeReady (s : State) : Res :=
  .next (if s.power.dieOut = false ∨ isReady s 5 then s
    else setReady { s with time := {} } 5 true)

/-- TIME_GET: device time in the 12-byte form. -/
def execTimeGet (mb : MbId) (s : State) : Res :=
  .next (whenReady s mb.val 5 (fun s => reply s mb.val stOk (time12 (devNs s) (devFrac s))))

/-- TIME_SET: always steps, and sets TIME_VALID under every SERVO that allows it (R102, R103). -/
def execTimeSet (mb : MbId) (sec : BitVec 48) (ns : BitVec 32) (frac : BitVec 16) (s : State) : Res :=
  .next (whenReady s mb.val 5 (fun s =>
    if hostSteers s = false then reply s mb.val eRights
    else if 1000000000 ≤ ns.toNat then reply s mb.val eArgs
    else
      let v : Int := ((sec.toNat * 1000000000 + ns.toNat) * unitNs + frac.toNat * 2 ^ 27 : Nat)
      let s1 := timeStep s (v - s.time.t)
      reply { s1 with time := { s1.time with valid := true } } mb.val stOk))

/-- TIME_OFFSET: a signed correction, refused when its step would take device time below 0 (R102). -/
def execTimeOffset (mb : MbId) (ns : BitVec 64) (frac : BitVec 16) (s : State) : Res :=
  .next (whenReady s mb.val 5 (fun s =>
    let d := corrUnits ns.toInt frac.toNat
    let lim := slewLimit s.plan.now
    if hostSteers s = false then reply s mb.val eRights
    else if (lim = 0 ∨ lim * unitNs < d.natAbs) ∧ (s.time.t : Int) + d < 0 then reply s mb.val eArgs
    else reply (timeCorrect s d) mb.val stOk))

/-- The limit of FREQ_ADJ (R101). -/
def freqMax : Int := 549755813

/-- TIME_FREQ. -/
def execTimeFreq (mb : MbId) (adj : BitVec 32) (s : State) : Res :=
  .next (whenReady s mb.val 5 (fun s =>
    if hostSteers s = false then reply s mb.val eRights
    else if freqMax < adj.toInt ∨ adj.toInt < -freqMax then reply s mb.val eArgs
    else reply { s with time := { s.time with freqAdj := adj.toInt } } mb.val stOk))

/-- TIME_STATUS (Table 3-6): SYNC_STATE and OFFSET_NS read 0 unless SERVO is HAWK. -/
def execTimeStatus (mb : MbId) (s : State) : Res :=
  .next (whenReady s mb.val 5 (fun s =>
    let t := s.time
    let hawk := decide (servoNow s = 1)
    reply s mb.val stOk (toLE 1 (if hawk then t.sync else 0) ++
      toLE 1 (b2n t.valid + 2 * b2n t.refOut + 4 * b2n t.ppsInSeen) ++ [0, 0] ++ toLE 4 (toSigned 32 t.freqAdj) ++
      toLE 8 (if hawk then toSigned 64 t.offsetNs else 0) ++ time10 t.ppsIn ++ toLE 6 (toSigned 48 (corrNs t.slew)))))

/-- The servo's state after a measured offset (Table 3-6): LOCKED after 16 consecutive sync intervals below the
threshold; the first LOCKED sets TIME_VALID. -/
def servoMeasured (t : TimeState) (thr : Nat) (off : Int) : TimeState :=
  let n := if off.natAbs < thr then t.lockCount + 1 else 0
  let locked := decide (16 ≤ n)
  { t with lockCount := n, offsetNs := off, sync := if locked then 2 else 1, valid := t.valid || locked }

/-- HAWK_SERVO_CORRECTION: one sync interval of the Hawk servo (R102 to R104): its measured offset, the frequency it
sets and the correction it applies. -/
def execHawkServoCorrection (freq : BitVec 32) (ns : BitVec 64) (frac : BitVec 16) (off : BitVec 64) (s : State) : Res :=
  .next (if isReady s 5 = false ∨ servoNow s ≠ 1 ∨ s.host.hawkState ≠ 1 then s
    else
      let f := max (-freqMax) (min freqMax freq.toInt)
      let t := servoMeasured { s.time with freqAdj := f } (lockThreshold s.plan.now) off.toInt
      let d := corrUnits ns.toInt frac.toNat
      if d = 0 then { s with time := t } else timeCorrect { s with time := t } d)

/-- PPS_OUT_EDGE: PPS_OUT rises when device time, corrected by PPS_OUT_ADJ_PS, crosses a whole second (R107). -/
def execPpsOutEdge (s : State) : Res :=
  let adj := signedOf 32 (leAt (timeEnt s.plan.now) 8 4)
  let v := ((s.time.t : Int) + adj * unitNs / 1000).toNat / (1000000000 * unitNs)
  .next (if isReady s 5 = false ∨ timeFlag s.plan.now 0 = false ∨ v ≤ s.time.ppsOutSecond then s
    else emit { s with time := { s.time with
      ppsOutSecond := v, ppsOutUntil := s.now + usTicks (leAt (timeEnt s.plan.now) 4 4) } } .pps)

/-- PPS_IN_EDGE: the device time of an active edge, corrected by PPS_IN_ADJ_PS; edges within 100 ms of the last one
taken are ignored (R107). -/
def execPpsInEdge (rising : Bool) (s : State) : Res :=
  let p := s.plan.now
  let active := rising != timeFlag p 2
  let near := decide (0 < s.time.ppsInTick) && decide (s.now + 1 < s.time.ppsInTick + msTicks 100)
  .next (if isReady s 5 = false ∨ timeFlag p 1 = false ∨ active = false ∨ near then s
    else
      let adj := signedOf 32 (leAt (timeEnt p) 12 4)
      { s with time := { s.time with
          ppsIn := ((s.time.t : Int) + adj * unitNs / 1000).toNat / unitNs, ppsInSeen := true, ppsInTick := s.now + 1 } })

/-- REF_CHECK: beyond ±100 ppm, or a reference that has stopped for 1 µs, sets REF_OUT_OF_TOLERANCE and writes one S2
record; the device takes no other action (R108). -/
def execRefCheck (ppm : BitVec 16) (stopped : Bool) (s : State) : Res :=
  let bad := stopped || decide (100 < ppm.toInt.natAbs)
  .next (if isReady s 5 = false then s
    else if bad ∧ s.time.refOut = false then record { s with time := { s.time with refOut := true } } 2 0x02 0x0002 timeLoc
    else { s with time := { s.time with refOut := bad } })

end Sys2Proof.Machine
end

