-- ==== Sys2Proof/Machine/Macsec.lean ====
section
/-!
DEFINITION. The port complex's MACsec (R91 to R97) after IEEE 802.1AE-2018: SecTAG, protection, validation and the
commands that install, select and erase secure associations.
-/

namespace Sys2Proof.Machine

/-- Counter `off` of port `n`'s block (Table 3-5) plus `k`. -/
def portCount (s : State) (n off k : Nat) : State := { s with cnt := cntAdd s.cnt (0x1000000 + 0x1000 * n + off) k }

/-- The MACsec counters of Table 3-7 by position. -/
def macCount (s : State) (n i k : Nat) : State := portCount s n (0x300 + 8 * i) k

/-- A SecTAG as received. -/
structure SecTag where
  v : Bool
  es : Bool
  sc : Bool
  scb : Bool
  e : Bool
  c : Bool
  an : Nat
  sl : Nat
  pn : Nat
  sci : Nat
  /-- Bytes of the tag, EtherType included. -/
  len : Nat
  deriving DecidableEq, Repr

/-- The SecTAG at byte 12 of a frame, when its EtherType is 0x88E5. -/
def secTagOf (f : Bytes) : Option SecTag :=
  if beAt f 12 2 ≠ 0x88E5 then none
  else
    let t := byteAt f 14
    let sc := t.testBit 5
    some { v := t.testBit 7, es := t.testBit 6, sc := sc, scb := t.testBit 4, e := t.testBit 3, c := t.testBit 2, an := t % 4
           sl := byteAt f 15, pn := beAt f 16 4, sci := if sc then beAt f 20 8 else 0, len := if sc then 16 else 8 }

/-- A SecTAG that 802.1AE refuses: a wrong version, ES or SCB beside SC, a short length of 48 or more, packet number 0,
E without C, or a frame too short for its tag and ICV. -/
def secTagBad (f : Bytes) (t : SecTag) : Bool :=
  t.v || (t.es && t.sc) || (t.scb && t.sc) || decide (48 ≤ t.sl) || decide (t.pn = 0) || (t.e && !t.c) ||
    decide (f.length < 12 + t.len + 16) || (decide (0 < t.sl) && decide (f.length < 12 + t.len + t.sl + 16))

/-- The SCI that a frame names: explicit, from the source address under ES, or the port's only receive SC. -/
def tagSci (p : PlanCopy) (n : Nat) (f : Bytes) (t : SecTag) : Option Nat :=
  if t.sc then some t.sci
  else if t.es then some (beAt f 6 6 * 65536 + (if t.scb then 0 else 1))
  else
    match ((rxScs p).filter (fun e => byteAt e.2 1 == n)) with
    | [e] => some (leAt e.2 8 8)
    | _ => none

/-- The full packet number of a received one (802.1AE 10.6.2): under XPN the lower half continues the next expected. -/
def recoverPn (xpn : Bool) (next pn : Nat) : Nat :=
  if xpn = false then pn
  else
    let hi := next / 2 ^ 32
    let lo := next % 2 ^ 32
    if pn < lo ∧ 2 ^ 31 ≤ lo ∧ pn < 2 ^ 31 then (hi + 1) * 2 ^ 32 + pn else hi * 2 ^ 32 + pn

/-- The 96-bit IV (802.1AE 14.5, 14.7). -/
def macIv (xpn : Bool) (a : MacSa) (pn : Nat) : Bytes :=
  if xpn then xorBytes (toBE 4 a.ssci ++ toBE 8 pn) a.salt else toBE 8 a.sci ++ toBE 4 pn

/-- The installed association for a port, direction, SCI and AN, as packets of the epoch of `p` use it (R97). -/
def findSa (s : State) (p : PlanCopy) (n : Nat) (tx : Bool) (sci an : Nat) : Option MacSa :=
  let m := s.ports.sas.filter (fun a => a.port == n && a.tx == tx && a.sci == sci && a.an == an)
  let isOld := match s.plan.old with
    | some o => decide (o.epoch = p.epoch)
    | none => false
  match m.find? (fun a => a.old) with
  | some a => if isOld then some a else m.find? (fun a => !a.old)
  | none => m.head?

/-- The state with the association of the same port, direction, SCI, AN and age replaced. -/
def putSa (s : State) (a : MacSa) : State :=
  let rest := s.ports.sas.filter (fun b => !(b.port == a.port && b.tx == a.tx && b.sci == a.sci && b.an == a.an && b.old == a.old))
  { s with ports := { s.ports with sas := a :: rest } }

/-- The result of the receive side: dropped, or the frame with MACSEC and SC_INDEX of Table 3-4. -/
inductive MacRx where
  | dropped (s : State)
  | passed (s : State) (frame : Bytes) (macsec scIndex : Nat)
  deriving Repr

/-- The secure data, the additional authenticated data and the ICV of a tagged frame. -/
def macParts (f : Bytes) (t : SecTag) : Bytes × Bytes × Bytes :=
  let body := f.drop (12 + t.len)
  let n := if t.sl = 0 then body.length - 16 else t.sl
  (body.take n, f.take (12 + t.len), slice body n 16)

/-- The frame passed on without SecTAG and ICV (R82). -/
def stripTag (f data : Bytes) : Bytes := f.take 12 ++ data

/-- A tagged frame whose association is found: replay check, validation and the counters of 802.1AE 10.6. -/
def macValidate (s : State) (n : Nat) (y f : Bytes) (t : SecTag) (idx : Nat) (a : MacSa) : MacRx :=
  let xpn := secyXpn y
  let pn := recoverPn xpn a.next t.pn
  let late := decide (pn < a.lowest)
  let (data, aad, icv) := macParts f t
  if late ∧ secyFlag y 1 then .dropped (macCount s n 12 1)
  else if secyValidate y = 0 then .passed (macCount s n 15 1) (stripTag f data) 2 idx
  else
    let res := if t.e then gcmOpen a.key (macIv xpn a pn) aad data icv
      else (gcmOpen a.key (macIv xpn a pn) (aad ++ data) [] icv).map (fun _ => data)
    match res with
    | none => if secyValidate y = 2 then .dropped (macCount s n 13 1) else .passed (macCount s n 14 1) (stripTag f data) 2 idx
    | some plain =>
      let s1 := macCount s n (if t.e then 19 else 18) data.length
      let s2 := macCount s1 n (if late then 16 else 17) 1
      let next := Nat.max a.next (pn + 1)
      let win := leAt y 16 4
      .passed (putSa s2 { a with next := next, lowest := Nat.max a.lowest (next - Nat.min next win) }) (stripTag f plain) 1 idx

/-- The receive side of a port's MACsec under the plan `p` of the frame's epoch (R81 order 6, R92): `f` is the frame
without its FCS. -/
def macReceive (s : State) (p : PlanCopy) (n : Nat) (f : Bytes) : MacRx :=
  match secyOf p n with
  | none => .passed s f 0 0
  | some y =>
    match secTagOf f with
    | none =>
      if beAt f 12 2 = 0x888E then .passed s f 3 0
      else if secyValidate y = 2 then .dropped (macCount s n 6 1)
      else .passed (macCount s n 5 1) f 3 0
    | some t =>
      if secTagBad f t then .dropped (macCount s n 7 1)
      else
        let hard := decide (secyValidate y = 2) || t.c
        match (tagSci p n f t).bind (fun sci => (rxScOf p n sci).map (fun e => (e.1, sci))) with
        | none => .dropped (macCount s n (if hard then 11 else 10) 1)
        | some (idx, sci) =>
          match findSa s p n false sci t.an with
          | none => .dropped (macCount s n (if hard then 9 else 8) 1)
          | some a => macValidate s n y f t idx a

/-- The result of the transmit side. -/
inductive MacTx where
  | dropped (s : State)
  | sent (s : State) (frame : Bytes)
  deriving Repr

/-- The SecTAG that a SecY writes (802.1AE 9.3): confidentiality, with SC, ES and SCB as its flags say. -/
def macTag (y : Bytes) (a : MacSa) (len : Nat) : Bytes :=
  let sc := secyFlag y 2
  let tci := b2n (secyFlag y 3 && !sc) * 64 + b2n sc * 32 + b2n (secyFlag y 4 && !sc) * 16 + 12 + a.an
  [0x88, 0xE5] ++ toBE 1 tci ++ toBE 1 (if len < 48 then len else 0) ++ toBE 4 (a.next % 2 ^ 32) ++ (if sc then toBE 8 a.sci else [])

/-- The transmit side of a port's MACsec (R83, R95, R96): where a transmit SA is in use and PROTECT_FRAMES is set the
frame is protected; an exhausted packet number drops it. -/
def macTransmit (s : State) (p : PlanCopy) (n : Nat) (f : Bytes) : MacTx :=
  match secyOf p n with
  | none => .sent s f
  | some y =>
    let sci := leAt y 8 8
    let ans := (List.range 4).filterMap (fun an => findSa s p n true sci an)
    match ans.find? (fun a => a.selected) with
    | none => .sent s f
    | some a =>
      if secyFlag y 0 = false then .sent s f
      else if pnMax (secyXpn y) < a.next then .dropped (macCount s n 4 1)
      else
        let data := f.drop 12
        let aad := f.take 12 ++ macTag y a data.length
        let (c, icv) := gcmSeal a.key (macIv (secyXpn y) a a.next) aad data
        let s1 := putSa (macCount (macCount s n 1 1) n 3 data.length) { a with next := a.next + 1 }
        let s2 := if a.next + 1 = pnThreshold y then
            record s1 0 0x01 0x0002 (unitLoc 16 (64 + n)) (toLE 1 n ++ toLE 1 a.an) else s1
        .sent s2 (aad ++ c ++ icv)

/-- A command naming a port absent from the plan in force, or for MACsec a port without a SecY, returns E_NOT_FOUND. -/
def withSecy (s : State) (mb port : Nat) (k : Bytes → State) : State :=
  if portEnabled s.plan.now port = false then reply s mb eNotFound
  else match secyOf s.plan.now port with
    | none => reply s mb eNotFound
    | some y => k y

/-- MACSEC_SA_INSTALL (Table 3-9, R93, R94): unwraps the SAK under the MACsec key-encryption key. -/
def execMacsecSaInstall (mb : MbId) (args : Bytes) (s : State) : Res :=
  let port := byteAt args 0
  let dir := byteAt args 1
  let an := byteAt args 2
  let sci := leAt args 4 8
  let pn := leAt args 12 8
  .next (withSecy s mb.val port (fun y =>
    let xpn := secyXpn y
    if byteAt args 3 ≠ 0 ∨ !allZero (slice args 76 4) ∨ 1 < dir ∨ 3 < an ∨ pn = 0 ∨ pnMax xpn < pn ∨
        (!xpn && !allZero (slice args 20 16)) then reply s mb.val eArgs
    else if (if dir = 1 then decide (sci ≠ leAt y 8 8) else (rxScOf s.plan.now port sci).isNone) then reply s mb.val eNotFound
    else
      match (tblFind s.svc.keks 0).bind (fun k => keyUnwrap k (slice args 36 40)) with
      | none => reply s mb.val eSignature
      | some key =>
        let prev := s.ports.sas.any (fun a => a.port == port && a.tx == (dir == 1) && a.sci == sci && a.an == an && a.selected && !a.old)
        reply (putSa s { port := port, tx := dir == 1, sci := sci, an := an, next := pn, lowest := pn, ssci := leAt args 20 4
                         salt := slice args 24 12, key := key, selected := prev }) mb.val stOk))

/-- MACSEC_TX_SELECT (R96): the frames that the port starts from here on use the AN. -/
def execMacsecTxSelect (mb : MbId) (port an : BitVec 8) (s : State) : Res :=
  .next (withSecy s mb.val port.toNat (fun y =>
    let sci := leAt y 8 8
    let mine := fun (a : MacSa) => a.port == port.toNat && a.tx && a.sci == sci && !a.old
    if 3 < an.toNat then reply s mb.val eArgs
    else if (s.ports.sas.any (fun a => mine a && a.an == an.toNat)) = false then reply s mb.val eNotFound
    else reply { s with ports := { s.ports with sas := s.ports.sas.map (fun a =>
      if mine a then { a with selected := a.an == an.toNat } else a) } } mb.val stOk))

/-- MACSEC_SA_ERASE: E_NOT_FOUND when the AN is empty. -/
def execMacsecSaErase (mb : MbId) (port dir : BitVec 8) (sci : BitVec 64) (an : BitVec 8) (s : State) : Res :=
  .next (withSecy s mb.val port.toNat (fun _ =>
    let hit := fun (a : MacSa) => a.port == port.toNat && a.tx == (dir.toNat == 1) && a.sci == sci.toNat && a.an == an.toNat && !a.old
    if 1 < dir.toNat ∨ 3 < an.toNat then reply s mb.val eArgs
    else if s.ports.sas.any hit = false then reply s mb.val eNotFound
    else reply { s with ports := { s.ports with sas := s.ports.sas.filter (fun a => !hit a) } } mb.val stOk))

/-- MACSEC_STATUS: for the transmit SC and then each receive SC of the port in SC_INDEX order, an occupancy mask of
its ANs and their next packet numbers; Table 3-8 gives no layout. -/
def execMacsecStatus (mb : MbId) (port : BitVec 8) (s : State) : Res :=
  .next (withSecy s mb.val port.toNat (fun y =>
    let p := s.plan.now
    let one := fun (tx : Bool) (sci : Nat) =>
      let l := (List.range 4).map (fun an => findSa s p port.toNat tx sci an)
      toLE 8 sci ++ toLE 8 ((l.zipIdx.map (fun e => b2n e.1.isSome * 2 ^ e.2)).sum) ++ l.flatMap (fun a => toLE 8 ((a.map (fun x => x.next)).getD 0))
    let scs := (rxScs p).filter (fun e => byteAt e.2 1 == port.toNat)
    reply s mb.val stOk ((one true (leAt y 8 8) ++ scs.flatMap (fun e => one false (leAt e.2 8 8))).take 496)))

end Sys2Proof.Machine
end

