-- ==== Sys2Proof/Machine/Ports.lean ====
section
/-!
DEFINITION. The port complex (R75 to R100, R105, R106, R214, R255 to R258): reception, admission, transmission,
preemption, link state and the port commands.
-/

namespace Sys2Proof.Machine

/-- The location of a port. -/
def portLoc (n : Nat) : Loc := unitLoc 16 n

/-- The length bin of a frame (Table 3-5), as an offset of the receive set. -/
def lengthBin (len : Nat) : Option Nat :=
  if len < 64 then none else if len = 64 then some 0x58 else if len ≤ 127 then some 0x60 else if len ≤ 255 then some 0x68
  else if len ≤ 511 then some 0x70 else if len ≤ 1023 then some 0x78 else if len ≤ 1518 then some 0x80
  else if len ≤ 2047 then some 0x88 else if len ≤ 4095 then some 0x90 else if len ≤ 9216 then some 0x98
  else if len ≤ 10240 then some 0xA0 else none

/-- Packets, octets and the length bin of a frame: `base` is 0 for the receive set and 0x100 for the transmit set. -/
def rmonFrame (s : State) (n base len : Nat) : State :=
  let s1 := portCount (portCount s n base len) n (base + 0x08) 1
  match lengthBin len with
  | some o => portCount s1 n (base + o) 1
  | none => s1

/-- Broadcast and multicast of a good frame. -/
def rmonCast (s : State) (n base : Nat) (f : Bytes) : State :=
  if beAt f 0 6 = 0xFFFFFFFFFFFF then portCount s n (base + 0x10) 1
  else if (byteAt f 0).testBit 0 then portCount s n (base + 0x18) 1 else s

/-- Device time elapsed in `ns4` quarter nanoseconds, in units of 2^-43 ns (R101). -/
def devElapsed (s : State) (ns4 : Nat) : Nat := (((ns4 * unitNs / 4 : Nat) : Int) * (2 ^ 40 + s.time.freqAdj) / 2 ^ 40).toNat

/-- Picoseconds in units of 2^-43 ns. -/
def psUnits (ps : Int) : Int := ps * unitNs / 1000

/-- RX_TIME in nanoseconds of a frame of `len` bytes whose first byte leaves the receive bridge now (R80, R105): back
over the bridge's 6.25 ns, the receive latency and the frame itself, corrected by RX_TS_ADJ_PS. -/
def rxTime (s : State) (n len : Nat) : Nat :=
  let p := s.plan.now
  let ns4 := 25 + 4 * (portLatOf p n).1 + 32 * len / (portModeOf p n).mac
  ((s.time.t : Int) - devElapsed s ns4 + psUnits (portRxAdj p n)).toNat / unitNs

/-! ### PRP and HSR reception (R255, R256, R258) -/

/-- Capacity of a pair's duplicate table (R256). -/
def dupCapacity : Nat := 8192

/-- What a pair does with a frame: the frame for local admission, if any, and a pass-through copy's partner port. -/
structure PairRx where
  taken : Option Bytes := none
  pass : Option Nat := none
  st : State

/-- An entry is made in a pair's duplicate table, or DUP_TABLE_FULL counts (R256). -/
def dupMake (s : State) (x : Nat) (d : DupEntry) : State :=
  if dupCapacity ≤ (getPair s x).dups.length then pairCnt s x 0x48
  else modPair s x (fun v => { v with dups := v.dups ++ [d] })

/-- PRP (R255). -/
def prpReceive (s : State) (x : Nat) (e : Bytes) (b : Bool) (f : Bytes) : PairRx :=
  let n := f.length
  let w := beAt f (n - 4) 2
  let lan := w / 4096
  if beAt f (n - 2) 2 ≠ 0x88FB ∨ w % 4096 ≠ lsduSize (hasTag f) n ∨ (lan ≠ 0xA ∧ lan ≠ 0xB) then
    { taken := some f, st := pairCnt s x 0x40 }
  else
    let s1 := pairCnt s x (if b then 0x18 else 0x10)
    let s2 := if lan = (if b then 0xB else 0xA) then s1 else pairCnt s1 x 0x38
    let mac := beAt f 6 6
    let seq := beAt f (n - 6) 2
    match (getPair s2 x).dups.find? (fun d => d.mac == mac && d.seq == seq) with
    | some d =>
      let s3 := pairCnt s2 x 0x20
      { st := if d.member = b2n b then s3 else modPair s3 x (fun v => { v with dups := v.dups.filter (fun d => !(d.mac == mac && d.seq == seq)) }) }
    | none =>
      { taken := some (if (byteAt e 5).testBit 0 then f.take (n - 6) else f)
        st := dupMake s2 x { mac := mac, seq := seq, member := b2n b, made := s.now } }

/-- HSR (R258, Table 8-4). -/
def hsrReceive (s : State) (p : PlanCopy) (x : Nat) (e : Bytes) (b : Bool) (f : Bytes) : PairRx :=
  let o := if hasTag f then 16 else 12
  if beAt f o 2 ≠ 0x892F then { taken := some f, st := pairCnt s x 0x40 }
  else
    let s1 := pairCnt s x (if b then 0x18 else 0x10)
    let src := beAt f 6 6
    let dst := beAt f 0 6
    let seq := beAt f (o + 4) 2
    let proxies := proxyMacs p e
    if proxies.contains src then { st := pairCnt s1 x 0x50 }
    else
      let group := (byteAt f 0).testBit 0
      let mine := group || proxies.contains dst
      let known := (getPair s1 x).dups.find? (fun d => d.mac == src && d.seq == seq)
      let old : DupEntry := known.getD { mac := src, seq := seq, member := b2n b, made := s.now }
      let forwarded := if b then old.fwdB else old.fwdA
      let toPass := !(!group && proxies.contains dst)
      let pass := toPass && !forwarded
      let local_ := mine && !old.admitted
      let new := { old with fwdA := old.fwdA || (pass && !b), fwdB := old.fwdB || (pass && b), admitted := old.admitted || local_ }
      let s2 := match known with
        | some _ => modPair s1 x (fun v => { v with dups := v.dups.map (fun d => if d.mac == src && d.seq == seq then new else d) })
        | none => if pass || local_ then dupMake s1 x new else s1
      let s3 := if toPass && forwarded then pairCnt s2 x 0x60 else s2
      let s4 := if mine && old.admitted then pairCnt s3 x 0x20 else s3
      { taken := if local_ then some f else none, pass := if pass then some (byteAt e (if b then 2 else 3)) else none, st := s4 }

/-! ### Reception (R81, R82) -/

/-- Pads a frame with zero bytes to 60. -/
def pad60 (f : Bytes) : Bytes := f ++ zeros (60 - f.length)

/-- A checked frame asks Hod for its buffer (R82, R214). -/
def requestAlloc (s : State) (rx : RxFields) (f : Bytes) (pass : Option Nat) : State :=
  let g := pad60 f
  { s with ports := { s.ports with rxWait := s.ports.rxWait ++
    [{ bytes := g, rx := { rx with len := g.length }, epoch := s.plan.epoch, tick := s.now, pass := pass }] } }

/-- A frame that has passed the checks of R81 orders 1 to 7 meets its port's pair and asks for its buffer. -/
def acceptFrame (s : State) (p : PlanCopy) (n : Nat) (rx : RxFields) (f : Bytes) : State :=
  match pairAt p n with
  | none => requestAlloc s rx f none
  | some (x, e, b) =>
    let r := if byteAt e 1 = 1 then prpReceive s x e b f else hsrReceive s p x e b f
    let s1 := match r.pass with
      | some y => requestAlloc r.st rx f (some y)
      | none => r.st
    match r.taken with
    | some g => requestAlloc s1 rx g none
    | none => s1

/-- A frame with its FCS at the MAC: the checks of Table 3-3 in order, MACsec, and MAC Control. -/
def portReceive (s0 : State) (n : Nat) (frame : Bytes) (lost fecBad pre : Bool) (time : Nat) : State :=
  let p := s0.plan.now
  let len := frame.length
  let s := rmonFrame s0 n 0 len
  let body := frame.take (len - 4)
  if lost then portCount s n (if len < 64 then 0x38 else 0x40) 1
  else if fecBad ∨ leAt frame (len - 4) 4 ≠ crc32 body ∨ len < 4 then
    portCount (if fecBad ∧ byteAt (portEnt p n) 2 ≠ 0 then portCount s n 0x208 1 else s) n 0x20 1
  else if len < 64 then portCount s n 0x28 1
  else if portMaxFrame p n < len then portCount s n 0x30 1
  else
    match macReceive (rmonCast s n 0 frame) p n body with
    | .dropped s1 => s1
    | .passed s1 f m sc =>
      if beAt f 12 2 = 0x8808 then portCount s1 n 0xA8 1
      else acceptFrame s1 p n { port := n, len := f.length, time := time, macsec := m, scIndex := sc, preemptable := pre } f

/-- RX_FRAME: a frame received through the express MAC. A port that is not up receives nothing; loopback MODE 1 takes
nothing from the balls, and MODE 2 sends back what arrives. -/
def execRxFrame (port : PortId) (frame : Bytes) (lost fecBad : Bool) (s : State) : Res :=
  let n := port.val
  let lb := (getPort s n).loopback
  .next (if portUp s n = false ∨ lb = 1 then s
    else
      let s1 := portReceive s n frame lost fecBad false (rxTime s n frame.length)
      if lb = 2 then emit s1 (.frame n frame) else s1)

/-- The mCRC of a partial frame (802.3br): its FCS with the low 16 bits inverted. -/
def mCrc (b : Bytes) : Nat := crc32 b ^^^ 0xFFFF

/-- MM_FRAGMENT_RX: an mPacket of a preemptable frame (R89, R90). Its last four bytes are the frame's FCS in the final
mPacket and the mCRC in any other. -/
def execMmFragmentRx (port : PortId) (start : Bool) (frameCount fragCount : BitVec 2) (data : Bytes) (s0 : State) : Res :=
  let n := port.val
  let drop := fun (s : State) (off : Nat) => modPort (portCount s n off 1) n (fun p => { p with reasm := none })
  let k := data.length - 4
  let take := fun (s : State) (whole : Bytes) (time : Nat) (frags : Nat) =>
    if leAt data k 4 = crc32 whole then
      let s1 := modPort s n (fun p => { p with reasm := none })
      portReceive (if frags = 0 then s1 else portCount s1 n 0x290 1) n (whole ++ slice data k 4) false false true time
    else if leAt data k 4 = mCrc whole then
      modPort s n (fun p => { p with reasm := some { frameCount := frameCount.toNat, fragCount := frags, data := whole, time := time } })
    else drop s 0x280
  .next (if portUp s0 n = false ∨ (getPort s0 n).loopback = 1 then s0
    else
      match start, (getPort s0 n).reasm with
      | true, r =>
        let s := if r.isSome then drop s0 0x280 else s0
        take s (data.take k) (rxTime s0 n data.length) 0
      | false, none => portCount (portCount s0 n 0x298 1) n 0x288 1
      | false, some r =>
        let s := portCount s0 n 0x298 1
        if r.frameCount ≠ frameCount.toNat ∨ r.fragCount % 4 ≠ fragCount.toNat then drop s 0x280
        else take s (r.data ++ data.take k) r.time (r.fragCount + 1))

/-! ### Admission (R214) -/

/-- The pipeline of a port, and the Stencil engine and classifier that serve it (R109, R137). -/
def pipeOf (n : Nat) : Nat := n / 32

/-- A granted pass-through copy is placed on its port's PASS_QUEUE (R258). -/
def passForward (s : State) (w : RxWait) (h y : Nat) : State :=
  let p := s.plan.of w.epoch
  match pairAt p y with
  | none => unitRelease s h 25 66
  | some (x, e, _) =>
    enqueue (pairCnt s x 0x58) y (byteAt e 6 % 16)
      { handle := h, start := headroom p, len := w.bytes.length, epoch := w.epoch, tick := w.tick, domain := byteAt e 4
        ingress := some w.rx.port, rxTime := w.rx.time }

/-- HOD_ALLOC_ANSWER: Hod answers the oldest request: the frame is written at HEADROOM and the packet admitted, or the
frame is dropped before admission (R81 order 8, R214). -/
def execHodAllocAnswer (s0 : State) : Res :=
  .next (match s0.ports.rxWait with
    | [] => s0
    | w :: r =>
      let s := { s0 with ports := { s0.ports with rxWait := r } }
      let p := s.plan.of w.epoch
      let n := w.rx.port
      let d := match w.pass with
        | some y => ((pairAt p y).map (fun e => byteAt e.2.1 4)).getD 0
        | none => portDropDomain p n
      match hodAlloc s d (headroom p + w.bytes.length) with
      | (.granted h, s1) =>
        let s2 := hbmPut s1 1 n (bufAddr s1 h + headroom p) w.bytes
        (match w.pass with
          | some y => passForward s2 w h y
          | none =>
            if recovering s2 (unitLoc (18 + pipeOf n) 0) then faultCount (unitRelease s2 h (18 + pipeOf n) 1) 0x50 1
            else
              let pkt : Packet := { handle := h, rx := w.rx, epoch := w.epoch, tick := w.tick, source := n }
              { s2 with stencil := { s2.stencil with walking := s2.stencil.walking ++ [pkt] } })
      | (_, s1) => domCnt (portCount s1 n 0x50 1) (portDropDomain p n) 0x40)

/-! ### Transmission (R83 to R88, R106) -/

/-- A 16-bit one's-complement sum folded. -/
def foldSum (v : Nat) : Nat := let a := v % 65536 + v / 65536; a % 65536 + a / 65536

/-- The one's-complement sum of the bytes of `b` at `off`, in words aligned with offset `at_`. -/
def placedSum (b : Bytes) (off at_ : Nat) : Nat :=
  ((b.zipIdx).map (fun e => if (off + e.2 + at_) % 2 = 0 then e.1.toNat * 256 else e.1.toNat)).sum

/-- RFC 1624: the checksum after bytes `o` at `off` became `m`. -/
def csumUpdate (hc : Nat) (o m : Bytes) (off at_ : Nat) : Nat :=
  65535 - foldSum ((65535 - hc) + (65535 - foldSum (placedSum o off at_)) + foldSum (placedSum m off at_))

/-- A one-step timestamp action on a frame sent at `ns` (R106): none when a field would lie beyond the frame. -/
def oneStep (i : TxItem) (f : Bytes) (ns : Nat) : Option Bytes :=
  let len := if i.oneStep = 1 then 10 else 8
  if f.length < i.osOff + len ∨ (i.csumOff ≠ 0 ∧ f.length < i.csumOff + 2) then none
  else
    let old := slice f i.osOff len
    let new := if i.oneStep = 1 then toBE 6 (ns / 1000000000) ++ toBE 4 (ns % 1000000000)
      else toBE 8 (toSigned 64 (signedOf 64 (beVal old) + ((ns : Int) - i.rxTime) * 65536))
    let g := patchBytes f i.osOff new
    some (if i.csumOff = 0 then g else patchBytes g i.csumOff (toBE 2 (csumUpdate (beAt g i.csumOff 2) old new i.osOff i.csumOff)))

/-- The transmit time in nanoseconds of a frame whose first byte leaves the transmit bridge now. -/
def txTime (s : State) (n : Nat) : Nat :=
  ((s.time.t : Int) + devElapsed s (4 * (portLatOf s.plan.now n).2) + psUnits (portTxAdj s.plan.now n)).toNat / unitNs

/-- The timestamp actions of a frame (R106). -/
def txStamp (s : State) (n : Nat) (i : TxItem) (f : Bytes) : Bytes × State :=
  let ns := txTime s n
  let s1 := match i.tsTag with
    | none => s
    | some t =>
      if 64 ≤ (getPort s n).tsRing.length then portCount s n 0x400 1
      else modPort s n (fun p => { p with tsRing := p.tsRing ++ [toLE 2 t ++ toLE 1 n ++ zeros 3 ++ time10 ns], tsHead := (p.tsHead + 1) % 64 })
  if i.oneStep = 0 then (f, s1)
  else
    match oneStep i f ns with
    | some g => (g, s1)
    | none => (f, portCount s1 n 0x400 1)

/-- A frame's reference goes with its transmission or discard (R219). -/
def txRelease (s : State) (n : Nat) (i : TxItem) : State := unitRelease s i.handle 25 n

/-- Beacon ticks that `len` bytes take at a port's MAC rate. -/
def wireTicks (s : State) (n len : Nat) : Nat := ceilDiv (len * 64) (5 * (portModeOf s.plan.now n).mac)

/-- A frame of the transmit buffer goes to the wire (R83, R84). -/
def startFrame (s : State) (n : Nat) (i : TxItem) : State :=
  let p := s.plan.of i.epoch
  if portMaxFrame s.plan.now n - 4 < i.bytes.length then txRelease (portCount s n 0x1A8 1) n i
  else
    let x := txStamp s n i (pad60 i.bytes)
    match macTransmit x.2 p n x.1 with
    | .dropped s1 => txRelease s1 n i
    | .sent s1 f =>
      modPort s1 n (fun q => { q with
        onWire := some { item := i, wire := f ++ toLE 4 (crc32 f), start := s1.now, frameCount := q.mmCount }
        mmCount := if i.preemptable then (q.mmCount + 1) % 4 else q.mmCount })

/-- The boundary at which a preemptable frame on the wire is cut (R88): the number of bytes of its present fragment,
when at least 64 bytes remain after it. -/
def preemptAt (s : State) (n : Nat) (w : OnWire) : Option Nat :=
  let out := (s.now - w.start) * 5 * (portModeOf s.plan.now n).mac / 64 - 8
  let b := Nat.max (64 * (1 + portMinFrag s.plan.now n) - 4) out
  if w.wire.length < w.sent + b + 64 then none else some b

/-- TX_FRAME: the port takes the frame from its transmit buffer, cutting a preemptable frame at its next boundary for
an express one (R88), or goes on with a frame that was cut. -/
def execTxFrame (port : PortId) (s0 : State) : Res :=
  let n := port.val
  let pt := getPort s0 n
  .next (if portUp s0 n = false then s0
    else
      match pt.onWire, pt.txBuf with
      | none, i :: r => startFrame (modPort s0 n (fun p => { p with txBuf := r })) n i
      | none, [] =>
        match pt.held with
        | none => s0
        | some w =>
          if (getGate s0 n).hold ∧ preempting s0 n then s0
          else
            let s := advanceTo s0 pt.freeAt
            portCount (modPort s n (fun p => { p with onWire := some { w with start := s.now, frags := w.frags + 1 }, held := none })) n 0x2A0 1
      | some w, i :: r =>
        if w.item.preemptable = false ∨ i.preemptable ∨ preempting s0 n = false then s0
        else
          match preemptAt s0 n w with
          | none => s0
          | some b =>
            let s := cbsSync (advanceTo s0 (w.start + wireTicks s0 n (8 + b + 4 + 12)))
            let part := slice w.wire w.sent b
            let s1 := emit s (.fragment n (part ++ toLE 4 (mCrc (w.wire.take (w.sent + b)))) false)
            startFrame (modPort s1 n (fun p => { p with txBuf := r, onWire := none, held := some { w with sent := w.sent + b } })) n i
      | some _, [] => s0)

/-- The counters of a frame that has been sent: RMON, queue, pair and mirror session. -/
def txCounters (s : State) (n : Nat) (w : OnWire) : State :=
  let i := w.item
  let s1 := rmonCast (rmonFrame s n 0x100 w.wire.length) n 0x100 w.wire
  let s2 := queueCnt (queueCnt s1 n i.queue 0x08 1) n i.queue 0x10 i.bytes.length
  let s3 := match i.pair with
    | some (x, m) => pairCnt s2 x (8 * m)
    | none => s2
  match i.mirror with
  | some m => mirrorCnt s3 m 0x00
  | none => s3

/-- TX_COMPLETE: the last bit of the frame on the wire goes out: it is counted and its buffer reference released
(R219). Under loopback MODE 1 the frame returns to reception in place of the balls. -/
def execTxComplete (port : PortId) (s0 : State) : Res :=
  let n := port.val
  .next (match (getPort s0 n).onWire with
    | none => s0
    | some w =>
      let left := w.wire.length - w.sent
      let s := cbsSync (advanceTo s0 (w.start + wireTicks s0 n (8 + left)))
      let s1 := modPort (txCounters s n w) n (fun p => { p with onWire := none, freeAt := w.start + wireTicks s0 n (8 + left + 12) })
      let s2 := txRelease s1 n w.item
      if (getPort s0 n).loopback = 1 then portReceive s2 n w.wire false false w.item.preemptable (rxTime s2 n w.wire.length)
      else if (getPort s0 n).loopback = 2 then s2
      else if w.frags = 0 then emit s2 (.frame n w.wire) else emit s2 (.fragment n (w.wire.drop w.sent) true))

/-! ### Link state (R85, R87, R98, R99, R242) -/

/-- A port's state changes (Table 3-17). -/
def portState (s : State) (n st : Nat) : State := modPort s n (fun p => { p with st := st, lastChange := devNs s })

/-- What a port drops when its LANE_READY bits clear: the frame on the wire is cut off (R85), its transmit buffer and
its queues are emptied (R242), and a frame in reassembly is lost. -/
def portDrop (s0 : State) (n : Nat) : State :=
  let pt := getPort s0 n
  let lanes := laneMask s0.plan.now n
  let s := { cbsSync s0 with laneReady := clearMask s0.laneReady lanes }
  let cutOff := fun (x : State) (w : Option OnWire) => match w with
    | some w => txRelease (portCount x n 0x1B0 1) n w.item
    | none => x
  let s1 := cutOff (cutOff (if pt.onWire.isSome then emit s (.cut n) else s) pt.onWire) pt.held
  let s2 := pt.txBuf.foldl (fun x i => txRelease (portEgr x n 0x00) n i) s1
  flushPort (modPort s2 n (fun p => { p with onWire := none, held := none, txBuf := [], reasm := none, preemptActive := false, verifyTries := 0 })) n

/-- A verify attempt begins (R87). -/
def sendVerify (s : State) (n : Nat) : State :=
  emit (modPort s n (fun p => { p with verifyTries := p.verifyTries + 1, verifyAt := s.now })) (.verify n false)

/-- Preemption at link-up: active at once with VERIFY clear, after verification otherwise, and not again after three
failures (R87). -/
def startVerify (s : State) (p : PlanCopy) (n : Nat) : State :=
  if portFlag p n 3 = false ∨ (getPort s n).verifyFailed then s
  else if portFlag p n 4 = false then modPort s n (fun p => { p with preemptActive := true })
  else sendVerify (modPort s n (fun p => { p with verifyTries := 0 })) n

/-- LINK_UP: lock, training and deskew are complete, and the LANE_READY bits of all the port's lanes set (R98). -/
def execLinkUp (port : PortId) (s : State) : Res :=
  let n := port.val
  let st := (getPort s n).st
  .next (if portEnabled s.plan.now n = false ∨ (st ≠ 1 ∧ st ≠ 3) ∨ recovering s (portLoc n) then s
    else startVerify (portState { s with laneReady := s.laneReady ||| laneMask s.plan.now n } n 2) s.plan.now n)

/-- The loss of a link that was up (R99). -/
def linkLost (s : State) (n : Nat) : State :=
  portState (portCount (record (portDrop s n) 0 0x01 0x0001 (portLoc n)) n 0x218 1) n 3

/-- AN_RESTART: auto-negotiation restarts because training has not completed in its time, or with the loss of a link
that was up (R98, R99). -/
def execAnRestart (port : PortId) (s : State) : Res :=
  let n := port.val
  .next (if portEnabled s.plan.now n = false ∨ portFlag s.plan.now n 1 = false then s
    else
      let s1 := portCount s n 0x220 1
      if portUp s n then linkLost s1 n else s1)

/-- LINK_LOSS. -/
def execLinkLoss (port : PortId) (s : State) : Res :=
  .next (if portUp s port.val then linkLost s port.val else s)

/-- VERIFY_TIMEOUT: VERIFY_MS after an attempt without its response; the third failure ends verification (R87). -/
def execVerifyTimeout (port : PortId) (s0 : State) : Res :=
  let n := port.val
  let pt := getPort s0 n
  .next (if portUp s0 n = false ∨ pt.verifyTries = 0 ∨ pt.preemptActive ∨ pt.verifyFailed then s0
    else
      let s := advanceTo s0 (pt.verifyAt + msTicks (byteAt (portEnt s0.plan.now n) 6))
      if pt.verifyTries < 3 then sendVerify s n
      else portCount (modPort s n (fun p => { p with verifyFailed := true, verifyTries := 0 })) n 0x2B0 1)

/-- VERIFY_RESPONSE_RX: a respond mPacket completes verification, and a verify mPacket is answered (R87, R89). -/
def execVerifyResponseRx (port : PortId) (respond : Bool) (s : State) : Res :=
  let n := port.val
  let pt := getPort s n
  .next (if portUp s n = false then s
    else if respond = false then emit s (.verify n true)
    else if pt.verifyTries = 0 ∨ pt.verifyFailed then s
    else modPort s n (fun p => { p with preemptActive := true, verifyTries := 0 }))

/-! ### Commands (Table 3-8) -/

/-- A command that names a port of the plan in force. -/
def withPort (s : State) (mb : MbId) (port : BitVec 8) (k : Nat → State) : State :=
  if portEnabled s.plan.now port.toNat then k port.toNat else reply s mb.val eNotFound

/-- The TX_SA and RX_SAS fields of PORT_STATUS (Table 3-17). -/
def portSas (s : State) (n : Nat) : Nat × Nat :=
  match secyOf s.plan.now n with
  | none => (0, 0)
  | some y =>
    let tx := s.ports.sas.filter (fun a => a.port == n && a.tx && a.sci == leAt y 8 8 && !a.old)
    let mask := ((List.range 4).map (fun k => if tx.any (fun a => a.an == k) then 2 ^ k else 0)).sum
    let sel := match tx.find? (fun a => a.selected) with
      | some a => 16 * a.an + 64
      | none => 0
    (mask + sel, (s.ports.sas.filter (fun a => a.port == n && !a.tx && !a.old)).length)

/-- PORT_STATUS (R625). -/
def execPortStatus (mb : MbId) (port : BitVec 8) (s : State) : Res :=
  .next (withPort s mb port (fun n =>
    let pt := getPort s n
    let sas := portSas s n
    reply s mb.val stOk (toLE 1 pt.st ++ toLE 1 (b2n pt.verifyFailed + 2 * b2n pt.preemptActive) ++ toLE 1 pt.loopback ++
      toLE 1 sas.1 ++ toLE 4 sas.2 ++ time10 pt.lastChange ++ zeros 6)))

/-- A port enters R98 at step 1. -/
def portBringUp (s : State) (n : Nat) : State := portState (portDrop s n) n 1

/-- PORT_RESTART: the port re-enters R98 at step 1, and verification starts afresh (R87). -/
def execPortRestart (mb : MbId) (port : BitVec 8) (s : State) : Res :=
  .next (withPort s mb port (fun n =>
    reply (modPort (portBringUp s n) n (fun p => { p with verifyFailed := false })) mb.val stOk))

/-- PORT_LOOPBACK: MODE 0 none, 1 near-end PCS, 2 far-end PMA. -/
def execPortLoopback (mb : MbId) (port mode : BitVec 8) (s : State) : Res :=
  .next (withPort s mb port (fun n =>
    if 2 < mode.toNat then reply s mb.val eArgs
    else reply (modPort s n (fun p => { p with loopback := mode.toNat })) mb.val stOk))

/-- The 8-byte word at an offset of a port's block: counters, and the transmit-timestamp ring at 0x800 with its head
index first (R106). -/
def portWord (s : State) (n off : Nat) : Nat :=
  if off < 0x800 then cntGet s.cnt (0x1000000 + 0x1000 * n + off)
  else if off = 0x800 then (getPort s n).tsHead
  else
    let o := off - 0x808
    leAt (((getPort s n).tsRing[o / 16]?).getD []) (o % 16) 8

/-- PORT_COUNTERS: `count` counters from byte offset `first` of the port's block. -/
def execPortCounters (mb : MbId) (port : BitVec 8) (first count : BitVec 16) (s : State) : Res :=
  .next (withPort s mb port (fun n =>
    if first.toNat % 8 ≠ 0 ∨ 62 < count.toNat ∨ 0x1000 < first.toNat + 8 * count.toNat then reply s mb.val eArgs
    else reply s mb.val stOk ((List.range count.toNat).flatMap (fun k => toLE 8 (portWord s n (first.toNat + 8 * k))))))

/-- TX_TS_READ: the oldest entries are returned and removed. -/
def execTxTsRead (mb : MbId) (port max : BitVec 8) (s : State) : Res :=
  .next (withPort s mb port (fun n =>
    let k := Nat.min max.toNat 31
    let es := (getPort s n).tsRing.take k
    reply (modPort s n (fun p => { p with tsRing := p.tsRing.drop k })) mb.val stOk (es.flatMap (fun e => e))))

/-! ### What an epoch instant does to the ports (R97, R98, R99) -/

/-- Whether a commit changes what link bring-up depends on. -/
def linkFieldsDiffer (a b : PlanCopy) (n : Nat) : Bool :=
  let x := portEnt a n
  let y := portEnt b n
  x.take 4 != y.take 4 && (byteAt x 1 != byteAt y 1 || byteAt x 2 != byteAt y 2 || byteAt x 3 % 8 != byteAt y 3 % 8) ||
    slice x 7 3 != slice y 7 3

/-- A port at an epoch instant. -/
def portEpoch (old new : PlanCopy) (s : State) (n : Nat) : State :=
  let was := portEnabled old n
  let is := portEnabled new n
  if was = false ∧ is = false then s
  else
    let changed := portEnt old n != portEnt new n
    let s1 := if changed then modPort s n (fun p => { p with loopback := 0, verifyFailed := false }) else s
    if is = false then portState (portDrop s1 n) n 0
    else if was = false ∨ linkFieldsDiffer old new n then portBringUp s1 n
    else if changed ∧ portUp s1 n then startVerify (modPort s1 n (fun p => { p with preemptActive := false })) new n
    else s1

/-- Secure associations whose SecY or receive SC a commit removes, or whose CIPHER or SCI it changes, serve only the old
epoch (R97). -/
def sasEpoch (s : State) (old new : PlanCopy) : State :=
  let keep := fun (a : MacSa) =>
    let cipher := fun (p : PlanCopy) => (secyOf p a.port).map (fun y => byteAt y 2)
    let there := fun (p : PlanCopy) => if a.tx then (secyOf p a.port).map (fun y => leAt y 8 8) == some a.sci else (rxScOf p a.port a.sci).isSome
    cipher old == cipher new && there new
  { s with ports := { s.ports with sas := s.ports.sas.map (fun a => if keep a then a else { a with old := true }) } }

/-- The port complex at an epoch instant: ports are dropped under the old plan's lanes before the new plan's rise. -/
def portsEpoch (s : State) (old new : PlanCopy) : State := (List.range 64).foldl (portEpoch old new) (sasEpoch s old new)

/-- The associations of the old epoch are erased at its retirement (R97). -/
def sasRetire (s : State) : State := { s with ports := { s.ports with sas := s.ports.sas.filter (fun a => !a.old) } }

end Sys2Proof.Machine
end

