-- ==== Sys2Proof/Machine/Stencil.lean ====
section
/-!
DEFINITION. The Stencil engines (R109 to R136): the walk of the parse graph, parse results and their reasons, and
fragment contexts.
-/

namespace Sys2Proof.Machine

/-! ### The graph (Tables 4-1, 4-10 and 4-12) -/

/-- Node `n` of engine `e`'s graph. -/
def nodeOf (p : PlanCopy) (e n : Nat) : Bytes :=
  let g := p.sec 0x03
  g.entry 0x03 (if g.byte 0 % 2 = 1 then n else 1024 * e + n)
/-- REASON_ACTION of a reason: whether it is MARK. -/
def reasonMarks (p : PlanCopy) (r : Nat) : Bool := decide ((p.sec 0x03).byte (4 + r) = 1)
/-- START_NODE of a port. -/
def startNode (p : PlanCopy) (n : Nat) : Nat := (p.sec 0x03).le (68 + 2 * n) 2
/-- The fragment mode of a port: 0 NONE, 1 FOLLOW, 2 SLOW. -/
def fragMode (p : PlanCopy) (n : Nat) : Nat := if p.has 0x04 then (p.sec 0x04).byte (64 + 8 * n + 1) else 0
/-- CONTEXT_TIMEOUT_MS. -/
def ctxTimeout (p : PlanCopy) : Nat := (p.sec 0x04).le 0 4
/-- EARLY_TIMEOUT_US. -/
def earlyTimeout (p : PlanCopy) : Nat := (p.sec 0x04).le 4 4
/-- CONTEXTS. -/
def ctxLimit (p : PlanCopy) : Nat := (p.sec 0x04).le 8 2
/-- EARLY_MAX. -/
def earlyMax (p : PlanCopy) : Nat := (p.sec 0x04).byte 10
/-- MIN_FRAG_OFFSET. -/
def minFragOffset (p : PlanCopy) : Nat := (p.sec 0x04).byte 11
/-- EARLY_TOTAL. -/
def earlyTotal (p : PlanCopy) : Nat := (p.sec 0x04).le 12 2

/-! ### The walk (R113 to R117, R123, R124) -/

/-- A walk in progress, and its result when it has a reason. -/
structure Walk where
  off : List Nat := List.replicate 8 0xFFFF
  cursor : Nat := 0
  hops : Nat := 0
  cls : Nat := 0
  node : Nat := 0
  reason : Nat := 0
  /-- FRAG_STATE: 0 NONE, 1 FIRST, 2 LATER, 3 SLOW. -/
  frag : Nat := 0
  key : Bytes := []
  /-- Fragment offset in 8-byte units, more-fragments flag and data length. -/
  fragOff : Nat := 0
  more : Bool := false
  dataLen : Nat := 0
  /-- Nodes read, latest first. -/
  seen : List Nat := []
  deriving DecidableEq, Repr, Inhabited

/-- TRUNCATED. -/
def rTruncated : Nat := 1
/-- BEYOND_HEAD. -/
def rBeyondHead : Nat := 2
/-- HOP_LIMIT. -/
def rHopLimit : Nat := 3
/-- NODE_ERROR. -/
def rNodeError : Nat := 4
/-- FRAG_TINY. -/
def rFragTiny : Nat := 5
/-- FRAG_NO_CONTEXT. -/
def rFragNoContext : Nat := 6
/-- FRAG_EARLY_LIMIT. -/
def rFragEarlyLimit : Nat := 7
/-- FRAG_TIMEOUT. -/
def rFragTimeout : Nat := 8
/-- FRAG_EPOCH. -/
def rFragEpoch : Nat := 9

/-- read(a, s) of R114: the value, or the reason that ends the parse. -/
def headRead (head : Bytes) (len a n : Nat) : Except Nat Nat :=
  if len < a + n then .error rTruncated
  else if 512 < a + n then .error rBeyondHead
  else .ok (beAt head a n)

/-- The size in bytes of a FIELD_SIZE code. -/
def fieldSize (c : Nat) : Nat := if c = 0 then 1 else if c = 1 then 2 else 4

/-- MATCH_NEXT of the first arm equal to `v`. -/
def matchArm (n : Bytes) (v : Nat) : Option Nat :=
  (((List.range (byteAt n 9)).find? (fun i => leAt n (12 + 2 * i) 2 == v))).map (fun i => leAt n (28 + 2 * i) 2)

/-- select(n, v) (R115). -/
def selectNext (n : Bytes) (v : Nat) : Nat :=
  let dflt := leAt n 10 2
  match byteAt n 8 with
  | 1 => if 0xFFFF < v then dflt else (matchArm n v).getD dflt
  | 2 => if v ≤ byteAt n 9 then leAt n 28 2 + v else dflt
  | _ => dflt

/-- The fragment fields of Table 4-6: offset, more-fragments flag, key, and the fragment data's length (R129). -/
def fragFields (n : Bytes) (head : Bytes) (len : Nat) (w : Walk) : Except Nat (Nat × Bool × Bytes × Nat) :=
  let c := w.cursor
  if byteAt n 62 = 1 then do
    let _ ← headRead head len c 20
    let f ← headRead head len (c + 6) 2
    let total ← headRead head len (c + 2) 2
    .ok (f % 8192, f.testBit 13, slice head (c + 12) 4 ++ slice head (c + 16) 4 ++ slice head (c + 4) 2 ++ slice head (c + 9) 1,
      total - byteAt head c % 16 * 4)
  else do
    let l3 := (w.off[bits (byteAt n 1) 6 4]?).getD 0xFFFF
    let _ ← headRead head len c 8
    let f ← headRead head len (c + 2) 2
    let _ ← headRead head len (l3 + 8) 32
    .ok (f / 8, f.testBit 0, slice head (l3 + 8) 16 ++ slice head (l3 + 24) 16 ++ slice head (c + 4) 4,
      l3 + 40 + beAt head (l3 + 4) 2 - (c + 8))

/-- The check of a node (R113, R117): whether it fails. `first` waives the upper bound of a LENGTH check. -/
def nodeCheckFails (n : Bytes) (c cursor len : Nat) (first : Bool) : Bool :=
  if byteAt n 48 = 1 then decide (c < leAt n 56 2) || decide (leAt n 58 2 < c)
  else if byteAt n 48 = 2 then
    decide (c + leAt n 56 2 < leAt n 58 2) || (!first && decide (len < cursor + c + leAt n 56 2))
  else false

/-- The end of a walk. -/
def Walk.finish (w : Walk) (r : Nat) : Walk := { w with reason := r }

/-- frag_step (R124): the walk with its fragment state, and whether the next value becomes END; or FRAG_TINY. -/
def fragStep (w : Walk) (mode minOff : Nat) (f : Nat × Bool × Bytes × Nat) : Except Nat (Walk × Bool) :=
  let (o, more, key, dl) := f
  let set := fun (k : Nat) => { w with frag := k, key := key, fragOff := o, more := more, dataLen := dl }
  if o = 0 ∧ more = false then .ok (w, false)
  else if 0 < o ∧ mode ≠ 0 ∧ o < minOff then .error rFragTiny
  else if mode = 2 then .ok (set 3, true)
  else if o = 0 then .ok (set 1, false)
  else .ok (set 2, true)

/-- One node's evaluation (R113): the walk after it, and the next value, or the finished walk. -/
def walkNode (n : Bytes) (head : Bytes) (len mode minOff : Nat) (w0 : Walk) : Except Walk (Walk × Nat) :=
  let w1 := if (byteAt n 0).testBit 1 then { w0 with off := listMod (fun _ => w0.cursor) w0.off (byteAt n 1 % 8) } else w0
  let w := { w1 with cls := w1.cls ||| leAt n 60 2 }
  let c := w.cursor
  let fin := fun {α : Type} (x : Except Nat α) => x.mapError w.finish
  let ff := if byteAt n 62 = 0 then (Except.error 0) else fragFields n head len w
  let first := decide (w.frag = 1) || (match ff with | .ok (o, m, _, _) => decide (o = 0) && m && decide (mode ≠ 2) | .error _ => false)
  do
    let raw ← fin (headRead head len (c + byteAt n 2) (fieldSize (byteAt n 3 % 4)))
    let v := (raw >>> (byteAt n 3 / 8)) &&& leAt n 4 4
    if byteAt n 48 ≠ 0 then
      let x ← fin (headRead head len (c + byteAt n 50) (fieldSize (byteAt n 51 % 4)))
      if nodeCheckFails n ((x >>> (byteAt n 51 / 8)) &&& leAt n 52 4) c len first then throw (w.finish (byteAt n 49))
    let lb ← if (byteAt n 47).testBit 3 then fin (headRead head len (c + byteAt n 45) 1) else pure 0
    let adv := byteAt n 44 + (lb &&& byteAt n 46) <<< (byteAt n 47 % 8)
    let next := selectNext n v
    let (w2, toEnd) ← if byteAt n 62 = 0 then pure (w, false) else do
      let f ← fin ff
      fin (fragStep w mode minOff f)
    if len < c + adv then throw (w2.finish rTruncated)
    let w3 := { w2 with cursor := c + adv }
    let next2 := if toEnd then 0xFFFF else next
    if next2 = 0xFFFF then throw (w3.finish 0)
    else if next2 = 0xFFFE then throw (w3.finish (byteAt n 49))
    else pure (w3, next2)

/-- The walk from a node on, with at most 48 nodes. -/
def walkFrom (p : PlanCopy) (e : Nat) (bad : Nat → Bool) (head : Bytes) (len mode minOff : Nat) : Nat → Nat → Walk → Walk
  | 0, _, w => w.finish rHopLimit
  | fuel + 1, i, w0 =>
    let w := { w0 with hops := w0.hops + 1, node := i, seen := i :: w0.seen }
    if bad i then w.finish rNodeError
    else
      match walkNode (nodeOf p e i) head len mode minOff w with
      | .error x => x
      | .ok (x, next) => walkFrom p e bad head len mode minOff fuel next x

/-! ### Node memory (R122) -/

/-- The location of a word of an on-die memory (R520, R629). -/
def wordLoc (l : Loc) (w : Nat) : Loc := { l with l2 := w * 72 / 2 ^ 20, l1 := w * 72 % 2 ^ 20 }

/-- The physical copy of a plan-state memory that serves an epoch. -/
def copyOf (epoch : Nat) : Nat := epoch % 2

/-- The location of an engine's node memory copy. -/
def nodeMem (e copy : Nat) : Loc := { unitLoc (18 + e) 0 with l3 := copy }

/-- The marks in a node of the copy that serves an epoch. -/
def nodeMarks (s : State) (e epoch i : Nat) : List ErrorMark :=
  s.fault.marks.filter (fun m => m.loc == nodeMem e (copyOf epoch) && m.word / 8 == i)

/-- Whether a read of a node meets an uncorrectable error. -/
def nodeBad (s : State) (e epoch i : Nat) : Bool :=
  s.stencil.badNodes.contains (e, i) || (nodeMarks s e epoch i).any (fun m => decide (2 ≤ m.kind))

/-- What the reads of a walk leave: corrected errors give S1 records and are corrected; the first uncorrectable one
gives an S2 record, and the node awaits its rewrite. -/
def nodeTouch (s : State) (e epoch i : Nat) : State :=
  let ms := nodeMarks s e epoch i
  match ms.find? (fun m => decide (2 ≤ m.kind)) with
  | some m =>
    if s.stencil.badNodes.contains (e, i) then s
    else errorIn { s with stencil := { s.stencil with badNodes := s.stencil.badNodes ++ [(e, i)] } } 2 0x03 0x0002 (wordLoc m.loc m.word) [] m.injected
  | none => ms.foldl (fun x m => record (clearMark x m.loc m.word) 1 0x03 0x0001 (wordLoc m.loc m.word) [] m.injected) s

/-! ### Parse results (R118 to R121) -/

/-- A counter of an engine (Table 4-9). -/
def stencilCnt (s : State) (e off k : Nat) : State := { s with cnt := cntAdd s.cnt (0x2000000 + 0x10000 * e + off) k }

/-- The 40-byte parse result (Table 4-2). -/
def parseResult (rx : RxFields) (w : Walk) : Bytes :=
  let hash := if w.frag = 0 then 0 else crc32c w.key % 65536
  w.off.flatMap (toLE 2) ++ time10 rx.time ++ toLE 2 (rx.len % 16384 + rx.macsec * 16384) ++ toLE 2 (rx.scIndex % 1024 + rx.port * 1024) ++
    toLE 2 w.cursor ++ toLE 2 w.cls ++ toLE 2 (w.node % 1024 + w.reason * 1024) ++ toLE 1 w.hops ++
    toLE 1 (2 * b2n rx.preemptable + 4 * b2n (decide (512 < rx.len)) + 8 * w.frag) ++ toLE 2 hash

/-- REASON of a parse result, with MARKED. -/
def withReason (md : Bytes) (r : Nat) : Bytes :=
  let x := leAt md 34 2 % 1024
  patchBytes (patchBytes md 34 (toLE 2 (x + r * 1024))) 37 (toLE 1 (putBit (byteAt md 37) 0 (decide (r ≠ 0))))

/-- A parse result is delivered to its classifier (R138). -/
def deliver (s : State) (k : Packet) : State :=
  { s with cls := { s.cls with input := s.cls.input ++ [{ k with delivered := s.now }] } }

/-- A packet discarded before hand-on: Hod frees its buffer (R120). -/
def parseDrop (s : State) (k : Packet) : State :=
  let p := s.plan.of k.epoch
  unitRelease (domCnt s (portDropDomain p k.rx.port) 0x28) k.handle (18 + pipeOf k.rx.port) 1

/-- Whether a reason drops a packet (R119). -/
def reasonDrops (p : PlanCopy) (r : Nat) : Bool := r != 0 && (r == rNodeError || !reasonMarks p r)

/-- A parse ends with a reason: it counts, and the packet is delivered, marked or discarded. -/
def finishParse (s : State) (k : Packet) (r : Nat) : State :=
  let s1 := stencilCnt s (pipeOf k.rx.port) (8 * r) 1
  if reasonDrops (s.plan.of k.epoch) r then parseDrop s1 k
  else deliver s1 { k with md := withReason k.md r }

/-! ### Fragment contexts (R125 to R131) -/

/-- The context of a key in an engine. -/
def findCtx (s : State) (e : Nat) (key : Bytes) : Option FragCtx := s.stencil.ctxs.find? (fun c => c.engine == e && c.key == key)

/-- The state with a context put in place of the one of its key. -/
def putCtx (s : State) (c : FragCtx) : State :=
  let rest := s.stencil.ctxs.filter (fun d => !(d.engine == c.engine && d.key == c.key))
  { s with stencil := { s.stencil with ctxs := rest ++ [c] } }

/-- The state without a context. -/
def delCtx (s : State) (e : Nat) (key : Bytes) : State :=
  { s with stencil := { s.stencil with ctxs := s.stencil.ctxs.filter (fun d => !(d.engine == e && d.key == key)) } }

/-- Fragments held in an engine. -/
def heldLive (s : State) (e : Nat) : Nat := ((s.stencil.ctxs.filter (fun c => c.engine == e)).map (fun c => c.held.length)).sum
/-- Live contexts of an engine. -/
def ctxLive (s : State) (e : Nat) : Nat := (s.stencil.ctxs.filter (fun c => c.engine == e)).length

/-- A context's byte accounting after a fragment has met it (R129). -/
def FragCtx.account (c : FragCtx) (w : Walk) : FragCtx :=
  { c with sum := c.sum + w.dataLen, fin := if w.more then c.fin else some (w.fragOff * 8 + w.dataLen) }

/-- A DECIDED context whose bytes have reached its end is freed (R129). -/
def ctxComplete (s : State) (e : Nat) (key : Bytes) : State :=
  match findCtx s e key with
  | some c =>
    (match c.st, c.fin with
      | .decided, some f => if f ≤ c.sum then stencilCnt (delCtx s e key) e 0x2A8 1 else s
      | _, _ => s)
  | none => s

/-- A later fragment takes a recorded decision (R127). -/
def takeDecision (s : State) (e : Nat) (k : Packet) (r : ClassRes) : State :=
  let s1 := stencilCnt (stencilCnt s e 0x298 1) e 0 1
  let s2 := if r.action = 0 then stencilCnt s1 e 0x2A0 1 else s1
  deliver s2 { k with decision := some r, md := patchBytes k.md 37 (toLE 1 (setBit (byteAt k.md 37) 5)) }

/-- The decision of a context is recorded: it becomes DECIDED, and its held fragments are released in order
(R127, R128). -/
def fragDecide (s : State) (e : Nat) (key : Bytes) (r : ClassRes) : State :=
  match findCtx s e key with
  | some c =>
    if c.st ≠ .pending then s
    else
      let s1 := putCtx s { c with st := .decided, decision := r, held := [], due := s.now + msTicks (ctxTimeout (s.plan.of c.epoch)) }
      ctxComplete (c.held.foldl (fun x k => if k.epoch = c.epoch then takeDecision x e k r else finishParse x k rFragEpoch) s1) e key
  | none => s

/-- The decision that a first fragment discarded before its classification ends records (R127). -/
def dropDecision (p : PlanCopy) (port : Nat) : ClassRes := { action := 0, domain := portDropDomain p port }

/-- A first fragment in FOLLOW mode at the end of its walk (Table 4-7). -/
def followFirst (s : State) (e : Nat) (k : Packet) (w : Walk) : State :=
  let p := s.plan.of k.epoch
  let start := fun (x : State) (c : FragCtx) =>
    let x1 := stencilCnt (putCtx x ({ c with epoch := k.epoch, st := .pending, due := s.now + usTicks (earlyTimeout p) }.account w)) e 0x280 1
    let x2 := finishParse x1 { k with fragKey := w.key } w.reason
    if reasonDrops p w.reason then fragDecide x2 e w.key (dropDecision p k.rx.port) else x2
  match findCtx s e w.key with
  | some c =>
    if c.st = .waiting then start s c
    else ctxComplete (finishParse (stencilCnt (putCtx s (c.account w)) e 0x288 1) k w.reason) e w.key
  | none =>
    if ctxLive s e < ctxLimit s.plan.now then start s { engine := e, key := w.key, epoch := k.epoch, st := .pending, due := 0 }
    else finishParse s k (if w.reason = 0 then rFragNoContext else w.reason)

/-- A later fragment in FOLLOW mode at the end of its walk (Table 4-7). -/
def followLater (s : State) (e : Nat) (k : Packet) (w : Walk) : State :=
  let room := fun (n : Nat) => decide (n < earlyMax s.plan.now) && decide (heldLive s e < earlyTotal s.plan.now)
  match findCtx s e w.key with
  | some c =>
    if c.st = .decided then
      (if c.epoch = k.epoch then ctxComplete (takeDecision (putCtx s (c.account w)) e k c.decision) e w.key
      else finishParse s k rFragEpoch)
    else if room c.held.length then stencilCnt (putCtx s ({ c with held := c.held ++ [k] }.account w)) e 0x290 1
    else finishParse s k rFragEarlyLimit
  | none =>
    if room 0 = false then finishParse s k rFragEarlyLimit
    else if ctxLimit s.plan.now ≤ ctxLive s e then finishParse s k rFragNoContext
    else
      let c : FragCtx := { engine := e, key := w.key, epoch := k.epoch, st := .waiting, held := [k]
                           due := s.now + usTicks (earlyTimeout (s.plan.of k.epoch)) }
      stencilCnt (putCtx s (c.account w)) e 0x290 1

/-! ### Commands -/

/-- The head of a packet: its first 512 bytes. -/
def headOf (s : State) (k : Packet) : Bytes :=
  memRead s.mem (bufAddr s k.handle + headroom (s.plan.of k.epoch)) (Nat.min k.rx.len 512)

/-- The whole walk of a head (R113). -/
def walkOf (s : State) (k : Packet) : Walk :=
  let p := s.plan.of k.epoch
  let n := k.rx.port
  let e := pipeOf n
  walkFrom p e (nodeBad s e k.epoch) (headOf s k) k.rx.len (fragMode p n) (minFragOffset p) 48 (startNode p n) {}

/-- The slot in which a walk's result is delivered: 6 + 2 × h after the head leaves the receive bridge (R110). -/
def walkEnd (s : State) (k : Packet) : Nat := k.tick + 6 + 2 * (walkOf s k).hops

/-- The head whose walk ends first, with the walking heads without it: ties in ascending port number. -/
def firstWalk (s : State) : List Packet → Option Packet
  | [] => none
  | k :: r =>
    match firstWalk s r with
    | none => some k
    | some j =>
      if walkEnd s j < walkEnd s k ∨ (walkEnd s j = walkEnd s k ∧ j.rx.port < k.rx.port) then some j else some k

/-- PARSE_COMPLETE: the walk that ends first is finished: its result goes to the classifier, marked when its reason's
action says so, or the packet is discarded or held (R113 to R133). -/
def execParseComplete (s0 : State) : Res :=
  .next (match firstWalk s0 s0.stencil.walking with
    | none => s0
    | some k0 =>
      let w := walkOf s0 k0
      let n := k0.rx.port
      let e := pipeOf n
      let s1 := advanceTo { s0 with stencil := { s0.stencil with walking := s0.stencil.walking.erase k0 } } (walkEnd s0 k0)
      let s2 := w.seen.reverse.foldl (fun x i => nodeTouch x e k0.epoch i) s1
      let s3 := stencilCnt s2 e 0x200 w.hops
      let s4 := { s3 with cnt := cntSet s3.cnt (0x2000000 + 0x10000 * e + 0x208) (Nat.max w.hops (cntGet s3.cnt (0x2000000 + 0x10000 * e + 0x208))) }
      let s := if w.frag = 3 then stencilCnt s4 e 0x2B8 1 else s4
      let k := { k0 with md := parseResult k0.rx w, fragState := w.frag }
      if fragMode (s.plan.of k.epoch) n ≠ 1 ∨ w.frag = 0 then finishParse s k w.reason
      else if w.frag = 1 then followFirst s e k w
      else if w.reason ≠ 0 then finishParse s k w.reason
      else followLater s e k w)

/-- FRAG_CONTEXT_EXPIRE: a context times out; the fragments it holds take FRAG_TIMEOUT (R130). -/
def execFragContextExpire (engine : Fin 2) (key : Bytes) (s0 : State) : Res :=
  let e := engine.val
  .next (match findCtx s0 e key with
    | none => s0
    | some c =>
      let s := delCtx (advanceTo s0 c.due) e key
      if c.st = .decided then stencilCnt s e 0x2B0 1
      else c.held.foldl (fun x k => finishParse x k rFragTimeout) s)

/-- PARSE_NODE_REPAIR: the node is rewritten in both copies from the plan store (R122). -/
def execParseNodeRepair (engine : Fin 2) (node : Fin 1024) (s : State) : Res :=
  let e := engine.val
  let i := node.val
  .next (if s.stencil.badNodes.contains (e, i) = false then s
    else { s with
      stencil := { s.stencil with badNodes := s.stencil.badNodes.filter (fun b => b != (e, i)) }
      fault := { s.fault with marks := s.fault.marks.filter (fun m => !((m.loc == nodeMem e 0 || m.loc == nodeMem e 1) && m.word / 8 == i)) } })

end Sys2Proof.Machine
end

