-- ==== Sys2Proof/Machine/Classify.lean ====
section
/-!
DEFINITION. The classifiers (R137 to R162): keys and rules, the Holt chain, stream identification, filters, gates and
meters, express reservation, and hand-on.
-/

namespace Sys2Proof.Machine

/-! ### Keys (R141, R142) -/

/-- What a classifier reads of a packet: its parse result, its head and L. -/
structure ClsKey where
  md : Bytes
  head : Bytes
  len : Nat

/-- Offset register `k` of a parse result. -/
def offReg (md : Bytes) (k : Nat) : Nat := leAt md (2 * k) 2

/-- `n` bytes at a source and displacement, big-endian bytes; none when absent. -/
def keyBytes (c : ClsKey) (src disp n : Nat) : Option Bytes :=
  if src < 8 then
    let o := offReg c.md src
    if o = 0xFFFF ∨ c.len < o + disp + n ∨ 512 < o + disp + n then none else some (slice c.head (o + disp) n)
  else if src = 8 then some (slice c.md disp n)
  else some (zeros n)

/-- A range field's value under a profile, with its mask. -/
def rangeValue (c : ClsKey) (prof : Bytes) (k : Nat) : Option Nat × Nat :=
  let d := slice prof (8 * k) 8
  let n := if (byteAt d 1).testBit 0 then 4 else 2
  ((keyBytes c (byteAt d 0) (leAt d 2 2) n).map (fun b => beVal b &&& leAt d 4 4), leAt d 4 4)

/-- The masked field under a profile: each byte, none where its segment is absent. -/
def maskedField (c : ClsKey) (prof : Bytes) : List (Option Byte) :=
  (List.range 4).flatMap (fun k =>
    let d := slice prof (64 + 4 * k) 4
    match keyBytes c (byteAt d 0) (leAt d 2 2) 8 with
    | some b => b.map some
    | none => List.replicate 8 none)

/-- A ternary match of the masked field (R142, R144). -/
def maskedMatches (f : List (Option Byte)) (value mask : Bytes) : Bool :=
  ((f.zip (value.zip mask)).all (fun e =>
    match e.1 with
    | some b => (b ^^^ e.2.1) &&& e.2.2 == 0
    | none => e.2.2 == 0))

/-! ### Rules (R143 to R147) -/

/-- Whether a native rule matches (R144). -/
def ruleMatches (p : PlanCopy) (pipe : Nat) (c : ClsKey) (e : Bytes) : Bool :=
  let prof := profileOf p 5 pipe (byteAt e 1 % 16)
  (List.range 8).all (fun k =>
    let (v, m) := rangeValue c prof k
    let lo := leAt e (16 + 8 * k) 4
    let hi := leAt e (20 + 8 * k) 4
    match v with
    | some x => decide (lo ≤ x) && decide (x ≤ hi)
    | none => decide (lo = 0) && decide (hi = m)) &&
  maskedMatches (maskedField c prof) (slice e 80 32) (slice e 112 32)

/-- The larger PRIORITY wins, and the lower index a tie (R145). -/
def bestRule (l : List (Nat × Bytes)) : Option (Nat × Bytes) :=
  match l with
  | [] => none
  | x :: r => some (r.foldl (fun b y => if leAt b.2 2 2 < leAt y.2 2 2 ∨ (leAt b.2 2 2 = leAt y.2 2 2 ∧ y.1 < b.1) then y else b) x)

/-- The winner of the native search. -/
def nativeWinner (p : PlanCopy) (pipe : Nat) (c : ClsKey) : Option (Nat × Bytes) :=
  bestRule ((pipeRules p 5 pipe).filter (fun e => ruleMatches p pipe c e.2))

/-- Whether a Holt entry matches in its table (R146). -/
def holtMatches (p : PlanCopy) (pipe : Nat) (c : ClsKey) (meta_ t : Nat) (e : Bytes) : Bool :=
  byteAt e 1 == t && decide ((meta_ ^^^ leAt e 8 8) &&& leAt e 16 8 = 0) &&
    maskedMatches (maskedField c (profileOf p 6 pipe (byteAt (holtTable p pipe t) 0 % 16))) (slice e 40 32) (slice e 72 32)

/-- What a Holt chain leaves: entries matched, tables missed, the result's entry, and the metadata. -/
structure HoltRun where
  hits : List Nat := []
  misses : List Nat := []
  result : Option (Nat × Bytes) := none
  meta_ : Nat := 0
  deriving DecidableEq, Repr, Inhabited

/-- The chain of R147: at most 8 tables. -/
def holtChain (p : PlanCopy) (pipe : Nat) (c : ClsKey) (rules : List (Nat × Bytes)) : Nat → Nat → HoltRun → HoltRun
  | 0, _, h => h
  | fuel + 1, t, h =>
    match bestRule (rules.filter (fun e => holtMatches p pipe c h.meta_ t e.2)) with
    | none =>
      let next := byteAt (holtTable p pipe t) 1
      let h1 := { h with misses := h.misses ++ [t] }
      if next = 0xFF then h1 else holtChain p pipe c rules fuel next h1
    | some (i, e) =>
      let wm := leAt e 32 8
      let m := clearMask h.meta_ wm ||| (leAt e 24 8 &&& wm)
      let h1 := { h with hits := h.hits ++ [i], meta_ := m, result := if (byteAt e 0).testBit 1 then some (i, e) else h.result }
      if byteAt e 4 = 0xFF then h1 else holtChain p pipe c rules fuel (byteAt e 4) h1

/-! ### Stream identification (R152) -/

/-- The TCI of the tag at VLAN_SLOT; none for an untagged packet. -/
def tciOf (p : PlanCopy) (c : ClsKey) : Option Nat := (keyBytes c (streamSlot p 1) 0 2).map beVal

/-- Whether a MAC field matches: all zero matches any where `any` says so. -/
def macMatches (c : ClsKey) (p : PlanCopy) (disp : Nat) (m : Bytes) (any : Bool) : Bool :=
  (any && allZero m) || keyBytes c (streamSlot p 0) disp 6 == some m

/-- The VLAN part of an IDENT entry. -/
def vidMatches (p : PlanCopy) (c : ClsKey) (e : Bytes) : Bool :=
  match tciOf p c with
  | none => (byteAt e 2).testBit 1
  | some t => !(byteAt e 2).testBit 1 && decide (t % 4096 = leAt e 10 2)

/-- The IP part of an IDENT entry. -/
def ipMatches (p : PlanCopy) (c : ClsKey) (e : Bytes) : Bool :=
  let f := byteAt e 17
  let v6 := f.testBit 0
  let cls := leAt c.md 32 2
  let l3 := fun (o n : Nat) => keyBytes c (streamSlot p 2) o n
  let l4 := fun (o : Nat) => (keyBytes c (streamSlot p 3) o 2).map beVal
  let addr := fun (x : Bytes) (o : Nat) => allZero x || l3 o x.length == some x
  let tc := if v6 then (l3 0 2).map (fun b => beVal b / 16 % 256) else (l3 1 1).map beVal
  decide (cls &&& (if v6 then (ipClasses p).2 else (ipClasses p).1) ≠ 0) &&
    addr (slice e 24 (if v6 then 16 else 4)) (if v6 then 8 else 12) && addr (slice e 40 (if v6 then 16 else 4)) (if v6 then 24 else 16) &&
    (!f.testBit 1 || (tc.map (fun x => x / 4)) == some (byteAt e 18)) &&
    (!f.testBit 2 || (l3 (if v6 then 6 else 9) 1).map beVal == some (byteAt e 19)) &&
    (!f.testBit 3 || l4 0 == some (leAt e 20 2)) && (!f.testBit 4 || l4 2 == some (leAt e 22 2))

/-- Whether an IDENT entry is EXPRESS. -/
def identExpress (e : Bytes) : Bool := (byteAt e 2).testBit 0

/-- Whether an IDENT entry identifies a packet of a port (R152). -/
def identMatches (p : PlanCopy) (port : Nat) (c : ClsKey) (e : Bytes) : Bool :=
  let m := slice e 4 6
  (!identExpress e || (byteAt e 60 == port && decide (leAt c.md 32 2 &&& priorityMask p (pipeOf port) ≠ 0))) && vidMatches p c e &&
    (match byteAt e 1 with
      | 1 => macMatches c p 0 m true
      | 2 => macMatches c p 6 m false
      | 3 => macMatches c p 0 m true && ipMatches p c e
      | _ => false)

/-- The first matching IDENT entry. -/
def identify (p : PlanCopy) (port : Nat) (c : ClsKey) : Option (Nat × Bytes) :=
  if p.has 7 then (identsOf p).find? (fun e => identMatches p port c e.2) else none

/-! ### Filters, gates and meters (R153 to R155) -/

/-- A counter of a filter (Table 5-9). -/
def filterCnt (s : State) (f off : Nat) : State := { s with cnt := cntAdd s.cnt (0x3800000 + 0x40 * f + off) 1 }
/-- A counter of a meter (Table 5-10). -/
def meterCnt (s : State) (m off : Nat) : State := { s with cnt := cntAdd s.cnt (0x3C00000 + 0x20 * m + off) 1 }
/-- A stream gate's state. -/
def getSGate (s : State) (g : Nat) : SGateSt := tblGet {} s.cls.gates g
/-- The state with a stream gate changed. -/
def setSGate (s : State) (g : Nat) (v : SGateSt) : State := { s with cls := { s.cls with gates := tblSet s.cls.gates g v } }

/-- The outcome of policing: whether the packet passes, a yellow colour, and the priority that a gate gives it. -/
structure Policed where
  pass : Bool := true
  yellow : Bool := false
  prio : Option Nat := none
  deriving DecidableEq, Repr, Inhabited

/-- The operation of a list at an offset in the cycle, with the start of its interval. -/
def sgateAt : List Bytes → Nat → Nat → Bytes × Nat
  | [], start, _ => (zeros 8, start)
  | [o], start, _ => (o, start)
  | o :: r, start, pos => if pos < start + leAt o 4 4 then (o, start) else sgateAt r (start + leAt o 4 4) pos

/-- A stream gate's decision for a packet of `len` bytes received at `t` ns (R154): whether it passes, and its IPV. -/
def gateDecide (s : State) (p : PlanCopy) (g : Nat) (e : Bytes) (t len : Nat) : Bool × Option Nat × State :=
  let st := getSGate s g
  let cyc := Nat.max 1 (sgateCycle e)
  let pos := (((t : Int) - sgateBase e) % cyc).toNat
  let (o, start) := sgateAt (sgateOps p e) 0 pos
  let interval := t - (pos - start)
  let octets := if st.interval = interval then st.octets else 0
  let opened := (byteAt o 0).testBit 0
  let max := leAt o 1 3
  let ipv := byteAt o 0 / 16
  if st.latched then (false, none, s)
  else if opened = false then (false, none, setSGate s g { st with latched := (byteAt e 1).testBit 0 })
  else if max ≠ 0 ∧ max < octets + len then (false, none, setSGate s g { st with latched := (byteAt e 1).testBit 1 })
  else (true, if ipv = 15 then none else some ipv, setSGate s g { st with interval := interval, octets := octets + len })

/-- A colour of a meter. -/
inductive Colour where
  | green
  | yellow
  | red
  deriving DecidableEq, Repr

/-- The bits of a rate or size, in 10^-9 bits. -/
def meterUnit : Nat := 1000000000

/-- The bandwidth profile of MEF 10.3 (R155): the token buckets after a frame of `len` bytes at `t` ns. -/
def meterRun (e : Bytes) (m0 : Option MeterSt) (t len : Nat) (yellowIn : Bool) : Colour × MeterSt :=
  let cir := leAt e 8 8
  let eir := leAt e 16 8
  let cbs := leAt e 24 4 * 8 * meterUnit
  let ebs := leAt e 28 4 * 8 * meterUnit
  let m := m0.getD { last := t, bc := cbs, be := ebs }
  let now := Nat.max m.last t
  let bc0 := m.bc + cir * (now - m.last)
  let bc := Nat.min cbs bc0
  let be := Nat.min ebs (m.be + eir * (now - m.last) + (if (byteAt e 1).testBit 0 then bc0 - bc else 0))
  let need := len * 8 * meterUnit
  let st := { m with last := now, bc := bc, be := be }
  if m.allRed then (.red, st)
  else if !(yellowIn && (byteAt e 1).testBit 1) ∧ need ≤ bc then (.green, { st with bc := bc - need })
  else if need ≤ be then (.yellow, { st with be := be - need })
  else (.red, { st with allRed := (byteAt e 1).testBit 3 })

/-- A meter's decision (R155). -/
def meterDecide (s : State) (p : PlanCopy) (m t len : Nat) (yellowIn : Bool) : Colour × Bool × State :=
  match meterOf p m with
  | none => (.green, false, s)
  | some e =>
    let (c, st) := meterRun e (tblFind s.cls.meters m) t (len + 4) yellowIn
    let s1 := { s with cls := { s.cls with meters := tblSet s.cls.meters m st } }
    match c with
    | .green => (.green, false, meterCnt s1 m 0x00)
    | .yellow => (.yellow, (byteAt e 1).testBit 2, meterCnt s1 m 0x08)
    | .red => (.red, true, meterCnt s1 m 0x10)

/-- The first filter that matches a handle and a frame priority (R153). -/
def filterFor (p : PlanCopy) (handle pcp : Nat) : Option (Nat × Bytes) :=
  (filtersOf p).find? (fun f =>
    ((byteAt f.2 1).testBit 0 || leAt f.2 4 2 == handle) && ((byteAt f.2 1).testBit 1 || byteAt f.2 2 == pcp))

/-- A filter's checks in order (R153): blocked state, MAX_SDU, gate and meter. -/
def filterRun (s : State) (p : PlanCopy) (f : Nat) (e : Bytes) (t len : Nat) (dei : Bool) : Policed × State :=
  let s1 := filterCnt s f 0x00
  let stop := fun (x : State) (off : Nat) => ({ pass := false : Policed }, filterCnt (if off = 0x10 then x else filterCnt x f off) f 0x10)
  let sdu := leAt e 10 2
  if s1.cls.blocked.contains f then stop s1 0x20
  else if sdu ≠ 0 ∧ sdu < len then
    stop (if (byteAt e 1).testBit 2 then { s1 with cls := { s1.cls with blocked := s1.cls.blocked ++ [f] } } else s1) 0x20
  else
    let s2 := filterCnt s1 f 0x18
    let (ok, ipv, s3) := match sgateOf p (leAt e 6 2) with
      | some g => gateDecide s2 p (leAt e 6 2) g t len
      | none => (true, none, s2)
    if ok = false then stop s3 0x10
    else
      let s4 := filterCnt s3 f 0x08
      let (c, drop, s5) := if leAt e 8 2 = 0xFFFF then (.green, false, s4) else meterDecide s4 p (leAt e 8 2) t len dei
      if drop then stop s5 (if c = .red then 0x28 else 0x10)
      else ({ pass := true, yellow := decide (c = .yellow), prio := ipv }, s5)

/-! ### Entry into the rule search (R138, R148, R151 to R159) -/

/-- A counter of a classifier (Table 5-8). -/
def clsCnt (s : State) (pipe off : Nat) : State := { s with cnt := cntAdd s.cnt (0x3000000 + 0x100000 * pipe + off) 1 }

/-- The rule search's result with its counters, whether no rule matched, and the entry whose RESULT is read. -/
def ruleSearch (s : State) (p : PlanCopy) (pipe port : Nat) (c : ClsKey) : RuleResult × Bool × Option Nat × State :=
  match pipeSection p pipe with
  | some 5 =>
    (match nativeWinner p pipe c with
      | some (i, e) => (resultOf (slice e 144 32), false, some (24 * i + 18), clsCnt s pipe (0x10000 + 8 * i))
      | none => (resultOf (defaultResult p pipe), true, none, clsCnt s pipe 0x008))
  | some _ =>
    let h := holtChain p pipe c (pipeRules p 6 pipe) 8 0 { meta_ := portMeta p port }
    let s1 := h.hits.foldl (fun x i => clsCnt x pipe (0x10000 + 8 * i)) (h.misses.foldl (fun x t => clsCnt x pipe (0x100 + 8 * t)) s)
    (match h.result with
      | some (i, e) => ({ resultOf (slice e 104 32) with user := h.meta_ }, false, some (20 * i + 13), s1)
      | none => ({ resultOf (defaultResult p pipe) with user := h.meta_ }, true, none, clsCnt s1 pipe 0x008))
  | none => (resultOf (defaultResult p pipe), true, none, clsCnt s pipe 0x008)

/-- The merge of R148. -/
def mergeResult (r : RuleResult) (ident : Option (Nat × Bytes)) (holt dflt : Bool) : ClassRes :=
  match ident with
  | some (h, e) =>
    { action := r.action, consume := r.consume, domain := byteAt e 3, prio := byteAt e 16, orderDomain := leAt e 12 2, stream := h
      chain := leAt e 14 2, ring := r.ring, mirror := r.mirror, user := r.user, holt := holt, isDefault := dflt, ident := true }
  | none =>
    { action := r.action, consume := r.consume, domain := r.domain, prio := r.prio, orderDomain := r.od
      stream := if r.streamEn then r.stream else 0xFFFF, chain := r.chain, meter := if r.meterEn then some r.meter else none
      ring := r.ring, mirror := r.mirror, user := r.user, holt := holt, isDefault := dflt }

/-- Filtering and metering of a packet with a merged result (R153 to R155). -/
def police (s : State) (p : PlanCopy) (c : ClsKey) (t : Nat) (res : ClassRes) : Policed × State :=
  let tci := tciOf p c
  let pcp := (tci.getD 0) / 8192
  let dei := (tci.getD 0).testBit 12
  let (a, s1) := if res.stream = 0xFFFF then ({}, s) else
    match filterFor p res.stream pcp with
    | some (f, e) => filterRun s p f e t c.len dei
    | none => ({}, s)
  match a.pass, res.meter with
  | true, some m =>
    let (col, drop, s2) := meterDecide s1 p m t c.len dei
    ({ a with pass := !drop, yellow := a.yellow || decide (col = .yellow) }, s2)
  | _, _ => (a, s1)

/-- The express reservation of a packet that an IDENT entry identifies (R157, R158). -/
def reserve (s : State) (p : PlanCopy) (k : Packet) (h : Nat) (e : Bytes) : Bool × State :=
  let pipe := pipeOf k.rx.port
  if k.fragState = 2 ∨ k.fragState = 3 then (false, clsCnt s pipe 0x048)
  else
    match makeClaim s p k.handle h (byteAt e 56) (byteAt e 57 % 16) (leAt e 58 2) (k.rx.time + leAt e 61 3) with
    | none => (false, s)
    | some (shifted, s1) => (true, clsCnt (if shifted then clsCnt s1 pipe 0x038 else s1) pipe 0x030)

/-- The locations of the memories of a pipeline that stop its rule search while a word awaits its rewrite (R160). -/
def pipeBad (s : State) (pipe : Nat) : Bool :=
  s.cls.bad.any (fun b => b == (20 + pipe, 0) || b == (20 + pipe, 1) || b == (20, 2))

/-- An uncorrectable word found in a classifier memory (R160). -/
def clsBadWord (s : State) (m : ErrorMark) : State :=
  let b := (m.loc.l5, m.loc.l4)
  if s.cls.bad.contains b then s
  else errorIn { s with cls := { s.cls with bad := s.cls.bad ++ [b] } } 2 0x04 0x0002 (wordLoc m.loc m.word) [] m.injected

/-- The read of a result's words with SECDED: whether one of them is lost, and the records (R160). -/
def resultTouch (s : State) (pipe epoch : Nat) (w : Option Nat) : Bool × State :=
  match w with
  | none => (false, s)
  | some w =>
    let l : Loc := { unitLoc (20 + pipe) 0 with l3 := copyOf epoch }
    let ms := s.fault.marks.filter (fun m => m.loc == l && decide (w ≤ m.word) && decide (m.word < w + 4))
    match ms.find? (fun m => decide (2 ≤ m.kind)) with
    | some m => (true, clsBadWord s m)
    | none => (false, ms.foldl (fun x m => record (clearMark x m.loc m.word) 1 0x04 0x0001 (wordLoc m.loc m.word) [] m.injected) s)

/-- A packet discarded in the classifier: a first fragment records the decision DROP (R127, R160). -/
def clsDiscard (s : State) (k : Packet) : State :=
  let s1 := unitRelease s k.handle (20 + pipeOf k.rx.port) 0
  if k.fragKey = [] then s1 else fragDecide s1 (pipeOf k.rx.port) k.fragKey (dropDecision (s.plan.of k.epoch) k.rx.port)

/-- A result in the rule search (R139). -/
def enterSearch (s0 : State) (pipe : Nat) (k : Packet) : State :=
  let s := clsCnt s0 pipe 0x000
  let p := s.plan.of k.epoch
  let c : ClsKey := { md := k.md, head := headOf s k, len := k.rx.len }
  let push := fun (x : State) (b : ClsBusy) => { x with cls := { x.cls with busy := x.cls.busy ++ [b] } }
  match k.decision with
  | some r =>
    let (a, s1) := police (clsCnt s pipe 0x010) p c k.rx.time r
    push s1 { pkt := k, enter := s.now, res := r, policed := !a.pass, yellow := a.yellow, prio := a.prio }
  | none =>
    let ident := identify p k.rx.port c
    let (r, dflt, word, s1) := ruleSearch s p pipe k.rx.port c
    let (lost, s2) := resultTouch s1 pipe k.epoch word
    if lost then clsDiscard (clsCnt s2 pipe 0x028) k
    else
      let res := mergeResult r ident (decide (pipeSection p pipe = some 6)) dflt
      let (a, s3) := police s2 p c k.rx.time res
      let (express, s4) := match ident with
        | some (h, e) => if identExpress e ∧ a.pass then reserve s3 p k h e else (false, s3)
        | none => (false, s3)
      push s4 { pkt := k, enter := s.now, res := res, policed := !a.pass, yellow := a.yellow, prio := a.prio, express := express }

/-- Whether a result is of the priority class (R138). -/
def isPriority (s : State) (pipe : Nat) (k : Packet) : Bool :=
  decide (leAt k.md 32 2 &&& priorityMask (s.plan.of k.epoch) pipe ≠ 0)

/-- Delivery slot, then admission slot, then port number (R138). -/
def entersBefore (a b : Packet) : Bool :=
  decide (a.delivered < b.delivered) || (a.delivered == b.delivered && (decide (a.tick < b.tick) || (a.tick == b.tick && decide (a.rx.port ≤ b.rx.port))))

/-- The first of a list by an order. -/
def firstBy {α : Type} (lt : α → α → Bool) : List α → Option α
  | [] => none
  | x :: r => some (r.foldl (fun b y => if lt b y then b else y) x)

/-- CLASSIFY_ENTER: the next result of a pipeline enters the rule search, at most four in one slot (R138). -/
def execClassifyEnter (pipe : Fin 2) (s0 : State) : Res :=
  let i := pipe.val
  let mine := s0.cls.input.filter (fun k => pipeOf k.rx.port == i)
  let prio := mine.filter (isPriority s0 i)
  .next (match firstBy entersBefore (if prio = [] then mine else prio) with
    | none => s0
    | some k =>
      let full := decide (4 ≤ (s0.cls.busy.filter (fun b => pipeOf b.pkt.rx.port == i && b.enter == s0.now)).length)
      let s1 := if full then advanceTo s0 (s0.now + 1) else s0
      let s2 := { s1 with cls := { s1.cls with input := s1.cls.input.erase k } }
      let wait := s2.now - k.delivered
      let a := 0x3000000 + 0x100000 * i + 0x020
      let s := if wait = 0 then s2 else clsCnt { s2 with cnt := cntSet s2.cnt a (Nat.max wait (cntGet s2.cnt a)) } i 0x018
      if recovering s (unitLoc (20 + i) 0) then faultCount (clsDiscard s k) 0x50 1
      else if pipeBad s i then clsDiscard (clsCnt (clsCnt s i 0x000) i 0x028) k
      else enterSearch s i k)

/-! ### Hand-on (R139, R149, R159, R215, R231) -/

/-- Metadata bytes 40 to 55 (Table 5-7). -/
def classMd (b : ClsBusy) : Bytes :=
  let r := b.res
  toLE 2 r.orderDomain ++ toLE 2 r.stream ++ toLE 2 r.chain ++ toLE 1 (r.domain % 16 + (b.prio.getD r.prio) % 16 * 16) ++
    toLE 1 (b2n b.express + 2 * b2n b.pkt.decision.isSome + 4 * b2n r.holt + 8 * b2n r.isDefault + 16 * b2n b.yellow) ++ toLE 8 r.user

/-- The claim of a packet is released (R159). -/
def releaseClaim (s : State) (b : ClsBusy) : State :=
  if b.express then cancelClaim (clsCnt s (pipeOf b.pkt.rx.port) 0x040) b.pkt.handle else s

/-- The copy that an action makes, as admitted, under its own reference (R149). -/
def actionCopy (s : State) (b : ClsBusy) : State :=
  let k := b.pkt
  let p := s.plan.of k.epoch
  if b.res.action ≠ 2 ∧ b.res.action ≠ 3 then s
  else
    match hodHold s k.handle (unitReq 25 67) with
    | (some _, s1) => s1
    | (none, s1) =>
      let body := some (memRead s1.mem (bufAddr s1 k.handle + headroom p) k.rx.len)
      let f : QFrame := { bytes := body, handle := k.handle, start := headroom p, len := k.rx.len, epoch := k.epoch, tick := k.tick, domain := b.res.domain
                          ingress := some k.rx.port, rxTime := k.rx.time }
      let rc : RingCopy := { bytes := body, ring := b.res.ring, handle := k.handle, start := f.start, len := f.len, port := k.rx.port, domain := b.res.domain
                             marked := (byteAt k.md 37).testBit 0, rxTime := k.rx.time, stream := b.res.stream, reason := leAt k.md 34 2 / 1024
                             user := b.res.user, epoch := k.epoch }
      if b.res.action = 2 then queueRing s1 rc else mirrorCopy s1 b.res.mirror p f rc

/-- A classified packet that is not dropped: recharge, copy, and its order-restore entry (R215, R231, R233). -/
def handOn (s : State) (b : ClsBusy) : State :=
  let k := b.pkt
  let d := b.res.domain
  let free := fun (x : State) => unitRelease x k.handle (20 + pipeOf k.rx.port) 0
  if rechargeOk s k.handle d = false then free (domPoolCnt (releaseClaim s b) d (hPool k.handle) 0x10)
  else
    let s1 := actionCopy (recharge s k.handle d) b
    if b.res.consume then free (releaseClaim s1 b)
    else
      let md := slice k.md 0 40 ++ classMd b
      match orderEnter s1 { od := b.res.orderDomain, tick := k.tick, source := k.source, handle := k.handle, domain := d, epoch := k.epoch
                            prio := (b.prio.getD b.res.prio) % 16, rxTime := k.rx.time } with
      | (false, s2) => free (releaseClaim s2 b)
      | (true, s2) => { s2 with cls := { s2.cls with handed := s2.cls.handed ++ [{ k with md := md, delivered := s2.now }] } }

/-- The result that is handed on next: pipeline 0 first in a slot, and entry order within a pipeline. -/
def handsBefore (a b : ClsBusy) : Bool :=
  decide (a.enter < b.enter) || (a.enter == b.enter && decide (pipeOf a.pkt.rx.port ≤ pipeOf b.pkt.rx.port))

/-- CLASSIFY_HANDON: 16 slots after its entry a packet is sequenced, dropped, consumed or copied (R139). -/
def execClassifyHandon (s0 : State) : Res :=
  .next (match firstBy handsBefore s0.cls.busy with
    | none => s0
    | some b =>
      let s1 := advanceTo { s0 with cls := { s0.cls with busy := s0.cls.busy.erase b } } (b.enter + 16)
      let k := b.pkt
      let s := if k.fragKey = [] then s1 else fragDecide s1 (pipeOf k.rx.port) k.fragKey b.res
      let free := fun (x : State) => unitRelease x k.handle (20 + pipeOf k.rx.port) 0
      if b.policed then free (domCnt s b.res.domain 0x38)
      else if b.res.action = 0 then free (domCnt (releaseClaim s b) b.res.domain 0x30)
      else handOn s b)

/-! ### Memory errors and commands (R160, R162) -/

/-- Marks in the rule, profile and stream memories. -/
def clsMarks (s : State) : List ErrorMark :=
  s.fault.marks.filter (fun m => decide (m.loc.l6 = 0) && (decide (m.loc.l5 = 20) || decide (m.loc.l5 = 21)) && decide (m.loc.l4 ≤ 2))

/-- CLASSIFY_SCRUB: every word of both copies is visited (R160). -/
def execClassifyScrub (s : State) : Res :=
  .next ((clsMarks s).foldl (fun x m =>
    if m.kind = 1 then record (clearMark x m.loc m.word) 1 0x04 0x0001 (wordLoc m.loc m.word) [] m.injected else clsBadWord x m) s)

/-- CLASSIFY_REWRITE_DONE: the lost words have been rewritten in both copies, and packets are classified again. -/
def execClassifyRewriteDone (s : State) : Res :=
  .next (if s.cls.bad = [] then s
    else { s with
      cls := { s.cls with bad := [] }
      fault := { s.fault with marks := s.fault.marks.filter (fun m => !(s.cls.bad.contains (m.loc.l5, m.loc.l4) && decide (m.loc.l6 = 0))) } })

/-- STREAM_GATE_REOPEN. -/
def execStreamGateReopen (mb : MbId) (gate : BitVec 16) (s : State) : Res :=
  .next (if (sgateOf s.plan.now gate.toNat).isNone then reply s mb.val eNotFound
    else reply (setSGate s gate.toNat { getSGate s gate.toNat with latched := false }) mb.val stOk)

/-- STREAM_FILTER_UNBLOCK. -/
def execStreamFilterUnblock (mb : MbId) (filter : BitVec 16) (s : State) : Res :=
  .next (if (kindEnt s.plan.now 7 2 filter.toNat).isNone then reply s mb.val eNotFound
    else reply { s with cls := { s.cls with blocked := s.cls.blocked.filter (· ≠ filter.toNat) } } mb.val stOk)

/-- METER_CLEAR_RED. -/
def execMeterClearRed (mb : MbId) (meter : BitVec 16) (s : State) : Res :=
  .next (if (meterOf s.plan.now meter.toNat).isNone then reply s mb.val eNotFound
    else reply { s with cls := { s.cls with meters := s.cls.meters.map (fun m =>
      if m.1 = meter.toNat then (m.1, { m.2 with allRed := false }) else m) } } mb.val stOk)

/-- The gauges of a filter's STATE and a meter's STATE (Tables 5-9 and 5-10). -/
def filterState (s : State) (f : Nat) : Nat :=
  b2n (s.cls.blocked.contains f) + 2 * b2n (match kindEnt s.plan.now 7 2 f with
    | some e => (getSGate s (leAt e 6 2)).latched
    | none => false)

/-- Meters whose rates or bursts a commit changes start with full buckets (R155). -/
def metersEpoch (s : State) (old new : PlanCopy) : State :=
  let same := fun (m : Nat) => (meterOf old m).map (fun e => slice e 8 24) == (meterOf new m).map (fun e => slice e 8 24)
  let keep := s.cls.meters.filterMap (fun m =>
    if same m.1 then some m else if m.2.allRed then (meterOf new m.1).map (fun e =>
      (m.1, { m.2 with bc := leAt e 24 4 * 8 * meterUnit, be := leAt e 28 4 * 8 * meterUnit })) else none)
  { s with cls := { s.cls with meters := keep } }

end Sys2Proof.Machine
end

