-- ==== Sys2Proof/Machine/CheckPorts.lean ====
section
/-!
DEFINITION. The format checks of PORTS, TIME and MACSEC (Tables 3-11, 3-13 and 3-15).
-/

namespace Sys2Proof.Machine

/-- Whether a signed field lies in `[-m, m]`. -/
def within (n v m : Nat) : Bool := decide ((signedOf n v).natAbs ≤ m)

/-- Enabled ports and their lane ranges. -/
def enabledPorts (p : PlanCopy) : List Nat := (List.range 64).filter (fun n => portEnabled p n)

/-- Lanes of port `n` as a range `[n, n + lanes)`. -/
def laneRange (p : PlanCopy) (n : Nat) : List Nat := (List.range (portLanes p n)).map (fun k => n + k)

/-- The distinct PLL rates of the enabled ports of an octet up to and with port `n` (R76). -/
def octetRates (p : PlanCopy) (n : Nat) : List Nat :=
  ((enabledPorts p).filter (fun m => decide (m / 8 = n / 8) && decide (m ≤ n))).foldl
    (fun acc m => let r := pllRate (portModeOf p m).rate; if acc.contains r then acc else acc ++ [r]) []

/-- Whether a PORTS entry has a field out of range (0x0107). -/
def portFieldBad (p : PlanCopy) (e : Bytes) (n : Nat) : Bool :=
  let mf := leAt e 10 2
  decide (mf < 1518) || decide (10240 < mf) || decide (3 < byteAt e 5) || decide (byteAt e 6 < 1) || decide (128 < byteAt e 6) ||
    decide (15 < byteAt e 7) || !within 32 (leAt e 12 4) 100000 || !within 32 (leAt e 16 4) 100000 ||
    decide (2 ^ portLanes p n ≤ byteAt e 8) || decide (2 ^ portLanes p n ≤ byteAt e 9)

/-- The checks of one PORTS entry, lowest code first. LANE_ALIGN, LANE_OVERLAP and OCTET_RATES judge enabled ports
alone; mode 1 has auto-negotiation without training (Table 3-1). -/
def checkPort (p : PlanCopy) (i : Nat) : Option CheckFail :=
  let e := portEnt p i
  let en := portEnabled p i
  let m := portMode (byteAt e 1)
  let hasAn := (m.map (fun r => r.an)).getD false
  firstFail [
    failAt 1 1 i (decide (byteAt e 0 ≠ i)),
    failAt 1 2 i (!(match m with | some r => r.fec.contains (byteAt e 2) | none => false)),
    failAt 1 3 i (en && (decide (i % portLanes p i ≠ 0))),
    failAt 1 4 i (en && ((enabledPorts p).any (fun n => decide (n < i) && decide (i < n + portLanes p n)))),
    failAt 1 5 i (en && decide (2 < (octetRates p i).length)),
    failAt 1 6 i (((byteAt e 3).testBit 1 && !hasAn) || ((byteAt e 3).testBit 2 && !(hasAn && byteAt e 1 != 1))),
    failAt 1 7 i (portFieldBad p e i),
    failAt 1 8 i (decide (32 ≤ byteAt e 3) || !allZero (slice e 20 44))]

/-- PORTS (Table 3-11). -/
def checkPorts (p : PlanCopy) : Option CheckFail :=
  let n := (p.sec 1).count 1
  firstFail ((if n ≠ 64 then failAt 1 1 (Nat.min n 64) true else none) :: (List.range 64).map (checkPort p))

/-- Whether a TIME field is out of its range (0x0204). -/
def timeFieldBad (e : Bytes) : Bool :=
  let w := leAt e 4 4
  decide (w < 1) || decide (500000 < w) || !within 32 (leAt e 8 4) 100000 || !within 32 (leAt e 12 4) 100000 ||
    decide (1000000 < leAt e 24 4) || decide (leAt e 28 4 < 1) || decide (1000 < leAt e 28 4) ||
    decide (signedOf 8 (byteAt e 32) < -7) || decide (4 < signedOf 8 (byteAt e 32)) ||
    decide (signedOf 8 (byteAt e 33) < -3) || decide (4 < signedOf 8 (byteAt e 33)) ||
    decide (signedOf 8 (byteAt e 34) < -7) || decide (5 < signedOf 8 (byteAt e 34))

/-- TIME (Table 3-13). -/
def checkTime (p : PlanCopy) : Option CheckFail :=
  let e := timeEnt p
  firstFail [
    failAll 2 1 (decide ((p.sec 2).count 2 ≠ 1)),
    failAt 2 2 0 (decide (2 < byteAt e 0) || decide (3 < byteAt e 1) || (decide (byteAt e 1 ≠ 0) && decide (byteAt e 0 ≠ 1))),
    failAt 2 3 0 ((decide (leAt e 16 8 ≠ 0) && decide (byteAt e 0 ≠ 1)) ||
      (List.range 64).any (fun n => (leAt e 16 8).testBit n && !portEnabled p n)),
    failAt 2 4 0 (timeFieldBad e),
    failAt 2 5 0 (decide (16 ≤ byteAt e 3) || !allZero (slice e 38 2) || !allZero (slice e 48 16))]

/-- Whether a SecY's fields are invalid (0x1603). -/
def secyBad (e : Bytes) : Bool :=
  decide (byteAt e 2 < 1) || decide (2 < byteAt e 2) || decide (2 < byteAt e 4) ||
    (secyXpn e && decide (0x40000000 < leAt e 16 4)) || decide (pnMax (secyXpn e) < leAt e 20 8)

/-- The checks of one MACSEC entry. -/
def checkMacsecEntry (p : PlanCopy) (i : Nat) : Option CheckFail :=
  let x := p.sec 0x16
  let e := x.entry 0x16 i
  let k := byteAt e 0
  let earlier := (x.entries 0x16).filter (fun f => decide (f.1 < i))
  let scs := earlier.filter (fun f => byteAt f.2 0 == 2)
  firstFail [
    failAt 0x16 1 i (decide (k ≠ 1) && decide (k ≠ 2)),
    failAt 0x16 2 i (k == 1 && earlier.any (fun f => byteAt f.2 0 == 1 && byteAt f.2 1 == byteAt e 1)),
    failAt 0x16 3 i (k == 1 && secyBad e),
    failAt 0x16 4 i (k == 2 && ((secyOf p (byteAt e 1)).isNone || decide (1024 ≤ scs.length) ||
      decide (64 ≤ (scs.filter (fun f => byteAt f.2 1 == byteAt e 1)).length))),
    failAt 0x16 5 i (k == 2 && scs.any (fun f => byteAt f.2 1 == byteAt e 1 && leAt f.2 8 8 == leAt e 8 8)),
    failAt 0x16 6 i (!allZero (slice e 5 3) || !allZero (slice e 28 36) || (k == 1 && decide (32 ≤ byteAt e 3)) ||
      (k == 2 && (!allZero (slice e 2 3) || !allZero (slice e 16 12))))]

/-- MACSEC (Table 3-15). An entry that a CLEAR left all zero is no entry (Table 2-3). -/
def checkMacsec (p : PlanCopy) : Option CheckFail :=
  firstFail (((p.sec 0x16).used 0x16).map (checkMacsecEntry p))

end Sys2Proof.Machine
end

