-- ==== Sys2Proof/Machine/CheckClass.lean ====
section
/-!
DEFINITION. The format checks of RULES_RANGE, RULES_HOLT and STREAMS (Tables 5-13, 5-15 and 5-18), and the latency of an
express stream (R32, Table 1-10).
-/

namespace Sys2Proof.Machine

/-! ### Profiles and results -/

/-- Whether a SRC code with its DISP and width breaks Table 5-2. -/
def srcBad (src disp width : Nat) : Bool :=
  (decide (8 < src) && src != 15) || (src == 8 && decide (40 < disp + width))

/-- Whether a range field of a profile is invalid. -/
def fieldBad (f : Bytes) : Bool :=
  let w := if (byteAt f 1).testBit 0 then 4 else 2
  srcBad (byteAt f 0) (leAt f 2 2) w || decide (256 ^ w ≤ leAt f 4 4)

/-- Whether a profile's segments are invalid. -/
def segsBad (b : Bytes) : Bool := (List.range 4).any (fun j => srcBad (byteAt b (64 + 4 * j)) (leAt b (66 + 4 * j) 2) 8)

/-- Whether a profile is invalid (0x0503). -/
def profileBad (b : Bytes) : Bool := (List.range 8).any (fun k => fieldBad (slice b (8 * k) 8)) || segsBad b

/-- Whether a reserved field of a profile is not zero. -/
def profileReserved (b : Bytes) : Bool :=
  (List.range 8).any (fun k => decide (2 ≤ byteAt b (8 * k + 1))) || (List.range 4).any (fun j => byteAt b (65 + 4 * j) != 0) ||
    !allZero (slice b 80 16)

/-- Number of entries of a kind in a section. -/
def kindCount (p : PlanCopy) (t k : Nat) : Nat := ((p.sec t).kind t k).length

/-- Whether a result is invalid (0x0505). -/
def resultBad (p : PlanCopy) (b : Bytes) : Bool :=
  let r := resultOf b
  decide (3 < r.action) || decide (8 ≤ byteAt b 1) || (decide (7 < r.ring) && r.ring != 15) ||
    (r.meterEn && decide (kindCount p 7 5 ≤ r.meter)) || (r.streamEn && decide (kindCount p 7 1 ≤ r.stream)) ||
    (r.action == 3 && (mirrorOf p r.mirror).isNone)

/-- Whether a result's packet runs its chain (0x0506, R231). -/
def runsChain (r : RuleResult) : Bool := !r.consume && r.action != 0

/-- Whether a result's CHAIN is invalid (0x0506). -/
def chainBad (p : PlanCopy) (b : Bytes) : Bool :=
  let r := resultOf b
  if runsChain r then (chainEntry p r.chain).isNone else decide (r.chain ≠ 0)

/-- Whether a reserved byte of a result is not zero. -/
def resultReserved (b : Bytes) : Bool := !allZero (slice b 14 2) || !allZero (slice b 24 8)

/-! ### Preambles -/

/-- PIPE_MASK of a rules section; 0 when it is absent. -/
def pipeMask (p : PlanCopy) (t : Nat) : Nat := (p.sec t).byte 0

/-- PIPE_MASK (0x0502, 0x0602) of section `t` against the other rules section `u`. -/
def pipeMaskBad (p : PlanCopy) (t u : Nat) : Bool :=
  pipeMask p t % 4 == 0 || decide ((pipeMask p t % 4) &&& (pipeMask p u % 4) ≠ 0) ||
    (enabledPorts p).any (fun n => !((pipeMask p t) ||| (pipeMask p u)).testBit (n / 32))

/-- The DEFAULT_RESULT of a pipeline in section `t`. -/
def sectionDefault (p : PlanCopy) (t pipe : Nat) : Bytes := memBytes (p.sec t).mem (64 + 32 * pipe) 32

/-- The pipelines in PIPE_MASK. -/
def pipesOf (p : PlanCopy) (t : Nat) : List Nat := (List.range 2).filter (fun k => (pipeMask p t).testBit k)

/-- The first profile among `used` (pipeline, profile) that `bad` holds of, as DETAIL gives it. -/
def badProfile (p : PlanCopy) (t : Nat) (bad : Bytes → Bool) (used : List (Nat × Nat)) : Option Nat :=
  (used.find? (fun u => bad (profileOf p t u.1 u.2))).map (fun u => u.1 + 256 * u.2)

/-- Reserved fields of a rules preamble up to byte 3,199. -/
def rulesPreReserved (p : PlanCopy) (t : Nat) : Bool :=
  decide (4 ≤ pipeMask p t) || !(p.sec t).zeroIn 1 1 || !(p.sec t).zeroIn 6 58 ||
    (List.range 2).any (fun k => resultReserved (sectionDefault p t k) ||
      (List.range 16).any (fun j => profileReserved (profileOf p t k j)))

/-- The whole-section results check of one kind (0x0505, 0x0506 and their Holt forms). -/
def defaultsBad (p : PlanCopy) (t : Nat) (bad : PlanCopy → Bytes → Bool) : Option Nat :=
  (pipesOf p t).find? (fun k => bad p (sectionDefault p t k))

/-! ### RULES_RANGE -/

/-- Whether a rule's ranges break RANGE (0x0504). -/
def rangesBad (prof rule : Bytes) : Bool :=
  (List.range 8).any (fun k =>
    let lo := leAt rule (16 + 8 * k) 4
    let hi := leAt rule (20 + 8 * k) 4
    let mask := leAt prof (8 * k + 4) 4
    decide (hi < lo) || decide (mask < lo) || decide (mask < hi))

/-- The checks of a RULES_RANGE entry. -/
def checkRule (p : PlanCopy) (i : Nat) (e : Bytes) : Option CheckFail :=
  let pipe := i / rulesPerPipe
  let valid := (byteAt e 0).testBit 0
  let r := slice e 144 32
  firstFail [
    failAt 5 4 i (valid && rangesBad (profileOf p 5 pipe (byteAt e 1 % 16)) e),
    failAt 5 5 i (valid && resultBad p r),
    failAt 5 6 i (valid && chainBad p r),
    failAt 5 7 i (valid && !(pipeMask p 5).testBit pipe),
    failAt 5 8 i (decide (2 ≤ byteAt e 0) || decide (16 ≤ byteAt e 1) || !allZero (slice e 4 12) || resultReserved r ||
      !allZero (slice e 176 16))]

/-- RULES_RANGE (Table 5-13). -/
def checkRules (p : PlanCopy) : Option CheckFail :=
  let x := p.sec 5
  let es := x.entries 5
  let used := ((es.filter (fun e => (byteAt e.2 0).testBit 0)).map (fun e => (e.1 / rulesPerPipe, byteAt e.2 1 % 16))).eraseDups
  let prof := badProfile p 5 profileBad used
  let res := defaultsBad p 5 resultBad
  let chn := defaultsBad p 5 chainBad
  firstFail ([
    failAll 5 1 (decide (x.count 5 ≠ 49152)),
    failAll 5 2 (pipeMaskBad p 5 6),
    failAll 5 3 prof.isSome (prof.getD 0),
    failAll 5 5 res.isSome (res.getD 0),
    failAll 5 6 chn.isSome (chn.getD 0),
    failAll 5 8 (rulesPreReserved p 5)] ++ es.map (fun e => checkRule p e.1 e.2))

/-! ### RULES_HOLT -/

/-- Whether a table of a pipeline is ENABLED. -/
def holtEnabled (p : PlanCopy) (pipe t : Nat) : Bool := decide (t < 8) && (byteAt (holtTable p pipe t) 2).testBit 0

/-- Whether a step from table `t` to `next` moves forward. -/
def holtForward (t next : Nat) : Bool := next == 0xFF || (decide (t < next) && decide (next ≤ 7))

/-- The checks of a RULES_HOLT entry. -/
def checkHoltEntry (p : PlanCopy) (i : Nat) (e : Bytes) : Option CheckFail :=
  let pipe := i / rulesPerPipe
  let valid := (byteAt e 0).testBit 0
  let res := valid && (byteAt e 0).testBit 1
  let r := slice e 104 32
  firstFail [
    failAt 6 3 i (valid && (!holtEnabled p pipe (byteAt e 1) || !holtForward (byteAt e 1) (byteAt e 4))),
    failAt 6 5 i (res && resultBad p r),
    failAt 6 6 i (res && chainBad p r),
    failAt 6 7 i (decide (4 ≤ byteAt e 0) || !allZero (slice e 5 3) || resultReserved r || !allZero (slice e 136 24))]

/-- Whether the descriptors of a pipeline's tables break TABLE (0x0603). -/
def holtTablesBad (p : PlanCopy) (pipe : Nat) : Bool :=
  (List.range 8).any (fun t => holtEnabled p pipe t && !holtForward t (byteAt (holtTable p pipe t) 1)) ||
    ((pipeMask p 6).testBit pipe && !holtEnabled p pipe 0)

/-- RULES_HOLT (Table 5-15). -/
def checkHolt (p : PlanCopy) : Option CheckFail :=
  let x := p.sec 6
  let used := (pipesOf p 6).flatMap (fun k => ((List.range 8).filter (holtEnabled p k)).map (fun t => (k, byteAt (holtTable p k t) 0)))
  let prof := (used.find? (fun u => decide (15 < u.2) || segsBad (profileOf p 6 u.1 u.2))).map (fun u => u.1 + 256 * u.2)
  let res := defaultsBad p 6 resultBad
  let chn := defaultsBad p 6 chainBad
  firstFail ([
    failAll 6 1 (decide (x.count 6 ≠ 49152)),
    failAll 6 2 (pipeMaskBad p 6 5),
    failAll 6 3 (holtTablesBad p 0 || holtTablesBad p 1),
    failAll 6 4 prof.isSome (prof.getD 0),
    failAll 6 5 res.isSome (res.getD 0),
    failAll 6 6 chn.isSome (chn.getD 0),
    failAll 6 7 (rulesPreReserved p 6 || !x.zeroIn 3840 64 || (List.range 2).any (fun k => (List.range 8).any (fun t =>
      decide (2 ≤ byteAt (holtTable p k t) 2) || !allZero (slice (holtTable p k t) 3 5))))] ++
    (x.entries 6).map (fun e => checkHoltEntry p e.1 e.2))

/-! ### Express latency (R32, Table 1-10) -/

/-- A thread's device time and floor in picoseconds for its program's words: SLOT_COUNT positions of 32 / weight slots
each, and WORDS of 625 ps. -/
def coatTimes (p : PlanCopy) (t : Nat) : Nat × Nat :=
  match bindingOf p t with
  | some b =>
    match progEntry p b.program with
    | some r => (ceilDiv (leAt r 36 4 * 32 * 625) (Nat.max 1 (positionsOf p t).length), leAt r 32 4 * 625)
    | none => (0, 0)
  | none => (0, 0)

/-- The largest value of `f` over the threads of a coat. -/
def coatMax (p : PlanCopy) (c : CoatRec) (f : Nat × Nat → Int) : Int × (Nat × Nat) :=
  ((c.pools.flatMap (poolTids p)).map (coatTimes p)).foldl (fun acc x => if acc.1 < f x then (f x, x) else acc) ((-(10 ^ 18) : Int), (0, 0))

/-- The sum over a chain's coats of the thread that `f` makes the worst. -/
def chainTimes (p : PlanCopy) (chain : Nat) (f : Nat × Nat → Int) : Nat × Nat :=
  (chainCoats p chain).foldl (fun acc c => let x := (coatMax p c f).2; (acc.1 + x.1, acc.2 + x.2)) (0, 0)

/-- Receive serialization and the receive and transmit latencies of an express stream, in ps. -/
def expressEnds (p : PlanCopy) (e : Bytes) : Nat × Nat × Nat :=
  let inp := byteAt e 60
  let out := byteAt e 56
  (ceilDiv (Config.expressFrame e * 8000) (Nat.max 1 (portModeOf p inp).mac), (portLatOf p inp).1 * 1000, (portLatOf p out).2 * 1000)

/-- The slots between the PMA/PCS latencies that are not coat words: bridges 20, parse 6 + 2 h, classification 16,
dispatch 20, hand-offs 12 each, order restore 8, egress admission 10. -/
def expressFixed (p : PlanCopy) (e : Bytes) : Nat :=
  20 + (6 + 2 * Config.expressHops e) + 16 + 20 + 12 * ((chainCoats p (leAt e 14 2)).length - 1) + 8 + 10

/-- Device latency and floor of an express stream in ps, for the threads whose ratio is worst. -/
def expressLatency (p : PlanCopy) (e : Bytes) : Nat × Nat :=
  let (ser, rx, tx) := expressEnds p e
  let c := chainTimes p (leAt e 14 2) (fun x => 10 * (x.1 : Int) - 14 * (x.2 : Int))
  (ser + rx + tx + c.1 + expressFixed p e * 625, ser + rx + tx + c.2)

/-- The time from a frame's first bit until it is ready for egress admission, in ps (chapter 5's example). -/
def expressReady (p : PlanCopy) (e : Bytes) : Nat :=
  let (ser, rx, _) := expressEnds p e
  ser + rx + (chainTimes p (leAt e 14 2) (fun x => x.1)).1 + (expressFixed p e - 10) * 625

/-! ### STREAMS -/

/-- Whether a handle has a non-wildcard filter with a gate. -/
def expressFiltered (p : PlanCopy) (h : Nat) : Bool :=
  (filtersOf p).any (fun f => !(byteAt f.2 1).testBit 0 && leAt f.2 4 2 == h && leAt f.2 6 2 != 0xFFFF)

/-- Whether an EXPRESS entry breaks EXPRESS (0x0706). -/
def expressBad (p : PlanCopy) (h : Nat) (e : Bytes) : Bool :=
  let out := byteAt e 56
  !expressFiltered p h || !portEnabled p (byteAt e 60) || !portEnabled p out ||
    (match gateListOf p out with
     | some g => decide (g.ops.length ≤ leAt e 58 2)
     | none => true) ||
    decide (leAt e 61 3 * 1000 < expressReady p e)

/-- Reserved fields of a STREAMS entry. -/
def streamReserved (e : Bytes) : Bool :=
  match byteAt e 0 with
  | 1 => decide (4 ≤ byteAt e 2) || decide (32 ≤ byteAt e 17) || decide (16 ≤ byteAt e 57)
  | 2 => decide (8 ≤ byteAt e 1) || byteAt e 3 != 0 || !allZero (slice e 12 52)
  | 3 => decide (4 ≤ byteAt e 1) || !allZero (slice e 2 2) || !allZero (slice e 22 42)
  | 4 => !allZero (slice e 1 7) || (List.range 7).any (fun k => bits (byteAt e (8 + 8 * k)) 3 1 != 0)
  | 5 => decide (16 ≤ byteAt e 1) || !allZero (slice e 2 6) || !allZero (slice e 32 32)
  | _ => false

/-- The checks of a STREAMS entry, `h` its handle when it is an IDENT entry. -/
def checkStreamEntry (p : PlanCopy) (i : Nat) (e : Bytes) : Option CheckFail :=
  let k := byteAt e 0
  let h := (identsOf p).length - (((p.sec 7).kind 7 1).filter (fun x => decide (i ≤ x.1))).length
  let ops := sgateOps p e
  let maxRate := 400000000000
  firstFail [
    failAt 7 1 i (decide (k < 1) || decide (5 < k) || (k == 1 && (decide (byteAt e 1 < 1) || decide (3 < byteAt e 1)))),
    failAt 7 4 i ((k == 2 && ((!(byteAt e 1).testBit 0 && decide (kindCount p 7 1 ≤ leAt e 4 2)) ||
        (leAt e 6 2 != 0xFFFF && decide (kindCount p 7 3 ≤ leAt e 6 2)) ||
        (leAt e 8 2 != 0xFFFF && decide (kindCount p 7 5 ≤ leAt e 8 2)))) ||
      (k == 3 && decide (7 * kindCount p 7 4 < leAt e 4 2 + leAt e 6 2))),
    failAt 7 5 i (k == 3 && (ops.any (fun o => leAt o 4 4 == 0) || (ops.map (fun o => leAt o 4 4)).sum != sgateCycle e)),
    failAt 7 6 i (k == 1 && (byteAt e 2).testBit 0 && expressBad p h e),
    failAt 7 7 i (k == 5 && ((leAt e 8 8 != 0 && decide (leAt e 24 4 < 10240)) || (leAt e 16 8 != 0 && decide (leAt e 28 4 < 10240)) ||
      decide (maxRate < leAt e 8 8) || decide (maxRate < leAt e 16 8))),
    failAt 7 8 i (streamReserved e)]

/-- STREAMS (Table 5-18). -/
def checkStreams (p : PlanCopy) : Option CheckFail :=
  let x := p.sec 7
  let es := x.entries 7
  let n := kindCount p 7
  firstFail ([
    failAll 7 2 (decide (16384 < n 1) || decide (4096 < n 2) || decide (1024 < n 3) || decide (2341 < n 4) || decide (8192 < n 5) ||
      decide (4096 < ((identsOf p).filter (fun e => (byteAt e.2 2).testBit 0)).length) ||
      (x.kind 7 3).any (fun e => decide (16384 < leAt e.2 4 2 + leAt e.2 6 2))),
    failAll 7 3 ((List.range 4).any (fun k => decide (7 < streamSlot p k))),
    failAll 7 8 (!x.zeroIn 8 56)] ++ es.map (fun e => checkStreamEntry p e.1 e.2))

end Sys2Proof.Machine
end

