-- ==== Sys2Proof/Machine/Flags.lean ====
section
/-!
DEFINITION. The functions of the ALU with their flags (Table 11-7, R336, R364) and the conditions of branches
(Table 11-8).
-/

namespace Sys2Proof.Machine

/-- Z, N, C and V. -/
structure Fl where
  z : Bool
  n : Bool
  c : Bool
  v : Bool
  deriving DecidableEq, Repr, Inhabited

/-- Z and N of a 64-bit result with the C and V given. -/
def flOf (r : BitVec 64) (c v : Bool) : Fl := { z := r == 0, n := r.msb, c := c, v := v }

/-- ADD and ADC: the sum with its carry in, carry out of bit 63 and signed overflow. -/
def addFl (a s : BitVec 64) (c : Bool) : BitVec 64 × Fl :=
  let k := if c then 1 else 0
  let r := a + s + BitVec.ofNat 64 k
  (r, flOf r (decide (2 ^ 64 ≤ a.toNat + s.toNat + k)) (a.msb == s.msb && r.msb != a.msb))

/-- SUB, SBC and CMP: the difference less a borrow; C is 1 when no borrow occurs. -/
def subFl (a s : BitVec 64) (borrow : Bool) : BitVec 64 × Fl :=
  let k := if borrow then 1 else 0
  let r := a - s - BitVec.ofNat 64 k
  (r, flOf r (decide (s.toNat + k ≤ a.toNat)) (a.msb != s.msb && r.msb != a.msb))

/-- A shift left: C is the last bit shifted out. -/
def shlFl (a : BitVec 64) (n : Nat) : BitVec 64 × Fl :=
  let r := a <<< n
  (r, flOf r (decide (n ≠ 0) && a.getLsbD (64 - n)) false)
/-- A shift right, logical or arithmetic. -/
def shrFl (a : BitVec 64) (n : Nat) (arith : Bool) : BitVec 64 × Fl :=
  let r := if arith then a.sshiftRight n else a >>> n
  (r, flOf r (decide (n ≠ 0) && a.getLsbD (n - 1)) false)
/-- ROL: C is the new bit 0. -/
def rolFl (a : BitVec 64) (n : Nat) : BitVec 64 × Fl :=
  let r := a.rotateLeft n
  (r, flOf r (r.getLsbD 0) false)

/-- The low `n` bytes reversed and zero-extended. -/
def bswapV (a : BitVec 64) (n : Nat) : BitVec 64 :=
  BitVec.ofNat 64 (((List.range n).map (fun i => a.toNat / 256 ^ i % 256 * 256 ^ (n - 1 - i))).sum)

/-- An ALU function by its number in Table 11-7: the result, none for CMP and TST, and the flags, none where it writes
no flags. -/
def aluRun (fn : Nat) (a s : BitVec 64) (c : Bool) : Option (BitVec 64) × Option Fl :=
  let k := s.toNat % 64
  let wr (x : BitVec 64 × Fl) : Option (BitVec 64) × Option Fl := (some x.1, some x.2)
  let lg (r : BitVec 64) : Option (BitVec 64) × Option Fl := (some r, some (flOf r false false))
  match fn with
  | 0 => wr (addFl a s false)
  | 1 => wr (addFl a s c)
  | 2 => wr (subFl a s false)
  | 3 => wr (subFl a s (!c))
  | 4 => lg (a &&& s)
  | 5 => lg (a ||| s)
  | 6 => lg (a ^^^ s)
  | 7 => lg (a &&& ~~~s)
  | 8 => (some s, none)
  | 9 => (none, some (subFl a s false).2)
  | 10 => (none, some (flOf (a &&& s) false false))
  | 11 => wr (shlFl a k)
  | 12 => wr (shrFl a k false)
  | 13 => wr (shrFl a k true)
  | 14 => wr (rolFl a k)
  | 15 => (some (bswapV a s.toNat), none)
  | _ => (none, none)

/-- MUL: the low 64 bits of the product. -/
def mulFl (a s : BitVec 64) : BitVec 64 × Fl := (a * s, flOf (a * s) false false)

/-- Whether a branch condition holds (Table 11-8), for flags and F.E. -/
def condHolds (cond : Nat) (f : Fl) (e : Bool) : Bool :=
  match cond with
  | 0 => true
  | 1 => f.z
  | 2 => !f.z
  | 3 => f.c
  | 4 => !f.c
  | 5 => f.n
  | 6 => !f.n
  | 7 => f.v
  | 8 => f.c && !f.z
  | 9 => !f.c || f.z
  | 10 => f.n == f.v
  | 11 => f.n != f.v
  | 12 => !f.z && f.n == f.v
  | 13 => f.z || f.n != f.v
  | 14 => e
  | _ => !e

end Sys2Proof.Machine
end

