-- ==== Sys2Proof/Machine/Skim.lean ====
section
/-!
DEFINITION. Skim words (R331 to R348): their layouts and the causes of ILLEGAL that a word carries in itself
(Table 11-11).
-/

namespace Sys2Proof.Machine

/-- A half operation of a paired word (Table 11-2). -/
inductive Half where
  | nop
  /-- A window load of `n` bytes. -/
  | load (n reg disp : Nat)
  | store (n reg disp : Nat)
  /-- An ALU function by its number in Table 11-7, with IMM7 or a source register. -/
  | alu (fn dst : Nat) (imm : Option Nat) (src : Nat)
  deriving DecidableEq, Repr

/-- A Skim word (Tables 11-1, 11-6, 11-9 and 11-10). -/
inductive SkWord where
  | paired (a b : Half)
  | nop
  | alu (fn dst sk src imm : Nat)
  | insh (dst imm : Nat)
  | ld (reg size am : Nat) (be sx z0 : Bool) (disp : Nat)
  | st (reg size am : Nat) (be z0 : Bool) (disp : Nat)
  | tas (reg am : Nat) (z0 : Bool) (disp : Nat)
  | loop (csrc len imm : Nat)
  | setlc (imm : Nat)
  | br (cond : Nat) (disp : Int)
  | bal (disp : Int)
  | jr (reg : Nat)
  | mode (render : Bool)
  | fence
  | trap
  | retx
  | mfs (reg n : Nat)
  | mts (reg n : Nat)
  | fmov (dir : Bool) (reg : Nat)
  | thr (sub opd1 opd2 : Nat) (h : Bool)
  | sr (sub reg num : Nat)
  | lookup (opd1 opd2 : Nat)
  | learn (opd1 : Nat)
  | buf (sub reg opd2 : Nat)
  | epost (direct last : Bool) (opd1 opd2 : Nat)
  | tcmd (opd1 opd2 : Nat)
  | lock (sub reg opd2 : Nat)
  | cop (unit func args : Nat)
  | cmov (unit : Nat) (dir : Bool) (reg creg : Nat)
  | cstate (unit : Nat) (restore : Bool) (opd1 : Nat)
  deriving DecidableEq, Repr

/-- The function of a half ALU operation (Table 11-2). -/
def halfFn (hop : Nat) : Option Nat :=
  match hop with
  | 0x09 => some 0 | 0x0A => some 2 | 0x0B => some 4 | 0x0C => some 5 | 0x0D => some 6 | 0x0E => some 8 | 0x0F => some 9
  | 0x10 => some 10 | 0x11 => some 11 | 0x12 => some 12 | 0x13 => some 13
  | _ => none

/-- A half of 15 bits: none when it raises ILLEGAL (R333). -/
def decodeHalf (h : Nat) : Option Half :=
  let hop := bits h 14 10
  let r := bits h 9 8
  if hop = 0 then (if h = 0 then some .nop else none)
  else if hop ≤ 8 then
    (if r = 3 then none
    else if hop ≤ 4 then some (.load (2 ^ (hop - 1)) r (bits h 7 0)) else some (.store (2 ^ (hop - 5)) r (bits h 7 0)))
  else
    match halfFn hop with
    | none => none
    | some fn =>
      if r = 3 then none
      else if h.testBit 7 then some (.alu fn r (some (bits h 6 0)) 0)
      else if bits h 6 5 = 3 ∨ bits h 4 0 ≠ 0 then none
      else some (.alu fn r none (bits h 6 5))

/-- Whether a half stores. -/
def Half.isStore : Half → Bool
  | .store _ _ _ => true
  | _ => false

/-- FUNC of a COP word: none when its table does not list it, else the mask of ARGS bits it names, all of them for a
range function (R381). -/
def copArgs (unit func : Nat) : Option Nat :=
  if unit = 0 then
    (if func = 0x01 ∨ (0x10 ≤ func ∧ func ≤ 0x13) ∨ func = 0x30 ∨ func = 0x31 then some 0xFFFF
    else if func = 0x03 then some 1
    else if func = 0x02 ∨ func = 0x20 then some 0 else none)
  else if func = 0x02 ∨ func = 0x12 ∨ func = 0x21 then some 0xFFFF
  else if func = 0x01 ∨ func = 0x03 ∨ func = 0x04 ∨ func = 0x11 ∨ func = 0x13 ∨ func = 0x14 ∨ func = 0x20 then some 0
  else none

/-- A single word's fields when its unnamed bits are zero and its codes are not reserved (R335 to R339, R345, R381,
R395). -/
def decodeSingle (w : Nat) : Option SkWord :=
  let zero (hi lo : Nat) : Bool := bits w hi lo == 0
  let when_ (c : Bool) (x : SkWord) : Option SkWord := if c then some x else none
  let r2 := bits w 24 23
  let sub := bits w 24 21
  let o1 := bits w 20 11
  let o2 := bits w 10 1
  let rl := bits w 20 19
  match bits w 30 25 with
  | 0x00 => when_ (w == 0) .nop
  | 0x01 =>
    let fn := sub
    let sk := bits w 18 17
    let imm := bits w 15 0
    let okSrc := zero 16 16 && (decide (sk ≠ 0) || zero 13 0)
    let okSwap := decide (fn ≠ 15) || (sk == 1 && (imm == 2 || imm == 4 || imm == 8))
    when_ (okSrc && okSwap) (.alu fn rl sk (bits w 15 14) imm)
  | 0x02 => when_ (zero 24 21 && zero 18 16) (.insh rl (bits w 15 0))
  | 0x03 => when_ (r2 != 3) (.ld r2 (bits w 22 21) rl (w.testBit 18) (w.testBit 17) (w.testBit 16) (bits w 15 0))
  | 0x04 => when_ (r2 != 3 && zero 17 17) (.st r2 (bits w 22 21) rl (w.testBit 18) (w.testBit 16) (bits w 15 0))
  | 0x05 => when_ (r2 != 3 && zero 22 21 && zero 18 17) (.tas r2 rl (w.testBit 16) (bits w 15 0))
  | 0x06 => when_ (bits w 22 16 != 0) (.loop r2 (bits w 22 16) (bits w 15 0))
  | 0x07 => when_ (zero 24 16) (.setlc (bits w 15 0))
  | 0x08 => some (.br sub (signedOf 21 (bits w 20 0)))
  | 0x09 => when_ (sub == 0) (.bal (signedOf 21 (bits w 20 0)))
  | 0x0A => when_ (r2 != 3 && zero 22 0) (.jr r2)
  | 0x0B => when_ (zero 23 0) (.mode (w.testBit 24))
  | 0x0C => when_ (zero 24 0) .fence
  | 0x0D => when_ (zero 24 0) .trap
  | 0x0E => when_ (zero 24 0) .retx
  | 0x0F => when_ (r2 != 3 && zero 22 21 && zero 15 0 && decide (bits w 20 16 ≤ 11)) (.mfs r2 (bits w 20 16))
  | 0x10 => when_ (r2 != 3 && zero 22 21 && zero 15 0 && decide (bits w 20 16 ≤ 11)) (.mts r2 (bits w 20 16))
  | 0x11 => when_ (rl != 3 && zero 23 21 && zero 18 0) (.fmov (w.testBit 24) rl)
  | 0x12 => when_ (decide (sub ≤ 9) && (sub != 6 || decide (o1 % 8 ≤ 4))) (.thr sub o1 o2 (w.testBit 0))
  | 0x13 => when_ (decide (sub ≤ 3) && rl != 3 && zero 18 6) (.sr sub rl (bits w 5 0))
  | 0x14 => some (.lookup o1 o2)
  | 0x15 => some (.learn o1)
  | 0x16 => when_ (decide (sub ≤ 2) && rl != 3) (.buf sub rl o2)
  | 0x17 => some (.epost (w.testBit 22) (w.testBit 21) o1 o2)
  | 0x18 => some (.tcmd o1 o2)
  | 0x19 => when_ (decide (sub ≤ 3) && rl != 3 && zero 18 11 && zero 0 0) (.lock sub rl o2)
  | 0x1A =>
    let unit := bits w 24 24
    match copArgs unit (bits w 23 16) with
    | some m => when_ (bits w 15 0 &&& m == bits w 15 0) (.cop unit (bits w 23 16) (bits w 15 0))
    | none => none
  | 0x1B =>
    let unit := bits w 24 24
    let c := bits w 20 17
    when_ (bits w 22 21 != 3 && zero 16 0 && (unit == 1 || decide (c ≤ 7))) (.cmov unit (w.testBit 23) (bits w 22 21) c)
  | 0x1C => when_ (zero 22 21 && zero 10 0) (.cstate (bits w 24 24) (w.testBit 23) o1)
  | _ => none

/-- A Skim word: none when it raises ILLEGAL whatever the run-time state. -/
def decodeSkim (w : Nat) : Option SkWord :=
  if w.testBit 31 then
    if w.testBit 15 then none
    else
      match decodeHalf (bits w 30 16), decodeHalf (bits w 14 0) with
      | some a, some b => if a.isStore && b.isStore then none else some (.paired a b)
      | _, _ => none
  else decodeSingle w

/-- The control words (R342). -/
def SkWord.isControl : SkWord → Bool
  | .br _ _ => true
  | .bal _ => true
  | .jr _ => true
  | .loop _ _ _ => true
  | .mode _ => true
  | .retx => true
  | .trap => true
  | .thr 0 _ _ _ => true
  | _ => false
/-- The branches, which have a delay slot (R340). -/
def SkWord.isBranch : SkWord → Bool
  | .br _ _ => true
  | .bal _ => true
  | .jr _ => true
  | _ => false
/-- Whether a word may stand in an SKW instruction (R365). -/
def embeddable (w : Nat) : Bool :=
  let o := bits w 30 25
  !w.testBit 31 && (o == 0x05 || (decide (0x0B ≤ o) && decide (o ≤ 0x1C)))

/-- Whether a half writes flags. -/
def Half.setsFlags : Half → Bool
  | .alu fn _ _ _ => fn != 8
  | _ => false
/-- The register that a half writes, by its code. -/
def Half.writes : Half → List Nat
  | .load _ r _ => [r]
  | .alu fn d _ _ => if fn = 9 ∨ fn = 10 then [] else [d]
  | _ => []
/-- Whether a word writes F (Table 11-13). -/
def SkWord.setsFlags : SkWord → Bool
  | .paired a b => a.setsFlags || b.setsFlags
  | .alu fn _ _ _ _ => fn != 8 && fn != 15
  | .fmov d _ => d
  | .thr sub _ _ _ => sub == 2 || sub == 5 || sub == 9
  | _ => false
/-- The registers A (0), X (1) and Y (2) that a word writes. -/
def SkWord.writes : SkWord → List Nat
  | .paired a b => a.writes ++ b.writes
  | .alu fn d _ _ _ => if fn = 9 ∨ fn = 10 then [] else [d]
  | .insh d _ => [d]
  | .ld r _ _ _ _ _ _ => [r]
  | .tas r _ _ _ => [r]
  | .mfs r _ => [r]
  | .fmov d r => if d then [] else [r]
  | .sr sub r _ => if sub = 1 then [] else [r]
  | .cmov _ d r _ => if d then [r] else []
  | .thr sub _ _ _ => if sub = 5 then [0, 1] else if sub = 9 then [0] else []
  | .bal _ => [2]
  | _ => []

end Sys2Proof.Machine
end

