-- ==== Sys2Proof/Machine/Render.lean ====
section
/-!
DEFINITION. Render instructions (R352 to R358): parcels, operand specifiers, and the causes of ILLEGAL that an
instruction carries in itself (Table 12-10).
-/

namespace Sys2Proof.Machine

/-- An operand specifier (Table 12-3). -/
inductive Spec where
  | reg (rn : Nat)
  /-- An immediate, sign-extended to 64 bits. -/
  | imm (v : BitVec 64)
  | bank0 (off : Nat)
  | bank0x (xr sc off : Nat)
  | bankb (xr sc : Nat) (xen : Bool) (off : Nat)
  | abs (a : Nat)
  /-- IND, DISP and IDX: a pointer, an index with its scale, and a displacement. -/
  | ptr (pn : Nat) (index : Option (Nat × Nat)) (disp : Int)
  | postinc (pn : Nat)
  | predec (pn : Nat)
  | bitf (pn : Nat) (disp : Int) (pos width : Nat)
  | tind (pn xr : Nat) (disp : Int)
  deriving DecidableEq, Repr

/-- The fields of a G-layout opcode parcel (Table 12-1). -/
structure GOp where
  op : Nat
  size : Nat
  be : Bool
  sx : Bool
  tri : Bool
  nf : Bool
  deriving DecidableEq, Repr

/-- A Render instruction (Table 12-2). -/
inductive RIns where
  | nop
  | g (o : GOp) (ops : List Spec)
  | br (cond : Nat) (disp : Int)
  | bal (disp : Int)
  | jr (reg : Nat)
  | loop (csrc len imm : Nat)
  | setlc (csrc imm : Nat)
  | block (op pd ps : Nat) (fn : Bool)
  | skw (w : Nat)
  deriving DecidableEq, Repr

/-- What decoding parcels gives. -/
inductive Parsed (α : Type) where
  /-- The value, and the parcels it takes. -/
  | ok (v : α) (n : Nat)
  /-- The parcels end before the instruction does. -/
  | short
  /-- ILLEGAL, after this many parcels. -/
  | bad
  deriving DecidableEq, Repr

/-- A signed field sign-extended to 64 bits. -/
def sext (n v : Nat) : BitVec 64 := BitVec.ofInt 64 (signedOf n v)

/-- An operand specifier at the head of a list of parcels; BITF's field and reserved codes are judged here. -/
def parseSpec (l : List Nat) : Parsed Spec :=
  let ext (k : Nat) (f : List Nat → Option Spec) : Parsed Spec :=
    if l.length < 1 + k then .short
    else match f ((l.drop 1).take k) with | some x => .ok x (1 + k) | none => .bad
  match l with
  | [] => .short
  | p :: _ =>
    let z (hi lo : Nat) : Bool := bits p hi lo == 0
    let pn := bits p 10 8
    let xr := bits p 7 6
    let sc := bits p 5 4
    let when_ (c : Bool) (x : Spec) : Option Spec := if c then some x else none
    let at_ (e : List Nat) (i : Nat) : Nat := (e.drop i).headD 0
    let disp (e : List Nat) : Int := signedOf 16 (at_ e 0)
    match bits p 15 12 with
    | 0 => ext 0 (fun _ => when_ (z 7 0 && (decide (bits p 11 8 ≤ 4) || decide (8 ≤ bits p 11 8))) (.reg (bits p 11 8)))
    | 1 => ext 0 (fun _ => some (.imm (sext 12 (bits p 11 0))))
    | 2 =>
      (match bits p 1 0 with
      | 0 => ext 1 (fun e => when_ (z 11 2) (.imm (sext 16 (at_ e 0))))
      | 1 => ext 2 (fun e => when_ (z 11 2) (.imm (sext 32 (at_ e 0 + 65536 * at_ e 1))))
      | 2 => ext 4 (fun e => when_ (z 11 2) (.imm (BitVec.ofNat 64 (at_ e 0 + 2 ^ 16 * at_ e 1 + 2 ^ 32 * at_ e 2 + 2 ^ 48 * at_ e 3))))
      | _ => .bad)
    | 3 => ext 1 (fun e => when_ (z 11 0) (.bank0 (at_ e 0)))
    | 4 => ext 1 (fun e => when_ (z 11 8 && z 3 0) (.bank0x xr sc (at_ e 0)))
    | 5 => ext 1 (fun e => when_ (z 11 8 && z 2 0) (.bankb xr sc (p.testBit 3) (at_ e 0)))
    | 6 => ext 3 (fun e => when_ (z 11 0) (.abs (at_ e 0 + 2 ^ 16 * at_ e 1 + 2 ^ 32 * at_ e 2)))
    | 7 => ext 0 (fun _ => when_ (z 11 11 && z 7 0) (.ptr pn none 0))
    | 8 => ext 1 (fun e => when_ (z 11 11 && z 7 0) (.ptr pn none (disp e)))
    | 9 => ext (if p.testBit 3 then 1 else 0) (fun e => when_ (z 11 11 && z 2 0) (.ptr pn (some (xr, sc)) (if p.testBit 3 then disp e else 0)))
    | 10 => ext 0 (fun _ => when_ (z 11 11 && z 7 0) (.postinc pn))
    | 11 => ext 0 (fun _ => when_ (z 11 11 && z 7 0) (.predec pn))
    | 12 => ext 2 (fun e => when_ (z 11 11 && z 7 0 && bits (at_ e 1) 3 0 == 0) (.bitf pn (disp e) (bits (at_ e 1) 15 10) (bits (at_ e 1) 9 4 + 1)))
    | 13 => ext 1 (fun e => when_ (z 11 11 && z 5 0) (.tind pn xr (disp e)))
    | _ => .bad

/-- Several specifiers. -/
def parseSpecs : Nat → List Nat → Parsed (List Spec)
  | 0, _ => .ok [] 0
  | k + 1, l =>
    match parseSpec l with
    | .ok x n =>
      (match parseSpecs k (l.drop n) with
      | .ok xs m => .ok (x :: xs) (n + m)
      | .short => .short
      | .bad => .bad)
    | .short => .short
    | .bad => .bad

/-- Whether a specifier names memory. -/
def Spec.isMem : Spec → Bool
  | .reg _ => false
  | .imm _ => false
  | _ => true
/-- Whether a specifier can be written: an immediate and LC cannot (R358). -/
def Spec.writable : Spec → Bool
  | .reg n => n != 3
  | .imm _ => false
  | _ => true

/-- Operands of a G-layout opcode (Table 12-2). -/
def operandCount (o : GOp) : Nat := if o.tri then 3 else 2
/-- Whether an opcode is one of ADD to MUL, which TRI fits. -/
def isAluOp (op : Nat) : Bool := decide (0x02 ≤ op) && decide (op ≤ 0x0E)
/-- Whether an opcode has a destination as its first operand. -/
def hasDest (op : Nat) : Bool := op != 0x10 && op != 0x11
/-- The number in Table 11-7 of ADD to ROL. -/
def aluFnOf (op : Nat) : Nat :=
  match op with
  | 0x02 => 0 | 0x03 => 1 | 0x04 => 2 | 0x05 => 3 | 0x06 => 4 | 0x07 => 5 | 0x08 => 6 | 0x09 => 7 | 0x0A => 11 | 0x0B => 12
  | 0x0C => 13 | _ => 14

/-- A, X, Y or P0 to P7. -/
def lrReg : Spec → Bool
  | .reg n => n != 3 && n != 4
  | _ => false
/-- A, X or Y. -/
def scReg : Spec → Bool
  | .reg n => decide (n ≤ 2)
  | _ => false
/-- AM 6 to 9, which LEA allows (R358). -/
def leaSpec : Spec → Bool
  | .abs _ => true
  | .ptr _ _ _ => true
  | _ => false
/-- A BITF operand's field fits its value (R356). -/
def fieldFits (size : Nat) : Spec → Bool
  | .bitf _ _ pos width => decide (pos + width ≤ 8 * size)
  | _ => true

/-- The causes of ILLEGAL that a G-layout instruction carries in itself (R355 to R358, R364, R369, R370). -/
def gLegal (o : GOp) (ops : List Spec) : Bool :=
  let a := ops.headD (.imm 0)
  let b := (ops.drop 1).headD (.imm 0)
  let mem := ops.any Spec.isMem
  (!o.tri || isAluOp o.op) &&
  !(o.nf && (o.op == 0x01 || decide (0x0F ≤ o.op))) &&
  (mem || o.op == 0x0F || o.size == 8) &&
  ops.all (fieldFits o.size) &&
  (!hasDest o.op || a.writable) &&
  (match o.op with
  | 0x0F => o.size != 1
  | 0x12 => (match a with | .reg _ => true | _ => false) && leaSpec b
  | 0x13 => lrReg a && b.isMem && decide (4 ≤ o.size)
  | 0x14 => a.isMem && scReg b && decide (4 ≤ o.size)
  | _ => true)

/-- A G-layout instruction. -/
def parseG (p : Nat) (l : List Nat) : Parsed RIns :=
  let o : GOp := { op := bits p 15 10, size := 2 ^ bits p 9 8, be := p.testBit 7, sx := p.testBit 6, tri := p.testBit 5, nf := p.testBit 4 }
  if bits p 3 0 ≠ 0 ∨ (o.tri ∧ isAluOp o.op = false) then .bad
  else
    match parseSpecs (operandCount o) (l.drop 1) with
    | .ok ops n => if gLegal o ops then .ok (.g o ops) (1 + n) else .bad
    | .short => .short
    | .bad => .bad

/-- Whether a block instruction's register and FN fields are as Table 12-7 asks. -/
def blockLegal (op pd ps : Nat) (fn : Bool) : Bool :=
  match op with
  | 0x20 => !fn
  | 0x21 => !fn && ps == 0
  | 0x22 => !fn
  | _ => pd == 0

/-- The instruction at the head of a list of parcels. -/
def parseRender (l : List Nat) : Parsed RIns :=
  match l with
  | [] => .short
  | p :: r =>
    let op := bits p 15 10
    let e0 := r.headD 0
    let one (c : Bool) (x : RIns) : Parsed RIns := if r = [] then .short else if c then .ok x 2 else .bad
    if op = 0 then (if p = 0 then .ok .nop 1 else .bad)
    else if op ≤ 0x14 then parseG p l
    else if op = 0x18 then one (bits p 5 0 == 0) (.br (bits p 9 6) (signedOf 16 e0))
    else if op = 0x19 then one (bits p 9 0 == 0) (.bal (signedOf 16 e0))
    else if op = 0x1A then (if bits p 7 0 = 0 ∧ bits p 9 8 ≠ 3 then .ok (.jr (bits p 9 8)) 1 else .bad)
    else if op = 0x1B then one ((bits p 9 8 == 0 || e0 == 0) && bits p 7 0 != 0) (.loop (bits p 9 8) (bits p 7 0) e0)
    else if op = 0x1C then one ((bits p 9 8 == 0 || e0 == 0) && bits p 7 0 == 0) (.setlc (bits p 9 8) e0)
    else if 0x20 ≤ op ∧ op ≤ 0x24 then
      (if bits p 2 0 = 0 ∧ blockLegal op (bits p 9 7) (bits p 6 4) (p.testBit 3) then .ok (.block op (bits p 9 7) (bits p 6 4) (p.testBit 3)) 1 else .bad)
    else if op = 0x30 then
      (if r.length < 2 then .short
      else
        let w := e0 + 65536 * (r.drop 1).headD 0
        if bits p 9 0 = 0 ∧ embeddable w ∧ (decodeSkim w).isSome then .ok (.skw w) 3 else .bad)
    else .bad

/-- The control instructions (R366). -/
def RIns.isControl : RIns → Bool
  | .br _ _ => true
  | .bal _ => true
  | .jr _ => true
  | .loop _ _ _ => true
  | .skw w => match decodeSkim w with | some x => x.isControl | none => false
  | _ => false
/-- The branches. -/
def RIns.isBranch : RIns → Bool
  | .br _ _ => true
  | .bal _ => true
  | .jr _ => true
  | _ => false

end Sys2Proof.Machine
end

