-- ==== Sys2Proof/Machine/Package.lean ====
section
/-!
DEFINITION. GPIO and boundary scan (R609 to R613).
-/

namespace Sys2Proof.Machine

/-! ### GPIO (Table 20-10) -/

/-- The level at each GPIO ball: the board's on an input or a released open drain, the driven one otherwise. -/
def gpioLevels (p : PkgState) : Nat :=
  (List.range 16).foldl (fun a k =>
    let driven := p.gpioDir.testBit k && !(p.gpioOd.testBit k && p.gpioOut.testBit k)
    putBit a k (if driven then p.gpioOut.testBit k else p.gpioBoard.testBit k)) 0

/-- GPIO_IN follows the balls, and GPIO_CHANGED collects the changes (Table 20-10). -/
def gpioSample (p : PkgState) : PkgState :=
  let l := gpioLevels p
  { p with gpioIn := l, gpioChanged := p.gpioChanged ||| (p.gpioIn ^^^ l) }

/-- A write of `v` to the GPIO register at an offset (Table 20-10); bits above 15 are reserved (R7). -/
def gpioRegWrite (p : PkgState) (off v : Nat) : PkgState :=
  let w := v % 65536
  match off with
  | 0x08 => gpioSample { p with gpioDir := w }
  | 0x10 => gpioSample { p with gpioOut := w }
  | 0x18 => gpioSample { p with gpioOd := w }
  | 0x20 => { p with gpioChanged := clearMask p.gpioChanged w }
  | _ => p

/-- The GPIO register at an offset. -/
def gpioRegRead (p : PkgState) (off : Nat) : Nat :=
  match off with
  | 0x00 => p.gpioIn
  | 0x08 => p.gpioDir
  | 0x10 => p.gpioOut
  | 0x18 => p.gpioOd
  | 0x20 => p.gpioChanged
  | _ => 0

/-- GPIO_WRITE: a write to a GPIO register, which the processor die must be out of reset to reach (R609, R610). -/
def execGpioWrite (reg : BitVec 6) (v : BitVec 64) (s : State) : Res :=
  .next (if s.power.dieOut then { s with pkg := gpioRegWrite s.pkg reg.toNat v.toNat } else s)

/-- GPIO_INPUT_CHANGE: the board's levels change and the next sample finds them (Table 20-10). -/
def execGpioInputChange (levels : BitVec 16) (s : State) : Res :=
  .next (if s.svc.running then { s with pkg := gpioSample { s.pkg with gpioBoard := levels.toNat } } else s)

/-! ### TAP (R611 to R613) -/

/-- Cells of the boundary register (R613). -/
def boundaryCells : Nat := 1211

/-- The TAP is powered with group 1 (R611). -/
def tapPowered (s : State) : Bool := s.power.group1

/-- An instruction of Table 20-11 becomes current; one that needs TEST_EN acts as BYPASS while it is low (R612). -/
def tapSelect (s : State) (ir : TapIr) (needsTestEn : Bool) : State :=
  let i := if needsTestEn && !s.power.testEn then TapIr.bypass else ir
  { s with pkg := { s.pkg with ir := i, driven := none } }

/-- The one bit that BYPASS captures. -/
def tapBypassScan (s : State) : State := emit s (.tap 1 0)

/-- A scan of the boundary register: it captures, shifts the capture out and keeps what was shifted in. -/
def tapBoundaryScan (s : State) (captured shifted : Nat) : State :=
  let s1 := emit s (.tap boundaryCells (captured % 2 ^ boundaryCells))
  { s1 with pkg := { s1.pkg with boundary := shifted % 2 ^ boundaryCells } }

/-- An external-test instruction: the balls are captured, and the boundary register then drives them (Table 20-11). -/
def tapExternal (s : State) (ir : TapIr) (captured shifted : Nat) : State :=
  if tapPowered s = false then s
  else
    let s1 := tapSelect s ir true
    if s.power.testEn then
      let s2 := tapBoundaryScan s1 captured shifted
      { s2 with pkg := { s2.pkg with driven := some s2.pkg.boundary } }
    else tapBypassScan s1

/-- TAP_RESET: Test-Logic-Reset; IDCODE is selected (IEEE 1149.1) and the balls return to their functions (R611, R613). -/
def execTapReset (s : State) : Res := .next { s with pkg := { s.pkg with ir := .idcode, driven := none } }

/-- EXTEST. -/
def execExtest (captured shifted : Nat) (s : State) : Res := .next (tapExternal s .extest captured shifted)

/-- SAMPLE/PRELOAD: the balls are captured without effect on them, and the boundary register is loaded. -/
def execSamplePreload (captured shifted : Nat) (s : State) : Res :=
  .next (if tapPowered s then tapBoundaryScan (tapSelect s .sample false) captured shifted else s)

/-- IDCODE: the 32-bit IDCODE 0xB1C3_2F3B is selected (R611). -/
def execIdcode (s : State) : Res :=
  .next (if tapPowered s then emit (tapSelect s .idcode false) (.tap 32 0xB1C32F3B) else s)

/-- HIGHZ: every covered output at high impedance, BYPASS selected. -/
def execHighz (s : State) : Res := .next (if tapPowered s then tapBypassScan (tapSelect s .highz true) else s)

/-- CLAMP: the balls are held from the boundary register, BYPASS selected. -/
def execClamp (s : State) : Res :=
  .next (if tapPowered s then
      let s1 := tapSelect s .clamp true
      tapBypassScan { s1 with pkg := { s1.pkg with driven := if s.power.testEn then some s1.pkg.boundary else none } }
    else s)

/-- EXTEST_PULSE: IEEE 1149.6 pulse mode on the AC-coupled pairs. -/
def execExtestPulse (captured shifted : Nat) (s : State) : Res := .next (tapExternal s .extestPulse captured shifted)

/-- EXTEST_TRAIN: IEEE 1149.6 train mode on the AC-coupled pairs. -/
def execExtestTrain (captured shifted : Nat) (s : State) : Res := .next (tapExternal s .extestTrain captured shifted)

/-- BYPASS, and every code that Table 20-11 does not list (R612). -/
def execBypass (_code : BitVec 8) (s : State) : Res :=
  .next (if tapPowered s then tapBypassScan (tapSelect s .bypass false) else s)

end Sys2Proof.Machine
end

