-- ==== Sys2Proof/Machine/Internal.lean ====
section
/-!
DEFINITION. The internal address space (R28 to R30): its ranges, the accesses it refuses, the control registers and
counter blocks, and reads and writes of the parts that this device holds.
-/

namespace Sys2Proof.Machine

/-! ### The map (Table 1-6) -/

/-- The ranges of the internal address map. -/
inductive Region where
  | hbm
  | cluster (n : Nat)
  | hawk
  | pinned
  | control
  /-- The peer window over link `k`. -/
  | span (k : Nat)
  | host
  deriving DecidableEq, Repr

/-- The range of an address, with its first and last byte. -/
def regionOf (a : Nat) : Option (Region × Nat × Nat) :=
  if a ≤ 0x0FFFFFFFFF then some (.hbm, 0, 0x0FFFFFFFFF)
  else if a < 0x1000000000 + 0x200000 * 16 then
    let n := (a - 0x1000000000) / 0x200000
    some (.cluster n, 0x1000000000 + 0x200000 * n, 0x1000000000 + 0x200000 * n + 0x1FFFFF)
  else if 0x1100000000 ≤ a ∧ a ≤ 0x11003FFFFF then some (.hawk, 0x1100000000, 0x11003FFFFF)
  else if 0x1200000000 ≤ a ∧ a ≤ 0x12001FFFFF then some (.pinned, 0x1200000000, 0x12001FFFFF)
  else if 0x1300000000 ≤ a ∧ a ≤ 0x130FFFFFFF then some (.control, 0x1300000000, 0x130FFFFFFF)
  else if 0x2000000000 ≤ a ∧ a < 0x8000000000 then
    let k := a / 0x2000000000 - 1
    some (.span k, 0x2000000000 * (k + 1), 0x2000000000 * (k + 1) + 0x1FFFFFFFFF)
  else if 0x8000000000 ≤ a ∧ a ≤ 0xBFFFFFFFFF then some (.host, 0x8000000000, 0xBFFFFFFFFF)
  else none

/-- Start of a cluster's shared memory. -/
def clusterBase (n : Nat) : Nat := 0x1000000000 + 0x200000 * n

/-- The first byte of `n` bytes from `a` that lies outside the range of `a` (R30); none when all lie in one range. -/
def outOfRange (a n : Nat) : Option Nat :=
  match regionOf a with
  | none => some a
  | some (_, _, hi) => if a + n - 1 ≤ hi then none else some (hi + 1)

/-- The first byte of `[a, a + n)` that lies in `[lo, hi]`. -/
def touches (a n lo hi : Nat) : Option Nat := if a ≤ hi ∧ lo < a + n then some (Nat.max a lo) else none

/-- The first of two optional bytes. -/
def minByte (x y : Option Nat) : Option Nat :=
  match x, y with
  | some a, some b => some (Nat.min a b)
  | some a, none => some a
  | none, y => y

/-- The first byte of an access that no thread and no window may touch: the Hawk-only range (R46), the Hod-only range
(R209) and, for a write, the pinned table (R166). Offsets of a peer's map are judged alike (R479). -/
def forbidden (a n : Nat) (write : Bool) : Option Nat :=
  minByte (minByte (touches a n 0x0F80000000 0x0F8FFFFFFF) (touches a n 0x0FD0000000 0x0FFFFFFFFF))
    (if write then touches a n 0x1200000000 0x12001FFFFF else none)

/-- Checks 3 and 4 of R440 and R479 on a range: the first forbidden byte with its status. A peer window is judged by
the peer's map as well. -/
def mapCheck (a n : Nat) (write : Bool) : Option (Nat × Nat) :=
  match outOfRange a n with
  | some b => some (eRange, b)
  | none =>
    match regionOf a with
    | some (.span _, lo, _) =>
      (match outOfRange (a - lo) n with
        | some b => some (eRange, lo + b)
        | none => (forbidden (a - lo) n write).map (fun b => (eRights, lo + b)))
    | _ => (forbidden a n write).map (fun b => (eRights, b))

/-! ### Control registers and counters -/

/-- Gauges of Stencil engine `e` (Table 4-9). -/
def stencilWord (s : State) (e o : Nat) : Nat :=
  if o = 0x2C0 then ctxLive s e else if o = 0x2C8 then heldLive s e else cntGet s.cnt (0x2000000 + 0x10000 * e + o)

/-- Table engine gauges (Tables 6-11 and 6-12). -/
def tableWord (s : State) (o : Nat) : Nat :=
  if o = 0x0D0 then s.table.occupancy
  else if o = 0x0D8 then s.table.learnMax
  else if 0x1000 ≤ o ∧ o < 0x1200 ∧ o % 32 = 0 then tblGet 0 s.table.held ((o - 0x1000) / 32)
  else cntGet s.cnt (0x4000000 + o)

/-- Hod's gauges (Tables 7-8 and 7-9). -/
def poolWord (s : State) (o : Nat) : Nat :=
  if o < 0x500 ∧ o % 256 = 0x60 then (getPool s (o / 256)).retired
  else if o < 0x500 ∧ o % 256 = 0x68 then freeOf s (o / 256)
  else if o < 0x500 ∧ o % 256 = 0x70 then (getPool s (o / 256)).freeMin.getD 0
  else if o < 0x500 ∧ o % 256 = 0x78 then (getPool s (o / 256)).fresh
  else if 0x10000 ≤ o ∧ o < 0x11000 ∧ o % 32 = 0 ∧ o % 256 < 0xA0 then heldOf s ((o - 0x10000) / 256) (o % 256 / 32)
  else cntGet s.cnt (0x5000000 + o)

/-- Egress gauges (Tables 8-6, 8-8 and 8-10). -/
def egressWord (s : State) (o : Nat) : Nat :=
  if o < 0x40000 ∧ o % 0x1000 < 0x400 ∧ o % 0x40 = 0x28 then (getQueue s (o / 0x1000) (o % 0x1000 / 0x40)).length
  else if o < 0x40000 ∧ o % 0x1000 < 0x400 ∧ o % 0x40 = 0x30 then
    ((getQueue s (o / 0x1000) (o % 0x1000 / 0x40)).map frameLen).sum
  else if o < 0x40000 ∧ o % 0x1000 < 0x400 ∧ o % 0x40 = 0x38 then tblGet 0 s.egress.depthMax (16 * (o / 0x1000) + o % 0x1000 / 0x40)
  else if o = 0x400000 then s.egress.entries.length
  else if o = 0x400008 then s.egress.entriesMax
  else if 0xA00000 ≤ o ∧ o < 0xA01000 ∧ o % 0x100 = 0x68 then (tblGet {} s.egress.pairs ((o - 0xA00000) / 0x100)).dups.length
  else cntGet s.cnt (0x6000000 + o)

/-- Dispatcher gauges (Table 10-11). -/
def dispWord (s : State) (o : Nat) : Nat :=
  let qs := (tblGet {} s.core.clusters (o / 0x1000)).queues
  if o % 0x1000 = 0x40 then (qs.map (fun q => q.items.length)).sum
  else if o % 0x1000 = 0x48 then (qs.map (fun q => q.spill.length)).sum
  else cntGet s.cnt (0x8000000 + o)

/-- Lock gauges (Tables 13-11 and 13-12). -/
def lockWord (s : State) (o : Nat) : Nat :=
  let inGroup := fun (g : Nat) => s.core.locks.filter (fun l => l.1 / 64 == g)
  if o = 0x60 then s.core.locks.length
  else if o = 0x68 then (s.core.locks.map (fun l => l.2.waiters.length)).sum
  else if o = 0x70 then s.core.waitMax
  else if 0x1000 ≤ o ∧ o < 0x1800 ∧ o % 32 = 0 then (inGroup ((o - 0x1000) / 32)).length
  else if 0x1000 ≤ o ∧ o < 0x1800 ∧ o % 32 = 8 then ((inGroup ((o - 0x1000) / 32)).map (fun l => l.2.waiters.length)).sum
  else cntGet s.cnt (0x3E00000 + o)

/-- HBM gauges (Table 14-8). -/
def hbmWord (s : State) (o : Nat) : Nat :=
  if o < 0x800 ∧ o % 0x100 = 0x38 then (s.hbm.throttles.filter (fun t => t.port == o / 0x100)).length
  else cntGet s.cnt (0x9000000 + o)

/-- Span gauges (Table 16-9). -/
def spanWord (s : State) (o : Nat) : Nat :=
  let l : SpanLink := tblGet {} s.span.links (o / 0x100)
  if o % 0x100 = 0xB8 then toSigned 64 l.offset
  else if o % 0x100 = 0xC0 then l.offsetMax
  else cntGet s.cnt (0xB000000 + o)

/-- Fault manager block (Table 17-8). -/
def faultWord (s : State) (o : Nat) : Nat :=
  if o = 0x28 then s.fault.overflow % 2 ^ 64
  else if o = 0x90 then ([32, 33].filter (fun n => !s.fault.sparesUsed.contains n && !s.fault.cmpFailed.contains n)).length
  else if o = 0x98 then ringHeld s.fault
  else cntGet s.fault.counters o

/-- STATE of a cluster's governor: AT_MAX is set while the set point is at its upper clamp. -/
def plumbWord (s : State) (n : Nat) (p : Plumb) : Nat :=
  (if p.sensorLost then 2 else b2n p.marginLow) + 4 * b2n (freePace s.plan.now n) + 8 * b2n (decide (p.vcode = vMax))

/-- Power block and governor blocks (Tables 19-3 and 19-4). -/
def powerWord (s : State) (o : Nat) : Nat :=
  let w := s.power
  if o = 0x00 then w.vinMv
  else if o = 0x08 then w.iinMa
  else if o = 0x10 then w.vinMv * w.iinMa / 1000
  else if o = 0x18 then toSigned 64 w.tjMax
  else if o = 0x20 then toSigned 64 w.tempSvc
  else if o = 0x28 then toSigned 64 w.tempStage
  else if o = 0x30 then powerFlags s
  else if o = 0x38 then w.vengMv
  else if o = 0x40 then w.energyNj / 1000000
  else if 0x1000 ≤ o ∧ o < 0x1400 then
    let p := getPlumb s ((o - 0x1000) / 0x40)
    (match o % 0x40 with
      | 0x00 => p.vcode
      | 0x08 => p.delay
      | 0x10 => toSigned 64 p.margin
      | 0x18 => plumbWord s ((o - 0x1000) / 0x40) p
      | 0x20 => if freePace s.plan.now ((o - 0x1000) / 0x40) then p.rate else 1600
      | 0x28 => toSigned 64 p.temp
      | 0x30 => p.events
      | 0x38 => p.vmaxUs
      | _ => 0)
  else 0

/-- The 64-bit control-register word at offset `o` (a multiple of 8) from 0x13_0000_0000; 0 where none is. -/
def controlWord (s : State) (o : Nat) : Nat :=
  if o < 0x0800000 then 0
  else if o < 0x0C00000 then powerWord s (o - 0x0800000)
  else if o < 0x1000000 then (if o - 0x0C00000 ≤ 0x20 then gpioRegRead s.pkg (o - 0x0C00000) else 0)
  else if o < 0x1040000 then portWord s ((o - 0x1000000) / 0x1000) (o % 0x1000)
  else if o < 0x2000000 then 0
  else if o < 0x2020000 then stencilWord s ((o - 0x2000000) / 0x10000) (o % 0x10000)
  else if 0x3E00000 ≤ o ∧ o < 0x3F00000 then lockWord s (o - 0x3E00000)
  else if o < 0x4000000 then cntGet s.cnt o
  else if o < 0x5000000 then tableWord s (o - 0x4000000)
  else if o < 0x6000000 then poolWord s (o - 0x5000000)
  else if o < 0x7000000 then egressWord s (o - 0x6000000)
  else if o < 0x8000000 then cntGet s.cnt o
  else if o < 0x9000000 then dispWord s (o - 0x8000000)
  else if o < 0xA000000 then hbmWord s (o - 0x9000000)
  else if o < 0xB000000 then cntGet s.host.counters (o - 0xA000000)
  else if o < 0xC000000 then spanWord s (o - 0xB000000)
  else if o < 0xD000000 then faultWord s (o - 0xC000000)
  else 0

/-- Bytes of the control registers: an access reads each word it touches at once. -/
def controlRead (s : State) (a n : Nat) : Bytes :=
  (List.range n).map (fun i =>
    let o := a + i - 0x1300000000
    BitVec.ofNat 8 (controlWord s (o - o % 8) / 256 ^ (o % 8)))

/-- A write to the control registers: only the GPIO registers take one (R609); every other word cannot be written. -/
def controlWrite (s : State) (a : Nat) (d : Bytes) : State :=
  let o := a - 0x1300000000
  if 0x0C00000 ≤ o ∧ o < 0x0C00028 then
    let reg := o - 0x0C00000 - o % 8
    let old := toLE 8 (if reg = 0x20 then 0 else gpioRegRead s.pkg reg)
    { s with pkg := gpioRegWrite s.pkg reg (leVal ((patchBytes old (o % 8) d).take 8)) }
  else s

/-! ### The pinned table (R166) -/

/-- Pinned entry `i` of the active copy, PAR included. -/
def parityOf (w : Nat) : Bool := ((List.range 64).filter (fun i => w.testBit i)).length % 2 == 1

/-- An entry with its PAR field (R168): PAR[0], PAR[1] and PAR[3] cover words 0, 1 and 3; PAR[2] makes word 2 even. -/
def withPar (e : Bytes) : Bytes :=
  let z := patchBytes e 23 [0]
  let p (k : Nat) := b2n (parityOf (leAt z (8 * k) 8))
  let low := p 0 + 2 * p 1 + 8 * p 3
  let q := b2n (parityOf (leAt (patchBytes z 23 (toLE 1 low)) 16 8))
  patchBytes z 23 (toLE 1 (low + 4 * q))

/-- The record of pinned index `i` in a plan. -/
def pinnedEnt (p : PlanCopy) (i : Nat) : Bytes := if p.has 0x08 then (p.sec 0x08).entry 0x08 i else zeros 32

/-- Bytes of the pinned table as an access reads them. -/
def pinnedRead (s : State) (a n : Nat) : Bytes :=
  (List.range n).map (fun k =>
    let o := a + k - 0x1200000000
    let e := pinnedEnt s.plan.now (o / 32)
    ((if allZero e then e else withPar e).drop (o % 32)).headD 0)

/-! ### Direct access by the host, Hawk, the span unit and mailboxes -/

/-- A read by a requester whose HBM accesses go through port `q` as source `src`, of a range that has passed its
checks and lies in this device: a failing HBM line, and the bytes. -/
def directRead (s : State) (q src a n : Nat) : Option Nat × Bytes × State :=
  match regionOf a with
  | some (.hbm, _, _) => hbmRead s q src a n
  | some (.pinned, _, _) => (none, pinnedRead s a n, s)
  | some (.control, _, _) => (none, controlRead s a n, s)
  | _ => (none, memBytes s.mem a n, s)

/-- A write by such a requester: the first byte of a refused HBM line. -/
def directWrite (s : State) (q src a : Nat) (d : Bytes) : Option Nat × State :=
  match regionOf a with
  | some (.hbm, _, _) => hbmWrite s q src a d
  | some (.cluster _, _, _) => (none, dropResv { s with mem := memWrite s.mem a d } a d.length)
  | some (.hawk, _, _) => (none, { s with mem := memWrite s.mem a d })
  | some (.control, _, _) => (none, controlWrite s a d)
  | _ => (none, s)

end Sys2Proof.Machine
end

