-- ==== Sys2Proof/Machine/SpanSend.lean ====
section
/-!
DEFINITION. The sending half of the span links (R469 to R471, R479, R482, R485): flits, credits, the replay buffer,
window requests and learning messages.
-/

namespace Sys2Proof.Machine

/-- Link `k`. -/
def getSpan (s : State) (k : Nat) : SpanLink := tblGet {} s.span.links k
/-- The state with a link changed. -/
def modSpan (s : State) (k : Nat) (f : SpanLink → SpanLink) : State :=
  { s with span := { s.span with links := tblMod {} s.span.links k f } }
/-- A counter of a link (Table 16-9). -/
def spanCnt (s : State) (k off n : Nat) : State := { s with cnt := cntAdd s.cnt (0xB000000 + 0x100 * k + off) n }
/-- Location of a link. -/
def spanLoc (k : Nat) : Loc := unitLoc 28 k
/-- Whether windows and learning messages pass a link: JOINED or TIME_HOLD (Table 16-6). -/
def spanOpen (s : State) (k : Nat) : Bool := (getSpan s k).st == 4 || (getSpan s k).st == 5

/-! ### Flits (R469, Table 16-2) -/

/-- Receive buffer of a virtual channel, in flits (Table 16-3). -/
def vcBuffer (vc : Nat) : Nat :=
  match vc with
  | 0 => 256
  | 1 => 520
  | 2 => 128
  | _ => 2048

/-- TYPE of each flit of a message of `n` flits. -/
def flitType (i n : Nat) : Nat := if n = 1 then 2 else if i = 0 then 3 else if i + 1 = n then 5 else 4
/-- The flits of a message without SEQ, ACK, RETURN, CREDITS and CRC: TYPE and VC, and the payload. -/
def flitsOf (control : Bool) (vc : Nat) (msg : Bytes) : List Bytes :=
  let n := Nat.max 1 (ceilDiv msg.length 52)
  (List.range n).map (fun i => toLE 1 ((if control then 1 else flitType i n) + 8 * vc) ++ zeros 7 ++ slice msg (52 * i) 52)

/-- The VC whose credits the next flit returns. -/
def returnVc (l : SpanLink) : Option (Nat × Nat) := l.returns.find? (fun e => decide (e.2 ≠ 0))

/-- A flit leaves a link: ACK, RETRY_REQ, the credits returned and the CRC are filled in. -/
def putFlit (s : State) (k : Nat) (f : Bytes) : State :=
  let l := getSpan s k
  let r := returnVc l
  let vc := (r.map (·.1)).getD 0
  let n := (r.map (fun e => Nat.min 2048 e.2)).getD 0
  let b := patchBytes f 2 (toLE 1 ((l.rxSeq + 255) % 256) ++ toLE 1 (vc + 128 * b2n l.retry) ++ toLE 2 n)
  let s1 := modSpan s k (fun l => { l with returns := if n = 0 then l.returns else tblMod 0 l.returns vc (· - n) })
  emit s1 (.span k (byteAt f 0 % 8) (b ++ toLE 4 (crc32c b)))

/-- A sequenced flit is sent, or waits while 128 are unacknowledged. -/
def sendFlit (s : State) (k : Nat) (f : Bytes) : State :=
  let l := getSpan s k
  if 128 ≤ l.replay.length ∨ l.queue ≠ [] then modSpan s k (fun l => { l with queue := l.queue ++ [f], formed := l.formed + 1 })
  else
    let g := patchBytes f 1 (toLE 1 l.txSeq)
    putFlit (spanCnt (modSpan s k (fun l => { l with txSeq := (l.txSeq + 1) % 256, replay := l.replay ++ [g], formed := l.formed + 1 })) k 0x00 1) k g

/-- Waiting flits are sent as places of the replay buffer free. -/
def sendQueued (k : Nat) : Nat → State → State
  | 0, s => s
  | fuel + 1, s =>
    let l := getSpan s k
    match l.queue with
    | [] => s
    | f :: r =>
      if 128 ≤ l.replay.length then s
      else
        let g := patchBytes f 1 (toLE 1 l.txSeq)
        sendQueued k fuel (putFlit (spanCnt (modSpan s k (fun l => { l with
          queue := r, txSeq := (l.txSeq + 1) % 256, replay := l.replay ++ [g] })) k 0x00 1) k g)

/-- An IDLE flit, which carries the next unused SEQ. -/
def sendIdle (s : State) (k : Nat) : State := putFlit s k (zeros 1 ++ toLE 1 (getSpan s k).txSeq ++ zeros 58)

/-- A message on the CONTROL path. -/
def sendControl (s : State) (k : Nat) (msg : Bytes) : State := (flitsOf true 0 msg).foldl (fun x f => sendFlit x k f) s

/-- Flits of a message. -/
def msgFlits (msg : Bytes) : Nat := Nat.max 1 (ceilDiv msg.length 52)
/-- Whether a VC holds the credits of a message (R470). -/
def hasCredits (s : State) (k vc : Nat) (msg : Bytes) : Bool := decide (msgFlits msg ≤ tblGet 0 (getSpan s k).credits vc)
/-- A message leaves on a VC and spends its credits. -/
def sendMsg (s : State) (k vc : Nat) (msg : Bytes) : State :=
  (flitsOf false vc msg).foldl (fun x f => sendFlit x k f)
    (modSpan s k (fun l => { l with credits := tblMod 0 l.credits vc (· - msgFlits msg) }))

/-! ### Window requests (R471, R479) -/

/-- The waiting messages of VC0 are sent in order as credits and places for reads allow. -/
def drain0 (k : Nat) : Nat → State → State
  | 0, s => s
  | fuel + 1, s =>
    let l := getSpan s k
    match l.wait0 with
    | [] => s
    | (r, m) :: rest =>
      match r with
      | some rd =>
        if hasCredits s k 0 m = false ∨ 256 ≤ l.reads.length then s
        else
          let m1 := patchBytes m 2 (toLE 2 l.nextTag)
          let s1 := modSpan s k (fun l => { l with wait0 := rest, reads := l.reads ++ [{ rd with tag := l.nextTag }], nextTag := (l.nextTag + 1) % 65536 })
          drain0 k fuel (spanCnt (sendMsg s1 k 0 m1) k 0x40 1)
      | none =>
        if hasCredits s k 0 m = false then s
        else
          let s1 := sendMsg (modSpan s k (fun l => { l with wait0 := rest })) k 0 m
          drain0 k fuel (if byteAt m 0 = 0x11 then spanCnt s1 k 0x48 1 else s1)

/-- A message joins the waiting ones of VC0, and leaves at once where it can. -/
def post0 (s : State) (k : Nat) (r : Option SpanRead) (msg : Bytes) : State :=
  let s1 := modSpan s k (fun l => { l with wait0 := l.wait0 ++ [(r, msg)] })
  drain0 k (getSpan s1 k).wait0.length s1

/-- A window read of `n` bytes at an offset of the peer's map. -/
def windowRead (s : State) (k : Nat) (who : SpanWho) (off n : Nat) : State :=
  post0 s k (some { tag := 0, who := who, n := n }) ([0x10] ++ toLE 1 n ++ zeros 2 ++ toLE 6 off)
/-- A posted window write of at most 64 bytes. -/
def windowWrite (s : State) (k off : Nat) (d : Bytes) : State :=
  post0 s k none ([0x11] ++ toLE 1 d.length ++ zeros 2 ++ toLE 6 off ++ zeros 2 ++ slice d 0 64)

/-! ### Learning messages (R485) -/

/-- One link's LEARN, or its discard for want of a credit. -/
def learnOn (s : State) (key : Bytes) (port : Nat) (move : Bool) (k : Nat) : State :=
  if spanOpen s k = false ∨ spanDomain s.plan.now k (byteAt key 16 / 16) = false then s
  else
    let m := [0x20] ++ toLE 1 (b2n move) ++ toLE 4 s.plan.now.epoch ++ toLE 1 port ++ [0] ++ slice key 0 19
    if hasCredits s k 2 m then spanCnt (sendMsg s k 2 m) k 0x98 1 else spanCnt s k 0xA0 1

/-- The learn unit's message to the peers of a domain that shares its table. -/
def spanLearn (s : State) (key : Bytes) (port : Nat) (move : Bool) : State := (List.range 3).foldl (fun x k => learnOn x key port move k) s

end Sys2Proof.Machine
end

