-- ==== Sys2Proof/Machine/TableOps.lean ====
section
/-!
DEFINITION. The table engine's searches and changes (R165 to R184, R189, R190, R196): keys and hash choices, the
pinned table, the lookaside cache, HBM buckets, insertion, relocation and eviction.
-/

namespace Sys2Proof.Machine

/-! ### Entries (R167 to R170) -/

/-- Bytes 0 to 18 of an entry. -/
def keyOf (e : Bytes) : Bytes := slice e 0 19
/-- The domain in a key. -/
def keyDomain (k : Bytes) : Nat := byteAt k 16 / 16
/-- A key with its domain forced. -/
def withDomain (k : Bytes) (d : Nat) : Bytes := patchBytes k 16 [BitVec.ofNat 8 (byteAt k 16 % 16 + 16 * (d % 16))]
/-- Bit `i` of an entry's FLAGS: 0 VALID, 1 CONFIGURED, 2 LEARNED, 3 STATIC, 4 NEW, 5 OLD, 6 EPOCH, 7 PEER. -/
def eFlag (e : Bytes) (i : Nat) : Bool := (byteAt e 19).testBit i
/-- Whether the four parity checks of an entry pass (R168). -/
def parityOk (e : Bytes) : Bool :=
  let b := byteAt e 23
  (b.testBit 0 == parityOf (leAt e 0 8)) && (b.testBit 1 == parityOf (leAt e 8 8)) && (b.testBit 3 == parityOf (leAt e 24 8)) &&
    !parityOf (leAt e 16 8)

/-- TABLE_PARAMS preamble of a plan; zero without the section (R200). -/
def tablePre (p : PlanCopy) : Bytes := if p.has 9 then (p.sec 9).preamble 9 else zeros 576
/-- DOMAIN_LEARN of a domain. -/
def domLearn (p : PlanCopy) (d : Nat) : Bytes := slice (tablePre p) (64 + 32 * d) 32
/-- SEED[i] in force. -/
def hbmSeed (s : State) (i : Nat) : Bytes := ((s.table.seeds.getD []).drop i).headD (zeros 8)
/-- The HBM bucket choices of a key (R170). -/
def hbmChoices (s : State) (k : Bytes) : List Nat := (List.range 4).map (fun i => crc32c (hbmSeed s i ++ k) % 2 ^ 24)
/-- The pinned bucket choices of a key; none for a domain without pinned buckets (R170, R174). -/
def pinChoices (p : PlanCopy) (k : Bytes) : List Nat :=
  let r := pinnedRange p (keyDomain k)
  if r.2 < 4 then []
  else (List.range 2).map (fun j => r.1 / 4 + crc32c (slice (tablePre p) (32 + 4 * j) 4 ++ k) % (r.2 / 4))

/-- Whether an entry is visible to epoch bit `b` (R172). -/
def visible (e : Bytes) (b : Nat) : Bool :=
  (!eFlag e 4 || b2n (eFlag e 6) == b) && (!eFlag e 5 || b2n (eFlag e 6) != b)

/-- An entry matches a key for epoch bit `b` (R173). -/
def eMatches (e k : Bytes) (b : Nat) : Bool := eFlag e 0 && keyOf e == k && visible e b && parityOk e

/-- Whether an entry is learned or command-inserted: it counts in O_d (R181). -/
def countsHeld (e : Bytes) : Bool := eFlag e 0 && !eFlag e 1
/-- Whether an entry may be moved (R182). -/
def movable (e : Bytes) : Bool := countsHeld e && !eFlag e 4 && !eFlag e 5

/-- Address of an HBM location (bucket × 2 + position). -/
def locAddr (loc : Nat) : Nat := 0x0F90000000 + 32 * loc

/-! ### Counters -/

/-- A table engine counter (Table 6-11). -/
def tabCnt (s : State) (off n : Nat) : State := { s with cnt := cntAdd s.cnt (0x4000000 + off) n }
/-- A domain counter (Table 6-12). -/
def tabDom (s : State) (d off : Nat) : State := { s with cnt := cntAdd s.cnt (0x4001000 + 0x20 * d + off) 1 }

/-! ### The pinned table (R190) -/

/-- The location of the copy of the pinned table that serves an epoch (Table 17-11). -/
def pinMem (copy : Nat) : Loc := { unitLoc 22 4 with l3 := copy }

/-- A word of the pinned table is read: an erroneous one is corrected, or its entry awaits its rewrite. -/
def pinnedMark (s : State) (m : ErrorMark) : State :=
  if m.kind < 2 then record (clearMark s m.loc m.word) 1 0x05 0x0003 (wordLoc m.loc m.word) [] m.injected
  else if s.table.pinnedBad.contains (m.word / 4) then s
  else errorIn { s with table := { s.table with pinnedBad := s.table.pinnedBad ++ [m.word / 4] } } 2 0x05 0x0004 (wordLoc m.loc m.word) [] m.injected

/-- The reads of some pinned entries of the copy that serves an epoch. -/
def pinnedTouch (s : State) (epoch : Nat) (ix : List Nat) : State :=
  (s.fault.marks.filter (fun m => m.loc == pinMem (copyOf epoch) && ix.contains (m.word / 4))).foldl pinnedMark s

/-- A search of the key's pinned buckets: index, choice and entry; whether a lost entry was met; the state after. -/
def pinnedFind (s0 : State) (p : PlanCopy) (k : Bytes) : Option (Nat × Nat × Bytes) × Bool × State :=
  let cands := (pinChoices p k).zipIdx.flatMap (fun qj => (List.range 4).map (fun i => (4 * qj.1 + i, qj.2)))
  let s := pinnedTouch s0 p.epoch (cands.map (·.1))
  let lost := (cands.filter (fun c => s.table.pinnedBad.contains c.1)).length
  let good := cands.filter (fun c => !s.table.pinnedBad.contains c.1)
  let hit := good.findSome? (fun c =>
    let e := pinnedEnt p c.1
    if eFlag e 0 && keyOf e == k then some (c.1, c.2, withPar e) else none)
  (hit, decide (0 < lost), if lost = 0 then s else tabCnt s 0x030 lost)

/-! ### The lookaside cache (R177, R178) -/

/-- The location of a cache line's word (Table 17-11). -/
def cacheMarks (s : State) (l : CacheLine) : List ErrorMark :=
  s.fault.marks.filter (fun m => m.loc == { unitLoc 22 3 with l3 := l.way } && m.word / 4 == l.set)

/-- The cache without the lines that have been there for 1 ms (R177). -/
def expireCache (s : State) : State :=
  let old := s.table.cache.filter (fun l => decide (l.filled + 1600000 ≤ s.now))
  if old = [] then s
  else tabCnt { s with table := { s.table with cache := s.table.cache.filter (fun l => !decide (l.filled + 1600000 ≤ s.now)) } } 0x038 old.length

/-- The cache without the line of a location. -/
def cacheDrop (s : State) (loc : Nat) : State := { s with table := { s.table with cache := s.table.cache.filter (fun l => l.loc ≠ loc) } }

/-- The line of a location takes an entry's new contents, or is invalidated when it no longer holds one. -/
def cacheUpdate (s : State) (loc : Nat) (e : Bytes) : State :=
  if eFlag e 0 then
    { s with table := { s.table with cache := s.table.cache.map (fun l => if l.loc = loc then { l with data := e } else l) } }
  else cacheDrop s loc

/-- The least recently used of some lines. -/
def lruLine : List CacheLine → Option CacheLine
  | [] => none
  | l :: r =>
    match lruLine r with
    | none => some l
    | some m => if l.used ≤ m.used then some l else some m

/-- A line is filled with an entry: in a free way, or in place of the least recently used line of its set. -/
def cacheFill (s : State) (set loc : Nat) (e : Bytes) : State :=
  let s0 := cacheDrop s loc
  let here := s0.table.cache.filter (fun l => l.set = set)
  let victim := if here.length < 8 then none else lruLine here
  let way := match victim with
    | some v => v.way
    | none => ((List.range 8).find? (fun w => here.all (fun l => l.way ≠ w))).getD 0
  let rest := match victim with
    | some v => s0.table.cache.erase v
    | none => s0.table.cache
  let s1 := { s0 with fault := { s0.fault with marks := s0.fault.marks.filter (fun m => !(m.loc == { unitLoc 22 3 with l3 := way } && m.word / 4 == set)) } }
  { s1 with table := { s1.table with cache := rest ++ [{ set := set, way := way, loc := loc, data := e, filled := s.now, used := s.now }] } }

/-- The lines of the key's set that hold its key. -/
def cacheLines (s : State) (set : Nat) (k : Bytes) (b : Nat) : List CacheLine :=
  s.table.cache.filter (fun l => l.set == set && eMatches l.data k b)

/-- A search of the cache: a hit is used, and a line that fails its check is dropped (R178). -/
def cacheFind (s : State) (set : Nat) (k : Bytes) (b : Nat) : Option CacheLine × State :=
  match (cacheLines s set k b) with
  | [] => (none, s)
  | l :: _ =>
    match cacheMarks s l with
    | [] => (some l, { s with table := { s.table with cache := s.table.cache.map (fun m => if m = l then { m with used := s.now } else m) } })
    | m :: _ =>
      let s1 := clearMark s m.loc m.word
      (if m.kind < 2 then (some l, record s1 1 0x05 0x0001 (wordLoc m.loc m.word) [] m.injected)
      else (none, record (cacheDrop s1 l.loc) 1 0x05 0x0001 (wordLoc m.loc m.word) [] m.injected))

/-! ### Buckets (R189, R196) -/

/-- Whether FAULT_INJECT has placed an error in an HBM entry. -/
def entryInjected (s : State) (loc : Nat) : Bool :=
  (List.range 4).any (fun i =>
    let lw := hbmWordLoc (locAddr loc + 8 * i)
    match findMark s lw.1 lw.2 with | some m => m.injected | none => false)

/-- An HBM entry that is lost is reported, and awaits its repair (R189). -/
def entryLost (s : State) (loc : Nat) : State :=
  let s1 := tabCnt s 0x030 1
  if s1.table.repairs.contains loc then s1
  else errorIn { s1 with table := { s1.table with repairs := s1.table.repairs ++ [loc] } } 2 0x05 0x0002 (unitLoc 22 0) (toLE 4 (loc / 2) ++ toLE 1 (loc % 2))
    (entryInjected s loc)

/-- A bucket read through port `q` as source `src`: its entries with their locations but for the lost ones, whether one
was lost, and the state after. -/
def readBucket (s : State) (q src b : Nat) : List (Nat × Bytes) × Bool × State :=
  let r := hbmRead s q src (locAddr (2 * b)) 64
  let es := [(2 * b, slice r.2.1 0 32), (2 * b + 1, slice r.2.1 32 32)]
  match r.1 with
  | some _ => ([], true, es.foldl (fun x e => entryLost x e.1) r.2.2)
  | none =>
    let bad := es.filter (fun e => !parityOk e.2)
    (es.filter (fun e => parityOk e.2), !bad.isEmpty, bad.foldl (fun x e => entryLost x e.1) r.2.2)

/-- Several buckets read in order, each once, with the choice that names it first. -/
def readBuckets (q src : Nat) : List (Nat × Nat) → List Nat → State → List (Nat × Nat × Bytes) × Bool × State
  | [], _, s => ([], false, s)
  | (b, i) :: r, seen, s =>
    if seen.contains b then readBuckets q src r seen s
    else
      let x := readBucket s q src b
      let y := readBuckets q src r (b :: seen) x.2.2
      (x.1.map (fun e => (i, e.1, e.2)) ++ y.1, x.2.1 || y.2.1, y.2.2)

/-- The entry at a location as the counts of R181 know it. -/
def entryAt (s : State) (loc : Nat) : Bytes := memBytes s.mem (locAddr loc) 32

/-- O_d, the valid entries, and the recount of a pass that has gone by the bucket, after an entry has changed. -/
def recount (s : State) (loc : Nat) (old new : Bytes) : State :=
  let step (t : Table Nat) : Table Nat :=
    let t1 := if countsHeld old then tblMod 0 t (keyDomain (keyOf old)) (· - 1) else t
    if countsHeld new then tblMod 0 t1 (keyDomain (keyOf new)) (· + 1) else t1
  let occ (n : Nat) : Nat := n + b2n (eFlag new 0) - b2n (eFlag old 0)
  { s with table := { s.table with
      held := step s.table.held
      occupancy := occ s.table.occupancy
      routines := s.table.routines.map (fun r => if r.pass && decide (loc / 2 < r.next) then { r with seen := step r.seen, seenAll := occ r.seenAll } else r) } }

/-- The engine writes an entry, PAR computed, at a location (R168, R177). -/
def putLoc (s : State) (q src loc : Nat) (e : Bytes) : State :=
  let v := if allZero e then e else withPar e
  let s1 := recount s loc (entryAt s loc) v
  let s2 := hbmPut s1 q src (locAddr loc) v
  cacheUpdate { s2 with table := { s2.table with repairs := s2.table.repairs.filter (· ≠ loc) } } loc v

/-- The engine clears a location. -/
def clearLoc (s : State) (q src loc : Nat) : State := putLoc s q src loc (zeros 32)

/-! ### Lookups (R173 to R177) -/

/-- What a search has found: WHERE, CHOICE, LOCATION and the entry. -/
structure Found where
  where_ : Nat
  choice : Nat := 0
  loc : Nat
  entry : Bytes
  deriving DecidableEq, Repr, Inhabited

/-- The first matching entry of some read buckets. -/
def firstMatch (es : List (Nat × Nat × Bytes)) (k : Bytes) (b : Nat) : Option (Nat × Nat × Bytes) := es.find? (fun e => eMatches e.2.2 k b)

/-- The order of R173 for a requester of epoch `p.epoch`: what was found, whether an error was met, the slots it takes
at most, and the state after. `fill` says whether a round hit fills a line. -/
def searchKey (s0 : State) (p : PlanCopy) (q src : Nat) (k : Bytes) (fill : Bool) : Option Found × Bool × Nat × State :=
  let b := p.epoch % 2
  let pin := pinnedFind (expireCache s0) p k
  match pin.1 with
  | some (i, j, e) => (some { where_ := 1, choice := j, loc := i, entry := e }, pin.2.1, 8, pin.2.2)
  | none =>
    let hs := hbmChoices s0 k
    let set := hs.headD 0 % 16384
    match cacheFind pin.2.2 set k b with
    | (some l, s1) =>
      (some { where_ := 2, choice := (hs.findIdx? (fun h => h == l.loc / 2)).getD 0, loc := l.loc, entry := l.data }, pin.2.1, 16, s1)
    | (none, s1) =>
      let ix := hs.zipIdx
      let r1 := readBuckets q src (ix.take 2) [] s1
      (match firstMatch r1.1 k b with
      | some (c, loc, e) =>
        (some { where_ := 3, choice := c, loc := loc, entry := e }, pin.2.1 || r1.2.1, 436, if fill then cacheFill r1.2.2 set loc e else r1.2.2)
      | none =>
        let r2 := readBuckets q src (ix.drop 2) (hs.take 2) r1.2.2
        (match firstMatch r2.1 k b with
        | some (c, loc, e) =>
          (some { where_ := 4, choice := c, loc := loc, entry := e }, pin.2.1 || r1.2.1 || r2.2.1, 856, if fill then cacheFill r2.2.2 set loc e else r2.2.2)
        | none => (none, pin.2.1 || r1.2.1 || r2.2.1, 856, r2.2.2)))

/-- The counter of a lookup's outcome. -/
def lookupCounter (f : Option Found) : Nat :=
  match f with
  | some x => 8 * x.where_
  | none => 0x028

/-- With REFRESH set, a hit on a learned entry takes the present clock (R176). -/
def refreshAge (s : State) (f : Found) : State :=
  let c := s.table.ageClock % 65536
  if 2 ≤ f.where_ ∧ eFlag f.entry 2 ∧ leAt f.entry 20 2 ≠ c then
    let cur := entryAt s f.loc
    if parityOk cur ∧ keyOf cur = keyOf f.entry ∧ eFlag cur 0 then putLoc s 3 0 f.loc (patchBytes cur 20 (toLE 2 c)) else s
  else s

/-- A lookup of a request for domain `d` by a packet of plan `p`: the 48-byte result of Table 6-5, the slots it takes,
and whether they are exact. -/
def lookupRun (s : State) (p : PlanCopy) (pipe d : Nat) (req : Bytes) : Bytes × Nat × Bool × State :=
  let k := withDomain (keyOf req) d
  let r := searchKey (tabCnt s 0x000 1) p 0 pipe k (!(byteAt req 19).testBit 1)
  let s1 := tabCnt r.2.2.2 (lookupCounter r.1) 1
  match r.1 with
  | some f =>
    (toLE 2 stOk ++ toLE 1 f.where_ ++ toLE 1 f.choice ++ toLE 4 f.loc ++ zeros 8 ++ f.entry, r.2.2.1, decide (f.where_ ≤ 2),
      if (byteAt req 19).testBit 0 then refreshAge s1 f else s1)
  | none => (toLE 2 (if r.2.1 then eParity else eNotFound) ++ zeros 46, r.2.2.1, false, s1)

/-! ### Insertion (R181, R182) -/

/-- O_d. -/
def tabHeld (s : State) (d : Nat) : Nat := tblGet 0 s.table.held d

/-- Whether R181 refuses an insertion for a domain. -/
def quotaRefuses (s : State) (d : Nat) : Bool :=
  let p := s.plan.now
  let u := ((enabledDomains p).map (fun e => tableReserve p e - tabHeld s e)).sum
  decide (tabHeld s d = tableQuota p d) || (decide (tableReserve p d ≤ tabHeld s d) && decide (33554432 ≤ s.table.occupancy + u))

/-- A node of the search for a relocation: a location, its occupant, and the occupants below it down to the key's own
buckets. -/
structure RNode where
  path : List (Nat × Bytes)
  deriving DecidableEq, Repr, Inhabited

/-- The free positions of a read bucket. -/
def freePos (es : List (Nat × Bytes)) : Option Nat := (es.find? (fun e => !eFlag e.2 0)).map (·.1)

/-- Breadth-first search for a relocation (R182): at most 64 bucket reads and 3 moves. The result is the path of
occupants, deepest first, with the free position. -/
def relocate (q src : Nat) : Nat → List (RNode × Nat) → List Nat → Nat → State → Option (List (Nat × Bytes) × Nat) × State
  | 0, _, _, _, s => (none, s)
  | _ + 1, [], _, _, s => (none, s)
  | fuel + 1, (n, b) :: rest, seen, reads, s =>
    if seen.contains b then relocate q src fuel rest seen reads s
    else if 64 ≤ reads then (none, s)
    else
      let x := readBucket s q src b
      match freePos x.1 with
      | some f => (some (n.path, f), x.2.2)
      | none =>
        let more := if n.path.length < 3 then
            (x.1.filter (fun e => movable e.2)).flatMap (fun e => (hbmChoices s (keyOf e.2)).map (fun h => (({ path := e :: n.path } : RNode), h)))
          else []
        relocate q src fuel (rest ++ more) (b :: seen) (reads + 1) x.2.2

/-- The moves of a relocation, deepest first; each occupant goes to the position that the one before it has left. -/
def doMoves (q src : Nat) : List (Nat × Bytes) → Nat → State → Nat × State
  | [], f, s => (f, s)
  | (loc, e) :: r, f, s =>
    let s1 := clearLoc (putLoc s q src f e) q src loc
    doMoves q src r loc (tabCnt s1 0x0B0 1)

/-- A free position for a key, by R182 with relocation, and the locations that the relocation has written. -/
def findPlace (s : State) (q src : Nat) (k : Bytes) : Option Nat × List Nat × State :=
  let hs := hbmChoices s k
  let r := readBuckets q src hs.zipIdx [] s
  match r.1.find? (fun e => !eFlag e.2.2 0) with
  | some (_, loc, _) => (some loc, [], r.2.2)
  | none =>
    let front := (r.1.filter (fun e => movable e.2.2)).flatMap (fun e =>
      (hbmChoices s (keyOf e.2.2)).map (fun h => (({ path := [(e.2.1, e.2.2)] } : RNode), h)))
    match relocate q src 4096 front (hs ++ []) 0 r.2.2 with
    | (some (path, f), s1) =>
      let y := doMoves q src path f s1
      (some y.1, f :: path.map (·.1), y.2)
    | (none, s1) => (none, [], s1)

/-- A free position for a key. -/
def findPosition (s : State) (q src : Nat) (k : Bytes) : Option Nat × State :=
  let r := findPlace s q src k
  (r.1, r.2.2)

/-! ### Eviction (R183) -/

/-- The eligible victims of a key: learned entries of its domain, NEW and OLD clear, in its four buckets. -/
def victims (s : State) (q src : Nat) (k : Bytes) : List (Nat × Bytes) × State :=
  let r := readBuckets q src (hbmChoices s k).zipIdx [] s
  ((r.1.filter (fun e => eFlag e.2.2 0 && eFlag e.2.2 2 && !eFlag e.2.2 4 && !eFlag e.2.2 5 && keyDomain (keyOf e.2.2) == keyDomain k)).map (·.2), r.2.2)

/-- An entry's age (R185). -/
def ageOf (s : State) (e : Bytes) : Nat := (s.table.ageClock % 65536 + 65536 - leAt e 20 2) % 65536

/-- The victim with the largest age, the first of equals. -/
def oldest (s : State) : List (Nat × Bytes) → Option (Nat × Bytes)
  | [] => none
  | v :: r =>
    match oldest s r with
    | none => some v
    | some w => if ageOf s w.2 ≤ ageOf s v.2 then some v else some w

/-- The victim that a domain's EVICT setting names; a random choice is a free value. -/
def chooseVictim (s : State) (k : Bytes) : Option (Nat × Bytes) × State :=
  let ev := byteAt (domLearn s.plan.now (keyDomain k)) 1
  if ev = 0 then (none, s)
  else
    let v := victims s 3 0 k
    if ev = 2 ∧ isReady v.2 4 ∧ v.1 ≠ [] then
      let f := drawFree v.2
      ((v.1.drop (f.1.toNat % v.1.length)).head?, f.2)
    else (oldest v.2 v.1, v.2)

end Sys2Proof.Machine
end

