-- ==== Sys2Proof/Machine/Tables.lean ====
section
/-!
DEFINITION. Learning, ageing, routines, repairs and the table commands (R176 to R197, R205, R626).
-/

namespace Sys2Proof.Machine

/-! ### Learning (R179 to R183) -/

/-- A LEARN request reaches the learn queue of 4,096 entries (R179). -/
def learnPost (s0 : State) (r : LearnReq) : State :=
  let s := tabCnt s0 0x040 1
  if 4096 ≤ s.table.learn.length then tabCnt s 0x088 1
  else { s with table := { s.table with learn := s.table.learn ++ [r], learnMax := Nat.max s.table.learnMax (s.table.learn.length + 1) } }

/-- The result bytes 24 to 31 and the PEER flag of an entry learned from a request (R180, R197). -/
def learnedResult (r : LearnReq) : Bytes × Bool :=
  match r.link with
  | none => (toLE 1 0 ++ toLE 1 (r.port % 64) ++ zeros 6, false)
  | some k => (toLE 1 5 ++ toLE 1 (r.port % 64 + 64 * (k % 4)) ++ zeros 6, true)

/-- A learned entry of a request with the present clock. -/
def learnedEntry (s : State) (r : LearnReq) : Bytes :=
  let x := learnedResult r
  keyOf r.key ++ toLE 1 (5 + 128 * b2n x.2) ++ toLE 2 (s.table.ageClock % 65536) ++ [0, 0] ++ x.1

/-- Whether a learned entry names the place of a request already. -/
def samePlace (e : Bytes) (r : LearnReq) : Bool := slice e 24 2 == slice (learnedResult r).1 0 2

/-- A change made by learning is told to the peers, unless it came from one (R197). -/
def tellPeers (s : State) (r : LearnReq) (move : Bool) : State :=
  if r.link.isSome ∨ (byteAt (domLearn s.plan.now (keyDomain r.key)) 0).testBit 1 = false then s else spanLearn s r.key r.port move

/-- One more insertion of a domain in the present rate period. -/
def rateCount (s : State) (d : Nat) : State := { s with table := { s.table with rate := tblMod 0 s.table.rate d (· + 1) } }

/-- A request whose key no entry holds (Table 6-6, from LEARN_EN downward). -/
def learnNew (s : State) (r : LearnReq) : State :=
  let d := keyDomain r.key
  let cfg := domLearn s.plan.now d
  let drop := fun (x : State) (off : Nat) => tabDom (tabCnt x off 1) d 0x08
  let evict := fun (x : State) (off : Nat) =>
    match chooseVictim x r.key with
    | (some (loc, _), y) => tellPeers (rateCount (tabDom (tabCnt (putLoc y 3 0 loc (learnedEntry y r)) 0x0A8 1) d 0x10) d) r false
    | (none, y) => drop y off
  if (byteAt cfg 0).testBit 0 = false then tabCnt s 0x078 1
  else if leAt cfg 4 4 ≤ tblGet 0 s.table.rate d then drop s 0x090
  else if quotaRefuses s d then evict s 0x098
  else
    match findPosition s 3 0 r.key with
    | (some loc, s1) => tellPeers (rateCount (tabCnt (putLoc s1 3 0 loc (learnedEntry s1 r)) 0x048 1) d) r false
    | (none, s1) => evict s1 0x0A0

/-- The decision of Table 6-6 on a request. -/
def learnDecide (s : State) (r : LearnReq) : State :=
  let p := s.plan.now
  let k := r.key
  let pin := pinnedFind (expireCache s) p k
  match pin.1 with
  | some _ => tabCnt pin.2.2 0x068 1
  | none =>
    let b := readBuckets 3 0 (hbmChoices s k).zipIdx [] pin.2.2
    match firstMatch b.1 k (p.epoch % 2) with
    | none => learnNew b.2.2 r
    | some (_, loc, e) =>
      let s1 := b.2.2
      let clock := toLE 2 (s1.table.ageClock % 65536)
      if eFlag e 2 = false then tabCnt s1 0x070 1
      else if samePlace e r then
        tabCnt (if slice e 20 2 = clock then s1 else putLoc s1 3 0 loc (patchBytes e 20 clock)) 0x050 1
      else if (byteAt (domLearn p (keyDomain k)) 0).testBit 2 then
        let e1 := patchBytes (patchBytes (patchBytes e 24 (slice (learnedResult r).1 0 2)) 20 clock) 19
          (toLE 1 (byteAt e 19 % 128 + 128 * b2n (learnedResult r).2))
        tellPeers (tabCnt (putLoc s1 3 0 loc e1) 0x058 1) r true
      else tabCnt s1 0x060 1

/-- LEARN_APPLY: the learn unit handles the oldest request. -/
def execLearnApply (s : State) : Res :=
  .next (match s.table.learn with
    | [] => s
    | r :: rest =>
      if recovering s (unitLoc 22 0) ∨ isReady s 10 = false then s
      else learnDecide { s with table := { s.table with learn := rest } } r)

/-- LEARN_RATE_PERIOD: a period of 1,600,000 ticks ends. -/
def execLearnRatePeriod (s0 : State) : Res :=
  .next (let s := advanceTo s0 (s0.table.rateFrom + 1600000)
    { s with table := { s.table with rate := [], rateFrom := s.now } })

/-! ### Ageing (R185, R186) -/

/-- AGE_TICK_MS of the plan in force. -/
def ageTickMs (s : State) : Nat := leAt (tablePre s.plan.now) 40 4
/-- SWEEP_MS of the plan in force. -/
def sweepMs (s : State) : Nat := leAt (tablePre s.plan.now) 44 4

/-- AGE_CLOCK_TICK: the age clock advances. -/
def execAgeClockTick (s0 : State) : Res :=
  .next (if isReady s0 10 = false ∨ ageTickMs s0 = 0 then s0
    else
      let s := advanceTo s0 (s0.table.ageAt + msTicks (ageTickMs s0))
      { s with table := { s.table with ageClock := (s.table.ageClock + 1) % 65536, ageAt := s0.table.ageAt + msTicks (ageTickMs s0) } })

/-! ### Commands and routines (R191 to R195) -/

/-- The 64-byte result of Table 6-8. -/
def cmdResult (s : State) (status : Nat) (where_ : Nat := 0) (cursor : Nat := 0) (count : Nat := 0) (loc : Nat := 0) (entry : Bytes := zeros 32) : Bytes :=
  toLE 2 status ++ toLE 1 where_ ++ [0] ++ toLE 4 cursor ++ toLE 4 (cntGet s.cnt 0x40000B0 % 2 ^ 32) ++ toLE 4 count ++ toLE 4 loc ++ zeros 12 ++ entry

/-- A routine's result goes to one of those that wait for it. -/
def answerHolder (s : State) (h : RoutineHolder) (d : Bytes) (revoked : Bool) : State :=
  match h with
  | .mailbox n => replyWith (tabCnt s 0x0C0 1) n { status := leAt d 0 2, data := d, cursor := if leAt d 0 2 = ePartial then leAt d 4 4 else 0 }
  | .thread tid entry => if revoked then tabCnt s 0x0C0 1 else loadPart (tabCnt s 0x0C0 1) tid entry 0 stOk d
  | _ => s

/-- A routine ends with a status and a resume point. -/
def endRoutine (s : State) (r : Routine) (status cursor : Nat) : State :=
  let s1 := { s with table := { s.table with routines := s.table.routines.erase r } }
  r.holders.foldl (fun x h => answerHolder x h (cmdResult x status 0 cursor r.count) r.revoked) s1

/-- The differences between two tables of counts over the domains. -/
def countDiff (a b : Table Nat) : Nat :=
  ((List.range 16).map (fun d => (tblGet 0 a d - tblGet 0 b d) + (tblGet 0 b d - tblGet 0 a d))).sum

/-- A pass starts at a bucket for those who asked (R186). -/
def startPass (s : State) (hs : List RoutineHolder) (start : Nat) : State :=
  { s with table := { s.table with routines := s.table.routines ++ [{ pass := true, holders := hs, start := start, next := start }] } }

/-- Whether a pass runs. -/
def passRuns (s : State) : Bool := s.table.routines.any (·.pass)

/-- A pass has visited its last bucket: HELD and OCCUPANCY are corrected (R205), and a start that waited is taken. -/
def finishPass (s : State) (r : Routine) : State :=
  let s1 := if r.start = 0 then
      let s2 := tabCnt s 0x0C8 (countDiff s.table.held r.seen)
      { s2 with table := { s2.table with held := r.seen, occupancy := r.seenAll } }
    else s
  let s2 := endRoutine s1 r stOk 0xFFFFFFFF
  match s2.table.passWait with
  | [] => s2
  | hs => startPass { s2 with table := { s2.table with passWait := [] } } hs 0

/-- Locations of a chunk of 256 buckets that hold a byte other than zero. -/
def chunkLocs (s : State) (b : Nat) : List Nat :=
  dedupRising ((s.mem.filter (fun c => decide (locAddr (2 * b) ≤ c.1) && decide (c.1 < locAddr (2 * b) + 64 * 256))).map (fun c => (c.1 - 0x0F90000000) / 32))

/-- The entry of a location read through the SWEEP port: none when it is lost. -/
def sweepRead (s : State) (loc : Nat) : Option Bytes × State :=
  let r := readBucket s 7 1 (loc / 2)
  ((r.1.find? (fun e => e.1 == loc)).map (·.2), r.2.2)

/-- Whether the plan store holds, at a location, what an entry's flags claim (R205). -/
def honoured (s : State) (loc : Nat) (e : Bytes) : Bool :=
  !(eFlag e 1 || eFlag e 4 || eFlag e 5) || s.table.marked.contains loc || ((tblFind s.table.conf loc).map keyOf == some (keyOf e))

/-- A pass at one location (R186, R205). -/
def passAt (s0 : State) (loc : Nat) : State :=
  match sweepRead s0 loc with
  | (none, s) => s
  | (some e, s) =>
    if eFlag e 0 = false then s
    else
      let d := keyDomain (keyOf e)
      let lim := leAt (domLearn s.plan.now d) 2 2
      if honoured s loc e = false then tabCnt (clearLoc s 7 1 loc) 0x0C8 1
      else if eFlag e 2 ∧ lim ≠ 0 ∧ lim ≤ ageOf s e then tabDom (tabCnt (clearLoc s 7 1 loc) 0x0B8 1) d 0x18
      else if 32768 ≤ ageOf s e then putLoc s 7 1 loc (patchBytes e 20 (toLE 2 ((s.table.ageClock % 65536 + 65536 - 32767) % 65536)))
      else s

/-- What a pass counts at one location. -/
def seenAt (s : State) (loc : Nat) (r : Routine) : Routine :=
  let e := entryAt s loc
  { r with
    seen := if countsHeld e then tblMod 0 r.seen (keyDomain (keyOf e)) (· + 1) else r.seen
    seenAll := r.seenAll + b2n (eFlag e 0) }

/-- Whether FLUSH_BY_PORT deletes an entry. -/
def flushHits (cmd : Bytes) (e : Bytes) : Bool :=
  let dom := byteAt cmd 2
  let byLink := (byteAt cmd 3).testBit 3
  let incl := (byteAt cmd 3).testBit 2
  eFlag e 0 && !eFlag e 1 && (dom == 0xFF || keyDomain (keyOf e) == dom) &&
    (eFlag e 2 || (incl && !eFlag e 3)) &&
    (if byLink then byteAt e 24 % 16 == 5 && byteAt e 25 / 64 == byteAt cmd 8 else byteAt e 24 % 16 == 0 && byteAt e 25 % 64 == byteAt cmd 8)

/-- A flush at one location: the state after, and the entries deleted. -/
def flushAt (cmd : Bytes) (x : State × Nat) (loc : Nat) : State × Nat :=
  match sweepRead x.1 loc with
  | (some e, s) => if flushHits cmd e then (clearLoc s 7 1 loc, x.2 + 1) else (s, x.2)
  | (none, s) => (s, x.2)

/-- The link flushes that wait take a free routine (R475). -/
def startFlushes (s : State) : State :=
  match s.table.flushes with
  | [] => s
  | (link, d) :: rest =>
    if 4 ≤ s.table.routines.length then s
    else
      let cmd := toLE 2 5 ++ toLE 1 d ++ toLE 1 8 ++ zeros 4 ++ toLE 1 link ++ zeros 55
      { s with table := { s.table with flushes := rest, routines := s.table.routines ++ [{ pass := false, cmd := cmd, holders := [.span link] }] } }

/-- One chunk of a routine (R194). -/
def chunkRun (s : State) (r : Routine) : State :=
  let b := r.next
  let locs := chunkLocs s b
  let nb := Nat.min (b - b % 256 + 256) 16777216
  let here := locs.filter (fun l => decide (l / 2 < nb))
  let put (x : State) (r2 : Routine) : State := { x with table := { x.table with routines := x.table.routines.map (fun q => if q = r then r2 else q) } }
  if r.pass then
    let s1 := here.foldl passAt s
    let r2 := { (here.foldl (fun q l => seenAt s1 l q) r) with next := nb }
    let s2 := put s1 r2
    if nb = 16777216 then startFlushes (finishPass s2 r2) else s2
  else
    let x := here.foldl (flushAt r.cmd) (s, 0)
    let r2 := { r with next := nb, count := r.count + x.2 }
    let s2 := put x.1 r2
    if nb = 16777216 then startFlushes (endRoutine s2 r2 stOk 0xFFFFFFFF) else s2

/-- ROUTINE_CHUNK: routine `i` in order of start processes its next chunk, or stops there when its holder is revoked. -/
def execRoutineChunk (i : Fin 4) (s : State) : Res :=
  .next (match (s.table.routines.drop i.val).head? with
    | none => s
    | some r =>
      if recovering s (unitLoc 22 0) then s
      else if r.revoked then startFlushes (endRoutine s r sAbandoned (2 * r.next))
      else chunkRun s r)

/-- AGEING_PASS_START: a pass falls due every SWEEP_MS (R186); it waits while one runs or while 4 routines do. -/
def execAgeingPassStart (s0 : State) : Res :=
  .next (if isReady s0 10 = false ∨ sweepMs s0 = 0 then s0
    else
      let s1 := advanceTo s0 (s0.table.sweepAt + msTicks (sweepMs s0))
      let s := { s1 with table := { s1.table with sweepAt := s0.table.sweepAt + msTicks (sweepMs s0) } }
      if passRuns s then { s with table := { s.table with passWait := s.table.passWait ++ [.engine] } }
      else if 4 ≤ s.table.routines.length then s
      else startPass s [.engine] 0)

/-- Thread commands that hold one of the slots 8 to 63 (R191). -/
def threadSlotsUsed (s : State) : Nat :=
  ((s.core.threads.map (fun t => (t.2.sb.filter (fun e => match e.op with | .tcmd _ _ => true | _ => false)).length))).sum

/-- The first valid entry of NEXT, over at most `fuel` buckets (R193). -/
def nextScan (dom b : Nat) : Nat → Nat → State → Option (Nat × Bytes) × Nat × State
  | 0, loc, s => (none, loc, s)
  | fuel + 1, loc, s =>
    if 33554432 ≤ loc then (none, 33554432, s)
    else
      let r := readBucket s 3 0 (loc / 2)
      match r.1.find? (fun e => decide (loc ≤ e.1) && eFlag e.2 0 && visible e.2 b && (dom == 0xFF || keyDomain (keyOf e.2) == dom)) with
      | some e => (some e, e.1 + 1, r.2.2)
      | none => nextScan dom b fuel (loc - loc % 2 + 2) r.2.2

/-- A position as NEXT gives it. -/
def asCursor (loc : Nat) : Nat := if 33554432 ≤ loc then 0xFFFFFFFF else loc

/-- The visible HBM entry of a key, as the commands of R193 see it. -/
def hbmFind (s : State) (k : Bytes) : Option (Nat × Nat × Bytes) × Bool × State :=
  let b := readBuckets 3 0 (hbmChoices s k).zipIdx [] s
  (firstMatch b.1 k (s.plan.now.epoch % 2), b.2.1, b.2.2)

/-- A command-inserted entry; its AGE is a value the spec leaves open. -/
def commandEntry (s : State) (cmd k : Bytes) : Bytes × State :=
  let f := drawFree s
  (k ++ toLE 1 (1 + 8 * b2n ((byteAt cmd 3).testBit 0)) ++ toLE 2 (f.1.toNat % 65536) ++ [0, 0] ++ slice cmd 56 8, f.2)

/-- SEARCH. -/
def cmdSearch (s : State) (k : Bytes) : Bytes × State :=
  let r := searchKey s s.plan.now 3 0 k false
  match r.1 with
  | some f => (cmdResult r.2.2.2 stOk (Nat.min f.where_ 3) 0 0 f.loc f.entry, r.2.2.2)
  | none => (cmdResult r.2.2.2 (if r.2.1 then eParity else eNotFound), r.2.2.2)

/-- NEXT. -/
def cmdNext (s : State) (dom : Nat) (cmd : Bytes) : Bytes × State :=
  let c := leAt cmd 4 4
  let r := nextScan dom (s.plan.now.epoch % 2) 4096 c s
  match r.1 with
  | some e => (cmdResult r.2.2 stOk 3 (asCursor r.2.1) 0 e.1 e.2, r.2.2)
  | none => (if 33554432 ≤ r.2.1 then cmdResult r.2.2 eNotFound 0 0xFFFFFFFF else cmdResult r.2.2 stOk 0 r.2.1, r.2.2)

/-- INSERT. -/
def cmdInsert (s : State) (cmd k : Bytes) : Bytes × State :=
  let kind := byteAt k 16 % 16
  let pin := pinnedFind s s.plan.now k
  if kind = 0 ∨ 4 < kind then (cmdResult s eArgs, s)
  else if pin.1.isSome then (cmdResult pin.2.2 eRights, pin.2.2)
  else
    let h := hbmFind pin.2.2 k
    let c := commandEntry h.2.2 cmd k
    match h.1 with
    | some (_, loc, e) =>
      if eFlag e 1 then (cmdResult h.2.2 eRights, h.2.2)
      else if (byteAt cmd 3).testBit 1 = false then (cmdResult h.2.2 eArgs, h.2.2)
      else
        let s1 := putLoc c.2 3 0 loc (patchBytes c.1 19 (toLE 1 (byteAt c.1 19 + (byteAt e 19 / 16 % 8) * 16)))
        (cmdResult s1 stOk 3 0 0 loc (entryAt s1 loc), s1)
    | none =>
      if quotaRefuses h.2.2 (keyDomain k) then (cmdResult h.2.2 eTableFull 0 0 1, h.2.2)
      else
        match findPosition c.2 3 0 k with
        | (some loc, s1) =>
          let s2 := putLoc s1 3 0 loc c.1
          (cmdResult s2 stOk 3 0 0 loc (entryAt s2 loc), s2)
        | (none, s1) => (cmdResult s1 eTableFull, s1)

/-- DELETE. -/
def cmdDelete (s : State) (k : Bytes) : Bytes × State :=
  let pin := pinnedFind s s.plan.now k
  if pin.1.isSome then (cmdResult pin.2.2 eRights, pin.2.2)
  else
    let h := hbmFind pin.2.2 k
    match h.1 with
    | some (_, loc, e) =>
      if eFlag e 1 then (cmdResult h.2.2 eRights, h.2.2)
      else
        let s1 := clearLoc h.2.2 3 0 loc
        (cmdResult s1 stOk 3 0 1 loc e, s1)
    | none => (cmdResult h.2.2 eNotFound, h.2.2)

/-- INVALIDATE. -/
def cmdInvalidate (s0 : State) (cmd k : Bytes) : Bytes × State :=
  let s := expireCache s0
  let first := leAt cmd 16 4
  let n := leAt cmd 12 4
  let drop := fun (f : CacheLine → Bool) =>
    let s1 := { s with table := { s.table with cache := s.table.cache.filter (fun l => !f l) } }
    (cmdResult s1 stOk 0 0 (s.table.cache.filter f).length, s1)
  if (byteAt cmd 3).testBit 4 then drop (fun l => keyOf l.data == k)
  else if n = 0 ∨ 16777216 < n ∨ 16777216 < first + n then (cmdResult s eArgs, s)
  else drop (fun l => decide (first ≤ l.loc / 2) && decide (l.loc / 2 < first + n))

/-- FLUSH_BY_PORT and AGE_NOW start a routine, unless 4 run; a pass waits for the one that runs. -/
def cmdRoutine (s : State) (pass : Bool) (h : RoutineHolder) (dom : Nat) (cmd : Bytes) : Option Bytes × State :=
  let b := leAt cmd 4 4 / 2
  if 16777216 ≤ b then (some (cmdResult s eArgs), s)
  else if pass && passRuns s then (none, { s with table := { s.table with passWait := s.table.passWait ++ [h] } })
  else if 4 ≤ s.table.routines.length then (some (cmdResult s eBusy), s)
  else if pass then (none, startPass s [h] b)
  else
    (none, { s with table := { s.table with routines := s.table.routines ++
      [{ pass := false, cmd := patchBytes cmd 2 (toLE 1 dom), holders := [h], start := b, next := b }] } })

/-- A table command of a mailbox, or of a thread that serves domain `d`: its result, or none while its routine runs
(R192, R193). -/
def tableCommand (s : State) (h : RoutineHolder) (d : Option Nat) (cmd : Bytes) : Option Bytes × State :=
  let op := leAt cmd 0 2
  let dom := match d with
    | some x => if x = 0 then byteAt cmd 2 else x
    | none => byteAt cmd 2
  let k := withDomain (slice cmd 32 19) dom
  let now := fun (r : Bytes × State) => (some r.1, tabCnt r.2 0x0C0 1)
  if op = 0 ∨ 8 < op then now (cmdResult s eArgs, s)
  else if op = 8 then now (cmdResult s eRights, s)
  else if 15 < dom ∧ op ≠ 6 ∧ op ≠ 7 ∧ ¬ (dom = 0xFF ∧ (op = 2 ∨ op = 5)) then now (cmdResult s eArgs, s)
  else if op = 1 then now (cmdSearch s k)
  else if op = 2 then now (cmdNext s dom cmd)
  else if op = 3 then now (cmdInsert s cmd k)
  else if op = 4 then now (cmdDelete s k)
  else if op = 6 then now (cmdInvalidate s cmd k)
  else
    match cmdRoutine s (op == 7) h dom cmd with
    | (some r, s1) => (some r, tabCnt s1 0x0C0 1)
    | x => x

/-- A table command by mailbox: its record's OP and reserved fields are checked first (R448). -/
def mailboxTable (s : State) (mb op : Nat) (cmd : Bytes) : State :=
  whenReady s mb 10 (fun s =>
    if leAt cmd 0 2 ≠ op ∨ cmd.length ≠ 64 ∨ byteAt cmd 3 / 32 ≠ 0 ∨ !allZero (slice cmd 9 3) ∨ !allZero (slice cmd 20 12) then reply s mb eArgs
    else
      match tableCommand s (.mailbox mb) none cmd with
      | (some r, s1) => reply s1 mb (leAt r 0 2) r
      | (none, s1) => s1)

/-- TABLE_STATUS (R626). -/
def tableStatus (s : State) : Bytes :=
  toLE 8 s.table.occupancy ++ toLE 8 (cntGet s.cnt 0x40000B0) ++ toLE 2 s.table.ageClock ++
    toLE 1 (b2n s.table.seeds.isSome + 2 * b2n s.table.drawn) ++ toLE 1 s.table.routines.length ++ zeros 4 ++
    (List.range 16).flatMap (fun d => toLE 4 (tabHeld s d))

/-! ### Repairs, scrubbing and cleanup (R177, R188 to R190) -/

/-- CACHE_LINE_EXPIRE: the line that has been there longest is invalidated, 1 ms after its fill. -/
def execCacheLineExpire (s0 : State) : Res :=
  .next (match s0.table.cache with
    | [] => s0
    | l :: r =>
      let old := r.foldl (fun (a : CacheLine) m => if m.filled < a.filled then m else a) l
      expireCache (advanceTo s0 (old.filled + 1600000)))

/-- TABLE_ENTRY_REPAIR: a lost entry is rewritten from the plan store, or cleared (R189). -/
def execTableEntryRepair (s : State) : Res :=
  .next (match s.table.repairs with
    | [] => s
    | loc :: _ =>
      match tblFind s.table.conf loc with
      | some e => putLoc s 7 1 loc e
      | none => clearLoc s 7 1 loc)

/-- PINNED_SCRUB: the scrubber visits every word; entries that were lost are rewritten in both copies (R190). -/
def execPinnedScrub (s : State) : Res :=
  .next (let fixed := s.table.pinnedBad
    let s1 := { s with
      table := { s.table with pinnedBad := [] }
      fault := { s.fault with marks := s.fault.marks.filter (fun m => !((m.loc == pinMem 0 || m.loc == pinMem 1) && fixed.contains (m.word / 4))) } }
    (s1.fault.marks.filter (fun m => m.loc == pinMem 0 || m.loc == pinMem 1)).foldl pinnedMark s1)

/-- What the plan store holds for a configured entry at a location. -/
def confSet (s : State) (loc : Nat) (e : Option Bytes) : State :=
  { s with table := { s.table with conf := match e with | some v => tblSet s.table.conf loc v | none => tblDel s.table.conf loc } }

/-- Cleanup of one marked location: OLD entries go, and NEW clears (R188). -/
def cleanupAt (s : State) (loc : Nat) : State :=
  let e := entryAt s loc
  if eFlag e 0 = false then s
  else if eFlag e 5 then confSet (clearLoc s 7 1 loc) loc none
  else if eFlag e 4 then
    let v := patchBytes e 19 (toLE 1 (byteAt e 19 - 16))
    confSet (putLoc s 7 1 loc v) loc (some v)
  else s

/-- Cleanup of every marked location. -/
def cleanupAll (s : State) : State :=
  (fun (x : State) => { x with table := { x.table with marked := [] } }) (s.table.marked.foldl cleanupAt s)

/-- CONFIG_CLEANUP: once the old epoch's MAX_RESIDENCE has elapsed after the instant, the marked entries are cleaned
(R188). Marks without an old epoch are those of a commit that has not switched. -/
def execConfigCleanup (s0 : State) : Res :=
  .next (match s0.plan.old, s0.table.marked with
    | some o, _ :: _ => cleanupAll (advanceTo s0 (s0.plan.instTick + usTicks o.maxRes))
    | _, _ => s0)

end Sys2Proof.Machine
end

