-- ==== Sys2Proof/Machine/ThreadOps.lean ====
section
/-!
DEFINITION. Threads, their time, their results in flight, their events, and the translation and rights of their
accesses (chapters "Core pipeline and timing" and "Threads, dispatch and events").
-/

namespace Sys2Proof.Machine

/-! ### Access to the state -/

/-- A thread by THREAD_ID. -/
def getTh (s : State) (t : Nat) : Thread := tblGet {} s.core.threads t
/-- The state with a thread replaced. -/
def setTh (s : State) (t : Nat) (v : Thread) : State := { s with core := { s.core with threads := tblSet s.core.threads t v } }
/-- The state with a thread changed. -/
def modTh (s : State) (t : Nat) (f : Thread → Thread) : State := setTh s t (f (getTh s t))
/-- A cluster. -/
def getCl (s : State) (n : Nat) : Cluster := tblGet {} s.core.clusters n
/-- The state with a cluster changed. -/
def modCl (s : State) (n : Nat) (f : Cluster → Cluster) : State :=
  { s with core := { s.core with clusters := tblMod {} s.core.clusters n f } }
/-- A coprocessor of a core: 0 Scrim, 1 Sealer. -/
def getCop (s : State) (u k : Nat) : Copro := tblGet {} s.core.copros (2 * u + k)
/-- The state with a coprocessor changed. -/
def modCop (s : State) (u k : Nat) (f : Copro → Copro) : State :=
  { s with core := { s.core with copros := tblMod {} s.core.copros (2 * u + k) f } }
/-- A core counter (Table 9-7). -/
def coreCnt (s : State) (tid off n : Nat) : State := { s with cnt := cntAdd s.cnt (0x7000000 + 0x1000 * tidUnit tid + off) n }
/-- A dispatcher counter (Table 10-11). -/
def dispCnt (s : State) (n off k : Nat) : State := { s with cnt := cntAdd s.cnt (0x8000000 + 0x1000 * n + off) k }
/-- A coprocessor counter (Table 13-13). -/
def copCnt (s : State) (tid off : Nat) : State := { s with cnt := cntAdd s.cnt (0x3F00000 + 0x100 * tidUnit tid + off) 1 }

/-! ### Slot tables (R293 to R295) -/

/-- The plan whose slot tables are in force at a tick. -/
def slotPlanAt (s : State) (tick : Nat) : PlanCopy :=
  match s.core.slotSwitchAt with
  | some at_ => if at_ ≤ tick then s.plan.now else s.plan.of s.core.slotEpoch
  | none => s.plan.of s.core.slotEpoch

/-- Whether a thread holds the position of a tick (R293). -/
def holdsTick (s : State) (tid tick : Nat) : Bool :=
  position (slotPlanAt s tick) (tidUnit tid) ((tick - s.core.base) % 32) == tidThr tid

/-- The first tick from `a` on at which a thread holds the position. -/
def nextPos (s : State) (tid a : Nat) : Option Nat := ((List.range 64).map (a + ·)).find? (holdsTick s tid)

/-- How many of a thread's positions lie in `[a, b)`. -/
def countPos (s : State) (tid a b : Nat) : Nat := ((List.range (b - a)).filter (fun i => holdsTick s tid (a + i))).length

/-- The 16-thread configuration, in which waiting threads block (Table 10-1). -/
def blocks (s : State) (tid : Nat) : Bool := coreThreads (slotPlanAt s s.now) (tidUnit tid) == 16

/-! ### Events (R313) -/

/-- The bits of EVF that are sticky. -/
def stickyMask : Nat := 0x00FFE016
/-- A flag of a thread sets in the present tick. -/
def setFlag (s : State) (tid bit : Nat) : State :=
  modTh s tid (fun t => { t with evf := if stickyMask.testBit bit then setBit t.evf bit else t.evf, setAt := tblSet t.setAt bit s.now })
/-- A fault reaches a thread: FAULT sets, and FAULT_INFO keeps the first (R316, Table 10-4). -/
def raiseFault (s : State) (tid status reason detail : Nat) : State :=
  modTh s tid (fun t =>
    if t.evf.testBit 17 then { t with faultInfo := t.faultInfo - bits t.faultInfo 31 24 * 2 ^ 24 + satTo 255 (bits t.faultInfo 31 24 + 1) * 2 ^ 24 }
    else { t with evf := setBit t.evf 17, setAt := tblSet t.setAt 17 s.now, faultInfo := status % 65536 + reason % 256 * 65536 + detail % 2 ^ 32 * 2 ^ 32 })

/-- A thread's delay-list entries. -/
def timersOf (s : State) (tid : Nat) : List TimerEnt := (getCl s (tidCluster tid)).timers.filter (fun e => e.tid = tid)
/-- The messages of a thread's channel. -/
def chanOf (t : Thread) (k : Nat) : List (W64 × Option Nat) := tblGet [] t.chans k
/-- Whether the condition of an event flag holds now. -/
def flagNow (s : State) (tid bit : Nat) : Bool :=
  let t := getTh s tid
  if bit = 0 then t.shadow.isSome
  else if bit = 3 then (timersOf s tid).any (fun e => e.due && !e.sleep)
  else if 5 ≤ bit ∧ bit ≤ 12 then !(chanOf t (bit - 5)).isEmpty
  else t.evf.testBit bit
/-- EVF at the start of tick `p`: a flag that set in tick s counts from s + 1 (R313). -/
def evfAt (s : State) (tid p : Nat) : Nat :=
  ((List.range 24).map (fun b => if flagNow s tid b && decide (tblGet 0 (getTh s tid).setAt b < p) then 2 ^ b else 0)).sum
/-- The armed events at the start of tick `p`; FAULT is always armed (R314). -/
def armedAt (s : State) (tid p : Nat) : Nat := evfAt s tid p &&& ((getTh s tid).evm ||| 0x20000)

/-! ### Registers -/

/-- A register as an operand; B is zero-extended. -/
def getReg (t : Thread) (r : Reg) : W64 :=
  match r with
  | .a => t.a
  | .x => t.x
  | .y => t.y
  | .b => t.b.setWidth 64
  | .p n => tblGet 0 t.p n
/-- A write of a register; B keeps 8 bits and a pointer 48 (R355). -/
def setReg (t : Thread) (r : Reg) (v : W64) : Thread :=
  match r with
  | .a => { t with a := v }
  | .x => { t with x := v }
  | .y => { t with y := v }
  | .b => { t with b := v.setWidth 8 }
  | .p n => { t with p := tblSet t.p n (v &&& 0xFFFFFFFFFFFF) }
/-- F (Table 10-3). -/
def fWord (t : Thread) : Nat :=
  b2n t.fz + 2 * b2n t.fn + 4 * b2n t.fc + 8 * b2n t.fv + 16 * b2n t.fe + 32 * b2n t.mode + 64 * b2n t.ie + 128 * b2n t.ex
/-- Whether the pool of a thread has an EVENT_PC. -/
def hasEventPc (t : Thread) : Bool := match t.bind with | some b => b.eventPc != 0xFFFFFFFF | none => false
/-- F.IE stays 0 when the pool has no EVENT_PC. -/
def setIe (t : Thread) (v : Bool) : Thread := { t with ie := v && hasEventPc t }
/-- A write to a status register (Table 10-4), in the tick `land`. -/
def setStatus (t : Thread) (n land : Nat) (v : W64) : Thread :=
  match n with
  | 0 =>
    let clr := (List.range 24).filter (fun b => v.getLsbD b && stickyMask.testBit b && decide (tblGet 0 t.setAt b < land))
    { t with evf := clr.foldl clearBit t.evf, faultInfo := if clr.contains 17 then 0 else t.faultInfo }
  | 1 => { t with evm := v.toNat % 2 ^ 32 ||| 0x20000 }
  | 2 => { t with epc := v.toNat % 2 ^ 24 }
  | 3 => { t with ef := v.toNat % 2 ^ 16 }
  | 4 => { t with elc := v.toNat % 2 ^ 16 }
  | _ => t
/-- A read of a status register. -/
def getStatus (s : State) (tid p n : Nat) : W64 :=
  let t := getTh s tid
  BitVec.ofNat 64 (match n with
    | 0 => evfAt s tid p
    | 1 => t.evm
    | 2 => t.epc
    | 3 => t.ef
    | 4 => t.elc
    | 5 => t.ecause
    | 6 => t.einfo
    | 7 => t.eaddr
    | 8 => t.faultInfo
    | 9 => tid
    | 10 => t.epoch
    | 11 => (timersOf s tid).length % 1024
    | _ => 0)

/-! ### Results in flight (R269 to R272) -/

/-- A result is written, in the tick `land`. -/
def applyDst (t : Thread) (land : Nat) (d : Dst) : Thread :=
  match d with
  | .reg r v => setReg t r v
  | .flags z n c v => { t with fz := z, fn := n, fc := c, fv := v }
  | .fmov v => setIe { t with fz := v.getLsbD 0, fn := v.getLsbD 1, fc := v.getLsbD 2, fv := v.getLsbD 3, fe := v.getLsbD 4 } (v.getLsbD 6)
  | .ebit v => { t with fe := v }
  | .zbit v => { t with fz := v }
  | .bytes off d => { t with mem := memWrite t.mem off d }
  | .status n v => setStatus t n land v
  | .copro _ _ _ => t

/-- Whether a coprocessor register can be written by CMOV (R383). -/
def copWritable (unit n : Nat) : Bool := if unit = 0 then n != 7 else n != 15

/-- The results that land by the end of tick `upto`, in the order of their ticks and then of issue (R270). -/
def landTh (s : State) (tid upto : Nat) : State :=
  let t := getTh s tid
  match t.pend with
  | [] => s
  | _ =>
    let go := (t.pend.filter (fun e => decide (e.land ≤ upto))).foldl (fun l e => insertBy (·.land) e l) []
    let t1 := go.foldl (fun (x : Thread) e => applyDst x e.land e.dst) { t with pend := t.pend.filter (fun e => !decide (e.land ≤ upto)) }
    go.foldl (fun x e =>
      match e.dst with
      | .copro k n v =>
        if (getCop x (tidUnit tid) k).owner = some tid ∧ copWritable k n then modCop x (tidUnit tid) k (fun c => { c with regs := tblSet c.regs n v }) else x
      | _ => x) (setTh s tid t1)

/-- The outcome of an operation in the cluster memory reaches its scoreboard entry. -/
def gotOp (s : State) (tid entry : Nat) (v : W64) : State :=
  modTh s tid (fun t => { t with sb := t.sb.map (fun e =>
    if e.id = entry then
      { e with op := match e.op with
        | .tas a r _ => .tas a r (some v)
        | .sc a f r w _ => .sc a f r w (some v)
        | x => x }
    else e) })

/-- A store to memory other than HBM takes effect: reservations on its granules are lost (Table 12-6). -/
def plainStore (s : State) (a : Nat) (d : Bytes) : State := dropResv { s with mem := memWrite s.mem a d } a d.length

/-- A thread's reservation ends. -/
def loseResv (s : State) (tid : Nat) : State :=
  if (getTh s tid).resv.isSome then modTh s tid (fun t => { t with resv := none }) else s

/-- Whether a thread's reservation covers an address at a tick (R371). -/
def resvCovers (t : Thread) (a tick : Nat) : Bool :=
  match t.resv with
  | some (g, at_) => g == lineOf a && decide (tick < at_ + 1024)
  | none => false

/-- One operation on a cluster's memory or shared registers (R272, R323, R338, R370). -/
def applyOp (s : State) (n : Nat) (o : ClOp) : State :=
  let sh (r : Nat) : W64 := tblGet 0 (getCl s n).shreg r
  let put (x : State) (r : Nat) (v : W64) : State := modCl x n (fun c => { c with shreg := tblSet c.shreg r v })
  let back (x : State) (r : Reg) (v : W64) : State := modTh x o.tid (fun t => { t with pend := t.pend ++ [{ land := o.land + 2, dst := .reg r v }] })
  match o.kind with
  | .store a d => plainStore s a d
  | .tas a e => gotOp (plainStore s a [1]) o.tid e ((memGet s.mem a).setWidth 64)
  | .sc a d e =>
    let ok := resvCovers (getTh s o.tid) a o.land
    let s1 := loseResv s o.tid
    gotOp (if ok then plainStore s1 a d else s1) o.tid e (if ok then 0 else 1)
  | .srst r v => put s r v
  | .sradd r v d => back (put s r (sh r + v)) d (sh r)
  | .srswap r v d => back (put s r v) d (sh r)

/-- The operations of a cluster that land by the end of tick `upto`, by tick and then by core and thread. -/
def landCl (s : State) (n upto : Nat) : State :=
  let ops := (getCl s n).ops
  match ops.filter (fun o => decide (o.land ≤ upto)) with
  | [] => s
  | go =>
    let ordered := go.foldl (fun l o => insertBy (fun x => x.land * 4096 + x.tid) o l) []
    ordered.foldl (fun x o => applyOp x n o) (modCl s n (fun c => { c with ops := ops.filter (fun o => !decide (o.land ≤ upto)) }))

/-- The state as stage 3 of a word issued at tick `p` reads it (R269). -/
def atStage3 (s : State) (tid p : Nat) : State := landTh (landCl (advanceTo s p) (tidCluster tid) (p + 1)) tid (p + 1)

/-- A result of a thread lands at tick `land`. -/
def pendTh (s : State) (tid land : Nat) (d : Dst) : State := modTh s tid (fun t => { t with pend := t.pend ++ [{ land := land, dst := d }] })

/-- An operation of a thread reaches its cluster at tick `land`. -/
def clusterOp (s : State) (tid land : Nat) (k : ClKind) : State :=
  modCl s (tidCluster tid) (fun c => { c with ops := c.ops ++ [{ land := land, tid := tid, kind := k }] })

/-! ### Addresses and rights (R283, R284) -/

/-- An exception: its cause (Table 10-9) and EADDR. -/
structure Exc where
  cause : Nat
  eaddr : Nat := 0
  deriving DecidableEq, Repr, Inhabited

/-- ILLEGAL. -/
def excIllegal : Exc := { cause := 3 }

/-- Where an access lands. -/
inductive Place where
  /-- Bank 0. -/
  | priv (off : Nat)
  /-- The thread's own cluster's shared memory. -/
  | own (addr : Nat)
  /-- A long access. -/
  | far (addr : Nat)
  deriving DecidableEq, Repr, Inhabited

/-- The end of the mapped area of bank 0 that holds an offset (Table 9-5). -/
def privEnd (off : Nat) : Option Nat :=
  if off < 0x1000 then some 0x1000 else if off < 0x1100 then some 0x1100 else if off < 0x1140 then some 0x1140
  else if off < 0x1180 then some 0x1180 else none

/-- The first forbidden offset of `n` bytes of bank 0 (check 1). -/
def privBad (off n : Nat) : Option Nat :=
  match privEnd off with
  | none => some off
  | some e => if off + n ≤ e then none else some e

/-- A bank-form EADDR (Table 10-4). -/
def bankAddr (bank off : Nat) : Nat := bank * 2 ^ 48 + off % 65536

/-- The plan whose tables translate a thread's accesses (R291). -/
def planOfTh (s : State) (t : Thread) : PlanCopy := match t.bind with | some b => s.plan.of b.epoch | none => s.plan.now

/-- Check 3 on an internal range: the first forbidden byte; a peer window is judged by the peer's map as well (R479). -/
def rangeBad (a n : Nat) : Option Nat :=
  match outOfRange a n with
  | some b => some b
  | none =>
    match regionOf a with
    | some (.span _, lo, _) => (outOfRange (a - lo) n).map (lo + ·)
    | _ => none

/-- Check 6 on an internal range: the first forbidden byte. -/
def mapBad (a n : Nat) (write : Bool) : Option Nat :=
  match regionOf a with
  | some (.span _, lo, _) => (forbidden (a - lo) n write).map (lo + ·)
  | _ => forbidden a n write

/-- Checks 3, 5 and 6 on an internal range, and where it lies. -/
def placeOf (tid a n : Nat) (write : Bool) (rights : Nat) : Except Exc Place :=
  match rangeBad a n with
  | some b => .error { cause := 1, eaddr := b }
  | none =>
    if rights.testBit (b2n write) = false then .error { cause := 2, eaddr := a }
    else
      match mapBad a n write with
      | some b => .error { cause := 2, eaddr := b }
      | none =>
        match regionOf a with
        | some (.cluster c, _, _) => if c = tidCluster tid then .ok (.own a) else .ok (.far a)
        | _ => .ok (.far a)

/-- A bank access of `n` bytes (checks 1 to 3, 5 and 6). -/
def resolveBank (s : State) (tid bank off n : Nat) (write : Bool) : Except Exc Place :=
  let t := getTh s tid
  if bank = 0 then
    match privBad off n with
    | some o => .error { cause := 1, eaddr := o }
    | none => .ok (.priv off)
  else
    match bankOf (planOfTh s t) ((t.bind.map (·.bankTable)).getD 0xFFFF) bank with
    | none => .error { cause := 1, eaddr := bankAddr bank off }
    | some (target, rights) =>
      if 0x10000 < off + n then .error { cause := 1, eaddr := bankAddr bank 0x10000 }
      else placeOf tid (target + off) n write rights

/-- A pointer access of `n` bytes (checks 3 to 6). -/
def resolvePtr (s : State) (tid a n : Nat) (write : Bool) : Except Exc Place :=
  let t := getTh s tid
  match rangeBad a n with
  | some b => .error { cause := 1, eaddr := b }
  | none =>
    match (regionsOf (planOfTh s t) ((t.bind.map (·.regionSet)).getD 0xFFFF)).find? (fun r => decide (r.1 ≤ a) && decide (a ≤ r.2.1)) with
    | none => .error { cause := 2, eaddr := a }
    | some (_, limit, rights) =>
      if limit < a + n - 1 then .error { cause := 1, eaddr := limit + 1 }
      else placeOf tid a n write rights

/-! ### Latencies (Table 9-3) -/

/-- Whether an access spans two aligned words. -/
def crosses (a n : Nat) : Bool := decide (8 < a % 8 + n)
/-- Load latency, and visible-after value of a store, of bank 0 and of the cluster. -/
def shortLat (pl : Place) (n : Nat) : Nat :=
  match pl with
  | .priv off => (if off < 0x1000 then 5 else 4) + b2n (crosses off n)
  | .own a => 12 + 2 * b2n (crosses a n)
  | .far _ => 0

/-- Bytes of a register in the byte order of an access (R337). -/
def storeBytes (f : LoadFmt) (v : W64) : Bytes := if f.be then toBE f.size v.toNat else toLE f.size v.toNat
/-- The value that a load gives. -/
def loadValue (f : LoadFmt) (d : Bytes) : W64 :=
  let v := if f.be then beVal d else leVal d
  if f.sx then BitVec.ofInt 64 (signedOf (8 * f.size) v) else BitVec.ofNat 64 v

/-- The bytes at a short place as a load sees them. -/
def shortRead (s : State) (tid : Nat) (pl : Place) (n : Nat) : Bytes :=
  match pl with
  | .priv off => memBytes (getTh s tid).mem off n
  | .own a => memBytes s.mem a n
  | .far a => memBytes s.mem a n

/-- A store to a short place issued at tick `p`; window words that are stored to are written back (R302). -/
def shortWrite (s : State) (tid p : Nat) (pl : Place) (d : Bytes) : State :=
  match pl with
  | .priv off =>
    let s1 := pendTh s tid (p + shortLat pl d.length + 1) (.bytes off d)
    if 0x1000 ≤ off ∧ off < 0x1100 then
      modTh s1 tid (fun t =>
        let ws := (List.range ((off % 8 + d.length + 7) / 8)).map (fun i => (off - 0x1000) / 8 + i)
        { t with stored := t.stored ++ ws.filter (fun w => !t.stored.contains w) })
    else s1
  | .own a => clusterOp s tid (p + shortLat pl d.length + 1) (.store a d)
  | .far _ => s

/-! ### Code (R278 to R282, R288) -/

/-- The set and index of a cache line's first way. -/
def icBase (u line : Nat) : Nat := 512 * u + 4 * (line % 128)
/-- The code space of a locked line that two epochs share (R281). -/
def bothSpaces : Nat := 2
/-- The cached line of a code space: its index, and the line. -/
def icFind (s : State) (u line space : Nat) : Option (Nat × ICLine) :=
  (List.range 4).findSome? (fun w =>
    match tblFind s.core.icache (icBase u line + w) with
    | some l => if l.line = line ∧ (l.space = space ∨ l.space = bothSpaces) then some (icBase u line + w, l) else none
    | none => none)
/-- The marks in a cached line. -/
def icMarks (s : State) (u ix line : Nat) : List ErrorMark :=
  s.fault.marks.filter (fun m => m.loc == { unitLoc (u / 12) (u % 12) with l3 := ix % 4 } && m.word / 8 == line % 128)

/-- The bytes of code lines from an address, as the plan store holds them; none where a line has no CODE entry. -/
def codeAt (p : PlanCopy) (a n : Nat) : Option Bytes :=
  let lines := (List.range ((a + n - 1) / 64 - a / 64 + 1)).map (fun i => codeLine p (a / 64 + i))
  if lines.all (·.isSome) then some (slice (lines.flatMap (fun l => l.getD [])) (a % 64) n) else none

/-- What a fetch of a line gives. -/
inductive Fetched where
  /-- No CODE entry. -/
  | absent
  /-- The line is not cached. -/
  | miss
  /-- The cached line has lost a word; whether it is reported already. -/
  | bad (ix : Nat) (m : ErrorMark)
  | line (d : Bytes)
  deriving DecidableEq, Repr

/-- The fetch of a line for a thread (R279, R280, R282). -/
def fetchLine (s : State) (tid line : Nat) : Fetched :=
  let t := getTh s tid
  let p := planOfTh s t
  match (t.line.toList ++ t.served).find? (fun e => e.1 == line) with
  | some (_, d) => .line d
  | none => go p
where
  /-- From the instruction cache. -/
  go (p : PlanCopy) : Fetched :=
    if (codeLine p line).isNone then .absent
    else
      match icFind s (tidUnit tid) line (p.epoch % 2) with
      | none => .miss
      | some (ix, l) =>
        match (icMarks s (tidUnit tid) ix line).find? (fun m => decide (2 ≤ m.kind)) with
        | some m => .bad ix m
        | none => .line l.data

/-- A line enters a thread's line buffer from the cache: corrected errors are reported, and the line was used. -/
def takeLine (s : State) (tid line : Nat) (d : Bytes) : State :=
  let t := getTh s tid
  match t.line with
  | some (l, _) => if l = line then s else enter
  | none => enter
where
  /-- From the instruction cache. -/
  enter : State :=
    let s1 := modTh s tid (fun t => { t with line := some (line, d) })
    let u := tidUnit tid
    match icFind s1 u line ((planOfTh s1 (getTh s1 tid)).epoch % 2) with
    | none => s1
    | some (ix, l) =>
      (icMarks s1 u ix line).foldl (fun x m =>
        coreCnt (record (clearMark x m.loc m.word) 1 0x08 0x0001 (wordLoc m.loc m.word) [] m.injected) tid 0x38 1)
        { s1 with core := { s1.core with icache := tblSet s1.core.icache ix { l with used := s1.now } } }

/-! ### Waiting and stopping -/

/-- The scoreboard clears of an entry. -/
def clearEntry (s : State) (tid id : Nat) : State := modTh s tid (fun t => { t with sb := t.sb.filter (fun e => e.id ≠ id) })

/-- A new scoreboard entry with the thread's next sequence number; SCOREBOARD_MAX follows. -/
def allocEntry (s : State) (tid : Nat) (names : List Names) (op : LongOp) (due : Option Nat) (exact : Bool) (need : Nat := 1) : Nat × State :=
  let t := getTh s tid
  let id := ((List.range 17).find? (fun i => t.sb.all (fun e => e.id ≠ i))).getD 16
  let e : SbEntry := { id := id, names := names, op := op, issued := s.now, seq := t.seq, due := due, exact := exact, need := need }
  let s1 := setTh s tid { t with sb := t.sb ++ [e], seq := t.seq + 1 }
  let k := 0x7000000 + 0x1000 * tidUnit tid + 0x60
  (id, { s1 with cnt := tblSet s1.cnt k (Nat.max (cntGet s1.cnt k) (t.sb.length + 1)) })

end Sys2Proof.Machine
end

