-- ==== Sys2Proof/Machine/Locks.lean ====
section
/-!
DEFINITION. The lock unit (R395 to R405): lock operations, waiting, grants, recovery and commands.
-/

namespace Sys2Proof.Machine

/-- A lock unit counter (Table 13-11). -/
def lockCnt (s : State) (off : Nat) : State := { s with cnt := cntAdd s.cnt (0x3E00000 + off) 1 }
/-- Location of the lock unit, and of a lock's group (Table 17-6). -/
def lockLoc : Loc := unitLoc 26 0
/-- Location of the group of a lock. -/
def groupLoc (n : Nat) : Loc := unitLoc 26 (n / 64)
/-- A held lock. -/
def getLock (s : State) (n : Nat) : Option LockSt := tblFind s.core.locks n
/-- A lock is held as given. -/
def setLock (s : State) (n : Nat) (v : LockSt) : State := { s with core := { s.core with locks := tblSet s.core.locks n v } }
/-- A lock is FREE. -/
def freeLock (s : State) (n : Nat) : State := { s with core := { s.core with locks := tblDel s.core.locks n } }
/-- Locks a thread holds. -/
def heldBy (s : State) (tid : Nat) : List Nat := (s.core.locks.filter (fun l => l.2.holder = tid)).map (·.1)
/-- ACQUIREs of a thread that wait. -/
def waitsOf (s : State) (tid : Nat) : Nat := (s.core.locks.map (fun l => (l.2.waiters.filter (fun w => w.tid = tid)).length)).sum

/-- A grant made at a tick (R398, R402). -/
def grantTo (s : State) (n tid tick : Nat) (waiters : List LockWait) : State :=
  setLock s n { holder := tid, grantNs := devNs s, grantTick := tick, maxHoldUs := groupMaxHold s.plan.now (n / 64), waiters := waiters }

/-- A lock passes to its first waiter with a status, or becomes FREE (R398). -/
def passLock (s : State) (n status tick : Nat) : State :=
  match getLock s n with
  | none => s
  | some l =>
    match l.waiters with
    | [] => freeLock s n
    | w :: r =>
      let s1 := grantTo s n w.tid tick r
      { s1 with core := { s1.core with
        grants := s1.core.grants ++ [{ lock := n, tid := w.tid, entry := w.entry, status := status, since := w.since, by_ := tick + 16 }]
        waitMax := Nat.max s1.core.waitMax (tick - w.since) } }

/-- Marks in a lock's word of either copy of the lock state. -/
def lockMarks (s : State) (n : Nat) : List ErrorMark :=
  s.fault.marks.filter (fun m => (m.loc == { groupLoc n with l3 := 0 } || m.loc == { groupLoc n with l3 := 1 }) && m.word == n % 64)

/-- A waiting request's scoreboard entry completes with a status, and may set FAULT or LOCK. -/
def lockAnswer (s : State) (tid entry status : Nat) (flag fault : Option Nat) : State :=
  modTh s tid (fun t => { t with sb := t.sb.map (fun e =>
    match e.op with
    | .lockWait off _ => if e.id = entry then { e with op := .result off (toLE 2 status) flag fault, due := some (Nat.max s.now (e.due.getD s.now)) } else e
    | _ => e) })

/-- A lock whose word is lost in both copies (R403). -/
def lockLost (s : State) (n : Nat) (inj : Bool) : State :=
  let s1 := match getLock s n with
    | none => s
    | some l => l.waiters.foldl (fun x w => lockAnswer x w.tid w.entry eParity none (some eParity)) (freeLock s n)
  errorIn (lockCnt s1 0x50) 2 0x0B 0x0004 (groupLoc n) (toLE 2 n) inj

/-- The lock unit reads a lock's state (R403). -/
def lockTouch (s : State) (n : Nat) : State :=
  match lockMarks s n with
  | [] => s
  | ms =>
    let clear (x : State) : State := ms.foldl (fun y m => clearMark y m.loc m.word) x
    let lost (c : Nat) : Bool := ms.any (fun m => m.loc.l3 == c && decide (2 ≤ m.kind))
    if lost 0 && lost 1 then lockLost (clear s) n (ms.any (·.injected))
    else ms.foldl (fun y m => record y 1 0x0B 0x0003 (wordLoc m.loc m.word) (toLE 2 n) m.injected) (clear s)

/-- Whether ACQUIRE and TRY are permitted (R396). -/
def lockPermitted (s : State) (tid n : Nat) : Bool :=
  let t := getTh s tid
  groupEnabled (s.plan.of t.epoch) (n / 64) && (match t.bind with | some b => b.lockGroups.testBit (n / 64) | none => false)

/-- The outcome of an operation on a lock (Table 13-8): its status, none for a request that waits, with whether it is a
grant. -/
def applyLock (s0 : State) (o : LockOp) : Option Nat × Bool × State :=
  let s := lockTouch s0 o.lock
  let l := getLock s o.lock
  let mine := match l with | some x => x.holder == o.tid | none => false
  let grant (x : State) : State := grantTo (lockCnt (lockCnt x 0x00) 0x08) o.lock o.tid o.tick []
  match o.sub with
  | 0 =>
    if lockPermitted s o.tid o.lock = false then (some eRights, false, lockCnt s 0x58)
    else if mine then (some eArgs, false, s)
    else if 4 ≤ waitsOf s o.tid then (some eBusy, false, s)
    else
      match l with
      | none => (some stOk, true, grant s)
      | some x =>
        let w : LockWait := { tid := o.tid, entry := o.entry, since := o.tick, maxWaitUs := groupMaxWait s.plan.now (o.lock / 64) }
        let s1 := setLock (lockCnt s 0x00) o.lock { x with waiters := x.waiters ++ [w] }
        (none, false, { s1 with cnt := cntAdd s1.cnt (0x3E01010 + 0x20 * (o.lock / 64)) 1 })
  | 1 =>
    if lockPermitted s o.tid o.lock = false then (some eRights, false, lockCnt s 0x58)
    else if mine then (some eArgs, false, s)
    else
      match l with
      | none => (some stOk, true, grant s)
      | some _ => (some eBusy, false, lockCnt (lockCnt s 0x00) 0x18)
  | 2 =>
    if mine then (some stOk, false, passLock (lockCnt s 0x20) o.lock stOk o.tick)
    else (some eRights, false, record (lockCnt s 0x28) 0 0x0B 0x0001 (groupLoc o.lock) (toLE 2 o.lock ++ toLE 2 o.tid))
  | _ =>
    if (match (getTh s o.tid).bind with | some b => b.crossDomain | none => false) = false then (some eRights, false, lockCnt s 0x58)
    else
      match l with
      | some _ => (some stOk, false, passLock (lockCnt s 0x30) o.lock sAbandoned o.tick)
      | none => (some eNotFound, false, s)

/-- An accepted operation is applied, and its entry gets its outcome. -/
def settleOne (s : State) (o : LockOp) : State :=
  let r := applyLock s o
  match r.1 with
  | some st => lockAnswer r.2.2 o.tid o.entry st (if r.2.1 then some 4 else none) none
  | none => modTh r.2.2 o.tid (fun t => { t with sb := t.sb.map (fun e => if e.id = o.entry then { e with due := none } else e) })

/-- The operations accepted before tick `upto` are applied, in the order of R397; none during a restart of the lock
unit (R403). -/
def settleLocks (s : State) (upto : Nat) : State :=
  match s.core.lockOps.filter (fun o => decide (o.tick < upto)) with
  | [] => s
  | go =>
    if recovering s lockLoc then s
    else
      (go.foldl (fun l o => insertBy (fun x => x.tick * 4096 + x.tid) o l) []).foldl settleOne
        { s with core := { s.core with lockOps := s.core.lockOps.filter (fun o => !decide (o.tick < upto)) } }

/-- Recovery of a thread (R401): its waiting requests go, and each lock it holds passes on with S_ABANDONED. -/
def locksRevoke (s0 : State) (tid : Nat) : State :=
  let s := settleLocks s0 (s0.now + 1)
  let s1 := { s with core := { s.core with
    locks := s.core.locks.map (fun l => (l.1, { l.2 with waiters := l.2.waiters.filter (fun w => w.tid ≠ tid) }))
    grants := s.core.grants.filter (fun g => g.tid ≠ tid)
    lockOps := s.core.lockOps.filter (fun o => o.tid ≠ tid) } }
  (heldBy s1 tid).foldl (fun x n => passLock (lockCnt x 0x38) n sAbandoned x.now) s1

/-- LOCK_GRANT: the oldest decided grant reaches its thread: its status is written and LOCK sets (R398). -/
def execLockGrant (s0 : State) : Res :=
  .next (let s := settleLocks s0 s0.now
    match s.core.grants with
    | [] => s
    | g :: r => lockAnswer (lockCnt { s with core := { s.core with grants := r } } 0x10) g.tid g.entry g.status (some 4) none)

/-- The waiter of a lock whose MAX_WAIT_US ends first. -/
def firstOverdue (l : LockSt) : Option LockWait :=
  (l.waiters.filter (fun w => w.maxWaitUs ≠ 0)).foldl (fun a w =>
    match a with
    | none => some w
    | some v => if w.since + usTicks w.maxWaitUs < v.since + usTicks v.maxWaitUs then some w else a) none

/-- LOCK_WAIT_TIMEOUT: a waiting request leaves the list of a lock (R399). -/
def execLockWaitTimeout (lock : Fin 4096) (s0 : State) : Res :=
  .next (let s1 := settleLocks s0 s0.now
    match getLock s1 lock.val with
    | none => s1
    | some l =>
      match firstOverdue l with
      | none => s1
      | some w =>
        let s := advanceTo s1 (w.since + usTicks w.maxWaitUs)
        lockAnswer (lockCnt (setLock s lock.val { l with waiters := l.waiters.erase w }) 0x40) w.tid w.entry eTimeout none none)

/-- LOCK_HOLD_LONG: a hold exceeds MAX_HOLD_US and is reported once (R399). -/
def execLockHoldLong (lock : Fin 4096) (s0 : State) : Res :=
  .next (let s1 := settleLocks s0 s0.now
    match getLock s1 lock.val with
    | none => s1
    | some l =>
      if l.maxHoldUs = 0 ∨ l.reported then s1
      else
        let s := advanceTo s1 (l.grantTick + usTicks l.maxHoldUs + 1)
        record (lockCnt (setLock s lock.val { l with reported := true }) 0x48) 0 0x0B 0x0002 (groupLoc lock.val) (toLE 2 lock.val ++ toLE 2 l.holder))

/-- LOCK_STATUS (Table 13-10). -/
def execLockStatus (mb : MbId) (lock : BitVec 16) (s0 : State) : Res :=
  .next (whenReady (settleLocks s0 (s0.now + 1)) mb.val 24 (fun s1 =>
    if 4095 < lock.toNat then reply s1 mb.val eArgs
    else
      let s := lockTouch s1 lock.toNat
      match getLock s lock.toNat with
      | none => reply s mb.val stOk ([0, 0] ++ toLE 2 0xFFFF ++ zeros 12 ++ (List.replicate 8 [0xFF, 0xFF]).flatten)
      | some l =>
        let ids := (l.waiters.take 8).map (fun w => toLE 2 w.tid)
        reply s mb.val stOk ([1, 0] ++ toLE 2 l.holder ++ time10 l.grantNs ++ toLE 2 l.waiters.length ++ ids.flatten ++
          (List.replicate (8 - ids.length) [0xFF, 0xFF]).flatten)))

/-- LOCK_FORCE_RELEASE: FORCE by the host (R400). -/
def execLockForceRelease (mb : MbId) (lock : BitVec 16) (s0 : State) : Res :=
  .next (whenReady (settleLocks s0 (s0.now + 1)) mb.val 24 (fun s1 =>
    if 4095 < lock.toNat then reply s1 mb.val eArgs
    else
      let s := lockTouch s1 lock.toNat
      match getLock s lock.toNat with
      | none => reply s mb.val eNotFound
      | some _ => reply (passLock (lockCnt s 0x30) lock.toNat sAbandoned s.now) mb.val stOk))

/-- LOCK_GROUP_STATUS: the held locks of a group, its waiters, and ENABLED in the epoch in force. -/
def execLockGroupStatus (mb : MbId) (group : BitVec 8) (s0 : State) : Res :=
  .next (whenReady (settleLocks s0 (s0.now + 1)) mb.val 24 (fun s =>
    if 63 < group.toNat then reply s mb.val eArgs
    else
      let ls := s.core.locks.filter (fun l => l.1 / 64 == group.toNat)
      reply s mb.val stOk (toLE 8 (ls.foldl (fun a l => setBit a (l.1 % 64)) 0) ++ toLE 4 (ls.map (fun l => l.2.waiters.length)).sum ++
        toLE 1 (b2n (groupEnabled s.plan.now group.toNat)))))

end Sys2Proof.Machine
end

