-- ==== Sys2Proof/Machine/Copro.lean ====
section
/-!
DEFINITION. Scrim, Sealer and the key table (R378 to R394).
-/

namespace Sys2Proof.Machine

/-! ### Registers -/

/-- A register of a unit's file. -/
def creg (r : Table W64) (n : Nat) : W64 := tblGet 0 r n
/-- A 128-bit value of a register pair, most significant byte first. -/
def cpair (r : Table W64) (n : Nat) : Bytes := toBE 8 (creg r n).toNat ++ toBE 8 (creg r (n + 1)).toNat
/-- The register file with a 128-bit value in a pair. -/
def setPair (r : Table W64) (n : Nat) (b : Bytes) : Table W64 :=
  tblSet (tblSet r n (BitVec.ofNat 64 (beAt b 0 8))) (n + 1) (BitVec.ofNat 64 (beAt b 8 8))
/-- The register file with a number in a register. -/
def setNum (r : Table W64) (n v : Nat) : Table W64 := tblSet r n (BitVec.ofNat 64 v)
/-- STATUS with LAST_FUNC; `k` is the register's number. -/
def lastFunc (r : Table W64) (k func : Nat) : Table W64 :=
  setNum r k ((creg r k).toNat % 256 + func * 256)
/-- STATUS with a bit made equal to a value. -/
def statusBit (r : Table W64) (k i : Nat) (v : Bool) : Table W64 := setNum r k (putBit (creg r k).toNat i v)

/-! ### Scrim (R385 to R387, Table 13-4) -/

/-- Ones' complement sum of 16 bits. -/
def onesAdd (a b : Nat) : Nat :=
  let s := a + b
  if s < 65536 then s else s - 65535
/-- The ones' complement sum of a range of big-endian words (R386). -/
def csumGo (acc : Nat) : Nat → Bytes → Nat
  | 0, _ => acc
  | n + 1, b => csumGo (onesAdd acc (beAt b 0 2)) n (b.drop 2)
/-- Equation 3 of RFC 1624 for one word (R386). -/
def csumWord (hc m m2 : Nat) : Nat :=
  if m = m2 then hc else 65535 - onesAdd (onesAdd (65535 - hc) (65535 - m)) m2
/-- One step of an unreflected CRC of `w` bits. -/
def crcLeft (w poly c : Nat) : Nat := if c.testBit (w - 1) then ((c * 2) % 2 ^ w) ^^^ poly else c * 2
/-- An unreflected CRC of `w` bits continued over bytes, without final XOR. -/
def crcMsb (w poly init : Nat) (b : Bytes) : Nat :=
  b.foldl (fun c x => (List.range 8).foldl (fun a _ => crcLeft w poly a) (c ^^^ (x.toNat * 2 ^ (w - 8)))) init
/-- A reflected CRC-32 continued from a delivered value (R385). -/
def crcMore (poly from_ : Nat) (b : Bytes) : Nat := (b.foldl (crcByte poly) (from_ ^^^ 0xFFFFFFFF)) ^^^ 0xFFFFFFFF
/-- MIX. -/
def scrimMix (v : W64) : W64 :=
  let w := v * 0x9E3779B97F4A7C15
  w ^^^ (w >>> 32)

/-- Whether Scrim lists a function, and whether it takes a range (Table 13-4). -/
def scrimKind (func : Nat) : Option Bool :=
  if func = 0x01 ∨ (0x10 ≤ func ∧ func ≤ 0x13) ∨ func = 0x30 ∨ func = 0x31 then some true
  else if func = 0x02 ∨ func = 0x03 ∨ func = 0x20 then some false else none

/-- A Scrim function on a register file and a range. -/
def scrimRun (func args : Nat) (r : Table W64) (d : Bytes) : Table W64 :=
  let s0 := (creg r 0).toNat
  let w16 (k i : Nat) : Nat := bits (creg r k).toNat (16 * i + 15) (16 * i)
  let codeA := crcMsb 32 ((creg r 2).toNat % 2 ^ 32) ((creg r 1).toNat % 2 ^ 32) d
  let codeB := crcMsb 32 ((creg r 2).toNat / 2 ^ 32) ((creg r 1).toNat / 2 ^ 32) d
  let safe := setNum r 0 (codeB * 2 ^ 32 + codeA)
  lastFunc (match func with
    | 0x01 => setNum r 0 (csumGo (s0 % 65536) (ceilDiv d.length 2) d)
    | 0x02 => setNum r 0 (s0 - s0 % 65536 + (List.range 4).foldl (fun h i => csumWord h (w16 4 i) (w16 5 i)) (s0 % 65536))
    | 0x03 =>
      let v := 65535 - s0 % 65536
      setNum r 0 (s0 - s0 % 65536 + (if args % 2 = 1 ∧ v = 0 then 65535 else v))
    | 0x10 => setNum r 0 (crcMore 0xEDB88320 (s0 % 2 ^ 32) d)
    | 0x11 => setNum r 0 (crcMore 0x82F63B78 (s0 % 2 ^ 32) d)
    | 0x12 => setNum r 0 (crcMsb 16 0x1021 (s0 % 65536) d)
    | 0x13 => setNum r 0 (crcMsb 32 ((creg r 2).toNat % 2 ^ 32) (s0 % 2 ^ 32) d)
    | 0x20 => tblSet r 0 (scrimMix (creg r 0 ^^^ creg r 6))
    | 0x30 => safe
    | 0x31 => statusBit safe 7 0 (creg safe 0 != creg r 3)
    | _ => r) 7 func

/-- Slots that a Scrim function takes. -/
def scrimSlots (func n : Nat) : Nat := if scrimKind func = some true then 6 + ceilDiv n 16 else 4

/-! ### Sealer (R388 to R392, Table 13-7) -/

/-- Whether Sealer lists a function, and whether it takes a range. -/
def sealerKind (func : Nat) : Option Bool :=
  if func = 0x02 ∨ func = 0x12 ∨ func = 0x21 then some true
  else if func = 0x01 ∨ func = 0x03 ∨ func = 0x04 ∨ func = 0x11 ∨ func = 0x13 ∨ func = 0x14 ∨ func = 0x20 then some false else none

/-- Whether a function is keyed. -/
def sealerKeyed (func : Nat) : Bool := func != 0x01 && func != 0x11

/-- A key-table entry. -/
def getKey (s : State) (i : Nat) : Option KeyEnt := tblFind s.core.keys i
/-- KEY of CONTROL. -/
def keyIndex (r : Table W64) : Nat := (creg r 7).toNat % 4096
/-- TARGET. -/
def keyTarget (r : Table W64) : Nat := (creg r 14).toNat % 4096
/-- The tag length in force; none for a value that Table 13-6 does not give. -/
def tagLen (r : Table W64) : Option Nat :=
  let v := bits (creg r 7).toNat 20 16
  if v = 0 then some 16 else if 4 ≤ v ∧ v ≤ 16 then some v else none

/-- The check of a keyed function for a thread of domain `d`: the status that rejects it (R391, R392, R559). -/
def keyReject (s : State) (d func : Nat) (r : Table W64) : Option Nat :=
  if sealerKeyed func = false then none
  else
    match getKey s (keyIndex r) with
    | none => some eNotFound
    | some k =>
      let kek := func == 0x20 || func == 0x21
      if k.domain ≠ d ∨ k.use.testBit (b2n kek) = false then some eRights
      else if func = 0x20 then
        (match getKey s (keyTarget r) with
          | none => some eNotFound
          | some t => if t.use.testBit 2 then none else some eRights)
      else if func = 0x21 then
        (if (tblFind s.svc.keks 1).isNone then some eNotReady
        else
          match getKey s (keyTarget r) with
          | some t => if t.domain = d then none else some eRights
          | none => none)
      else none

/-- Slots that a Sealer function takes on `n` bytes. -/
def sealerSlots (func n : Nat) (r : Table W64) : Nat :=
  match func with
  | 0x02 => 16 + ceilDiv n 16
  | 0x12 => 16 + 8 * (((creg r 6).toNat % 32 + n - 1) / 16)
  | 0x03 => 24 | 0x04 => 24 | 0x13 => 24 | 0x14 => 24
  | 0x20 => 400 | 0x21 => 400
  | _ => 4

/-- The GMAC tag (R389). -/
def gmacTag (key : Bytes) (r : Table W64) : Bytes :=
  let h := beVal (aesEncrypt key (zeros 16))
  let y := ghashGo h 1 (beVal (cpair r 2)) (toBE 8 (creg r 6).toNat ++ zeros 8)
  xorBytes (toBE 16 y) (aesEncrypt key (slice (cpair r 4) 0 12 ++ [0, 0, 0, 1]))

/-- The CMAC of the state and the held-back bytes (R389). -/
def cmacTag (key : Bytes) (r : Table W64) : Bytes :=
  let k1 := cmacDouble (beVal (aesEncrypt key (zeros 16)))
  let n := (creg r 6).toNat % 32
  let b := slice (cpair r 10) 0 n
  let last := if n = 16 then xorBytes b (toBE 16 k1) else xorBytes (slice (b ++ [0x80]) 0 16) (toBE 16 (cmacDouble k1))
  aesEncrypt key (xorBytes (cpair r 2) last)

/-- CMAC_UPDATE (R389). -/
def cmacUpdate (key : Bytes) (r : Table W64) (d : Bytes) : Table W64 :=
  let m := slice (cpair r 10) 0 ((creg r 6).toNat % 32) ++ d
  if m.length = 0 then r
  else
    let nb := (m.length - 1) / 16
    let x := cmacGo key nb (cpair r 2) m
    let rest := m.drop (16 * nb)
    setNum (setPair (setPair r 2 x) 10 (slice rest 0 16)) 6 rest.length

/-- FINAL writes the tag (R390), VERIFY compares it; with a TAGLEN that Table 13-6 does not give, the values are open. -/
def withTag (s : State) (r : Table W64) (verify : Bool) (tag : Bytes) : Table W64 × State :=
  match tagLen r with
  | some n =>
    if verify then (statusBit r 15 0 (slice tag 0 n != slice (cpair r 8) 0 n), s) else (setPair r 0 (slice (slice tag 0 n) 0 16), s)
  | none =>
    let f := drawFree s
    if verify then (statusBit r 15 0 (f.1.getLsbD 0), f.2)
    else
      let g := drawFree f.2
      (tblSet (tblSet r 0 f.1) 1 g.1, g.2)

/-- A Sealer function whose key check has passed: the registers, and the key that KEY_UNWRAP installs. More held-back
bytes than 16 leave the CMAC values open. -/
def sealerRun (s : State) (d func : Nat) (r : Table W64) (b : Bytes) : Table W64 × Option (Nat × Nat × Bytes) × State :=
  let key := ((getKey s (keyIndex r)).map (·.key)).getD []
  let fin (x : Table W64 × State) : Table W64 × Option (Nat × Nat × Bytes) × State := (lastFunc x.1 15 func, none, x.2)
  let open_ (k : Nat) : Table W64 × State :=
    let f := drawFree s
    let g := drawFree f.2
    (tblSet (tblSet r k f.1) (k + 1) g.1, g.2)
  let tooLong := decide (16 < (creg r 6).toNat)
  match func with
  | 0x01 => fin (setPair (setPair (setNum r 6 0) 2 (zeros 16)) 0 (zeros 16), s)
  | 0x02 =>
    let p := padTo16 b
    fin (setNum (setPair r 2 (toBE 16 (ghashGo (beVal (aesEncrypt key (zeros 16))) (p.length / 16) (beVal (cpair r 2)) p))) 6
      (((creg r 6).toNat + 8 * b.length) % 2 ^ 64), s)
  | 0x03 => fin (withTag s r false (gmacTag key r))
  | 0x04 => fin (withTag s r true (gmacTag key r))
  | 0x11 => fin (setPair (setPair (setPair (setNum r 6 0) 2 (zeros 16)) 0 (zeros 16)) 10 (zeros 16), s)
  | 0x12 => fin (if tooLong then open_ 2 else (cmacUpdate key r b, s))
  | 0x13 => fin (if tooLong then open_ 0 else withTag s r false (cmacTag key r))
  | 0x14 => fin (if tooLong then (statusBit r 15 0 ((drawFree s).1.getLsbD 0), (drawFree s).2) else withTag s r true (cmacTag key r))
  | 0x20 =>
    let w := keyWrap key (((getKey s (keyTarget r)).map (·.key)).getD [])
    fin ((List.range 5).foldl (fun x i => setNum x (8 + i) (beAt w (8 * i) 8)) r, s)
  | 0x21 =>
    match keyUnwrap key b with
    | some k => (lastFunc (statusBit r 15 1 false) 15 func, some (keyTarget r, d, k), s)
    | none => fin (statusBit r 15 1 true, s)
  | _ => (r, none, s)

/-! ### Ownership and errors (R378 to R380, R394) -/

/-- Location of a unit of a core. -/
def copLoc (u k : Nat) : Loc := unitLoc (u / 12) (12 + 12 * k + u % 12)

/-- Scoreboard entries that name a unit. -/
def namesUnit (k : Nat) (e : SbEntry) : Bool := e.names.contains (.unit k)

/-- Ownership of a unit ends: its registers are cleared, and a pending COP of the owner is discarded. -/
def copRelease (s : State) (u k : Nat) : State :=
  let c := getCop s u k
  let s1 := match c.owner with
    | some t => modTh s t (fun x => { x with sb := x.sb.filter (fun e => !namesUnit k e) })
    | none => s
  let s2 := { s1 with fault := { s1.fault with marks := s1.fault.marks.filter (fun m => m.loc != copLoc u k) } }
  modCop s2 u k (fun _ => {})

/-- The units a thread owns are given up (R380). -/
def copsRevoke (s : State) (tid : Nat) : State :=
  [0, 1].foldl (fun x k => if (getCop x (tidUnit tid) k).owner = some tid then copRelease x (tidUnit tid) k else x) s

/-- The marks in the registers of a unit. -/
def copMarks (s : State) (u k : Nat) : List ErrorMark := s.fault.marks.filter (fun m => m.loc == copLoc u k)

/-- A parity error in a register that an operation reads (R394). -/
def copParity (s : State) (tid k entry : Nat) (ms : List ErrorMark) : State :=
  let u := tidUnit tid
  let s1 := ms.foldl (fun x m => clearMark x m.loc m.word) s
  let s2 := modCop s1 u k (fun c => { c with regs := [] })
  copCnt (errorIn (raiseFault s2 tid eParity 1 entry) 2 0x0A 0x0001 (copLoc u k) [] (ms.any (·.injected))) tid 0x30

/-! ### Key commands (R393, Table 13-10) -/

/-- SEALER_KEY_INSTALL. -/
def execSealerKeyInstall (mb : MbId) (index : BitVec 16) (domain use : BitVec 8) (wrapped : Bytes) (s : State) : Res :=
  .next (whenReady s mb.val 23 (fun s =>
    if 4095 < index.toNat ∨ 15 < domain.toNat ∨ 7 < use.toNat ∨ wrapped.length ≠ 40 then reply s mb.val eArgs
    else
      match tblFind s.svc.keks 1 with
      | none => reply s mb.val eNotReady
      | some kek =>
        match keyUnwrap kek wrapped with
        | none => reply s mb.val eSignature
        | some k => reply { s with core := { s.core with keys := tblSet s.core.keys index.toNat { domain := domain.toNat, use := use.toNat, key := k } } } mb.val stOk))

/-- SEALER_KEY_ERASE. -/
def execSealerKeyErase (mb : MbId) (index : BitVec 16) (s : State) : Res :=
  .next (whenReady s mb.val 23 (fun s =>
    if 4095 < index.toNat then reply s mb.val eArgs
    else if (getKey s index.toNat).isNone then reply s mb.val eNotFound
    else reply { s with core := { s.core with keys := tblDel s.core.keys index.toNat } } mb.val stOk))

/-- SEALER_KEY_STATUS: OCCUPIED, DOMAIN and USE. -/
def execSealerKeyStatus (mb : MbId) (index : BitVec 16) (s : State) : Res :=
  .next (whenReady s mb.val 23 (fun s =>
    if 4095 < index.toNat then reply s mb.val eArgs
    else
      match getKey s index.toNat with
      | some k => reply s mb.val stOk (toLE 1 1 ++ toLE 1 k.domain ++ toLE 1 k.use)
      | none => reply s mb.val stOk [0, 0, 0]))

end Sys2Proof.Machine
end

