-- ==== Sys2Proof/Machine/Pairs.lean ====
section
/-!
DEFINITION. Paired execution (R510 to R517): comparators, posts of the two sides, decisions and spares.
-/

namespace Sys2Proof.Machine

/-- The number by which a paired item's order-restore entry is known: its order key. -/
def itemKey (it : Item) : Nat := it.tick * 128 + it.source
/-- A paired item that is undecided. -/
def findPair (s : State) (key : Nat) : Option PairItem := s.fault.pairItems.find? (fun x => x.entry == key)
/-- The state with a paired item changed. -/
def modPairItem (s : State) (key : Nat) (f : PairItem → PairItem) : State :=
  { s with fault := { s.fault with pairItems := s.fault.pairItems.map (fun x => if x.entry = key then f x else x) } }
/-- The comparator that serves a pair: none while its pairs are fail-silent (R516, R517). -/
def serverOf (s : State) (pair : Nat) : Option Nat :=
  let n := pair % 32
  let k := (tblFind s.fault.cmpServer n).getD n
  if k = 0xFF ∨ s.fault.cmpFailed.contains k then none else some k
/-- The comparator as the holder of the second reference. -/
def cmpReq (pair : Nat) : Requester := unitReq 29 (pair % 32)

/-- An item leaves its comparator with a drop marker: the comparator's reference goes, and that of side A once its
thread has handed it over (R513). -/
def pairDrop (s : State) (x : PairItem) : State :=
  let s1 := orderDrop s (x.entry / 128) (x.entry % 128)
  let s2 := unitRelease { s1 with fault := { s1.fault with pairItems := s1.fault.pairItems.filter (fun y => y.entry ≠ x.entry) } } x.handle 29 (x.pair % 32)
  if x.a.last then unitRelease s2 x.handle 29 (x.pair % 32) else s2

/-- Either side's item is discarded, revoked or cannot be received (R513). -/
def pairAbandon (s : State) (key : Nat) : State :=
  match findPair s key with
  | some x => faultCount (pairDrop s x) 0x70 1
  | none => s

/-- Undecided items that a comparator holds: those for which a side has posted. -/
def pairLoad (s : State) (pair : Nat) : Nat :=
  (s.fault.pairItems.filter (fun x => x.pair % 32 == pair % 32 && !(x.a.descs.isEmpty && x.b.descs.isEmpty && !x.a.last && !x.b.last))).length

/-- A side's EGRESS_POST, with the window words it has changed when it is the last (R511). -/
def pairPost (s : State) (tid : Nat) (it : Item) (side : Nat) (d : Bytes) (last : Bool) (words : List (Nat × Bytes)) : Nat × State :=
  let key := itemKey it
  let hs := (handedBy d false it.handle) ++ (if last && side == 0 then [it.handle] else [])
  match findPair s key with
  | none => (eTimeout, hs.foldl bufDrop (unslot s (some tid) hs))
  | some x =>
    let me := if side = 0 then x.a else x.b
    if me.last ∨ 8 ≤ me.descs.length ∨ descMalformed s d ∨ holdsAll s (some tid) hs = false then (eArgs, s)
    else
      let fresh := x.a.descs.isEmpty && x.b.descs.isEmpty && !x.a.last && !x.b.last
      let s1 := unslot s (some tid) hs
      let me2 : PairSide := { me with descs := me.descs ++ [d], words := if last then words else me.words, last := last }
      let s2 := modPairItem s1 key (fun x =>
        let y := if side = 0 then { x with a := me2 } else { x with b := me2 }
        if last && y.firstLast.isNone then { y with firstLast := some s.now } else y)
      if fresh && decide (64 ≤ pairLoad s x.pair) then
        (match findPair s2 key with
          | some y => (stOk, faultCount (pairDrop s2 y) 0x78 1)
          | none => (stOk, s2))
      else (stOk, s2)

/-- The digest of a side (R511). -/
def pairDigest (sd : PairSide) : Nat :=
  let ws := sd.words.foldl (fun l w => insertBy (fun x => x.1) w l) []
  crcMsb 64 0x42F0E1EBA9EA3693 0xFFFFFFFFFFFFFFFF (ws.flatMap (fun w => toLE 2 w.1 ++ w.2)) ^^^ 0xFFFFFFFFFFFFFFFF

/-- PAIR_DECISION: the comparator holds both LAST posts and decides (R512, R515, R516). -/
def execPairDecision (pair : BitVec 9) (entry : Nat) (s : State) : Res :=
  .next (match findPair s entry with
    | none => s
    | some x =>
      if x.pair ≠ pair.toNat ∨ !(x.a.last && x.b.last) then s
      else if (serverOf s x.pair).isNone then faultCount (pairDrop s x) 0x80 1
      else
        let flip := s.fault.digestFlips.contains x.pair
        let s1 := faultCount { s with fault := { s.fault with digestFlips := s.fault.digestFlips.erase x.pair } } 0x58 1
        if x.a.descs = x.b.descs ∧ pairDigest x.a = pairDigest x.b ∧ flip = false then
          let p := s1.plan.of x.epoch
          let s2 := x.a.words.foldl (fun y w => hbmPut y 1 (65 + x.cluster) (bufAddr y x.handle + headroom p + w.1) w.2) s1
          let s3 := unitRelease { s2 with fault := { s2.fault with pairItems := s2.fault.pairItems.filter (fun y => y.entry ≠ entry) } } x.handle 29 (x.pair % 32)
          (x.a.descs.zipIdx.foldl (fun (y : State) (di : Bytes × Nat) =>
            (postEntry y none (entry / 128) (entry % 128) x.handle di.1 (di.2 + 1 == x.a.descs.length)).2) s3)
        else
          let s2 := faultCount (pairDrop s1 x) 0x60 1
          errorIn s2 2 0x0F 0x0005 (unitLoc 29 (x.pair % 32)) (toLE 2 x.pair ++ toLE 6 entry) flip)

/-- PAIR_WAIT_TIMEOUT: the second LAST has not arrived in PAIR_WAIT_US (R513). -/
def execPairWaitTimeout (pair : BitVec 9) (entry : Nat) (s0 : State) : Res :=
  .next (match findPair s0 entry with
    | none => s0
    | some x =>
      match x.firstLast with
      | none => s0
      | some t =>
        if x.pair ≠ pair.toNat ∨ (x.a.last && x.b.last) then s0
        else
          let p := s0.plan.of x.epoch
          let s := advanceTo s0 (t + usTicks (leAt ((p.sec 0x14).entry 0x14 x.pair) 12 4))
          errorIn (faultCount (pairDrop s x) 0x68 1) 2 0x0F 0x0006 (unitLoc 29 (x.pair % 32)) (toLE 2 x.pair ++ toLE 6 entry))

end Sys2Proof.Machine
end

