-- ==== Sys2Proof/Machine/Dispatcher.lean ====
section
/-!
DEFINITION. Dispatchers: items, queues, spilling, coat hand-off, fills, and discards (R301 to R312).
-/

namespace Sys2Proof.Machine

/-- Whether a dispatcher is restarting. -/
def dispDown (s : State) (n : Nat) : Bool := recovering s (unitLoc n 36)

/-- A unit discards an item with its entry, if it holds one, and its reference (R235); a paired item leaves its
comparator. -/
def discardItem (s : State) (n : Nat) (it : Item) : State :=
  match it.pair with
  | some (_, side) =>
    let s1 := pairAbandon s (itemKey it)
    if side = 0 then unitRelease s1 it.handle n 36 else s1
  | none => unitRelease (if it.entry then orderDrop s it.tick it.source else s) it.handle n 36

/-! ### Queues (R307, R308) -/

/-- The queue of a pool and an epoch. -/
def getQ (s : State) (n pool epoch : Nat) : DispQueue :=
  ((getCl s n).queues.find? (fun q => q.pool == pool && q.epoch == epoch)).getD { pool := pool, epoch := epoch }
/-- The state with a queue replaced; an empty queue is not listed. -/
def setQ (s : State) (n : Nat) (q : DispQueue) : State :=
  modCl s n (fun c =>
    let rest := c.queues.filter (fun x => !(x.pool == q.pool && x.epoch == q.epoch))
    { c with queues := if q.items.isEmpty && q.spill.isEmpty then rest else rest ++ [q] })
/-- On-die items of a cluster. -/
def onDie (s : State) (n : Nat) : Nat := ((getCl s n).queues.map (fun q => q.items.length)).sum
/-- An item goes behind the EXPRESS items, when it is one, or to the end. -/
def placeItem (l : List Item) (it : Item) : List Item :=
  if it.express then l.filter (·.express) ++ [it] ++ l.filter (fun x => !x.express) else l ++ [it]
/-- Whether a queue is at its limit: its QUEUE_DEPTH, or the 1,024 positions of the cluster. -/
def atLimit (s : State) (n : Nat) (q : DispQueue) : Bool :=
  decide (queueDepth (s.plan.of q.epoch) q.pool ≤ q.items.length) || decide (1024 ≤ onDie s n)
/-- The newest on-die item without EXPRESS that holds an entry. -/
def newestOrdinary (l : List Item) : Option Item := (l.reverse.filter (fun x => !x.express && x.entry)).head?

/-- An item enters a queue: on-die, or spilled (R307, R308); one without an entry that finds no room is discarded. -/
def enterQueue (s : State) (n : Nat) (it0 : Item) : State :=
  let it := { it0 with entered := s.now }
  let q := getQ s n it.pool it.epoch
  if atLimit s n q = false ∧ (q.spill.isEmpty ∨ it.express) then setQ s n { q with items := placeItem q.items it }
  else if it.express then
    match newestOrdinary q.items with
    | some v => dispCnt (setQ s n { q with items := placeItem (q.items.erase v) it, spill := v :: q.spill }) n 0x10 1
    | none => if it.entry then dispCnt (setQ s n { q with spill := placeItem q.spill it }) n 0x10 1 else discardItem s n it
  else if it.entry then dispCnt (setQ s n { q with spill := q.spill ++ [it] }) n 0x10 1
  else discardItem s n it

/-- UNSPILL: the first spilled item of a queue comes back to a freed position (R307). -/
def execUnspill (cluster : ClusterId) (pool : BitVec 16) (s : State) : Res :=
  .next (let n := cluster.val
    match (getCl s n).queues.find? (fun q => q.pool == pool.toNat && !q.spill.isEmpty && !atLimit s n q) with
    | none => s
    | some q =>
      match q.spill with
      | [] => s
      | it :: r =>
        if dispDown s n then s
        else dispCnt (setQ s n { q with items := placeItem q.items { it with spilled := true, entered := s.now }, spill := r }) n 0x18 1)

/-! ### Entering a coat (R309 to R311, R510) -/

/-- The pool that SELECT chooses, by its index in the coat's list (R309). -/
def selectPool (s : State) (it : Item) (c : CoatRec) : Nat :=
  let n := c.pools.length
  match c.select with
  | 0 => it.od % n
  | 1 => it.fragHash % n
  | _ =>
    let load (i : Nat) : Nat :=
      let pool := c.pools.getD i 0
      let q := getQ s (poolCluster (s.plan.of it.epoch) pool) pool it.epoch
      q.items.length + q.spill.length
    (List.range n).foldl (fun b i => if load i < load b then i else b) 0

/-- Whether an item's buffer is retired: its packet is discarded at a hand-off (R228). -/
def bufRetired (s : State) (h : Nat) : Bool := (getWord s h).st == 3

/-- An item enters the dispatcher of its coat, or is discarded there (R63, R306, R309 to R311, R510). `pass` counts a
coat hand-off. -/
def enterItem (s : State) (it : Item) (pass : Bool) : State :=
  let p := s.plan.of it.epoch
  let coats := chainCoats p it.chain
  match (coats.drop it.coat).head? with
  | none => discardItem s 0 it
  | some c =>
    let i := selectPool s it c
    let pool := c.pools.getD i 0
    let n := poolCluster p pool
    let it1 := { it with pool := pool }
    if p.epoch ≠ it.epoch ∨ aged s it.epoch it.tick then ageDrop (discardItem s n { it1 with entry := it1.entry }) it.domain it.source
    else if bufRetired s it.handle then discardItem s n it1
    else if chainDomain p it.chain ≠ some it.domain then discardItem (dispCnt s n 0x30 1) n it1
    else if dispDown s n then discardItem (faultCount s 0x50 1) n it1
    else
      let s1 := if pass then dispCnt s n 0x08 1 else s
      match (if it.coat + 1 = coats.length then pairOfChain p it.chain else none) with
      | none => enterQueue s1 n it1
      | some (k, e) =>
        let poolB := leAt e (4 + 2 * i) 2
        let nb := poolCluster p poolB
        match hodHold s1 it.handle (cmpReq k) with
        | (some _, s2) => faultCount (discardItem s2 n it1) 0x70 1
        | (none, s2) =>
          let s3 := { s2 with fault := { s2.fault with pairItems := s2.fault.pairItems ++
            [{ pair := k, entry := itemKey it, epoch := it.epoch, handle := it.handle, cluster := n }] } }
          let a := enterQueue s3 n { it1 with pair := some (k, 0) }
          if dispDown a nb then pairAbandon a (itemKey it) else enterQueue a nb { it1 with pool := poolB, pair := some (k, 1) }

/-- The item of a packet that the classifier or a host ring hands on (R301). -/
def itemOf (k : Packet) : Item :=
  { handle := k.handle, epoch := k.epoch, tick := k.tick, source := k.source, entry := true
    domain := byteAt k.md 46 % 16, od := leAt k.md 40 2, chain := leAt k.md 44 2
    express := (byteAt k.md 47).testBit 0, fragHash := leAt k.md 38 2, stream := leAt k.md 42 2, prio := byteAt k.md 46 / 16
    rxTime := k.rx.time, port := k.rx.port, md := slice k.md 0 56, carry := zeros 32, len := k.rx.len, host := decide (64 ≤ k.source) }

/-- DISPATCH_ENQUEUE: the oldest packet handed on enters its queue, 12 slots after its sequence request. -/
def execDispatchEnqueue (s0 : State) : Res :=
  .next (match s0.cls.handed with
    | [] => s0
    | k :: r => enterItem (advanceTo { s0 with cls := { s0.cls with handed := r } } (k.delivered + 12)) (itemOf k) false)

/-! ### Fills (R301, R303, R310) -/

/-- A thread whose shadow can take an item: bound, empty, and with a free holding slot. -/
def canFill (s : State) (tid : Nat) : Bool :=
  let t := getTh s tid
  t.running && t.shadow.isNone && decide ((threadSlots s tid).length < 16)

/-- A dispatcher's next fill: the queue, its head, the thread, and the tick at which both were there. -/
structure FillPlan where
  queue : DispQueue
  item : Item
  tid : Nat
  start : Nat
  deriving DecidableEq, Repr, Inhabited

/-- The next fill of one queue: the thread whose next position comes first, ties by core and thread (R310). -/
def fillOf (s : State) (q : DispQueue) : Option FillPlan :=
  match q.items with
  | [] => none
  | it :: _ =>
    match (poolTids (s.plan.of q.epoch) q.pool).filter (canFill s) with
    | [] => none
    | t0 :: ts =>
      let soonest := ts.foldl (fun a t => Nat.min a (getTh s t).emptied) (getTh s t0).emptied
      let b := Nat.max it.entered soonest
      let pos (t : Nat) : Nat := (nextPos s t b).getD (b + 64)
      let ok := (t0 :: ts).filter (fun t => decide ((getTh s t).emptied ≤ b))
      (match ok with
        | [] => none
        | x :: xs => some { queue := q, item := it, tid := xs.foldl (fun a t => if pos t < pos a then t else a) x, start := b })

/-- The fill that starts first, ties by ORDER_KEY. -/
def nextFill (s : State) (n : Nat) : Option FillPlan :=
  ((getCl s n).queues.filterMap (fillOf s)).foldl (fun a f =>
    match a with
    | none => some f
    | some g => if f.start < g.start ∨ (f.start = g.start ∧ itemKey f.item < itemKey g.item) then some f else some g) none

/-- Bytes 56 to 63 of the metadata (Table 10-7). -/
def dispMd (it : Item) (kind : Nat) : Bytes :=
  let pr := match it.pair with
    | some (_, side) => 4 + 8 * side
    | none => 0
  toLE 1 (kind + pr + 16 * b2n it.spilled + 32 * b2n it.host) ++ [0] ++ toLE 2 it.pool ++ toLE 4 it.epoch

/-- The work slot (Table 10-6). -/
def workSlot (it : Item) (winStart tick : Nat) : Bytes :=
  toLE 4 it.handle ++ toLE 2 winStart ++ [0, 0] ++ toLE 4 (if it.entry then (Config.entryIndex (itemKey it)).toNat else 0xFFFFFFFF) ++
    toLE 6 (itemKey it) ++ [0, 0] ++ toLE 4 tick ++ zeros 4 ++ slice it.carry 0 32

/-- The window bytes of a packet from WIN_START: bytes beyond the packet read 0 (R301). -/
def windowOf (s : State) (n : Nat) (it : Item) (winStart : Nat) : Option Nat × Bytes × State :=
  let k := Nat.min 256 (it.len - winStart)
  let r := hbmRead s 2 (65 + n) (bufAddr s it.handle + headroom (s.plan.of it.epoch) + winStart) k
  (r.1, r.2.1 ++ zeros (256 - k), r.2.2)

/-- Reads the words of a dispatcher's queue memory that hold the item at its head, and its links (R312): whether the item
is lost. A lost link restarts the dispatcher. -/
def queueTouch (s : State) (n : Nat) (it : Item) : Bool × State :=
  (s.fault.marks.filter (fun m => unitOf m.loc == unitLoc n 36)).foldl (fun (x : Bool × State) m =>
    let use := (Config.queueWord m.word (itemKey it)).toNat
    let clear := clearMark x.2 m.loc m.word
    if use ≠ 1 ∧ use ≠ 2 then x
    else if m.kind < 2 then (x.1, record clear 1 0x09 0x0003 m.loc [] m.injected)
    else if use = 1 then (true, errorIn clear 2 0x09 0x0004 m.loc [] m.injected)
    else (x.1, errorIn clear 3 0x09 0x0004 m.loc [] m.injected)) (false, s)

/-- DISPATCH_FILL: the next fill of a cluster's dispatcher completes at the end of its eighth tick, and WORK sets (R310).
A packet whose body cannot be read is discarded (R235). -/
def execDispatchFill (cluster : ClusterId) (s0 : State) : Res :=
  .next (let n := cluster.val
    if dispDown s0 n then s0
    else
      match nextFill s0 n with
      | none => s0
      | some f =>
        let s := advanceTo s0 (f.start + 8)
        let it := f.item
        let p := s.plan.of it.epoch
        let rd := queueTouch s n it
        let s1 := setQ rd.2 n { f.queue with items := f.queue.items.erase it }
        let ws := poolWinStart p it.pool
        let w := windowOf s1 n it ws
        if rd.1 then discardItem s1 n it
        else if dispDown s1 n then rd.2
        else
        match w.1 with
        | some _ => discardItem w.2.2 n it
        | none =>
          let kind := (((chainCoats p it.chain).drop it.coat).head?.map (·.coat)).getD 0
          let sh : Shadow := { item := it, win := w.2.1, md := slice it.md 0 56 ++ dispMd it kind, work := workSlot it ws (s.now % 2 ^ 32) }
          let s2 := dispCnt w.2.2 n 0x00 1
          let s3 := match it.pair with
            | some (_, 1) => s2
            | _ => modSlots s2 f.tid (fun l => l ++ [it.handle])
          modTh s3 f.tid (fun t => { t with shadow := some sh, setAt := tblSet t.setAt 0 s3.now }))

/-! ### Items that threads hold (R302 to R306) -/

/-- A thread's copy of a window word at its packet offset, with the bytes that lie within the packet. -/
def windowWord (t : Thread) (winStart len w : Nat) : Option (Nat × Bytes) :=
  let off := winStart + 8 * w
  if len ≤ off then none else some (off, memBytes t.mem (0x1000 + 8 * w) (Nat.min 8 (len - off)))

/-- The window words that a thread has stored to, within its packet (R302). -/
def changedWords (t : Thread) : List (Nat × Bytes) :=
  match t.item, t.bind with
  | some it, some _ =>
    let ws := leAt (memBytes t.mem 0x1144 2) 0 2
    (t.stored.foldl (fun l w => insertBy id w l) []).filterMap (windowWord t ws it.len)
  | _, _ => []

/-- The write-back of a thread's window (R302). -/
def writeBack (s : State) (tid : Nat) : State :=
  let t := getTh s tid
  match t.item with
  | none => s
  | some it => (changedWords t).foldl (fun x w =>
      hbmPut x 1 (65 + tidCluster tid) (bufAddr x it.handle + headroom (x.plan.of it.epoch) + w.1) w.2) s

/-- A thread's held packet is discarded with the thread's reference (R235, R304). -/
def discardHeld (s : State) (tid : Nat) (it : Item) : State :=
  match it.pair with
  | some (_, side) =>
    let s1 := pairAbandon s (itemKey it)
    if side = 0 ∧ (threadSlots s1 tid).contains it.handle then bufDrop (modSlots s1 tid (fun l => l.erase it.handle)) it.handle else s1
  | none =>
    let s1 := if it.entry then orderDrop s it.tick it.source else s
    if (threadSlots s1 tid).contains it.handle then bufDrop (modSlots s1 tid (fun l => l.erase it.handle)) it.handle else s1

/-- The item that a thread passes on, with what it has left in the metadata and CARRY (R301). -/
def passedItem (t : Thread) (it : Item) : Item :=
  { it with coat := it.coat + 1, md := memBytes t.mem 0x1100 56, carry := memBytes t.mem 0x1160 32, spilled := false, done := false }

/-- Whether PASS of an item would find its queue at its limit (R306). -/
def passBusy (s : State) (it : Item) : Bool :=
  let p := s.plan.of it.epoch
  match ((chainCoats p it.chain).drop it.coat).head? with
  | none => false
  | some c =>
    let pool := c.pools.getD (selectPool s it c) 0
    let n := poolCluster p pool
    let q := getQ s n pool it.epoch
    dispDown s n || (!it.entry && (atLimit s n q || !q.spill.isEmpty))

end Sys2Proof.Machine
end

