-- ==== Sys2Proof/Machine/Restart.lean ====
section
/-!
DEFINITION. Start, restart and stop of threads, revocation (R296 to R298, R318, R500), and the delivery of exceptions
and events (R315, R317, R349, R377).
-/

namespace Sys2Proof.Machine

/-- A thread in the reset state of Table 10-2 with a binding: it keeps bank 0, its work, its channels and its event
flags that follow a condition. -/
def resetRegs (t : Thread) (b : Binding) : Thread :=
  { t with
    running := true, bind := some b, a := 0, x := 0, y := 0, b := 0, fz := false, fn := false, fc := false, fv := false, fe := false
    mode := b.startRender, ie := false, ex := false, lc := 0, pc := b.entryPc, p := [], evf := 0, evm := 0x20000, epc := 0, ef := 0
    elc := 0, ecause := 0, einfo := 0, eaddr := 0, faultInfo := 0, pend := [], sb := [], loopValid := false, flow := .plain
    resume := 0, resv := none, wait := .none, sleeping := false, block := none, rprog := none, line := none, served := [], missing := false
    fence := false }

/-- The results of a thread's long operations that are on their way are thrown away (R500). -/
def dropResults (s : State) (tid : Nat) : State :=
  { s with
    hbm := { s.hbm with waiting := s.hbm.waiting.filter (fun r =>
      match r.use with
      | .load t _ => t ≠ tid
      | .lr t _ => t ≠ tid
      | .sc t _ => t ≠ tid
      | _ => true) }
    span := { s.span with links := s.span.links.map (fun l =>
      let mine (w : SpanWho) : Bool := match w with | .thread t _ _ => t == tid | _ => false
      (l.1, { l.2 with
        reads := l.2.reads.map (fun r => if mine r.who then { r with who := .nobody } else r)
        wait0 := l.2.wait0.filter (fun e => match e.1 with | some r => !mine r.who | none => true) })) }
    table := { s.table with routines := s.table.routines.map (fun r =>
      if r.holders.any (fun h => match h with | .thread t _ => t == tid | _ => false) then { r with revoked := true } else r) }
    core := { s.core with clusters := tblMod {} s.core.clusters (tidCluster tid) (fun c =>
      { c with ops := c.ops.map (fun o =>
        if o.tid = tid then
          { o with kind := match o.kind with
            | .tas a _ => .tas a 99
            | .sc a d _ => .sc a d 99
            | k => k }
        else o) }) } }

/-- Posted stores that no memory has accepted are dropped. -/
def dropStores (s : State) (tid : Nat) : State :=
  modTh { s with hbm := { s.hbm with waiting := s.hbm.waiting.filter (fun r => match r.use with | .store t _ => t ≠ tid | _ => true) } } tid
    (fun t => { t with stores := [] })

/-- The items that a thread's PASS has taken enter their next coat. -/
def flushPassing (s : State) (tid : Nat) : State :=
  (getTh s tid).passing.foldl (fun x e => enterItem x e.2 true) (modTh s tid (fun t => { t with passing := [] }))

/-- A thread's delay-list entries are removed. -/
def dropTimers (s : State) (tid : Nat) : State :=
  modCl s (tidCluster tid) (fun c => { c with timers := c.timers.filter (fun e => e.tid ≠ tid) })

/-- Revocation of a thread (R226, R401, R500): its item, its buffer references but for the one of an item that stays in
its shadow, its locks, its coprocessors, its channels, its delay-list entries and its requests. -/
def revokeThread (s : State) (tid : Nat) (keepShadow : Bool) : State :=
  let t := getTh s tid
  let s0 := faultCount (flushPassing s tid) 0x48 1
  let s1 := match t.item with
    | some it => if it.done then s0 else discardHeld s0 tid it
    | none => s0
  let s2 := match t.shadow with
    | some sh => if keepShadow then s1 else discardHeld s1 tid sh.item
    | none => s1
  let keep := match t.shadow with | some sh => if keepShadow then [sh.item.handle] else [] | none => []
  let gone := keep.foldl (fun (l : List Nat) h => l.erase h) (threadSlots s2 tid)
  let s3 := gone.foldl revokeRef (modSlots s2 tid (fun _ => keep.filter (fun h => (threadSlots s2 tid).contains h)))
  let s4 := dropStores (dropResults (dropTimers (copsRevoke (locksRevoke s3 tid) tid) tid) tid) tid
  modTh s4 tid (fun t => { t with
    item := none, shadow := if keepShadow then t.shadow else none, emptied := if keepShadow then t.emptied else s4.now
    chans := [], sb := [], stores := [], resv := none, stored := [] })

/-- An unhandled exception (R318): the record, the revocation and the restart. -/
def exceptionRestart (s : State) (tid cause eaddr t0 : Nat) : State :=
  let s1 := errorIn s 2 0x08 0x0003 (unitLoc (tidCluster tid) (tidCore tid)) (toLE 1 cause ++ toLE 8 eaddr)
  let s2 := dispCnt (revokeThread s1 tid true) (tidCluster tid) 0x38 1
  modTh s2 tid (fun t => match t.bind with | some b => { resetRegs t b with nextAt := t0 + 5 } | none => t)

/-- A restart at NEXT, when the item's epoch binds another program (R297): the thread keeps the work just swapped in. -/
def rebindRestart (s : State) (tid p : Nat) (b : Binding) : State :=
  let s1 := dropResults (copsRevoke (locksRevoke (flushPassing s tid) tid) tid) tid
  modTh s1 tid (fun t => { resetRegs t b with nextAt := p + 1 })

/-- A thread stops (R298). -/
def threadStop (s : State) (tid : Nat) : State :=
  modTh (revokeThread s tid false) tid (fun t => { t with running := false, bind := none, wait := .none, block := none, rprog := none, pend := [] })

/-- A thread that a plan binds starts in the reset state at a tick (R296). -/
def threadStart (s : State) (tid at_ : Nat) (b : Binding) : State :=
  modTh s tid (fun t => { resetRegs t b with epoch := b.epoch, nextAt := at_ })

/-! ### Delivery (R317, R349, R377) -/

/-- Whether a word or instruction ends exactly at the body's end of a loop in force. -/
def loopEndsAt (t : Thread) (addr len : Nat) : Bool := t.loopValid && !t.ex && addr + len == t.loopLast

/-- EPC and EINFO for a delivery at a word (Tables 11-12 and 12-9). -/
def savedPlace (t : Thread) (addr len : Nat) (trap : Bool) : Nat × Nat :=
  match t.flow with
  | .slot at_ _ _ => (at_, 1)
  | .shadow at_ s _ => (at_, 2 * s)
  | .plain => if trap then (addr + len, 0) else (addr, if loopEndsAt t addr len then 8 else 0)

/-- A handler starts: PC, F and LC are saved, EX sets and IE clears; `v` is the thread as the word read it. -/
def enterHandler (s : State) (v : Thread) (tid cause : Nat) (eaddr : Option Nat) (place : Nat × Nat) (pc nextAt : Nat) : State :=
  modTh s tid (fun t => { t with
    epc := place.1 % 2 ^ 24, ef := fWord v, elc := t.lc, ecause := cause, einfo := place.2, eaddr := eaddr.getD t.eaddr
    ex := true, ie := false, pc := pc, flow := .plain, rprog := none, block := none, resume := 0, resv := none, nextAt := nextAt })

/-- An exception of a word issued at tick `p` is delivered, or restarts the thread (R268, R317, R318). -/
def deliverExc (s : State) (v : Thread) (tid p addr len : Nat) (trap : Bool) (e : Exc) : State :=
  let s1 := if e.cause = 1 then coreCnt s tid 0x48 1 else if e.cause = 2 then coreCnt s tid 0x50 1 else s
  let t := getTh s1 tid
  let excPc := (t.bind.map (·.excPc)).getD 0xFFFFFFFF
  let addr? := if e.cause = 1 ∨ e.cause = 2 then some e.eaddr else none
  if t.ex ∨ excPc = 0xFFFFFFFF then exceptionRestart s1 tid e.cause e.eaddr p
  else enterHandler s1 v tid e.cause addr? (savedPlace t addr len trap) excPc (p + 5)

end Sys2Proof.Machine
end

