-- ==== Sys2Proof/Machine/Issue.lean ====
section
/-!
DEFINITION. The issue of a word or instruction: its position, its fetch, the scoreboard test, what follows it in
program order, and the long accesses (R267 to R282, R340 to R350, R360).
-/

namespace Sys2Proof.Machine

/-! ### What is due -/

/-- The rows of the operation table that a word or instruction can be. -/
inductive Row where
  | next | pass | wait | sleep | chsend | chrecv | signal | srld | srst | sradd | srswap | tmrset | tmrcan | tmrpop | trap | retx
  | paired | nop | alu | insh | ld | st | tas | loop | setlc | br | bal | jr | mode | fence | mfs | mts | fmov
  | mov | mul | bswap | cmp | tst | lea | lr | sc | skw | bmove | bfill | bcmp | bsum | bscan
  | lookup | learn | bufAlloc | bufHold | bufRelease | egressPost
  /-- TCMD with the OP of its record. -/
  | tcmd (op : Nat)
  | acquire | try_ | release | force | cop | cmov | csave | crestore
  deriving DecidableEq, Repr

/-- A word that issues: its thread, tick, address and length, whether Render code holds it, and its 32 bits. -/
structure Ctx where
  tid : Nat
  p : Nat
  addr : Nat
  len : Nat
  render : Bool
  deriving DecidableEq, Repr

/-- What a word asks of the flow of control. -/
inductive Ctl where
  | seq
  | exc (e : Exc)
  /-- The word issues again. -/
  | again
  /-- The position goes idle under R274. -/
  | stalled
  /-- The thread blocks; the word is done once it wakes. -/
  | block (w : Wait)
  /-- A branch, with the target when it is taken. -/
  | branch (target : Option Nat)
  /-- The next word is at this address, timed as a taken branch. -/
  | skip (target : Nat)
  | mode (render : Bool)
  | retx
  /-- The thread's PC and next tick are set already. -/
  | placed
  deriving DecidableEq, Repr

/-- The row of a THR word. -/
def thrRow (sub : Nat) : Row :=
  match sub with
  | 0 => .next | 1 => .wait | 2 => .sleep | 3 => .pass | 4 => .chsend | 5 => .chrecv | 6 => .signal | 7 => .tmrset | 8 => .tmrcan
  | _ => .tmrpop

/-- The row of a Skim word's operation code when the word raises ILLEGAL; NOP stands for codes that name no row. -/
def opcRow (w : Nat) : Row :=
  let sub := bits w 24 21
  if w.testBit 31 then .paired
  else
    match bits w 30 25 with
    | 0x01 => .alu | 0x02 => .insh | 0x03 => .ld | 0x04 => .st | 0x05 => .tas | 0x06 => .loop | 0x07 => .setlc | 0x08 => .br | 0x09 => .bal
    | 0x0A => .jr | 0x0B => .mode | 0x0C => .fence | 0x0D => .trap | 0x0E => .retx | 0x0F => .mfs | 0x10 => .mts | 0x11 => .fmov
    | 0x12 => if sub ≤ 9 then thrRow sub else .nop
    | 0x13 => if sub = 0 then .srld else if sub = 1 then .srst else if sub = 2 then .sradd else if sub = 3 then .srswap else .nop
    | 0x14 => .lookup | 0x15 => .learn
    | 0x16 => if sub = 0 then .bufAlloc else if sub = 1 then .bufHold else if sub = 2 then .bufRelease else .nop
    | 0x17 => .egressPost
    | 0x19 => if sub = 0 then .acquire else if sub = 1 then .try_ else if sub = 2 then .release else if sub = 3 then .force else .nop
    | 0x1A => .cop | 0x1B => .cmov
    | 0x1C => if w.testBit 23 then .crestore else .csave
    | _ => .nop

/-- The row of a Skim word; a table command's is that of the record it names. -/
def skRow (v : State) (tid w : Nat) : Row :=
  match decodeSkim w with
  | some (.tcmd o1 _) =>
    if (privBad (8 * o1) 64).isSome then .nop
    else
      let op := leAt (memBytes (getTh v tid).mem (8 * o1) 2) 0 2
      if 1 ≤ op ∧ op ≤ 8 then .tcmd op else .nop
  | _ => opcRow w

/-- The row of a Render instruction. -/
def renderRow (i : RIns) : Row :=
  match i with
  | .nop => .nop
  | .g o _ =>
    (match o.op with
    | 0x01 => .mov | 0x0E => .mul | 0x0F => .bswap | 0x10 => .cmp | 0x11 => .tst | 0x12 => .lea | 0x13 => .lr | 0x14 => .sc
    | _ => .alu)
  | .br _ _ => .br
  | .bal _ => .bal
  | .jr _ => .jr
  | .loop _ _ _ => .loop
  | .setlc _ _ => .setlc
  | .block op _ _ _ => (match op with | 0x20 => .bmove | 0x21 => .bfill | 0x22 => .bcmp | 0x23 => .bsum | _ => .bscan)
  | .skw _ => .skw

/-- What the fetch at a thread's PC gives. -/
inductive Code where
  /-- A line awaits its fill or its reload. -/
  | wait (line : Nat)
  /-- A PC outside the program, or a line without a CODE entry. -/
  | code
  /-- A misaligned PC. -/
  | misaligned
  | word (w : Nat)
  | ins (len : Nat) (i : RIns)
  | badIns
  deriving DecidableEq, Repr

/-- Bytes as 16-bit parcels. -/
def parcelsOf (b : Bytes) : List Nat := (List.range (b.length / 2)).map (fun i => leAt b (2 * i) 2)

/-- The second line of an instruction that crosses a code line. -/
def fetchSecond (s : State) (tid line last : Nat) (d : Bytes) : Code :=
  let a := 64 * (line + 1)
  if last ≤ a then .code
  else
    match fetchLine s tid (line + 1) with
    | .absent => .code
    | .line e =>
      (match parseRender (parcelsOf (d ++ slice e 0 (Nat.min 64 (last - a)))) with
      | .ok i n => .ins (2 * n) i
      | .short => .code
      | .bad => .badIns)
    | _ => .wait (line + 1)

/-- The fetch and the decoding at a thread's PC (R278 to R282, R331, R352). -/
def fetchCode (s : State) (tid : Nat) : Code :=
  let t := getTh s tid
  match t.bind with
  | none => .code
  | some b =>
    let last := b.first + b.len
    if t.pc < b.first ∨ last ≤ t.pc then .code
    else if (if t.mode then t.pc % 2 else t.pc % 4) ≠ 0 then .misaligned
    else
      match fetchLine s tid (t.pc / 64) with
      | .absent => .code
      | .line d =>
        if t.mode then
          let part := slice d (t.pc % 64) (Nat.min (64 - t.pc % 64) (last - t.pc))
          (match parseRender (parcelsOf part) with
          | .ok i n => .ins (2 * n) i
          | .bad => .badIns
          | .short => fetchSecond s tid (t.pc / 64) last part)
        else if last < t.pc + 4 then .code
        else .word (leAt d (t.pc % 64) 4)
      | _ => .wait (t.pc / 64)

/-- Length of the Render instruction at an address, as the plan holds it. -/
def renderLenAt (s : State) (tid a : Nat) : Nat :=
  let p := planOfTh s (getTh s tid)
  let d := match codeAt p a 32 with
    | some d => d
    | none => (codeAt p a (64 - a % 64)).getD []
  match parseRender (parcelsOf d) with
  | .ok _ n => 2 * n
  | _ => 2

/-! ### Positions -/

/-- Whether a FENCE still waits (R277). -/
def fenceBusy (t : Thread) : Bool :=
  !t.stores.isEmpty || t.sb.any (fun e => match e.op with
    | .load _ _ _ => true
    | .rload _ _ => true
    | .lr _ _ _ => true
    | .tas _ _ _ => true
    | .sc _ _ _ _ _ => true
    | _ => false)

/-- The thread's next position, with the state at its start: none while the thread issues nothing, or while an
operation that completes at an exact earlier tick has not completed yet. -/
def slotFor (s : State) (tid : Nat) : Option (Nat × State) :=
  let t := getTh s tid
  if t.running = false ∨ t.missing ∨ t.wait ≠ Wait.none ∨ (t.fence ∧ fenceBusy t) ∨ recovering s (unitLoc (tidCluster tid) (tidCore tid)) then none
  else
    match nextPos s tid (Nat.max s.now t.nextAt) with
    | none => none
    | some p =>
      if t.sb.any (fun e => e.exact && (match e.due with | some d => decide (d ≤ p) | none => false)) then none
      else
        let s1 := advanceTo s p
        some (p, modTh (landTh (landCl s1 (tidCluster tid) (p - 1)) tid (p - 1)) tid (fun t => { t with fence := false }))

/-- What stage 3 of a word issued at tick `p` reads. -/
def stage3 (s : State) (tid p : Nat) : State := landTh (landCl s (tidCluster tid) (p + 1)) tid (p + 1)

/-- Whether an armed event takes a thread's position (R315). -/
def eventTakes (s : State) (tid p : Nat) : Bool :=
  let t := getTh s tid
  t.ie && !t.ex && armedAt s tid p != 0

/-- Positions of a thread in `[a, b)`. -/
def positionsIn (s : State) (tid a b : Nat) : Nat :=
  if b ≤ a + 64 then countPos s tid a b
  else (b - a) / 32 * countPos s tid a (a + 32) + countPos s tid (b - (b - a) % 32) b

/-! ### The scoreboard test (R274) -/

/-- What a word reads and writes as the scoreboard sees it. -/
structure Uses where
  regs : List Reg := []
  ranges : List (Nat × Nat) := []
  units : List Nat := []
  long : Bool := false
  store : Bool := false
  deriving DecidableEq, Repr

/-- Whether a pending entry keeps a word from issuing. -/
def nameHits (u : Uses) (n : Names) : Bool :=
  match n with
  | .reg r => u.regs.contains r
  | .range o k => u.ranges.any (fun e => decide (o < e.1 + e.2) && decide (e.1 < o + k))
  | .unit k => u.units.contains k
  | .lc => false
/-- The conditions of R274. -/
def scoreboardStops (t : Thread) (u : Uses) : Bool :=
  t.sb.any (fun e => e.names.any (nameHits u)) || (u.long && decide (16 ≤ t.sb.length)) || (u.store && decide (32 ≤ t.stores.length))

/-! ### What follows a word -/

/-- The thread after a word that is done at tick `p` (R340, R341, R344, R347, R367, R368). -/
def afterWord (t : Thread) (c : Ctx) : Thread :=
  let nx := (c.addr + c.len) % 2 ^ 24
  let go (t : Thread) (pc at_ : Nat) : Thread := { t with pc := pc % 2 ^ 24, nextAt := at_, flow := .plain, resume := 0, rprog := none }
  match t.flow with
  | .slot _ target tick =>
    match target with
    | some a => go t a (Nat.max (c.p + 1) (tick + 3))
    | none => go t nx (c.p + 1)
  | .shadow at_ k r =>
    if k = 1 then { go t nx (c.p + 1) with flow := .shadow at_ 2 r } else { go t nx (c.p + 1) with mode := r }
  | .plain =>
    if loopEndsAt t c.addr c.len then
      if 1 < t.lc then go { t with lc := t.lc - 1 } t.loopFirst (if t.loopFirst / 64 = (t.loopLast - 1) / 64 then c.p + 1 else c.p + 3)
      else if t.lc = 1 then go { t with lc := 0, loopValid := false } nx (c.p + 1)
      else go t nx (c.p + 1)
    else go t nx (c.p + 1)

/-- A word at tick `p` is done, and control goes on as it asks. `v` is the state that its stage 3 has read. -/
def finishWord (s v : State) (c : Ctx) (ctl : Ctl) : State :=
  let tid := c.tid
  let idle (x : State) : State := coreCnt x tid 0x18 (countPos x tid (c.p + 1) (getTh x tid).nextAt)
  match ctl with
  | .seq => idle (modTh s tid (fun t => afterWord t c))
  | .exc e => deliverExc s (getTh v tid) tid c.p c.addr c.len (e.cause == 4) e
  | .again => coreCnt (modTh s tid (fun t => { t with nextAt := c.p + 1, rprog := none })) tid 0x28 1
  | .stalled => coreCnt (modTh s tid (fun t => { t with nextAt := c.p + 1 })) tid 0x10 1
  | .block w => modTh s tid (fun t => { afterWord t c with wait := w, waitAt := c.p })
  | .branch target => modTh s tid (fun t => { t with
      pc := (c.addr + c.len) % 2 ^ 24, nextAt := c.p + 1, flow := .slot c.addr target c.p, resume := 0, rprog := none })
  | .skip a => idle (modTh s tid (fun t => { t with pc := a % 2 ^ 24, nextAt := c.p + 3, resume := 0, rprog := none }))
  | .mode r =>
    let t := getTh s tid
    let nx := c.addr + c.len
    if t.resume = 2 then
      let sl := if c.render then renderLenAt s tid nx else 4
      idle (modTh s tid (fun t => { t with pc := (nx + sl) % 2 ^ 24, nextAt := c.p + 3, flow := .shadow c.addr 2 r, resume := 0, rprog := none }))
    else modTh s tid (fun t => { t with pc := nx % 2 ^ 24, nextAt := c.p + 1, flow := .shadow c.addr 1 r, resume := 0, rprog := none })
  | .retx =>
    let o := getTh v tid
    let f := o.ef
    idle (modTh s tid (fun t => setIe { t with
      pc := o.epc, lc := o.elc, fz := f.testBit 0, fn := f.testBit 1, fc := f.testBit 2, fv := f.testBit 3, fe := f.testBit 4
      mode := f.testBit 5, ex := false, flow := .plain, resume := t.einfo / 2 % 4, resv := none, rprog := none, nextAt := c.p + 3 } (f.testBit 6)))
  | .placed => s

/-- The causes of ILLEGAL that depend on where a word stands (R342, R345 to R347, R366 to R368). -/
def placementBad (s : State) (c : Ctx) (control branch loop mode block : Bool) : Bool :=
  let t := getTh s c.tid
  let fin := c.addr + c.len
  let active := t.loopValid && !t.ex && decide (t.loopFirst ≤ c.addr)
  let slotLen := if c.render then renderLenAt s c.tid fin else 4
  (control && decide (t.flow ≠ Flow.plain)) ||
  (control && active && fin == t.loopLast) ||
  (branch && active && fin + slotLen == t.loopLast) ||
  (loop && t.ex) || (mode && t.lc != 0) ||
  (c.render && active && decide (c.addr < t.loopLast) && decide (t.loopLast < fin)) ||
  (block && t.loopValid && decide (t.loopFirst ≤ c.addr) && decide (c.addr < t.loopLast))

/-! ### Short and long accesses -/

/-- A result lands after a latency (R269). -/
def res (s : State) (c : Ctx) (lat : Nat) (d : Dst) : State := pendTh s c.tid (c.p + lat + 1) d

/-- The flags of an ALU operation. -/
def resFlags (s : State) (c : Ctx) (f : Option Fl) : State :=
  match f with
  | some f => res s c 3 (.flags f.z f.n f.c f.v)
  | none => s

/-- Whether the host memory window takes accesses (R441). -/
def hostOpen (s : State) : Bool := s.kept.hostWin.testBit 0 && isReady s 22

/-- The requests of a long read that go to a queue: HBM lines, or window requests; the others are served when they
complete. The number of requests comes with the state. -/
def askLoad (s : State) (tid a n entry : Nat) (use : HbmFor) : State :=
  match regionOf a with
  | some (.hbm, _, _) =>
    let ps := linePieces a (zeros n)
    { s with hbm := { s.hbm with waiting := s.hbm.waiting ++ ps.map (fun e =>
      ({ port := 4, source := tid, addr := e.1, n := e.2.length, accepted := s.now, use := use } : HbmReq)) } }
  | some (.span k, lo, _) =>
    if spanOpen s k then (linePieces a (zeros n)).foldl (fun x e => windowRead x k (.thread tid entry (e.1 - a)) (e.1 - lo) e.2.length) s
    else loadPart s tid entry 0 eQuarantine []
  | some (.host, _, _) =>
    if hostOpen s then s else hostCount (loadPart s tid entry 0 eTimeout []) 0x40 1
  | _ => s

/-- How many answers a long access waits for. -/
def pieces (s : State) (a n : Nat) : Nat :=
  match regionOf a with
  | some (.hbm, _, _) => (linePieces a (zeros n)).length
  | some (.span k, _, _) => if spanOpen s k then (linePieces a (zeros n)).length else 1
  | _ => 1

/-- A long load with its scoreboard entry (R273). -/
def longLoad (s : State) (c : Ctx) (a n : Nat) (names : List Names) (op : LongOp) (lr : Bool := false) : State :=
  let e := allocEntry s c.tid names op none false (pieces s a n)
  askLoad e.2 c.tid a n e.1 (if lr then .lr c.tid e.1 else .load c.tid e.1)

/-- A posted store (R274, R276). -/
def longStore (s : State) (c : Ctx) (a : Nat) (d : Bytes) : State :=
  let q := (getTh s c.tid).seq
  let s1 := modTh s c.tid (fun t => { t with
    seq := q + 1, stores := t.stores ++ [{ addr := a, data := d, seq := q, issued := c.p, need := pieces s a d.length }] })
  match regionOf a with
  | some (.hbm, _, _) =>
    { s1 with hbm := { s1.hbm with waiting := s1.hbm.waiting ++ (linePieces a d).map (fun e =>
      ({ port := 4, source := c.tid, addr := e.1, n := e.2.length, write := some e.2, accepted := s1.now, use := .store c.tid q } : HbmReq)) } }
  | some (.span k, lo, _) =>
    if spanOpen s1 k then (linePieces a d).foldl (fun x e => windowWrite x k (e.1 - lo) e.2) s1 else storePart s1 c.tid q eQuarantine
  | some (.host, _, _) => if hostOpen s1 then s1 else hostCount (storePart s1 c.tid q eTimeout) 0x40 1
  | _ => s1

/-- A load through a place into a register. -/
def loadReg (v s : State) (c : Ctx) (pl : Place) (f : LoadFmt) (r : Reg) : State :=
  match pl with
  | .far a => longLoad s c a f.size [.reg r] (.load a f r)
  | _ => res s c (shortLat pl f.size) (.reg r (loadValue f (shortRead v c.tid pl f.size)))

/-- A store through a place. -/
def storeTo (s : State) (c : Ctx) (pl : Place) (d : Bytes) : State :=
  match pl with
  | .far a => longStore s c a d
  | _ => shortWrite s c.tid c.p pl d

/-- An area of bank 0 named by OPD (R348): the exception when it does not lie in one mapped area. -/
def areaBad (opd n : Nat) : Option Exc := (privBad (8 * opd) n).map (fun o => { cause := 1, eaddr := o })

/-- A long operation that writes `n` bytes at OPD2, with its entry. -/
def opEntry (s : State) (c : Ctx) (opd2 n : Nat) (op : LongOp) (due : Option Nat) (exact : Bool) : Nat × State :=
  allocEntry s c.tid [.range (8 * opd2) n] op due exact

end Sys2Proof.Machine
end

