-- ==== Sys2Proof/Machine/SkimOps.lean ====
section
/-!
DEFINITION. What Skim words do (R333 to R350): ALU, memory, status moves, control, and thread operations (Table 11-9).
-/

namespace Sys2Proof.Machine

/-- A register by the codes of Table 11-3 for REG and half operations. -/
def regA (n : Nat) : Reg :=
  match n with
  | 0 => .a
  | 1 => .x
  | _ => .y
/-- A Format R destination. -/
def regD (n : Nat) : Reg := if n = 3 then .b else regA n
/-- A Format R source; code 3 is LC, zero-extended. -/
def srcR (t : Thread) (n : Nat) : W64 := if n = 3 then BitVec.ofNat 64 t.lc else getReg t (regA n)

/-! ### What the scoreboard sees -/

/-- Index register of an address mode (Table 11-4). -/
def amRegs (am : Nat) : List Reg :=
  match am with
  | 0 => []
  | 2 => [.y]
  | _ => [.x]
/-- Offset of a Format M access (R334). -/
def memOffset (t : Thread) (am size disp : Nat) : Nat :=
  match am with
  | 0 => disp
  | 1 => (t.x.toNat % 65536 + disp) % 65536
  | 2 => (t.y.toNat % 65536 + disp) % 65536
  | _ => (t.x.toNat % 65536 * size + disp) % 65536
/-- Bank of a Format M access. -/
def memBank (t : Thread) (z0 : Bool) : Nat := if z0 then 0 else t.b.toNat

/-- A half's uses. -/
def halfUses (h : Half) : Uses :=
  match h with
  | .nop => {}
  | .load n r d => { regs := [regA r], ranges := [(0x1000 + d, n)] }
  | .store n r d => { regs := [regA r], ranges := [(0x1000 + d, n)], store := true }
  | .alu _ d imm src => { regs := regA d :: (if imm.isSome then [] else [regA src]) }

/-- The uses of a Format M access. -/
def memUses (v : State) (tid r size am : Nat) (z0 : Bool) (disp : Nat) (write : Bool) : Uses :=
  let t := getTh v tid
  let off := memOffset t am size disp
  let bank := memBank t z0
  let u : Uses := { regs := regA r :: amRegs am ++ (if z0 then [] else [.b]), store := write }
  match resolveBank v tid bank off size write with
  | .ok (.priv o) => { u with ranges := [(o, size)] }
  | .ok (.far _) => { u with long := !write }
  | _ => u

/-- The uses of a Skim word (R274). -/
def skUses (v : State) (tid : Nat) (x : SkWord) : Uses :=
  let at1 (o n : Nat) : Nat × Nat := (8 * o, n)
  match x with
  | .paired a b =>
    let u := halfUses a
    let w := halfUses b
    { regs := u.regs ++ w.regs, ranges := u.ranges ++ w.ranges, store := u.store || w.store }
  | .alu fn d sk src _ => { regs := (if fn = 8 then [] else [regD d]) ++ [regD d] ++ (if sk = 0 ∧ src ≠ 3 then [regA src] else []) }
  | .insh d _ => { regs := [regD d] }
  | .ld r size am _ _ z0 disp => memUses v tid r (2 ^ size) am z0 disp false
  | .st r size am _ z0 disp => memUses v tid r (2 ^ size) am z0 disp true
  | .tas r am z0 disp => { memUses v tid r 1 am z0 disp true with long := true }
  | .loop csrc _ _ => { regs := if csrc = 0 then [] else [regA (csrc - 1)] }
  | .bal _ => { regs := [.y] }
  | .jr r => { regs := [regA r] }
  | .mfs r _ => { regs := [regA r] }
  | .mts r _ => { regs := [regA r] }
  | .fmov _ r => { regs := [regA r] }
  | .thr sub o1 o2 _ =>
    (match sub with
    | 0 => { ranges := [(0x1000, 0x180)] }
    | 2 => { regs := [.a] }
    | 3 => { long := true, ranges := [at1 o2 2] }
    | 4 => { regs := [.a, .x, .y], long := true, ranges := [at1 o2 2] }
    | 5 => { regs := [.a, .x] }
    | 6 => { regs := [.x], long := true, ranges := [at1 o2 2] }
    | 7 => { regs := [.a, .x], long := true, ranges := [at1 o2 2] }
    | 8 => { regs := [.x], long := true, ranges := [at1 o2 2] }
    | 9 => { regs := [.a] }
    | _ => { ranges := [at1 o1 0] })
  | .sr _ r _ => { regs := [regA r] }
  | .lookup o1 o2 => { long := true, ranges := [at1 o1 32, at1 o2 48] }
  | .learn o1 => { ranges := [at1 o1 19] }
  | .buf _ r o2 => { regs := [regA r], long := true, ranges := [at1 o2 8] }
  | .epost _ _ o1 o2 => { long := true, ranges := [at1 o1 32, at1 o2 2] }
  | .tcmd o1 o2 => { long := true, ranges := [at1 o1 64, at1 o2 64] }
  | .lock _ r o2 => { regs := [regA r], long := true, ranges := [at1 o2 2] }
  | .cop unit func args =>
    let n := (getTh v tid).x.toNat % 8192
    if copArgs unit func = some 0xFFFF then { regs := [.x], long := true, units := [unit], ranges := [(args, n)] }
    else { long := true, units := [unit] }
  | .cmov unit _ r _ => { regs := [regA r], units := [unit] }
  | .cstate unit restore o1 => { long := restore, units := [unit], ranges := [at1 o1 (if unit = 0 then 64 else 128)] }
  | _ => {}

/-! ### ALU and memory -/

/-- The two halves of a paired word; both read before either writes (R333). -/
def semHalf (v s : State) (c : Ctx) (h : Half) : State :=
  let t := getTh v c.tid
  match h with
  | .nop => s
  | .load n r d => loadReg v s c (.priv (0x1000 + d)) { size := n, be := true } (regA r)
  | .store n r d => storeTo s c (.priv (0x1000 + d)) (storeBytes { size := n, be := true } (getReg t (regA r)))
  | .alu fn d imm src =>
    let b := match imm with | some k => BitVec.ofNat 64 k | none => getReg t (regA src)
    let o := aluRun fn (getReg t (regA d)) b t.fc
    let s1 := match o.1 with | some q => res s c 3 (.reg (regA d) q) | none => s
    resFlags s1 c o.2

/-- The first exception of the window accesses of a paired word: a half may touch the 256-byte window only. -/
def halfBad (h : Half) : Option Exc :=
  match h with
  | .load n _ d => (privBad (0x1000 + d) n).map (fun o => { cause := 1, eaddr := o })
  | .store n _ d => (privBad (0x1000 + d) n).map (fun o => { cause := 1, eaddr := o })
  | _ => none

/-- PAIRED_WORD. -/
def semPaired (c : Ctx) (a b : Half) (v s : State) : State × Ctl :=
  match halfBad a, halfBad b with
  | some e, _ => (s, .exc e)
  | none, some e => (s, .exc e)
  | none, none => (coreCnt (semHalf v (semHalf v s c a) c b) c.tid 0x08 1, .seq)

/-- ALU (Table 11-7). -/
def semAlu (c : Ctx) (fn d sk src imm : Nat) (v s : State) : State × Ctl :=
  let t := getTh v c.tid
  let b : W64 := match sk with
    | 0 => srcR t src
    | 1 => BitVec.ofNat 64 imm
    | 2 => sext 16 imm
    | _ => BitVec.ofNat 64 (imm * 65536)
  let o := aluRun fn (getReg t (regD d)) b t.fc
  let s1 := match o.1 with | some q => res s c 3 (.reg (regD d) q) | none => s
  (resFlags s1 c o.2, .seq)

/-- INSH (R336). -/
def semInsh (c : Ctx) (d imm : Nat) (v s : State) : State × Ctl :=
  (res s c 3 (.reg (regD d) (getReg (getTh v c.tid) (regD d) <<< 16 ||| BitVec.ofNat 64 imm)), .seq)

/-- LD (R337). -/
def semLd (c : Ctx) (r size am : Nat) (f : LoadFmt) (z0 : Bool) (disp : Nat) (v s : State) : State × Ctl :=
  let t := getTh v c.tid
  match resolveBank v c.tid (memBank t z0) (memOffset t am size disp) size false with
  | .error e => (s, .exc e)
  | .ok pl => (loadReg v s c pl f (regA r), .seq)

/-- ST (R337). -/
def semSt (c : Ctx) (r size am : Nat) (f : LoadFmt) (z0 : Bool) (disp : Nat) (v s : State) : State × Ctl :=
  let t := getTh v c.tid
  match resolveBank v c.tid (memBank t z0) (memOffset t am size disp) size true with
  | .error e => (s, .exc e)
  | .ok pl => (storeTo s c pl (storeBytes f (getReg t (regA r))), .seq)

/-- TAS (R338): READ and WRITE are checked, then the place. -/
def semTas (c : Ctx) (r am : Nat) (z0 : Bool) (disp : Nat) (v s : State) : State × Ctl :=
  let t := getTh v c.tid
  let off := memOffset t am 1 disp
  match resolveBank v c.tid (memBank t z0) off 1 false, resolveBank v c.tid (memBank t z0) off 1 true with
  | .error e, _ => (s, .exc e)
  | _, .error e => (s, .exc e)
  | _, .ok (.own a) =>
    let e := allocEntry s c.tid [.reg (regA r)] (.tas a (regA r) none) (some (c.p + 14)) true
    (clusterOp e.2 c.tid (c.p + 13) (.tas a e.1), .seq)
  | _, .ok _ => (s, .exc excIllegal)

/-! ### Control -/

/-- LOOP (R343): the count is read, and LC and the bounds are written, at issue. -/
def semLoop (c : Ctx) (csrc body imm : Nat) (s : State) : State × Ctl :=
  let t := getTh s c.tid
  let n := if csrc = 0 then imm else (getReg t (regA (csrc - 1))).toNat % 65536
  let first := c.addr + c.len
  if n = 0 then (modTh s c.tid (fun t => { t with lc := 0, loopValid := false }), .skip (first + body))
  else (modTh s c.tid (fun t => { t with lc := n, loopFirst := first, loopLast := first + body, loopValid := true }), .seq)

/-- SETLC writes LC at issue and ends any loop in force (R346). -/
def semSetlc (c : Ctx) (csrc imm : Nat) (s : State) : State × Ctl :=
  let n := if csrc = 0 then imm else (getReg (getTh s c.tid) (regA (csrc - 1))).toNat % 65536
  (modTh s c.tid (fun t => { t with lc := n, loopValid := false }), .seq)

/-- The flags of a thread. -/
def flNow (t : Thread) : Fl := { z := t.fz, n := t.fn, c := t.fc, v := t.fv }

/-- BR: F is read in stage 3 (R340). -/
def semBr (c : Ctx) (cond target : Nat) (v s : State) : State × Ctl :=
  let t := getTh v c.tid
  (s, .branch (if condHolds cond (flNow t) t.fe then some target else none))

/-- BAL: Y receives the address after the delay slot. -/
def semBal (c : Ctx) (target link : Nat) (s : State) : State × Ctl :=
  (res s c 3 (.reg .y (BitVec.ofNat 64 link)), .branch (some target))

/-- JR. -/
def semJr (c : Ctx) (r : Nat) (v s : State) : State × Ctl :=
  (s, .branch (some ((getReg (getTh v c.tid) (regA r)).toNat % 2 ^ 24)))

/-- FENCE (R277): the thread waits until its stores are visible or performed and its long loads have completed. -/
def semFence (c : Ctx) (s : State) : State × Ctl :=
  let t := getTh s c.tid
  let own := (t.pend.filterMap (fun e => match e.dst with | .bytes _ _ => some e.land | _ => none)) ++
    ((getCl s (tidCluster c.tid)).ops.filterMap (fun o => if o.tid = c.tid then some o.land else none))
  let seen := own.foldl Nat.max 0
  let s1 := modTh (finishWord (coreCnt s c.tid 0x58 1) s c .seq) c.tid (fun t => { t with fence := true, nextAt := Nat.max t.nextAt (seen - 1) })
  (s1, .placed)

/-- MFS and MTS (R339): `r` is REG, `n` SNUM. -/
def semMfs (c : Ctx) (r n : Nat) (v s : State) : State × Ctl :=
  (res s c 3 (.reg (regA r) (getStatus v c.tid (c.p + 2) n)), .seq)
/-- MTS. -/
def semMts (c : Ctx) (r n : Nat) (v s : State) : State × Ctl :=
  (res s c 3 (.status n (getReg (getTh v c.tid) (regA r))), .seq)
/-- FMOV. -/
def semFmov (c : Ctx) (dir : Bool) (r : Nat) (v s : State) : State × Ctl :=
  let t := getTh v c.tid
  (if dir then res s c 3 (.fmov (getReg t (regA r))) else res s c 3 (.reg (regA r) (BitVec.ofNat 64 (fWord t))), .seq)

/-! ### Work (R303 to R306) -/

/-- Bytes of two programs of two plans are the same. -/
def sameProgram (s : State) (a b : Binding) : Bool :=
  a.program == b.program && a.first == b.first && a.len == b.len && a.entryPc == b.entryPc && a.startRender == b.startRender &&
    (a.epoch == b.epoch || codeAt (s.plan.of a.epoch) a.first a.len == codeAt (s.plan.of b.epoch) b.first b.len)

/-- A thread takes the binding of an epoch: it restarts when that binds another program (R297). -/
def rebind (s : State) (tid p epoch : Nat) : Bool × State :=
  let t := getTh s tid
  match bindingOf (s.plan.of epoch) tid, t.bind with
  | some b, some o =>
    let s1 := modTh s tid (fun t => { t with bind := some b, epoch := epoch })
    if sameProgram s o b then (false, s1) else (true, rebindRestart s1 tid p b)
  | _, _ => (false, s)

/-- NEXT swaps in the shadow at tick `p` (R303, R304): a packet that the thread still holds is discarded. -/
def nextSwap (s : State) (tid p : Nat) : Bool × State :=
  let t := getTh s tid
  match t.shadow with
  | none => (false, s)
  | some sh =>
    let s1 := match t.item with
      | some it => if it.done then s else dispCnt (discardHeld s tid it) (tidCluster tid) 0x28 1
      | none => s
    let s2 := modTh s1 tid (fun t => { t with
      mem := memWrite (memWrite (memWrite t.mem 0x1000 sh.win) 0x1100 sh.md) 0x1140 sh.work
      pend := t.pend.filter (fun e => match e.dst with | .bytes off _ => decide (off < 0x1000) | _ => true)
      item := some sh.item, shadow := none, emptied := p, stored := [], epoch := sh.item.epoch, resv := none })
    rebind s2 tid p sh.item.epoch

/-- NEXT. -/
def semNext (c : Ctx) (s : State) : State × Ctl :=
  let t := getTh s c.tid
  if (t.bind.map (·.service)).getD false then
    let r := rebind (modTh s c.tid (fun t => { t with resv := none })) c.tid c.p s.plan.epoch
    (r.2, if r.1 then .placed else .seq)
  else if (evfAt s c.tid c.p).testBit 0 then
    let r := nextSwap s c.tid c.p
    (r.2, if r.1 then .placed else .seq)
  else (s, if blocks s c.tid then .block .work else .again)

/-- PASS (R302, R306): the status comes in exactly 4 slots, when the item enters its next dispatcher. -/
def semPass (c : Ctx) (o2 : Nat) (v s : State) : State × Ctl :=
  match areaBad o2 2 with
  | some e => (s, .exc e)
  | none =>
    let t := getTh v c.tid
    let fail (x : State) (st : Nat) : State := (opEntry x c o2 2 (.pass (8 * o2) (some st)) (some (c.p + 4)) true).2
    match t.item with
    | none => (fail s eArgs, .seq)
    | some it =>
      if it.done ∨ (chainCoats (s.plan.of it.epoch) it.chain).length ≤ it.coat + 1 then (fail s eArgs, .seq)
      else
        let nx := passedItem t it
        if passBusy s nx then (fail (dispCnt s (tidCluster c.tid) 0x20 1) eBusy, .seq)
        else
          let w := (changedWords t).foldl (fun x w =>
            hbmPut x 1 (65 + tidCluster c.tid) (bufAddr x it.handle + headroom (x.plan.of it.epoch) + w.1) w.2) s
          let s1 := modSlots w c.tid (fun l => l.erase it.handle)
          let e := opEntry s1 c o2 2 (.pass (8 * o2) none) (some (c.p + 4)) true
          (modTh e.2 c.tid (fun t => { t with passing := tblSet t.passing e.1 nx, item := some { it with done := true } }), .seq)

/-! ### Waiting (R314, R325) -/

/-- WAIT. -/
def semWait (c : Ctx) (s : State) : State × Ctl :=
  if armedAt s c.tid c.p ≠ 0 then (s, .seq) else (s, if blocks s c.tid then .block .event else .again)

/-- The list tick of a cluster (R325). -/
def listTick (s : State) (n : Nat) : Nat := (s.now - (getCl s n).readyAt) * 5 / (8 * tickNs s.plan.now n)
/-- Capacity of a cluster's delay list. -/
def listCapacity : Nat := 512
/-- An entry joins a delay list, unless it is full. -/
def addTimer (s : State) (e : TimerEnt) : Bool × State :=
  let n := tidCluster e.tid
  if listCapacity ≤ (getCl s n).timers.length then (false, s)
  else (true, modCl s n (fun c => { c with timers := c.timers ++ [{ e with deadline := listTick s n + e.deadline }] }))

/-- A thread's own SLEEP entry. -/
def sleepEntry (s : State) (tid : Nat) : Option TimerEnt := (timersOf s tid).find? (fun e => e.sleep)
/-- A SLEEP ends: its entry goes. -/
def endSleep (s : State) (tid : Nat) : State :=
  modTh (modCl s (tidCluster tid) (fun c => { c with timers := c.timers.filter (fun e => !(e.tid == tid && e.sleep)) })) tid
    (fun t => { t with sleeping := false })

/-- SLEEP: n = A[31:0]; F.E says that the list was full. -/
def semSleep (c : Ctx) (v s : State) : State × Ctl :=
  let t := getTh s c.tid
  let fault := (evfAt s c.tid c.p).testBit 17
  if t.sleeping then
    match sleepEntry s c.tid with
    | some e => if (e.due ∧ e.dueAt < c.p) ∨ fault then (res (endSleep s c.tid) c 3 (.ebit false), .seq) else (s, .again)
    | none => (res (endSleep s c.tid) c 3 (.ebit false), .seq)
  else
    match addTimer s { tid := c.tid, tag := 0, deadline := (getTh v c.tid).a.toNat % 2 ^ 32, sleep := true } with
    | (false, _) => (res (dispCnt s (tidCluster c.tid) 0x58 1) c 3 (.ebit true), .seq)
    | (true, s1) =>
      if blocks s c.tid then (s1, .block .sleep)
      else (modTh s1 c.tid (fun t => { t with sleeping := true }), .again)

/-- TMRSET: the deadline counts from the issue; the status comes in exactly 8 slots. -/
def semTmrset (c : Ctx) (o2 : Nat) (v s : State) : State × Ctl :=
  match areaBad o2 2 with
  | some e => (s, .exc e)
  | none =>
    let t := getTh v c.tid
    ((opEntry s c o2 2 (.tmrset (8 * o2) (t.a.toNat % 2 ^ 32 + listTick s (tidCluster c.tid)) (t.x.toNat % 65536)) (some (c.p + 8)) true).2, .seq)
/-- TMRCAN. -/
def semTmrcan (c : Ctx) (o2 : Nat) (v s : State) : State × Ctl :=
  match areaBad o2 2 with
  | some e => (s, .exc e)
  | none => ((opEntry s c o2 2 (.tmrcan (8 * o2) ((getTh v c.tid).x.toNat % 65536)) (some (c.p + 8)) true).2, .seq)

/-- The earliest due entry of a thread that TMRPOP can return. -/
def firstDue (s : State) (tid p : Nat) : Option TimerEnt :=
  ((timersOf s tid).filter (fun e => e.due && !e.sleep && decide (e.dueAt < p))).foldl (fun a e =>
    match a with
    | none => some e
    | some b => if e.deadline < b.deadline then some e else some b) none
/-- TMRPOP: A receives the tag; F.E says that no entry is due. -/
def semTmrpop (c : Ctx) (s : State) : State × Ctl :=
  match firstDue s c.tid c.p with
  | none => (res s c 4 (.ebit true), .seq)
  | some e =>
    let s1 := modCl s (tidCluster c.tid) (fun k => { k with timers := k.timers.erase e })
    (res (res s1 c 4 (.reg .a (BitVec.ofNat 64 e.tag))) c 4 (.ebit false), .seq)

/-! ### Channels, signals and shared registers (R320 to R324) -/

/-- CHSEND: decided when its status is written, within 8 slots in the cluster and 24 beyond it. -/
def semChsend (c : Ctx) (o1 o2 : Nat) (h : Bool) (v s : State) : State × Ctl :=
  match areaBad o2 2 with
  | some e => (s, .exc e)
  | none =>
    let t := getTh v c.tid
    let op : LongOp := .chsend (8 * o2) (t.x.toNat % 65536) (o1 % 8) t.a (if h then some (t.y.toNat % 2 ^ 32) else none)
    ((opEntry s c o2 2 op none false).2, .seq)
/-- SIGNAL. -/
def semSignal (c : Ctx) (o1 o2 : Nat) (v s : State) : State × Ctl :=
  match areaBad o2 2 with
  | some e => (s, .exc e)
  | none => ((opEntry s c o2 2 (.signal (8 * o2) ((getTh v c.tid).x.toNat % 65536) (o1 % 8)) none false).2, .seq)

/-- The head message of a channel is taken: A and X receive it at tick `land` (R321). -/
def takeMessage (s : State) (tid k land : Nat) : State :=
  match chanOf (getTh s tid) k with
  | [] => pendTh s tid land (.ebit true)
  | (m, h) :: r =>
    let s1 := modTh s tid (fun t => { t with chans := if r = [] then tblDel t.chans k else tblSet t.chans k r })
    pendTh (pendTh (pendTh s1 tid land (.reg .a m)) tid land (.reg .x (BitVec.ofNat 64 (h.getD 0xFFFFFFFF)))) tid land (.ebit false)
/-- CHRECV. -/
def semChrecv (c : Ctx) (o1 : Nat) (s : State) : State × Ctl :=
  let k := o1 % 8
  if (evfAt s c.tid c.p).testBit (5 + k) then (takeMessage s c.tid k (c.p + 5), .seq)
  else if blocks s c.tid then (s, .block (.channel k))
  else (res s c 4 (.ebit true), .seq)

/-- Whether a thread's domain may touch a domain's shared register, channel or event (R323, R324). -/
def domainsMeet (a b : Nat) : Bool := a == b || a == 0 || b == 0
/-- The domain of a thread: its pool's. -/
def threadDomain (t : Thread) : Nat := (t.bind.map (·.domain)).getD 0

/-- SRLD, SRST, SRADD and SRSWAP. The RIGHTS exception of a shared register has no address to report: its EADDR is a
free value. -/
def semSr (c : Ctx) (sub r n : Nat) (v s : State) : State × Ctl :=
  let t := getTh v c.tid
  let k := tidCluster c.tid
  if domainsMeet (threadDomain t) (shregDomain (planOfTh s t) k n) = false then
    let f := drawFree s
    (f.2, .exc { cause := 2, eaddr := f.1.toNat })
  else
    let g := getReg t (regA r)
    match sub with
    | 0 => (res s c 4 (.reg (regA r) (tblGet 0 (getCl v k).shreg n)), .seq)
    | 1 => (clusterOp s c.tid (c.p + 5) (.srst n g), .seq)
    | 2 => (clusterOp s c.tid (c.p + 5) (.sradd n g (regA r)), .seq)
    | _ => (clusterOp s c.tid (c.p + 5) (.srswap n g (regA r)), .seq)

end Sys2Proof.Machine
end

