-- ==== Sys2Proof/Machine/SkimLong.lean ====
section
/-!
DEFINITION. The long operations of Table 11-10 as they issue: lookups, learning, buffers, egress posts, table commands,
locks and coprocessors.
-/

namespace Sys2Proof.Machine

/-- A result that is decided at issue and written when the operation completes. -/
def decided (s : State) (c : Ctx) (o2 : Nat) (d : Bytes) (flag fault due : Option Nat) (exact : Bool) : State :=
  (opEntry s c o2 d.length (.result (8 * o2) d flag fault) due exact).2

/-- Bytes that a request names in bank 0 (R348). -/
def request (v : State) (c : Ctx) (o1 n : Nat) : Bytes := memBytes (getTh v c.tid).mem (8 * o1) n

/-- Domain of a requester: its work item's, or its pool's (R174, R223). -/
def workDomain (t : Thread) : Nat :=
  match t.item with
  | some it => it.domain
  | none => threadDomain t

/-- Whether a thread's epoch has retired (R63). -/
def epochRetired (s : State) (t : Thread) : Bool :=
  decide (t.epoch ≠ s.plan.epoch) && (match s.plan.old with | some o => o.epoch != t.epoch | none => true)

/-! ### LOOKUP and LEARN -/

/-- LOOKUP: the engine accepts it in its issue slot (R175). -/
def semLookup (c : Ctx) (o1 o2 : Nat) (v s : State) : State × Ctl :=
  match areaBad o1 32, areaBad o2 48 with
  | some e, _ => (s, .exc e)
  | none, some e => (s, .exc e)
  | none, none =>
    let t := getTh s c.tid
    if epochRetired s t then (decided s c o2 (toLE 2 eEpoch ++ zeros 46) (some 1) none (some (c.p + 856)) false, .seq)
    else
      let req := request v c o1 32
      let d := if threadDomain t = 0 then keyDomain (keyOf req) else workDomain t
      let r := lookupRun s (s.plan.of t.epoch) (c.tid % 2) d req
      (decided r.2.2.2 c o2 r.1 (some 1) none (some (c.p + r.2.1)) r.2.2.1, .seq)

/-- LEARN (R179): domain and port come from the work item. -/
def semLearn (c : Ctx) (o1 : Nat) (v s : State) : State × Ctl :=
  match areaBad o1 19 with
  | some e => (s, .exc e)
  | none =>
    let t := getTh s c.tid
    match t.item with
    | none => (tabCnt (tabCnt s 0x040 1) 0x080 1, .seq)
    | some it =>
      let md := memBytes (getTh v c.tid).mem 0x1100 64
      (learnPost s { key := withDomain (slice (request v c o1 19) 0 19) it.domain, port := leAt md 28 2 }, .seq)

/-! ### Buffers (R212, R219, R225) -/

/-- The 8-byte result of Table 7-6. -/
def bufResult (st reason pool h : Nat) : Bytes := toLE 2 st ++ toLE 1 reason ++ toLE 1 pool ++ toLE 4 h
/-- A thread as a requester (R223). -/
def threadReq (t : Thread) (tid : Nat) : Requester :=
  { id := tid, domain := some (workDomain t), cross := (t.bind.map (·.crossDomain)).getD false, thread := some tid }

/-- BUF_ALLOC of need REG[15:0]. -/
def bufAlloc (s : State) (t : Thread) (tid n : Nat) : Bytes × State :=
  if 16 ≤ (threadSlots s tid).length then (bufResult eBusy 4 0xFF noHandle, s)
  else
    match hodAlloc s (workDomain t) n with
    | (.granted h, s1) => (bufResult stOk 0 (hPool h) h, modSlots s1 tid (fun l => l ++ [h]))
    | (.refused why p, s1) => (bufResult eBusy why p noHandle, s1)
    | (.badSize, s1) => (bufResult eArgs 11 0xFF noHandle, s1)
/-- The pool that a result names. -/
def checkedPool (s : State) (h : Nat) : Nat := if 4 < hPool h ∨ poolCount s.plan.now (hPool h) = 0 then 0xFF else hPool h
/-- BUF_HOLD: the test for a holding slot follows the checks of Table 7-5 (R221). -/
def bufHold (s : State) (t : Thread) (tid h : Nat) : Bytes × State :=
  if (refCheck (stateTouch s h) h true (threadReq t tid)).isNone ∧ 16 ≤ (threadSlots s tid).length then
    (bufResult eBusy 4 (checkedPool s h) h, stateTouch s h)
  else
    match hodHold s h (threadReq t tid) with
    | (some x, s1) => (bufResult x.status x.reason (checkedPool s h) h, s1)
    | (none, s1) => (bufResult stOk 0 (hPool h) h, modSlots s1 tid (fun l => l ++ [h]))
/-- BUF_RELEASE. -/
def bufRelease (s : State) (t : Thread) (tid h : Nat) : Bytes × State :=
  match hodRelease s h (threadReq t tid) with
  | (some x, s1) => (bufResult x.status x.reason (checkedPool s h) h, s1)
  | (none, s1) => (bufResult stOk 0 (hPool h) h, s1)

/-- BUF: an allocation takes exactly 12 slots; the others at most 500 when their state word is not on-die. -/
def semBuf (c : Ctx) (sub r o2 : Nat) (v s : State) : State × Ctl :=
  match areaBad o2 8 with
  | some e => (s, .exc e)
  | none =>
    let t := getTh v c.tid
    let g := (getReg t (regA r)).toNat
    match sub with
    | 0 =>
      let x := bufAlloc s t c.tid (g % 65536)
      (decided x.2 c o2 x.1 none none (some (c.p + 12)) true, .seq)
    | 1 =>
      let x := bufHold s t c.tid (g % 2 ^ 32)
      (decided x.2 c o2 x.1 none none (some (c.p + 500)) false, .seq)
    | _ =>
      let x := bufRelease s t c.tid (g % 2 ^ 32)
      (decided x.2 c o2 x.1 none none (some (c.p + 500)) false, .seq)

/-! ### EPOST (R234, R239, R302, R511) -/

/-- A post by a thread that holds an item with an entry: its status, and the state. -/
def postItem (v s : State) (c : Ctx) (it : Item) (d : Bytes) (last : Bool) : Nat × State :=
  let ws := changedWords (getTh v c.tid)
  match it.pair with
  | some (_, side) => pairPost s c.tid it side d last ws
  | none =>
    if it.entry = false then (eArgs, orderCnt s 0x30)
    else
      let r := postEntry s (some c.tid) it.tick it.source it.handle d last
      if r.1 = stOk ∧ last then
        (r.1, ws.foldl (fun x w => hbmPut x 1 (65 + tidCluster c.tid) (bufAddr x it.handle + headroom (x.plan.of it.epoch) + w.1) w.2) r.2)
      else r

/-- The item after a post: done once LAST has been taken (R304). -/
def postedItem (s : State) (c : Ctx) (st : Nat) (last : Bool) : State :=
  if last ∧ st ≠ eArgs then modTh s c.tid (fun t => { t with item := t.item.map (fun it => { it with done := true }) }) else s

/-- EGRESS_POST. -/
def semEpost (c : Ctx) (direct last : Bool) (o1 o2 : Nat) (v s : State) : State × Ctl :=
  match areaBad o1 32, areaBad o2 2 with
  | some e, _ => (s, .exc e)
  | none, some e => (s, .exc e)
  | none, none =>
    let t := getTh s c.tid
    let d := request v c o1 32
    let put (x : State) (st : Nat) : State := decided x c o2 (toLE 2 st) (some 13) none (some (c.p + 8)) false
    if direct then
      match postDirect s c.tid t.epoch (workDomain t) d with
      | (some st, s1) => (put (postedItem s1 c st last) st, .seq)
      | (none, s1) => ((opEntry (postedItem s1 c stOk last) c o2 2 (.direct (8 * o2) d) none false).2, .seq)
    else
      match t.item with
      | none => (put (orderCnt s 0x30) eArgs, .seq)
      | some it =>
        if it.done then (put (orderCnt s 0x30) eArgs, .seq)
        else
          let r := postItem v s c it d last
          (put (postedItem r.2 c r.1 last) r.1, .seq)

/-! ### TCMD, LOCK -/

/-- TCMD: a command that finds no free slot completes at once with E_BUSY (R191). -/
def semTcmd (c : Ctx) (o1 o2 : Nat) (v s : State) : State × Ctl :=
  match areaBad o1 64, areaBad o2 64 with
  | some e, _ => (s, .exc e)
  | none, some e => (s, .exc e)
  | none, none =>
    if 56 ≤ threadSlotsUsed s then (decided s c o2 (cmdResult s eBusy) (some 14) none (some c.p) false, .seq)
    else ((opEntry s c o2 64 (.tcmd (8 * o2) (request v c o1 64)) none false).2, .seq)

/-- LOCK (R395 to R397): the unit takes the operations of a slot in ascending THREAD_ID. -/
def semLock (c : Ctx) (sub r o2 : Nat) (v s : State) : State × Ctl :=
  match areaBad o2 2 with
  | some e => (s, .exc e)
  | none =>
    let n := (getReg (getTh v c.tid) (regA r)).toNat % 4096
    let e := opEntry s c o2 2 (.lockWait (8 * o2) n) (some (c.p + 12)) true
    ({ e.2 with core := { e.2.core with lockOps := e.2.core.lockOps ++
      [{ tick := c.p, tid := c.tid, entry := e.1, sub := sub, lock := n, off := 8 * o2 }] } }, .seq)

/-! ### Coprocessors (R378 to R384) -/

/-- The ownership test of a word that touches a unit (R379): the exception, or the state with the thread as owner. -/
def copClaim (s : State) (tid k : Nat) : Except Exc State :=
  let u := tidUnit tid
  match (getCop s u k).owner with
  | none => .ok (modCop s u k (fun x => { x with owner := some tid }))
  | some o => if o = tid then .ok s else .error { cause := 2, eaddr := o + 2 ^ 63 }
/-- A refused word counts OWNER_REJECTS. -/
def ownerReject (s : State) (c : Ctx) (e : Exc) : State × Ctl := (copCnt s c.tid 0x10, .exc e)

/-- Registers of a file that differ from an earlier one. -/
def changedRegs (old new : Table W64) : Table W64 := new.filter (fun e => creg old e.1 != e.2)

/-- COP (R381, R382, R391, R394). -/
def semCop (c : Ctx) (k func args : Nat) (v s : State) : State × Ctl :=
  let t := getTh v c.tid
  let u := tidUnit c.tid
  let n := if copArgs k func = some 0xFFFF then t.x.toNat % 8192 else 0
  match copClaim s c.tid k with
  | .error e => ownerReject s c e
  | .ok s1 =>
    match (if n = 0 then none else privBad args n) with
    | some o => (s, .exc { cause := 1, eaddr := o })
    | none =>
      let regs := (getCop v u k).regs
      let d := memBytes t.mem args n
      let slots := if k = 0 then scrimSlots func n else sealerSlots func n regs
      let start (x : State) (w : Table W64) (err : Option Nat) (key : Option (Nat × Nat × Bytes)) : Nat × State :=
        allocEntry x c.tid [.unit k] (.cop k func w err key) (some (c.p + slots)) true
      match copMarks s1 u k with
      | m :: ms =>
        let e := start s1 [] none none
        (copParity e.2 c.tid k e.1 (m :: ms), .seq)
      | [] =>
        if k = 0 then ((start s1 (changedRegs regs (scrimRun func args regs d)) none none).2, .seq)
        else
          match keyReject s1 (threadDomain t) func regs with
          | some st => ((start s1 (changedRegs regs (lastFunc regs 15 func)) (some st) none).2, .seq)
          | none =>
            let r := sealerRun s1 (threadDomain t) func regs d
            ((start r.2.2 (changedRegs regs r.1) none r.2.1).2, .seq)

/-- CMOV (R383). -/
def semCmov (c : Ctx) (k : Nat) (dir : Bool) (r n : Nat) (v s : State) : State × Ctl :=
  let u := tidUnit c.tid
  match copClaim s c.tid k with
  | .error e => ownerReject s c e
  | .ok s1 =>
    if dir then
      match (copMarks s1 u k).filter (fun m => m.word == n) with
      | m :: ms =>
        let f := drawFree s1
        (copParity f.2 c.tid k f.1.toNat (m :: ms), .seq)
      | [] => (res s1 c 4 (.reg (regA r) (creg (getCop v u k).regs n)), .seq)
    else (res (clearMark s1 (copLoc u k) n) c 4 (.copro k n (getReg (getTh v c.tid) (regA r))), .seq)

/-- Length of a unit's context (Table 13-9). -/
def contextLen (k : Nat) : Nat := if k = 0 then 64 else 128
/-- CSAVE (R384). -/
def semCsave (c : Ctx) (k o1 : Nat) (v s : State) : State × Ctl :=
  let u := tidUnit c.tid
  let n := contextLen k
  match (getCop s u k).owner with
  | some o =>
    if o ≠ c.tid then ownerReject s c { cause := 2, eaddr := o + 2 ^ 63 }
    else
      match areaBad o1 n with
      | some e => (s, .exc e)
      | none =>
        let regs := (getCop v u k).regs
        match copMarks s u k with
        | m :: ms =>
          let f := drawFree s
          (copParity f.2 c.tid k f.1.toNat (m :: ms), .seq)
        | [] =>
          let d := (List.range (n / 8)).flatMap (fun i => toLE 8 (creg regs i).toNat)
          let s1 := copCnt (modCop s u k (fun _ => {})) c.tid 0x38
          (res s1 c 6 (.bytes (8 * o1) d), .seq)
  | none =>
    match areaBad o1 n with
    | some e => (s, .exc e)
    | none => (res s c 6 (.bytes (8 * o1) (zeros n)), .seq)
/-- CRESTORE (R384). -/
def semCrestore (c : Ctx) (k o1 : Nat) (v s : State) : State × Ctl :=
  let n := contextLen k
  match copClaim s c.tid k with
  | .error e => ownerReject s c e
  | .ok s1 =>
    match areaBad o1 n with
    | some e => (s, .exc e)
    | none =>
      let d := request v c o1 n
      let regs := (List.range (n / 8)).foldl (fun (t : Table W64) i => tblSet t i (BitVec.ofNat 64 (leAt d (8 * i) 8))) []
      ((allocEntry s1 c.tid [.unit k] (.crestore k regs) (some (c.p + 4)) true).2, .seq)

end Sys2Proof.Machine
end

