-- ==== Sys2Proof/Machine/RenderOps.lean ====
section
/-!
DEFINITION. What Render instructions do (R352 to R371): operands, checks, issue words, and results.
-/

namespace Sys2Proof.Machine

/-- A register by RN (Table 12-4); code 3, LC, is read only. -/
def regR (n : Nat) : Reg :=
  match n with
  | 0 => .a
  | 1 => .x
  | 2 => .y
  | 4 => .b
  | n => .p (n - 8)
/-- The value of a register operand. -/
def regVal (t : Thread) (n : Nat) : W64 := if n = 3 then BitVec.ofNat 64 t.lc else getReg t (regR n)
/-- An index register XR shifted by SC: A, X and Y signed, LC zero-extended. -/
def indexVal (t : Thread) (xr sc : Nat) : Int :=
  (match xr with
  | 0 => t.a.toInt
  | 1 => t.x.toInt
  | 2 => t.y.toInt
  | _ => (t.lc : Int)) * (2 ^ sc : Nat)

/-! ### Operand roles -/

/-- The sources of an instruction, by operand (R360). -/
def sourcesOf (o : GOp) (ops : List Spec) : List Nat :=
  let bitfDest := match ops.head? with | some (.bitf _ _ _ _) => true | _ => false
  if isAluOp o.op then (if o.tri then (if bitfDest then [0, 1, 2] else [1, 2]) else [0, 1])
  else
    match o.op with
    | 0x10 => [0, 1]
    | 0x11 => [0, 1]
    | 0x12 => []
    | 0x14 => [1]
    | _ => if bitfDest then [0, 1] else [1]
/-- Whether operand `k` is written. -/
def writesOp (o : GOp) (k : Nat) : Bool := k == 0 && hasDest o.op
/-- Operand `k`. -/
def operandAt (ops : List Spec) (k : Nat) : Spec := (ops.drop k).headD (.imm 0)

/-! ### Addresses and checks (R355, R359) -/

/-- A pointer with the changes made by the specifiers before. -/
def ptrNow (t : Thread) (ptrs : Table W64) (n : Nat) : Nat := ((tblFind ptrs n).getD (getReg t (.p n))).toNat
/-- A sum modulo 2^48. -/
def mod48 (v : Int) : Nat := (v % (2 ^ 48 : Nat)).toNat
/-- A sum modulo 2^16. -/
def mod16 (v : Int) : Nat := (v % (2 ^ 16 : Nat)).toNat

/-- Where a memory operand is, before any check. -/
inductive OpLoc where
  | bank (b off : Nat)
  | ptr (a : Nat)
  /-- TIND: the table entry's address. -/
  | table (a : Nat)
  deriving DecidableEq, Repr

/-- The location of a memory operand, with the pointers after it. -/
def specLoc (t : Thread) (size : Nat) (sp : Spec) (ptrs : Table W64) : OpLoc × Table W64 :=
  match sp with
  | .bank0 off => (.bank 0 off, ptrs)
  | .bank0x xr sc off => (.bank 0 (mod16 (off + indexVal t xr sc)), ptrs)
  | .bankb xr sc xen off => (.bank t.b.toNat (if xen then mod16 (off + indexVal t xr sc) else off), ptrs)
  | .abs a => (.ptr a, ptrs)
  | .ptr pn ix d => (.ptr (mod48 (ptrNow t ptrs pn + (match ix with | some (xr, sc) => indexVal t xr sc | none => 0) + d)), ptrs)
  | .postinc pn =>
    let a := ptrNow t ptrs pn
    (.ptr a, tblSet ptrs pn (BitVec.ofNat 64 ((a + size) % 2 ^ 48)))
  | .predec pn =>
    let a := mod48 (ptrNow t ptrs pn - size)
    (.ptr a, tblSet ptrs pn (BitVec.ofNat 64 a))
  | .bitf pn d _ _ => (.ptr (mod48 (ptrNow t ptrs pn + d)), ptrs)
  | .tind pn xr _ => (.table (mod48 (ptrNow t ptrs pn + 8 * indexVal t xr 0)), ptrs)
  | _ => (.ptr 0, ptrs)

/-- The checks of an access that may read and may write. -/
def checkBoth (f : Bool → Except Exc Place) (rd wr : Bool) : Except Exc Place :=
  match (if rd then f false else f true) with
  | .error e => .error e
  | .ok p => if wr then f true else .ok p

/-- A place as the program state of an instruction holds it, and back. -/
def packPlace (p : Place) : Bool × Nat :=
  match p with
  | .priv o => (true, o)
  | .own a => (false, a)
  | .far a => (false, a)
/-- The place of a packed address. -/
def unpackPlace (tid : Nat) (e : Bool × Nat) : Place :=
  if e.1 then .priv e.2
  else
    match regionOf e.2 with
    | some (.cluster n, _, _) => if n = tidCluster tid then .own e.2 else .far e.2
    | _ => .far e.2

/-- Operand `k` is checked; the address of a TIND is its table entry's. -/
def checkOp (v : State) (tid : Nat) (o : GOp) (ops : List Spec) (k : Nat) (ptrs : Table W64) : Except Exc (Option (Bool × Nat) × Table W64) :=
  let sp := operandAt ops k
  let t := getTh v tid
  if sp.isMem = false ∨ o.op = 0x12 then .ok (none, ptrs)
  else
    let l := specLoc t o.size sp ptrs
    let rd := (sourcesOf o ops).contains k
    let wr := writesOp o k
    match (match l.1 with
      | .bank b off => checkBoth (resolveBank v tid b off o.size) rd wr
      | .ptr a => checkBoth (resolvePtr v tid a o.size) rd wr
      | .table a => resolvePtr v tid a 8 false) with
    | .error e => .error e
    | .ok p => .ok (some (packPlace p), l.2)

/-- The checks of all operands in operand order: their addresses, and the pointers after them. -/
def checkOps (v : State) (tid : Nat) (o : GOp) (ops : List Spec) : Except Exc (Table (Bool × Nat) × Table W64) :=
  (List.range ops.length).foldl (fun acc k =>
    match acc with
    | .error e => .error e
    | .ok (as, ptrs) =>
      match checkOp v tid o ops k ptrs with
      | .error e => .error e
      | .ok (some a, p) => .ok (tblSet as k a, p)
      | .ok (none, p) => .ok (as, p)) (.ok ([], []))

/-- Whether a specifier is a TIND. -/
def Spec.isTind : Spec → Bool
  | .tind _ _ _ => true
  | _ => false
/-- Whether an address lies in the own cluster's shared memory. -/
def isOwn (tid : Nat) (e : Bool × Nat) : Bool := match unpackPlace tid e with | .own _ => true | _ => false
/-- Whether an access through a packed address is long. -/
def isFar (tid : Nat) (e : Bool × Nat) : Bool := match unpackPlace tid e with | .far _ => true | _ => false
/-- Whether an address lies in HBM. -/
def inHbm (a : Nat) : Bool := decide (a ≤ 0x0FFFFFFFFF)
/-- BANK0 and BANK0X. -/
def Spec.isBank0 : Spec → Bool
  | .bank0 _ => true
  | .bank0x _ _ _ => true
  | _ => false

/-- The causes of ILLEGAL that depend on the operands' final addresses (R356, R362, R369, R370). -/
def addressBad (tid : Nat) (o : GOp) (ops : List Spec) (as : Table (Bool × Nat)) : Bool :=
  let far := as.filter (fun e => isFar tid e.2)
  let srcs := sourcesOf o ops
  let lastSrc := srcs.getLast?
  let destOk := !hasDest o.op || !(operandAt ops 0).isMem || (operandAt ops 0).isBank0
  as.any (fun e => match operandAt ops e.1 with | .bitf _ _ _ _ => !isOwn tid e.2 | _ => false) ||
  decide (1 < far.length) ||
  far.any (fun e => srcs.contains e.1 && (decide (some e.1 ≠ lastSrc) || !destOk)) ||
  ((o.op == 0x13 || o.op == 0x14) &&
    as.any (fun e => e.2.1 || e.2.2 % o.size != 0 || !(isOwn tid e.2 || inHbm e.2.2)))

/-- A table entry that is misaligned or outside the own cluster (R357). -/
def tableBad (tid : Nat) (ops : List Spec) (as : Table (Bool × Nat)) : Bool :=
  as.any (fun e => (operandAt ops e.1).isTind && (decide (e.2.2 % 8 ≠ 0) || !isOwn tid e.2))

/-! ### Issue words (Table 12-5) -/

/-- Whether an instruction is of the load form. -/
def loadForm (o : GOp) (ops : List Spec) : Bool :=
  (o.op == 0x01 || o.op == 0x13 || o.op == 0x0F) && (match operandAt ops 0 with | .reg _ => true | _ => false) && (operandAt ops 1).isMem
/-- Whether it is of the store form. -/
def storeForm (o : GOp) (ops : List Spec) : Bool :=
  (o.op == 0x14) ||
  (o.op == 0x01 && (operandAt ops 0).isMem && (match operandAt ops 0 with | .bitf _ _ _ _ => false | _ => true) && !(operandAt ops 1).isMem)

/-- The words of an instruction whose operands have these addresses. -/
def stepsOf (tid : Nat) (o : GOp) (ops : List Spec) (as : Table (Bool × Nat)) (crosses_ : Bool) : List RStep :=
  let tab (k : Nat) : List RStep := if (operandAt ops k).isTind then [.table k] else []
  let far (k : Nat) : Bool := !(operandAt ops k).isTind && (match tblFind as k with | some e => isFar tid e | none => false)
  let body : List RStep :=
    if o.op = 0x12 ∨ ops.any Spec.isMem = false then [.final]
    else if loadForm o ops then tab 1 ++ [.final]
    else if storeForm o ops then tab 0 ++ [.final]
    else
      let srcs := (sourcesOf o ops).filter (fun k => (operandAt ops k).isMem && !far k)
      srcs.flatMap (fun k => tab k ++ [.source k]) ++ (if (operandAt ops 0).isTind ∧ srcs.contains 0 = false then [.table 0] else []) ++ [.final]
  (if crosses_ then [.refill] else []) ++ body

/-! ### Values and results -/

/-- The value of a memory operand from the bytes read: a bit field or the whole, extended (R355, R356). -/
def memValue (o : GOp) (sp : Spec) (d : Bytes) : W64 :=
  let raw := if o.be then beVal d else leVal d
  match sp with
  | .bitf _ _ pos width =>
    let f := raw / 2 ^ pos % 2 ^ width
    if o.sx then BitVec.ofInt 64 (signedOf width f) else BitVec.ofNat 64 f
  | _ => loadValue { size := o.size, be := o.be, sx := o.sx } d

/-- The computation of an instruction (R364). -/
def gCompute (o : GOp) (a b : W64) (carry : Bool) : Option W64 × Option Fl :=
  let r := match o.op with
    | 0x01 => (some b, none)
    | 0x0E => (some (mulFl a b).1, some (mulFl a b).2)
    | 0x0F => (some (bswapV b o.size), none)
    | 0x10 => aluRun 9 a b carry
    | 0x11 => aluRun 10 a b carry
    | n => aluRun (aluFnOf n) a b carry
  (r.1, if o.nf then none else r.2)

/-- The bytes that a write of a result stores: a bit field keeps the rest of the value read (R356). -/
def destBytes (o : GOp) (sp : Spec) (old r : W64) : Bytes :=
  let v := match sp with
    | .bitf _ _ pos width =>
      let k := old.toNat
      let f := k / 2 ^ pos % 2 ^ width
      BitVec.ofNat 64 (k - f * 2 ^ pos + r.toNat % 2 ^ width * 2 ^ pos)
    | _ => r
  storeBytes { size := o.size, be := o.be } v

/-- The address that a TIND forms from its table entry (R357). -/
def tindAddr (sp : Spec) (entry : W64) : Nat :=
  match sp with
  | .tind _ _ d => mod48 ((entry.toNat % 2 ^ 48 : Nat) + d)
  | _ => 0

/-- A TIND's operand is checked in the word that carries it. -/
def tindPlace (v : State) (tid : Nat) (o : GOp) (ops : List Spec) (k : Nat) (entry : W64) : Except Exc Place :=
  checkBoth (resolvePtr v tid (tindAddr (operandAt ops k) entry) o.size) ((sourcesOf o ops).contains k) (writesOp o k)

/-- The final addresses of all operands: each TIND whose word has not come yet is resolved now. -/
def finalAddrs (v : State) (tid : Nat) (o : GOp) (ops : List Spec) (g : RProg) (done : List Nat) : Except Exc (Table (Bool × Nat)) :=
  g.addrs.foldl (fun acc e =>
    match acc with
    | .error x => .error x
    | .ok as =>
      if (operandAt ops e.1).isTind ∧ done.contains e.1 = false then
        match tindPlace v tid o ops e.1 ((tblFind g.vals e.1).getD 0) with
        | .error x => .error x
        | .ok p => .ok (tblSet as e.1 (packPlace p))
      else .ok (tblSet as e.1 e.2)) (.ok [])

/-- The pointer changes of POSTINC and PREDEC (R361). -/
def putPtrs (s : State) (c : Ctx) (g : RProg) : State := g.ptrs.foldl (fun x e => res x c 3 (.reg (.p e.1) e.2)) s

/-- A result goes to its destination. -/
def putDest (s : State) (c : Ctx) (o : GOp) (ops : List Spec) (as : Table (Bool × Nat)) (old r : W64) (lat : Nat) : State :=
  match operandAt ops 0 with
  | .reg n => res s c lat (.reg (regR n) r)
  | sp =>
    match tblFind as 0 with
    | some e => storeTo s c (unpackPlace c.tid e) (destBytes o sp old r)
    | none => s

/-- SC (R370). -/
def scStart (s : State) (c : Ctx) (o : GOp) (r : Reg) (val : W64) (pl : Place) : State :=
  let f : LoadFmt := { size := o.size, be := o.be }
  let d := storeBytes f val
  match pl with
  | .own a =>
    let e := allocEntry s c.tid [.reg r] (.sc a f r val none) (some (c.p + 14)) true
    clusterOp e.2 c.tid (c.p + 13) (.sc a d e.1)
  | .far a =>
    let e := allocEntry s c.tid [.reg r] (.sc a f r val none) none false
    { e.2 with hbm := { e.2.hbm with waiting := e.2.hbm.waiting ++
      [{ port := 4, source := c.tid, addr := a, n := o.size, write := some d, accepted := e.2.now, use := .sc c.tid e.1 }] } }
  | .priv _ => s

/-- Names of a long source's destination. -/
def destNames (o : GOp) (ops : List Spec) (as : Table (Bool × Nat)) : List Names × RDest :=
  if hasDest o.op = false then ([], .none)
  else
    match operandAt ops 0 with
    | .reg n => ([.reg (regR n)], .reg (regR n))
    | _ => match tblFind as 0 with | some e => ([.range e.2 o.size], .bank0 e.2) | none => ([], .none)

/-- The final word of an instruction (R361, R362, R364, R369): `as` are the final addresses. -/
def gFinal (c : Ctx) (o : GOp) (ops : List Spec) (g : RProg) (as : Table (Bool × Nat)) (v s : State) : State :=
  let t := getTh v c.tid
  let val (k : Nat) : W64 :=
    match operandAt ops k with
    | .reg n => regVal t n
    | .imm x => x
    | sp => memValue o sp (toLE o.size ((tblFind g.vals k).getD 0).toNat)
  let li := if o.tri then 1 else 0
  let ri := if o.tri then 2 else 1
  let lat := if o.op = 0x0E then 5 else 3
  let s1 := putPtrs s c g
  if o.op = 0x12 then
    match specLoc t o.size (operandAt ops 1) [] with
    | (.ptr a, _) => putDest s1 c o ops as 0 (BitVec.ofNat 64 a) 3
    | _ => s1
  else if o.op = 0x14 then
    match operandAt ops 1, tblFind as 0 with
    | .reg n, some e => scStart s1 c o (regR n) (regVal t n) (unpackPlace c.tid e)
    | _, _ => s1
  else
    let long := (sourcesOf o ops).find? (fun k => match tblFind as k with | some e => isFar c.tid e | none => false)
    match long with
    | some k =>
      let a := ((tblFind as k).getD (false, 0)).2
      let fmt : LoadFmt := { size := o.size, be := o.be, sx := o.sx }
      let nm := destNames o ops as
      if o.op = 0x13 then
        match operandAt ops 0 with
        | .reg n => longLoad s1 c a o.size nm.1 (.lr a fmt (regR n)) true
        | _ => s1
      else longLoad s1 c a o.size nm.1 (.rload a { op := o.op, fmt := fmt, nf := o.nf, tri := o.tri, other := val li, carry := t.fc, dest := nm.2 })
    | none =>
      if loadForm o ops then
        match tblFind as 1, operandAt ops 0 with
        | some e, .reg n =>
          let pl := unpackPlace c.tid e
          let d := shortRead v c.tid pl o.size
          let s2 := if o.op = 0x13 then modTh s1 c.tid (fun t => { t with resv := some (lineOf e.2, c.p) }) else s1
          let b := memValue o (operandAt ops 1) d
          res s2 c (shortLat pl o.size) (.reg (regR n) ((gCompute { o with op := if o.op = 0x13 then 0x01 else o.op } 0 b false).1.getD b))
        | _, _ => s1
      else
        let r := gCompute o (val li) (val ri) t.fc
        let s2 := match r.1 with
          | some x => if hasDest o.op then putDest s1 c o ops as ((tblFind g.vals 0).getD 0) x lat else s1
          | none => s1
        resFlags s2 c r.2

/-- What the final word asks of the scoreboard (R274): a free entry for a long source or an SC, and a free place for a
store. -/
def finalUses (tid : Nat) (o : GOp) (ops : List Spec) (as : Table (Bool × Nat)) : Uses :=
  let far (k : Nat) : Bool := match tblFind as k with | some e => isFar tid e | none => false
  { long := o.op == 0x14 || (sourcesOf o ops).any far, store := writesOp o 0 && (operandAt ops 0).isMem }

/-- One issue word of an instruction. -/
def gStep (c : Ctx) (o : GOp) (ops : List Spec) (v s : State) : Nat → RProg → State × Ctl
  | 0, _ => (s, .seq)
  | fuel + 1, g =>
    let hold (g : RProg) : State × Ctl :=
      let nx := Nat.max (c.p + 1) (match g.steps with | .final :: _ => Nat.max g.ready g.tready | _ => g.tready)
      (modTh s c.tid (fun t => { t with rprog := some g, nextAt := nx }), .placed)
    match g.steps with
    | [] => (s, .seq)
    | .refill :: r => hold { g with steps := r }
    | .table k :: r =>
      let a := ((tblFind g.addrs k).getD (false, 0)).2
      hold { g with steps := r, vals := tblSet g.vals k (BitVec.ofNat 64 (leVal (memBytes v.mem a 8))), tready := c.p + 12 }
    | .source k :: r =>
      let pl := if (operandAt ops k).isTind then tindPlace v c.tid o ops k ((tblFind g.vals k).getD 0)
        else .ok (unpackPlace c.tid ((tblFind g.addrs k).getD (false, 0)))
      match pl with
      | .error e => (s, .exc e)
      | .ok (.far _) => gStep c o ops v s fuel { g with steps := r }
      | .ok p =>
        let d := shortRead v c.tid p o.size
        hold { g with
          steps := r, src := k :: g.src, addrs := tblSet g.addrs k (packPlace p), vals := tblSet g.vals k (BitVec.ofNat 64 (leVal d))
          ready := Nat.max g.ready (c.p + shortLat p o.size) }
    | .final :: _ =>
      match finalAddrs v c.tid o ops g g.src with
      | .error e => (s, .exc e)
      | .ok as =>
        if addressBad c.tid o ops as then (s, .exc excIllegal)
        else if scoreboardStops (getTh s c.tid) (finalUses c.tid o ops as) then (s, .stalled)
        else (gFinal c o ops g as v s, .seq)

end Sys2Proof.Machine
end

