-- ==== Sys2Proof/Machine/RenderIssue.lean ====
section
/-!
DEFINITION. Words and instructions as they issue: what a Skim word does, the words of a Render instruction, the elements
of a block instruction, and the one operation through which every row of a thread issues (R274, R315, R333 to R376).
-/

namespace Sys2Proof.Machine

/-! ### Skim words -/

/-- The address of a LOOP's, BR's or BAL's surroundings, in the units of the mode of `c`. -/
def codeUnit (c : Ctx) : Nat := if c.render then 2 else 4
/-- A code address plus a displacement, modulo 2^24. -/
def codeAdd (a : Nat) (d : Int) : Nat := (((a : Int) + d) % (2 ^ 24 : Nat)).toNat

/-- What a Skim word does; an SKW instruction runs its embedded word here too (R365). -/
def runSk (c : Ctx) (x : SkWord) (v s : State) : State × Ctl :=
  match x with
  | .paired a b => semPaired c a b v s
  | .nop => (s, .seq)
  | .alu fn d sk src imm => semAlu c fn d sk src imm v s
  | .insh d imm => semInsh c d imm v s
  | .ld r size am be sx z0 disp => semLd c r (2 ^ size) am { size := 2 ^ size, be := be, sx := sx } z0 disp v s
  | .st r size am be z0 disp => semSt c r (2 ^ size) am { size := 2 ^ size, be := be } z0 disp v s
  | .tas r am z0 disp => semTas c r am z0 disp v s
  | .loop csrc len imm => semLoop c csrc (4 * len) imm s
  | .setlc imm => semSetlc c 0 imm s
  | .br cond disp => semBr c cond (codeAdd (c.addr + 4) (4 * disp)) v s
  | .bal disp => semBal c (codeAdd (c.addr + 4) (4 * disp)) ((c.addr + 8) % 2 ^ 24) s
  | .jr r => semJr c r v s
  | .mode r => (s, .mode r)
  | .fence => semFence c s
  | .trap => (s, .exc { cause := 4 })
  | .retx => if (getTh s c.tid).ex then (s, .retx) else (s, .exc excIllegal)
  | .mfs r n => semMfs c r n v s
  | .mts r n => semMts c r n v s
  | .fmov d r => semFmov c d r v s
  | .thr sub o1 o2 h =>
    (match sub with
    | 0 => semNext c s
    | 1 => semWait c s
    | 2 => semSleep c v s
    | 3 => semPass c o2 v s
    | 4 => semChsend c o1 o2 h v s
    | 5 => semChrecv c o1 s
    | 6 => semSignal c o1 o2 v s
    | 7 => semTmrset c o2 v s
    | 8 => semTmrcan c o2 v s
    | _ => semTmrpop c s)
  | .sr sub r n => semSr c sub r n v s
  | .lookup o1 o2 => semLookup c o1 o2 v s
  | .learn o1 => semLearn c o1 v s
  | .buf sub r o2 => semBuf c sub r o2 v s
  | .epost d l o1 o2 => semEpost c d l o1 o2 v s
  | .tcmd o1 o2 => semTcmd c o1 o2 v s
  | .lock sub r o2 => semLock c sub r o2 v s
  | .cop k func args => semCop c k func args v s
  | .cmov k d r n => semCmov c k d r n v s
  | .cstate k restore o1 => if restore then semCrestore c k o1 v s else semCsave c k o1 v s

/-- The placement causes of a Skim word. -/
def skPlacement (s : State) (c : Ctx) (x : SkWord) : Bool :=
  placementBad s c x.isControl x.isBranch (match x with | .loop _ _ _ => true | _ => false) (match x with | .mode _ => true | _ => false) false

/-- A Skim word at its position: the scoreboard, the placement, and then what it does. -/
def issueSk (c : Ctx) (x : SkWord) (v s : State) : State × Ctl :=
  if scoreboardStops (getTh s c.tid) (skUses v c.tid x) then (s, .stalled)
  else if skPlacement s c x then (s, .exc excIllegal)
  else runSk c x v s

/-! ### Render instructions -/

/-- The registers that a specifier reads or writes. -/
def specRegs (sp : Spec) : List Reg :=
  let xr (n : Nat) : List Reg := if n = 3 then [] else [regA n]
  match sp with
  | .reg n => if n = 3 then [] else [regR n]
  | .bank0x x _ _ => xr x
  | .bankb x _ xen _ => .b :: (if xen then xr x else [])
  | .ptr pn (some (x, _)) _ => .p pn :: xr x
  | .ptr pn none _ => [.p pn]
  | .postinc pn => [.p pn]
  | .predec pn => [.p pn]
  | .bitf pn _ _ _ => [.p pn]
  | .tind pn x _ => .p pn :: xr x
  | _ => []

/-- The registers that an instruction without specifiers uses. -/
def insRegs (i : RIns) : List Reg :=
  match i with
  | .g _ ops => ops.flatMap specRegs
  | .bal _ => [.y]
  | .jr r => [regA r]
  | .loop k _ _ => if k = 0 then [] else [regA (k - 1)]
  | .setlc k _ => if k = 0 then [] else [regA (k - 1)]
  | .block op pd ps _ => (match op with
    | 0x20 => [.p pd, .p ps]
    | 0x21 => [.p pd, .a]
    | 0x22 => [.p pd, .p ps]
    | 0x23 => [.p ps, .a, .x]
    | _ => [.p ps, .a, .x])
  | _ => []

/-- The first word of a G-layout instruction: the checks of R359, and then its words (R360). -/
def gFirst (c : Ctx) (o : GOp) (ops : List Spec) (cross : Bool) (v s : State) : State × Ctl :=
  match checkOps v c.tid o ops with
  | .error e => (s, .exc e)
  | .ok (as, ptrs) =>
    let ranges := as.filterMap (fun e => if e.2.1 then some (e.2.2, o.size) else none)
    let plain := as.filter (fun e => !(operandAt ops e.1).isTind)
    if scoreboardStops (getTh s c.tid) { ranges := ranges } then (s, .stalled)
    else if tableBad c.tid ops as ∨ addressBad c.tid o ops plain then (s, .exc excIllegal)
    else
      let g : RProg := { steps := stepsOf c.tid o ops as cross, addrs := as, ptrs := ptrs }
      gStep c o ops v s (g.steps.length + 1) g

/-! ### Block instructions (R372 to R376) -/

/-- Whether a block operation reads a source and writes or reads a destination. -/
def blockUsesPs (op : Nat) : Bool := op != 0x21
/-- PD is in use. -/
def blockUsesPd (op : Nat) : Bool := decide (op ≤ 0x22)
/-- The destination is written. -/
def blockWrites (op : Nat) : Bool := decide (op ≤ 0x21)

/-- Whether a block range may lie at an address: cluster memory, HBM and, as a source only, the pinned table. -/
def blockRegion (a : Nat) (write : Bool) : Bool :=
  match regionOf a with
  | some (.hbm, _, _) => true
  | some (.cluster _, _, _) => true
  | some (.pinned, _, _) => !write
  | _ => false

/-- The checks of R372 on a block of `n` elements, 1 excepted. -/
def blockBad (v : State) (tid op pd ps n : Nat) : Option Exc :=
  let t := getTh v tid
  let s := (tblGet 0 t.p ps).toNat
  let d := (tblGet 0 t.p pd).toNat
  let us := blockUsesPs op
  let ud := blockUsesPd op
  let chk (use : Bool) (a : Nat) (wr : Bool) : Option Exc :=
    if use then match resolvePtr v tid a (8 * n) wr with | .error e => some e | .ok _ => none else none
  if (us && s % 8 != 0) || (ud && d % 8 != 0) then some excIllegal
  else
    match chk us s false with
    | some e => some e
    | none =>
      match chk ud d (blockWrites op) with
      | some e => some e
      | none =>
        if (us && !blockRegion s false) || (ud && !blockRegion d (blockWrites op)) then some excIllegal
        else if op = 0x20 ∧ s < d ∧ d < s + 8 * n then some excIllegal
        else none

/-- A place in memory as a block reaches it. -/
def ownAddr (tid a : Nat) : Bool := match regionOf a with | some (.cluster n, _, _) => decide (n = tidCluster tid) | _ => false

/-- A block's thread and state with the flags of Table 12-7. -/
def blockFlags (t : Thread) (z n c v : Bool) : Thread := { t with fz := z, fn := n, fc := c, fv := v }

/-- A block instruction ends at a tick: its entry clears, and control goes on behind it. -/
def blockEnd (s : State) (tid at_ : Nat) (b : Block) : State :=
  let t := getTh s tid
  let s1 := modTh s tid (fun t => { t with block := none, sb := t.sb.filter (fun e => e.id ≠ b.entry) })
  let c : Ctx := { tid := tid, p := at_ - 1, addr := t.pc, len := 2, render := true }
  finishWord s1 s1 c .seq

/-- Flags of a block whose elements have all been taken: BCMP found all equal, and leaves C open; BSCAN found none. -/
def blockFull (s : State) (tid op : Nat) : State :=
  if op = 0x22 then
    let f := drawFree s
    modTh f.2 tid (fun t => blockFlags t true false (f.1.getLsbD 0) false)
  else if op = 0x24 then modTh s tid (fun t => blockFlags t false false false false)
  else s

/-- An element counts as done: the pointers in use go on by 8, and LC goes down. -/
def blockCount (s : State) (tid : Nat) (b : Block) : State :=
  modTh s tid (fun t =>
    let t1 := if blockUsesPs b.op then setReg t (.p b.ps) (tblGet 0 t.p b.ps + 8) else t
    let t2 := if blockUsesPd b.op then setReg t1 (.p b.pd) (tblGet 0 t1.p b.pd + 8) else t1
    { t2 with lc := t.lc - 1 })

/-- A block ends when nothing is in flight and nothing more is to be requested. -/
def blockSettle (s : State) (tid at_ : Nat) : State :=
  match (getTh s tid).block with
  | some b =>
    if b.inflight ≠ [] then s
    else if b.stop then blockEnd s tid at_ b
    else if b.requested = b.total then blockEnd (blockFull s tid b.op) tid at_ b
    else s
  | none => s

/-- One request of a block at tick `p`: `v` is what the position reads. -/
def blockRequest (v s : State) (c : Ctx) : State :=
  match (getTh s c.tid).block with
  | none => s
  | some b =>
    let t := getTh s c.tid
    let k := b.requested
    let off := 8 * (k - (b.total - t.lc))
    let sa := (tblGet 0 t.p b.ps).toNat + off
    let da := (tblGet 0 t.p b.pd).toNat + off
    let us := blockUsesPs b.op
    let ud := blockUsesPd b.op
    let so := us && ownAddr c.tid sa
    let d_o := ud && ownAddr c.tid da
    let rd (yes : Bool) (a : Nat) : W64 := if yes then BitVec.ofNat 64 (leVal (memBytes v.mem a 8)) else 0
    let far := (us && !so) || (ud && !blockWrites b.op && !d_o)
    let due : Option Nat :=
      if far then none
      else if b.op = 0x20 ∧ d_o then some (c.p + 24)
      else some (c.p + 12)
    let e : BlockElem := { k := k, due := due, ps := rd so sa, pd := rd (d_o && !blockWrites b.op) da }
    let put (x : State) (l : List BlockElem) : State :=
      modTh x c.tid (fun t => { t with nextAt := c.p + 1, block := t.block.map (fun b => { b with requested := k + 1, inflight := l }) })
    if b.op = 0x21 ∧ d_o = false then
      let s1 := longStore s c da (toLE 8 t.a.toNat)
      blockSettle (put (blockCount s1 c.tid b) b.inflight) c.tid (c.p + 1)
    else put s (b.inflight ++ [e])

/-- The first word of a block instruction. -/
def semBlock (c : Ctx) (op pd ps : Nat) (fn : Bool) (v s : State) : State × Ctl :=
  let t := getTh s c.tid
  if t.lc = 0 then
    (if op = 0x22 ∨ op = 0x24 then res s c 3 (.zbit true) else s, .seq)
  else
    match blockBad v c.tid op pd ps t.lc with
    | some e => (s, .exc e)
    | none =>
      let e := allocEntry s c.tid [.lc] .block none false
      let s1 := modTh (landTh e.2 c.tid (c.p + 1)) c.tid (fun t => { t with block := some { op := op, pd := pd, ps := ps, fn := fn, total := t.lc, entry := e.1 } })
      (blockRequest v s1 c, .placed)

/-- A later position of a block instruction. -/
def blockWord (s : State) (tid p : Nat) (b : Block) : State :=
  let t := getTh s tid
  let put (f : Block → Block) : State := modTh s tid (fun t => { t with nextAt := p + 1, block := t.block.map f })
  if b.stop ∨ b.held ∨ b.requested = b.total then put id
  else if eventTakes s tid p then put (fun b => { b with held := true })
  else if 16 ≤ b.inflight.length ∨ (blockWrites b.op ∧ ownAddr tid (tblGet 0 t.p b.pd).toNat = false ∧ 32 ≤ t.stores.length + b.inflight.length) then
    coreCnt (put id) tid 0x10 1
  else
    let c : Ctx := { tid := tid, p := p, addr := t.pc, len := 2, render := true }
    blockRequest (stage3 s tid p) s c

/-! ### One issue -/

/-- What a Render instruction's word does. -/
def runRender (c : Ctx) (i : RIns) (v s : State) : State × Ctl :=
  let fin := c.addr + c.len
  let t := getTh s c.tid
  match i with
  | .nop => (s, .seq)
  | .g o ops =>
    (match t.rprog with
    | some g => gStep c o ops v s (g.steps.length + 1) g
    | none => gFirst c o ops (c.addr / 64 != (fin - 1) / 64) v s)
  | .br cond disp => semBr c cond (codeAdd fin (2 * disp)) v s
  | .bal disp => semBal c (codeAdd fin (2 * disp)) ((fin + renderLenAt s c.tid fin) % 2 ^ 24) s
  | .jr r => semJr c r v s
  | .loop csrc len imm => semLoop c csrc (2 * len) imm s
  | .setlc csrc imm => semSetlc c csrc imm s
  | .block op pd ps fn => semBlock c op pd ps fn v s
  | .skw w => (match decodeSkim w with | some x => runSk c x v s | none => (s, .exc excIllegal))

/-- Whether an instruction other than a G-layout one still owes the word in which the line buffer refills (R360). -/
def owesRefill (c : Ctx) (i : RIns) (t : Thread) : Bool :=
  (match i with | .g _ _ => false | _ => true) && c.addr / 64 != (c.addr + c.len - 1) / 64 && t.rprog.isNone

/-- A Render instruction's next word at its position. -/
def issueRender (c : Ctx) (i : RIns) (v s : State) : State × Ctl :=
  let t := getTh s c.tid
  let sk := match i with | .skw w => decodeSkim w | _ => none
  let regs := if t.rprog.isSome then [] else insRegs i
  let u : Uses := match sk with | some x => skUses v c.tid x | none => { regs := regs, long := match i with | .block _ _ _ _ => t.lc != 0 | _ => false }
  let control := i.isControl
  let isLoop := match i with | .loop _ _ _ => true | _ => false
  let isMode := match sk with | some (.mode _) => true | _ => false
  let isBlock := match i with | .block _ _ _ _ => true | _ => false
  if scoreboardStops t u then (s, .stalled)
  else if t.rprog.isNone && placementBad s c control i.isBranch isLoop isMode isBlock then (s, .exc excIllegal)
  else if owesRefill c i t then (modTh s c.tid (fun t => { t with rprog := some { steps := [] }, nextAt := c.p + 1 }), .placed)
  else runRender c i v s

/-- The rows that a Render instruction answers to: its own, and for SKW its embedded word's as well. -/
def rowFits (s : State) (tid : Nat) (i : RIns) (row : Row) : Bool :=
  decide (row = renderRow i) || (match i with | .skw w => decide (row = skRow s tid w) | _ => false)

/-- A fetch that has to wait: the thread's positions go idle from this one on (R280, R282). -/
def fetchWaits (s : State) (tid p line : Nat) : State :=
  let s1 := modTh s tid (fun t => { t with missing := true, waitAt := p })
  if fetchLine s tid line = .miss then coreCnt s1 tid 0x30 1 else s1

/-- A word that has issued: its line is in the line buffer and it counts. -/
def wordIssued (s : State) (tid addr len : Nat) : State :=
  let takeAt (x : State) (line : Nat) : State :=
    match fetchLine x tid line with
    | .line d => takeLine x tid line d
    | _ => x
  let s1 := coreCnt (takeAt (takeAt s (addr / 64)) ((addr + len - 1) / 64)) tid 0x00 1
  if (getTh s1 tid).served = [] then s1
  else modTh s1 tid (fun t => { t with served := t.served.filter (fun e => e.1 == addr / 64 || e.1 == (addr + len - 1) / 64) })

/-- The row of a word that raises CODE or ILLEGAL before it is decoded. -/
def deadRow (row : Row) : Bool := decide (row = Row.nop)

/-- A thread's word or instruction of a row issues at the thread's next position; when the word due there is of another
row, nothing happens. -/
def issue (s : State) (tid : Nat) (row : Row) : State :=
  match slotFor s tid with
  | none => s
  | some (p, s1) =>
    let t := getTh s1 tid
    match t.block with
    | some b =>
      let r : Row := match b.op with | 0x20 => .bmove | 0x21 => .bfill | 0x22 => .bcmp | 0x23 => .bsum | _ => .bscan
      if row = r then blockWord s1 tid p b else s
    | none =>
      if t.rprog.isNone && eventTakes s1 tid p then s
      else
        let v := stage3 s1 tid p
        let dead (e : Exc) (len : Nat) : State :=
          if deadRow row then finishWord s1 v { tid := tid, p := p, addr := t.pc, len := len, render := t.mode } (.exc e) else s
        match fetchCode s1 tid with
        | .wait line => fetchWaits s1 tid p line
        | .code => dead { cause := 5 } (if t.mode then 2 else 4)
        | .misaligned => dead excIllegal (if t.mode then 2 else 4)
        | .badIns => dead excIllegal 2
        | .word w =>
          let c : Ctx := { tid := tid, p := p, addr := t.pc, len := 4, render := false }
          if row ≠ skRow v tid w then s
          else
            (match decodeSkim w with
            | none => finishWord (wordIssued s1 tid t.pc 4) v c (.exc excIllegal)
            | some x =>
              let r := issueSk c x v s1
              if r.2 = .stalled then finishWord s1 v c .stalled
              else
                let r1 := issueSk c x v (wordIssued s1 tid t.pc 4)
                finishWord r1.1 v c r1.2)
        | .ins len i =>
          let c : Ctx := { tid := tid, p := p, addr := t.pc, len := len, render := true }
          if rowFits v tid i row = false then s
          else
            let r := issueRender c i v s1
            if r.2 = .stalled then finishWord s1 v c .stalled
            else
              let r1 := issueRender c i v (wordIssued s1 tid t.pc len)
              finishWord r1.1 v c r1.2

end Sys2Proof.Machine
end

