-- ==== Sys2Proof/Machine/CheckCode.lean ====
section
/-!
DEFINITION. The checks of a program's code (Tables 11-13 and 12-11): the code is decoded from the program's ENTRY_PC and
from the vectors of the pools bound to it, along fall-through, BR and BAL targets, loop bodies and MODE switches.
-/

namespace Sys2Proof.Machine

/-- A program's code: its plan, and the addresses `[first, last)`. -/
structure Prog where
  plan : PlanCopy
  first : Nat
  last : Nat

/-- What the checks of a program's code have met. -/
structure CodeFlags where
  /-- 0x0D08 to 0x0D0D. -/
  enc : Bool := false
  dly : Bool := false
  place : Bool := false
  renc : Bool := false
  rdly : Bool := false
  rplace : Bool := false
  deriving DecidableEq, Repr

/-- Either of two findings. -/
def CodeFlags.or (a b : CodeFlags) : CodeFlags :=
  { enc := a.enc || b.enc, dly := a.dly || b.dly, place := a.place || b.place, renc := a.renc || b.renc, rdly := a.rdly || b.rdly
    rplace := a.rplace || b.rplace }

/-- Whether an address lies in the program. -/
def Prog.holds (g : Prog) (a : Nat) : Bool := decide (g.first ≤ a) && decide (a < g.last)

/-- The Skim word at an address of the program: none outside the program, else its decoding. -/
def Prog.word (g : Prog) (a : Nat) : Option (Option SkWord) :=
  if g.holds a ∧ a + 4 ≤ g.last then
    if a % 4 ≠ 0 then some none
    else (codeAt g.plan a 4).map (fun d => decodeSkim (leVal d))
  else none

/-- The Render instruction at an address of the program: none outside the program, else its decoding. -/
def Prog.ins (g : Prog) (a : Nat) : Option (Option (RIns × Nat)) :=
  if g.holds a then
    match codeAt g.plan a (Nat.min 32 (g.last - a)) with
    | some d => (match parseRender (parcelsOf d) with | .ok i n => some (some (i, 2 * n)) | _ => some none)
    | none => some none
  else none

/-- A place that control reaches: in Render mode or not, and its address. -/
abbrev CodePos := Bool × Nat

/-- What a node of the walk gives: findings, and the places it leads to. -/
abbrev CodeNode := CodeFlags × List CodePos

/-! ### Skim -/

/-- Findings of a Skim word that stands in a delay slot or a shadow. -/
def slotWord (x : Option (Option SkWord)) (bad : SkWord → Bool) : CodeFlags :=
  match x with
  | none => {}
  | some none => { enc := true }
  | some (some w) => { place := w.isControl, dly := bad w }

/-- Findings of a Skim loop body `[first, fin)`. -/
def skLoop (g : Prog) (first fin : Nat) : CodeFlags :=
  let at_ (a : Nat) (f : SkWord → Bool) : Bool :=
    decide (first ≤ a) && (match g.word a with | some (some w) => f w | _ => false)
  { place := decide (g.last < fin) || at_ (fin - 4) SkWord.isControl || at_ (fin - 8) SkWord.isBranch }

/-- A Skim word at `a`. -/
def skNode (g : Prog) (a : Nat) : CodeNode :=
  match g.word a with
  | none => ({}, [])
  | some none => ({ enc := true }, [])
  | some (some x) =>
    match x with
    | .br cond disp =>
      (slotWord (g.word (a + 4)) SkWord.setsFlags,
        (false, codeAdd (a + 4) (4 * disp)) :: (if cond = 0 then [] else [(false, a + 8)]))
    | .bal disp => (slotWord (g.word (a + 4)) (fun _ => false), [(false, codeAdd (a + 4) (4 * disp))])
    | .jr r => (slotWord (g.word (a + 4)) (fun w => w.writes.contains r), [])
    | .mode r =>
      ((slotWord (g.word (a + 4)) (fun _ => false)).or (slotWord (g.word (a + 8)) (fun _ => false)), [(r, a + 12)])
    | .loop _ len _ =>
      (skLoop g (a + 4) (a + 4 + 4 * len),
        [(false, a + 4), (false, a + 4 + 4 * len)])
    | .retx => ({}, [])
    | _ => ({}, [(false, a + 4)])

/-! ### Render -/

/-- Whether an address lies in a cluster's shared memory. -/
def inClusters (a : Nat) : Bool := match regionOf a with | some (.cluster _, _, _) => true | _ => false

/-- Whether an operand is long for every thread: an absolute address outside the clusters' memories. -/
def alwaysFar : Spec → Bool
  | .abs a => !inClusters a
  | _ => false

/-- The causes of ILLEGAL of Table 12-10 that depend on absolute addresses and bank 0 operands alone (R362, R369,
R370). -/
def staticBad (o : GOp) (ops : List Spec) : Bool :=
  let srcs := sourcesOf o ops
  let far := (List.range ops.length).filter (fun k => alwaysFar (operandAt ops k) && (srcs.contains k || writesOp o k))
  let destOk := !hasDest o.op || !(operandAt ops 0).isMem || (operandAt ops 0).isBank0
  o.op != 0x12 && (decide (1 < far.length) || far.any (fun k => srcs.contains k && (decide (some k ≠ srcs.getLast?) || !destOk)) ||
    ((o.op == 0x13 || o.op == 0x14) && ops.any (fun sp => match sp with
      | .abs a => a % o.size != 0 || !(inClusters a || inHbm a)
      | .bank0 _ => true
      | .bank0x _ _ _ => true
      | _ => false)))

/-- Whether a Render instruction writes F (Table 12-11). -/
def RIns.setsFlags : RIns → Bool
  | .g o _ => !o.nf && (isAluOp o.op || o.op == 0x10 || o.op == 0x11)
  | .block op _ _ _ => op == 0x22 || op == 0x24
  | .skw w => match decodeSkim w with | some x => x.setsFlags | none => false
  | _ => false

/-- Whether a Render instruction writes A (0), X (1) or Y (2). -/
def RIns.writesReg (r : Nat) : RIns → Bool
  | .g o ops => (hasDest o.op && o.op != 0x14 && operandAt ops 0 == .reg r) || (o.op == 0x14 && operandAt ops 1 == .reg r)
  | .block op _ _ fn => op == 0x23 && (r == 0 || (r == 1 && !fn))
  | .skw w => match decodeSkim w with | some x => x.writes.contains r | none => false
  | _ => false

/-- Whether a Render instruction is illegal whatever the run-time state. -/
def RIns.illegal : RIns → Bool
  | .g o ops => staticBad o ops
  | _ => false

/-- Findings of a Render instruction that stands in a delay slot or a shadow. -/
def slotIns (x : Option (Option (RIns × Nat))) (bad : RIns → Bool) : CodeFlags :=
  match x with
  | none => {}
  | some none => { renc := true }
  | some (some (i, _)) => { rplace := i.isControl, rdly := bad i, renc := i.illegal }

/-- Length of the instruction at an address; 2 where none decodes. -/
def Prog.insLen (g : Prog) (a : Nat) : Nat := match g.ins a with | some (some (_, n)) => n | _ => 2

/-- The instructions from `a` up to `fin`, and the address at which they end. -/
def bodyIns (g : Prog) (fin : Nat) : Nat → Nat → List RIns × Nat
  | 0, a => ([], a)
  | k + 1, a =>
    if fin ≤ a then ([], a)
    else
      match g.ins a with
      | some (some (i, n)) => let r := bodyIns g fin k (a + n); (i :: r.1, r.2)
      | _ => ([], a)

/-- Findings of a Render loop body `[first, fin)`. -/
def rLoop (g : Prog) (first fin : Nat) : CodeFlags :=
  let b := bodyIns g fin ((fin - first) / 2 + 1) first
  let back := b.1.reverse
  { rplace := decide (b.2 ≠ fin) || (match back with | i :: _ => i.isControl | [] => false) ||
      (match back with | _ :: i :: _ => i.isBranch | _ => false) || b.1.any (fun i => match i with | .block _ _ _ _ => true | _ => false) }

/-- A Render instruction at `a`. -/
def rNode (g : Prog) (a : Nat) : CodeNode :=
  match g.ins a with
  | none => ({}, [])
  | some none => ({ renc := true }, [])
  | some (some (i, n)) =>
    let fin := a + n
    let own : CodeFlags := { renc := i.illegal }
    match i with
    | .br cond disp =>
      (slotIns (g.ins fin) RIns.setsFlags,
        (true, codeAdd fin (2 * disp)) :: (if cond = 0 then [] else [(true, fin + g.insLen fin)]))
    | .bal disp => (slotIns (g.ins fin) (fun _ => false), [(true, codeAdd fin (2 * disp))])
    | .jr r => (slotIns (g.ins fin) (RIns.writesReg r), [])
    | .loop _ len _ =>
      (rLoop g fin (fin + 2 * len), [(true, fin), (true, fin + 2 * len)])
    | .skw w =>
      (match decodeSkim w with
      | some (.mode r) =>
        let a2 := fin + g.insLen fin
        let a3 := a2 + g.insLen a2
        (((slotIns (g.ins fin) (fun _ => false)).or (slotIns (g.ins a2) (fun _ => false))).or { rplace := !r && a3 % 4 != 0 },
          if !r && a3 % 4 != 0 then [] else [(r, a3)])
      | some .retx => (own, [])
      | _ => (own, [(true, fin)]))
    | _ => (own, [(true, fin)])

/-! ### The walk -/

/-- The findings over all places that control reaches from `front`. -/
def walkCode (g : Prog) : Nat → List CodePos → List CodePos → CodeFlags → CodeFlags
  | 0, _, _, f => f
  | fuel + 1, front, seen, f =>
    let nodes := front.map (fun x => if x.1 then rNode g x.2 else skNode g x.2)
    let f1 := nodes.foldl (fun a n => a.or n.1) f
    let new := ((nodes.flatMap (·.2)).filter (fun x => g.holds x.2 && !seen.contains x)).eraseDups
    if new.isEmpty then f1 else walkCode g fuel new (seen ++ new) f1

/-- The vectors of the pools bound to program `n`; VECTOR (0x0F04) judges an odd one. -/
def poolVectors (p : PlanCopy) (n : Nat) : List Nat :=
  (((p.sec 0x0F).kind 0x0F 1).filter (fun e => leAt e.2 4 2 == n)).flatMap (fun e =>
    [leAt e.2 32 4, leAt e.2 36 4].filter (fun a => a != 0xFFFFFFFF && a % 2 == 0))

/-- The findings of program `n` with its PROGRAM entry. -/
def codeFlags (p : PlanCopy) (n : Nat) (r : Bytes) : CodeFlags :=
  let g : Prog := { plan := p, first := leAt r 4 4, last := leAt r 4 4 + leAt r 8 4 }
  let render := (byteAt r 1).testBit 2
  let starts := ((leAt r 12 4 :: poolVectors p n).map (fun a => (render, a))).eraseDups
  walkCode g (leAt r 8 4 + 1) starts starts {}

end Sys2Proof.Machine
end

