-- ==== Sys2Proof/Machine/CheckCore.lean ====
section
/-!
DEFINITION. The format checks of PROGRAMS, SLOT_TABLES, DISPATCH, BANKS_REGIONS, LOCK_GROUPS, HBM_QOS, SPAN and PAIRS
(Tables 9-10, 9-12, 10-13, 10-15, 11-13, 12-11, 13-15, 14-12, 16-11 and 17-10).
-/

namespace Sys2Proof.Machine

/-! ### PROGRAMS -/

/-- CODE (0x0D02). -/
def codeEntryBad (p : PlanCopy) (es : List (Nat × Bytes)) (i : Nat) (e : Bytes) : Bool :=
  match byteAt e 0 with
  | 1 =>
    let first := leAt e 4 4
    let len := leAt e 8 4
    let pc := leAt e 12 4
    first % 64 != 0 || decide (len < 1) || decide (2 ^ 24 < first + len) || pc % 2 != 0 || decide (pc < first) || decide (first + len ≤ pc) ||
      (List.range (ceilDiv (first + len) 64 - first / 64)).any (fun k => (codeLine p (first / 64 + k)).isNone)
  | 2 => decide (262143 < leAt e 4 4) || es.any (fun x => decide (x.1 < i) && byteAt x.2 0 == 2 && leAt x.2 4 4 == leAt e 4 4)
  | _ => false

/-- BANK_REF (0x0D06). -/
def bankRefBad (p : PlanCopy) (e : Bytes) : Bool :=
  let has (k v : Nat) : Bool := ((p.sec 0x10).kind 0x10 k).any (fun x => byteAt x.2 1 == v)
  let t := leAt e 48 2
  let r := leAt e 50 2
  (t != 0xFFFF && (decide (255 < t) || !has 1 t)) || (r != 0xFFFF && (decide (255 < r) || !has 2 r))

/-- The checks of a PROGRAMS entry, `n` its number when it is a PROGRAM. -/
def checkProgram (p : PlanCopy) (es : List (Nat × Bytes)) (i n : Nat) (e : Bytes) : Option CheckFail :=
  let k := byteAt e 0
  let prog := k == 1
  let flag (b : Nat) : Bool := (byteAt e 1).testBit b
  firstFail [
    failAt 0x0D 1 i (decide (k < 1) || decide (2 < k)),
    failAt 0x0D 2 i (codeEntryBad p es i e),
    failAt 0x0D 3 i (prog && (flag 0 == flag 3 || (flag 0 && !flag 1) || (flag 1 && decide (8192 < leAt e 8 4)))),
    failAt 0x0D 4 i (prog && (slice e 16 16).any (fun b => decide (14 < b.toNat))),
    failAt 0x0D 5 i (prog && (leAt e 32 4 == 0 || decide (leAt e 36 4 < leAt e 32 4))),
    failAt 0x0D 6 i (prog && bankRefBad p e),
    failAt 0x0D 7 i (match k with
      | 1 => decide (16 ≤ byteAt e 1) || decide (4 ≤ byteAt e 2) || byteAt e 3 != 0 || !allZero (slice e 52 76)
      | 2 => !allZero (slice e 1 3) || !allZero (slice e 8 56)
      | _ => false),
    (if prog then
      let f := codeFlags p n e
      firstFail [failAt 0x0D 8 i f.enc, failAt 0x0D 9 i f.dly, failAt 0x0D 10 i f.place, failAt 0x0D 11 i f.renc, failAt 0x0D 12 i f.rdly,
        failAt 0x0D 13 i f.rplace]
    else none)]

/-- PROGRAMS (Tables 9-10, 11-13 and 12-11). -/
def checkPrograms (p : PlanCopy) : Option CheckFail :=
  let es := (p.sec 0x0D).entries 0x0D
  let numbered := es.map (fun e => (e, (es.filter (fun x => decide (x.1 < e.1) && byteAt x.2 0 == 1)).length))
  firstFail (failAll 0x0D 1 (decide (4096 < kindCount p 0x0D 1) || decide (262144 < kindCount p 0x0D 2)) ::
    numbered.map (fun e => checkProgram p es e.1.1 e.2 e.1.2))

/-! ### SLOT_TABLES -/

/-- Whether a plan binds a thread of a core. -/
def bindsCore (p : PlanCopy) (u : Nat) : Bool := (List.range 16).any (fun t => (poolOf p (16 * u + t)).isSome)
/-- Whether a plan binds a thread of a cluster. -/
def bindsCluster (p : PlanCopy) (n : Nat) : Bool := (List.range 12).any (fun c => bindsCore p (12 * n + c))

/-- CONFIG_CHANGE (0x0E05) at an entry, against the plan in force. -/
def configChanged (p q : PlanCopy) (i : Nat) : Bool :=
  if i < 16 then (freePace p i != freePace q i || tickNs p i != tickNs q i) && (bindsCluster p i || bindsCluster q i)
  else coreThreads p (i - 16) != coreThreads q (i - 16) && (bindsCore p (i - 16) || bindsCore q (i - 16))

/-- The checks of a SLOT_TABLES entry. -/
def checkSlot (p : PlanCopy) (inForce : Option PlanCopy) (i : Nat) : Option CheckFail :=
  let e := (p.sec 0x0E).entry 0x0E i
  let core := decide (16 ≤ i)
  let u := i - 16
  let tick := leAt e 4 4
  let n := byteAt e 3
  firstFail [
    failAt 0x0E 1 i (if core then byteAt e 0 != 2 || byteAt e 1 != u / 12 || byteAt e 2 != u % 12 else byteAt e 0 != 1 || byteAt e 1 != i),
    failAt 0x0E 2 i (core && n != 4 && n != 8 && n != 16),
    failAt 0x0E 3 i (core && (slice e 4 32).any (fun b => b.toNat != 0xFF && decide (n ≤ b.toNat))),
    failAt 0x0E 4 i (!core && (decide (1 < byteAt e 2) || (tick != 0 && (decide (tick < 250) || decide (1000000 < tick) || tick % 5 != 0)))),
    failAt 0x0E 5 i (match inForce with | some q => configChanged p q i | none => false),
    failAt 0x0E 6 i (match inForce with
      | some q => core && (List.range 16).any (fun t => (poolOf q (16 * u + t)).isSome && (positionsOf p (16 * u + t)).isEmpty)
      | none => false),
    failAt 0x0E 7 i (if core then !allZero (slice e 36 28) else n != 0 || !allZero (slice e 40 24))]

/-- SLOT_TABLES (Table 10-13). -/
def checkSlots (p : PlanCopy) (inForce : Option PlanCopy) : Option CheckFail :=
  firstFail (failAll 0x0E 1 (decide ((p.sec 0x0E).count 0x0E ≠ 208)) :: (List.range 208).map (checkSlot p inForce))

/-! ### DISPATCH -/

/-- The threads that a POOL entry's THREAD_MASK names. -/
def maskThreads (e : Bytes) : List Nat := ((List.range 192).filter (fun k => (leAt e 8 24).testBit k)).map (fun k => byteAt e 1 * 192 + k)

/-- POOL_FIELDS (0x0F03) of one pool. -/
def poolFieldsBad (p : PlanCopy) (e : Bytes) : Bool :=
  let service := (byteAt e 2).testBit 0
  let depth := leAt e 6 2
  let w := leAt e 40 2
  (if service then depth != 0 else decide (depth < 1) || decide (1024 < depth)) || decide (256 < w) || w % 8 != 0 ||
    ((byteAt e 2).testBit 1 && byteAt e 3 != 0) ||
    (match progEntry p (leAt e 4 2) with
     | some r => if service then !(byteAt r 1).testBit 3 else !(byteAt r 1).testBit 0
     | none => false)

/-- VECTOR (0x0F04). -/
def vectorBad (p : PlanCopy) (e : Bytes) : Bool :=
  match progEntry p (leAt e 4 2) with
  | some r =>
    let first := leAt r 4 4
    [leAt e 32 4, leAt e 36 4].any (fun a => a != 0xFFFFFFFF && (a % 2 != 0 || decide (a < first) || decide (first + leAt r 8 4 ≤ a)))
  | none => false

/-- The COAT blocks of a CHAIN entry. -/
def coatBlocks (e : Bytes) : List Bytes := (List.range (Nat.min 3 (byteAt e 1))).map (fun k => slice e (8 + 16 * k) 16)
/-- The pools that a coat block names. -/
def coatPools (b : Bytes) : List Nat := (List.range (Nat.min 4 (byteAt b 2))).map (fun j => leAt b (4 + 2 * j) 2)

/-- Whether a list of numbers rises strictly. -/
def rising : List Nat → Bool
  | a :: b :: r => decide (a < b) && rising (b :: r)
  | _ => true

/-- CHAIN (0x0F05). -/
def chainFieldsBad (p : PlanCopy) (e : Bytes) : Bool :=
  let bs := coatBlocks e
  decide (byteAt e 1 < 1) || decide (3 < byteAt e 1) || !rising (bs.map (fun b => byteAt b 0)) ||
    bs.any (fun b => decide (2 < byteAt b 0) || decide (byteAt b 2 < 1) || decide (4 < byteAt b 2) || (coatPools b).any (fun k =>
      match poolEntry p k with
      | some x => (byteAt x 2).testBit 0
      | none => true))

/-- Reserved fields of a DISPATCH entry. -/
def dispatchReserved (e : Bytes) : Bool :=
  match byteAt e 0 with
  | 1 => decide (4 ≤ byteAt e 2) || !allZero (slice e 42 22)
  | 2 => !allZero (slice e 3 5) || !allZero (slice e 56 8) || (List.range 3).any (fun k => byteAt e (11 + 16 * k) != 0 || !allZero (slice e (20 + 16 * k) 4))
  | _ => false

/-- The checks of a DISPATCH entry. -/
def checkDispatchEntry (p : PlanCopy) (es : List (Nat × Bytes)) (i : Nat) (e : Bytes) : Option CheckFail :=
  let k := byteAt e 0
  firstFail [
    failAt 0x0F 1 i (decide (k < 1) || decide (2 < k)),
    failAt 0x0F 2 i (k == 1 && ((maskThreads e).any (fun t => !threadExists p t || (positionsOf p t).isEmpty) ||
      es.any (fun x => decide (x.1 < i) && byteAt x.2 0 == 1 && byteAt x.2 1 == byteAt e 1 && decide (leAt x.2 8 24 &&& leAt e 8 24 ≠ 0)))),
    failAt 0x0F 3 i (k == 1 && poolFieldsBad p e),
    failAt 0x0F 4 i (k == 1 && vectorBad p e),
    failAt 0x0F 5 i (k == 2 && chainFieldsBad p e),
    failAt 0x0F 6 i (k == 2 && (coatBlocks e).any (fun b => (coatPools b).any (fun j => poolDomain p j != byteAt e 2 && poolDomain p j != 0))),
    failAt 0x0F 7 i (dispatchReserved e)]

/-- DISPATCH (Table 10-15). -/
def checkDispatch (p : PlanCopy) : Option CheckFail :=
  let es := (p.sec 0x0F).entries 0x0F
  let depth (n : Nat) : Nat := ((es.filter (fun e => byteAt e.2 0 == 1 && byteAt e.2 1 == n && !(byteAt e.2 2).testBit 0)).map (fun e => leAt e.2 6 2)).sum
  firstFail ([
    failAll 0x0F 1 (decide (2048 < kindCount p 0x0F 1) || decide (4096 < kindCount p 0x0F 2)),
    failAll 0x0F 3 ((List.range 16).any (fun n => decide (1024 < depth n)))] ++
    es.map (fun e => checkDispatchEntry p es e.1 e.2))

/-! ### BANKS_REGIONS -/

/-- Whether a program bound to threads of another domain than D0 names a table or set of domain `d` that is not its
own; `off` is the field's place in a PROGRAM entry. -/
def foreignUse (p : PlanCopy) (off v d : Nat) : Bool :=
  ((p.sec 0x0F).kind 0x0F 1).any (fun e => byteAt e.2 3 != 0 && byteAt e.2 3 != d &&
    (match progEntry p (leAt e.2 4 2) with
     | some r => leAt r off 2 == v
     | none => false))

/-- The checks of a BANKS_REGIONS entry. -/
def checkBank (p : PlanCopy) (es : List (Nat × Bytes)) (i : Nat) (e : Bytes) : Option CheckFail :=
  let k := byteAt e 0
  let lo := leAt e 8 8
  let hi := leAt e 16 8
  let before := es.filter (fun x => decide (x.1 < i) && byteAt x.2 0 == k && byteAt x.2 1 == byteAt e 1)
  firstFail [
    failAt 0x10 1 i (decide (k < 1) || decide (2 < k)),
    failAt 0x10 2 i ((k == 1 && before.any (fun x => byteAt x.2 2 == byteAt e 2)) ||
      (k == 2 && before.any (fun x => decide (leAt x.2 8 8 ≤ hi) && decide (lo ≤ leAt x.2 16 8)))),
    failAt 0x10 3 i ((k == 1 && (byteAt e 2 == 0 || lo % 0x10000 != 0)) || (k == 2 && decide (hi < lo)) || decide (2 ^ 48 ≤ lo) ||
      (k == 2 && decide (2 ^ 48 ≤ hi))),
    failAt 0x10 4 i ((k == 1 || k == 2) && (before.any (fun x => byteAt x.2 4 != byteAt e 4) ||
      foreignUse p (if k = 1 then 48 else 50) (byteAt e 1) (byteAt e 4))),
    failAt 0x10 5 i (decide (4 ≤ byteAt e 3) || !allZero (slice e 5 3) || !allZero (slice e 24 8) ||
      (k == 1 && !allZero (slice e 16 8)) || (k == 2 && byteAt e 2 != 0))]

/-- BANKS_REGIONS (Table 9-12). -/
def checkBanks (p : PlanCopy) : Option CheckFail :=
  let es := (p.sec 0x10).entries 0x10
  let regions := (p.sec 0x10).kind 0x10 2
  firstFail (failAll 0x10 1 (decide (65280 < kindCount p 0x10 1) || decide (8192 < regions.length) ||
      (List.range 256).any (fun v => decide (32 < (regions.filter (fun e => byteAt e.2 1 == v)).length))) ::
    es.map (fun e => checkBank p es e.1 e.2))

/-! ### LOCK_GROUPS and HBM_QOS -/

/-- Whether a TIMED program names a lock group. -/
def timedNames (p : PlanCopy) (g : Nat) : Bool :=
  ((p.sec 0x0D).kind 0x0D 1).any (fun e => (byteAt e.2 1).testBit 0 && (leAt e.2 40 8).testBit g)

/-- LOCK_GROUPS (Table 13-15). -/
def checkLocks (p : PlanCopy) : Option CheckFail :=
  firstFail (failAll 0x11 1 (decide ((p.sec 0x11).count 0x11 ≠ 64)) :: (List.range 64).map (fun g =>
    let e := (p.sec 0x11).entry 0x11 g
    firstFail [
      failAt 0x11 2 g (byteAt e 0 != g),
      failAt 0x11 3 g ((byteAt e 1).testBit 0 && !(enabledDomains p).any (fun d => (lockGroupMask p d).testBit g)),
      failAt 0x11 4 g (decide (1000000 < leAt e 4 4) || decide (10000000 < leAt e 8 4) || (leAt e 4 4 == 0 && timedNames p g)),
      failAt 0x11 5 g (decide (2 ≤ byteAt e 1) || !allZero (slice e 2 2) || !allZero (slice e 12 20))]))

/-- HBM_QOS (Table 14-12). -/
def checkQos (p : PlanCopy) : Option CheckFail :=
  let x := p.sec 0x12
  let ent (q : Nat) : Bytes := x.entry 0x12 q
  let shares := (List.range 8).map (fun q => byteAt (ent q) 1)
  firstFail ([
    failAll 0x12 1 (decide (x.count 0x12 ≠ 8)),
    failAll 0x12 3 (decide (x.le 0 2 < 512) || decide (8192 < x.le 0 2) || decide (x.byte 2 < 1) || decide (168 < x.byte 2)),
    failAll 0x12 4 (decide (248 < shares.sum) || decide (byteAt (ent 6) 1 < 16)),
    failAll 0x12 5 (!x.zeroIn 3 61)] ++ (List.range 8).map (fun q => firstFail [
      failAt 0x12 2 q (byteAt (ent q) 0 != q),
      failAt 0x12 3 q (byteAt (ent q) 1 == 0 || decide (leAt (ent q) 4 4 < 200) || decide (100000 < leAt (ent q) 4 4)),
      failAt 0x12 5 q (!allZero (slice (ent q) 2 2) || !allZero (slice (ent q) 8 8))]))

/-! ### SPAN and PAIRS -/

/-- SPAN (Table 16-11). -/
def checkSpan (p : PlanCopy) : Option CheckFail :=
  let ent (k : Nat) : Bytes := (p.sec 0x13).entry 0x13 k
  let follows := (List.range 3).filter (fun k => (byteAt (ent k) 1).testBit 1)
  firstFail ([
    failAll 0x13 1 (decide ((p.sec 0x13).count 0x13 ≠ 3)),
    failAll 0x13 3 (decide (1 < follows.length))] ++ (List.range 3).map (fun k =>
      let e := ent k
      firstFail [
        failAt 0x13 1 k (byteAt e 0 != k),
        failAt 0x13 2 k (decide (15 < byteAt e 3) || !within 32 (leAt e 8 4) 50000 ||
          (List.range 16).any (fun d => (leAt e 6 2).testBit d && !domEnabled p d)),
        failAt 0x13 3 k ((byteAt e 1).testBit 1 && (!(byteAt e 1).testBit 0 || servoOf p != 0)),
        failAt 0x13 4 k (decide (16 ≤ byteAt e 1) || !allZero (slice e 12 52))]))

/-- The last coat of a chain. -/
def lastCoat (p : PlanCopy) (chain : Nat) : Option CoatRec := (chainCoats p chain).getLast?
/-- The POOL_B entries in use. -/
def pairPools (e : Bytes) : List Nat := ((List.range 4).map (fun j => leAt e (4 + 2 * j) 2)).filter (· != 0xFFFF)

/-- PROGRAM (0x1405): a paired program may hold only what both sides can repeat. -/
def pairProgramBad (p : PlanCopy) (k : Nat) : Bool :=
  match (poolEntry p k).bind (fun e => progEntry p (leAt e 4 2)) with
  | some r =>
    let t := leAt r 48 2
    leAt r 50 2 != 0xFFFF || leAt r 40 8 != 0 ||
      (t != 0xFFFF && ((p.sec 0x10).kind 0x10 1).any (fun e => byteAt e.2 1 == t && (byteAt e.2 3).testBit 1))
  | none => false

/-- The checks of a PAIRS entry. -/
def checkPair (p : PlanCopy) (es : List (Nat × Bytes)) (i : Nat) (e : Bytes) : Option CheckFail :=
  let chain := leAt e 0 2
  let side := ((lastCoat p chain).map (·.pools)).getD []
  let b := pairPools e
  let us := leAt e 12 4
  firstFail [
    failAt 0x14 2 i ((chainEntry p chain).isNone || decide (b.length ≠ side.length)),
    failAt 0x14 3 i (es.any (fun x => decide (x.1 < i) && leAt x.2 0 2 == chain)),
    failAt 0x14 4 i ((side.zip b).any (fun x => match poolEntry p x.2 with
      | some y => (byteAt y 2).testBit 0 || byteAt y 3 != poolDomain p x.1
      | none => true)),
    failAt 0x14 5 i ((side ++ b).any (pairProgramBad p)),
    failAt 0x14 6 i (decide (us < 1) || decide (100000 < us) || decide (p.maxRes < us)),
    failAt 0x14 7 i (!allZero (slice e 2 2) || !allZero (slice e 16 16))]

/-- PAIRS (Table 17-10); an entry that a CLEAR left all zero is no pair. -/
def checkPairs (p : PlanCopy) : Option CheckFail :=
  let x := p.sec 0x14
  let es := x.entries 0x14
  firstFail (failAll 0x14 1 (decide (512 < x.count 0x14)) :: es.map (fun e => checkPair p es e.1 e.2))

end Sys2Proof.Machine
end

