-- ==== Sys2Proof/Machine/CheckEgress.lean ====
section
/-!
DEFINITION. The format checks of QUEUES_GATES and REDUNDANCY (Tables 8-14 and 8-16).
-/

namespace Sys2Proof.Machine

/-- The operations that a PORT_SCHED entry names. -/
def schedOps (p : PlanCopy) (e : Bytes) : List GateOp := (List.range (leAt e 14 2)).map (fun k => gateOp p (leAt e 12 2 + k))

/-- The queues of a port that QUEUE_OPEN judges (R630). -/
def reachableQueues (p : PlanCopy) (n : Nat) : List Nat :=
  let classes := (List.range 16).map (prioMap p n)
  let streams := ((identsOf p).filter (fun e => byteAt e.2 56 == n)).map (fun e => byteAt e.2 57 % 16)
  let outs := ((p.sec 0x0C).kind 0x0C 1).flatMap (fun e => ((cbOuts e.2).filter (fun o => o.1 == n && !o.2.testBit 4)).map (fun o => o.2 % 16))
  let passes := (((p.sec 0x0C).kind 0x0C 2).filter (fun e => byteAt e.2 1 == 2 && (byteAt e.2 2 == n || byteAt e.2 3 == n))).map (fun e => byteAt e.2 6)
  let mirrors := (((p.sec 0x0B).kind 0x0B 5).filter (fun e => byteAt e.2 1 == 0 && byteAt e.2 2 == n)).map (fun e => byteAt e.2 3)
  [classes, streams, outs, passes, mirrors].flatten.eraseDups

/-- The longest run of open time of a queue in a list of operations, `run` the time open so far. -/
def openRun (q : Nat) : List GateOp → Nat → Nat → Nat
  | [], run, best => Nat.max run best
  | o :: r, run, best => if o.states.testBit q then openRun q r (run + o.interval) best else openRun q r 0 (Nat.max run best)

/-- The longest continuous open time of a queue in ns, cycles following each other; none when it never closes. -/
def openTime (ops : List GateOp) (q : Nat) : Option Nat :=
  if ops.all (fun o => o.states.testBit q) then none else some (openRun q (ops ++ ops) 0 0)

/-- Whether a frame of `l` bytes (without FCS) fits `ns` at a port's MAC rate (R245). -/
def fitsIn (p : PlanCopy) (n l ns : Nat) : Bool := decide ((l + 12) * 8 ≤ ns * (portModeOf p n).mac)

/-- Whether an enabled port's list leaves a reachable queue without room for its longest frame (0x0B05). -/
def queueOpenBad (p : PlanCopy) (n : Nat) (e : Bytes) : Bool :=
  portEnabled p n && (reachableQueues p n).any (fun q =>
    match openTime (schedOps p e) q with
    | none => false
    | some t => !fitsIn p n (portMaxFrame p n - 4) t)

/-- The EXPRESS entries that claim gate entries of a port. -/
def claimsOn (p : PlanCopy) (n : Nat) : List (Nat × Bytes) :=
  (identsOf p).filter (fun x => (byteAt x.2 2).testBit 0 && byteAt x.2 56 == n)

/-- EXPRESS_GUARD (0x0B06) for a claim on a list. -/
def guardBad (p : PlanCopy) (n : Nat) (e x : Bytes) : Bool :=
  let ops := schedOps p e
  let g := leAt x 58 2
  let q := byteAt x 57 % 16
  let none_ : GateOp := { op := 0, states := 0, interval := 0 }
  let o := (ops[g]?).getD none_
  let before := (ops[(g + ops.length - 1) % Nat.max 1 ops.length]?).getD none_
  decide (g < ops.length) && (!o.states.testBit q || (preemptMask p n).testBit q ||
    (List.range 16).any (fun r => r != q && o.states.testBit r && before.states.testBit r &&
      !((preemptMask p n).testBit r && o.op == 1)))

/-- The longest frame that a stream's filters let pass, in bytes without FCS. -/
def streamSdu (p : PlanCopy) (h : Nat) (x : Bytes) : Nat :=
  let m := ((filtersOf p).filter (fun f => !(byteAt f.2 1).testBit 0 && leAt f.2 4 2 == h)).map (fun f => leAt f.2 10 2)
  if m.isEmpty || m.contains 0 then portMaxFrame p (byteAt x 60) - 4 else m.foldl Nat.max 0

/-- EXPRESS_WINDOW (0x0B07): the frames of the streams that claim one gate entry fit its interval. -/
def windowBad (p : PlanCopy) (n : Nat) (e x : Bytes) : Bool :=
  let g := leAt x 58 2
  let total := (((claimsOn p n).filter (fun y => leAt y.2 58 2 == g)).map (fun y => (streamSdu p y.1 y.2 + 12) * 8)).sum
  match (schedOps p e)[g]? with
  | some o => decide (o.interval * (portModeOf p n).mac < total)
  | none => false

/-- The sum of a port's IDLE_SLOPE values. -/
def slopeSum (p : PlanCopy) (n : Nat) : Nat :=
  ((((p.sec 0x0B).kind 0x0B 2).filter (fun e => byteAt e.2 1 == n && (byteAt e.2 3).testBit 0)).map (fun e => leAt e.2 12 8)).sum

/-- FIELDS (0x0B03). -/
def queuesFieldBad (e : Bytes) : Bool :=
  match byteAt e 0 with
  | 1 => (byteAt e 2).testBit 0 && (decide (1000000000 ≤ leAt e 22 4) || decide (leAt e 26 4 < 1000) || decide (1000000000 < leAt e 26 4) ||
      decide (leAt e 14 2 < 1) || decide (1024 < leAt e 14 2))
  | 2 => decide (15 < byteAt e 2) || decide (leAt e 4 4 < 1) || decide (262144 < leAt e 4 4) || decide (leAt e 8 4 < 10240) ||
      decide (268435456 < leAt e 8 4) || decide (0 < signedOf 32 (leAt e 24 4))
  | 5 => decide (15 < byteAt e 3) || (leAt e 6 2 != 0 && (decide (leAt e 6 2 < 64) || decide (10236 < leAt e 6 2))) ||
      decide (leAt e 8 4 < 1) || decide (65536 < leAt e 8 4)
  | _ => false

/-- Reserved fields of a QUEUES_GATES entry. -/
def queuesReserved (e : Bytes) : Bool :=
  match byteAt e 0 with
  | 1 => decide (2 ≤ byteAt e 2) || byteAt e 3 != 0 || !allZero (slice e 40 24)
  | 2 => decide (2 ≤ byteAt e 3) || !allZero (slice e 28 36)
  | 3 => !allZero (slice e 1 7) || (List.range 7).any (fun k => byteAt e (9 + 8 * k) != 0)
  | 4 => !allZero (slice e 1 7) || !allZero (slice e 16 48)
  | 5 => !allZero (slice e 12 52)
  | _ => false

/-- The checks of a QUEUES_GATES entry. -/
def checkQueuesEntry (p : PlanCopy) (es : List (Nat × Bytes)) (i : Nat) (e : Bytes) : Option CheckFail :=
  let k := byteAt e 0
  let n := byteAt e 1
  let gates := k == 1 && (byteAt e 2).testBit 0
  let ops := schedOps p e
  firstFail [
    failAt 0x0B 1 i (decide (k < 1) || decide (5 < k) || (k == 5 && decide (1 < byteAt e 1)) ||
      (k == 3 && (List.range 7).any (fun j => decide (2 < byteAt e (8 + 8 * j))))),
    failAt 0x0B 2 i ((k == 1 || k == 2) && es.any (fun x => decide (x.1 < i) && byteAt x.2 0 == k && byteAt x.2 1 == n &&
      (k == 1 || byteAt x.2 2 == byteAt e 2))),
    failAt 0x0B 3 i (queuesFieldBad e),
    failAt 0x0B 4 i (gates && (decide (7 * kindCount p 0x0B 3 < leAt e 12 2 + leAt e 14 2) || ops.any (fun o => decide (o.interval < 10)) ||
      (ops.map (fun o => o.interval)).sum != leAt e 26 4)),
    failAt 0x0B 5 i (gates && queueOpenBad p n e),
    failAt 0x0B 6 i (gates && (claimsOn p n).any (fun x => guardBad p n e x.2)),
    failAt 0x0B 7 i (gates && (claimsOn p n).any (fun x => windowBad p n e x.2)),
    failAt 0x0B 8 i (gates && ops.any (fun o => o.op == 1) && decide (leAt e 32 4 * (portModeOf p n).mac < (147 + 64 * portMinFrag p n) * 8)),
    failAt 0x0B 9 i (k == 2 && (byteAt e 3).testBit 0 && (leAt e 12 8 == 0 || leAt e 20 4 == 0 ||
      decide ((portModeOf p n).mac * 1000000000 < slopeSum p n))),
    failAt 0x0B 10 i (queuesReserved e)]

/-- QUEUES_GATES (Table 8-14). -/
def checkQueues (p : PlanCopy) : Option CheckFail :=
  let es := (p.sec 0x0B).entries 0x0B
  let n := kindCount p 0x0B
  firstFail (failAll 0x0B 1 (decide (64 < n 1) || decide (1024 < n 2) || decide (9362 < n 3) || decide (4096 < n 4) || decide (16 < n 5)) ::
    es.map (fun e => checkQueuesEntry p es e.1 e.2))

/-! ### REDUNDANCY -/

/-- FUNCTION (0x0C02). -/
def functionBad (e : Bytes) : Bool :=
  match byteAt e 0 with
  | 1 => byteAt e 1 % 4 == 0 || decide (byteAt e 2 < 2) || decide (32 < byteAt e 2) || decide (byteAt e 3 < 1) || decide (4 < byteAt e 3) ||
      leAt e 4 2 == 0 || decide (leAt e 8 4 < 100) || decide (3600000 < leAt e 8 4)
  | 2 => decide (leAt e 8 4 < 10) || decide (10000 < leAt e 8 4)
  | _ => false

/-- Reserved fields of a REDUNDANCY entry. -/
def redundancyReserved (e : Bytes) : Bool :=
  match byteAt e 0 with
  | 1 => decide (32 ≤ byteAt e 1) || !allZero (slice e 13 3) || (List.range 4).any (fun k => decide (32 ≤ byteAt e (17 + 2 * k))) ||
      !allZero (slice e 24 40)
  | 2 => decide (2 ≤ byteAt e 5) || byteAt e 7 != 0 || !allZero (slice e 16 48)
  | 3 => !allZero (slice e 1 7) || !allZero (slice e 14 50)
  | _ => false

/-- The checks of a REDUNDANCY entry. -/
def checkRedundancyEntry (p : PlanCopy) (es : List (Nat × Bytes)) (i : Nat) (e : Bytes) : Option CheckFail :=
  let k := byteAt e 0
  let a := byteAt e 2
  let b := byteAt e 3
  firstFail [
    failAt 0x0C 1 i (decide (k < 1) || decide (3 < k) || (k == 2 && (decide (byteAt e 1 < 1) || decide (2 < byteAt e 1)))),
    failAt 0x0C 2 i (functionBad e),
    failAt 0x0C 3 i (k == 2 && (a == b || byteAt (portEnt p a) 1 != byteAt (portEnt p b) 1 ||
      es.any (fun x => x.1 != i && byteAt x.2 0 == 2 && ([byteAt x.2 2, byteAt x.2 3].any (fun m => m == a || m == b))))),
    failAt 0x0C 4 i (k == 2 && (decide (kindCount p 0x0C 3 < leAt e 12 2 + leAt e 14 2) || (byteAt e 1 == 1 && leAt e 14 2 != 0))),
    failAt 0x0C 5 i (redundancyReserved e)]

/-- REDUNDANCY (Table 8-16). -/
def checkRedundancy (p : PlanCopy) : Option CheckFail :=
  let es := (p.sec 0x0C).entries 0x0C
  let n := kindCount p 0x0C
  firstFail (failAll 0x0C 1 (decide (16384 < n 1) || decide (16 < n 2) || decide (4096 < n 3)) ::
    es.map (fun e => checkRedundancyEntry p es e.1 e.2))

end Sys2Proof.Machine
end

