-- ==== Sys2Proof/Machine/CheckParse.lean ====
section
/-!
DEFINITION. The format checks of PARSE_GRAPH and FRAG (Tables 4-11 and 4-13). An entry with VALID clear is an unused
node (R135), of which only the reserved fields are judged.
-/

namespace Sys2Proof.Machine

/-- SHARED. -/
def graphShared (p : PlanCopy) : Bool := decide ((p.sec 3).byte 0 % 2 = 1)

/-- The valid nodes of engine `e`'s graph, by node number. -/
def validNodes (p : PlanCopy) (e : Nat) : Table Bytes :=
  ((p.sec 3).entries 3).filterMap (fun x =>
    if byteAt x.2 0 % 2 = 1 ∧ (graphShared p ∨ x.1 / 1024 = e) then some (x.1 % 1024, x.2) else none)

/-- The engine that serves a port (R109). -/
def engineOf (n : Nat) : Nat := n / 32

/-- The arms of a MATCH node in use, and the nodes of an INDEX node's range (R115). -/
def armNexts (n : Bytes) : List Nat :=
  match byteAt n 8 with
  | 1 => (List.range (Nat.min (byteAt n 9) 8)).map (fun i => leAt n (28 + 2 * i) 2)
  | 2 => (List.range (byteAt n 9 + 1)).map (fun v => leAt n 28 2 + v)
  | _ => []

/-- The next values that a node can choose (R115). -/
def nodeNexts (n : Bytes) : List Nat := leAt n 10 2 :: armNexts n

/-- The nodes that walks reach from `front`, through nodes that `through` allows, in at most `fuel` steps. -/
def reachNodes (nodes : Table Bytes) (through : Bytes → Bool) : Nat → List Nat → List Nat → List Nat
  | 0, _, seen => seen
  | fuel + 1, front, seen =>
    let next := front.flatMap (fun i => match tblFind nodes i with
      | some n => if through n then (nodeNexts n).filter (fun j => (tblFind nodes j).isSome) else []
      | none => [])
    let new := (next.filter (fun j => !seen.contains j)).eraseDups
    if new.isEmpty then seen else reachNodes nodes through fuel new (seen ++ new)

/-- The START_NODEs of the enabled ports that engine `e`'s graph serves. -/
def startsOf (p : PlanCopy) (e : Nat) : List Nat :=
  ((enabledPorts p).filter (fun n => graphShared p || engineOf n == e)).map (startNode p)

/-- Whether a node sets offset register `k`. -/
def setsOff (n : Bytes) (k : Nat) : Bool := (byteAt n 0).testBit 1 && byteAt n 1 % 8 == k

/-- FRAG_NODE for a node of an engine: a path from a START_NODE on which no earlier node sets its FRAG_L3_SLOT. -/
def fragUnset (p : PlanCopy) (e i : Nat) (n : Bytes) : Bool :=
  let k := bits (byteAt n 1) 6 4
  let st := startsOf p e
  (reachNodes (validNodes p e) (fun x => !setsOff x k) 1024 st st).contains i

/-- The checks of entry `i` of PARSE_GRAPH. -/
def checkNode (p : PlanCopy) (i : Nat) (n : Bytes) : Option CheckFail :=
  let e := if graphShared p then 0 else i / 1024
  let valid := decide (byteAt n 0 % 2 = 1)
  let nodes := validNodes p e
  let size := fun (c : Nat) => decide (c % 4 = 3)
  let sel := byteAt n 8
  let reason := byteAt n 49
  let reject := leAt n 10 2 == 0xFFFE || (sel == 1 && (armNexts n).contains 0xFFFE)
  firstFail [
    failAt 3 3 i (valid && (nodeNexts n).any (fun j => decide (j ≠ 0xFFFE) && decide (j ≠ 0xFFFF) &&
      (decide (1023 < j) || (tblFind nodes j).isNone))),
    failAt 3 4 i (valid && (size (byteAt n 3) || size (byteAt n 51) || decide (2 < sel) ||
      (sel == 1 && (decide (byteAt n 9 < 1) || decide (8 < byteAt n 9))) || (sel == 0 && decide (byteAt n 9 ≠ 0)) ||
      decide (63 < byteAt n 2) || decide (63 < byteAt n 45) || decide (63 < byteAt n 50))),
    failAt 3 5 i (valid && (decide (2 < byteAt n 48) || (byteAt n 48 == 1 && decide (leAt n 58 2 < leAt n 56 2)) ||
      ((decide (byteAt n 48 ≠ 0) || reject) && (decide (reason < 0x10) || decide (0x3F < reason))))),
    failAt 3 6 i (valid && (decide (2 < byteAt n 62) || (byteAt n 62 == 2 &&
      (if graphShared p then fragUnset p 0 i n else fragUnset p (i / 1024) (i % 1024) n)))),
    failAt 3 8 i (decide (4 ≤ byteAt n 0) || (byteAt n 1).testBit 3 || (byteAt n 1).testBit 7 || (byteAt n 3).testBit 2 ||
      decide (16 ≤ byteAt n 47) || (byteAt n 51).testBit 2 || decide (byteAt n 63 ≠ 0))]

/-- PARSE_GRAPH (Table 4-11). -/
def checkGraph (p : PlanCopy) : Option CheckFail :=
  let x := p.sec 3
  let n := if graphShared p then 1024 else 2048
  let badStart := (enabledPorts p).any (fun k =>
    decide (1023 < startNode p k) || (tblFind (validNodes p (engineOf k)) (startNode p k)).isNone)
  firstFail ([
    failAll 3 1 (decide (x.count 3 ≠ n)),
    failAll 3 2 badStart,
    failAll 3 7 ((List.range 64).any (fun k => decide (1 < x.byte (4 + k))) || decide (x.byte 8 ≠ 0)),
    failAll 3 8 (decide (2 ≤ x.byte 0) || !x.zeroIn 1 3 || !x.zeroIn 196 60)] ++
    (x.entries 3).map (fun e => checkNode p e.1 e.2))

/-- NO_FRAG_NODE of a port. -/
def noFragNode (p : PlanCopy) (i : Nat) : Bool :=
  let nodes := validNodes p (engineOf i)
  !(reachNodes nodes (fun _ => true) 1024 [startNode p i] [startNode p i]).any (fun k =>
    match tblFind nodes k with
    | some n => decide (byteAt n 62 ≠ 0)
    | none => false)

/-- FRAG (Table 4-13); an absent section has nothing to judge. -/
def checkFrag (p : PlanCopy) : Option CheckFail :=
  let x := p.sec 4
  firstFail ([
    failAll 4 1 (decide (x.count 4 ≠ 64)),
    failAll 4 4 (decide (ctxTimeout p < 1) || decide (60000 < ctxTimeout p) || decide (earlyTimeout p < 10) ||
      decide (1000000 < earlyTimeout p) || decide (p.maxRes < 2 * earlyTimeout p)),
    failAll 4 5 (decide (ctxLimit p < 1) || decide (8192 < ctxLimit p) || decide (8 < earlyMax p) ||
      decide (minFragOffset p < 1) || decide (8 < minFragOffset p) || decide (4096 < earlyTotal p)),
    failAll 4 7 (!x.zeroIn 14 50)] ++
    (List.range 64).map (fun i =>
      let e := x.entry 4 i
      firstFail [
        failAt 4 2 i (decide (byteAt e 0 ≠ i)),
        failAt 4 3 i (decide (2 < byteAt e 1)),
        failAt 4 6 i (portEnabled p i && (byteAt e 1 == 1 || byteAt e 1 == 2) && noFragNode p i),
        failAt 4 7 i (!allZero (slice e 2 6))]))

end Sys2Proof.Machine
end

