-- ==== Sys2Proof/Machine/CheckTables.lean ====
section
/-!
DEFINITION. The format checks of PINNED and TABLE_PARAMS (Tables 6-13 and 6-15).
-/

namespace Sys2Proof.Machine

/-- KEY bytes that a KIND uses (Table 6-2). -/
def kindKeyLen (k : Nat) : Nat :=
  match k with
  | 1 => 6
  | 2 => 4
  | 3 => 16
  | 4 => 16
  | _ => 0

/-- ENTRY (0x0802, 0x0905): an entry of a plan body whose FLAGS must be `flags`. -/
def planEntryBad (e : Bytes) (flags : Nat) : Bool :=
  let k := byteAt e 16 % 16
  decide (k < 1) || decide (4 < k) || byteAt e 19 != flags || leAt e 20 2 != 0 || byteAt e 23 % 16 != 0 ||
    !allZero (slice e (kindKeyLen k) (16 - kindKeyLen k))

/-- Whether a reserved field of an entry is not zero. -/
def planEntryReserved (e : Bytes) : Bool :=
  byteAt e 22 != 0 || decide (16 ≤ byteAt e 23) || decide (16 ≤ byteAt e 24) ||
    (byteAt e 16 % 16 == 1 && decide (16 ≤ byteAt e 18))

/-- Whether an earlier entry of a list has the key of entry `i`. -/
def keyBefore (es : List (Nat × Bytes)) (i : Nat) (e : Bytes) : Bool := es.any (fun x => decide (x.1 < i) && keyOf x.2 == keyOf e)

/-- PINNED (Table 6-13); `replaced` says that the image holds it as a REPLACE. -/
def checkPinned (p : PlanCopy) (replaced : Bool) : Option CheckFail :=
  let x := p.sec 8
  let es := x.entries 8
  firstFail ([
    failAll 8 1 (decide (65536 < x.count 8) || (replaced && decide (x.count 8 ≠ 65536))),
    failAll 8 3 ((enabledDomains p).any (fun d => (pinnedRange p d).1 % 4 != 0 || (pinnedRange p d).2 % 4 != 0))] ++
    es.map (fun y => firstFail [
      failAt 8 2 y.1 (planEntryBad y.2 1),
      failAt 8 4 y.1 (!(pinChoices p (keyOf y.2)).contains (y.1 / 4)),
      failAt 8 5 y.1 (keyBefore es y.1 y.2),
      failAt 8 6 y.1 (planEntryReserved y.2)]))

/-- The four SEED fields. -/
def paramSeeds (p : PlanCopy) : List Bytes := (List.range 4).map (fun i => slice (tablePre p) (8 * i) 8)

/-- Whether AGE_TICK_MS, SWEEP_MS or an AGE_LIMIT breaks AGING (0x0903). -/
def agingBad (p : PlanCopy) : Bool :=
  let tick := leAt (tablePre p) 40 4
  let sweep := leAt (tablePre p) 44 4
  decide (tick < 100) || decide (60000 < tick) || decide (sweep < 2000) || decide (3600000 < sweep) ||
    (enabledDomains p).any (fun d =>
      let lim := leAt (domLearn p d) 2 2
      lim != 0 && decide (32767 < lim + ceilDiv sweep tick))

/-- Whether a DOMAIN_LEARN breaks LEARN (0x0904). -/
def learnBad (p : PlanCopy) : Bool :=
  (List.range 16).any (fun d =>
    let e := domLearn p d
    decide (2 < byteAt e 1) || ((byteAt e 0).testBit 0 && (decide (leAt e 4 4 < 1) || decide (1000000 < leAt e 4 4))))

/-- TABLE_PARAMS (Table 6-15); `seeds` are the HBM seeds in force, once a commit has fixed them (R201). -/
def checkParams (p : PlanCopy) (seeds : Option (List Bytes)) : Option CheckFail :=
  let x := p.sec 9
  let es := x.entries 9
  let pins := (p.sec 8).entries 8
  let nonzero := !x.zeroIn 0 32
  firstFail ([
    failAll 9 1 (decide (1048576 < x.count 9)),
    failAll 9 2 (nonzero && (p.randomSeeds || (match seeds with | some v => paramSeeds p != v | none => false))),
    failAll 9 3 (agingBad p),
    failAll 9 4 (learnBad p),
    failAll 9 7 (decide (31876710 < es.length + ((enabledDomains p).map (tableReserve p)).sum)),
    failAll 9 8 (!x.zeroIn 48 16 || (List.range 16).any (fun d => decide (8 ≤ byteAt (domLearn p d) 0) || !allZero (slice (domLearn p d) 8 24)))] ++
    es.map (fun y => firstFail [
      failAt 9 5 y.1 (planEntryBad y.2 3),
      failAt 9 6 y.1 (keyBefore es y.1 y.2 || pins.any (fun z => keyOf z.2 == keyOf y.2)),
      failAt 9 8 y.1 (planEntryReserved y.2)]))

end Sys2Proof.Machine
end

