-- ==== Sys2Proof/Machine/CheckCross.lean ====
section
/-!
DEFINITION. The cross-section checks of a plan, codes 0x0010 to 0x002A of Table 2-10, and the order in which all checks
of the sections run (R52).
-/

namespace Sys2Proof.Machine

/-- The first element of a list that `bad` holds of, as a failure. -/
def failFirst {α : Type} (l : List α) (bad : α → Bool) (f : α → CheckFail) : Option CheckFail := (l.find? bad).map f

/-- No entry applies (Table 2-9). -/
def noEntry : Nat := 0xFFFFFFFF

/-! ### References -/

/-- The results that are in force in a rules section: the DEFAULT_RESULT of each pipeline in PIPE_MASK and the results
of valid rules (of valid Holt entries with a result); `mask` is what byte 0 has set there. -/
def resultsOf (p : PlanCopy) (t off mask : Nat) : List (Nat × RuleResult) :=
  (pipesOf p t).map (fun k => (noEntry, resultOf (sectionDefault p t k))) ++
    (((p.sec t).entries t).filter (fun e => byteAt e.2 0 &&& mask == mask)).map (fun e => (e.1, resultOf (slice e.2 off 32)))

/-- Every result in force, with its section and entry. -/
def allResults (p : PlanCopy) : List (Nat × Nat × RuleResult) :=
  (resultsOf p 5 144 1).map (fun r => (5, r)) ++ (resultsOf p 6 104 3).map (fun r => (6, r))

/-- The entries of kind `k` of section `t` with the domain that byte `off` names. -/
def kindDoms (p : PlanCopy) (t k off : Nat) : List (Nat × Nat × Nat) :=
  ((p.sec t).kind t k).map (fun e => (t, e.1, byteAt e.2 off))

/-- Table entries with the domain of their key. -/
def keyDoms (p : PlanCopy) (t : Nat) : List (Nat × Nat × Nat) :=
  ((p.sec t).entries t).map (fun e => (t, e.1, byteAt e.2 16 / 16))

/-- Every domain that an entry of a section names: section, entry and domain, in ascending section order (0x0010). -/
def domainRefs (p : PlanCopy) : List (Nat × Nat × Nat) :=
  let shregs := (List.range 16).flatMap (fun n => (List.range 64).map (fun r => (0x0E, n, shregDomain p n r)))
  [(enabledPorts p).map (fun n => (1, n, portDropDomain p n)),
   (allResults p).map (fun r => (r.1, r.2.1, r.2.2.domain)),
   kindDoms p 7 1 3, keyDoms p 8, keyDoms p 9,
   kindDoms p 0x0B 5 5, kindDoms p 0x0C 1 12, kindDoms p 0x0C 2 4, shregs,
   kindDoms p 0x0F 1 3, kindDoms p 0x0F 2 2, kindDoms p 0x10 1 4, kindDoms p 0x10 2 4, [(0x15, 0, 0)]].flatten

/-- DOMAIN_REF (0x0010; R44). -/
def crossDomains (p : PlanCopy) : Option CheckFail :=
  failFirst (domainRefs p) (fun r => !domEnabled p r.2.2) (fun r => { code := 0x10, section_ := r.1, entry := r.2.1, detail := r.2.2 })

/-! ### Shares of the domains (R45) -/

/-- BUF_QUOTA (0x0011). -/
def crossBuffers (p : PlanCopy) : Option CheckFail :=
  let ds := enabledDomains p
  let sum (k : Nat) : Nat := (ds.map (fun d => bufReserve p d k)).sum
  firstFail (((List.range 5).map (fun k => failX 0x11 0x15 noEntry k (decide (poolCount p k < sum k)))) ++
    ds.flatMap (fun d => (List.range 5).map (fun k =>
      failX 0x11 0x15 d k (decide (bufQuota p d k < bufReserve p d k) || decide (poolCount p k < bufQuota p d k)))))

/-- TABLE_QUOTA (0x0012). -/
def crossTable (p : PlanCopy) : Option CheckFail :=
  let ds := enabledDomains p
  let sum := (ds.map (fun d => tableReserve p d)).sum
  firstFail (failX 0x12 0x15 noEntry sum (decide (31876710 < sum)) ::
    ds.map (fun d => failX 0x12 0x15 d sum (decide (tableQuota p d < tableReserve p d) || decide (33554432 < tableQuota p d))))

/-- Whether a number lies in a range of (first, count). -/
def inRange (r : Nat × Nat) (k : Nat) : Bool := decide (r.1 ≤ k) && decide (k < r.1 + r.2)

/-- The first number at which a domain's range leaves 0 to 65,535 or meets a lower domain's range. -/
def domRangeBad (p : PlanCopy) (f : PlanCopy → Nat → Nat × Nat) (d : Nat) : Option Nat :=
  let r := f p d
  if r.2 = 0 then none
  else
    match ((enabledDomains p).filter (fun e => decide (e < d) && decide (0 < (f p e).2))).find? (fun e =>
        decide ((f p e).1 < r.1 + r.2) && decide (r.1 < (f p e).1 + (f p e).2)) with
    | some e => some (Nat.max r.1 (f p e).1)
    | none => if 65536 < r.1 + r.2 then some (Nat.max r.1 65536) else none

/-- The range checks of the domains (0x0013, 0x0014). -/
def crossRanges (p : PlanCopy) (code : Nat) (f : PlanCopy → Nat → Nat × Nat) : Option CheckFail :=
  firstFail ((enabledDomains p).map (fun d => (domRangeBad p f d).map (fun k => { code := code, section_ := 0x15, entry := d, detail := k })))

/-- PINNED_RANGE (0x0013). -/
def crossPinned (p : PlanCopy) : Option CheckFail :=
  firstFail [crossRanges p 0x13 pinnedRange,
    failFirst ((p.sec 8).entries 8) (fun e => !inRange (pinnedRange p (byteAt e.2 16 / 16)) e.1)
      (fun e => { code := 0x13, section_ := 8, entry := e.1, detail := e.1 })]

/-- ORDER_RANGE (0x0014): results that take an entry (R231) and IDENT entries. -/
def crossOrder (p : PlanCopy) : Option CheckFail :=
  let rules := ((allResults p).filter (fun r => runsChain r.2.2)).map (fun r => (r.1, r.2.1, r.2.2.domain, r.2.2.od))
  let idents := ((p.sec 7).kind 7 1).map (fun e => (7, e.1, byteAt e.2 3, leAt e.2 12 2))
  firstFail [crossRanges p 0x14 orderRange,
    failFirst (rules ++ idents) (fun r => !inRange (orderRange p r.2.2.1) r.2.2.2)
      (fun r => { code := 0x14, section_ := r.1, entry := r.2.1, detail := r.2.2.2 })]

/-- The threads of every pool of a plan, with the section entry of the POOL that holds each, in ascending order. -/
def boundThreads (p : PlanCopy) : List (Nat × Nat) :=
  ((p.sec 0x0F).kind 0x0F 1).foldl (fun acc e => (maskThreads e.2).foldl (fun a t => insertBy (·.1) (t, e.1) a) acc) []

/-- Slot-table positions held by a domain's coat threads (R330). -/
def coatPositions (p : PlanCopy) (d : Nat) : Nat :=
  ((((p.sec 0x0F).kind 0x0F 1).filter (fun e => !(byteAt e.2 2).testBit 0 && byteAt e.2 3 == d)).flatMap (fun e =>
    (maskThreads e.2).map (fun t => (positionsOf p t).length))).sum

/-- SLOT_SHARE (0x0015). -/
def crossSlots (p : PlanCopy) : Option CheckFail :=
  let ds := enabledDomains p
  let sum := (ds.map (fun d => slotShare p d)).sum
  firstFail (failX 0x15 0x15 noEntry sum (decide (6144 < sum)) ::
    ds.map (fun d => failX 0x15 0x15 d (coatPositions p d) (decide (slotShare p d < coatPositions p d))))

/-- The lowest bit set in `v` among the first `n`. -/
def lowBit (v n : Nat) : Nat := ((List.range n).find? (fun i => v.testBit i)).getD 0

/-- A mask of one domain that shares a bit with a lower domain's (0x0016, 0x0017). -/
def crossMasks (p : PlanCopy) (code n : Nat) (f : PlanCopy → Nat → Nat) : Option CheckFail :=
  let ds := enabledDomains p
  firstFail (ds.map (fun d =>
    let lower := (ds.filter (fun e => decide (e < d))).foldl (fun a e => a ||| f p e) 0
    failX code 0x15 d (lowBit (lower &&& f p d) n) (decide (lower &&& f p d ≠ 0))))

/-- LOCK_OWNER (0x0016): a program that serves a domain names only that domain's groups. -/
def crossLocks (p : PlanCopy) : Option CheckFail :=
  let pools := (p.sec 0x0F).kind 0x0F 1
  let progs := ((p.sec 0x0D).kind 0x0D 1).zipIdx
  let extra (e : (Nat × Bytes) × Nat) : Nat :=
    (pools.filter (fun q => leAt q.2 4 2 == e.2)).foldl (fun a q => a ||| clearMask (leAt e.1.2 40 8) (lockGroupMask p (byteAt q.2 3))) 0
  firstFail [crossMasks p 0x16 64 lockGroupMask,
    failFirst progs (fun e => extra e != 0) (fun e => { code := 0x16, section_ := 0x0D, entry := e.1.1, detail := lowBit (extra e) 64 })]

/-- RING_OWNER (0x0017): COPY_TO_PROCESSOR results and mirror sessions whose DEST is RING; 0x0F names Hawk. -/
def crossRings (p : PlanCopy) : Option CheckFail :=
  let rules := ((allResults p).filter (fun r => r.2.2.action == 2)).map (fun r => (r.1, r.2.1, r.2.2.domain, r.2.2.ring))
  let mirrors := (((p.sec 0x0B).kind 0x0B 5).filter (fun e => byteAt e.2 1 == 1)).map (fun e => (0x0B, e.1, byteAt e.2 5, byteAt e.2 4))
  firstFail [crossMasks p 0x17 16 ringMask,
    failFirst (rules ++ mirrors) (fun r => r.2.2.2 != 15 && !(domRing p r.2.2.1 && decide (r.2.2.2 < 8) && (ringMask p r.2.2.1).testBit r.2.2.2))
      (fun r => { code := 0x17, section_ := r.1, entry := r.2.1, detail := r.2.2.2 })]

/-- CLUSTER_MASK (0x0018). -/
def crossClusters (p : PlanCopy) : Option CheckFail :=
  failFirst ((p.sec 0x0F).kind 0x0F 1) (fun e => !(maskThreads e.2).isEmpty && !(domClusters p (byteAt e.2 3)).testBit (byteAt e.2 1))
    (fun e => { code := 0x18, section_ := 0x0F, entry := e.1, detail := byteAt e.2 1 })

/-! ### Programs -/

/-- PROGRAM_REF (0x0020). -/
def crossPrograms (p : PlanCopy) : Option CheckFail :=
  let chain (t : Nat) (k : Nat) (e : Nat × Bytes) : Option CheckFail := failX 0x20 t e.1 k (chainEntry p k).isNone
  firstFail (((p.sec 7).kind 7 1).map (fun e => chain 7 (leAt e.2 14 2) e) ++
    ((p.sec 0x0F).kind 0x0F 1).map (fun e => failX 0x20 0x0F e.1 (leAt e.2 4 2) (progEntry p (leAt e.2 4 2)).isNone) ++
    ((p.sec 0x14).entries 0x14).map (fun e => chain 0x14 (leAt e.2 0 2) e))

/-- G(d) of a thread's positions (R56). -/
def slotGap (ps : List Nat) (d : Nat) : Nat :=
  let w := ps.length
  ((List.range w).map (fun i => ps.getD ((i + d) % w) 0 + 32 * ((i + d) / w) - ps.getD i 0)).foldl Nat.min (32 * (d + 1))

/-- The issue ticks of the junction (R295): 17 rounds of the old positions, then 17 of the new. -/
def junctionTicks (old new : List Nat) : List Nat :=
  (List.range 17).flatMap (fun c => old.map (fun k => 32 * c + k)) ++ (List.range 17).flatMap (fun c => new.map (fun k => 32 * (17 + c) + k))

/-- The smallest distance from a tick of the junction to the `d`-th after it. -/
def junctionGap (old new : List Nat) (d : Nat) : Nat :=
  let ts := junctionTicks old new
  ((ts.zip (ts.drop d)).map (fun x => x.2 - x.1)).foldl Nat.min (32 * (d + 1))

/-- The hazard vectors of the program that a plan binds a thread to: L_1 to L_16. -/
def hazardOf (p : PlanCopy) (t : Nat) : Option Bytes :=
  (bindingOf p t).bind (fun b => (progEntry p b.program).map (fun r => slice r 16 16))

/-- A HAZARD failure's DETAIL (Table 2-10). -/
def hazardDetail (t d g l : Nat) (junction : Bool) : Nat :=
  leVal (toLE 1 (tidCluster t) ++ toLE 1 (tidCore t) ++ toLE 1 (tidThr t) ++ toLE 1 d ++ toLE 2 g ++ toLE 1 l ++ toLE 1 (b2n junction))

/-- The smallest `d` at which the gaps `g` fall short of one of the vectors. -/
def hazardAt (t entry : Nat) (junction : Bool) (g : Nat → Nat) (vs : List Bytes) : Option CheckFail :=
  firstFail ((List.range 16).flatMap (fun i => vs.map (fun v =>
    failX 0x21 0x0F entry (hazardDetail t (i + 1) (g (i + 1)) (byteAt v i) junction) (decide (g (i + 1) < byteAt v i)))))

/-- HAZARD (0x0021; R56, R295). -/
def crossHazard (p : PlanCopy) (inForce : Option PlanCopy) : Option CheckFail :=
  let q := inForce.getD PlanCopy.none
  let extra := (boundThreads q).filter (fun x => !(boundThreads p).any (fun y => y.1 == x.1))
  let all := (boundThreads p) ++ extra.map (fun x => (x.1, noEntry))
  firstFail ((all.foldl (fun acc x => insertBy (·.1) x acc) []).map (fun x =>
    let new := positionsOf p x.1
    let old := match inForce with
      | some o => positionsOf o x.1
      | none => []
    let nv := (hazardOf p x.1).toList
    let ov := (hazardOf q x.1).toList
    firstFail [
      (if new.isEmpty then none else hazardAt x.1 x.2 false (slotGap new) nv),
      (if new.isEmpty || old.isEmpty then none else hazardAt x.1 x.2 true (junctionGap old new) (nv ++ ov))]))

/-- FREE_TIMED (0x0022; R23). -/
def crossFree (p : PlanCopy) : Option CheckFail :=
  failFirst ((p.sec 0x0F).kind 0x0F 1)
    (fun e => freePace p (byteAt e.2 1) && (!(byteAt e.2 2).testBit 0 || ((progEntry p (leAt e.2 4 2)).map (fun r => (byteAt r 1).testBit 0)).getD false))
    (fun e => { code := 0x22, section_ := 0x0F, entry := e.1, detail := byteAt e.2 1 })

/-- The locked lines of a plan's programs on core `u`: set, way, line number and the line's 64 bytes (R278, R281). -/
def lockedLines (p : PlanCopy) (u : Nat) : List (Nat × Nat × Nat × Bytes) :=
  (((List.range 16).filterMap (fun t => (bindingOf p (16 * u + t)).map (fun b => b.program))).eraseDups).flatMap (fun g =>
    match progEntry p g with
    | some r =>
      if (byteAt r 1).testBit 1 then
        let first := leAt r 4 4
        (List.range (ceilDiv (first + leAt r 8 4) 64 - first / 64)).map (fun k =>
          let l := first / 64 + k
          (l % 128, byteAt r 2, l, (codeLine p l).getD (zeros 64)))
      else []
    | none => [])

/-- The first set and way on which two different lines of a list fall, in the list's order. -/
def lineClash : List (Nat × Nat × Nat × Bytes) → Option (Nat × Nat)
  | [] => none
  | x :: r => if r.any (fun y => y.1 == x.1 && y.2.1 == x.2.1 && y.2.2 != x.2.2) then some (x.1, x.2.1) else lineClash r

/-- ICACHE (0x0023; R281). -/
def crossIcache (p : PlanCopy) (inForce : Option PlanCopy) : Option CheckFail :=
  let q := inForce.getD PlanCopy.none
  firstFail ((List.range 192).map (fun u =>
    (lineClash ((lockedLines p u ++ lockedLines q u).foldl (fun acc x => insertBy (fun z => 4 * z.1 + z.2.1) x acc) [])).map (fun c =>
      { code := 0x23, section_ := 0x0D, detail := leVal (toLE 1 (u / 12) ++ toLE 1 (u % 12) ++ toLE 1 c.1 ++ toLE 1 c.2) })))

/-- EXPRESS_LATENCY (0x0024; R32): the stream in DETAIL[31:0], the ratio times 1,000 in DETAIL[63:32]. -/
def crossExpress (p : PlanCopy) : Option CheckFail :=
  firstFail ((((p.sec 7).kind 7 1).zipIdx).map (fun e =>
    let r := expressLatency p e.1.2
    failX 0x24 7 e.1.1 (e.2 + 2 ^ 32 * (r.1 * 1000 / Nat.max 1 r.2)) ((byteAt e.1.2 2).testBit 0 && decide (14 * r.2 < 10 * r.1))))

/-- PAIR_PLACEMENT (0x0025). -/
def crossPairs (p : PlanCopy) : Option CheckFail :=
  failFirst ((p.sec 0x14).entries 0x14) (fun e =>
      let chain := leAt e.2 0 2
      let side := ((lastCoat p chain).map (·.pools)).getD []
      let prog (k : Nat) : Option Nat := (poolEntry p k).map (fun x => leAt x 4 2)
      !domPaired p ((chainDomain p chain).getD 0) ||
        (side.zip (pairPools e.2)).any (fun x => poolCluster p x.1 == poolCluster p x.2 || prog x.1 != prog x.2))
    (fun e => { code := 0x25, section_ := 0x14, entry := e.1, detail := e.1 })

/-! ### Banks, pools, ports, span links -/

/-- The first byte at or after `a` that no range of the map holds. -/
def mapGap : Nat → Nat → Nat
  | 0, a => a
  | n + 1, a =>
    match regionOf a with
    | some (_, _, hi) => mapGap n (hi + 1)
    | none => a

/-- Whether `[lo, hi]` touches `[a, b]`. -/
def meets (lo hi a b : Nat) : Bool := decide (lo ≤ b) && decide (a ≤ hi)

/-- Whether an entry that maps `[lo, hi]` grants rights beyond domain `d` (R290). -/
def beyondDomain (p : PlanCopy) (d lo hi : Nat) (write : Bool) : Bool :=
  (List.range 16).any (fun n => !(domClusters p d).testBit n && meets lo hi (clusterBase n) (clusterBase n + 0x1FFFFF)) ||
    meets lo hi 0x1100000000 0x11003FFFFF ||
    (write && (meets lo hi 0x1300000000 0x130FFFFFFF || meets lo hi 0x0F90000000 0x0FCFFFFFFF)) ||
    (!domRing p d && meets lo hi 0x8000000000 0xBFFFFFFFFF)

/-- BANK_TARGET (0x0026; R46, R209, R290). -/
def crossBanks (p : PlanCopy) : Option CheckFail :=
  failFirst ((p.sec 0x10).entries 0x10) (fun e =>
      let lo := leAt e.2 8 8
      let hi := if byteAt e.2 0 = 1 then lo + 0xFFFF else leAt e.2 16 8
      decide (mapGap 40 lo ≤ hi) || meets lo hi 0x0F80000000 0x0F8FFFFFFF || meets lo hi 0x0FD0000000 0x0FFFFFFFFF ||
        (byteAt e.2 4 != 0 && beyondDomain p (byteAt e.2 4) lo hi ((byteAt e.2 3).testBit 1)))
    (fun e => { code := 0x26, section_ := 0x10, entry := e.1, detail := byteAt e.2 2 })

/-- POOL_GEOMETRY (0x0027): not at the first commit. -/
def crossPools (p : PlanCopy) (inForce : Option PlanCopy) : Option CheckFail :=
  match inForce with
  | none => none
  | some q => firstFail ((List.range 5).map (fun k =>
      failX 0x27 0x0A k k (slice (poolEnt p k) 4 4 != slice (poolEnt q k) 4 4 || poolCount p k != poolCount q k || poolBase p k != poolBase q k)))

/-- PORT_REF (0x0028): an entry that ENABLED leaves clear describes no port. -/
def crossPorts (p : PlanCopy) : Option CheckFail :=
  let named (t k off : Nat) : List (Nat × Nat × Nat) := ((p.sec t).kind t k).map (fun e => (t, e.1, byteAt e.2 off))
  let sched := ((p.sec 0x0B).entries 0x0B).filterMap (fun e =>
    if byteAt e.2 0 = 1 ∨ byteAt e.2 0 = 2 then some (0x0B, e.1, byteAt e.2 1)
    else if byteAt e.2 0 = 5 ∧ byteAt e.2 1 = 0 then some (0x0B, e.1, byteAt e.2 2)
    else none)
  let outs := ((p.sec 0x0C).entries 0x0C).flatMap (fun e =>
    if byteAt e.2 0 = 1 then (cbOuts e.2).map (fun o => (0x0C, e.1, o.1))
    else if byteAt e.2 0 = 2 then [(0x0C, e.1, byteAt e.2 2), (0x0C, e.1, byteAt e.2 3)]
    else [])
  failFirst (sched ++ outs ++ named 0x16 1 1 ++ named 0x16 2 1) (fun r => !portEnabled p r.2.2)
    (fun r => { code := 0x28, section_ := r.1, entry := r.2.1, detail := r.2.2 })

/-- SPAN_SELF (0x0029; R467): link `k` of device `d` connects to device (d + k + 1) mod 4. -/
def crossSpan (p : PlanCopy) (devId : Nat) : Option CheckFail :=
  failFirst ((List.range 3).filter (spanOn p)) (fun k => spanPeerId p k != (devId + k + 1) % 4)
    (fun k => { code := 0x29, section_ := 0x13, entry := k, detail := devId })

/-! ### All checks of the sections -/

/-- The format checks of the sections present, in ascending TYPE_ID order (R52). -/
def checkSections (p : PlanCopy) (inForce : Option PlanCopy) (pinned : Bool) (seeds : Option (List Bytes)) : Option CheckFail :=
  let on (t : Nat) (f : Unit → Option CheckFail) : Option CheckFail := if p.has t then f () else none
  firstFail [
    on 1 (fun _ => checkPorts p), on 2 (fun _ => checkTime p), on 3 (fun _ => checkGraph p), on 4 (fun _ => checkFrag p),
    on 5 (fun _ => checkRules p), on 6 (fun _ => checkHolt p), on 7 (fun _ => checkStreams p), on 8 (fun _ => checkPinned p pinned),
    on 9 (fun _ => checkParams p seeds), on 0x0A (fun _ => checkPools p inForce), on 0x0B (fun _ => checkQueues p),
    on 0x0C (fun _ => checkRedundancy p), on 0x0D (fun _ => checkPrograms p), on 0x0E (fun _ => checkSlots p inForce),
    on 0x0F (fun _ => checkDispatch p), on 0x10 (fun _ => checkBanks p), on 0x11 (fun _ => checkLocks p), on 0x12 (fun _ => checkQos p),
    on 0x13 (fun _ => checkSpan p), on 0x14 (fun _ => checkPairs p), on 0x15 (fun _ => checkDomains p), on 0x16 (fun _ => checkMacsec p)]

/-- The cross-section checks in ascending code order; `groupBad` is GROUP (0x002A), which the header decides. -/
def checkCross (p : PlanCopy) (inForce : Option PlanCopy) (devId : Nat) (groupBad : Bool) : Option CheckFail :=
  firstFail [crossDomains p, crossBuffers p, crossTable p, crossPinned p, crossOrder p, crossSlots p, crossLocks p, crossRings p,
    crossClusters p, crossPrograms p, crossHazard p inForce, crossFree p, crossIcache p inForce, crossExpress p, crossPairs p,
    crossBanks p, crossPools p inForce, crossPorts p, crossSpan p devId, (if groupBad then some { code := 0x2A } else none)]

end Sys2Proof.Machine
end

