-- ==== Sys2Proof/Machine/PlanImage.lean ====
section
/-!
DEFINITION. The plan image (R36 to R42): its header and section table, patches, the plan that results from it, and the
container checks, codes 0x0001 to 0x000D of Table 2-10.
-/

namespace Sys2Proof.Machine

/-! ### Header and section table (Tables 2-1 and 2-2) -/

/-- A little-endian field of a staged image. -/
def imgLe (m : Memory) (off n : Nat) : Nat := leVal (memBytes m off n)
/-- A bit of the header's FLAGS: 0 DELTA, 1 SIGNED, 2 INDIVISIBLE, 3 RANDOM_SEEDS, 4 GROUP. -/
def imgFlag (m : Memory) (i : Nat) : Bool := (imgLe m 8 4).testBit i
/-- The bytes before the signature trailer. -/
def imgEnd (m : Memory) : Nat := imgLe m 12 4 - (if imgFlag m 1 then 128 else 0)

/-- A section table entry. -/
structure SecEnt where
  index : Nat
  typ : Nat
  mode : Nat
  off : Nat
  len : Nat
  count : Nat
  reserved : Nat
  digest : Bytes
  deriving DecidableEq, Repr, Inhabited

/-- Entry `i` of the section table. -/
def secEntAt (m : Memory) (i : Nat) : SecEnt :=
  let b := memBytes m (256 + 64 * i) 64
  { index := i, typ := leAt b 0 2, mode := byteAt b 2, reserved := byteAt b 3, off := leAt b 4 4, len := leAt b 8 4, count := leAt b 12 4
    digest := slice b 16 48 }
/-- The section table. -/
def secEnts (m : Memory) : List SecEnt := (List.range (imgLe m 16 2)).map (secEntAt m)
/-- A section's body as the image holds it. -/
def bodyOf (m : Memory) (e : SecEnt) : Sec := { len := e.len, mem := memSub m e.off e.len }

/-! ### Status of the section types (Table 2-5) -/

/-- Whether a full plan must hold a section of this type; the rules sections are judged together (R42). -/
def secRequired (t : Nat) : Bool := [0x01, 0x02, 0x03, 0x0A, 0x0B, 0x0D, 0x0E, 0x0F, 0x10, 0x15].contains t
/-- Whether a section of this type may be patched. -/
def secPatchable (t : Nat) : Bool := decide (1 ≤ t) && decide (t ≤ 0x16) && t != 2 && t != 4 && t != 0x12

/-- The owner's limit on the entries of a section: the sum over its kinds. -/
def secLimit (t : Nat) : Nat :=
  match t with
  | 0x01 => 64 | 0x03 => 2048 | 0x05 => 49152 | 0x06 => 49152 | 0x07 => 16384 + 4096 + 1024 + 2341 + 8192 | 0x08 => 65536 | 0x09 => 1048576
  | 0x0A => 5 | 0x0B => 64 + 1024 + 9362 + 4096 + 16 | 0x0C => 16384 + 16 + 4096 | 0x0D => 4096 + 262144 | 0x0E => 208 | 0x0F => 2048 + 4096
  | 0x10 => 65280 + 8192 | 0x11 => 64 | 0x13 => 3 | 0x14 => 512 | 0x15 => 16 | _ => 64 + 1024

/-! ### Patches (R37, R38) -/

/-- The cells of a memory moved up by `off`. -/
def memShift (m : Memory) (off : Nat) : Memory := m.map (fun c => (c.1 + off, c.2))
/-- A memory with the `n` bytes at `off` replaced by those of `src`, which start at 0. -/
def memSplice (m : Memory) (off n : Nat) (src : Memory) : Memory :=
  m.filter (fun c => decide (c.1 < off)) ++ memShift src off ++ m.filter (fun c => decide (off + n ≤ c.1))

/-- The records of a PATCH body from index `idx` at `pos` on, applied to a section from record `first` to before record
`stop`; `low` is the first entry that the next record may name. An error is the index of the record at fault. -/
def patchLoop (t : Nat) (body : Sec) (first stop n : Nat) : Nat → Nat → Nat → Nat → Sec → Except Nat Sec
  | 0, idx, pos, _, x => if idx < n then .error idx else if pos < body.len then .error n else .ok x
  | fuel + 1, idx, pos, low, x =>
    if n ≤ idx then (if pos < body.len then .error n else .ok x)
    else if body.len < pos + 16 then .error idx
    else
      let f := body.le pos 4
      let c := body.le (pos + 4) 4
      let op := body.byte (pos + 8)
      let size := secSize t
      let next := pos + 16 + (if op = 0 then c * size else 0)
      if 1 < op ∨ c = 0 ∨ body.zeroIn (pos + 9) 7 = false ∨ f < low ∨ body.len < next then .error idx
      else if idx < first ∨ stop ≤ idx then patchLoop t body first stop n fuel (idx + 1) next (f + c) x
      else
        let cur := x.count t
        if op = 0 then
          if cur < f ∨ secLimit t < f + c then .error idx
          else
            let o := entOff t f
            patchLoop t body first stop n fuel (idx + 1) next (f + c)
              { len := Nat.max x.len (o + c * size), mem := memSplice x.mem o (c * size) (memSub body.mem (pos + 16) (c * size)) }
        else if cur < f + c then .error idx
        else patchLoop t body first stop n fuel (idx + 1) next (f + c) { x with mem := memSplice x.mem (entOff t f) (c * size) [] }

/-- The record of a PATCH body that holds entry `i`. -/
def patchRecordOf (t : Nat) (body : Sec) (i : Nat) : Nat → Nat → Nat → Option Nat
  | 0, _, _ => none
  | fuel + 1, idx, pos =>
    if body.len < pos + 16 then none
    else
      let f := body.le pos 4
      let c := body.le (pos + 4) 4
      if f ≤ i ∧ i < f + c then some idx
      else patchRecordOf t body i fuel (idx + 1) (pos + 16 + (if body.byte (pos + 8) = 0 then c * secSize t else 0))

/-! ### What a commit takes (R66) -/

/-- The sections of the image that no PARTIAL commit has taken whole. -/
def leftEnts (st : Staging) : List SecEnt := (secEnts st.image).filter (fun e => !st.doneSecs.contains e.typ)
/-- Whether a selection takes a section. -/
def selTakes (sel : Option CommitSel) (t : Nat) : Bool :=
  match sel with
  | none => true
  | some c => c.mask.testBit (t - 1) || c.limitSection == t
/-- The record of a section's patch before which a selection stops. -/
def selStop (st : Staging) (sel : Option CommitSel) (e : SecEnt) : Nat :=
  match sel with
  | some c => if c.limitSection = e.typ then Nat.min e.count (tblGet 0 st.doneRecs e.typ + c.limitCount) else e.count
  | none => e.count

/-- Whether a selection takes a section's last record, or all of it. -/
def selEnds (st : Staging) (sel : Option CommitSel) (e : SecEnt) : Bool :=
  selTakes sel e.typ && (e.mode != 1 || selStop st sel e == e.count)
/-- Whether nothing of the image remains after a selection. -/
def selWhole (st : Staging) (sel : Option CommitSel) : Bool := (leftEnts st).all (selEnds st sel)
/-- Whether the image has been committed in part. -/
def isRemainder (st : Staging) : Bool := !st.doneSecs.isEmpty || !st.doneRecs.isEmpty

/-- The staging session after the commit of a selection: empty when nothing is left, else the remainder (Table 2-16). -/
def afterSel (st : Staging) (sel : Option CommitSel) (produced : Bytes) : Staging :=
  if selWhole st sel then {}
  else
    let taken := (leftEnts st).filter (fun e => selTakes sel e.typ)
    { st with
      st := .loaded, checkedAt := none, prepBound := 0, rebase := some produced
      doneSecs := st.doneSecs ++ (taken.filter (selEnds st sel)).map (·.typ)
      doneRecs := (taken.filter (fun e => !selEnds st sel e)).foldl (fun t e => tblSet t e.typ (selStop st sel e)) st.doneRecs }

/-! ### The resulting plan (R37, R40, R42) -/

/-- The digest of a plan's sections (R40). -/
def planDigest (secs : Table Sec) : Bytes := sha384 (secs.flatMap (fun e => toLE 2 e.1 ++ sha384 e.2.bytes))

/-- A MODE failure (0x000A). -/
def modeFail (t : Nat) (record : Nat := 0xFFFFFFFF) : CheckFail := { code := 0x0A, section_ := t, entry := record, detail := record }

/-- The sections of a plan after one section of the image is applied. -/
def applySection (st : Staging) (sel : Option CommitSel) (delta : Bool) (secs : Table Sec) (e : SecEnt) : Except CheckFail (Table Sec) :=
  if e.mode = 0 then .ok (tblSet secs e.typ (bodyOf st.image e))
  else if delta = false then .error (modeFail e.typ)
  else if e.mode = 2 then (if secRequired e.typ then .error (modeFail e.typ) else .ok (tblDel secs e.typ))
  else if secPatchable e.typ = false then .error (modeFail e.typ)
  else
    match tblFind secs e.typ with
    | none =>
      if 0 < secPre e.typ then .error (modeFail e.typ)
      else
        (match patchLoop e.typ (bodyOf st.image e) (tblGet 0 st.doneRecs e.typ) (selStop st sel e) e.count (e.count + 1) 0 0 0 {} with
         | .ok x => .ok (tblSet secs e.typ x)
         | .error i => .error (modeFail e.typ i))
    | some y =>
      match patchLoop e.typ (bodyOf st.image e) (tblGet 0 st.doneRecs e.typ) (selStop st sel e) e.count (e.count + 1) 0 0 0 y with
      | .ok x => .ok (tblSet secs e.typ x)
      | .error i => .error (modeFail e.typ i)

/-- The sections of the image applied in ascending TYPE_ID order. -/
def applySections (st : Staging) (sel : Option CommitSel) (delta : Bool) : List SecEnt → Table Sec → Except CheckFail (Table Sec)
  | [], secs => .ok secs
  | e :: r, secs =>
    match applySection st sel delta secs e with
    | .ok x => applySections st sel delta r x
    | .error f => .error f

/-- The sections that result from the staged image, or from what a selection takes of it (R37, R42, R66). -/
def resultSecs (st : Staging) (inForce : Option PlanCopy) (sel : Option CommitSel) : Except CheckFail (Table Sec) :=
  let delta := imgFlag st.image 0
  let base := if delta || sel.isSome || isRemainder st then (inForce.map (·.secs)).getD [] else []
  let es := ((leftEnts st).filter (fun e => selTakes sel e.typ)).foldl (fun acc e => insertBy (·.typ) e acc) []
  match applySections st sel delta es base with
  | .error f => .error f
  | .ok x =>
    if delta || !selWhole st sel then .ok x
    else .ok (x.filter (fun e => (secEnts st.image).any (fun y => y.typ == e.1)))

/-- The plan that results (R40, R41); its epoch is given when the commit switches. -/
def planOfSecs (m : Memory) (secs : Table Sec) : PlanCopy :=
  let dg := planDigest secs
  { epoch := 0, secs := secs, maxRes := imgLe m 20 4, serial := imgLe m 24 8, digest := dg
    board := if imgFlag m 4 then memBytes m 128 48 else dg, randomSeeds := imgFlag m 3 }

/-! ### Container checks -/

/-- A container check that fails with status E_CHECK unless another is given. -/
def contFail (code : Nat) (bad : Bool) (detail : Nat := 0) (status : Nat := 8) (sec : Nat := 0) : Option CheckFail :=
  if bad then some { status := status, code := code, section_ := sec, detail := detail } else none

/-- MAGIC (0x0001). -/
def contMagic (m : Memory) : Option CheckFail :=
  if imgLe m 0 4 ≠ 0x4E414C50 then contFail 1 true (imgLe m 0 4) else contFail 1 (imgLe m 4 2 != 0x1C32) (imgLe m 4 2)

/-- SIZE (0x0003). -/
def contSize (st : Staging) : Option CheckFail :=
  let m := st.image
  let size := imgLe m 12 4
  let parts := 256 + 64 * imgLe m 16 2
  contFail 3 (size != st.size || decide (imgEnd m < parts) || decide (size < 256) ||
    (secEnts m).any (fun e => decide (imgEnd m < e.off + e.len))) size

/-- Whether a section table entry breaks SECTION_TABLE (0x0004); `earlier` are the entries before it. -/
def secEntBad (tableEnd : Nat) (earlier : List SecEnt) (e : SecEnt) : Bool :=
  e.typ == 0 || decide (0x16 < e.typ) || earlier.any (fun x => x.typ == e.typ) || decide (2 < e.mode) || e.reserved != 0 ||
    e.off % 64 != 0 ||
    (decide (0 < e.len) && (decide (e.off < tableEnd) ||
      earlier.any (fun x => decide (0 < x.len) && decide (x.off < e.off + e.len) && decide (e.off < x.off + x.len)))) ||
    (e.mode == 0 && e.len != secPre e.typ + e.count * secSize e.typ) || (e.mode == 2 && (e.len != 0 || e.count != 0))

/-- SECTION_TABLE (0x0004). -/
def contTable (m : Memory) : Option CheckFail :=
  let n := imgLe m 16 2
  let es := secEnts m
  firstFail (contFail 4 (n == 0 || decide (64 < n) || decide (32 ≤ imgLe m 8 4) || imgLe m 18 2 != 0 || !allZero (memBytes m 177 15) ||
      !allZero (memBytes m 240 16)) 0xFFFFFFFF ::
    es.map (fun e => contFail 4 (secEntBad (256 + 64 * n) (es.take e.index) e) e.index))

/-- TABLE_DIGEST and SECTION_DIGEST (0x0005, 0x0006). -/
def contDigests (m : Memory) : Option CheckFail :=
  firstFail (contFail 5 (sha384 (memBytes m 256 (64 * imgLe m 16 2)) != memBytes m 192 48) ::
    (secEnts m).map (fun e => contFail 6 (sha384 (bodyOf m e).bytes != e.digest) e.index 8 e.typ))

/-- UNSIGNED and SIGNATURE (0x0007, 0x0008; R39). -/
def contSignature (m : Memory) (v : SvcState) : Option CheckFail :=
  let slot := imgLe m 176 1
  if imgFlag m 1 = false then contFail 7 v.planSigFuse 0 9
  else
    contFail 8 (match tblGet KeySlot.empty v.keySlots slot with
      | .written key => decide (3 < slot) || !trailerVerifies key (sha384 (memBytes m 0 (imgEnd m))) (memBytes m (imgEnd m) 128)
      | _ => true) slot 9

/-- BASE (0x0009; R66). -/
def contBase (st : Staging) (inForce : Option PlanCopy) : Option CheckFail :=
  let digest := inForce.map (·.digest)
  if isRemainder st then contFail 9 (digest.isNone || digest != st.rebase) 0 0xA
  else contFail 9 (imgFlag st.image 0 && digest != some (memBytes st.image 80 48)) 0 0xA

/-- REQUIRED (0x000B; R42). -/
def contRequired (secs : Table Sec) : Option CheckFail :=
  let has (t : Nat) : Bool := (tblFind secs t).isSome
  firstFail ((List.range 23).map (fun t =>
    contFail 0xB ((secRequired t && !has t) || (t == 5 && !has 5 && !has 6)) t))

/-- PLAN_DIGEST (0x000C); a selection that leaves a remainder is not compared (R66). -/
def contDigest (st : Staging) (sel : Option CommitSel) (p : PlanCopy) : Option CheckFail :=
  let total := (p.secs.map (fun e => e.2.len)).sum
  contFail 0xC (decide (384 * 2 ^ 20 < total) || (selWhole st sel && p.digest != memBytes st.image 32 48)) total

/-- The longest CYCLE_NS of a PORT_SCHED entry with GATES_EN on an enabled port. -/
def longestCycle (p : PlanCopy) : Nat :=
  ((p.sec 0x0B).kind 0x0B 1).foldl (fun a e =>
    if (byteAt e.2 2).testBit 0 && portEnabled p (byteAt e.2 1) then Nat.max a (leAt e.2 26 4) else a) 0

/-- RESIDENCE (0x000D). -/
def contResidence (p : PlanCopy) : Option CheckFail :=
  contFail 0xD (decide (p.maxRes < 10) || decide (2100000 < p.maxRes) || decide (1000 * p.maxRes < longestCycle p)) (longestCycle p)

/-- The container checks in ascending code order: the plan that results, or the first failure (R50, R52). -/
def checkContainer (st : Staging) (v : SvcState) (inForce : Option PlanCopy) (sel : Option CommitSel) : Except CheckFail PlanCopy :=
  let m := st.image
  match firstFail [contMagic m, contFail 2 (imgLe m 6 2 != 1) (imgLe m 6 2) 0xF, contSize st, contTable m, contDigests m, contSignature m v,
      contBase st inForce] with
  | some f => .error f
  | none =>
    match resultSecs st inForce sel with
    | .error f => .error f
    | .ok secs =>
      let p := planOfSecs m secs
      match firstFail [contRequired secs, contDigest st sel p, contResidence p] with
      | some f => .error f
      | none => .ok p

end Sys2Proof.Machine
end

