-- ==== Sys2Proof/Machine/Service.lean ====
section
/-!
DEFINITION. The service port, the update protocol, keys, fuses and random numbers: meanings of the commands of
"Service port, firmware update and security" (R532 to R564).
-/

namespace Sys2Proof.Machine

/-! ### Frames of the service port (R533) -/

/-- The TAP instruction in force stops the service port, UART and SMBus (R613). -/
def tapTakesBalls (ir : TapIr) : Bool :=
  match ir with
  | .extest => true
  | .highz => true
  | .clamp => true
  | .extestPulse => true
  | .extestTrain => true
  | .sample => false
  | .idcode => false
  | .bypass => false

/-- The service port works from READY.SERVICE on, and not while boundary scan holds the balls (R532, R613). -/
def svcPortUp (s : State) : Bool := isReady s 0 && !tapTakesBalls s.pkg.ir

/-- The port's MAC address (R533). -/
def svcMac : Bytes := 0x02 :: toBE 5 (Config.unitId.toNat % 2 ^ 40)

/-- The port's IPv6 address: fe80::/64 with the modified EUI-64 identifier of its MAC (R533). -/
def svcIp : Bytes :=
  [0xFE, 0x80, 0, 0, 0, 0, 0, 0, 0x00] ++ slice svcMac 1 2 ++ [0xFF, 0xFE] ++ slice svcMac 3 3

/-- The one's-complement sum of 16-bit words, folded. -/
def onesSum (b : Bytes) : Nat :=
  let t := (List.range (ceilDiv b.length 2)).foldl (fun a i => a + beAt b (2 * i) 2) 0
  let f (x : Nat) : Nat := x % 65536 + x / 65536
  f (f (f t))

/-- An ICMPv6 message with its checksum filled in (RFC 4443), from `src` to `dst`; the message's checksum field is 0. -/
def icmp6 (src dst msg : Bytes) : Bytes :=
  let c := 65535 - onesSum (src ++ dst ++ toBE 4 msg.length ++ [0, 0, 0, 58] ++ msg)
  patchBytes msg 2 (toBE 2 c)

/-- An Ethernet frame with an IPv6 packet of one ICMPv6 message from the service port. -/
def svcIpFrame (mac dst msg : Bytes) : Bytes :=
  mac ++ svcMac ++ [0x86, 0xDD, 0x60, 0, 0, 0] ++ toBE 2 msg.length ++ [58, 255] ++ svcIp ++ dst ++ icmp6 svcIp dst msg

/-- A frame is dropped and counted in SVC_DROPS (R533). -/
def svcDrop (s : State) : State := { s with svc := { s.svc with drops := (s.svc.drops + 1) % 2 ^ 64 } }

/-- NEIGHBOR_SOLICITATION: a solicitation for the port's address is answered with an advertisement (R533, RFC 4861). -/
def execNeighborSolicitation (f : Bytes) (s : State) : Res :=
  .next (
    if svcPortUp s = false then s
    else if beAt f 12 2 = 0x86DD ∧ byteAt f 20 = 58 ∧ byteAt f 21 = 255 ∧ byteAt f 54 = 135 ∧ slice f 62 16 = svcIp then
      let src := slice f 22 16
      let unspec := allZero src
      let dst := if unspec then [0xFF, 0x02] ++ zeros 13 ++ [1] else src
      let flags : Bytes := if unspec then [0x20, 0, 0, 0] else [0x60, 0, 0, 0]
      let mac := if unspec then [0x33, 0x33, 0, 0, 0, 1] else slice f 6 6
      emit s (.service (svcIpFrame mac dst ([136, 0, 0, 0] ++ flags ++ svcIp ++ [2, 1] ++ svcMac)))
    else svcDrop s)

/-- ICMPV6_ECHO_REQUEST: an Echo Request of up to 1,280 bytes of IPv6 packet is answered (R533). -/
def execIcmpv6EchoRequest (f : Bytes) (s : State) : Res :=
  .next (
    if svcPortUp s = false then s
    else if beAt f 12 2 = 0x86DD ∧ byteAt f 20 = 58 ∧ byteAt f 54 = 128 ∧ slice f 38 16 = svcIp ∧ beAt f 18 2 + 40 ≤ 1280 then
      let msg := slice f 54 (beAt f 18 2)
      emit s (.service (svcIpFrame (slice f 6 6) (slice f 22 16) ([129, 0, 0, 0] ++ msg.drop 4)))
    else svcDrop s)

/-- SVC_FRAME_DROP: any other frame is dropped and counted (R533). -/
def execSvcFrameDrop (_f : Bytes) (s : State) : Res := .next (if svcPortUp s then svcDrop s else s)

/-! ### Update protocol (R536 to R544) -/

/-- FW_STATE's code (Table 18-7). -/
def fwCode (f : FwState) : Nat :=
  match f with
  | .idle => 0
  | .writing => 1
  | .written => 2
  | .trial => 3
  | .restoring => 4

/-- CHUNK_STATE's code (Table 18-3). -/
def chunkCode (c : ChunkSt) : Nat :=
  match c with
  | .empty => 0
  | .receiving => 1
  | .writing => 2
  | .written => 3
  | .bad => 4

/-- The state of chunk `i` of PENDING: unchanged and journalled chunks are WRITTEN (R544). -/
def chunkState (v : SvcState) (i : Nat) : ChunkSt :=
  match tblFind v.session.chunks i with
  | some c => c
  | none =>
    if (v.journal.any (fun r => decide (r.chunk = i) && r.done)) then .written
    else if !v.imageBad && decide (i < mfChunks v.current) && decide (mfChunkDigest v.current i = mfChunkDigest v.pending i) then .written
    else .empty

/-- Blocks of chunk `i` of PENDING (R539). -/
def chunkBlockCount (m : Bytes) (i : Nat) : Nat :=
  if i + 1 = mfChunks m then mfImageSize m / 1024 - 64 * i else 64

/-- The chunks of PENDING that are not WRITTEN, lowest first. -/
def chunksLeft (v : SvcState) : List Nat := (List.range (mfChunks v.pending)).filter (fun i => chunkState v i ≠ .written)

/-- The running firmware's FW_VERSION (Table 15-4). -/
def runningVersion (v : SvcState) : Nat := mfVersion (if v.runningPending then v.pending else v.current)

/-- An enable for sessions holds: SVC_EN is high or a host enable is in force (R534). -/
def svcEnabled (s : State) : Bool :=
  s.svc.svcEn || (match s.svc.hostEnableUntil with | some t => decide (s.now < t) | none => false)

/-- A STATUS body: STATUS, FW_STATE, reserved, DETAIL (Table 18-3). -/
def statusBody (v : SvcState) (status detail : Nat) : Bytes := toBE 2 status ++ toBE 1 (fwCode v.fw) ++ [0] ++ toBE 8 detail

/-- The answer to a request: sent, and kept for a repetition of its SEQ (R537). -/
def answer (s : State) (h : UpdHeader) (type session : Nat) (body : Bytes) : State :=
  let s1 := sendUpdate s h.addr h.port.toNat type session h.seq.toNat body
  { s1 with svc := { s1.svc with session := { s1.svc.session with lastSeq := some h.seq.toNat, lastReply := toBE 1 type ++ body } } }

/-- A STATUS answer in the session. -/
def answerStatus (s : State) (h : UpdHeader) (status detail : Nat) : State :=
  answer s h 10 s.svc.session.id (statusBody s.svc status detail)

/-- An accepted message restarts the session's 30 s (R537). -/
def touchSession (s : State) : State := { s with svc := { s.svc with session := { s.svc.session with lastTick := s.now } } }

/-- The session changed by `f`. -/
def modSession (s : State) (f : Session → Session) : State := { s with svc := { s.svc with session := f s.svc.session } }

/-- The common treatment of a session message (R536, R537, Table 18-4): wrong sender or SESSION is dropped, a repeated
SEQ is answered again, a message the state does not accept gets E_SEQUENCE, and otherwise `k` acts. -/
def sessionMsg (s : State) (h : UpdHeader) (accepted : List SessState) (k : State → State) : State :=
  let x := s.svc.session
  if svcPortUp s = false then s
  else if x.st = .listen then
    sendUpdate s h.addr h.port.toNat 10 h.session.toNat h.seq.toNat (statusBody s.svc eSequence 0)
  else if h.addr ≠ x.peerAddr ∨ h.port.toNat ≠ x.peerPort ∨ h.session.toNat ≠ x.id then svcDrop s
  else if x.lastSeq = some h.seq.toNat then
    sendUpdate s h.addr h.port.toNat (byteAt x.lastReply 0) x.id h.seq.toNat (x.lastReply.drop 1)
  else if accepted.contains x.st then k (touchSession s)
  else answerStatus s h eSequence 0

/-- `n` bytes drawn from the DRBG (R560). -/
def drawTrng (s : State) (n : Nat) : Bytes × State :=
  ((List.range n).map (fun i => Config.trngByte (s.svc.trngPos + i)), { s with svc := { s.svc with trngPos := s.svc.trngPos + n } })

/-- `n` bytes that the spec leaves open. -/
def drawFreeBytes (s : State) (n : Nat) : Bytes × State :=
  ((List.range n).map (fun i => (Config.freeWord (s.free + i)).truncate 8), { s with free := s.free + n })

/-- HELLO_ACK's body (Table 18-3); the PENDING digest is open while no manifest is pending. -/
def helloAck (s : State) : Bytes × State :=
  let v := s.svc
  let d := if v.pending = [] then drawFreeBytes s 48 else (sha384 v.pending, s)
  (toBE 2 0x1C32 ++ toBE 2 0xB0A1 ++ toBE 8 Config.unitId.toNat ++ toBE 4 (runningVersion v) ++
    toBE 4 Config.loaderVersion.toNat ++ toBE 2 v.minFwVersion ++ toBE 1 (fwCode v.fw) ++ toBE 1 (journalCapacity v) ++ d.1, d.2)

/-- HELLO: opens a session, or says why not (R534, R536). -/
def execHello (h : UpdHeader) (s : State) : Res :=
  .next (
    let x := s.svc.session
    if svcPortUp s = false then s
    else if x.st ≠ .listen ∧ h.addr = x.peerAddr ∧ h.port.toNat = x.peerPort ∧ x.lastSeq = some h.seq.toNat ∧ byteAt x.lastReply 0 = 2 then
      sendUpdate s h.addr h.port.toNat 2 x.id h.seq.toNat (x.lastReply.drop 1)
    else if svcEnabled s = false then sendUpdate s h.addr h.port.toNat 10 0 h.seq.toNat (statusBody s.svc eRights 0)
    else if isReady s 4 = false then sendUpdate s h.addr h.port.toNat 10 0 h.seq.toNat (statusBody s.svc eNotReady 0)
    else if x.st ≠ .listen then sendUpdate s h.addr h.port.toNat 10 0 h.seq.toNat (statusBody s.svc eBusy 0)
    else
      let d := drawTrng s 4
      let s1 := modSession d.2 (fun y => { y with
        st := .opened, id := beVal d.1, peerAddr := h.addr, peerPort := h.port.toNat, lastTick := s.now, manifest := [], closing := false, finishSeq := none })
      let b := helloAck s1
      serviceRecord (raiseInt (answer b.2 h 2 (beVal d.1) b.1) 31) 0 0x0001 5)

/-- MANIFEST_PART: bytes of the manifest at an offset, up to 16 KiB in all (R538). -/
def execManifestPart (h : UpdHeader) (off : BitVec 32) (d : Bytes) (s : State) : Res :=
  .next (sessionMsg s h [.opened, .manifest] (fun s1 =>
    if d.length = 0 ∨ 1024 < d.length ∨ 16384 < off.toNat + d.length then answerStatus s1 h eArgs 0
    else answerStatus (modSession s1 (fun y => { y with st := .manifest, manifest := patchBytes y.manifest off.toNat d })) h stOk 0))

/-- The checks of Table 18-6 in order: the first failing code with its status. -/
def manifestCheck (v : SvcState) (m : Bytes) (size : Nat) : Option (Nat × Nat) :=
  let n := mfChunks m
  let img := mfImageSize m
  let changed := (List.range n).filter (fun i =>
    v.imageBad || decide (mfChunks v.current ≤ i) || decide (mfChunkDigest m i ≠ mfChunkDigest v.current i))
  let flags := leAt m 8 4
  if leAt m 0 4 ≠ 0x464D5746 ∨ leAt m 6 2 ≠ 1 ∨ size ≠ 384 + 48 * n ∨ m.length ≠ size ∨ 4 ≤ flags ∨
      allZero (slice m 41 7) = false ∨ allZero (slice m 192 64) = false then some (0x0001, eCheck)
  else if leAt m 4 2 ≠ 0x1C32 ∨ (leAt m 32 8 ≠ 0 ∧ leAt m 32 8 ≠ Config.unitId.toNat) then some (0x0002, eCheck)
  else if Config.loaderVersion.toNat < leAt m 28 4 then some (0x0003, eUnsupported)
  else if img % 1024 ≠ 0 ∨ 12582912 < img ∨ n ≠ ceilDiv img 65536 ∨ mfHealth m < 10 ∨ 3600 < mfHealth m then some (0x0004, eArgs)
  else if 1 < mfKeyIndex m ∨ sha384 (slice m 96 96) ≠ Config.fwKeyHash (mfKeyIndex m) ∨
      v.fwKeyRevoked.contains (mfKeyIndex m) ∨ flags.testBit (mfKeyIndex m) then some (0x0005, eSignature)
  else if mfSignatureOk m = false then some (0x0006, eSignature)
  else if 0xFFFF < mfSec m ∨ mfSec m < v.minFwVersion then some (0x0007, eVersion)
  else if v.fw = .trial ∨ v.fw = .restoring ∨ ((v.fw = .writing ∨ v.fw = .written) ∧ sha384 m ≠ sha384 v.pending) then
    some (0x0008, eSequence)
  else if journalCapacity v < changed.length ∨ v.wearStage = 3 then some (0x0009, eStageFull)
  else none

/-- MANIFEST_END: the manifest is checked; an accepted one is stored as PENDING and the session enters TRANSFER
(R538, R543, R544). -/
def execManifestEnd (h : UpdHeader) (size : BitVec 32) (s : State) : Res :=
  .next (sessionMsg s h [.manifest] (fun s1 =>
    let m := s1.svc.session.manifest
    match manifestCheck s1.svc m size.toNat with
    | some (code, st) => answerStatus (serviceRecord s1 0 0x0003 5) h st code
    | none =>
      let s2 := modSession { s1 with svc := { s1.svc with pending := m } } (fun y => { y with st := .transfer })
      answerStatus s2 h stOk 0))

/-- BLOCK: one 1,024-byte block of one of the lowest two chunks not yet written (R539). -/
def execBlock (h : UpdHeader) (chunk : BitVec 16) (blk : BitVec 8) (crc : BitVec 32) (d : Bytes) (s : State) : Res :=
  .next (
    if s.svc.session.st = .transfer ∧ h.addr = s.svc.session.peerAddr ∧ h.port.toNat = s.svc.session.peerPort ∧
        h.session.toNat = s.svc.session.id then
      if svcPortUp s = false then s
      else
        let v := s.svc
        let i := chunk.toNat
        let k := blk.toNat
        let st := chunkState v i
        let r := tblGet {} v.session.rx i
        if ((chunksLeft v).take 2).contains i = false ∨ chunkBlockCount v.pending i ≤ k ∨ d.length ≠ 1024 ∨ crc32c d ≠ crc.toNat then svcDrop s
        else if st = .writing then s
        else if st = .receiving ∧ r.received.testBit k then s
        else
          let r1 : ChunkRx := if st = .receiving then r else {}
          touchSession (modSession s (fun y => { y with
            chunks := tblSet y.chunks i .receiving
            rx := tblSet y.rx i { received := setBit r1.received k, blocks := tblSet r1.blocks k d } }))
    else sessionMsg s h [.transfer] (fun s1 => s1))

/-- CHUNK_QUERY: the state and received blocks of a chunk (R541); a chunk that PENDING does not have is E_ARGS. -/
def execChunkQuery (h : UpdHeader) (chunk : BitVec 16) (s : State) : Res :=
  .next (sessionMsg s h [.opened, .transfer, .done] (fun s1 =>
    let i := chunk.toNat
    if mfChunks s1.svc.pending ≤ i then answerStatus s1 h eArgs 0
    else
      let st := chunkState s1.svc i
      let r := if st = .receiving then (tblGet ({} : ChunkRx) s1.svc.session.rx i).received
        else if st = .writing ∨ st = .written then 2 ^ chunkBlockCount s1.svc.pending i - 1 else 0
      answer s1 h 7 s1.svc.session.id (toBE 2 i ++ toBE 1 (chunkCode st) ++ [0] ++ toBE 8 r)))

/-- FW_STATE becomes WRITTEN, with its record. -/
def becomeWritten (s : State) : State :=
  if s.svc.fw = .written then s else serviceRecord { s with svc := { s.svc with fw := .written } } 0 0x0004 5

/-- FINISH: answered OK once every chunk is WRITTEN; missing chunks give E_ARGS at once (R542). -/
def execFinish (h : UpdHeader) (s : State) : Res :=
  .next (sessionMsg s h [.transfer] (fun s1 =>
    match chunksLeft s1.svc with
    | [] => answerStatus (modSession (becomeWritten s1) (fun y => { y with st := .done })) h stOk 0
    | i :: r =>
      if (i :: r).all (fun c => decide (chunkState s1.svc c = .writing)) then modSession s1 (fun y => { y with finishSeq := some h.seq.toNat })
      else answerStatus s1 h eArgs i))

/-- ACTIVATE: activates a WRITTEN image, and the session closes with reason ACTIVATED (R549, R537). -/
def execActivate (h : UpdHeader) (s : State) : Res :=
  .next (sessionMsg s h [.opened, .done] (fun s1 =>
    if s1.svc.fw = .written then
      let s2 := { s1 with svc := { s1.svc with fw := .trial } }
      let s3 := closeSession (answerStatus s2 h stOk 0) 5
      activateFirmware s3
    else answerStatus s1 h eSequence 0))

/-- SESSION_ABORT: the host's ABORT closes the session; with ROLLBACK it also rolls the update back (R537). -/
def execSessionAbort (h : UpdHeader) (_reason : BitVec 8) (rollback : Bool) (s : State) : Res :=
  .next (sessionMsg s h [.opened, .manifest, .transfer, .done] (fun s1 =>
    let s2 := closeSession s1 1
    if rollback then rollbackFirmware s2 else s2))

/-- SESSION_TIMEOUT: 30 s without an accepted message (R537). -/
def execSessionTimeout (s : State) : Res :=
  .next (if s.svc.session.st = .listen then s
    else closeSession (advanceTo s (s.svc.session.lastTick + secTicks 30)) 2)

/-- Neither enable holds: the session closes with reason DISABLED, after the chunk being written (R534). -/
def enablesChanged (s : State) : State :=
  if svcEnabled s ∨ s.svc.session.st = .listen then s
  else if s.svc.session.chunks.any (fun e => decide (e.2 = .writing)) then modSession s (fun y => { y with closing := true })
  else closeSession s 3

/-- SVC_EN_CHANGE: SVC_EN has settled (R602, R534). -/
def execSvcEnChange (level : Bool) (s : State) : Res := .next (enablesChanged { s with svc := { s.svc with svcEn := level } })

/-- SVC_ENABLE_LAPSE: the host enable lapses at its time (R534). -/
def execSvcEnableLapse (s : State) : Res :=
  .next (match s.svc.hostEnableUntil with
    | none => s
    | some t => let s1 := advanceTo s t; enablesChanged { s1 with svc := { s1.svc with hostEnableUntil := none } })

/-- The data of a chunk whose blocks have all arrived. -/
def rxData (v : SvcState) (i : Nat) : Bytes :=
  let r := tblGet {} v.session.rx i
  (List.range (chunkBlockCount v.pending i)).flatMap (fun k => tblGet [] r.blocks k)

/-- CHUNK_COMPLETE: every block has arrived; the chunk's digest decides between writing and BAD (R540). -/
def execChunkComplete (chunk : BitVec 16) (s : State) : Res :=
  .next (
    let v := s.svc
    let i := chunk.toNat
    let r := tblGet {} v.session.rx i
    if chunkState v i ≠ .receiving ∨ r.received ≠ 2 ^ chunkBlockCount v.pending i - 1 then s
    else if sha384 (rxData v i) ≠ mfChunkDigest v.pending i then
      modSession s (fun y => { y with chunks := tblSet y.chunks i .bad, rx := tblDel y.rx i })
    else
      let s1 := modSession s (fun y => { y with chunks := tblSet y.chunks i .writing })
      if (chunksLeft v).head? = some i then journalCopy s1 i 0 else s1)

/-- CHUNK_WRITTEN: the lowest chunk in WRITING is journalled and written, in ascending index (R541, R545). -/
def execChunkWritten (chunk : BitVec 16) (pulses : Fin 9) (s : State) : Res :=
  .next (
    let v := s.svc
    let i := chunk.toNat
    if chunkState v i ≠ .writing ∨ (chunksLeft v).head? ≠ some i then s
    else
      let s1 := journalWrite (journalCopy s i pulses.val) i (rxData v i) pulses.val
      let s2 := modSession s1 (fun y => { y with chunks := tblDel y.chunks i, rx := tblDel y.rx i })
      let s3 := if chunksLeft s2.svc = [] then becomeWritten s2 else s2
      let s4 := match s3.svc.session.finishSeq with
        | some q =>
          if chunksLeft s3.svc = [] then
            answerStatus (modSession s3 (fun y => { y with st := .done, finishSeq := none }))
              { addr := v.session.peerAddr, port := BitVec.ofNat 16 v.session.peerPort
                session := BitVec.ofNat 32 v.session.id, seq := BitVec.ofNat 32 q } stOk 0
          else s3
        | none => s3
      if s4.svc.session.closing then closeSession s4 3 else s4)

/-! ### Loader (R546 to R551) -/

/-- LOADER_VERIFY: the journal is repaired, and the image that the next Hawk start runs is verified (R546, R547);
a failure of CURRENT holds the processor die (R548), a failure of PENDING in TRIAL falls back (R551). -/
def execLoaderVerify (s : State) : Res :=
  .next (
    if isReady s 0 = false then s
    else
      let s1 := journalRepair s
      let v := s1.svc
      let runPending := decide (v.fw = .trial) && v.trialFirst
      let okLoad (x : State) (p : Bool) : State :=
        setReady { x with power := { x.power with loaderOk := true }, svc := { x.svc with runningPending := p, trialFirst := false } } 1 true
      if runPending ∧ imageVerifies v.pending (pendingChunk v) then okLoad s1 true
      else
        let s2 := if runPending then fallback s1 4 else s1
        if imageVerifies s2.svc.current (currentChunk s2.svc) then okLoad s2 false
        else
          let s3 := serviceRecord s2 3 0x0008 2
          setReady { s3 with svc := { s3.svc with imageBad := true }, power := { s3.power with loaderOk := false, dieOut := false } } 1 false)

/-- The firmware-key revoke fuses that a manifest's FLAGS name are blown (R550, R554). -/
def blowRevokes (s : State) (flags : Nat) (readsBack : Bool) : State :=
  if flags % 4 = 0 then s
  else if readsBack then
    let ks := [0, 1].filter (fun k => flags.testBit k)
    serviceRecord { s with svc := { s.svc with fwKeyRevoked := s.svc.fwKeyRevoked ++ ks } } 0 0x0011 4
  else serviceRecord s 3 0x0012 4

/-- HEALTH_CONFIRM: while READY.MAILBOX is set, TRIAL ends in success, in the order of R550. -/
def execHealthConfirm (readsBack : Bool) (s : State) : Res :=
  .next (
    if s.svc.fw ≠ .trial ∨ isReady s 3 = false then s
    else
      let m := s.svc.pending
      let s1 := { s with svc := { s.svc with current := m, minFwVersion := Nat.max s.svc.minFwVersion (mfSec m) } }
      let s2 := blowRevokes s1 (leAt m 8 4) readsBack
      let s3 := { s2 with svc := { s2.svc with
        journal := [], slots := [], pending := [], fw := .idle, healthBy := none, trialFirst := false, runningPending := false } }
      serviceRecord s3 0 0x0006 2)

/-- HEALTH_TIMEOUT: no confirmation within HEALTH_S: fallback with reason HEALTH (R551). -/
def execHealthTimeout (s : State) : Res :=
  .next (match s.svc.healthBy with
    | none => s
    | some t => fallbackRestart (advanceTo s t) 1)

/-- RESTORE_DONE: the journal has been copied back and the state is IDLE (R551, R552). -/
def execRestoreDone (s : State) : Res :=
  .next (if s.svc.fw = .restoring then { s with svc := journalRestore s.svc } else s)

/-! ### MRAM (R528 to R531) -/

/-- Whether a block lies in the version and key store or in the journal's record blocks, where a second copy exists. -/
def hasTwin (b : Nat) : Bool := (decide (256 ≤ b) && decide (b < 512)) || (decide (6656 ≤ b) && decide (b < 6784))

/-- MRAM_BLOCK_RETIRE: a worn block is retired, or its corrected read is recorded at most once an hour
(R528, R530, R531). -/
def execMramBlockRetire (block : BitVec 14) (byte : BitVec 12) (cause : WearCause) (s : State) : Res :=
  .next (
    let b := block.toNat
    match cause with
    | .corrected n =>
      if 4 < n then retireBlock s b byte.toNat
      else
        let last := tblGet 0 s.svc.correctedAt b
        if n = 0 ∨ (0 < last ∧ s.now < last - 1 + secTicks 3600) then s
        else mramRecord { s with svc := { s.svc with correctedAt := tblSet s.svc.correctedAt b (s.now + 1) } } 1 0x0009 b byte.toNat
    | .writeFailed => retireBlock s b byte.toNat
    | .uncorrectable lost =>
      match lost with
      | none =>
        if hasTwin b then mramRecord (retireBlock s b byte.toNat) 1 0x0009 b byte.toNat
        else
          let s1 := mramRecord { s with svc := { s.svc with unreadable := b :: s.svc.unreadable.filter (fun x => x ≠ b) } } 2 0x000E b byte.toNat
          retireBlock s1 b byte.toNat
      | some it => loseItem (retireBlock (mramRecord s 2 0x000E b byte.toNat) b byte.toNat) it)

/-! ### Random numbers (R560 to R562) -/

/-- A commit waiting for entropy ends or goes on by COMMIT_ENTROPY_READY; TRNG_STARTUP_DONE only decides READY.TRNG:
4,096 samples passed, or a failure, and after three failures the generator is failed (R561, R562). -/
def execTrngStartupDone (passed : Bool) (s : State) : Res :=
  .next (
    if s.svc.running = false ∨ s.svc.trng ≠ .collecting then s
    else if passed then setReady { s with svc := { s.svc with trng := .ready, trngFails := 0 } } 4 true
    else if 2 ≤ s.svc.trngFails then
      serviceRecord { s with svc := { s.svc with trng := .failed, trngFails := s.svc.trngFails + 1 } } 3 0x0010 3
    else { s with svc := { s.svc with trngFails := s.svc.trngFails + 1 } })

/-- TRNG_HEALTH_FAIL: READY.TRNG clears at once, an S1 record is written, and the start-up collection runs again (R561). -/
def execTrngHealthFail (s : State) : Res :=
  .next (
    if s.svc.trng ≠ .ready then s
    else serviceRecord (setReady { s with svc := { s.svc with trng := .collecting, trngFails := 0 } } 4 false) 1 0x000F 3)

/-- DRBG_RESEED: the generator is reseeded; the values it gives stay open (R560). -/
def execDrbgReseed (s : State) : Res :=
  .next (if s.svc.trng = .ready then { s with svc := { s.svc with trngPos := s.svc.trngPos + 1 } } else s)

/-- UART_CHARACTER_RX: a received character is discarded (R535). -/
def execUartCharacterRx (_c : BitVec 8) (s : State) : Res := .next s

/-! ### Mailbox commands (Table 18-9) -/

/-- SVC_ENABLE (Table 18-9). -/
def execSvcEnable (mb : MbId) (en : BitVec 8) (secs : BitVec 32) (s : State) : Res :=
  .next (whenReady s mb.val 0 (fun s =>
    if 1 < en.toNat ∨ secs.toNat < 1 ∨ 86400 < secs.toNat then reply s mb.val eArgs
    else if en.toNat = 1 then
      reply { s with svc := { s.svc with hostEnableUntil := some (s.now + secTicks secs.toNat) } } mb.val stOk
    else reply (enablesChanged { s with svc := { s.svc with hostEnableUntil := none } }) mb.val stOk))

/-- The session state's code, in the order of Table 18-4. -/
def sessCode (x : SessState) : Nat :=
  match x with
  | .listen => 0
  | .opened => 1
  | .manifest => 2
  | .transfer => 3
  | .done => 4

/-- Whole seconds left until a tick. -/
def secondsLeft (s : State) (until_ : Option Nat) : Nat :=
  match until_ with
  | some t => ceilDiv (t - s.now) (secTicks 1)
  | none => 0

/-- SVC_STATUS: the values of Table 18-9 in its order; the port's link state is open. -/
def execSvcStatus (mb : MbId) (s : State) : Res :=
  .next (whenReady s mb.val 0 (fun s =>
    let f := drawFree s
    let x := s.svc.session
    reply f.2 mb.val stOk (toLE 1 (b2n s.svc.svcEn) ++ toLE 4 (secondsLeft s s.svc.hostEnableUntil) ++ toLE 1 (sessCode x.st) ++
      slice x.peerAddr 0 16 ++ toLE 1 f.1.toNat ++ toLE 8 s.svc.drops)))

/-- FW_STATUS: the values of Table 18-9 in its order. -/
def execFwStatus (mb : MbId) (s : State) : Res :=
  .next (whenReady s mb.val 0 (fun s =>
    let v := s.svc
    reply s mb.val stOk (toLE 1 (fwCode v.fw) ++ toLE 4 (mfVersion v.current) ++ toLE 4 (mfSec v.current) ++ toLE 4 (mfVersion v.pending) ++
      toLE 2 v.minFwVersion ++ toLE 2 (mfChunks v.pending - (chunksLeft v).length) ++ toLE 2 (mfChunks v.pending) ++
      toLE 1 (journalCapacity v) ++ toLE 2 (secondsLeft s v.healthBy) ++ toLE 1 v.fallbackReason ++ toLE 1 v.wearStage ++ toLE 2 v.sparesLeft)))

/-- FW_ACTIVATE (R549). -/
def execFwActivate (mb : MbId) (s : State) : Res :=
  .next (whenReady s mb.val 0 (fun s =>
    if s.svc.fw = .written then activateFirmware (reply s mb.val stOk) else reply s mb.val eSequence))

/-- FW_ROLLBACK (R552). -/
def execFwRollback (mb : MbId) (s : State) : Res :=
  .next (whenReady s mb.val 0 (fun s =>
    if s.svc.fw = .idle then reply s mb.val eSequence
    else if s.svc.fw = .restoring then reply s mb.val eBusy
    else
      let s1 := reply s mb.val stOk
      let s2 := if s.svc.session.st = .transfer ∨ s.svc.session.st = .done then closeSession s1 4 else s1
      rollbackFirmware s2))

/-- A violation (R456): WRITE_VIOLATION, its count and INT_STATUS bit 27; a BAR0 write also records its offset. -/
def violation (s : State) (off : Option Nat) : State :=
  let s1 := { s with
    kept := { s.kept with writeViolation := true }
    host := { s.host with
      violationCount := (s.host.violationCount + 1) % 2 ^ 64
      violationOffset := (match off with | some o => o | none => s.host.violationOffset) } }
  raiseInt s1 27

/-- KEY_SLOT_WRITE (R555). -/
def execKeySlotWrite (mb : MbId) (slot : BitVec 8) (key : Bytes) (s : State) : Res :=
  .next (whenReady s mb.val 0 (fun s =>
    if 3 < slot.toNat ∨ key.length ≠ 96 ∨ p384KeyValid key = false then reply s mb.val eArgs
    else
      match tblGet KeySlot.empty s.svc.keySlots slot.toNat with
      | .empty =>
        serviceRecord (reply { s with svc := { s.svc with keySlots := tblSet s.svc.keySlots slot.toNat (.written key) } } mb.val stOk) 0 0x0013 1
      | .written _ => reply (violation s none) mb.val eLocked
      | .revoked => reply (violation s none) mb.val eLocked))

/-- Written slots not revoked. -/
def liveSlots (v : SvcState) : List Nat :=
  (List.range 4).filter (fun i => match tblGet KeySlot.empty v.keySlots i with | .written _ => true | .empty => false | .revoked => false)

/-- KEY_SLOT_REVOKE (R555, R556). -/
def execKeySlotRevoke (mb : MbId) (slot : BitVec 8) (s : State) : Res :=
  .next (whenReady s mb.val 0 (fun s =>
    if 3 < slot.toNat then reply s mb.val eArgs
    else
      match tblGet KeySlot.empty s.svc.keySlots slot.toNat with
      | .empty => reply s mb.val eNotFound
      | .revoked => reply s mb.val eLocked
      | .written _ =>
        if s.svc.planSigFuse ∧ liveSlots s.svc = [slot.toNat] then reply s mb.val eSequence
        else
          let s1 := { s with svc := { s.svc with keySlots := tblSet s.svc.keySlots slot.toNat .revoked } }
          serviceRecord (planStagingToLoaded (reply s1 mb.val stOk)) 0 0x0014 1))

/-- One slot of KEY_STATUS: 0 EMPTY, 1 WRITTEN, 2 REVOKED, with the SHA-384 of a written key. -/
def slotStatus (k : KeySlot) : Bytes :=
  match k with
  | .empty => 0 :: zeros 48
  | .written key => 1 :: sha384 key
  | .revoked => 2 :: zeros 48

/-- KEY_STATUS: the values of Table 18-9 in its order. -/
def execKeyStatus (mb : MbId) (s : State) : Res :=
  .next (whenReady s mb.val 0 (fun s =>
    let v := s.svc
    reply s mb.val stOk ((List.range 4).flatMap (fun i => slotStatus (tblGet KeySlot.empty v.keySlots i)) ++
      toLE 1 (b2n v.planSigFuse) ++ toLE 1 (b2n (v.fwKeyRevoked.contains 0) + 2 * b2n (v.fwKeyRevoked.contains 1)) ++
      toLE 1 (b2n (tblFind v.keks 0).isSome + 2 * b2n (tblFind v.keks 1).isSome))))

/-- KEK_INSTALL (R558): each KIND is set once per power-up of the service die. -/
def execKekInstall (mb : MbId) (kind : BitVec 8) (key : Bytes) (s : State) : Res :=
  .next (whenReady s mb.val 0 (fun s =>
    if 1 < kind.toNat ∨ key.length ≠ 32 then reply s mb.val eArgs
    else
      match tblFind s.svc.keks kind.toNat with
      | some _ => reply (violation s none) mb.val eLocked
      | none => reply { s with svc := { s.svc with keks := tblSet s.svc.keks kind.toNat key } } mb.val stOk))

/-- FUSE_PLAN_SIGNED (R557): the checks in the order of the rule; a fuse that does not read back gives E_CHECK (R554). -/
def execFusePlanSigned (mb : MbId) (confirm : BitVec 32) (readsBack : Bool) (s : State) : Res :=
  .next (whenReady s mb.val 0 (fun s =>
    if confirm.toNat ≠ 0x1C32 then reply s mb.val eArgs
    else if liveSlots s.svc = [] then reply s mb.val eSequence
    else if s.svc.planSigFuse then reply (violation s none) mb.val eLocked
    else if readsBack then
      serviceRecord (planStagingToLoaded (reply { s with svc := { s.svc with planSigFuse := true } } mb.val stOk)) 0 0x0011 4
    else serviceRecord (reply s mb.val eCheck) 3 0x0012 4))

/-- TRNG_READ: COUNT bytes from the DRBG, while READY.TRNG is set (R562). -/
def execTrngRead (mb : MbId) (count : BitVec 16) (s : State) : Res :=
  .next (whenReady s mb.val 4 (fun s =>
    if count.toNat < 1 ∨ 256 < count.toNat then reply s mb.val eArgs
    else let d := drawTrng s count.toNat; reply d.2 mb.val stOk d.1))

end Sys2Proof.Machine
end

