-- ==== Sys2Proof/Machine/HostRegs.lean ====
section
/-!
DEFINITION. BAR0 as the host reads and writes it: lockdown, interrupts, ring control, mailbox areas and doorbells, and
the commands of the host interface that need nothing of the data path (R436 to R466).
-/

namespace Sys2Proof.Machine

/-! ### Doorbells and results (R444 to R448) -/

/-- The 256 bytes of a mailbox's command area. -/
def mbArea (m : Mailbox) : Bytes := slice m.area 0 256

/-- What Table 15-9's owners say of a command's layout: the argument length where its bytes are given, and whether it
takes an indirect payload or an indirect buffer. -/
structure OpcodeSpec where
  argLen : Option Nat := none
  indIn : Bool := false
  indOut : Bool := false
  deriving DecidableEq, Repr

/-- The mailbox opcodes (Table 15-9). -/
def opcodes : List (Nat × OpcodeSpec) :=
  let none_ (l : List Nat) : List (Nat × OpcodeSpec) := l.map (fun o => (o, { argLen := some 0 }))
  let any_ (l : List Nat) : List (Nat × OpcodeSpec) := l.map (fun o => (o, {}))
  let len_ (l : List (Nat × Nat)) : List (Nat × OpcodeSpec) := l.map (fun o => (o.1, { argLen := some o.2 }))
  [none_ [0x0101, 0x0103, 0x0203, 0x0204, 0x0206, 0x0207, 0x0420, 0x0424, 0x0502, 0x0602, 0x0603, 0x0801, 0x0A02, 0x0A03, 0x0A04, 0x0A05, 0x0A12],
   len_ [(0x0102, 8), (0x0104, 2), (0x0201, 4), (0x0205, 32), (0x0410, 80), (0x0421, 12), (0x0422, 10), (0x0423, 4), (0x0504, 8),
     (0x0604, 8), (0x0605, 4), (0x0606, 11), (0x0A01, 5), (0x0A10, 97), (0x0A11, 1), (0x0A13, 33), (0x0A14, 4), (0x0A15, 2)],
   len_ ((List.range 8).map (fun k => (0x0301 + k, 64))),
   any_ [0x0105, 0x0401, 0x0402, 0x0403, 0x0404, 0x0411, 0x0412, 0x0413, 0x0425, 0x0430, 0x0431, 0x0432, 0x0701, 0x0702, 0x0703, 0x0803,
     0x0901, 0x0902, 0x0903, 0x0A20, 0x0A21, 0x0A22],
   [(0x0202, { argLen := some 8, indIn := true }), (0x0811, { indIn := true }), (0x0802, { indOut := true }), (0x0810, { indOut := true }),
    (0x0501, { argLen := some 12, indOut := true }), (0x0503, { argLen := some 13, indOut := true }), (0x0601, { indOut := true })]].flatten
/-- The layout of an opcode of Table 15-9. -/
def opcodeSpec (op : Nat) : Option OpcodeSpec := (opcodes.find? (fun e => e.1 == op)).map (·.2)

/-- ARG_LEN differs from the command's argument length; a command of any length takes up to 224 (Table 15-6). -/
def argLenWrong (spec : Option Nat) (len : Nat) : Bool :=
  match spec with
  | some l => decide (len ≠ l)
  | none => decide (224 < len)

/-- Hawk's checks 1 to 4 of R448 on a copied command: the first failing status. Check 5 and the owner's checks are part
of the command's own meaning. -/
def hawkCheck (s : State) (n v : Nat) (c : Bytes) : Option Nat :=
  let op := leAt c 0 2
  let flags := leAt c 6 2
  let rights := (tblFind s.kept.mbRights n).getD 0x7FE
  if leAt c 2 2 ≠ v then some eSequence
  else if op / 256 > 10 ∨ rights.testBit (op / 256) = false then some eRights
  else
    match opcodeSpec op with
    | none => some eUnsupported
    | some o =>
      if argLenWrong o.argLen (leAt c 4 2) = true ∨ 4 ≤ flags ∨
          allZero (slice c 20 12) = false ∨ (flags.testBit 0 ≠ o.indIn) ∨ (flags.testBit 1 ∧ o.indOut = false) then some eArgs
      else none

/-- A held or new doorbell is accepted: RUN sets and Hawk's checks run (R446, R448). -/
def acceptCommand (s : State) (n : Nat) : State :=
  let m := getMb s n
  let s1 := modMb s n (fun x => { x with run := true, queued := false, reply := none, wait := none })
  match hawkCheck s n m.runSeq m.copied with
  | some st => reply s1 n st
  | none => s1

/-- A write of `v` to MB_DOORBELL: the first case of R447 that applies. -/
def doorbell (s : State) (n v : Nat) : State :=
  let s0 := modMb (hostCount s 0x00 1) n (fun x => { x with doorbell := v })
  let m := getMb s n
  if m.run ∨ m.queued then
    if v = m.runSeq then hostCount s0 0x18 1
    else hostCount (modMb s0 n (fun x => { x with overrun := true })) 0x20 1
  else if m.resDone ∧ v = m.resSeq then hostCount (raiseInt s0 n) 0x10 1
  else if isReady s 3 then acceptCommand (modMb s0 n (fun x => { x with copied := mbArea m, runSeq := v })) n
  else modMb s0 n (fun x => { x with copied := mbArea m, runSeq := v, queued := true })

/-- MB_DOORBELL. -/
def execMbDoorbell (mb : MbId) (v : BitVec 16) (s : State) : Res := .next (doorbell s mb.val v.toNat)

/-- The 512 bytes of a mailbox's result area (Table 15-8). -/
def resultBytes (m : Mailbox) : Bytes :=
  toLE 2 m.res.status ++ toLE 2 m.resSeq ++ toLE 1 (b2n m.resDone + 4 * m.readCount) ++ [0] ++ toLE 2 (Nat.min 496 m.res.data.length) ++
    toLE 4 m.res.cursor ++ toLE 4 m.res.indDone ++ slice m.res.data 0 496

/-- RESULT_READ: a host read of the result area; one that includes byte 4 of a DONE result raises READ_COUNT first,
saturating at 3 (R445). -/
def execResultRead (mb : MbId) (off : BitVec 9) (len : BitVec 4) (s : State) : Res :=
  .next (
    let m := getMb s mb.val
    let o := off.toNat
    let n := len.toNat
    let hit := decide (o ≤ 4) && decide (4 < o + n) && m.resDone
    let s1 := if hit then modMb s mb.val (fun x => { x with readCount := satTo 3 (x.readCount + 1) }) else s
    { s1 with host := { s1.host with readData := slice (resultBytes (getMb s1 mb.val)) o n } })

/-- A reply becomes the visible result: STATE DONE, READ_COUNT 0, MB_DONE, RUN clear (R444, R446). -/
def publish (s : State) (n : Nat) (r : Reply) : State :=
  let s1 := modMb s n (fun x => { x with
    reply := none, wait := none, run := false, resSeq := x.runSeq, resDone := true, readCount := 0, res := r })
  let s2 := hostCount s1 0x08 1
  let s3 := if r.status = ePartial then hostCount s2 0x28 1 else s2
  raiseInt s3 n

/-- MAILBOX_RESULT: a completed command's result becomes visible; a READY_WAIT whose time is up completes with
E_TIMEOUT (R444, Table 15-10). -/
def execMailboxResult (mb : MbId) (s : State) : Res :=
  .next (
    let m := getMb s mb.val
    match m.reply with
    | some r => publish s mb.val r
    | none =>
      match m.wait with
      | some (_, t) =>
        let s1 := advanceTo s t
        publish s1 mb.val { status := eTimeout, data := toLE 4 s1.ready }
      | none => s)

/-! ### Lockdown and interrupts (R443, R454, R455) -/

/-- A write to HOST_LOCKDOWN: the first one after power-up sets it, whatever its value; later ones are violations. -/
def lockdownWrite (s : State) (v : Bool) : State :=
  if s.kept.lockdownWritten then violation s (some 0x0400)
  else { s with kept := { s.kept with lockdownWritten := true, lockdown := v } }

/-- HOST_LOCKDOWN. -/
def execHostLockdown (v : BitVec 1) (s : State) : Res := .next (lockdownWrite s (v.toNat = 1))

/-- INT_STATUS_CLEAR: each 1 written clears its cause (R8, R443). -/
def execIntStatusClear (mask : BitVec 64) (s : State) : Res :=
  .next { s with host := { s.host with intStatus := clearMask s.host.intStatus mask.toNat } }

/-- INT_ENABLE takes a value; a vector whose cause is set is signalled once when its enable newly sets (R443). -/
def intEnableSet (s : State) (v : Nat) : State :=
  let fresh := clearMask v s.host.intEnable &&& s.host.intStatus
  (List.range 64).foldl (fun x n => if fresh.testBit n then signalVector x n else x) { s with host := { s.host with intEnable := v } }

/-- INT_ENABLE_WRITE. -/
def execIntEnableWrite (v : BitVec 64) (s : State) : Res := .next (intEnableSet s v.toNat)

/-- A write to the MSI-X table; unmasking a vector whose pending bit is set signals it (PCI Express, R443). -/
def msixWrite (s : State) (word v : Nat) : State :=
  let s1 := { s with host := { s.host with msix := tblSet s.host.msix word v } }
  let n := word / 4
  if word % 4 = 3 ∧ v.testBit 0 = false ∧ s.host.pba.testBit n ∧ isReady s 22 then
    signalVector { s1 with host := { s1.host with pba := clearBit s1.host.pba n } } n
  else s1

/-! ### Host rings (R457, R461) -/

/-- Control registers of a receive or transmit ring. -/
def getRing (s : State) (tx : Bool) (r : Nat) : RingCtl := tblGet {} (if tx then s.host.tx else s.host.rx) r

/-- A ring's control registers changed. -/
def modRing (s : State) (tx : Bool) (r : Nat) (f : RingCtl → RingCtl) : State :=
  if tx then { s with host := { s.host with tx := tblMod {} s.host.tx r f } }
  else { s with host := { s.host with rx := tblMod {} s.host.rx r f } }

/-- Setting ENABLE with LOG2_ENTRIES in range starts a stopped ring with both indices 0 (R457). -/
def ringStart (c : RingCtl) (log2 units : Nat) : RingCtl :=
  if c.enabled then c
  else
    let c1 := { c with log2 := log2, slotUnits := units }
    if 6 ≤ log2 ∧ log2 ≤ 16 then { c1 with enabled := true, head := 0, tail := 0, dropsBefore := 0 } else c1

/-- A write of the control word at ring offset 0x08 (Table 15-12). -/
def ringControl (c : RingCtl) (log2 units : Nat) (enable : Bool) : RingCtl :=
  if enable then ringStart c log2 units
  else if c.enabled then { c with enabled := false } else { c with log2 := log2, slotUnits := units }

/-- RING_ENABLE. -/
def execRingEnable (tx : Bool) (r : Fin 8) (log2 : BitVec 5) (units : BitVec 8) (s : State) : Res :=
  .next (modRing s tx r.val (fun c => ringControl c log2.toNat units.toNat true))

/-- A transmit descriptor that waits is dropped with its ring, and its buffer is released (R457). -/
def dropTxPending (s : State) (r : Nat) : State :=
  match tblFind s.host.txPending r with
  | none => s
  | some x =>
    let s1 := { s with host := { s.host with txPending := tblDel s.host.txPending r } }
    match x.handle with
    | some h => unitRelease s1 h 31 0
    | none => s1

/-- RING_DISABLE: the ring stops at an entry boundary (R457). -/
def execRingDisable (tx : Bool) (r : Fin 8) (s : State) : Res :=
  .next (modRing (if tx then dropTxPending s r.val else s) tx r.val (fun c => { c with enabled := false }))

/-- TX_RING_HEAD_WRITE: the host's producer index of a transmit ring (Table 15-12). -/
def execTxRingHeadWrite (r : Fin 8) (head : BitVec 32) (s : State) : Res :=
  .next (modRing s true r.val (fun c => { c with head := head.toNat }))

/-- ERR_RING_ENABLE: starts or stops error-record delivery (R461). -/
def execErrRingEnable (en : Bool) (log2 : BitVec 5) (s : State) : Res :=
  .next { s with host := { s.host with err := ringControl s.host.err log2.toNat 0 en } }

/-- Entries of a ring. -/
def ringEntries (c : RingCtl) : Nat := 2 ^ c.log2

/-- A ring is full when (HEAD + 1) mod N equals TAIL (R457). -/
def ringFull (c : RingCtl) : Bool := decide ((c.head + 1) % ringEntries c = c.tail % ringEntries c)

/-- The device writes bytes to host memory as posted writes (R437). -/
def hostWrite (s : State) (a : Nat) (d : Bytes) : State := { s with host := { s.host with mem := memWrite s.host.mem a d } }

/-- The device's index goes to MIRROR when that is non-zero (R457). -/
def mirrorIndex (s : State) (c : RingCtl) (idx : Nat) : State := if c.mirror = 0 then s else hostWrite s c.mirror (toLE 4 idx)

/-- The oldest record held on the on-die ring, and the ring without it; a summary leaves closed (R492). -/
def ringTake (f : FaultState) : Option (ErrRecord × FaultState) :=
  match f.ring with
  | r :: rest => some (r, { f with ring := rest })
  | [] => match f.summary with
    | some m => some (summaryRecord m, { f with summary := none })
    | none => none

/-- ERROR_RECORD_DELIVER: one record moves from the on-die ring to the host ring (R461). -/
def execErrorRecordDeliver (s : State) : Res :=
  .next (
    let c := s.host.err
    if c.enabled = false ∨ isReady s 22 = false ∨ ringFull c then s
    else
      match ringTake s.fault with
      | none => s
      | some (r, f) =>
        let s1 := hostWrite { s with fault := f } (c.base + 32 * (c.head % ringEntries c)) (recordBytes r)
        let h := (c.head + 1) % ringEntries c
        let s2 := mirrorIndex { s1 with host := { s1.host with err := { c with head := h } } } c h
        raiseInt (hostCount s2 0x50 1) 24)

/-! ### BAR0 (Table 15-3) -/

/-- The written bits of a 64-bit register: `v` where `m` is set, the old value elsewhere. -/
def mergeBits (old v m : Nat) : Nat := clearMask old m + (v &&& m)

/-- A write to an RWL field: a violation once HOST_LOCKDOWN is set (R455, R456). -/
def rwlWrite (s : State) (off : Nat) (f : HostKept → HostKept) : State :=
  if s.kept.lockdown then violation s (some off) else { s with kept := f s.kept }

/-- A write to a ring's control block at 8-byte offset `o`; a receive ring's TAIL and a transmit ring's HEAD are the host's. -/
def ringRegWrite (c : RingCtl) (tx : Bool) (o v m : Nat) : RingCtl :=
  match o with
  | 0x00 => if c.enabled then c else { c with base := mergeBits c.base v m / 4096 * 4096 }
  | 0x08 =>
    let w := mergeBits (c.log2 + 256 * c.slotUnits + 65536 * b2n c.enabled) v m
    ringControl c (bits w 4 0) (bits w 15 8) (w.testBit 16)
  | 0x10 => if tx then { c with head := mergeBits c.head v m % 2 ^ 32 } else c
  | 0x18 => if tx then c else { c with tail := mergeBits c.tail v m % 2 ^ 32 }
  | 0x20 => { c with mirror := mergeBits c.mirror v m / 4 * 4 }
  | _ => c

/-- A write of the bits `m` of `v` to the BAR0 register word at the 8-aligned offset `a`. -/
def bar0WriteWord (s : State) (a v m : Nat) : State :=
  let w := v &&& m
  if a = 0x0118 then { s with host := { s.host with readyChanged := clearMask s.host.readyChanged (w % 2 ^ 32) } }
  else if a = 0x0200 then { s with host := { s.host with intStatus := clearMask s.host.intStatus w } }
  else if a = 0x0208 then intEnableSet s (mergeBits s.host.intEnable v m)
  else if a = 0x0400 then (if m % 2 = 1 then lockdownWrite s (w.testBit 0) else s)
  else if a = 0x0408 then (if w.testBit 0 then { s with kept := { s.kept with writeViolation := false } } else s)
  else if a = 0x0420 then (if w.testBit 0 then { s with host := { s.host with winFault := false } } else s)
  else if 0x0440 ≤ a ∧ a < 0x0480 then
    let i := (a - 0x0440) / 8
    rwlWrite s a (fun k => { k with mbRights := (tblSet k.mbRights i (mergeBits ((tblFind k.mbRights i).getD 0x7FE) v m &&& 0x7FE)) })
  else if 0x0500 ≤ a ∧ a < 0x0600 then
    let i := (a - 0x0500) / 16
    if a % 16 = 0 then
      rwlWrite s a (fun k => { k with windows := (tblSet k.windows i (mergeBits (tblGet 0 k.windows i) v m &&& 0xFFFFFFC00003)) })
    else s
  else if a = 0x0600 then rwlWrite s a (fun k => { k with hostWin := mergeBits k.hostWin v m &&& 0xFFFFFFFFFFFFF001 })
  else if 0x0700 ≤ a ∧ a < 0x0728 then { s with host := { s.host with err := ringRegWrite s.host.err false (a - 0x0700) v m } }
  else if 0x0800 ≤ a ∧ a < 0x0A00 then modRing s false ((a - 0x0800) / 0x40) (fun c => ringRegWrite c false (a % 0x40) v m)
  else if 0x0A00 ≤ a ∧ a < 0x0C00 then modRing s true ((a - 0x0A00) / 0x40) (fun c => ringRegWrite c true (a % 0x40) v m)
  else if 0x1000 ≤ a ∧ a < 0x3000 then
    let n := (a - 0x1000) / 0x400
    let o := (a - 0x1000) % 0x400
    if o = 0x300 then (if m % 65536 = 0 then s else doorbell s n (w % 65536))
    else if o = 0x308 then (if w.testBit 2 then modMb s n (fun x => { x with overrun := false }) else s)
    else s
  else if 0x3000 ≤ a ∧ a < 0x3400 then
    let k := (a - 0x3000) / 4
    let lo := if m % 2 ^ 32 = 0 then s else msixWrite s k (v % 2 ^ 32)
    if m / 2 ^ 32 = 0 then lo else msixWrite lo (k + 1) (v / 2 ^ 32)
  else s

/-- A host write to BAR0 (R439): command areas take any size, result areas ignore writes, registers take aligned 4- and
8-byte writes, and any other register write is counted in BAR0_BAD_ACCESS. -/
def bar0Write (s : State) (off : Nat) (d : Bytes) : State :=
  let o := (off - 0x1000) % 0x400
  if 0x1000 ≤ off ∧ off < 0x3000 ∧ o < 0x100 then
    modMb s ((off - 0x1000) / 0x400) (fun x => { x with area := slice (patchBytes (mbArea x) o d) 0 256 })
  else if 0x1000 ≤ off ∧ off < 0x3000 ∧ o < 0x300 then s
  else if d.length = 8 ∧ off % 8 = 0 then bar0WriteWord s off (leVal d) (2 ^ 64 - 1)
  else if d.length = 4 ∧ off % 4 = 0 then
    if off % 8 = 0 then bar0WriteWord s off (leVal d) (2 ^ 32 - 1)
    else bar0WriteWord s (off - 4) (leVal d * 2 ^ 32) ((2 ^ 32 - 1) * 2 ^ 32)
  else hostCount s 0x48 1

/-- REGISTER_WRITE. -/
def execRegisterWrite (off : BitVec 16) (d : Bytes) (s : State) : Res := .next (bar0Write s off.toNat d)

/-- The registers of a ring as the host reads them. -/
def ringRegRead (c : RingCtl) (o : Nat) : Nat :=
  match o with
  | 0x00 => c.base
  | 0x08 => c.log2 + 256 * c.slotUnits + 65536 * b2n c.enabled
  | 0x10 => c.head
  | 0x18 => c.tail
  | 0x20 => c.mirror
  | _ => 0

/-- The 64-bit word of BAR0 at an 8-aligned offset; result areas are read by RESULT_READ. Unmapped offsets read 0. -/
def bar0Word (s : State) (a : Nat) : Nat :=
  if a = 0x0000 then 0x1C32 + 0xB0A1 * 2 ^ 16 + runningVersion s.svc * 2 ^ 32
  else if a = 0x0008 then Config.loaderVersion.toNat + (s.svc.devId + 8 * 256 + s.svc.minFwVersion * 2 ^ 16) * 2 ^ 32
  else if a = 0x0010 then Config.unitId.toNat
  else if a = 0x0018 then s.host.hawkState + s.host.hawkRestarts * 2 ^ 16
  else if a = 0x0020 then epochInForce s
  else if a = 0x0100 then s.ready
  else if a = 0x0108 then s.host.clusterReady
  else if a = 0x0110 then s.laneReady
  else if a = 0x0118 then s.host.readyChanged
  else if a = 0x0200 then s.host.intStatus
  else if a = 0x0208 then s.host.intEnable
  else if a = 0x0400 then b2n s.kept.lockdown
  else if a = 0x0408 then b2n s.kept.writeViolation
  else if a = 0x0410 then s.host.violationCount
  else if a = 0x0418 then s.host.violationOffset
  else if a = 0x0420 then b2n s.host.winFault + s.host.winFaultStatus * 2 ^ 16
  else if a = 0x0428 then s.host.winFaultAddr
  else if a = 0x0430 then s.host.winFaults
  else if 0x0440 ≤ a ∧ a < 0x0480 then (tblFind s.kept.mbRights ((a - 0x0440) / 8)).getD 0x7FE
  else if 0x0500 ≤ a ∧ a < 0x0600 then (if a % 16 = 0 then tblGet 0 s.kept.windows ((a - 0x0500) / 16) else 0)
  else if a = 0x0600 then s.kept.hostWin
  else if a = 0x0728 then ringHeld s.fault
  else if 0x0700 ≤ a ∧ a < 0x0728 then ringRegRead s.host.err (a - 0x0700)
  else if 0x0800 ≤ a ∧ a < 0x0A00 then ringRegRead (getRing s false ((a - 0x0800) / 0x40)) (a % 0x40)
  else if 0x0A00 ≤ a ∧ a < 0x0C00 then ringRegRead (getRing s true ((a - 0x0A00) / 0x40)) (a % 0x40)
  else if 0x1000 ≤ a ∧ a < 0x3000 then
    let m := getMb s ((a - 0x1000) / 0x400)
    let o := (a - 0x1000) % 0x400
    if o < 0x100 then leAt (mbArea m) o 8
    else if o = 0x300 then m.doorbell
    else if o = 0x308 then b2n m.run + 2 * b2n m.queued + 4 * b2n m.overrun + m.runSeq * 2 ^ 16
    else 0
  else if 0x3000 ≤ a ∧ a < 0x3400 then
    let k := (a - 0x3000) / 4
    let d (i : Nat) : Nat := if i % 4 = 3 then 1 else 0
    (tblFind s.host.msix k).getD (d k) + (tblFind s.host.msix (k + 1)).getD (d (k + 1)) * 2 ^ 32
  else if a = 0x3800 then s.host.pba
  else 0

/-! ### PCIe link and configuration space (R436, R438) -/

/-- PCIE_HOT_RESET: configuration space resets, every ring and the error ring stop with their indices 0, and
READY.PCIE_DMA clears (R438). -/
def execPcieHotReset (s : State) : Res :=
  .next (
    let stop (c : RingCtl) : RingCtl := { c with enabled := false, head := 0, tail := 0, dropsBefore := 0 }
    let s1 := (List.range 8).foldl dropTxPending s
    refreshDma { s1 with host := { s1.host with
      busMaster := false, linkUp := false
      rx := s1.host.rx.map (fun e => (e.1, stop e.2))
      tx := s1.host.tx.map (fun e => (e.1, stop e.2))
      err := stop s1.host.err } })

/-- PCIE_LINK_UP: the link has trained; the endpoint answers from step 10 of Table 19-6 on. -/
def execPcieLinkUp (s : State) : Res :=
  .next (if s.power.endpointUp then refreshDma { s with host := { s.host with linkUp := true } } else s)

/-- CONFIGURATION_SPACE_WRITE: sets or clears Bus Master Enable (R436). -/
def execConfigurationSpaceWrite (bm : Bool) (s : State) : Res :=
  .next (if s.host.linkUp then refreshDma { s with host := { s.host with busMaster := bm } } else s)

/-! ### Device commands (Table 15-10) -/

/-- DEVICE_INFO: BAR0 bytes 0x0000 to 0x0027, then READY, CLUSTER_READY and LANE_READY. -/
def execDeviceInfo (mb : MbId) (s : State) : Res :=
  .next (reply s mb.val stOk ([0x00, 0x08, 0x10, 0x18, 0x20, 0x0100, 0x0108, 0x0110].flatMap (fun a => toLE 8 (bar0Word s a))))

/-- READY_WAIT: completes when every MASK bit is set, or at TIMEOUT_US. -/
def execReadyWait (mb : MbId) (mask us : BitVec 32) (s : State) : Res :=
  .next (
    let m := mask.toNat
    if m.testBit 2 ∨ m.testBit 3 ∨ 2 ^ 25 ≤ m ∨ us.toNat < 1 ∨ 10000000 < us.toNat then reply s mb.val eArgs
    else if m &&& s.ready = m then reply s mb.val stOk (toLE 4 s.ready)
    else modMb s mb.val (fun x => { x with wait := some (m, s.now + usTicks us.toNat) }))

/-- ECHO: RESULT equals ARGS. -/
def execEcho (mb : MbId) (args : Bytes) (s : State) : Res :=
  .next (if 224 < args.length then reply s mb.val eArgs else reply s mb.val stOk args)

/-- `n` records taken from the on-die ring, oldest first. -/
def ringTakeN : Nat → FaultState → List ErrRecord × FaultState
  | 0, f => ([], f)
  | n + 1, f =>
    match ringTake f with
    | none => ([], f)
    | some (r, g) => let p := ringTakeN n g; (r :: p.1, p.2)

/-- ERROR_RING_READ (R462): up to MAX records, oldest first, then OVERFLOW; CONSUME removes them. -/
def execErrorRingRead (mb : MbId) (max : BitVec 16) (consume : Bool) (ind : Option (BitVec 64)) (s : State) : Res :=
  .next (
    let n := max.toNat
    if n < 1 ∨ 64 < n ∨ (consume ∧ (s.host.err.enabled ∨ ind.isSome)) then reply s mb.val eArgs
    else
      let k := if ind.isSome then n else Nat.min 15 n
      let p := ringTakeN k s.fault
      let s1 := if consume then { s with fault := p.2 } else s
      replyBulk s1 mb.val ind (p.1.flatMap recordBytes ++ toLE 8 s.fault.overflow))

/-! ### Hawk (R463 to R465, step 11 of Table 19-6) -/

/-- HAWK_RESTART: completes with OK and then starts the restart, after an armed epoch instant (R463). -/
def execHawkRestart (mb : MbId) (s : State) : Res := .next (hawkRestartDue (reply s mb.val stOk) false)

/-- READY.HAWK and READY.MAILBOX set; a trial's health window runs from here (R551). -/
def hawkRunning (s : State) : State :=
  let s1 := setReady (setReady { s with host := { s.host with hawkState := 1 } } 2 true) 3 true
  if s1.svc.fw = .trial ∧ s1.svc.runningPending ∧ s1.svc.healthBy = none then
    { s1 with svc := { s1.svc with healthBy := some (s1.now + secTicks (mfHealth s1.svc.pending)) } }
  else s1

/-- Held doorbells are accepted in ascending mailbox order (R464). -/
def acceptHeld (s : State) : State := (List.range 8).foldl (fun x n => if (getMb x n).queued then acceptCommand x n else x) s

/-- HAWK_START: after the loader's verification Hawk starts (R547, step 11). -/
def execHawkStart (s : State) : Res :=
  .next (if s.power.dieOut ∧ s.power.loaderOk ∧ s.host.hawkState = 0 then acceptHeld (hawkRunning s) else s)

/-- HAWK sets on every thread of every SERVICE pool (R464). -/
def hawkEvent (s : State) : State :=
  ((s.plan.now.sec 0x0F).kind 0x0F 1).zipIdx.foldl (fun x e =>
    if (byteAt e.1.2 2).testBit 0 then (poolTids s.plan.now e.2).foldl (fun y t => setFlag y t 15) x else x) s

end Sys2Proof.Machine
end

