-- ==== Sys2Proof/Machine/Windows.lean ====
section
/-!
DEFINITION. How BAR2 requests and the memory commands end (R442, R620).
-/

namespace Sys2Proof.Machine

/-- A BAR2 request is rejected or fails (R442). -/
def winFault (s : State) (st byte : Nat) : State :=
  let s1 := if s.host.winFault then s else { s with host := { s.host with winFault := true, winFaultStatus := st, winFaultAddr := byte } }
  raiseInt { s1 with host := { s1.host with winFaults := s1.host.winFaults + 1 } } 26

/-- A BAR2 read of `n` bytes completes: its data, or all ones when it failed at a byte. -/
def bar2Answer (s : State) (st byte n : Nat) (data : Bytes) : State :=
  if st = stOk then { s with host := { s.host with readData := slice data 0 n } }
  else
    let s1 := winFault s st byte
    { s1 with host := { s1.host with readData := List.replicate n 0xFF } }

/-- MEM_READ ends: the data before the first failing byte is delivered (R620). -/
def memReadDone (s : State) (mb : Nat) (ind : Option Nat) (st byte : Nat) (data : Bytes) : State :=
  if st = stOk then replyBulk s mb (ind.map (BitVec.ofNat 64)) data
  else
    match ind with
    | none => reply s mb st (toLE 8 byte)
    | some a =>
      if isReady s 22 then
        replyWith (hostCount { s with host := { s.host with mem := memWrite s.host.mem a data } } 0x30 data.length) mb
          { status := st, data := toLE 8 byte, indDone := data.length }
      else replyWith s mb { status := eTimeout, data := toLE 8 byte }

/-- Checks 3 to 5 of R440 on a range: the status and the first forbidden byte. -/
def rangeCheck (s : State) (a n : Nat) (write : Bool) : Option (Nat × Nat) :=
  match mapCheck a n write with
  | some e => some e
  | none =>
    match regionOf a with
    | some (.host, _, _) => some (eRights, a)
    | some (.span k, _, _) => if spanOpen s k then none else some (eQuarantine, a)
    | _ => none

/-- A read of a range that has passed its checks and lies in this device: the bytes before the first requested byte of a
failing HBM line, with that byte (R424, R620). -/
def localRead (s : State) (src a n : Nat) : Option Nat × Bytes × State :=
  let r := directRead s 5 src a n
  match r.1 with
  | some line => (some (Nat.max a line), slice r.2.1 0 (Nat.max a line - a), r.2.2)
  | none => (none, r.2.1, r.2.2)

/-- A read through a peer window begins: its first request leaves. -/
def startXfer (s : State) (who : XferFor) (k off n : Nat) : State :=
  let id := s.span.nextXfer
  let s1 := { s with span := { s.span with nextXfer := id + 1, xfers := s.span.xfers ++ [{ id := id, who := who, link := k, off := off, n := n }] } }
  windowRead s1 k (.xfer id) off (Nat.min n (64 - off % 64))

/-- A posted write through a peer window, in requests cut at 64 bytes. -/
def windowPut (s : State) (k off : Nat) (d : Bytes) : State := (linePieces off d).foldl (fun x e => windowWrite x k e.1 e.2) s

/-! ### BAR2 (R440) -/

/-- Internal address of a BAR2 offset. -/
def bar2Addr (s : State) (off : Nat) : Nat := tblGet 0 s.kept.windows (off / 2 ^ 22) / 2 ^ 22 * 2 ^ 22 + off % 2 ^ 22

/-- The checks of R440 in order. -/
def bar2Check (s : State) (off n : Nat) (write : Bool) : Option (Nat × Nat) :=
  let a := bar2Addr s off
  if s.kept.lockdown then some (eRights, a)
  else if (tblGet 0 s.kept.windows (off / 2 ^ 22)).testBit (b2n write) = false then some (eRights, a)
  else rangeCheck s a n write

/-- BAR2_READ: the host reads `len` bytes at a BAR2 offset. -/
def execBar2Read (off : BitVec 26) (len : Nat) (s : State) : Res :=
  .next (let a := bar2Addr s off.toNat
    let n := Nat.min len 4096
    if n = 0 then s
    else
      match bar2Check s off.toNat n false with
      | some (st, b) => bar2Answer s st b n []
      | none =>
        match regionOf a with
        | some (.span k, lo, _) => startXfer s .bar2 k (a - lo) n
        | _ =>
          let r := localRead s 0 a n
          match r.1 with
          | some b => bar2Answer r.2.2 eParity b n []
          | none => bar2Answer r.2.2 stOk 0 n r.2.1)

/-- BAR2_WRITE. -/
def execBar2Write (off : BitVec 26) (data : Bytes) (s : State) : Res :=
  .next (let a := bar2Addr s off.toNat
    if data = [] then s
    else
      match bar2Check s off.toNat data.length true with
      | some (st, b) => winFault s st b
      | none =>
        match regionOf a with
        | some (.span k, lo, _) => windowPut s k (a - lo) data
        | _ =>
          let r := directWrite s 5 0 a data
          match r.1 with
          | some b => winFault r.2 eParity b
          | none => r.2)

/-! ### MEM_READ and MEM_WRITE (R620) -/

/-- HBM accesses wait for the four stacks (R448, 5). -/
def memNotReady (s : State) (a : Nat) : Bool :=
  match regionOf a with
  | some (.hbm, _, _) => s.ready / 64 % 16 != 15
  | _ => false

/-- MEM_READ. -/
def execMemRead (mb : MbId) (addr : BitVec 64) (length : BitVec 32) (ind : Option (BitVec 64)) (s : State) : Res :=
  .next (let a := addr.toNat
    let n := length.toNat
    if n = 0 ∨ 4194304 < n ∨ ind.isNone then reply s mb.val eArgs
    else
      match rangeCheck s a n false with
      | some (st, b) => reply s mb.val st (toLE 8 b)
      | none =>
        if memNotReady s a then reply s mb.val eNotReady
        else
          match regionOf a with
          | some (.span k, lo, _) => startXfer s (.mailbox mb.val (ind.map (·.toNat))) k (a - lo) n
          | _ =>
            let r := localRead s 2 a n
            memReadDone r.2.2 mb.val (ind.map (·.toNat)) (match r.1 with | some _ => eParity | none => stOk) (r.1.getD 0) r.2.1)

/-- MEM_WRITE with its indirect payload; a payload that could not be read ends the command (R450). -/
def execMemWrite (mb : MbId) (addr : BitVec 64) (length : BitVec 32) (payload : Option Bytes) (s : State) : Res :=
  .next (withPayload s mb.val payload length.toNat (fun d s =>
    let a := addr.toNat
    match rangeCheck s a d.length true with
    | some (st, b) => reply s mb.val st (toLE 8 b)
    | none =>
      if memNotReady s a then reply s mb.val eNotReady
      else
        match regionOf a with
        | some (.span k, lo, _) => reply (windowPut s k (a - lo) d) mb.val stOk
        | _ =>
          let r := directWrite s 5 2 a d
          match r.1 with
          | some b => reply r.2 mb.val eParity (toLE 8 b)
          | none => reply r.2 mb.val stOk))

end Sys2Proof.Machine
end

