-- ==== Sys2Proof/Machine/Span.lean ====
section
/-!
DEFINITION. The span links (R467 to R488): states and joins, received flits and messages, time across a link, window
requests for the peer, packet hand-off, learning messages and commands.
-/

namespace Sys2Proof.Machine

/-! ### States -/

/-- READY bit of a link. -/
def spanReady (k : Nat) : Nat := 15 + k

/-- A transfer ends: BAR2 gets its data, or all ones; a mailbox command its result (R440, R442, R620). -/
def xferDone (s : State) (x : Xfer) (st : Nat) (first : Nat) : State :=
  let s1 := { s with span := { s.span with xfers := s.span.xfers.filter (fun y => y.id ≠ x.id) } }
  match x.who with
  | .bar2 => bar2Answer s1 st first x.n x.data
  | .mailbox m ind => memReadDone s1 m ind st first x.data

/-- An outstanding read completes with E_QUARANTINE (R475). -/
def readFails (s : State) (who : SpanWho) : State :=
  match who with
  | .thread tid entry part => loadPart s tid entry part eQuarantine []
  | .xfer id =>
    (match s.span.xfers.find? (fun x => x.id == id) with
    | some x => xferDone s x eQuarantine (0x2000000000 * (x.link + 1) + x.off + x.data.length)
    | none => s)
  | .nobody => s

/-- Domains whose SHARE is set. -/
def sharedDomains (p : PlanCopy) : List Nat := (List.range 16).filter (fun d => (byteAt (domLearn p d) 0).testBit 1)

/-- What follows within 10 µs of a link leaving JOINED or TIME_HOLD (R475). With `down` the replay buffer goes too. -/
def spanCleanup (s : State) (k : Nat) (down : Bool) : State :=
  let l := getSpan s k
  let waiting := l.wait0.filterMap (fun e => e.1.map (·.who))
  let s1 := (l.reads.map (·.who) ++ waiting).foldl readFails s
  let writes := (l.wait0.filter (fun e => e.1.isNone && byteAt e.2 0 == 0x11)).length +
    (l.replay.filter (fun f => byteAt f 0 == 3 && byteAt f 8 == 0x11)).length
  let s2 := l.packets.foldl (fun x i => unitRelease x (dHandle i.desc) 28 k) s1
  let s3 := l.unacked.foldl (fun x e => unitRelease x e.1 28 k) s2
  let s4 := spanCnt s3 k 0x60 (writes + l.packets.length + l.unacked.length)
  let s5 := modSpan s4 k (fun l => { l with
    reads := [], wait0 := l.wait0.filter (fun e => e.1.isNone && byteAt e.2 0 != 0x11), packets := [], unacked := []
    replay := if down then [] else l.replay, queue := if down then [] else l.queue })
  if spanFlush s.plan.now k then
    startFlushes { s5 with table := { s5.table with flushes := s5.table.flushes ++ (sharedDomains s.plan.now).map (fun d => (k, d)) } }
  else s5

/-- A link takes a state: READY.SPANk follows JOINED, and a link that closes is cleaned up. -/
def spanGo (s : State) (k st reason : Nat) : State :=
  let was := (getSpan s k).st
  let s1 := modSpan s k (fun l => { l with st := st, reason := reason, changeNs := recordNs s })
  let s2 := if (was = 4 ∨ was = 5) ∧ st ≠ 4 ∧ st ≠ 5 then spanCleanup s1 k (decide (st ≤ 1)) else s1
  setReady s2 (spanReady k) (st == 4)

/-- The credits of every VC at a join (R470). -/
def fullCredits : Table Nat := [(0, 256), (1, 520), (2, 128), (3, 2048)]

/-- A link enters JOINED from JOINING or QUARANTINE: its credits are reset. -/
def spanJoin (s : State) (k : Nat) : State :=
  let s1 := modSpan s k (fun l => { l with credits := fullCredits, returns := [] })
  spanGo (if (getSpan s k).st = 2 then spanCnt s1 k 0x28 1 else s1) k 4 0

/-- A link enters QUARANTINE for a reason (R473). -/
def spanQuarantine (s : State) (k reason : Nat) : State :=
  let s1 := spanGo s k 3 reason
  record (spanCnt s1 k 0x30 1) 0 0x0D 0x0001 (spanLoc k) (toLE 1 reason)

/-- A link in the state in which TRAINING begins: what the peer has said is forgotten. -/
def spanTraining (s : State) (k : Nat) : State :=
  let s1 := spanGo s k 1 0
  modSpan s1 k (fun l => { st := 1, changeNs := l.changeNs, syncSeq := l.syncSeq, offset := l.offset, offsetMax := l.offsetMax })

/-- SPAN_FEC_LOCK: a training link reaches FEC lock and enters JOINING (R468, R472). -/
def execSpanFecLock (link : Fin 3) (s : State) : Res :=
  .next (let k := link.val
    if (getSpan s k).st ≠ 1 then s
    else modSpan (spanGo s k 2 0) k (fun l => { l with
      credits := fullCredits, lastFlit := s.now, lastState := s.now, stateSentAt := s.now, syncAt := s.now }))

/-- What an epoch instant does to the links (R474, R488): `old` and `new` are the plans before and after it. -/
def spanEpoch (s : State) (old new : PlanCopy) : State :=
  (List.range 3).foldl (fun x k =>
    let a := spanEnt old k
    let b := spanEnt new k
    let same := slice a 2 4 == slice b 2 4 && (byteAt a 1).testBit 3 == (byteAt b 1).testBit 3
    if spanOn new k = false then (if (getSpan x k).st = 0 then x else modSpan (spanGo x k 0 0) k (fun l => { changeNs := l.changeNs, offset := l.offset, offsetMax := l.offsetMax }))
    else if spanOn old k ∧ same then x
    else spanTraining x k) s

/-! ### STATE (R472, R473) -/

/-- The STATE message of a link. -/
def stateMsg (s : State) (k : Nat) : Bytes :=
  let l := getSpan s k
  [0x01] ++ toLE 1 (b2n l.peerSeen + 2 * b2n (l.st == 3) + 4 * b2n (l.st == 5)) ++ toLE 1 s.svc.devId ++ toLE 1 k ++ toLE 2 0x1C32 ++ [0, 0] ++
    toLE 4 (runningVersion s.svc) ++ toLE 4 s.plan.epoch ++ time10 s.plan.instNs ++ zeros 6 ++ slice s.plan.now.board 0 48 ++
    toLE 8 Config.unitId.toNat ++ zeros 16

/-- SPAN_STATE_TX: STATE leaves every microsecond, and IDLE flits return the remaining credits (R470, R472). -/
def execSpanStateTx (link : Fin 3) (s0 : State) : Res :=
  .next (let k := link.val
    if (getSpan s0 k).st < 2 then s0
    else
      let s := advanceTo s0 ((getSpan s0 k).stateSentAt + 1600)
      let s1 := sendControl (modSpan s k (fun l => { l with stateSentAt := s.now, sentSeen := l.sentSeen || l.peerSeen })) k (stateMsg s k)
      (List.range 4).foldl (fun x _ => if (returnVc (getSpan x k)).isSome then sendIdle x k else x) s1)

/-- The local epoch and board digest that a STATE is judged against (R473): those in force at its INSTANT, and those of
the present epoch once its own instant is 2 µs past. -/
def judgedAgainst (s : State) (inst : Nat) : Nat × Bytes :=
  match s.plan.old with
  | some o => if inst < s.plan.instNs ∧ devNs s < s.plan.instNs + 2000 then (o.epoch, o.board) else (s.plan.epoch, s.plan.now.board)
  | none =>
    if inst < s.plan.instNs ∧ devNs s < s.plan.instNs + 2000 then (0, zeros 48) else (s.plan.epoch, s.plan.now.board)

/-- The first condition of Table 16-7 that does not hold for a STATE; 0 when all hold. -/
def joinReason (s : State) (k : Nat) (m : Bytes) : Nat :=
  let at_ := judgedAgainst s (ofTime10 (slice m 16 10))
  if leAt m 4 2 ≠ 0x1C32 then 1
  else if leAt m 8 4 ≠ runningVersion s.svc then 2
  else if slice m 32 48 ≠ slice at_.2 0 48 then 3
  else if leAt m 12 4 ≠ at_.1 then 4
  else if byteAt m 2 ≠ spanPeerId s.plan.now k ∨ byteAt m 3 ≠ 2 - k then 5
  else 0

/-- What a STATE does to a link (R472, R473). -/
def spanJudge (s : State) (k : Nat) (m : Bytes) : State :=
  let l := getSpan s k
  let peerSeen := (byteAt m 1).testBit 0
  if l.st = 2 ∧ ¬ (l.sentSeen ∧ peerSeen) then s
  else if devNs s ≤ ofTime10 (slice m 16 10) + 1000 ∧ isReady s 5 ∧ ofTime10 (slice m 16 10) ≠ 0 then s
  else
    let r := joinReason s k m
    if l.st = 2 then (if r = 0 then spanJoin s k else spanQuarantine s k r)
    else if l.st = 3 then
      (if l.violation then s else if r = 0 then spanJoin s k else modSpan s k (fun l => { l with reason := r }))
    else if r = 0 then s
    else spanQuarantine s k r

/-! ### Received messages -/

/-- The VC of a message by its code; 4 stands for CONTROL (Table 16-4). -/
def vcOf (code : Nat) : Option Nat :=
  match code with
  | 0x01 => some 4 | 0x02 => some 4
  | 0x10 => some 0 | 0x11 => some 0 | 0x12 => some 0 | 0x13 => some 0
  | 0x18 => some 1 | 0x19 => some 1
  | 0x20 => some 2 | 0x21 => some 2
  | 0x30 => some 3
  | _ => none

/-- Whether a link's state lets a message pass (Tables 16-4 and 16-6). -/
def msgPasses (st code : Nat) : Bool :=
  if code ≤ 2 ∨ code = 0x12 ∨ code = 0x13 ∨ code = 0x19 then decide (2 ≤ st)
  else if code = 0x30 then decide (st = 4)
  else decide (st = 4 ∨ st = 5)

/-- The message of a code that is the oldest of its VC on a link, with the state without it: its flits are freed. -/
def takeMsg (s : State) (k code : Nat) : Option (Nat × Bytes × State) :=
  let vc := vcOf code
  match (getSpan s k).rx.find? (fun m => vcOf (byteAt m.2.2 0) == vc) with
  | none => none
  | some m =>
    if byteAt m.2.2 0 ≠ code then none
    else
      let s1 := modSpan s k (fun l => { l with
        rx := l.rx.erase m, returns := match vc with | some v => if v < 4 then tblMod 0 l.returns v (· + m.2.1) else l.returns | none => l.returns })
      some (m.1, m.2.2, s1)

/-- A received message of a code is handled; one that the link's state does not let pass is discarded. -/
def onMsg (s : State) (k code : Nat) (f : Nat → Bytes → State → State) : State :=
  match takeMsg s k code with
  | none => s
  | some (at_, m, s1) => if msgPasses (getSpan s k).st code then f at_ m s1 else s1

/-- SPAN_STATE: a received STATE is judged. -/
def execSpanState (link : Fin 3) (s : State) : Res :=
  .next (onMsg s link.val 0x01 (fun _ m s1 =>
    spanJudge (modSpan s1 link.val (fun l => { l with peer := m, peerSeen := true, lastState := s1.now })) link.val m))

/-- SPAN_LINK_DOWN: lock is lost, or the link has been silent for 10 µs, or one SEQ was replayed 16 times (R474). -/
def execSpanLinkDown (link : Fin 3) (lockLost : Bool) (s : State) : Res :=
  .next (let k := link.val
    let l := getSpan s k
    let why := lockLost || decide (l.lastFlit + 16000 ≤ s.now) || decide (l.lastState + 16000 ≤ s.now) || decide (16 ≤ l.replayed)
    if l.st < 2 ∨ why = false then s
    else record (spanCnt (spanTraining s k) k 0x20 1) 0 0x0D 0x0002 (spanLoc k))

/-! ### Flits (R469) -/

/-- Flits acknowledged by ACK leave the replay buffer; the copies whose last flit they hold are released (R482). -/
def ackTo (s : State) (k ack : Nat) : State :=
  let l := getSpan s k
  match indexOf? (fun f => byteAt f 1 == ack) l.replay with
  | none => s
  | some i =>
    let n := l.acked + i + 1
    let s1 := modSpan s k (fun l => { l with replay := l.replay.drop (i + 1), acked := n, replayed := 0, unacked := l.unacked.filter (fun e => !decide (e.2 ≤ n)) })
    let s2 := (l.unacked.filter (fun e => decide (e.2 ≤ n))).foldl (fun x e => unitRelease x e.1 28 k) s1
    sendQueued k l.queue.length s2

/-- The flits of the replay buffer are sent again. -/
def replayAll (s : State) (k : Nat) : State :=
  let l := getSpan s k
  if l.replay = [] then s
  else
    let s1 := spanCnt (spanCnt (modSpan s k (fun l => { l with replayed := l.replayed + 1 })) k 0x18 1) k 0x00 l.replay.length
    l.replay.foldl (fun x f => putFlit x k f) s1

/-- Flits that a message of a CONTROL code takes. -/
def controlFlits (code : Nat) : Nat := if code = 1 then 2 else 1

/-- The payload of an accepted flit joins its message; a whole message joins those received. -/
def flitPayload (s : State) (k : Nat) (f : Bytes) : State :=
  let ty := byteAt f 0 % 8
  let vc := if ty = 1 then 4 else byteAt f 0 / 8 % 4
  let pay := slice f 8 52
  let part := tblGet [] (getSpan s k).partials vc
  let whole (b : Bytes) : State :=
    modSpan s k (fun l => { l with partials := tblDel l.partials vc, rx := if (vcOf (byteAt b 0)).isSome then l.rx ++ [(devNs s, b.length / 52, b)] else l.rx
                                   returns := if (vcOf (byteAt b 0)).isNone ∧ vc < 4 then tblMod 0 l.returns vc (· + b.length / 52) else l.returns })
  let more (b : Bytes) : State := modSpan s k (fun l => { l with partials := tblSet l.partials vc b })
  let lone : State := modSpan s k (fun l => { l with returns := if vc < 4 then tblMod 0 l.returns vc (· + 1) else l.returns })
  match ty with
  | 1 => let b := part ++ pay; if controlFlits (byteAt b 0) * 52 ≤ b.length then whole b else more b
  | 2 => whole pay
  | 3 => more pay
  | 4 => if part = [] then lone else more (part ++ pay)
  | 5 => if part = [] then lone else whole (part ++ pay)
  | _ => s

/-- FLIT_RX: a flit arrives: its CRC, its acknowledgement and credits, and its place in the sequence (R469, R470). -/
def execFlitRx (link : Fin 3) (flit : Bytes) (fecBad : Bool) (s : State) : Res :=
  .next (let k := link.val
    let f := slice flit 0 64
    if (getSpan s k).st < 2 ∨ flit.length ≠ 64 then s
    else
      let s0 := modSpan s k (fun l => { l with lastFlit := s.now })
      if fecBad ∨ crc32c (slice f 0 60) ≠ leAt f 60 4 then spanCnt (modSpan s0 k (fun l => { l with retry := true })) k 0x10 1
      else
        let s1 := ackTo s0 k (byteAt f 2)
        let vc := byteAt f 3 % 4
        let s2 := modSpan s1 k (fun l => { l with credits := tblMod 0 l.credits vc (fun c => Nat.min (vcBuffer vc) (c + leAt f 4 2)) })
        let s3 := if (byteAt f 3).testBit 7 then replayAll s2 k else s2
        let s4 := drain0 k (getSpan s3 k).wait0.length s3
        if byteAt f 0 % 8 = 0 then s4
        else if byteAt f 1 ≠ (getSpan s4 k).rxSeq then modSpan s4 k (fun l => { l with retry := true })
        else
          let s5 := spanCnt (modSpan s4 k (fun l => { l with rxSeq := (l.rxSeq + 1) % 256, retry := false })) k 0x08 1
          flitPayload s5 k f)

/-! ### Time (R476 to R478) -/

/-- TIME_SYNC_TX: a request leaves every 125 µs. -/
def execTimeSyncTx (link : Fin 3) (s0 : State) : Res :=
  .next (let k := link.val
    if (getSpan s0 k).st < 2 then s0
    else
      let s := advanceTo s0 ((getSpan s0 k).syncAt + 200000)
      let q := ((getSpan s k).syncSeq + 1) % 65536
      sendControl (modSpan s k (fun l => { l with syncSeq := q, syncT1 := devNs s, syncAt := s.now })) k
        ([0x02, 0] ++ toLE 2 q ++ time10 (devNs s) ++ zeros 38))

/-- A measured offset, in picoseconds: the gauges, the following of device time, and TIME_HOLD. -/
def spanOffset (s : State) (k : Nat) (ps freq : Int) : State :=
  let ns : Int := if ps < 0 then -((ps.natAbs / 1000 : Nat) : Int) else ((ps.natAbs / 1000 : Nat) : Int)
  let far := decide (100000 < ps.natAbs)
  let l := getSpan s k
  let mx := if l.st = 4 then Nat.max l.offsetMax ns.natAbs else l.offsetMax
  let s1 := modSpan s k (fun l => { l with offset := ns, offsetMax := mx, good := if far then 0 else l.good + 1 })
  let s3 := if spanFollow s.plan.now k then timeCorrect { s1 with time := { s1.time with freqAdj := freq } } (ps * unitNs / 1000) else s1
  if l.st = 4 ∧ far then
    record (spanCnt (modSpan (spanGo s3 k 5 0) k (fun l => { l with good := 0 })) k 0x38 1) 0 0x0D 0x0003 (spanLoc k)
  else if l.st = 5 ∧ 8 ≤ (getSpan s3 k).good then spanGo s3 k 4 0
  else s3

/-- TIME_SYNC: a request is answered; a reply to the last request gives the offset of the peer. -/
def execTimeSync (link : Fin 3) (s : State) : Res :=
  .next (let k := link.val
    onMsg s k 0x02 (fun at_ m s1 =>
      if (byteAt m 1).testBit 0 = false then
        sendControl s1 k ([0x02, 1] ++ slice m 2 2 ++ slice m 4 10 ++ time10 at_ ++ time10 (devNs s1) ++ toLE 4 (toSigned 32 s1.time.freqAdj) ++ zeros 14)
      else
        let l := getSpan s1 k
        if leAt m 2 2 ≠ l.syncSeq ∨ ofTime10 (slice m 4 10) ≠ l.syncT1 then s1
        else
          let t2 : Int := ofTime10 (slice m 14 10)
          let t3 : Int := ofTime10 (slice m 24 10)
          let ps : Int := ((t2 - l.syncT1) - ((at_ : Int) - t3)) * 1000 / 2 + spanAsymPs s.plan.now k
          spanOffset s1 k ps (signedOf 32 (leAt m 34 4))))

/-! ### Window requests for the peer (R480, R481) -/

/-- The check of a received request: whether its range may be accessed. -/
def requestOk (off n : Nat) (write : Bool) : Bool :=
  decide (1 ≤ n) && decide (n ≤ 64) && (outOfRange off n).isNone && (forbidden off n write).isNone && decide (off < 0x2000000000)

/-- A request that fails its check: the link enters QUARANTINE (R480). -/
def inboundViolation (s : State) (k : Nat) : State :=
  let s1 := spanCnt (modSpan s k (fun l => { l with violation := true })) k 0x58 1
  if spanOpen s1 k then spanQuarantine s1 k 6 else s1

/-- READ_RESP. -/
def respMsg (n tag st : Nat) (d : Bytes) : Bytes := [0x18] ++ toLE 1 n ++ toLE 2 tag ++ toLE 2 st ++ zeros 2 ++ slice d 0 64

/-- READ_REQ: the peer's read is performed and answered. -/
def execReadReq (link : Fin 3) (s : State) : Res :=
  .next (let k := link.val
    onMsg s k 0x10 (fun _ m s1 =>
      let n := byteAt m 1
      let off := leAt m 4 6
      let tag := leAt m 2 2
      if requestOk off n false then
        let r := directRead (spanCnt s1 k 0x50 1) 4 (0xC10 + k) off n
        match r.1 with
        | some _ => sendMsg r.2.2 k 1 (respMsg n tag eParity [])
        | none => sendMsg r.2.2 k 1 (respMsg n tag stOk r.2.1)
      else inboundViolation (sendMsg s1 k 1 (respMsg n tag eQuarantine [])) k))

/-- WRITE_REQ: the peer's write is performed. -/
def execWriteReq (link : Fin 3) (s : State) : Res :=
  .next (let k := link.val
    onMsg s k 0x11 (fun _ m s1 =>
      let n := byteAt m 1
      let off := leAt m 4 6
      if requestOk off n true then (directWrite (spanCnt s1 k 0x50 1) 4 (0xC10 + k) off (slice m 12 n)).2
      else inboundViolation s1 k))

/-- A response for a transfer: its data joins, and the next request leaves or the transfer ends. -/
def xferPart (s : State) (id st : Nat) (d : Bytes) : State :=
  match s.span.xfers.find? (fun x => x.id == id) with
  | none => s
  | some x =>
    if st ≠ stOk then xferDone s x st (0x2000000000 * (x.link + 1) + x.off + x.data.length)
    else
      let y := { x with data := x.data ++ d }
      let s1 := { s with span := { s.span with xfers := s.span.xfers.map (fun z => if z.id = id then y else z) } }
      if x.n ≤ y.data.length then xferDone s1 y stOk 0
      else
        let a := x.off + y.data.length
        windowRead s1 x.link (.xfer id) a (Nat.min (x.n - y.data.length) (64 - a % 64))

/-- READ_RESP: a window read's response reaches the one that waits for it. -/
def execReadResp (link : Fin 3) (s : State) : Res :=
  .next (let k := link.val
    onMsg s k 0x18 (fun _ m s1 =>
      match (getSpan s1 k).reads.find? (fun r => r.tag == leAt m 2 2) with
      | none => s1
      | some r =>
        let s2 := modSpan s1 k (fun l => { l with reads := l.reads.erase r })
        let st := leAt m 4 2
        let d := slice m 8 r.n
        let s3 := match r.who with
          | .thread tid entry part => loadPart s2 tid entry part st d
          | .xfer id => xferPart s2 id st d
          | .nobody => s2
        drain0 k (getSpan s3 k).wait0.length s3))

/-! ### Learning and Hawk messages (R486) -/

/-- LEARN_MESSAGE. -/
def execLearnMessage (link : Fin 3) (s : State) : Res :=
  .next (let k := link.val
    onMsg s k 0x20 (fun _ m s1 =>
      if leAt m 2 4 ≠ s1.plan.epoch then spanCnt s1 k 0xB0 1
      else if spanDomain s1.plan.now k (byteAt m 24 / 16) = false then spanCnt s1 k 0x80 1
      else learnPost (spanCnt s1 k 0xA8 1) { key := slice m 8 19, port := byteAt m 6, link := some k }))

/-- HAWK_MSG: the body waits for the Hawk firmware, which the span unit does not interpret. -/
def execHawkMsg (link : Fin 3) (s : State) : Res :=
  .next (onMsg s link.val 0x21 (fun _ m s1 => { s1 with span := { s1.span with hawkMsgs := s1.span.hawkMsgs ++ [(link.val, slice m 4 48)] } }))

/-! ### Packet hand-off (R482 to R484) -/

/-- PACKET: a peer's packet is checked and admitted to egress, once the admission FIFO has room. -/
def execPacket (link : Fin 3) (s : State) : Res :=
  .next (let k := link.val
    if fifoCapacity ≤ s.egress.fifo.length then s
    else
      onMsg s k 0x30 (fun _ m s1 =>
        let d := byteAt m 3 % 16
        let ep := leAt m 4 4
        let n := leAt m 8 2
        let live : Bool := ep != 0 && (s1.plan.epoch == ep || (match s1.plan.old with | some o => o.epoch == ep | none => false))
        if spanDomain s1.plan.now k d = false then spanCnt s1 k 0x80 1
        else if live = false then spanCnt s1 k 0x88 1
        else if portEnabled (s1.plan.of ep) (byteAt m 1) = false then spanCnt s1 k 0x78 1
        else
          match hodAlloc s1 d n with
          | (.granted h, s2) =>
            let hr := headroom (s2.plan.of ep)
            let s3 := hbmPut s2 1 (81 + k) (bufAddr s2 h + hr) (slice m 32 n)
            let desc := toLE 4 h ++ toLE 2 hr ++ toLE 2 n ++ [0] ++ slice m 1 1 ++ zeros 2 ++ toLE 1 (byteAt m 2 % 16) ++ slice m 10 1 ++
              slice m 12 2 ++ slice m 14 2 ++ slice m 16 2 ++ zeros 12
            let i : AdmitItem := { desc := desc, owned := true, epoch := ep, tick := s3.now, prio := byteAt m 3 / 16, domain := d, rxTime := ofTime10 (slice m 18 10) }
            spanCnt { s3 with egress := { s3.egress with fifo := s3.egress.fifo ++ [i] } } k 0x70 1
          | (_, s2) => spanCnt s2 k 0x90 1))

/-- The PACKET message of a copy. -/
def packetMsg (i : AdmitItem) (frame : Bytes) : Bytes :=
  let d := i.desc
  [0x30] ++ slice d 10 1 ++ toLE 1 (byteAt d 12 % 16) ++ toLE 1 (i.domain % 16 + 16 * (i.prio % 16)) ++ toLE 4 i.epoch ++ toLE 2 frame.length ++
    slice d 13 1 ++ [0] ++ slice d 14 2 ++ slice d 16 2 ++ slice d 18 2 ++ time10 i.rxTime ++ zeros 4 ++ frame

/-- SPAN_PACKET_SEND: the first queued copy of a link is sent, once VC3 holds its credits (R470, R482). A copy whose
frame cannot be read is discarded. -/
def execSpanPacketSend (link : Fin 3) (s : State) : Res :=
  .next (let k := link.val
    let l := getSpan s k
    match l.packets with
    | [] => s
    | i :: rest =>
      let n := leAt i.desc 6 2
      if l.st ≠ 4 ∨ hasCredits s k 3 (zeros (32 + n)) = false then s
      else
        let h := dHandle i.desc
        let s1 := modSpan s k (fun l => { l with packets := rest })
        let r := hbmRead s1 2 (81 + k) (bufAddr s1 h + leAt i.desc 4 2) n
        match r.1 with
        | some _ => unitRelease r.2.2 h 28 k
        | none =>
          let s2 := spanCnt (sendMsg r.2.2 k 3 (packetMsg i r.2.1)) k 0x68 1
          modSpan s2 k (fun l => { l with unacked := l.unacked ++ [(h, l.formed)] }))

/-! ### Commands (Table 16-8) -/

/-- SPAN_STATUS (R627). -/
def execSpanStatus (mb : MbId) (link : BitVec 8) (s : State) : Res :=
  .next (if 2 < link.toNat then reply s mb.val eArgs
    else
      let l := getSpan s link.toNat
      let p := l.peer
      let seen := decide (p ≠ [])
      reply s mb.val stOk (toLE 1 l.st ++ toLE 1 (if l.st = 3 then l.reason else 0) ++ (if seen then slice p 2 1 else [0xFF]) ++ [0] ++
        slice p 8 4 ++ slice p 12 4 ++ zeros 4 ++ slice p 80 8 ++ toLE 8 (toSigned 64 l.offset) ++ time10 l.changeNs ++ zeros 6 ++ slice p 32 48))

/-- SPAN_REJOIN: a link returns to TRAINING (R474). -/
def execSpanRejoin (mb : MbId) (link : BitVec 8) (s : State) : Res :=
  .next (if 2 < link.toNat then reply s mb.val eArgs
    else if (getSpan s link.toNat).st = 0 then reply s mb.val eNotFound
    else reply (spanTraining s link.toNat) mb.val stOk)

/-- SPAN_COUNTERS: `count` counters from byte offset `first` of the link's block. -/
def execSpanCounters (mb : MbId) (link : BitVec 8) (first count : BitVec 16) (s : State) : Res :=
  .next (if 2 < link.toNat ∨ first.toNat % 8 ≠ 0 ∨ 62 < count.toNat ∨ 0x100 < first.toNat + 8 * count.toNat then reply s mb.val eArgs
    else reply s mb.val stOk ((List.range count.toNat).flatMap (fun i =>
      toLE 8 (spanWord s (0x100 * link.toNat + first.toNat + 8 * i)))))

end Sys2Proof.Machine
end

