-- ==== Sys2Proof/Machine/Plan.lean ====
section
/-!
DEFINITION. The plan commands (R46 to R56): staging, the check with its report, and the preparation of a plan's
configured entries and locked lines (R187, R281).
-/

namespace Sys2Proof.Machine

/-- The state with the staging session changed. -/
def setStaging (s : State) (x : Staging) : State := { s with plan := { s.plan with staging := x } }
/-- The plan in force, if one is. -/
def planNow? (s : State) : Option PlanCopy := s.plan.cur
/-- The next epoch number (R57). -/
def nextEpoch (e : Nat) : Nat := if e = 0xFFFFFFFF then 2 else e + 1

/-! ### What a commit writes (R187, R624) -/

/-- The addresses at which two memories differ, rising; the fuel is their joint length. -/
def memDiff : Nat → Memory → Memory → List Nat
  | 0, _, _ => []
  | _ + 1, [], b => b.map (·.1)
  | _ + 1, a, [] => a.map (·.1)
  | n + 1, (i, v) :: a, (j, w) :: b =>
    if i < j then i :: memDiff n a ((j, w) :: b)
    else if j < i then j :: memDiff n ((i, v) :: a) b
    else if v = w then memDiff n a b
    else i :: memDiff n a b
/-- The units of `k` bytes in which two bodies differ. -/
def diffUnits (k : Nat) (x y : Sec) : List Nat :=
  dedupRising ((memDiff (x.mem.length + y.mem.length + 1) x.mem y.mem).map (· / k))

/-- The 4 KiB pages of a body. -/
def pagesOf (x : Sec) : Nat := ceilDiv x.len 4096
/-- The pages of a resulting body that the plan in force does not hold at the same place (R624). -/
def newPages (x : Sec) (old : Option Sec) : Nat :=
  match old with
  | none => pagesOf x
  | some y => ((diffUnits 4096 x y).filter (fun k => decide (k < pagesOf x) && decide (k < pagesOf y))).length + (pagesOf x - pagesOf y)
/-- The part of a body that has an on-die live copy (R624). -/
def onDie? (t : Nat) (x : Sec) : Sec :=
  if t = 0x0D then {} else if t = 9 then { len := Nat.min x.len 576, mem := memSub x.mem 0 576 } else x

/-- What a commit of `new` over `old` writes but for configured entries: STORE_KIB and changed on-die words. -/
def storeKib (new old : PlanCopy) : Nat := 4 * ((new.secs.map (fun e => newPages e.2 (tblFind old.secs e.1))).sum)
/-- The changed on-die 64-bit words of PREP_BOUND_US. -/
def dieWords (new old : PlanCopy) : Nat :=
  ((List.range 23).map (fun t => (diffUnits 8 (onDie? t (new.sec t)) (onDie? t (old.sec t))).length)).sum
/-- PREP_BOUND_US (R58). -/
def prepBound (buckets words kib : Nat) : Nat := ceilDiv (5000000 + 40 * buckets + 2 * words + 250 * kib) 1000
/-- The KiB by which the plan store is too small (R624). -/
def storeShort (new old : PlanCopy) : Nat := 4 * ((old.secs.map (fun e => pagesOf e.2)).sum) + storeKib new old - 512 * 1024

/-! ### Configured entries (R187, R188) -/

/-- The configured entries of a plan, with their indices. -/
def confEntries (p : PlanCopy) : List (Nat × Bytes) := if p.has 9 then (p.sec 9).entries 9 else []
/-- Configured entries of `p` that `q` does not hold as they are. -/
def confOnly (p q : PlanCopy) : List (Nat × Bytes) :=
  let there := (confEntries q).map (·.2)
  (confEntries p).filter (fun e => !there.contains e.2)
/-- Whether a commit of `new` over `old` writes configured entries. -/
def confWrites (new old : PlanCopy) : Bool := !(confOnly new old).isEmpty || !(confOnly old new).isEmpty

/-- A location that the commit has marked, for cleanup. -/
def markLoc (s : State) (loc : Nat) : State := { s with table := { s.table with marked := s.table.marked ++ [loc] } }

/-- An entry is marked OLD with the new epoch's bit, in place. -/
def markOld (s : State) (loc bit : Nat) : State :=
  let e := entryAt s loc
  let v := patchBytes e 19 (toLE 1 (clearMask (byteAt e 19) 96 + 32 + 64 * bit))
  let s1 := markLoc (putLoc s 6 0 loc v) loc
  if eFlag e 1 then confSet s1 loc (some v) else s1

/-- The valid entries of a key that no plan configured and that are not OLD. -/
def rivals (s : State) (k : Bytes) : List Nat × State :=
  let r := readBuckets 6 0 (hbmChoices s k).zipIdx [] s
  ((r.1.filter (fun e => eFlag e.2.2 0 && !eFlag e.2.2 1 && !eFlag e.2.2 5 && keyOf e.2.2 == k)).map (·.2.1), r.2.2)

/-- The location where the plan store holds a record. -/
def confLoc (s : State) (e : Bytes) : Option Nat :=
  (s.table.conf.find? (fun c => keyOf c.2 == keyOf e && slice c.2 24 8 == slice e 24 8 && !eFlag c.2 5)).map (·.1)

/-- The preparation of one added entry: its rivals are marked, and it is written as a new version. The result is the
failing entry's index and bucket h_0, or the buckets written. -/
def prepAdded (bit : Nat) (acc : Option (Nat × Nat) × List Nat × State) (e : Nat × Bytes) : Option (Nat × Nat) × List Nat × State :=
  match acc with
  | (some f, bs, s) => (some f, bs, s)
  | (none, bs, s) =>
    let k := keyOf e.2
    let r := rivals s k
    let s1 := r.1.foldl (fun x l => markOld x l bit) r.2
    match findPlace s1 6 0 k with
    | (none, _, s2) => (some (e.1, (hbmChoices s1 k).headD 0), bs, s2)
    | (some loc, moved, s2) =>
      let v := patchBytes e.2 19 (toLE 1 (19 + 64 * bit))
      (none, bs ++ (loc :: moved ++ r.1).map (· / 2), confSet (markLoc (putLoc s2 6 0 loc v) loc) loc (some v))

/-- The preparation of the configured entries of `new` over `old` for the epoch bit `bit` (R187): the entry and bucket
that fail, and the distinct buckets written. -/
def prepConf (s : State) (new old : PlanCopy) (bit : Nat) : Option (Nat × Nat) × List Nat × State :=
  let gone := (confOnly old new).filterMap (fun e => confLoc s e.2)
  let s1 := gone.foldl (fun x l => markOld x l bit) s
  let r := (confOnly new old).foldl (prepAdded bit) (none, gone.map (· / 2), s1)
  (r.1, r.2.1.eraseDups, r.2.2)

/-- An abandoned commit's versions are cleared, and its OLD marks with them (R188). -/
def undoConf (s : State) : State :=
  (fun (x : State) => { x with table := { x.table with marked := [] } }) (s.table.marked.foldl (fun x loc =>
    let e := entryAt x loc
    if eFlag e 4 then confSet (clearLoc x 6 0 loc) loc none
    else if eFlag e 5 then
      let v := patchBytes e 19 (toLE 1 (clearMask (byteAt e 19) 32))
      (fun y => if eFlag e 1 then confSet y loc (some v) else y) (putLoc x 6 0 loc v)
    else x) s)

/-! ### HBM seeds (R200, R201) -/

/-- Whether the HBM seeds of the first commit are drawn. -/
def seedsDrawn (p : PlanCopy) : Bool := p.randomSeeds || !p.has 9
/-- The seeds are fixed, once. -/
def fixSeeds (s : State) (p : PlanCopy) : State :=
  match s.table.seeds with
  | some _ => s
  | none =>
    if seedsDrawn p then
      let d := drawTrng s 32
      { d.2 with table := { d.2.table with seeds := some ((List.range 4).map (fun i => slice d.1 (8 * i) 8)), drawn := true } }
    else { s with table := { s.table with seeds := some (paramSeeds p) } }

/-! ### Locked code lines (R281) -/

/-- The locked lines of a plan on every core that runs them: cache place, line number and data. -/
def lockedPlaces (p : PlanCopy) : List (Nat × Nat × Bytes) :=
  (List.range 192).flatMap (fun u => (lockedLines p u).map (fun l => (512 * u + 4 * l.1 + l.2.1, l.2.2.1, l.2.2.2)))

/-- The new epoch's locked lines go into their ways; a line that the plan in force locks there with the same bytes
serves both. -/
def loadLines (s : State) (p : PlanCopy) (bit : Nat) : State :=
  { s with core := { s.core with icache := (lockedPlaces p).foldl (fun (c : Table ICLine) l =>
      match tblFind c l.1 with
      | some o =>
        if o.locked ∧ o.line = l.2.1 ∧ o.data = l.2.2 then (if o.space = bit then c else tblSet c l.1 { o with space := bothSpaces })
        else tblSet c l.1 { line := l.2.1, space := bit, locked := true, used := s.now, data := l.2.2 }
      | none => tblSet c l.1 { line := l.2.1, space := bit, locked := true, used := s.now, data := l.2.2 }) s.core.icache } }

/-- The lines of one code space leave the caches; shared lines stay for the other. -/
def dropLines (s : State) (bit : Nat) : State :=
  { s with core := { s.core with icache := (s.core.icache.filter (fun e => e.2.space ≠ bit)).map (fun e =>
      if e.2.space = bothSpaces then (e.1, { e.2 with space := 1 - bit }) else e) } }

/-! ### The check (R52, R54, Table 2-9) -/

/-- What a passing check has found: the plan, and the numbers of its report. -/
structure Passed where
  plan : PlanCopy
  buckets : Nat
  kib : Nat
  bound : Nat
  deriving DecidableEq, Repr, Inhabited

/-- GROUP (0x002A). -/
def groupBad (m : Memory) : Bool := imgFlag m 4 == allZero (memBytes m 128 48)

/-- An ATOMIC_BUCKET failure (0x0030): the entry is the patch record where TABLE_PARAMS is staged as a PATCH. -/
def bucketFail (st : Staging) (f : Nat × Nat) : CheckFail :=
  let rec_ := match (secEnts st.image).find? (fun e => e.typ == 9 && e.mode == 1) with
    | some e => (patchRecordOf 9 (bodyOf st.image e) f.1 (e.count + 1) 0 0).getD f.1
    | none => f.1
  { status := eNotAtomic, code := 0x30, section_ := 9, entry := rec_, detail := f.2 }

/-- The atomicity checks on a copy of the state, and the numbers of the report. -/
def checkAtomic (s : State) (p : PlanCopy) : Except CheckFail Passed :=
  let old := s.plan.now
  let r := prepConf (fixSeeds s p) p old (nextEpoch s.plan.epoch % 2)
  let kib := storeKib p old
  let b := r.2.1.length
  match r.1 with
  | some f => .error (bucketFail s.plan.staging f)
  | none =>
    if 0 < storeShort p old then .error { status := eNotAtomic, code := 0x31, detail := storeShort p old }
    else .ok { plan := p, buckets := b, kib := kib, bound := prepBound b (dieWords p old) kib }

/-- Whether the staged image holds PINNED as a REPLACE. -/
def pinnedReplaced (st : Staging) : Bool := (leftEnts st).any (fun e => e.typ == 8 && e.mode == 0)

/-- The whole check of what a selection takes (R52). -/
def runCheck (s : State) (sel : Option CommitSel) : Except CheckFail Passed :=
  let st := s.plan.staging
  match checkContainer st s.svc (planNow? s) sel with
  | .error f => .error f
  | .ok p =>
    match firstFail [checkSections p (planNow? s) (pinnedReplaced st) s.table.seeds, checkCross p (planNow? s) s.svc.devId (groupBad st.image)] with
    | some f => .error f
    | none => checkAtomic s p

/-- The report of checks that pass. -/
def passReport (x : Passed) : Bytes := reportBytes stOk 0 0 noEntry 0 x.bound x.buckets x.kib
/-- The report of a failing check; what it says of a preparation that no check has judged is open. -/
def failReport (s : State) (f : CheckFail) : Bytes × State :=
  let d := drawFreeBytes s 12
  (reportBytes f.status f.code f.section_ f.entry f.detail 0 0 0 |>.take 20 |> (· ++ d.1), d.2)

/-! ### Staging (Tables 2-7 and 2-8) -/

/-- A plan command that only the session's owner may give (R47), accepted in the states `ok` (Table 2-8). -/
def planCommand (s : State) (mb : MbId) (ok : List StageState) (k : State → State) : State :=
  let st := s.plan.staging
  if st.st ≠ .empty ∧ st.owner ≠ some mb.val then reply s mb.val eBusy
  else if ok.contains st.st then k s
  else reply s mb.val eSequence

/-- PLAN_STAGE_BEGIN: a session opens for an image of the size given (R47, R48); HBM must be trained (R427). -/
def execPlanStageBegin (mb : MbId) (size : BitVec 32) (s : State) : Res :=
  .next (planCommand s mb [.empty] (fun s =>
    if (List.range 4).any (fun n => !isReady s (6 + n)) then reply s mb.val eNotReady
    else if 256 * 2 ^ 20 < size.toNat then reply s mb.val eStageFull
    else reply (setStaging s { st := .loading, owner := some mb.val, size := size.toNat }) mb.val stOk))

/-- PLAN_STAGE_DATA: the indirect payload goes to its offset of the staged image (R48, R49); without the payload the
command completes with E_TIMEOUT (R450). -/
def execPlanStageData (mb : MbId) (off len : BitVec 32) (payload : Option Bytes) (s : State) : Res :=
  .next (planCommand s mb [.loading] (fun s => withPayload s mb.val payload len.toNat (fun d s =>
    let st := s.plan.staging
    if st.size < off.toNat + d.length then reply s mb.val eArgs
    else reply (setStaging s { st with image := memSplice st.image off.toNat d.length (memWrite [] 0 d) }) mb.val stOk)))

/-- PLAN_STAGE_END: the container checks (R50). -/
def execPlanStageEnd (mb : MbId) (s : State) : Res :=
  .next (planCommand s mb [.loading] (fun s =>
    match checkContainer s.plan.staging s.svc (planNow? s) none with
    | .error f =>
      let r := failReport s f
      reply r.2 mb.val f.status r.1
    | .ok p =>
      let old := s.plan.now
      let b := (prepConf (fixSeeds s p) p old (nextEpoch s.plan.epoch % 2)).2.1.length
      let kib := storeKib p old
      reply (setStaging s { s.plan.staging with st := .loaded }) mb.val stOk
        (passReport { plan := p, buckets := b, kib := kib, bound := prepBound b (dieWords p old) kib })))

/-- PLAN_CHECK: the whole check (R52); it changes no active, shadow or table state (R54). -/
def execPlanCheck (mb : MbId) (s : State) : Res :=
  .next (planCommand s mb [.loaded, .checked] (fun s =>
    match runCheck s none with
    | .error f =>
      let r := failReport s f
      reply (setStaging r.2 { s.plan.staging with st := .loaded, checkedAt := none }) mb.val f.status r.1
    | .ok x =>
      reply (setStaging s { s.plan.staging with st := .checked, checkedAt := some s.plan.epoch, prepBound := x.bound }) mb.val stOk (passReport x)))

/-- The STATE field of Table 2-13. -/
def stageCode (s : State) : Nat :=
  match s.plan.staging.st with
  | .empty => 0
  | .loading => 1
  | .loaded => 2
  | .checked => 3
  | .committing => if epochArmed s then 5 else 4

/-- The 144 bytes of PLAN_STATUS (Table 2-13). -/
def planStatus (s : State) : Bytes :=
  let p := s.plan.now
  toLE 1 (stageCode s) ++ toLE 1 ((s.plan.staging.owner).getD 0xFF) ++ zeros 2 ++ toLE 4 s.plan.epoch ++ time10 s.plan.instNs ++
    (match s.plan.old with | some _ => time10 s.plan.retireNs | none => zeros 10) ++ zeros 4 ++ slice p.digest 0 48 ++ slice p.board 0 48 ++
    toLE 8 s.plan.ageDrops ++ toLE 8 p.serial

/-- PLAN_STATUS: accepted in every state and from every mailbox. -/
def execPlanStatus (mb : MbId) (s : State) : Res := .next (reply s mb.val stOk (planStatus s))

end Sys2Proof.Machine
end

