-- ==== Sys2Proof/Machine/Commit.lean ====
section
/-!
DEFINITION. Commits (R57 to R74): acceptance, the check, the entropy wait, preparation, arming, the epoch instant,
retirement, and group commits over the span links.
-/

namespace Sys2Proof.Machine

/-! ### Device time ahead -/

/-- The beacon ticks from now until device time is at least `ns` (R101, R102). -/
def ticksTo (s : State) (ns : Nat) : Nat :=
  let want := ns * unitNs
  if want ≤ s.time.t ∨ isReady s 5 = false then 0
  else
    let diff := want - s.time.t
    let base := (5 * (2 ^ 40 + s.time.freqAdj)).toNat
    let mag := s.time.slew.natAbs
    let n := ceilDiv diff (if s.time.slew < 0 then base - slewPerTick else base + (if mag = 0 then 0 else slewPerTick))
    if slewPerTick * n ≤ mag then n
    else ceilDiv (if s.time.slew < 0 then diff + mag else diff - mag) base

/-! ### Arguments (Table 2-11, R66, R71) -/

/-- A bit of the arguments' FLAGS: 0 AT_TIME, 1 GROUP, 2 PARTIAL. -/
def argFlag (a : Bytes) (i : Nat) : Bool := (leAt a 0 4).testBit i
/-- AT_TIME in nanoseconds. -/
def argTime (a : Bytes) : Nat := ofTime10 (slice a 4 10)
/-- What a PARTIAL commit selects. -/
def argSel (a : Bytes) : Option CommitSel :=
  if argFlag a 2 then some { mask := leAt a 16 4, limitSection := leAt a 20 2, limitCount := leAt a 24 4 } else none

/-- Whether a reserved field of the arguments is not zero. -/
def argReserved (a : Bytes) : Bool :=
  decide (8 ≤ leAt a 0 4) || decide (16 ≤ byteAt a 14) || byteAt a 15 != 0 || decide (2 ^ 22 ≤ leAt a 16 4) || leAt a 22 2 != 0 || leAt a 28 4 != 0

/-- Whether a PARTIAL selection is invalid for the staged image (R66). -/
def argPartial (st : Staging) (c : CommitSel) : Bool :=
  let left := leftEnts st
  imgFlag st.image 2 || left.all (fun e => !selTakes (some c) e.typ) ||
    (c.limitSection != 0 && !(left.any (fun e => e.typ == c.limitSection && e.mode == 1)))

/-- Whether a group commit's arguments break R71: the bound of preparation is its fixed part while no check has passed. -/
def argGroup (s : State) (a : Bytes) : Bool :=
  let st := s.plan.staging
  let bound := if st.st = .checked ∧ st.prepBound ≠ 0 then st.prepBound else 5000
  let now := devNs s
  !argFlag a 0 || !(byteAt a 14).testBit s.svc.devId || decide (argTime a < now + Nat.max 10000000 (1000 * (bound + 100))) ||
    decide (now + 10000000000 < argTime a)

/-- Whether the arguments of a PLAN_COMMIT are invalid. -/
def argBad (s : State) (a : Bytes) : Bool :=
  argReserved a || (argFlag a 0 && decide (1000000000 ≤ leAt a 10 4)) ||
    (match argSel a with | some c => argPartial s.plan.staging c | none => false) || (argFlag a 1 && argGroup s a)

/-! ### Group messages (R72) -/

/-- The span link that leads to a device (R467). -/
def linkTo (s : State) (dev : Nat) : Option Nat := (List.range 3).find? (fun k => (s.svc.devId + k + 1) % 4 == dev)
/-- The device at the other end of a link (R467). -/
def devAt (s : State) (k : Nat) : Nat := (s.svc.devId + k + 1) % 4
/-- The peers of a group commit. -/
def groupPeers (s : State) (c : Commit) : List Nat := (List.range 4).filter (fun d => c.groupMask.testBit d && d != s.svc.devId)

/-- A PREPARED or ABORT message (Table 16-5). -/
def groupMsg (s : State) (code : Nat) (c : Commit) : Bytes :=
  toLE 1 code ++ zeros 1 ++ toLE 4 s.plan.epoch ++ time10 ((c.atTime).getD 0) ++ memBytes s.plan.staging.image 128 48

/-- A message to every peer of a group commit whose link passes it (Table 16-6). -/
def tellGroup (s : State) (code : Nat) (c : Commit) : State :=
  if c.group = false then s
  else
    let m := groupMsg s code c
    (groupPeers s c).foldl (fun x d =>
      match linkTo x d with
      | some k => if 2 ≤ (getSpan x k).st then post0 x k none m else x
      | none => x) s

/-! ### The end of a commit -/

/-- The state with the commit changed. -/
def modCommit (s : State) (f : Commit → Commit) : State := { s with plan := { s.plan with commit := s.plan.commit.map f } }

/-- Every reservation and every shadow write of a commit is released (R65). -/
def undoCommit (s : State) (wrote linesIn : Bool) : State :=
  let s1 := if wrote then undoConf s else s
  if linesIn then dropLines s1 (nextEpoch s.plan.epoch % 2) else s1

/-- A commit ends without a switch: what it wrote is released, its seeds are not fixed, and it completes with a result
(R65, Table 2-16). -/
def endCommit (s : State) (status : Nat) (report : Bytes) (after : Staging) : State :=
  match s.plan.commit with
  | none => s
  | some c =>
    let s1 := undoCommit s c.wrote c.linesIn
    let s2 := { s1 with
      table := if s1.plan.epoch = 0 then { s1.table with seeds := none, drawn := false } else s1.table
      plan := { s1.plan with commit := none, staging := after, prepared := if c.group then [] else s1.plan.prepared } }
    reply s2 c.mailbox status (commitResult s2 report)

/-- The staging session of a commit that ends after its check has passed: CHECKED, or as before a check that has not. -/
def stagingAfter (s : State) (c : Commit) : Staging :=
  let st := s.plan.staging
  if c.plan.isSome then { st with st := .checked, checkedAt := if c.sel.isNone then some s.plan.epoch else none, prepBound := if c.sel.isNone then c.prepBound else 0 }
  else { st with st := c.fromState }

/-- A commit fails a check: the image stays in LOADED, and a group's peers are told (R65, R72). -/
def failCommit (s : State) (f : CheckFail) : State :=
  match s.plan.commit with
  | none => s
  | some c =>
    let r := failReport s f
    endCommit (tellGroup r.2 0x13 c) f.status r.1 { s.plan.staging with st := .loaded, checkedAt := none }

/-! ### Steps 2 to 4 -/

/-- Preparation begins: seeds are fixed, and the versions of configured entries are reserved and written. It waits for
the old epoch's retirement when it writes such entries while that epoch is live (R187). -/
def beginPrepare (s : State) : State :=
  match s.plan.commit with
  | none => s
  | some c =>
    match c.plan with
    | none => s
    | some p =>
      let old := s.plan.now
      if confWrites p old ∧ s.plan.old.isSome then modCommit s (fun c => { c with step := .waiting })
      else
        let s1 := fixSeeds s p
        let r := prepConf s1 p old (nextEpoch s.plan.epoch % 2)
        let kib := storeKib p old
        let bound := prepBound r.2.1.length (dieWords p old) kib
        let s2 := modCommit r.2.2 (fun c => { c with wrote := confWrites p old })
        match r.1 with
        | some f => failCommit s2 (bucketFail s.plan.staging f)
        | none =>
          if 0 < storeShort p old then failCommit s2 { status := eNotAtomic, code := 0x31, detail := storeShort p old }
          else modCommit s2 (fun c => { c with
            step := .preparing, prepFrom := s.now, buckets := r.2.1.length, prepBound := bound
            report := reportBytes stOk 0 0 noEntry 0 bound r.2.1.length kib })

/-- The check has passed: the commit waits for READY.TRNG when it draws random values, and otherwise prepares (R58 step
3). -/
def afterCheck (s : State) (x : Passed) : State :=
  let s1 := modCommit s (fun c => { c with plan := some x.plan, prepBound := x.bound, report := passReport x })
  if isReady s 4 = false ∧ (x.plan.randomSeeds ∨ (s.plan.epoch = 0 ∧ x.plan.has 9 = false)) then modCommit s1 (fun c => { c with step := .entropy })
  else beginPrepare s1

/-- PLAN_COMMIT: acceptance (R58 step 1). A commit from CHECKED of the whole image over the plan that the check saw goes
on without another check. -/
def execPlanCommit (mb : MbId) (args : Bytes) (s : State) : Res :=
  .next (
    let st := s.plan.staging
    let refuse (status : Nat) : State := reply s mb.val status (commitResult s (reportStatus status []))
    if st.st ≠ .empty ∧ st.owner ≠ some mb.val then reply s mb.val eBusy
    else if st.st ≠ .loaded ∧ st.st ≠ .checked then refuse eSequence
    else if argBad s args then refuse eArgs
    else
      let c : Commit := {
        mailbox := mb.val, step := .checking, fromState := st.st, sel := argSel args
        atTime := if argFlag args 0 then some (argTime args) else none, group := argFlag args 1, groupMask := byteAt args 14 }
      let s1 := setStaging { s with plan := { s.plan with commit := some c } } { st with st := .committing }
      if c.sel.isNone ∧ st.st = .checked ∧ st.checkedAt = some s.plan.epoch then
        (match runCheck s none with
         | .ok x => afterCheck s1 x
         | .error _ => s1)
      else s1)

/-- COMMIT_CHECK_DONE: the check inside a commit completes (R58 step 2). -/
def execCommitCheckDone (s : State) : Res :=
  .next (match s.plan.commit with
    | none => s
    | some c =>
      if c.step ≠ .checking then s
      else
        match runCheck s c.sel with
        | .error f => failCommit s f
        | .ok x => afterCheck s x)

/-- COMMIT_ENTROPY_READY: a commit that waits for READY.TRNG prepares, or ends with E_NOT_READY when the TRNG has failed
(R562). -/
def execCommitEntropyReady (s : State) : Res :=
  .next (match s.plan.commit with
    | none => s
    | some c =>
      if c.step ≠ .entropy then s
      else if isReady s 4 then beginPrepare s
      else if s.svc.trng = .failed then endCommit s eNotReady (reportStatus eNotReady c.report) (stagingAfter s c)
      else s)

/-! ### Steps 5 and 6 -/

/-- The new epoch's locked lines are loaded, unless the code space is still the old epoch's (R281). -/
def loadCommitLines (s : State) : State :=
  match s.plan.commit, s.plan.old with
  | some c, none =>
    (match c.plan with
     | some p => if c.linesIn then s else modCommit (loadLines s p (nextEpoch s.plan.epoch % 2)) (fun c => { c with linesIn := true })
     | none => s)
  | _, _ => s

/-- The commit is armed: its instant cannot be before the end of preparation plus 10 µs, nor before the retirement of the
old epoch (R58 step 5). -/
def armCommit (s : State) : State :=
  modCommit s (fun c => { c with
    step := .armed, notBefore := Nat.max (c.prepEnd + usTicks 10) (match s.plan.old with | some _ => s.plan.retireTick | none => 0) })

/-- COMMIT_PREPARE_DONE: preparation ends. A group commit tells its peers and waits for its decision point (R72); any
other is armed at once. -/
def execCommitPrepareDone (s0 : State) : Res :=
  .next (match s0.plan.commit with
    | none => s0
    | some c =>
      if c.step ≠ .preparing then s0
      else
        let s := modCommit (loadCommitLines s0) (fun c => { c with step := .prepared, prepEnd := s0.now })
        if c.group then tellGroup s 0x12 c else armCommit s)

/-- GROUP_DECISION_POINT: 20 µs before AT_TIME a group commit is armed when every peer has prepared alike, and otherwise
abandoned (R73). -/
def execGroupDecisionPoint (s0 : State) : Res :=
  .next (match s0.plan.commit with
    | none => s0
    | some c =>
      match c.atTime with
      | none => s0
      | some at_ =>
        if c.group = false ∨ c.step = .armed then s0
        else
          let s := advanceTo s0 (s0.now + ticksTo s0 (at_ - 20000))
          let peers := groupPeers s c
          let held := s.plan.prepared.filter (fun m => peers.contains m.dev)
          let digest := memBytes s.plan.staging.image 128 48
          let stop (st : Nat) : State := endCommit s st (reportStatus st c.report) (stagingAfter s c)
          if held.any (fun m => m.digest != digest || m.epoch != s.plan.epoch) then stop eEpoch
          else if held.any (fun m => m.atTime != at_) then stop eArgs
          else if c.step ≠ .prepared ∨ c.abortSeen ∨ peers.any (fun d => !held.any (fun m => m.dev == d)) then stop eTimeout
          else armCommit s)

/-- The first tick from `t` on whose core tick number is a multiple of 32 (R295). -/
def switchTick (s : State) (t : Nat) : Nat := t + (32 - (t - s.core.base) % 32) % 32

/-- The tick of an armed commit's instant (R58 step 5). -/
def instantTick (s : State) (c : Commit) : Nat :=
  let t0 := Nat.max s.now c.notBefore
  match c.atTime with
  | some at_ => (fun (x : State) => x.now + ticksTo x at_) (advanceTo s t0)
  | none => t0

/-- Every unit exchanges its active and shadow copies at the present tick (R58 step 6, R62). -/
def switchPlan (s : State) (c : Commit) (p : PlanCopy) : State :=
  let old := s.plan.now
  let n := nextEpoch s.plan.epoch
  let new := { p with epoch := n }
  let first := s.plan.cur.isNone
  let s1 := spanEpoch (redundancyEpoch (metersEpoch (gatesEpoch (portsEpoch s old new) old new) old new) old new) old new
  { s1 with
    core := { s1.core with slotSwitchAt := some (switchTick s s.now) }
    plan := { s1.plan with
      commit := none, epoch := n, cur := some new
      old := if first then none else some old
      retireTick := s.now + usTicks old.maxRes + 64 * c.buckets
      retireNs := devNs s + 1000 * old.maxRes + 40 * c.buckets
      instNs := devNs s, instFrac := devFrac s, instTick := s.now
      prepared := if c.group then [] else s1.plan.prepared
      staging := afterSel s.plan.staging c.sel new.digest } }

/-- The EPOCH event of every thread (EVF bit 16). -/
def epochEvent (s : State) : State :=
  s.core.threads.foldl (fun x t => if t.2.running then setFlag x t.1 16 else x) s

/-- EPOCH_INSTANT: the armed instant arrives (R58 step 6). At the first commit the new versions of configured entries
become plain at once, since no old epoch is live. -/
def execEpochInstant (s0 : State) : Res :=
  .next (match s0.plan.commit with
    | none => s0
    | some c =>
      match c.plan with
      | none => s0
      | some p =>
        if c.step ≠ .armed then s0
        else
          let s := loadCommitLines (advanceTo s0 (instantTick s0 c))
          let s1 := epochEvent (switchPlan s c p)
          let s2 := if s.plan.cur.isNone then cleanupAll s1 else s1
          let s3 := raiseInt (logCount (setReady (setReady s2 11 true) 19 true) 0x009 1) 29
          let s4 := reply s3 c.mailbox stOk (commitResult s3 c.report)
          if s4.host.hawkDeferred then hawkRestartDue { s4 with host := { s4.host with hawkDeferred := false } } s4.svc.trialFirst else s4)

/-- EPOCH_RETIRE: the old epoch's shadow copies, bodies and old versions become free; a thread that only it binds stops
(R62, R298), and a preparation that waited begins (R187). -/
def execEpochRetire (s0 : State) : Res :=
  .next (match s0.plan.old with
    | none => s0
    | some o =>
      let s := advanceTo s0 s0.plan.retireTick
      let s1 := sasRetire (cleanupAll s)
      let gone := ((boundThreads o).map (·.1)).filter (fun t => (bindingOf s.plan.now t).isNone)
      let s2 := dropLines (gone.foldl threadStop s1) (o.epoch % 2)
      let s3 := { s2 with plan := { s2.plan with old := none } }
      match s3.plan.commit with
      | some c =>
        if c.step = .waiting then beginPrepare s3
        else if c.step = .prepared ∨ c.step = .armed then loadCommitLines s3
        else s3
      | none => s3)

/-! ### PLAN_ABORT (R67) -/

/-- PLAN_ABORT: from any mailbox it ends the session, or a commit that is not armed; the image is discarded (R47, R67). -/
def execPlanAbort (mb : MbId) (s : State) : Res :=
  .next (match s.plan.staging.st with
    | .empty => reply s mb.val eSequence
    | .committing =>
      (match s.plan.commit with
       | some c =>
         if c.step = .armed then reply s mb.val eBusy
         else reply (endCommit (tellGroup s 0x13 c) eSequence (reportStatus eSequence c.report) {}) mb.val stOk
       | none => reply (setStaging s {}) mb.val stOk)
    | _ => reply (setStaging s {}) mb.val stOk)

/-! ### Messages of the peers (R72) -/

/-- PREPARED: a peer has prepared; the message is held and acknowledged on VC1. -/
def execPrepared (link : Fin 3) (s : State) : Res :=
  .next (onMsg s link.val 0x12 (fun _ m s1 =>
    let d := devAt s1 link.val
    let x : PreparedMsg := { dev := d, digest := slice m 16 48, epoch := leAt m 2 4, atTime := ofTime10 (slice m 6 10) }
    let s2 := { s1 with plan := { s1.plan with prepared := s1.plan.prepared.filter (fun y => y.dev ≠ d) ++ [x] } }
    sendMsg s2 link.val 1 (toLE 1 0x19 ++ zeros 1 ++ slice m 2 14)))

/-- ABORT: a peer does not commit; its PREPARED no longer counts. -/
def execAbort (link : Fin 3) (s : State) : Res :=
  .next (onMsg s link.val 0x13 (fun _ _ s1 =>
    let d := devAt s1 link.val
    modCommit { s1 with plan := { s1.plan with prepared := s1.plan.prepared.filter (fun y => y.dev ≠ d) } }
      (fun c => if c.group ∧ c.groupMask.testBit d then { c with abortSeen := true } else c)))

/-- PREPARED_ACK: a peer has received our PREPARED. -/
def execPreparedAck (link : Fin 3) (s : State) : Res :=
  .next (onMsg s link.val 0x19 (fun _ _ s1 => modCommit s1 (fun c => if c.group then { c with acks := c.acks ++ [devAt s1 link.val] } else c)))

/-! ### The end of a Hawk restart (R464, R68) -/

/-- HAWK_RESTART_END: E_PARTIAL results, READY bits, the HAWK event of service threads, and held doorbells, in the order
of R464. A commit that the restart abandoned completes with its commit result and what it wrote is released; one that is
armed goes on. -/
def execHawkRestartEnd (s : State) : Res :=
  .next (
    if s.host.hawkState ≠ 2 ∨ s.power.loaderOk = false then s
    else
      match s.fault.recovering.find? (fun r => decide (r.loc.l5 = 30) && decide (r.since + msTicks 60 < s.now)) with
      | some r => decideDevice s r.cls r.code (locCode s r.loc)
      | none =>
      let s := { s with fault := { s.fault with recovering := s.fault.recovering.filter (fun r => r.loc.l5 ≠ 30) } }
      let s0 := if s.plan.undo then undoCommit { s with plan := { s.plan with undo := false } } true true else s
      let mine (n : Nat) : Bool := match s.plan.commit with | some c => c.mailbox == n | none => false
      let s1 := (List.range 8).foldl (fun x n =>
        let m := getMb x n
        if m.run && m.reply.isNone && !mine n then
          publish x n { status := ePartial, data := match s.plan.cut with | some (k, d) => if k = n then d else [] | none => [] }
        else x) s0
      let s2 := hawkRunning { s1 with plan := { s1.plan with cut := none } }
      let s3 := logCount { s2 with host := { s2.host with hawkRestarts := satTo 0xFFFF (s2.host.hawkRestarts + 1) } } 0x006 1
      acceptHeld (hawkEvent (raiseInt s3 28)))

end Sys2Proof.Machine
end

