-- ==== Sys2Proof/Machine/LongOps.lean ====
section
/-!
DEFINITION. What ends in a thread without a word of its own: long operations, posted stores, block elements, events,
wakes, timers, reservations, instruction-cache fills and the switch of the slot tables.
-/

namespace Sys2Proof.Machine

/-! ### Order of long accesses (R276) -/

/-- Regions whose accesses a thread performs in issue order. -/
def orderKey (a : Nat) : Option Nat :=
  match regionOf a with
  | some (.hbm, _, _) => none
  | some (.span _, _, _) => none
  | some (_, lo, _) => some lo
  | none => none

/-- The address of a long load. -/
def loadAddr (op : LongOp) : Option Nat :=
  match op with
  | .load a _ _ => some a
  | .rload a _ => some a
  | .lr a _ _ => some a
  | _ => none

/-- Whether an earlier access of the thread to the same region is still to be performed. -/
def earlierPending (t : Thread) (a seq : Nat) : Bool :=
  match orderKey a with
  | none => false
  | some k =>
    t.sb.any (fun e => decide (e.seq < seq) && (match loadAddr e.op with | some b => orderKey b == some k | none => false)) ||
    t.stores.any (fun e => decide (e.seq < seq) && orderKey e.addr == some k)

/-! ### Loads -/

/-- The status and the bytes that a load's requests have returned. -/
def gathered (e : SbEntry) : Nat × Bytes :=
  match e.parts.find? (fun p => p.2.1 != stOk) with
  | some p => (p.2.1, [])
  | none => (stOk, ((e.parts.foldl (fun l p => insertBy (·.1) p l) []).map (fun p => p.2.2)).flatten)

/-- What a long load of `n` bytes gives: none while its requests are open or an earlier access comes first. `host` is
what the host memory returns to a read of its window. -/
def loadOutcome (s : State) (tid : Nat) (e : SbEntry) (a n : Nat) (host : BitVec 64) : Option (Nat × Bytes × State) :=
  match regionOf a with
  | some (.hbm, _, _) => if e.need ≤ e.parts.length then some ((gathered e).1, (gathered e).2, s) else none
  | some (.span _, _, _) => if e.need ≤ e.parts.length then some ((gathered e).1, (gathered e).2, s) else none
  | some (.host, _, _) =>
    if e.parts ≠ [] then some ((gathered e).1, (gathered e).2, s)
    else if earlierPending (getTh s tid) a e.seq then none
    else some (stOk, slice (toLE 8 host.toNat) 0 n, s)
  | some (.hawk, _, _) =>
    if earlierPending (getTh s tid) a e.seq then none
    else if s.host.hawkState = 2 then some (eTimeout, [], s)
    else some (stOk, memBytes s.mem a n, s)
  | _ =>
    if earlierPending (getTh s tid) a e.seq then none
    else
      let r := directRead s 4 tid a n
      some (match r.1 with | some _ => eParity | none => stOk, r.2.1, r.2.2)

/-- A failed long operation: its entry clears, its destination stays, and FAULT sets (R275, R316). -/
def longFails (s : State) (tid st : Nat) (e : SbEntry) : State := raiseFault (clearEntry s tid e.id) tid st 1 e.id

/-- A long load has completed: MEMDONE sets. -/
def loadDone (s : State) (tid : Nat) (e : SbEntry) : State := setFlag (clearEntry s tid e.id) tid 18

/-- A thread stores to its own bank 0, at once; window words count as stored to (R302). -/
def privPut (t : Thread) (off : Nat) (d : Bytes) : Thread :=
  let ws := if 0x1000 ≤ off ∧ off < 0x1100 then (List.range ((off % 8 + d.length + 7) / 8)).map (fun i => (off - 0x1000) / 8 + i) else []
  { t with mem := memWrite t.mem off d, stored := t.stored ++ ws.filter (fun w => !t.stored.contains w) }

/-- A Render computation with its long source (R362). -/
def rloadLand (t : Thread) (q : RPost) (d : Bytes) : Thread :=
  let o : GOp := { op := q.op, size := q.fmt.size, be := q.fmt.be, sx := q.fmt.sx, tri := q.tri, nf := q.nf }
  let r := gCompute o q.other (loadValue q.fmt d) q.carry
  let t1 := match r.1 with
    | some v => (match q.dest with
      | .none => t
      | .reg g => setReg t g v
      | .bank0 off => privPut t off (storeBytes { size := q.fmt.size, be := q.fmt.be } v))
    | none => t
  match r.2 with
  | some f => { t1 with fz := f.z, fn := f.n, fc := f.c, fv := f.v }
  | none => t1

/-! ### Channels and signals (R320, R322, R324) -/

/-- Whether a thread exists and runs. -/
def canReceive (s : State) (target : Nat) : Bool := decide (target < 3072) && (getTh s target).running

/-- What a CHSEND does at its decision: its status. -/
def sendMessage (s : State) (tid target chan : Nat) (v : W64) (handle : Option Nat) : Nat × State :=
  let n := tidCluster target
  let put (x : State) : State :=
    let had := chanOf (getTh x target) chan
    let x1 := modTh x target (fun t => { t with
      chans := tblSet t.chans chan (had ++ [(v, handle)]), setAt := if had = [] then tblSet t.setAt (5 + chan) x.now else t.setAt })
    dispCnt x1 n 0x70 1
  if canReceive s target = false then (eArgs, s)
  else if domainsMeet (threadDomain (getTh s tid)) (threadDomain (getTh s target)) = false then (eRights, s)
  else if 4 ≤ (chanOf (getTh s target) chan).length then (eBusy, dispCnt s n 0x78 1)
  else
    match handle with
    | none => (stOk, put s)
    | some h =>
      if (threadSlots s tid).contains h = false ∨ 16 ≤ (threadSlots s target).length then (eArgs, s)
      else (stOk, put (modSlots (modSlots s tid (fun l => l.erase h)) target (fun l => l ++ [h])))

/-- What a SIGNAL does. -/
def sendSignal (s : State) (tid target n : Nat) : Nat × State :=
  if canReceive s target = false then (eArgs, s)
  else if domainsMeet (threadDomain (getTh s tid)) (threadDomain (getTh s target)) = false then (eRights, s)
  else (stOk, setFlag s target (19 + n))

/-- Whether an earlier CHSEND of the thread to the same channel awaits its decision. -/
def earlierSend (t : Thread) (e : SbEntry) (target chan : Nat) : Bool :=
  t.sb.any (fun x => decide (x.seq < e.seq) && (match x.op with | .chsend _ tg k _ _ => tg == target && k == chan | _ => false))

/-! ### LONG_OP_COMPLETE -/

/-- A status or result is written to bank 0 and its entry clears. -/
def putResult (s : State) (tid : Nat) (e : SbEntry) (off : Nat) (d : Bytes) : State :=
  modTh (clearEntry s tid e.id) tid (fun t => { t with mem := memWrite t.mem off d })
/-- A 16-bit status is written. -/
def putStatus (s : State) (tid : Nat) (e : SbEntry) (off st : Nat) : State := putResult s tid e off (toLE 2 st)

/-- A coprocessor function ends (R382, R391, R392). -/
def copEnd (s : State) (tid : Nat) (e : SbEntry) (k func : Nat) (regs : Table W64) (err : Option Nat) (key : Option (Nat × Nat × Bytes)) : State :=
  let u := tidUnit tid
  let s1 := modCop (setFlag (clearEntry s tid e.id) tid 2) u k (fun c => { c with regs := regs.foldl (fun t r => tblSet t r.1 r.2) c.regs })
  let s2 := copCnt s1 tid (8 * k)
  let now := (getCop s2 u k).regs
  let s3 := if k = 0 ∧ func = 0x31 ∧ (creg now 7).getLsbD 0 then copCnt s2 tid 0x18 else s2
  let s4 := if k = 1 ∧ err = none ∧ (func = 0x04 ∨ func = 0x14) ∧ (creg now 15).getLsbD 0 then copCnt s3 tid 0x20 else s3
  let s5 := match key with
    | some (i, d, b) => { s4 with core := { s4.core with keys := tblSet s4.core.keys i { domain := d, use := 1, key := b } } }
    | none => s4
  match err with
  | some st => raiseFault (copCnt s5 tid 0x28) tid st 1 e.id
  | none => s5

/-- A delay-list insertion at its completion (R325). -/
def timerInsert (s : State) (tid : Nat) (e : SbEntry) (off deadline tag : Nat) : State :=
  let n := tidCluster tid
  if listCapacity ≤ (getCl s n).timers.length then putStatus (dispCnt s n 0x58 1) tid e off eBusy
  else putStatus (modCl s n (fun c => { c with timers := c.timers ++ [{ tid := tid, tag := tag, deadline := deadline }] })) tid e off stOk

/-- A delay-list removal: the thread's entry with the tag and the earliest deadline that is not due. -/
def timerCancel (s : State) (tid : Nat) (e : SbEntry) (off tag : Nat) : State :=
  let n := tidCluster tid
  let tick := listTick s n
  match ((timersOf s tid).filter (fun x => x.tag == tag && !x.sleep && !x.due && decide (tick < x.deadline))).foldl (fun a x =>
    match a with
    | none => some x
    | some b => if x.deadline < b.deadline then some x else some b) none with
  | none => putStatus s tid e off eNotFound
  | some x => putStatus (modCl s n (fun c => { c with timers := c.timers.erase x })) tid e off stOk

/-- A lock operation's outcome is settled first; while the lock unit restarts, its thread goes on waiting. -/
def settleEntry (s : State) (tid id : Nat) : State :=
  let s1 := settleLocks s (s.now + 1)
  if recovering s lockLoc then
    modTh s1 tid (fun t => { t with sb := t.sb.map (fun e => if e.id = id then { e with due := none, exact := false } else e) })
  else s1

/-- The completion of an entry at the present tick. -/
def completeEntry (s : State) (tid : Nat) (e : SbEntry) (host : BitVec 64) : State :=
  match e.op with
  | .load a f r =>
    (match loadOutcome s tid e a f.size host with
    | none => s
    | some (st, d, s1) => if st = stOk then modTh (loadDone s1 tid e) tid (fun t => setReg t r (loadValue f d)) else longFails s1 tid st e)
  | .lr a f r =>
    (match loadOutcome s tid e a f.size host with
    | none => s
    | some (st, d, s1) => if st = stOk then modTh (loadDone s1 tid e) tid (fun t => setReg t r (loadValue f d)) else longFails s1 tid st e)
  | .rload a q =>
    (match loadOutcome s tid e a q.fmt.size host with
    | none => s
    | some (st, d, s1) => if st = stOk then modTh (loadDone s1 tid e) tid (fun t => rloadLand t q d) else longFails s1 tid st e)
  | .tas _ r (some v) => modTh (clearEntry s tid e.id) tid (fun t => setReg t r v)
  | .tas _ _ none => s
  | .sc _ _ r _ (some v) => modTh (clearEntry s tid e.id) tid (fun t => setReg t r v)
  | .sc _ _ r _ none =>
    (match e.parts with
    | [] => s
    | (_, st, d) :: _ =>
      if st = stOk then modTh (clearEntry s tid e.id) tid (fun t => setReg t r (BitVec.ofNat 64 (leVal d))) else longFails s tid st e)
  | .result off d flag fault =>
    let s1 := putResult s tid e off d
    let s2 := match flag with | some b => setFlag s1 tid b | none => s1
    (match fault with | some st => raiseFault s2 tid st 1 e.id | none => s2)
  | .chsend off target chan v h =>
    if earlierSend (getTh s tid) e target chan then s
    else
      let r := sendMessage s tid target chan v h
      putStatus r.2 tid e off r.1
  | .signal off target n =>
    let r := sendSignal s tid target n
    putStatus r.2 tid e off r.1
  | .pass off (some st) => putStatus s tid e off st
  | .pass off none =>
    let it := tblFind (getTh s tid).passing e.id
    let s1 := putStatus (modTh s tid (fun t => { t with passing := tblDel t.passing e.id })) tid e off stOk
    (match it with | some x => enterItem s1 x true | none => s1)
  | .direct off desc =>
    let t := getTh s tid
    (match postDirect s tid t.epoch (workDomain t) desc with
    | (some st, s1) => setFlag (putStatus s1 tid e off st) tid 13
    | (none, _) => s)
  | .tmrset off n tag => timerInsert s tid e off n tag
  | .tmrcan off tag => timerCancel s tid e off tag
  | .tcmd off cmd =>
    (match tableCommand s (.thread tid e.id) (some (threadDomain (getTh s tid))) cmd with
    | (some r, s1) => setFlag (putResult s1 tid e off r) tid 14
    | (none, s1) => modTh s1 tid (fun t => { t with sb := t.sb.map (fun x => if x.id = e.id then { x with op := .tcmdRun off } else x) }))
  | .tcmdRun off =>
    (match e.parts with
    | (_, _, d) :: _ => setFlag (putResult s tid e off d) tid 14
    | [] => s)
  | .lockWait _ _ => s
  | .cop k func regs err key => copEnd s tid e k func regs err key
  | .crestore k regs => modCop (setFlag (clearEntry s tid e.id) tid 2) (tidUnit tid) k (fun c => { c with regs := regs })
  | .block => s

/-- LONG_OP_COMPLETE: a long operation completes, writes its result and clears its scoreboard entry, or fails with
FAULT (R273, R275). `host` is the data that the host returns for a load of the host memory window. -/
def longOpComplete (s0 : State) (tid entry : Nat) (host : BitVec 64) : State :=
  match (getTh s0 tid).sb.find? (fun e => e.id == entry) with
  | none => s0
  | some e =>
    let s1 := if e.exact then (match e.due with | some d => advanceTo s0 d | none => s0) else s0
    match e.op with
    | .lockWait _ _ =>
      let s2 := settleEntry s1 tid entry
      (match (getTh s2 tid).sb.find? (fun e => e.id == entry) with
      | some e2 => completeEntry s2 tid e2 host
      | none => s2)
    | .tas _ _ _ =>
      let s2 := landCl s1 (tidCluster tid) s1.now
      (match (getTh s2 tid).sb.find? (fun e => e.id == entry) with | some e2 => completeEntry s2 tid e2 host | none => s2)
    | .sc _ _ _ _ _ =>
      let s2 := landCl s1 (tidCluster tid) s1.now
      (match (getTh s2 tid).sb.find? (fun e => e.id == entry) with | some e2 => completeEntry s2 tid e2 host | none => s2)
    | _ => completeEntry s1 tid e host

/-! ### STORE_PERFORMED (R276) -/

/-- A device write of host memory through the host memory window (R441). -/
def hostWinWrite (s : State) (a : Nat) (d : Bytes) : State :=
  let o := a % 2 ^ 39
  { s with host := { s.host with mem := memWrite s.host.mem (s.kept.hostWin / 4096 * 4096 + o) d } }

/-- A posted store's outcome: none while its requests are open or an earlier access comes first. -/
def storeOutcome (s : State) (tid : Nat) (x : PostedStore) : Option (Nat × State) :=
  let asked : Option (Nat × State) := if x.need ≤ x.done.length then some ((x.done.find? (· != stOk)).getD stOk, s) else none
  match regionOf x.addr with
  | some (.hbm, _, _) => asked
  | some (.span _, _, _) => asked
  | some (.host, _, _) =>
    if x.done ≠ [] then some (x.done.headD stOk, s)
    else if earlierPending (getTh s tid) x.addr x.seq then none else some (stOk, hostWinWrite s x.addr x.data)
  | _ =>
    if earlierPending (getTh s tid) x.addr x.seq then none
    else if (match regionOf x.addr with | some (.hawk, _, _) => s.host.hawkState == 2 | _ => false) then some (stOk, s)
    else
      let r := directWrite s 4 tid x.addr x.data
      some (match r.1 with | some _ => eParity | none => stOk, r.2)

/-- STORE_PERFORMED: a posted store is performed; MEMDONE sets when none is outstanding. A store that failed sets FAULT;
it has no scoreboard entry, so DETAIL is a free value. -/
def storePerformed (s : State) (tid index : Nat) : State :=
  match (getTh s tid).stores.drop index with
  | [] => s
  | x :: _ =>
    match storeOutcome s tid x with
    | none => s
    | some (st, s1) =>
      let s2 := modTh s1 tid (fun t => { t with stores := t.stores.filter (fun y => y.seq ≠ x.seq) })
      let s3 := if (getTh s2 tid).stores = [] then setFlag s2 tid 18 else s2
      if st = stOk then s3
      else
        let f := drawFree s3
        raiseFault f.2 tid st 1 f.1.toNat

/-! ### BLOCK_ELEMENT_DONE (R373 to R376) -/

/-- The value of a block operand at an address that is not the own cluster's, read as the thread's own access. -/
def blockRead (s : State) (tid a : Nat) : Option Nat × W64 × State :=
  let r := directRead s 4 tid a 8
  (r.1, BitVec.ofNat 64 (leVal r.2.1), r.2.2)

/-- The values of an element that waits for memory; an error status when a read fails. -/
def elemValues (s : State) (tid : Nat) (b : Block) (e : BlockElem) : Option Nat × BlockElem × State :=
  match e.due with
  | some _ => (none, e, s)
  | none =>
    let t := getTh s tid
    let sa := (tblGet 0 t.p b.ps).toNat
    let da := (tblGet 0 t.p b.pd).toNat
    let x := if blockUsesPs b.op ∧ ownAddr tid sa = false then blockRead s tid sa else (none, e.ps, s)
    let y := if blockUsesPd b.op ∧ blockWrites b.op = false ∧ ownAddr tid da = false then blockRead x.2.2 tid da else (none, e.pd, x.2.2)
    (match x.1, y.1 with | none, none => none | _, _ => some eParity, { e with ps := x.2.1, pd := y.2.1 }, y.2.2)

/-- The effect of an element that completes: the state, and whether the block stops early at it (Table 12-7). -/
def elemEffect (s : State) (tid : Nat) (b : Block) (e : BlockElem) : Bool × State :=
  let t := getTh s tid
  let da := (tblGet 0 t.p b.pd).toNat
  let store (v : W64) : State :=
    if ownAddr tid da then plainStore s da (toLE 8 v.toNat)
    else longStore s { tid := tid, p := s.now, addr := t.pc, len := 2, render := true } da (toLE 8 v.toNat)
  match b.op with
  | 0x20 => (false, store e.ps)
  | 0x21 => (false, store t.a)
  | 0x22 =>
    let pv := beVal (toLE 8 e.pd.toNat)
    let sv := beVal (toLE 8 e.ps.toNat)
    if pv = sv then (false, s) else (true, modTh s tid (fun t => blockFlags t false false (decide (sv < pv)) false))
  | 0x23 =>
    if b.fn then (false, modTh s tid (fun t => { t with a := t.a ^^^ e.ps }))
    else (false, modTh s tid (fun t => { t with a := t.a + e.ps, x := t.x + BitVec.ofNat 64 ((t.a.toNat + e.ps.toNat) / 2 ^ 64) }))
  | _ =>
    if (e.ps &&& t.x == t.a &&& t.x) != b.fn then (true, modTh s tid (fun t => blockFlags t true false false false)) else (false, s)

/-- Flags of a comparing block that an error has ended: the spec gives them no value. -/
def freeFlags (s : State) (tid op : Nat) : State :=
  if op = 0x22 ∨ op = 0x24 then
    let f := drawFree s
    modTh f.2 tid (fun t => blockFlags t (f.1.getLsbD 0) (f.1.getLsbD 1) (f.1.getLsbD 2) (f.1.getLsbD 3))
  else s

/-- BLOCK_ELEMENT_DONE: the oldest element in flight completes, and the block ends after its last (R374, R376). -/
def blockElementDone (s0 : State) (tid : Nat) : State :=
  match (getTh s0 tid).block with
  | none => s0
  | some b =>
    match b.inflight with
    | [] => s0
    | e :: rest =>
      let s := match e.due with | some d => advanceTo s0 d | none => s0
      let put (x : State) (f : Block → Block) : State := modTh x tid (fun t => { t with block := t.block.map f })
      if b.stop then blockSettle (put s (fun b => { b with inflight := rest })) tid s.now
      else
        let r := elemValues s tid b e
        match r.1 with
        | some st => blockEnd (freeFlags (raiseFault (put r.2.2 (fun b => { b with inflight := [] })) tid st 1 b.entry) tid b.op) tid s.now b
        | none =>
          let w := elemEffect r.2.2 tid b r.2.1
          let s1 := if w.1 then w.2 else blockCount w.2 tid b
          blockSettle (put s1 (fun b => { b with inflight := rest, stop := b.stop || w.1 })) tid s.now

/-! ### Events and waking (R314, R315, R375) -/

/-- An event is delivered at a thread's position `p`. -/
def takeEvent (s : State) (tid p : Nat) : State :=
  let t := getTh s tid
  let len := if t.mode then renderLenAt s tid t.pc else 4
  let pc := (t.bind.map (·.eventPc)).getD 0
  enterHandler s (getTh (stage3 s tid p) tid) tid 6 none (savedPlace t t.pc len false) pc (p + 3)

/-- EVENT_DELIVERY: an armed event takes the thread's position; a block instruction gives way once its elements are
complete. -/
def eventDelivery (s : State) (tid : Nat) : State :=
  match slotFor s tid with
  | none => s
  | some (p, s1) =>
    match (getTh s1 tid).block with
    | some b =>
      if b.held ∧ b.inflight = [] ∧ b.stop = false then
        takeEvent (modTh s1 tid (fun t => { t with sb := t.sb.filter (fun e => e.id ≠ b.entry) })) tid p
      else s
    | none => if (getTh s1 tid).rprog.isNone && eventTakes s1 tid p then takeEvent s1 tid p else s

/-- The tick in which the first of a set of flags set, for a thread that blocked at tick `at_`. -/
def wakeTick (t : Thread) (flags at_ : Nat) : Nat :=
  let l := ((List.range 24).filter (fun b => flags.testBit b)).map (fun b => Nat.max at_ (tblGet 0 t.setAt b))
  l.foldl Nat.min (l.headD at_)

/-- A thread goes on after a wait whose condition came true in tick `m`; its blocked positions count. -/
def wakeAt (s : State) (tid m : Nat) : State :=
  let t := getTh s tid
  coreCnt (modTh s tid (fun t => { t with wait := .none, nextAt := m + 4 })) tid 0x28 (positionsIn s tid t.waitAt (m + 4))

/-- THREAD_WAKE: a blocked thread whose condition holds goes on (R303, R314, R321, R325). -/
def threadWake (s : State) (tid : Nat) : State :=
  let t := getTh s tid
  match t.wait with
  | .none => s
  | .event =>
    let f := armedAt s tid (s.now + 1)
    if f = 0 then s else wakeAt s tid (wakeTick t f t.waitAt)
  | .work =>
    if t.shadow.isNone then s
    else
      let m := wakeTick t 1 t.waitAt
      (nextSwap (wakeAt s tid m) tid (m + 3)).2
  | .sleep =>
    let fault := t.evf.testBit 17
    let m := match sleepEntry s tid with
      | some e => if e.due then some (if fault then Nat.min e.dueAt (tblGet 0 t.setAt 17) else e.dueAt) else if fault then some (tblGet 0 t.setAt 17) else none
      | none => some s.now
    (match m with
    | none => s
    | some m =>
      let m1 := Nat.max m t.waitAt
      modTh (wakeAt (endSleep s tid) tid m1) tid (fun t => { t with fe := false }))
  | .channel k =>
    if chanOf t k = [] then s
    else
      let m := wakeTick t (2 ^ (5 + k)) t.waitAt
      takeMessage (wakeAt s tid m) tid k (m + 5)

/-! ### Delay lists and reservations -/

/-- The beacon tick at which a list tick of a cluster begins. -/
def listTickStart (s : State) (n lt : Nat) : Nat := (getCl s n).readyAt + ceilDiv (lt * (8 * tickNs s.plan.now n)) 5

/-- A cluster's delay list is lost (R327): every entry goes, its threads receive FAULT, and DELAY_LOST counts. -/
def delayLost (s : State) (n : Nat) : State :=
  let tids := ((getCl s n).timers.map (·.tid)).eraseDups
  dispCnt (tids.foldl (fun x t =>
    let f := drawFree x
    raiseFault f.2 t (f.1.toNat % 65536) 2 (f.1.toNat / 65536 % 2 ^ 32)) (modCl s n (fun c => { c with timers := [] }))) n 0x68 1

/-- Reads the words of a delay list that hold entries (R327): whether the list is lost. -/
def delayTouch (s : State) (n : Nat) : Bool × State :=
  (s.fault.marks.filter (fun m => unitOf m.loc == unitLoc n 38 && Config.delayWord m.word (getCl s n).timers.length)).foldl
    (fun (x : Bool × State) m =>
      let clear := clearMark x.2 m.loc m.word
      if m.kind < 2 then (x.1, dispCnt (record clear 1 0x09 0x0001 m.loc [] m.injected) n 0x60 1)
      else (true, if x.1 then clear else errorIn (delayLost clear n) 2 0x09 0x0002 (unitLoc n 38) [] m.injected)) (false, s)

/-- TIMER_DUE: up to 8 entries of a cluster's delay list whose deadline has come fall due (R326). -/
def timerDue (s0 : State) (n : Nat) : State :=
  match ((getCl s0 n).timers.filter (fun e => !e.due)).foldl (fun l e => insertBy (·.deadline) e l) [] with
  | [] => s0
  | first :: rest =>
    let rd := delayTouch (advanceTo s0 (listTickStart s0 n first.deadline)) n
    let s := rd.2
    if rd.1 then s
    else
    let lt := listTick s n
    let go := ((first :: rest).filter (fun e => decide (e.deadline ≤ lt))).take 8
    let s1 := modCl s n (fun c => { c with timers := c.timers.map (fun e => if go.contains e then { e with due := true, dueAt := s.now } else e) })
    dispCnt (go.foldl (fun x e =>
      if e.sleep ∨ flagNow s e.tid 3 then x else modTh x e.tid (fun t => { t with setAt := tblSet t.setAt 3 s.now })) s1) n 0x50 go.length

/-- RESERVATION_EXPIRE: a reservation is lost 1,024 ticks after its LR (Table 12-6). -/
def reservationExpire (s0 : State) (tid : Nat) : State :=
  match (getTh s0 tid).resv with
  | none => s0
  | some (_, at_) => modTh (advanceTo s0 (at_ + 1024)) tid (fun t => { t with resv := none })

/-! ### Slot tables and instruction cache -/

/-- SLOT_TABLE_SWITCH: every core takes its new slot table, and the threads that the new plan binds and the old does not
start (R295, R296). -/
def slotTableSwitch (s0 : State) : State :=
  match s0.core.slotSwitchAt with
  | none => s0
  | some at_ =>
    let s := advanceTo s0 at_
    let old := s.plan.of s.core.slotEpoch
    let s1 := { s with core := { s.core with slotEpoch := s.plan.epoch, slotSwitchAt := none } }
    (List.range 3072).foldl (fun x tid =>
      match bindingOf s.plan.now tid with
      | some b => if (bindingOf old tid).isSome ∧ (getTh x tid).running then x else threadStart x tid at_ b
      | none => x) s1

/-- The way that a fill replaces: an empty one, else the least recently used that is not locked. -/
def fillWay (s : State) (u line : Nat) : Option Nat :=
  let base := icBase u line
  match (List.range 4).find? (fun w => (tblFind s.core.icache (base + w)).isNone) with
  | some w => some (base + w)
  | none =>
    ((List.range 4).filterMap (fun w =>
      match tblFind s.core.icache (base + w) with
      | some l => if l.locked then none else some (base + w, l.used)
      | none => none)).foldl (fun (a : Option (Nat × Nat)) e =>
        match a with
        | none => some e
        | some b => if e.2 < b.2 then some e else some b) none |>.map (·.1)

/-- The line that the fetch at a thread's PC waits for. -/
def lineAwaited (s : State) (tid : Nat) : Option Nat :=
  match fetchCode s tid with
  | .wait l => some l
  | _ => none

/-- A thread's fetch goes on. -/
def fetchGoesOn (s : State) (tid : Nat) : State :=
  let t := getTh s tid
  let s1 := modTh s tid (fun t => { t with missing := false, nextAt := Nat.max t.nextAt s.now })
  if t.missing then coreCnt s1 tid 0x20 (positionsIn s1 tid t.waitAt s.now) else s1

/-- ICACHE_FILL_DONE: a missed line is filled from the plan store, or served from it when its set is locked (R280). -/
def icacheFillDone (s : State) (tid : Nat) : State :=
  match lineAwaited s tid with
  | none => if (getTh s tid).missing then fetchGoesOn s tid else s
  | some l =>
    let p := planOfTh s (getTh s tid)
    match fetchLine s tid l, codeLine p l with
    | .miss, some d =>
      fetchGoesOn (match fillWay s (tidUnit tid) l with
        | some ix => { s with core := { s.core with icache := tblSet s.core.icache ix { line := l, space := p.epoch % 2, used := s.now, data := d } } }
        | none => modTh s tid (fun t => { t with served := ((l, d) :: t.served).take 2 })) tid
    | _, _ => s

/-- ICACHE_RELOAD: a line with an uncorrectable word is reloaded from the plan store (R282). -/
def icacheReload (s : State) (tid : Nat) : State :=
  match lineAwaited s tid with
  | none => s
  | some l =>
    let p := planOfTh s (getTh s tid)
    match fetchLine s tid l, codeLine p l with
    | .bad ix m, some d =>
      let u := tidUnit tid
      let ms := icMarks s u ix l
      let s1 := ms.foldl (fun x m => clearMark x m.loc m.word) s
      let s2 := { s1 with core := { s1.core with icache := tblMod { line := l, space := 0, data := d } s1.core.icache ix (fun e => { e with data := d, used := s1.now }) } }
      fetchGoesOn (coreCnt (record s2 1 0x08 0x0002 (wordLoc m.loc m.word) [] m.injected) tid 0x40 1) tid
    | _, _ => s

end Sys2Proof.Machine
end

