-- ==== Sys2Proof/Machine/HostRings.lean ====
section
/-!
DEFINITION. The host packet rings (R457 to R460), reads of host memory that get no completion (R441), and THREAD_NOTIFY
and COUNTER_READ (R453).
-/

namespace Sys2Proof.Machine

/-- A counter of a receive ring (Table 15-18). -/
def rxCnt (s : State) (r off k : Nat) : State := hostCount s (0x1000 + 0x40 * r + off) k
/-- A counter of a transmit ring (Table 15-18). -/
def txCnt (s : State) (r off k : Nat) : State := hostCount s (0x1200 + 0x40 * r + off) k

/-! ### Receive (R458, R262) -/

/-- A copy is dropped at its ring: the ring counts it, and so does its mirror session; its reference is released. -/
def dropCopy (s : State) (c : RingCopy) : State :=
  let s1 := match c.mirror with
    | some m => mirrorCnt s m 0x10
    | none => s
  unitRelease s1 c.handle 25 67

/-- A copy has been delivered: its session counts it, and its reference is released (R261). -/
def endCopy (s : State) (c : RingCopy) : State :=
  let s1 := match c.mirror with
    | some m => mirrorCnt s m 0x00
    | none => s
  unitRelease s1 c.handle 25 67

/-- The 64-byte header of a receive slot (Table 15-13). -/
def rxHeader (c : RingCopy) (captured dropsBefore : Nat) : Bytes :=
  toLE 2 c.len ++ toLE 2 captured ++ toLE 1 (c.port % 64 + 64 * b2n c.host) ++ toLE 1 (b2n c.mirror.isSome) ++
    toLE 1 (c.domain % 16 + 16 * c.mirror.getD 0) ++ toLE 1 (b2n (decide (captured < c.len)) + 2 * b2n c.marked) ++ time10 c.rxTime ++
    toLE 2 c.stream ++ toLE 1 c.reason ++ zeros 3 ++ toLE 8 c.user ++ toLE 4 c.epoch ++ toLE 4 dropsBefore ++ zeros 24

/-- Whether a receive ring takes a copy now (R458). -/
def rxTakes (s : State) (r : Nat) : Bool := (getRing s false r).enabled && !ringFull (getRing s false r) && isReady s 22

/-- A copy is written to the slot at HEAD of receive ring `r`, the index to MIRROR, and the ring's cause is raised
(R457, R458). -/
def rxWrite (s : State) (r : Nat) (c : RingCopy) (body : Bytes) : State :=
  let g := getRing s false r
  let slot := 256 * g.slotUnits
  let captured := Nat.min c.len (slot - 64)
  let head := (g.head + 1) % ringEntries g
  let s1 := hostWrite s (g.base + slot * (g.head % ringEntries g)) (rxHeader c captured g.dropsBefore ++ slice body 0 captured)
  let s2 := modRing s1 false r (fun x => { x with head := head, dropsBefore := 0 })
  let s3 := rxCnt (rxCnt (rxCnt s2 r 0x00 1) r 0x10 (b2n (decide (captured < c.len)))) r 0x18 captured
  raiseInt (mirrorIndex s3 g head) (8 + r)

/-- RING_COPY_WRITE: the oldest copy that the egress complex delivered is written to its ring, or dropped there. Hawk
takes the copies of ring 0x0F while it runs. -/
def execRingCopyWrite (s0 : State) : Res :=
  .next (match s0.egress.copies with
    | [] => s0
    | c :: rest =>
      let s := { s0 with egress := { s0.egress with copies := rest } }
      if c.ring = 15 then (if s.host.hawkState = 1 then endCopy s c else dropCopy s c)
      else if 8 ≤ c.ring then dropCopy s c
      else if rxTakes s c.ring = false then
        dropCopy (rxCnt (modRing s false c.ring (fun x => { x with dropsBefore := satTo 0xFFFFFFFF (x.dropsBefore + 1) })) c.ring 0x08 1) c
      else
        let rd := hbmRead s 5 1 (bufAddr s c.handle + c.start) c.len
        (match rd.1 with
          | some _ => dropCopy rd.2.2 c
          | none => endCopy (rxWrite rd.2.2 c.ring c (c.bytes.getD rd.2.1)) c))

/-! ### Transmit (R459, R460) -/

/-- The domain that owns transmit ring `r` in the epoch in force (R45). -/
def txOwner (s : State) (r : Nat) : Option Nat :=
  (enabledDomains s.plan.now).find? (fun d => (ringMask s.plan.now d).testBit (8 + r))

/-- KIND of a transmit descriptor: 0 CHAIN, 1 PORT. -/
def txKind (d : Bytes) : Nat := byteAt d 10
/-- LENGTH of a transmit descriptor. -/
def txLen (d : Bytes) : Nat := leAt d 8 2

/-- A reserved field of a transmit descriptor is not 0 (Table 15-14). -/
def txReserved (d : Bytes) : Bool :=
  decide (4 ≤ byteAt d 11) || byteAt d 15 != 0 || byteAt d 23 != 0 ||
    (if txKind d = 0 then byteAt d 14 != 0 else decide (64 ≤ leAt d 12 2) || decide (16 ≤ byteAt d 14) || leAt d 16 2 != 0)

/-- Whether ordering domain `od` lies in the range of domain `dom`. -/
def odInRange (p : PlanCopy) (dom od : Nat) : Bool :=
  let r := orderRange p dom
  decide (r.1 ≤ od) && decide (od < r.1 + r.2)

/-- Checks 1 to 3 of R459: the first failing status. -/
def txCheck (s : State) (r : Nat) (d : Bytes) : Option Nat :=
  let p := s.plan.now
  match txOwner s r with
  | none => some eRights
  | some dom =>
    if txLen d < 60 ∨ 10236 < txLen d ∨ 1 < txKind d ∨ txReserved d then some eArgs
    else if txKind d = 0 then
      (if chainDomain p (leAt d 12 2) ≠ some dom ∨ odInRange p dom (leAt d 16 2) = false then some eArgs else none)
    else if portEnabled p (leAt d 12 2) = false then some eNotFound
    else if portUp s (leAt d 12 2) = false then some eNotReady
    else none

/-- A descriptor completes: STATUS and DONE go back to it, TAIL advances, and the ring's cause is raised when it asks for
that (Table 15-14, R457). -/
def txEnd (s : State) (r st : Nat) (d : Bytes) : State :=
  let g := getRing s true r
  let tail := (g.tail + 1) % ringEntries g
  let s1 := hostWrite s (g.base + 32 * (g.tail % ringEntries g) + 20) (toLE 2 st ++ [1])
  let s2 := modRing { s1 with host := { s1.host with txPending := tblDel s1.host.txPending r } } true r (fun x => { x with tail := tail })
  let s3 := if st = stOk then txCnt (txCnt s2 r 0x00 1) r 0x18 (txLen d) else txCnt s2 r 0x08 1
  let s4 := mirrorIndex s3 g tail
  if (byteAt d 11).testBit 0 then raiseInt s4 (16 + r) else s4

/-- Check 4 of R459: the descriptor takes its buffer, or waits and HOD_WAITS counts. -/
def txAlloc (s : State) (r : Nat) (d : Bytes) : State :=
  let put := fun (x : State) (h : Option Nat) =>
    ({ x with host := { x.host with txPending := tblSet x.host.txPending r { desc := d, handle := h } } } : State)
  match hodAlloc s ((txOwner s r).getD 0) (headroom s.plan.now + txLen d) with
  | (.granted h, s1) => put s1 (some h)
  | (_, s1) => txCnt (put s1 none) r 0x10 1

/-- Whether a transmit ring has a descriptor to read. -/
def txAvailable (s : State) (r : Nat) : Bool :=
  let g := getRing s true r
  g.enabled && isReady s 22 && (tblFind s.host.txPending r).isNone && decide (g.head % ringEntries g ≠ g.tail % ringEntries g)

/-- TX_DESCRIPTOR: the descriptor at TAIL is read and checked, and its buffer is requested (R459). -/
def execTxDescriptor (r : Fin 8) (desc : Bytes) (s : State) : Res :=
  .next (let d := slice desc 0 32
    if txAvailable s r.val = false then s
    else
      match txCheck s r.val d with
      | some st => txEnd s r.val st d
      | none => txAlloc s r.val d)

/-- TX_DESCRIPTOR_RETRY: a descriptor that Hod refused asks again (R459, 4). -/
def execTxDescriptorRetry (r : Fin 8) (s : State) : Res :=
  .next (match tblFind s.host.txPending r.val with
    | some { desc := d, handle := none } => if isReady s 22 then txAlloc s r.val d else s
    | _ => s)

/-- Metadata of a host frame that enters a chain (R460): the parse result is zero but for LENGTH. -/
def txMetadata (d : Bytes) (dom : Nat) : Bytes :=
  zeros 26 ++ toLE 2 (txLen d) ++ zeros 12 ++ toLE 2 (leAt d 16 2) ++ toLE 2 0xFFFF ++ toLE 2 (leAt d 12 2) ++ toLE 1 dom ++ [0] ++ slice d 24 8

/-- A host frame enters its chain: an order-restore entry with SOURCE 64 + r, and the first coat's dispatcher (R460). -/
def txChain (s : State) (r h : Nat) (d : Bytes) : State :=
  let dom := (getWord s h).domain
  let e : OrderEntry := { od := leAt d 16 2, tick := s.now, source := 64 + r, handle := h, domain := dom, epoch := s.plan.epoch }
  match orderEnter s e with
  | (false, s1) => unitRelease s1 h 31 0
  | (true, s1) =>
    let k : Packet := { handle := h, rx := { len := txLen d }, epoch := s.plan.epoch, tick := s.now, source := 64 + r
                        md := txMetadata d dom, delivered := s.now }
    { s1 with cls := { s1.cls with handed := s1.cls.handed ++ [k] } }

/-- The egress descriptor of a PORT frame (Table 8-2). -/
def txEgress (s : State) (h : Nat) (d : Bytes) : Bytes :=
  toLE 4 h ++ toLE 2 (headroom s.plan.now) ++ toLE 2 (txLen d) ++ [0] ++ toLE 1 (leAt d 12 2) ++ zeros 2 ++ toLE 1 (byteAt d 14) ++
    toLE 1 (b2n ((byteAt d 11).testBit 1)) ++ toLE 2 (leAt d 18 2) ++ zeros 16

/-- A host frame goes to egress admission as a direct PORT copy (R460). -/
def txPort (s : State) (h : Nat) (d : Bytes) : State :=
  let i : AdmitItem := { desc := txEgress s h d, epoch := s.plan.epoch, tick := s.now, domain := (getWord s h).domain }
  { s with egress := { s.egress with fifo := s.egress.fifo ++ [i] } }

/-- TX_FRAME_ACCEPT: the frame's last byte is in its buffer, at HEADROOM, and it is admitted (R460). A PORT frame waits
while the admission FIFO is full. Two frames of a ring have different admission slots. -/
def execTxFrameAccept (r : Fin 8) (frame : Bytes) (s0 : State) : Res :=
  .next (match tblFind s0.host.txPending r.val with
    | some { desc := d, handle := some h } =>
      if isReady s0 22 = false ∨ (txKind d = 1 ∧ fifoCapacity ≤ s0.egress.fifo.length) then s0
      else
        let s1 := if (findEntry s0 s0.now (64 + r.val)).isSome then advanceTo s0 (s0.now + 1) else s0
        let s := hbmPut s1 5 1 (bufAddr s1 h + headroom s1.plan.now) (slice frame 0 (txLen d))
        txEnd (if txKind d = 0 then txChain s r.val h d else txPort s h d) r.val stOk d
    | _ => s0)

/-! ### Reads without a completion (R441) -/

/-- DMA_READ_TIMEOUT: a load of the host window fails with E_TIMEOUT, a command whose payload cannot be read completes
with it unexecuted (R450), and a transmit descriptor completes with it and its buffer is freed (R459, 5). -/
def execDmaReadTimeout (who : DmaReader) (s : State) : Res :=
  .next (match who with
    | .thread t entry =>
      let tid := tidNum t
      let host (a : Nat) : Bool := match regionOf a with | some (.host, _, _) => true | _ => false
      let waits (e : SbEntry) : Bool := e.id == entry.val && e.parts.isEmpty &&
        (match e.op with | .load a _ _ => host a | .rload a _ => host a | _ => false)
      (match (getTh s tid).sb.find? waits with
        | some e => longFails (hostCount s 0x38 1) tid eTimeout e
        | none => s)
    | .mailbox mb =>
      let m := getMb s mb.val
      let takes := ((opcodeSpec (leAt m.copied 0 2)).map (·.indIn)).getD false
      if m.run ∧ m.reply.isNone ∧ takes then reply (hostCount s 0x38 1) mb.val eTimeout else s
    | .txRing r =>
      match tblFind s.host.txPending r.val with
      | some { desc := d, handle := some h } =>
        if isReady s 22 then txEnd (unitRelease (hostCount s 0x38 1) h 31 0) r.val eTimeout d else s
      | _ => s)

/-! ### THREAD_NOTIFY and COUNTER_READ (R453) -/

/-- THREAD_NOTIFY: HAWK sets in a thread that the epoch in force binds. -/
def execThreadNotify (mb : MbId) (thread : BitVec 16) (s : State) : Res :=
  .next (if (poolOf s.plan.now thread.toNat).isNone then reply s mb.val eArgs
    else reply (setFlag s thread.toNat 15) mb.val stOk)

/-- COUNTER_READ: words of the control-register range, checked before any read. -/
def execCounterRead (mb : MbId) (addr : BitVec 64) (count : BitVec 32) (ind : Option (BitVec 64)) (s : State) : Res :=
  .next (let a := addr.toNat
    let n := count.toNat
    if n < 1 ∨ (if ind.isSome then 524288 else 62) < n then reply s mb.val eArgs
    else if a % 8 ≠ 0 ∨ a < 0x1300000000 ∨ 0x130FFFFFFF < a + 8 * n - 1 then reply s mb.val eRange
    else replyBulk s mb.val ind ((List.range n).flatMap (fun i => toLE 8 (controlWord s (a - 0x1300000000 + 8 * i)))))

end Sys2Proof.Machine
end

