-- ==== Sys2Proof/Machine/Recovery.lean ====
section
/-!
DEFINITION. Detection, unit restarts and their ends, DEVICE restarts, comparators, FAULT_N and the fault commands
(R494 to R522, R628, R629).
-/

namespace Sys2Proof.Machine

/-! ### Units and what covers them (Tables 17-3 and 17-6) -/

/-- Whether Table 17-6 gives a processor-die unit these indices. -/
def unitExists (l5 l4 : Nat) : Bool :=
  if l5 ≤ 15 then decide (l4 ≤ 40)
  else match l5 with
    | 16 => decide (l4 ≤ 127) | 17 => decide (l4 = 0) | 18 => decide (l4 ≤ 2) | 19 => decide (l4 ≤ 2)
    | 20 => decide (l4 ≤ 3) | 21 => decide (l4 ≤ 3) | 22 => decide (l4 ≤ 5) | 23 => decide (l4 ≤ 6)
    | 24 => decide (l4 ≤ 1) | 25 => decide (l4 ≤ 67) | 26 => decide (l4 ≤ 63) | 27 => decide (l4 ≤ 127)
    | 28 => decide (l4 ≤ 2) | 29 => decide (l4 ≤ 35) | 30 => decide (l4 ≤ 1) | 31 => decide (l4 = 0)
    | _ => false

/-- Whether completion detection covers a unit (R24, R522 kind 4). -/
def completionCovers (s : State) (l5 l4 : Nat) : Bool :=
  unitExists l5 l4 && ((decide (l5 ≤ 15) && decide (l4 ≤ 36) && !clusterFree s l5) || (decide (18 ≤ l5) && decide (l5 ≤ 26)))

/-- A placed fault is met: whether it was there, and the state without it. -/
def takePlanted (s : State) (e : Nat × Nat × Nat) : Bool × State :=
  (s.fault.planted.contains e, { s with fault := { s.fault with planted := s.fault.planted.erase e } })

/-- The port whose lanes include a lane. -/
def portOfLane (p : PlanCopy) (lane : Nat) : Option Nat :=
  (List.range 64).find? (fun n => portEnabled p n && (laneMask p n).testBit lane)

/-- What the start of a restart does outside the unit's own state: a port lane's port re-enters R98 at step 2 (R99), and a
span link returns to TRAINING (Table 17-5). -/
def restartReset (s : State) (u : Loc) : State :=
  if recovering s u = false then s
  else if u.l5 = 16 ∧ u.l4 ≤ 63 then
    (match portOfLane s.plan.now u.l4 with
      | some n => if portUp s n then linkLost s n else s
      | none => s)
  else if u.l5 = 28 ∧ (getSpan s u.l4).st ≠ 0 then spanTraining s u.l4
  else s

/-- An S3 error in a unit, with what the restart it causes does at its start. -/
def unitError (s : State) (cls code : Nat) (l : Loc) (injected : Bool) : State :=
  restartReset (errorIn s 3 cls code l [] injected) (restartUnit l)

/-! ### Detection (R22, R494, R506) -/

/-- SLOT_OVERRUN: a handshake stage of a unit that completion detection covers misses its slot (R22, R24). -/
def execSlotOverrun (l5 : BitVec 6) (l4 : BitVec 8) (l3 : BitVec 10) (l2 : BitVec 12) (s : State) : Res :=
  .next (if s.power.dieOut = false ∨ completionCovers s l5.toNat l4.toNat = false then s
    else
      let t := takePlanted s (4, l5.toNat, l4.toNat)
      unitError t.2 0x08 0x0004 { unitLoc l5.toNat l4.toNat with l3 := l3.toNat, l2 := l2.toNat } t.1)

/-- STEP_STALL: a step of a FREE cluster does not complete within 2 µs: every core that holds an unfinished stage
restarts (Table 17-3). -/
def execStepStall (cluster : ClusterId) (cores : List (Fin 12)) (s : State) : Res :=
  .next (if s.power.dieOut = false ∨ clusterFree s cluster.val = false then s
    else (cores.map (·.val)).eraseDups.foldl (fun x c => unitError x 0x08 0x0005 (unitLoc cluster.val c) false) s)

/-- HEARTBEAT_TIMEOUT: a unit of L5 16 to 30 sends no heartbeat in time (Table 17-3). -/
def execHeartbeatTimeout (l5 : BitVec 6) (l4 : BitVec 8) (s : State) : Res :=
  .next (if s.power.dieOut = false ∨ l5.toNat < 16 ∨ 30 < l5.toNat ∨ unitExists l5.toNat l4.toNat = false ∨
      (l5.toNat = 30 ∧ s.host.hawkState ≠ 1) then s
    else
      let t := takePlanted s (7, l5.toNat, l4.toNat)
      unitError t.2 0x0F 0x0004 (unitLoc l5.toNat l4.toNat) t.1)

/-- The location of a watchdog expiry (R506): the fault manager's core logic. -/
def watchdogLoc : Loc := unitLoc 29 35

/-- WATCHDOG_EXPIRE: the fault manager's heartbeat stays away for 100 µs: the service die stores the record and decides a
DEVICE restart (R506). -/
def execWatchdogExpire (s : State) : Res :=
  .next (if s.power.dieOut = false then s
    else
      let t := takePlanted s (8, 29, 35)
      let loc := locCode s watchdogLoc
      decideDevice (assertFaultN (logRecord t.2
        { ns := recordNs s, sev := 4, cls := 0x0F, code := 0x0004, loc := loc, detail := zeros 9, injected := t.1 })) 0x0F 0x0004 loc)

/-! ### Rebuilding the units (Table 17-5) -/

/-- The state without the placed errors of a unit's memories: a rebuild writes every word whole (R629). -/
def clearUnitMarks (s : State) (f : Loc → Bool) : State :=
  { s with fault := { s.fault with marks := s.fault.marks.filter (fun m => !(decide (m.loc.l6 = 0) && f m.loc)) } }

/-- A core: its threads restart as R318 states, held items are discarded and the cache is reloaded. -/
def coreRestart (s : State) (n c : Nat) : State :=
  let one (x : State) (k : Nat) : State :=
    let tid := 192 * n + 16 * c + k
    let t := getTh x tid
    match t.bind with
    | none => x
    | some b =>
      let held := match t.item with | some it => !it.done | none => false
      let x1 := revokeThread x tid true
      let x2 := dispCnt (if held then faultCount x1 0x50 1 else x1) n 0x38 1
      modTh x2 tid (fun t => { resetRegs t b with nextAt := x2.now })
  let base := 512 * (12 * n + c)
  let s1 := (List.range 16).foldl one s
  clearUnitMarks { s1 with core := { s1.core with
    icache := s1.core.icache.filter (fun l => decide (l.1 < base) || decide (base + 512 ≤ l.1) || l.2.locked) } }
    (fun l => l.l5 == n && l.l4 == c)

/-- A Scrim or Sealer: its ownership ends, and the owner receives FAULT with COPRO_LOST (R380, R521). -/
def copRestart (s : State) (l5 l4 : Nat) : State :=
  let u := 12 * l5 + (l4 - 12) % 12
  let k := (l4 - 12) / 12
  let owner := (getCop s u k).owner
  let s1 := copRelease s u k
  match owner with
  | none => s1
  | some t =>
    let f := drawFree s1
    raiseFault f.2 t (f.1.toNat % 65536) 0x11 (l5 * 256 + l4)

/-- A dispatcher: its on-die and spilled items are discarded (R235). -/
def dispRestart (s : State) (n : Nat) : State :=
  let items := (getCl s n).queues.flatMap (fun q => q.items ++ q.spill)
  let s1 := modCl s n (fun c => { c with queues := [] })
  clearUnitMarks (items.foldl (fun x it => faultCount (discardItem x n it) 0x50 1) s1) (fun l => l.l5 == n && l.l4 == 36)

/-- A delay list: R327, whose record is the restart's own. -/
def delayRestart (s : State) (n : Nat) : State :=
  clearUnitMarks (record (delayLost s n) 2 0x09 0x0002 (unitLoc n 38)) (fun l => l.l5 == n && l.l4 == 38)

/-- A MACsec engine: the port's SAs are erased (code MACSEC_KEYS_LOST). -/
def macsecRestart (s : State) (n : Nat) : State :=
  record { s with ports := { s.ports with sas := s.ports.sas.filter (fun a => a.port ≠ n) } } 3 0x01 0x0003 (unitLoc 16 (64 + n))

/-- A Stencil engine: heads in walk are discarded, contexts are lost with their held fragments (R132), and both graph
copies are rewritten. -/
def stencilRestart (s : State) (e : Nat) : State :=
  let heads := s.stencil.walking.filter (fun k => pipeOf k.rx.port == e)
  let ctxs := s.stencil.ctxs.filter (fun c => c.engine == e)
  let s1 := { s with stencil := {
    walking := s.stencil.walking.filter (fun k => pipeOf k.rx.port != e)
    ctxs := s.stencil.ctxs.filter (fun c => c.engine != e)
    badNodes := s.stencil.badNodes.filter (fun b => b.1 ≠ e) } }
  let s2 := heads.foldl (fun x k => faultCount (unitRelease x k.handle (18 + e) 1) 0x50 1) s1
  let s3 := (ctxs.flatMap (·.held)).foldl (fun x k => faultCount (unitRelease (stencilCnt x e (8 * rFragTimeout) 1) k.handle (18 + e) 1) 0x50 1) s2
  clearUnitMarks s3 (fun l => l.l5 == 18 + e)

/-- A meter refilled from its plan entry: MarkAllFramesRed stays (Table 17-5, R155). -/
def meterRefill (s : State) (m : Nat × MeterSt) : Option (Nat × MeterSt) :=
  if m.2.allRed then
    (meterOf s.plan.now m.1).map (fun e => (m.1, { m.2 with bc := leAt e 24 4 * 8 * meterUnit, be := leAt e 28 4 * 8 * meterUnit }))
  else none

/-- A classifier: its rules, profiles and stream tables are rewritten in both copies and its meters refilled; gate
latches and blocked filters stay. -/
def classifierRestart (s : State) (i : Nat) : State :=
  let gone := s.cls.input.filter (fun k => pipeOf k.rx.port == i)
  let busy := s.cls.busy.filter (fun b => pipeOf b.pkt.rx.port == i)
  let s1 := { s with cls := { s.cls with
    input := s.cls.input.filter (fun k => pipeOf k.rx.port != i)
    busy := s.cls.busy.filter (fun b => pipeOf b.pkt.rx.port != i)
    meters := s.cls.meters.filterMap (meterRefill s)
    bad := s.cls.bad.filter (fun b => b.1 ≠ 20 + i) } }
  let s2 := busy.foldl (fun x b => faultCount (clsDiscard (releaseClaim x b) b.pkt) 0x50 1) s1
  clearUnitMarks (gone.foldl (fun x k => faultCount (clsDiscard x k) 0x50 1) s2) (fun l => l.l5 == 20 + i)

/-- The threads among those that wait for a routine receive FAULT with reason UNIT_RESTART (R503, R521). -/
def routineFaults (s : State) (hs : List RoutineHolder) (revoked : Bool) : State :=
  hs.foldl (fun x h =>
    match h with
    | .thread tid _ => if revoked then x else raiseFault x tid ePartial 0x10 (22 * 256)
    | _ => x) s

/-- The table engine: the pinned table and the cache are rebuilt, the learn queue is discarded, and routines end with
E_PARTIAL (R194); the HBM table stays. -/
def tableRestart (s : State) : State :=
  let waiting := s.table.passWait
  let s1 := { s with table := { s.table with cache := [], learn := [], pinnedBad := [], passWait := [] } }
  let s2 := s1.table.routines.foldl (fun x r => routineFaults (endRoutine x r ePartial r.next) r.holders r.revoked) s1
  let s3 := waiting.foldl (fun x h => answerHolder x h (cmdResult x ePartial 0 0 0) false) s2
  startFlushes (clearUnitMarks (routineFaults s3 waiting false) (fun l => l.l5 == 22))

/-- An egress port scheduler: the port's queued frames are discarded, claims lapse, and the list position follows from
device time. -/
def schedulerRestart (s : State) (n : Nat) : State :=
  let one (x : State) (q : Nat) : State :=
    modQueue ((getQueue x n q).foldl (fun y f => faultCount (unitRelease y f.handle 25 n) 0x50 1) x) n q (fun _ => [])
  let s1 := (List.range 16).foldl one (cbsSync s)
  { s1 with egress := { s1.egress with
    claims := s1.egress.claims.map (fun c => if c.port == n && c.st == 0 then { c with st := 1 } else c)
    gates := tblMod {} s1.egress.gates n (fun g => { g with op := match g.list with | some l => locate l (devNs s1) | none => none }) } }

/-- Egress admission, 802.1CB, PRP and HSR and mirrors: function state as at an epoch change (R253), duplicate tables
emptied; the FIFO stays. -/
def admissionRestart (s : State) : State := { s with egress := { s.egress with fns := [], pairs := [], sample := [] } }

/-- The rebuilding of a unit (R501, step 3). -/
def rebuild (s : State) (u : Loc) : State :=
  let n := u.l5
  if n ≤ 15 then
    (if u.l4 ≤ 11 then coreRestart s n u.l4
    else if u.l4 ≤ 35 then copRestart s n u.l4
    else if u.l4 = 36 then dispRestart s n
    else delayRestart s n)
  else if n = 16 then (if u.l4 ≤ 63 then restartReset s u else macsecRestart s (u.l4 - 64))
  else if n = 18 ∨ n = 19 then stencilRestart s (n - 18)
  else if n = 20 ∨ n = 21 then classifierRestart s (n - 20)
  else if n = 22 then tableRestart s
  else if n = 23 then hodRestartEnd s
  else if n = 25 then (if u.l4 ≤ 63 then schedulerRestart s u.l4 else admissionRestart s)
  else s

/-- Whether a body in the plan store that a unit's rebuild reads differs from its digest (R501, Table 17-3). -/
def storeSpoilt (s : State) (u : Loc) : Bool :=
  s.fault.marks.any (fun m => decide (2 ≤ m.loc.l6) && decide (m.loc.l6 ≤ 5) && decide (2 ≤ m.kind) &&
    Config.storeBody (256 * u.l5 + u.l4) (locCode s m.loc * 2 ^ 32 + m.word))

/-! ### Ends of unit restarts (R501, R502) -/

/-- A unit's READY bits set again (R501, step 4): one that another recovering unit shares sets when that unit is done. -/
def readyAgain (s : State) (r : Recovery) : State :=
  let rest := s.fault.recovering
  let s1 := match r.ready with
    | none => s
    | some b =>
      if rest.any (fun o => unitReadyBit o.loc == some b) then
        { s with fault := { s.fault with recovering := rest.map (fun o => if unitReadyBit o.loc = some b then { o with ready := some b } else o) } }
      else setReady s b true
  if r.cluster = false then s1
  else
    let same (o : Recovery) : Bool := o.loc.l5 == r.loc.l5 && (decide (o.loc.l4 ≤ 11) || decide (o.loc.l4 = 36))
    if s1.fault.recovering.any same then
      { s1 with fault := { s1.fault with recovering := s1.fault.recovering.map (fun o => if same o then { o with cluster := true } else o) } }
    else
      let s2 := { s1 with host := { s1.host with clusterReady := setBit s1.host.clusterReady r.loc.l5 } }
      if s2.host.clusterReady = 0xFFFF then setReady s2 18 true else s2

/-- Whether a recovery has run past its bound (R502). -/
def pastBound (s : State) (r : Recovery) : Bool :=
  match restartBound r.loc.l5 r.loc.l4 with
  | some b => decide (r.since + b < s.now)
  | none => false

/-- A unit restart ends: its holdings are revoked, its state rebuilt, and it rejoins (R500, R501). One past its bound, or
one that reads a spoilt body, becomes a DEVICE restart (R502, Table 17-3). -/
def restartEnds (s : State) (r : Recovery) : State :=
  if pastBound s r then decideDevice s r.cls r.code (locCode s r.loc)
  else if storeSpoilt s r.loc then errorIn s 4 0x0F 0x000C r.loc
  else
    let s1 := faultCount (rebuild s r.loc) 0x48 1
    let s2 := readyAgain { s1 with fault := { s1.fault with recovering := s1.fault.recovering.filter (fun o => o.loc != r.loc) } } r
    match r.mailbox with
    | some n => reply s2 n stOk (toLE 4 (ceilDiv (s.now - r.since) 1600))
    | none => s2

/-- UNIT_RESTART_END: the restart of a unit ends; Hawk's ends with HAWK_RESTART_END. -/
def execUnitRestartEnd (l5 : BitVec 6) (l4 : BitVec 8) (s : State) : Res :=
  .next (let u := restartUnit (unitLoc l5.toNat l4.toNat)
    match s.fault.recovering.find? (fun r => r.loc == u) with
    | none => s
    | some r => if l5.toNat = 30 then s else restartEnds s r)

/-- UNIT_RESTART (Table 17-7). -/
def execUnitRestart (mb : MbId) (loc : BitVec 64) (s : State) : Res :=
  .next (
    let l := locOfCode loc.toNat
    let u := restartUnit l
    if bits loc.toNat 63 60 ≠ s.svc.devId ∨ l.l6 ≠ 0 ∨ unitExists l.l5 l.l4 = false ∨ (restartBound u.l5 u.l4).isNone then reply s mb.val eArgs
    else if recovering s u then reply s mb.val eBusy
    else restartReset (startRestart s u 0x0F 0x0002 (some mb.val)) u)

/-! ### DEVICE restarts (R504 to R507) -/

/-- DEVICE_RESTART: the restart begins 1 ms after the reply (Table 17-7). -/
def execDeviceRestart (mb : MbId) (confirm : BitVec 32) (s : State) : Res :=
  .next (if confirm.toNat ≠ 0x1C32 then reply s mb.val eArgs
    else
      let s1 := match s.fault.commandRestartAt with
        | some _ => s
        | none => { s with fault := { s.fault with commandRestartAt := some (s.now + msTicks 1) } }
      reply s1 mb.val stOk)

/-- DEVICE_RESTART_DECISION: the DEVICE restart that has been decided, or that a command has asked for, is carried out:
the ports and links fall silent and the processor die is held in reset (R505). -/
def execDeviceRestartDecision (s : State) : Res :=
  .next (if s.power.dieOut = false then s
    else
      match s.fault.trigger, s.fault.commandRestartAt with
      | some (cls, code, loc), _ => deviceRestartNow s cls code loc
      | none, some t =>
        let s1 := advanceTo s t
        let loc := locCode s1 { l6 := 0 }
        deviceRestartNow (logRecord s1 { ns := recordNs s1, sev := 4, cls := 0x0F, code := 0x000A, loc := loc, detail := zeros 9 }) 0x0F 0x000A loc
      | none, none => s)

/-! ### Comparators (R515 to R517) -/

/-- The unit that serves comparator number `n`, replaced or not. -/
def servedBy (s : State) (n : Nat) : Nat := (tblFind s.fault.cmpServer n).getD n

/-- Spares that have passed their self-tests and serve nothing. -/
def sparesFree (s : State) : List Nat := [32, 33].filter (fun k => !s.fault.sparesUsed.contains k && !s.fault.cmpFailed.contains k)

/-- A comparator number stays fail-silent: no spare is left (R517). -/
def noSpareFor (s : State) (n : Nat) (inj : Bool) : State :=
  let f := { s.fault with
    noSpare := true, cmpServer := tblSet s.fault.cmpServer n 0xFF, cmpWaiting := s.fault.cmpWaiting.filter (fun w => w.1 ≠ n) }
  record { s with fault := f } 3 0x0F 0x0009 (unitLoc 29 n) [] inj

/-- A comparator or spare is marked failed (R516): its number awaits a spare, or none is left (R517). -/
def comparatorFails (s : State) (k : Nat) (inj : Bool) : State :=
  let s1 := record { s with fault := { s.fault with cmpFailed := s.fault.cmpFailed ++ [k] } } 3 0x0F 0x0007 (unitLoc 29 k) [] inj
  match (List.range 32).find? (fun n => servedBy s1 n == k) with
  | none => s1
  | some n =>
    if (sparesFree s1).length ≤ s1.fault.cmpWaiting.length then noSpareFor s1 n inj
    else { s1 with fault := { s1.fault with cmpWaiting := s1.fault.cmpWaiting ++ [(n, s1.now, devNs s1)] } }

/-- COMPARATOR_SELF_TEST: the millisecond test of one comparator or spare: whether it detects the injected mismatch, and
whether its code is valid (R515). -/
def execComparatorSelfTest (cmp : Fin 34) (detects codeValid : Bool) (s : State) : Res :=
  .next (let k := cmp.val
    if s.power.dieOut = false ∨ s.fault.cmpFailed.contains k then s
    else
      let t := takePlanted s (6, 29, k)
      let s1 := faultCount t.2 0x88 1
      if detects && codeValid && !t.1 then s1 else comparatorFails s1 k t.1)

/-- The longest gate control list of the plan in force. -/
def longestList (p : PlanCopy) : Option GateList :=
  ((List.range 64).filterMap (gateListOf p)).foldl (fun a l =>
    match a with
    | none => some l
    | some b => if b.cycle < l.cycle then some l else some b) none

/-- The beacon tick of the plan-cycle boundary after a failure at tick `at_` and device time `ns` (R516). -/
def boundaryTick (s : State) (at_ ns : Nat) : Nat :=
  match longestList s.plan.now with
  | some l => s.now + ticksTo s (firstStart l ns)
  | none => (at_ / 1600000 + 1) * 1600000

/-- COMPARATOR_REPLACE: at the boundary the lower-numbered spare takes over the pairs of a failed comparator (R516). -/
def execComparatorReplace (cmp : Fin 32) (s0 : State) : Res :=
  .next (let n := cmp.val
    match s0.fault.cmpWaiting.find? (fun w => w.1 == n) with
    | none => s0
    | some (_, at_, ns) =>
      let s := advanceTo s0 (boundaryTick s0 at_ ns)
      match sparesFree s with
      | [] => noSpareFor s n false
      | k :: _ =>
        record { s with fault := { s.fault with
          cmpServer := tblSet s.fault.cmpServer n k
          sparesUsed := s.fault.sparesUsed ++ [k]
          cmpWaiting := s.fault.cmpWaiting.filter (fun w => w.1 ≠ n) } } 0 0x0F 0x0008 (unitLoc 29 n))

/-! ### FAULT_N (R518, R519) -/

/-- The conditions that latch FAULT_N (R519): [0] HBM_FAILED, [1] NO_SPARE, [2] RESTART_HOLD. -/
def latchedMask (s : State) : Nat :=
  b2n ((List.range 4).any (fun n => (tblGet {} s.hbm.stackSet n).st == 3)) + 2 * b2n s.fault.noSpare +
    4 * b2n (match s.svc.restartHoldUntil with | some t => decide (s.now < t) | none => false)

/-- RESTART_HOLD_END: the 10 s after a DEVICE restart are over. -/
def execRestartHoldEnd (s0 : State) : Res :=
  .next (match s0.svc.restartHoldUntil with
    | none => s0
    | some t =>
      let s := advanceTo s0 t
      { s with svc := { s.svc with restartHoldUntil := none } })

/-- FAULT_N_RELEASE (Table 17-7). -/
def execFaultNRelease (mb : MbId) (s : State) : Res :=
  .next (if latchedMask s = 0 then reply { s with svc := { s.svc with faultN := false } } mb.val stOk
    else reply s mb.val eBusy (toLE 1 (latchedMask s)))

/-- The server of a comparator number as FAULT_STATUS shows it. -/
def serverByte (s : State) (n : Nat) : Nat :=
  let k := servedBy s n
  if s.fault.cmpFailed.contains k then 0xFF else k

/-- The 112 bytes of FAULT_STATUS (Table 17-12). -/
def faultStatusBytes (s : State) : Bytes :=
  let locs := (s.fault.recovering.map (fun r => locCode s r.loc)).foldl (fun l x => insertBy id x l) []
  toLE 1 (b2n s.svc.faultN) ++ toLE 1 (latchedMask s) ++ toLE 1 (sparesFree s).length ++ toLE 1 (satTo 255 locs.length) ++
    toLE 4 s.svc.deviceRestarts ++ toLE 1 s.svc.lastClass ++ [0] ++ toLE 2 s.svc.lastCode ++ zeros 4 ++
    (List.range 32).flatMap (fun n => toLE 1 (serverByte s n)) ++ (List.range 8).flatMap (fun i => toLE 8 (locs.getD i 0))

/-- FAULT_STATUS (R628). -/
def execFaultStatus (mb : MbId) (s : State) : Res := .next (reply s mb.val stOk (faultStatusBytes s))

/-! ### FAULT_INJECT (R522, R629) -/

/-- Words of an on-die memory with SECDED, where Tables 17-6 and 17-11 name it; none where a location names none. -/
def secdedWords (l : Loc) : Option Nat :=
  let c := l.l3
  if l.l6 ≠ 0 then none
  else if l.l5 ≤ 15 then
    (if l.l4 ≤ 11 then (if c ≤ 3 then some 1024 else none)
    else if l.l4 = 36 ∨ l.l4 = 38 then some (2 ^ 26)
    else none)
  else if l.l5 = 18 ∨ l.l5 = 19 then (if l.l4 = 0 ∧ c ≤ 1 then some 8192 else none)
  else if l.l5 = 20 then (if l.l4 ≤ 2 ∧ c ≤ 1 then some (2 ^ 26) else none)
  else if l.l5 = 21 then (if l.l4 ≤ 1 ∧ c ≤ 1 then some (2 ^ 26) else none)
  else if l.l5 = 22 then
    (if l.l4 = 3 ∧ c ≤ 7 then some (2 ^ 26) else if l.l4 = 4 ∧ c ≤ 1 then some 262144 else none)
  else if l.l5 = 23 then
    (if l.l4 ≤ 4 ∧ c ≤ 1 then some 8265 else if l.l4 = 5 ∧ c = 0 then some 65536 else if l.l4 = 6 ∧ c ≤ 1 then some 24576 else none)
  else if l.l5 = 24 then (if l.l4 = 0 ∧ c ≤ 1 then some (2 ^ 26) else none)
  else if l.l5 = 26 then (if l.l4 ≤ 63 ∧ c ≤ 1 then some (2 ^ 26) else none)
  else none

/-- Whether a location names a bit of an HBM stack (R520). -/
def hbmLocOk (l : Loc) : Bool :=
  decide (2 ≤ l.l6) && decide (l.l6 ≤ 5) && decide (l.l5 < 16) && decide (l.l4 < 2) && decide (l.l3 < 32) &&
    decide (l.l2 * 2 ^ 20 + l.l1 < 16384 * 8192)

/-- The address of the byte that holds a bit of an HBM stack: Table 14-1 and R406 turned round. -/
def hbmAddrOf (l : Loc) : Nat :=
  let v := l.l2 * 2 ^ 20 + l.l1
  let row := v / 8192
  let word := v % 8192 / 64
  let hi := row * 2 ^ 22
  hi + word / 8 * 2 ^ 18 + (l.l3 ^^^ bits hi 33 29) * 2 ^ 13 + ((l.l4 * 64 + l.l5 * 4 + (l.l6 - 2)) ^^^ bits hi 28 22) * 2 ^ 6 +
    word % 8 * 8 + v % 64 / 8

/-- A mark put in a word: a further wrong bit makes two. -/
def addMark (s : State) (m : ErrorMark) : State :=
  match findMark s m.loc m.word with
  | none => { s with fault := { s.fault with marks := s.fault.marks ++ [m] } }
  | some o =>
    let s1 := clearMark s m.loc m.word
    { s1 with fault := { s1.fault with marks := s1.fault.marks ++ [{ m with kind := if m.kind = 3 then 3 else Nat.max 2 o.kind }] } }

/-- A word error of `kind` wrong bits is placed: the word index of an on-die memory, or of an HBM row. -/
def placeWord (s : State) (l : Loc) (kind : Nat) : Option State :=
  let w := (l.l2 * 2 ^ 20 + l.l1) / 72
  if hbmLocOk l then
    let x := hbmWordLoc (hbmAddrOf l)
    some (addMark s { loc := x.1, word := x.2, kind := kind })
  else
    match secdedWords l with
    | some n => if l.l1 < 1048575 ∧ l.l2 < 4095 ∧ w < n then some (addMark s { loc := { unitLoc l.l5 l.l4 with l3 := l.l3 }, word := w, kind := kind }) else none
    | none => none

/-- A parity error is placed (Table 17-3): in a coprocessor's register, or by a flipped bit of a table entry. -/
def placeParity (s : State) (l : Loc) : Option State :=
  if l.l6 = 0 ∧ l.l5 ≤ 15 ∧ 12 ≤ l.l4 ∧ l.l4 ≤ 35 then
    let w := (l.l2 * 2 ^ 20 + l.l1) / 72
    if w < (if l.l4 ≤ 23 then 8 else 16) then some (addMark s { loc := unitLoc l.l5 l.l4, word := w, kind := 3 }) else none
  else if hbmLocOk l then
    let a := hbmAddrOf l
    if 0x0F90000000 ≤ a ∧ a ≤ 0x0FCFFFFFFF then
      let old := byteAt (memBytes s.mem a 1) 0
      let x := hbmWordLoc a
      some (addMark { s with mem := memWrite s.mem a [BitVec.ofNat 8 (old ^^^ 2 ^ ((l.l2 * 2 ^ 20 + l.l1) % 8))] }
        { loc := x.1, word := x.2, kind := 3 })
    else none
  else none

/-- A fault of kinds 4, 6, 7 or 8 is placed at a unit. -/
def plant (s : State) (kind l5 l4 : Nat) : Option State :=
  some { s with fault := { s.fault with planted := s.fault.planted ++ [(kind, l5, l4)] } }

/-- The fault that FAULT_INJECT places; none when KIND does not fit the location. -/
def placeFault (s : State) (kind : Nat) (l : Loc) (index : Nat) : Option State :=
  match kind with
  | 1 => placeWord s l 1
  | 2 => placeWord s l 2
  | 3 => placeParity s l
  | 4 => if l.l6 = 0 ∧ completionCovers s l.l5 l.l4 then plant s 4 l.l5 l.l4 else none
  | 5 => if index < 512 then some { s with fault := { s.fault with digestFlips := s.fault.digestFlips ++ [index] } } else none
  | 6 => if l.l6 = 0 ∧ l.l5 = 29 ∧ l.l4 ≤ 33 then plant s 6 29 l.l4 else none
  | 7 => if l.l6 = 0 ∧ 16 ≤ l.l5 ∧ l.l5 ≤ 30 ∧ unitExists l.l5 l.l4 then plant s 7 l.l5 l.l4 else none
  | 8 => if l.l6 = 0 ∧ l.l5 = 29 then plant s 8 29 35 else none
  | _ => none

/-- FAULT_INJECT (Table 17-7). -/
def execFaultInject (mb : MbId) (kind : BitVec 8) (loc : BitVec 64) (index : BitVec 16) (s : State) : Res :=
  .next (match (if kind.toNat ≠ 5 ∧ bits loc.toNat 63 60 ≠ s.svc.devId then none else placeFault s kind.toNat (locOfCode loc.toNat) index.toNat) with
    | some s1 => reply s1 mb.val stOk
    | none => reply s mb.val eArgs)

end Sys2Proof.Machine
end

