-- ==== Sys2Proof/Machine/Threads.lean ====
section
/-!
DEFINITION. The rows of the operation table that a thread issues, each the issue of the word of that row, and the events
of a thread.
-/

namespace Sys2Proof.Machine

/-- LOOKUP: looks a key up in the forwarding table (R175). -/
def execLookup (tid : Tid) (s : State) : Res := .next (issue s (tidNum tid) .lookup)

/-- LEARN: posts a key to the learn unit (R179). -/
def execLearn (tid : Tid) (s : State) : Res := .next (issue s (tidNum tid) .learn)

/-- BUF_ALLOC: asks Hod for a buffer (R212). -/
def execBufAlloc (tid : Tid) (s : State) : Res := .next (issue s (tidNum tid) .bufAlloc)

/-- BUF_HOLD: takes a reference (R219). -/
def execBufHold (tid : Tid) (s : State) : Res := .next (issue s (tidNum tid) .bufHold)

/-- BUF_RELEASE: gives a reference back (R219). -/
def execBufRelease (tid : Tid) (s : State) : Res := .next (issue s (tidNum tid) .bufRelease)

/-- EGRESS_POST: posts a descriptor under the held entry, or directly (R234, R239). -/
def execEgressPost (tid : Tid) (s : State) : Res := .next (issue s (tidNum tid) .egressPost)

/-- NEXT: ends the item and swaps in the shadow (R303, R304). -/
def execNext (tid : Tid) (s : State) : Res := .next (issue s (tidNum tid) .next)

/-- PASS: hands the item to the next coat (R306). -/
def execPass (tid : Tid) (s : State) : Res := .next (issue s (tidNum tid) .pass)

/-- WAIT: waits for an armed event (R314). -/
def execWait (tid : Tid) (s : State) : Res := .next (issue s (tidNum tid) .wait)

/-- SLEEP: waits n list ticks (R325). -/
def execSleep (tid : Tid) (s : State) : Res := .next (issue s (tidNum tid) .sleep)

/-- CHSEND: sends a message (R320). -/
def execChsend (tid : Tid) (s : State) : Res := .next (issue s (tidNum tid) .chsend)

/-- CHRECV: takes a message (R321). -/
def execChrecv (tid : Tid) (s : State) : Res := .next (issue s (tidNum tid) .chrecv)

/-- SIGNAL: sets a SOFT flag of a thread (R322). -/
def execSignal (tid : Tid) (s : State) : Res := .next (issue s (tidNum tid) .signal)

/-- SRLD: loads a shared register (R323). -/
def execSrld (tid : Tid) (s : State) : Res := .next (issue s (tidNum tid) .srld)

/-- SRST: stores a shared register (R323). -/
def execSrst (tid : Tid) (s : State) : Res := .next (issue s (tidNum tid) .srst)

/-- SRADD: adds to a shared register (R323). -/
def execSradd (tid : Tid) (s : State) : Res := .next (issue s (tidNum tid) .sradd)

/-- SRSWAP: exchanges with a shared register (R323). -/
def execSrswap (tid : Tid) (s : State) : Res := .next (issue s (tidNum tid) .srswap)

/-- TMRSET: inserts a delay-list entry (R325). -/
def execTmrset (tid : Tid) (s : State) : Res := .next (issue s (tidNum tid) .tmrset)

/-- TMRCAN: cancels a delay-list entry (R325). -/
def execTmrcan (tid : Tid) (s : State) : Res := .next (issue s (tidNum tid) .tmrcan)

/-- TMRPOP: takes a due tag (R325). -/
def execTmrpop (tid : Tid) (s : State) : Res := .next (issue s (tidNum tid) .tmrpop)

/-- TRAP: raises the TRAP exception (R317). -/
def execTrap (tid : Tid) (s : State) : Res := .next (issue s (tidNum tid) .trap)

/-- RETX: returns from a handler (R350). -/
def execRetx (tid : Tid) (s : State) : Res := .next (issue s (tidNum tid) .retx)

/-- PAIRED_WORD: two half operations (R333). -/
def execPairedWord (tid : Tid) (s : State) : Res := .next (issue s (tidNum tid) .paired)

/-- NOP, and every word or instruction whose encoding names no row: that raises ILLEGAL or CODE (R335, Table 10-9). -/
def execNop (tid : Tid) (s : State) : Res := .next (issue s (tidNum tid) .nop)

/-- ALU: a Skim ALU word, or Render ADD to ROL (R336, R364). -/
def execAlu (tid : Tid) (s : State) : Res := .next (issue s (tidNum tid) .alu)

/-- INSH: shifts and inserts 16 bits (R336). -/
def execInsh (tid : Tid) (s : State) : Res := .next (issue s (tidNum tid) .insh)

/-- LD: loads through a bank (R337). -/
def execLd (tid : Tid) (s : State) : Res := .next (issue s (tidNum tid) .ld)

/-- ST: stores through a bank (R337). -/
def execSt (tid : Tid) (s : State) : Res := .next (issue s (tidNum tid) .st)

/-- TAS: reads a byte and writes 1 (R338). -/
def execTas (tid : Tid) (s : State) : Res := .next (issue s (tidNum tid) .tas)

/-- LOOP: starts a hardware loop (R343, R367). -/
def execLoop (tid : Tid) (s : State) : Res := .next (issue s (tidNum tid) .loop)

/-- SETLC: writes LC (R346). -/
def execSetlc (tid : Tid) (s : State) : Res := .next (issue s (tidNum tid) .setlc)

/-- BR: branches on a condition (R340, R366). -/
def execBr (tid : Tid) (s : State) : Res := .next (issue s (tidNum tid) .br)

/-- BAL: branches and links (R340, R366). -/
def execBal (tid : Tid) (s : State) : Res := .next (issue s (tidNum tid) .bal)

/-- JR: jumps to a register (R340, R366). -/
def execJr (tid : Tid) (s : State) : Res := .next (issue s (tidNum tid) .jr)

/-- MODE: changes the instruction mode after its shadow (R347, R368). -/
def execMode (tid : Tid) (s : State) : Res := .next (issue s (tidNum tid) .mode)

/-- FENCE: waits for stores and long loads (R277). -/
def execFence (tid : Tid) (s : State) : Res := .next (issue s (tidNum tid) .fence)

/-- MFS: reads a status register (R339). -/
def execMfs (tid : Tid) (s : State) : Res := .next (issue s (tidNum tid) .mfs)

/-- MTS: writes a status register (R339). -/
def execMts (tid : Tid) (s : State) : Res := .next (issue s (tidNum tid) .mts)

/-- FMOV: moves F (R339). -/
def execFmov (tid : Tid) (s : State) : Res := .next (issue s (tidNum tid) .fmov)

/-- MOV: moves between operands (R361). -/
def execMov (tid : Tid) (s : State) : Res := .next (issue s (tidNum tid) .mov)

/-- MUL: multiplies (R364). -/
def execMul (tid : Tid) (s : State) : Res := .next (issue s (tidNum tid) .mul)

/-- BSWAP: reverses bytes (R364). -/
def execBswap (tid : Tid) (s : State) : Res := .next (issue s (tidNum tid) .bswap)

/-- CMP: compares (R364). -/
def execCmp (tid : Tid) (s : State) : Res := .next (issue s (tidNum tid) .cmp)

/-- TST: tests bits (R364). -/
def execTst (tid : Tid) (s : State) : Res := .next (issue s (tidNum tid) .tst)

/-- LEA: writes an address (R358). -/
def execLea (tid : Tid) (s : State) : Res := .next (issue s (tidNum tid) .lea)

/-- LR: load-reserved (R369). -/
def execLr (tid : Tid) (s : State) : Res := .next (issue s (tidNum tid) .lr)

/-- SC: store-conditional (R370). -/
def execSc (tid : Tid) (s : State) : Res := .next (issue s (tidNum tid) .sc)

/-- SKW: runs an embedded Skim word (R365). -/
def execSkw (tid : Tid) (s : State) : Res := .next (issue s (tidNum tid) .skw)

/-- BMOVE: moves elements (R373). -/
def execBmove (tid : Tid) (s : State) : Res := .next (issue s (tidNum tid) .bmove)

/-- BFILL: fills elements (R373). -/
def execBfill (tid : Tid) (s : State) : Res := .next (issue s (tidNum tid) .bfill)

/-- BCMP: compares elements (R373). -/
def execBcmp (tid : Tid) (s : State) : Res := .next (issue s (tidNum tid) .bcmp)

/-- BSUM: sums elements (R373). -/
def execBsum (tid : Tid) (s : State) : Res := .next (issue s (tidNum tid) .bsum)

/-- BSCAN: scans elements (R373). -/
def execBscan (tid : Tid) (s : State) : Res := .next (issue s (tidNum tid) .bscan)

/-- COP: starts a coprocessor function (R382). -/
def execCop (tid : Tid) (s : State) : Res := .next (issue s (tidNum tid) .cop)

/-- CMOV: moves a coprocessor register (R383). -/
def execCmov (tid : Tid) (s : State) : Res := .next (issue s (tidNum tid) .cmov)

/-- CSAVE: saves a coprocessor context (R384). -/
def execCsave (tid : Tid) (s : State) : Res := .next (issue s (tidNum tid) .csave)

/-- CRESTORE: restores a coprocessor context (R384). -/
def execCrestore (tid : Tid) (s : State) : Res := .next (issue s (tidNum tid) .crestore)

/-- ACQUIRE: acquires a lock or queues for it (R396). -/
def execAcquire (tid : Tid) (s : State) : Res := .next (issue s (tidNum tid) .acquire)

/-- TRY: takes a lock if it is free (R396). -/
def execTryLock (tid : Tid) (s : State) : Res := .next (issue s (tidNum tid) .try_)

/-- RELEASE: releases a lock (R398). -/
def execRelease (tid : Tid) (s : State) : Res := .next (issue s (tidNum tid) .release)

/-- FORCE: forces a lock on (R400). -/
def execForce (tid : Tid) (s : State) : Res := .next (issue s (tidNum tid) .force)

/-! ### Events of a thread -/

/-- LONG_OP_COMPLETE: a long operation of the thread completes (R273, R275). -/
def execLongOpComplete (tid : Tid) (entry : Fin 17) (host : BitVec 64) (s : State) : Res := .next (longOpComplete s (tidNum tid) entry.val host)
/-- STORE_PERFORMED: a posted store is performed (R276). -/
def execStorePerformed (tid : Tid) (index : Fin 32) (s : State) : Res := .next (storePerformed s (tidNum tid) index.val)
/-- EVENT_DELIVERY: an armed event interrupts the thread (R315, R375). -/
def execEventDelivery (tid : Tid) (s : State) : Res := .next (eventDelivery s (tidNum tid))
/-- THREAD_WAKE: a blocked thread goes on (R314). -/
def execThreadWake (tid : Tid) (s : State) : Res := .next (threadWake s (tidNum tid))
/-- TIMER_DUE: delay-list entries fall due (R326). -/
def execTimerDue (cluster : ClusterId) (s : State) : Res := .next (timerDue s cluster.val)
/-- RESERVATION_EXPIRE: the thread's reservation is lost (R371). -/
def execReservationExpire (tid : Tid) (s : State) : Res := .next (reservationExpire s (tidNum tid))
/-- BLOCK_ELEMENT_DONE: an element of the thread's block instruction completes (R374). -/
def execBlockElementDone (tid : Tid) (s : State) : Res := .next (blockElementDone s (tidNum tid))
/-- SLOT_TABLE_SWITCH: every core takes its new slot table (R295). -/
def execSlotTableSwitch (s : State) : Res := .next (slotTableSwitch s)
/-- ICACHE_FILL_DONE: the thread's missed line is filled (R280). -/
def execIcacheFillDone (tid : Tid) (s : State) : Res := .next (icacheFillDone s (tidNum tid))
/-- ICACHE_RELOAD: the thread's bad line is reloaded (R282). -/
def execIcacheReload (tid : Tid) (s : State) : Res := .next (icacheReload s (tidNum tid))

/-! ### Table commands (R191 to R193) -/

/-- A table command of a mailbox, or of the thread whose due word is the TCMD. -/
def tableRow (s : State) (who : TblSource) (op : Nat) : State :=
  match who with
  | .mailbox mb cmd => mailboxTable s mb.val op cmd
  | .thread tid => issue s (tidNum tid) (.tcmd op)

/-- SEARCH (Table 6-9). -/
def execSearch (who : TblSource) (s : State) : Res := .next (tableRow s who 1)

/-- NEXT of the table (Table 6-9). -/
def execTableNext (who : TblSource) (s : State) : Res := .next (tableRow s who 2)

/-- INSERT (Table 6-9). -/
def execInsert (who : TblSource) (s : State) : Res := .next (tableRow s who 3)

/-- DELETE (Table 6-9). -/
def execDelete (who : TblSource) (s : State) : Res := .next (tableRow s who 4)

/-- FLUSH_BY_PORT (Table 6-9). -/
def execFlushByPort (who : TblSource) (s : State) : Res := .next (tableRow s who 5)

/-- INVALIDATE (Table 6-9). -/
def execInvalidate (who : TblSource) (s : State) : Res := .next (tableRow s who 6)

/-- AGE_NOW (Table 6-9). -/
def execAgeNow (who : TblSource) (s : State) : Res := .next (tableRow s who 7)

/-- TABLE_STATUS (R626): a mailbox command; a thread that asks for it gets E_RIGHTS. -/
def execTableStatus (who : TblSource) (s : State) : Res :=
  .next (match who with
    | .mailbox mb _ => whenReady s mb.val 10 (fun s => reply s mb.val stOk (tableStatus s))
    | .thread tid => issue s (tidNum tid) (.tcmd 8))

end Sys2Proof.Machine
end

