-- ==== Sys2Proof/Machine/Dispatch.lean ====
section
/-!
DEFINITION. The dispatch of commands to their meanings.
-/

namespace Sys2Proof.Machine

/-- The effect of a command on everything but the queue. -/
def exec (i : Instr) (s : State) : Host.Outcome State Fault Refusal :=
  match i with
  -- The plan and its commit
  | .planStageBegin mb size => Sys2Proof.Machine.execPlanStageBegin mb size s
  | .planStageData mb off len payload => Sys2Proof.Machine.execPlanStageData mb off len payload s
  | .planStageEnd mb => Sys2Proof.Machine.execPlanStageEnd mb s
  | .planCheck mb => Sys2Proof.Machine.execPlanCheck mb s
  | .planCommit mb args => Sys2Proof.Machine.execPlanCommit mb args s
  | .planAbort mb => Sys2Proof.Machine.execPlanAbort mb s
  | .planStatus mb => Sys2Proof.Machine.execPlanStatus mb s
  | .commitCheckDone => Sys2Proof.Machine.execCommitCheckDone s
  | .commitEntropyReady => Sys2Proof.Machine.execCommitEntropyReady s
  | .commitPrepareDone => Sys2Proof.Machine.execCommitPrepareDone s
  | .epochInstant => Sys2Proof.Machine.execEpochInstant s
  | .epochRetire => Sys2Proof.Machine.execEpochRetire s
  | .groupDecisionPoint => Sys2Proof.Machine.execGroupDecisionPoint s
  | .prepared link => Sys2Proof.Machine.execPrepared link s
  | .abort link => Sys2Proof.Machine.execAbort link s
  | .preparedAck link => Sys2Proof.Machine.execPreparedAck link s
  -- Ports and device time
  | .rxFrame port frame lost fecBad => Sys2Proof.Machine.execRxFrame port frame lost fecBad s
  | .mmFragmentRx port start frameCount fragCount data => Sys2Proof.Machine.execMmFragmentRx port start frameCount fragCount data s
  | .linkUp port => Sys2Proof.Machine.execLinkUp port s
  | .anRestart port => Sys2Proof.Machine.execAnRestart port s
  | .linkLoss port => Sys2Proof.Machine.execLinkLoss port s
  | .verifyTimeout port => Sys2Proof.Machine.execVerifyTimeout port s
  | .verifyResponseRx port respond => Sys2Proof.Machine.execVerifyResponseRx port respond s
  | .txFrame port => Sys2Proof.Machine.execTxFrame port s
  | .portStatus mb port => Sys2Proof.Machine.execPortStatus mb port s
  | .portRestart mb port => Sys2Proof.Machine.execPortRestart mb port s
  | .portLoopback mb port mode => Sys2Proof.Machine.execPortLoopback mb port mode s
  | .portCounters mb port first count => Sys2Proof.Machine.execPortCounters mb port first count s
  | .macsecSaInstall mb args => Sys2Proof.Machine.execMacsecSaInstall mb args s
  | .macsecTxSelect mb port an => Sys2Proof.Machine.execMacsecTxSelect mb port an s
  | .macsecSaErase mb port dir sci an => Sys2Proof.Machine.execMacsecSaErase mb port dir sci an s
  | .macsecStatus mb port => Sys2Proof.Machine.execMacsecStatus mb port s
  | .timeGet mb => Sys2Proof.Machine.execTimeGet mb s
  | .timeSet mb sec ns frac => Sys2Proof.Machine.execTimeSet mb sec ns frac s
  | .timeOffset mb ns frac => Sys2Proof.Machine.execTimeOffset mb ns frac s
  | .timeFreq mb adj => Sys2Proof.Machine.execTimeFreq mb adj s
  | .timeStatus mb => Sys2Proof.Machine.execTimeStatus mb s
  | .txTsRead mb port max => Sys2Proof.Machine.execTxTsRead mb port max s
  | .hawkServoCorrection freq corrNs frac offsetNs => Sys2Proof.Machine.execHawkServoCorrection freq corrNs frac offsetNs s
  | .ppsOutEdge => Sys2Proof.Machine.execPpsOutEdge s
  | .ppsInEdge rising => Sys2Proof.Machine.execPpsInEdge rising s
  | .refCheck deviationPpm stopped => Sys2Proof.Machine.execRefCheck deviationPpm stopped s
  | .timeReady => Sys2Proof.Machine.execTimeReady s
  | .hodAllocAnswer => Sys2Proof.Machine.execHodAllocAnswer s
  | .txComplete port => Sys2Proof.Machine.execTxComplete port s
  -- Parse graph and classification
  | .parseComplete => Sys2Proof.Machine.execParseComplete s
  | .fragContextExpire engine key => Sys2Proof.Machine.execFragContextExpire engine key s
  | .parseNodeRepair engine node => Sys2Proof.Machine.execParseNodeRepair engine node s
  | .classifyEnter pipe => Sys2Proof.Machine.execClassifyEnter pipe s
  | .classifyHandon => Sys2Proof.Machine.execClassifyHandon s
  | .classifyScrub => Sys2Proof.Machine.execClassifyScrub s
  | .classifyRewriteDone => Sys2Proof.Machine.execClassifyRewriteDone s
  | .streamGateReopen mb gate => Sys2Proof.Machine.execStreamGateReopen mb gate s
  | .streamFilterUnblock mb filter => Sys2Proof.Machine.execStreamFilterUnblock mb filter s
  | .meterClearRed mb meter => Sys2Proof.Machine.execMeterClearRed mb meter s
  -- Order restore and egress
  | .orderRelease => Sys2Proof.Machine.execOrderRelease s
  | .orderAgeClose od => Sys2Proof.Machine.execOrderAgeClose od s
  | .egressAdmit => Sys2Proof.Machine.execEgressAdmit s
  | .gateEvent port => Sys2Proof.Machine.execGateEvent port s
  | .gateListSwitch port => Sys2Proof.Machine.execGateListSwitch port s
  | .transmitOpportunity port => Sys2Proof.Machine.execTransmitOpportunity port s
  | .cbRecoveryReset fn => Sys2Proof.Machine.execCbRecoveryReset fn s
  | .cbLatentTest fn => Sys2Proof.Machine.execCbLatentTest fn s
  | .dupEntryExpire pair => Sys2Proof.Machine.execDupEntryExpire pair s
  | .queueAgeDrop port queue => Sys2Proof.Machine.execQueueAgeDrop port queue s
  -- Buffers
  | .headCacheRefill pool => Sys2Proof.Machine.execHeadCacheRefill pool s
  | .bundleReadDone pool lost => Sys2Proof.Machine.execBundleReadDone pool lost s
  | .headCacheWriteout pool => Sys2Proof.Machine.execHeadCacheWriteout pool s
  | .chainSweepDone pool chain => Sys2Proof.Machine.execChainSweepDone pool chain s
  | .unlinkedSweep pool => Sys2Proof.Machine.execUnlinkedSweep pool s
  -- Forwarding tables
  | .configCleanup => Sys2Proof.Machine.execConfigCleanup s
  | .lookup tid => Sys2Proof.Machine.execLookup tid s
  | .cacheLineExpire => Sys2Proof.Machine.execCacheLineExpire s
  | .learn tid => Sys2Proof.Machine.execLearn tid s
  | .learnApply => Sys2Proof.Machine.execLearnApply s
  | .learnRatePeriod => Sys2Proof.Machine.execLearnRatePeriod s
  | .ageClockTick => Sys2Proof.Machine.execAgeClockTick s
  | .ageingPassStart => Sys2Proof.Machine.execAgeingPassStart s
  | .routineChunk n => Sys2Proof.Machine.execRoutineChunk n s
  | .tableEntryRepair => Sys2Proof.Machine.execTableEntryRepair s
  | .pinnedScrub => Sys2Proof.Machine.execPinnedScrub s
  | .search who => Sys2Proof.Machine.execSearch who s
  | .tableNext who => Sys2Proof.Machine.execTableNext who s
  | .insert who => Sys2Proof.Machine.execInsert who s
  | .delete who => Sys2Proof.Machine.execDelete who s
  | .flushByPort who => Sys2Proof.Machine.execFlushByPort who s
  | .invalidate who => Sys2Proof.Machine.execInvalidate who s
  | .ageNow who => Sys2Proof.Machine.execAgeNow who s
  | .tableStatus who => Sys2Proof.Machine.execTableStatus who s
  -- Threads, dispatch and events
  | .bufAlloc tid => Sys2Proof.Machine.execBufAlloc tid s
  | .bufHold tid => Sys2Proof.Machine.execBufHold tid s
  | .bufRelease tid => Sys2Proof.Machine.execBufRelease tid s
  | .egressPost tid => Sys2Proof.Machine.execEgressPost tid s
  | .next tid => Sys2Proof.Machine.execNext tid s
  | .pass tid => Sys2Proof.Machine.execPass tid s
  | .wait tid => Sys2Proof.Machine.execWait tid s
  | .sleep tid => Sys2Proof.Machine.execSleep tid s
  | .chsend tid => Sys2Proof.Machine.execChsend tid s
  | .chrecv tid => Sys2Proof.Machine.execChrecv tid s
  | .signal tid => Sys2Proof.Machine.execSignal tid s
  | .srld tid => Sys2Proof.Machine.execSrld tid s
  | .srst tid => Sys2Proof.Machine.execSrst tid s
  | .sradd tid => Sys2Proof.Machine.execSradd tid s
  | .srswap tid => Sys2Proof.Machine.execSrswap tid s
  | .tmrset tid => Sys2Proof.Machine.execTmrset tid s
  | .tmrcan tid => Sys2Proof.Machine.execTmrcan tid s
  | .tmrpop tid => Sys2Proof.Machine.execTmrpop tid s
  | .trap tid => Sys2Proof.Machine.execTrap tid s
  | .retx tid => Sys2Proof.Machine.execRetx tid s
  | .pairedWord tid => Sys2Proof.Machine.execPairedWord tid s
  | .nop tid => Sys2Proof.Machine.execNop tid s
  | .alu tid => Sys2Proof.Machine.execAlu tid s
  | .insh tid => Sys2Proof.Machine.execInsh tid s
  | .ld tid => Sys2Proof.Machine.execLd tid s
  | .st tid => Sys2Proof.Machine.execSt tid s
  | .tas tid => Sys2Proof.Machine.execTas tid s
  | .loop tid => Sys2Proof.Machine.execLoop tid s
  | .setlc tid => Sys2Proof.Machine.execSetlc tid s
  | .br tid => Sys2Proof.Machine.execBr tid s
  | .bal tid => Sys2Proof.Machine.execBal tid s
  | .jr tid => Sys2Proof.Machine.execJr tid s
  | .mode tid => Sys2Proof.Machine.execMode tid s
  | .fence tid => Sys2Proof.Machine.execFence tid s
  | .mfs tid => Sys2Proof.Machine.execMfs tid s
  | .mts tid => Sys2Proof.Machine.execMts tid s
  | .fmov tid => Sys2Proof.Machine.execFmov tid s
  | .mov tid => Sys2Proof.Machine.execMov tid s
  | .mul tid => Sys2Proof.Machine.execMul tid s
  | .bswap tid => Sys2Proof.Machine.execBswap tid s
  | .cmp tid => Sys2Proof.Machine.execCmp tid s
  | .tst tid => Sys2Proof.Machine.execTst tid s
  | .lea tid => Sys2Proof.Machine.execLea tid s
  | .lr tid => Sys2Proof.Machine.execLr tid s
  | .sc tid => Sys2Proof.Machine.execSc tid s
  | .skw tid => Sys2Proof.Machine.execSkw tid s
  | .bmove tid => Sys2Proof.Machine.execBmove tid s
  | .bfill tid => Sys2Proof.Machine.execBfill tid s
  | .bcmp tid => Sys2Proof.Machine.execBcmp tid s
  | .bsum tid => Sys2Proof.Machine.execBsum tid s
  | .bscan tid => Sys2Proof.Machine.execBscan tid s
  | .cop tid => Sys2Proof.Machine.execCop tid s
  | .cmov tid => Sys2Proof.Machine.execCmov tid s
  | .csave tid => Sys2Proof.Machine.execCsave tid s
  | .crestore tid => Sys2Proof.Machine.execCrestore tid s
  | .acquire tid => Sys2Proof.Machine.execAcquire tid s
  | .tryLock tid => Sys2Proof.Machine.execTryLock tid s
  | .release tid => Sys2Proof.Machine.execRelease tid s
  | .force tid => Sys2Proof.Machine.execForce tid s
  | .longOpComplete tid entry host => Sys2Proof.Machine.execLongOpComplete tid entry host s
  | .storePerformed tid index => Sys2Proof.Machine.execStorePerformed tid index s
  | .eventDelivery tid => Sys2Proof.Machine.execEventDelivery tid s
  | .threadWake tid => Sys2Proof.Machine.execThreadWake tid s
  | .dispatchEnqueue => Sys2Proof.Machine.execDispatchEnqueue s
  | .unspill cluster pool => Sys2Proof.Machine.execUnspill cluster pool s
  | .dispatchFill cluster => Sys2Proof.Machine.execDispatchFill cluster s
  | .timerDue cluster => Sys2Proof.Machine.execTimerDue cluster s
  | .reservationExpire tid => Sys2Proof.Machine.execReservationExpire tid s
  | .blockElementDone tid => Sys2Proof.Machine.execBlockElementDone tid s
  | .slotTableSwitch => Sys2Proof.Machine.execSlotTableSwitch s
  | .icacheFillDone tid => Sys2Proof.Machine.execIcacheFillDone tid s
  | .icacheReload tid => Sys2Proof.Machine.execIcacheReload tid s
  -- Locks and keys
  | .lockGrant => Sys2Proof.Machine.execLockGrant s
  | .lockWaitTimeout lock => Sys2Proof.Machine.execLockWaitTimeout lock s
  | .lockHoldLong lock => Sys2Proof.Machine.execLockHoldLong lock s
  | .lockStatus mb lock => Sys2Proof.Machine.execLockStatus mb lock s
  | .lockForceRelease mb lock => Sys2Proof.Machine.execLockForceRelease mb lock s
  | .lockGroupStatus mb group => Sys2Proof.Machine.execLockGroupStatus mb group s
  | .sealerKeyInstall mb index domain use wrapped => Sys2Proof.Machine.execSealerKeyInstall mb index domain use wrapped s
  | .sealerKeyErase mb index => Sys2Proof.Machine.execSealerKeyErase mb index s
  | .sealerKeyStatus mb index => Sys2Proof.Machine.execSealerKeyStatus mb index s
  -- Memory
  | .hbmActivate pc bank => Sys2Proof.Machine.execHbmActivate pc bank s
  | .targetedRefresh => Sys2Proof.Machine.execTargetedRefresh s
  | .hbmRequestDone pc bank => Sys2Proof.Machine.execHbmRequestDone pc bank s
  | .eccWriteback => Sys2Proof.Machine.execEccWriteback s
  | .hbmRefresh pc bank => Sys2Proof.Machine.execHbmRefresh pc bank s
  | .refreshWindowEnd => Sys2Proof.Machine.execRefreshWindowEnd s
  | .hbmTempRead t0 t1 t2 t3 => Sys2Proof.Machine.execHbmTempRead t0 t1 t2 t3 s
  | .patrolScrub => Sys2Proof.Machine.execPatrolScrub s
  | .hbmTrainStep stack passed report => Sys2Proof.Machine.execHbmTrainStep stack passed report s
  | .hbmTrackingStep pc eye => Sys2Proof.Machine.execHbmTrackingStep pc eye s
  | .hbmStatus mb => Sys2Proof.Machine.execHbmStatus mb s
  | .hbmTrainReport mb stack indOut => Sys2Proof.Machine.execHbmTrainReport mb stack indOut s
  | .hbmRetrain mb stack => Sys2Proof.Machine.execHbmRetrain mb stack s
  | .memRead mb addr length indOut => Sys2Proof.Machine.execMemRead mb addr length indOut s
  | .memWrite mb addr length payload => Sys2Proof.Machine.execMemWrite mb addr length payload s
  -- Hawk and the host interface
  | .mbDoorbell mb v => Sys2Proof.Machine.execMbDoorbell mb v s
  | .resultRead mb off len => Sys2Proof.Machine.execResultRead mb off len s
  | .mailboxResult mb => Sys2Proof.Machine.execMailboxResult mb s
  | .hostLockdown v => Sys2Proof.Machine.execHostLockdown v s
  | .intStatusClear mask => Sys2Proof.Machine.execIntStatusClear mask s
  | .intEnableWrite v => Sys2Proof.Machine.execIntEnableWrite v s
  | .ringEnable tx r log2 slotUnits => Sys2Proof.Machine.execRingEnable tx r log2 slotUnits s
  | .ringDisable tx r => Sys2Proof.Machine.execRingDisable tx r s
  | .txRingHeadWrite r head => Sys2Proof.Machine.execTxRingHeadWrite r head s
  | .errRingEnable enable log2 => Sys2Proof.Machine.execErrRingEnable enable log2 s
  | .registerWrite off data => Sys2Proof.Machine.execRegisterWrite off data s
  | .bar2Read off len => Sys2Proof.Machine.execBar2Read off len s
  | .bar2Write off data => Sys2Proof.Machine.execBar2Write off data s
  | .pcieHotReset => Sys2Proof.Machine.execPcieHotReset s
  | .pcieLinkUp => Sys2Proof.Machine.execPcieLinkUp s
  | .configurationSpaceWrite busMaster => Sys2Proof.Machine.execConfigurationSpaceWrite busMaster s
  | .dmaReadTimeout who => Sys2Proof.Machine.execDmaReadTimeout who s
  | .deviceInfo mb => Sys2Proof.Machine.execDeviceInfo mb s
  | .readyWait mb mask timeoutUs => Sys2Proof.Machine.execReadyWait mb mask timeoutUs s
  | .hawkRestart mb => Sys2Proof.Machine.execHawkRestart mb s
  | .hawkRestartEnd => Sys2Proof.Machine.execHawkRestartEnd s
  | .threadNotify mb threadId => Sys2Proof.Machine.execThreadNotify mb threadId s
  | .echo mb args => Sys2Proof.Machine.execEcho mb args s
  | .counterRead mb addr count indOut => Sys2Proof.Machine.execCounterRead mb addr count indOut s
  | .errorRingRead mb max consume indOut => Sys2Proof.Machine.execErrorRingRead mb max consume indOut s
  | .ringCopyWrite => Sys2Proof.Machine.execRingCopyWrite s
  | .txDescriptor r desc => Sys2Proof.Machine.execTxDescriptor r desc s
  | .txDescriptorRetry r => Sys2Proof.Machine.execTxDescriptorRetry r s
  | .txFrameAccept r frame => Sys2Proof.Machine.execTxFrameAccept r frame s
  | .errorRecordDeliver => Sys2Proof.Machine.execErrorRecordDeliver s
  -- Faults
  | .slotOverrun l5 l4 l3 l2 => Sys2Proof.Machine.execSlotOverrun l5 l4 l3 l2 s
  | .stepStall cluster cores => Sys2Proof.Machine.execStepStall cluster cores s
  | .unitRestart mb loc => Sys2Proof.Machine.execUnitRestart mb loc s
  | .unitRestartEnd l5 l4 => Sys2Proof.Machine.execUnitRestartEnd l5 l4 s
  | .deviceRestart mb confirm => Sys2Proof.Machine.execDeviceRestart mb confirm s
  | .deviceRestartDecision => Sys2Proof.Machine.execDeviceRestartDecision s
  | .processorResetRelease => Sys2Proof.Machine.execProcessorResetRelease s
  | .heartbeatTimeout l5 l4 => Sys2Proof.Machine.execHeartbeatTimeout l5 l4 s
  | .watchdogExpire => Sys2Proof.Machine.execWatchdogExpire s
  | .pairDecision pair entry => Sys2Proof.Machine.execPairDecision pair entry s
  | .pairWaitTimeout pair entry => Sys2Proof.Machine.execPairWaitTimeout pair entry s
  | .comparatorSelfTest cmp detects codeValid => Sys2Proof.Machine.execComparatorSelfTest cmp detects codeValid s
  | .comparatorReplace cmp => Sys2Proof.Machine.execComparatorReplace cmp s
  | .restartHoldEnd => Sys2Proof.Machine.execRestartHoldEnd s
  | .faultStatus mb => Sys2Proof.Machine.execFaultStatus mb s
  | .faultNRelease mb => Sys2Proof.Machine.execFaultNRelease mb s
  | .faultInject mb kind loc index => Sys2Proof.Machine.execFaultInject mb kind loc index s
  -- Span links
  | .spanFecLock link => Sys2Proof.Machine.execSpanFecLock link s
  | .spanStateTx link => Sys2Proof.Machine.execSpanStateTx link s
  | .spanState link => Sys2Proof.Machine.execSpanState link s
  | .spanLinkDown link lockLost => Sys2Proof.Machine.execSpanLinkDown link lockLost s
  | .flitRx link flit fecBad => Sys2Proof.Machine.execFlitRx link flit fecBad s
  | .timeSyncTx link => Sys2Proof.Machine.execTimeSyncTx link s
  | .timeSync link => Sys2Proof.Machine.execTimeSync link s
  | .readReq link => Sys2Proof.Machine.execReadReq link s
  | .writeReq link => Sys2Proof.Machine.execWriteReq link s
  | .readResp link => Sys2Proof.Machine.execReadResp link s
  | .learnMessage link => Sys2Proof.Machine.execLearnMessage link s
  | .hawkMsg link => Sys2Proof.Machine.execHawkMsg link s
  | .packet link => Sys2Proof.Machine.execPacket link s
  | .spanPacketSend link => Sys2Proof.Machine.execSpanPacketSend link s
  | .spanStatus mb link => Sys2Proof.Machine.execSpanStatus mb link s
  | .spanRejoin mb link => Sys2Proof.Machine.execSpanRejoin mb link s
  | .spanCounters mb link first count => Sys2Proof.Machine.execSpanCounters mb link first count s
  -- Service port, firmware, keys
  | .neighborSolicitation frame => Sys2Proof.Machine.execNeighborSolicitation frame s
  | .icmpv6EchoRequest frame => Sys2Proof.Machine.execIcmpv6EchoRequest frame s
  | .svcFrameDrop frame => Sys2Proof.Machine.execSvcFrameDrop frame s
  | .hello h => Sys2Proof.Machine.execHello h s
  | .manifestPart h offset data => Sys2Proof.Machine.execManifestPart h offset data s
  | .manifestEnd h size => Sys2Proof.Machine.execManifestEnd h size s
  | .block h chunk blk crc data => Sys2Proof.Machine.execBlock h chunk blk crc data s
  | .chunkQuery h chunk => Sys2Proof.Machine.execChunkQuery h chunk s
  | .finish h => Sys2Proof.Machine.execFinish h s
  | .activate h => Sys2Proof.Machine.execActivate h s
  | .sessionAbort h reason rollback => Sys2Proof.Machine.execSessionAbort h reason rollback s
  | .sessionTimeout => Sys2Proof.Machine.execSessionTimeout s
  | .svcEnChange level => Sys2Proof.Machine.execSvcEnChange level s
  | .svcEnableLapse => Sys2Proof.Machine.execSvcEnableLapse s
  | .chunkComplete chunk => Sys2Proof.Machine.execChunkComplete chunk s
  | .chunkWritten chunk pulses => Sys2Proof.Machine.execChunkWritten chunk pulses s
  | .loaderVerify => Sys2Proof.Machine.execLoaderVerify s
  | .healthConfirm fuseReadsBack => Sys2Proof.Machine.execHealthConfirm fuseReadsBack s
  | .healthTimeout => Sys2Proof.Machine.execHealthTimeout s
  | .restoreDone => Sys2Proof.Machine.execRestoreDone s
  | .mramBlockRetire block byte cause => Sys2Proof.Machine.execMramBlockRetire block byte cause s
  | .trngStartupDone passed => Sys2Proof.Machine.execTrngStartupDone passed s
  | .trngHealthFail => Sys2Proof.Machine.execTrngHealthFail s
  | .drbgReseed => Sys2Proof.Machine.execDrbgReseed s
  | .uartCharacterRx c => Sys2Proof.Machine.execUartCharacterRx c s
  | .svcEnable mb enable seconds => Sys2Proof.Machine.execSvcEnable mb enable seconds s
  | .svcStatus mb => Sys2Proof.Machine.execSvcStatus mb s
  | .fwStatus mb => Sys2Proof.Machine.execFwStatus mb s
  | .fwActivate mb => Sys2Proof.Machine.execFwActivate mb s
  | .fwRollback mb => Sys2Proof.Machine.execFwRollback mb s
  | .keySlotWrite mb slot key => Sys2Proof.Machine.execKeySlotWrite mb slot key s
  | .keySlotRevoke mb slot => Sys2Proof.Machine.execKeySlotRevoke mb slot s
  | .keyStatus mb => Sys2Proof.Machine.execKeyStatus mb s
  | .kekInstall mb kind key => Sys2Proof.Machine.execKekInstall mb kind key s
  | .fusePlanSigned mb confirm readsBack => Sys2Proof.Machine.execFusePlanSigned mb confirm readsBack s
  | .trngRead mb count => Sys2Proof.Machine.execTrngRead mb count s
  -- Power, governor, bring-up, logbook
  | .vinValid => Sys2Proof.Machine.execVinValid s
  | .vinUvlo => Sys2Proof.Machine.execVinUvlo s
  | .vinAverage mv ma => Sys2Proof.Machine.execVinAverage mv ma s
  | .railGroupUp g => Sys2Proof.Machine.execRailGroupUp g s
  | .railFault g => Sys2Proof.Machine.execRailFault g s
  | .plumbReading cluster ps stepRateMhz => Sys2Proof.Machine.execPlumbReading cluster ps stepRateMhz s
  | .tempMeasure clusters stage svc => Sys2Proof.Machine.execTempMeasure clusters stage svc s
  | .smbusReadWord cmd => Sys2Proof.Machine.execSmbusReadWord cmd s
  | .smbusAlertResponse => Sys2Proof.Machine.execSmbusAlertResponse s
  | .smbusNack cmd write => Sys2Proof.Machine.execSmbusNack cmd write s
  | .pfailAssert => Sys2Proof.Machine.execPfailAssert s
  | .pfailRelease => Sys2Proof.Machine.execPfailRelease s
  | .resetAssert => Sys2Proof.Machine.execResetAssert s
  | .resetRelease => Sys2Proof.Machine.execResetRelease s
  | .serviceDieStart => Sys2Proof.Machine.execServiceDieStart s
  | .onDieMemoryInit => Sys2Proof.Machine.execOnDieMemoryInit s
  | .pcieEndpointUp => Sys2Proof.Machine.execPcieEndpointUp s
  | .hawkStart => Sys2Proof.Machine.execHawkStart s
  | .logbookMount => Sys2Proof.Machine.execLogbookMount s
  | .logbookDeltaWrite pulses => Sys2Proof.Machine.execLogbookDeltaWrite pulses s
  | .logbookGenerationWrite pulses => Sys2Proof.Machine.execLogbookGenerationWrite pulses s
  | .histogramSample => Sys2Proof.Machine.execHistogramSample s
  | .logbookStatus mb => Sys2Proof.Machine.execLogbookStatus mb s
  | .logbookRead mb kind first count indOut => Sys2Proof.Machine.execLogbookRead mb kind first count indOut s
  | .histogramRead mb id firstBin count => Sys2Proof.Machine.execHistogramRead mb id firstBin count s
  -- Balls
  | .testEnRise => Sys2Proof.Machine.execTestEnRise s
  | .testEnFall => Sys2Proof.Machine.execTestEnFall s
  | .gpioWrite reg value => Sys2Proof.Machine.execGpioWrite reg value s
  | .gpioInputChange levels => Sys2Proof.Machine.execGpioInputChange levels s
  | .tapReset => Sys2Proof.Machine.execTapReset s
  | .extest captured shifted => Sys2Proof.Machine.execExtest captured shifted s
  | .samplePreload captured shifted => Sys2Proof.Machine.execSamplePreload captured shifted s
  | .idcode => Sys2Proof.Machine.execIdcode s
  | .highz => Sys2Proof.Machine.execHighz s
  | .clamp => Sys2Proof.Machine.execClamp s
  | .extestPulse captured shifted => Sys2Proof.Machine.execExtestPulse captured shifted s
  | .extestTrain captured shifted => Sys2Proof.Machine.execExtestTrain captured shifted s
  | .bypass code => Sys2Proof.Machine.execBypass code s

end Sys2Proof.Machine
end

