-- ==== Sys2Proof/Safety.lean ====
section
/-!
DEFINITION. What counts as a sound state, in the terms that claims use: invariants of the machine that rules of the spec
state.
-/

namespace Sys2Proof.Machine

/-- H of R492: at most 64 records on the on-die ring, and at most 63 while no open summary exists. -/
def RingOk (f : FaultState) : Prop := ringHeld f ≤ 64 ∧ (f.summary = none → ringHeld f ≤ 63)

/-- Bits 63 to 16 of the GPIO registers are reserved and read 0 (R7, Table 20-10), and the boundary register has 1,211
cells (R613). -/
def PkgOk (p : PkgState) : Prop :=
  p.gpioIn < 2 ^ 16 ∧ p.gpioDir < 2 ^ 16 ∧ p.gpioOut < 2 ^ 16 ∧ p.gpioOd < 2 ^ 16 ∧ p.gpioChanged < 2 ^ 16 ∧ p.boundary < 2 ^ 1211 ∧
    (∀ v, p.driven = some v → v < 2 ^ 1211)

/-- The memories of the device and of the host are in canonical form. -/
def MemOk (s : State) : Prop := s.mem.wf = true ∧ s.host.mem.wf = true

end Sys2Proof.Machine
end

