-- ==== Sys2Proof/Certificates/Slice0/Obligations.lean ====
section
/-!
DEFINITION. The statements for the provers, from the spec's numbered rules.
-/

open Sys2Proof Sys2Proof.Machine

/-- The front command of the queue is the one that a step runs, on the state with the rest of the queue. -/
def Obligations.StepRunsFront : Prop := ∀ (c : Instr) (rest : List Instr) (s : State),
  step { s with pending := c :: rest } = exec c { s with pending := rest }

/-- With no command waiting, a beacon tick passes: device time goes on by 5 × (2^40 + FREQ_ADJ) units of 2^-43 ns while
READY.TIME is set and no correction is being slewed (R101), and nothing else changes. That an empty queue lets a tick pass
is the model's choice (assumption log 1). -/
def Obligations.IdleTick : Prop := ∀ s : State, s.pending = [] →
  (isReady s 5 = false → step s = .next { s with now := s.now + 1 }) ∧
  (isReady s 5 = true → s.time.slew = 0 → (0 : Int) ≤ 2 ^ 40 + s.time.freqAdj →
    step s = .next { s with
      now := s.now + 1
      time := { s.time with t := (s.time.t + 5 * (2 ^ 40 + s.time.freqAdj).toNat) % (2 ^ 48 * 1000000000 * 2 ^ 43) } })

/-- Every command answers a next state: the spec gives each row of the table an effect, and no meaning stops. -/
def Obligations.EveryCommandCompletes : Prop := ∀ (c : Instr) (s : State), ∃ t, exec c s = .next t

/-- What reset leaves: no command waits, the READY vector and LANE_READY are 0, the on-die ring and OVERFLOW are empty, no
plan and no epoch is in force, FAULT_N is released, every mailbox is idle with the rights of mailbox 0 to 7 at 0x7FE, and
both spares are left. Memory lists nothing. -/
def Obligations.ResetValues : Prop :=
  State.reset.pending = [] ∧ State.reset.ready = 0 ∧ State.reset.laneReady = 0 ∧ State.reset.mem = [] ∧
  ringHeld State.reset.fault = 0 ∧ State.reset.fault.overflow = 0 ∧ State.reset.plan.cur = none ∧ State.reset.plan.epoch = 0 ∧
  State.reset.svc.faultN = false ∧ State.reset.host.hawkState = 0 ∧ State.reset.host.intStatus = 0 ∧ State.reset.host.intEnable = 0 ∧
  (∀ n : Fin 8, (getMb State.reset n.val).run = false ∧ (getMb State.reset n.val).resDone = false ∧ (getMb State.reset n.val).doorbell = 0) ∧
  sparesFree State.reset = [32, 33] ∧ State.reset.pkg.ir = .idcode

/-- The invariants of Safety hold at reset. -/
def Obligations.ResetInvariants : Prop := RingOk State.reset.fault ∧ PkgOk State.reset.pkg ∧ MemOk State.reset

/-- Every step keeps R492's bound: at most 64 records on the on-die ring, and at most 63 while no open summary exists. -/
def Obligations.RingInvariant : Prop := ∀ s t : State, RingOk s.fault → step s = .next t → RingOk t.fault

/-- Every step keeps the reserved bits of the GPIO registers at 0 and the boundary register within its 1,211 cells. -/
def Obligations.PackageInvariant : Prop := ∀ s t : State, PkgOk s.pkg → step s = .next t → PkgOk t.pkg

/-- Every step keeps the device's memory and the host's in canonical form. -/
def Obligations.MemoryInvariant : Prop := ∀ s t : State, MemOk s → step s = .next t → MemOk t

/-- R492's four cases: how the fault manager handles an arriving record on a ring that satisfies its bound. -/
def Obligations.RingCases : Prop := ∀ (f : FaultState) (r : ErrRecord), RingOk f →
  (∀ m, f.summary = some m → ringHeld f < 63 → (ringStore f r).ring = f.ring ++ [summaryRecord m, r] ∧ (ringStore f r).summary = none ∧
    (ringStore f r).overflow = f.overflow) ∧
  (∀ m, f.summary = some m → 63 ≤ ringHeld f → (ringStore f r).ring = f.ring ∧ (ringStore f r).overflow = f.overflow + 1 ∧
    (ringStore f r).summary = some (summaryAdd m r)) ∧
  (f.summary = none → ringHeld f < 63 → (ringStore f r).ring = f.ring ++ [r] ∧ (ringStore f r).summary = none ∧ (ringStore f r).overflow = f.overflow) ∧
  (f.summary = none → ringHeld f = 63 → (ringStore f r).ring = f.ring ∧ (ringStore f r).overflow = f.overflow + 1 ∧
    (ringStore f r).summary = some (summaryOpen r) ∧ ringHeld (ringStore f r) = 64) ∧
  RingOk (ringStore f r)

/-- Device time is the same whether ticks pass one by one or together, and no advance runs the machine's clock back. -/
def Obligations.TimeAdvances : Prop := ∀ (s : State) (a b : Nat),
  (advanceTo s a).now = Nat.max s.now a ∧
  ((0 : Int) ≤ 2 ^ 40 + s.time.freqAdj → s.time.slew = 0 → s.now ≤ a → a ≤ b → advanceTo (advanceTo s a) b = advanceTo s b)

/-- Whether a plan command is out of place for its session: another mailbox owns it (R47). -/
def StagedElsewhere (s : State) (mb : MbId) : Prop := s.plan.staging.st ≠ .empty ∧ s.plan.staging.owner ≠ some mb.val

/-- Staging: BEGIN opens a session in LOADING for the size given, once HBM is ready and up to 256 MiB (R48); DATA writes its
payload into the image, counts the bytes read and answers IND_DONE (Table 2-7); END takes an image whose container passes to
LOADED with its report; CHECK takes it to CHECKED at the epoch in force; ABORT empties the session; STATUS only answers. A
command on another owner's session is E_BUSY (R47), and one in a state that does not accept it is E_SEQUENCE. -/
def Obligations.PlanStaging : Prop := ∀ (mb : MbId) (s : State),
  (∀ size : BitVec 32, s.plan.staging.st = .empty → (∀ n < 4, isReady s (6 + n) = true) → size.toNat ≤ 256 * 2 ^ 20 →
    exec (.planStageBegin mb size) s = .next (reply { s with plan := { s.plan with
      staging := { st := .loading, owner := some mb.val, size := size.toNat } } } mb.val stOk)) ∧
  (∀ (off len : BitVec 32) (d : Bytes), s.plan.staging.st = .loading → ¬ StagedElsewhere s mb → isReady s 22 = true → 0 < len.toNat →
    len.toNat ≤ 4194304 → d.length = len.toNat → off.toNat + len.toNat ≤ s.plan.staging.size →
    ∃ t, exec (.planStageData mb off len (some d)) s = .next t ∧
      t.plan = { s.plan with staging := { s.plan.staging with
        image := memSplice s.plan.staging.image off.toNat len.toNat (Machine.memWrite [] 0 d) } } ∧
      (getMb t mb.val).reply = some { status := stOk, indDone := len.toNat } ∧
      t = { s with plan := t.plan, host := t.host }) ∧
  (s.plan.staging.st = .loading → ¬ StagedElsewhere s mb → match checkContainer s.plan.staging s.svc s.plan.cur none with
    | .ok _ => ∃ data, exec (.planStageEnd mb) s = .next (reply { s with plan := { s.plan with
        staging := { s.plan.staging with st := .loaded } } } mb.val stOk data)
    | .error f => exec (.planStageEnd mb) s = .next (reply (failReport s f).2 mb.val f.status (failReport s f).1)) ∧
  (s.plan.staging.st = .loaded ∨ s.plan.staging.st = .checked → ¬ StagedElsewhere s mb → exec (.planCheck mb) s = .next (match runCheck s none with
    | .ok x => reply { s with plan := { s.plan with
        staging := { s.plan.staging with st := .checked, checkedAt := some s.plan.epoch, prepBound := x.bound } } } mb.val stOk (passReport x)
    | .error f => reply { (failReport s f).2 with plan := { s.plan with
        staging := { s.plan.staging with st := .loaded, checkedAt := none } } } mb.val f.status (failReport s f).1)) ∧
  ((s.plan.staging.st = .loading ∨ s.plan.staging.st = .loaded ∨ s.plan.staging.st = .checked) →
    exec (.planAbort mb) s = .next (reply { s with plan := { s.plan with staging := {} } } mb.val stOk)) ∧
  exec (.planStatus mb) s = .next (reply s mb.val stOk (planStatus s)) ∧
  (∀ size, StagedElsewhere s mb → exec (.planStageBegin mb size) s = .next (reply s mb.val eBusy)) ∧
  (StagedElsewhere s mb → exec (.planStageEnd mb) s = .next (reply s mb.val eBusy) ∧ exec (.planCheck mb) s = .next (reply s mb.val eBusy)) ∧
  (¬ StagedElsewhere s mb → s.plan.staging.st = .committing → exec (.planCheck mb) s = .next (reply s mb.val eSequence))

/-- A commit's way to its switch (R58): acceptance puts the session into COMMITTING with a commit in its check; the check's
end, the entropy and the preparation carry it on; a group commit that has every peer's PREPARED is armed at its decision
point, 20 µs before AT_TIME (R72). The messages of a group commit (R72, R73): PREPARED is held as its peer's latest and acknowledged; ABORT removes it and
stops a commit whose group names the peer; PREPARED_ACK is noted. A link with no such message waiting leaves all as it is. -/
def Obligations.CommitSteps : Prop :=
  (∀ (s : State),
  (∀ (mb : MbId) (args : Bytes), s.plan.staging.st = .loaded → s.plan.staging.owner = some mb.val → argBad s args = false →
    exec (.planCommit mb args) s = .next { s with plan := { s.plan with
      staging := { s.plan.staging with st := .committing }
      commit := some {
        mailbox := mb.val, step := .checking, fromState := .loaded, sel := argSel args
        atTime := if argFlag args 0 then some (argTime args) else none, group := argFlag args 1, groupMask := byteAt args 14 } } }) ∧
  (∀ c, s.plan.commit = some c → c.step = .checking → exec .commitCheckDone s = .next (match runCheck s c.sel with
    | .ok x =>
      let y := { c with plan := some x.plan, prepBound := x.bound, report := passReport x }
      if isReady s 4 = false ∧ (x.plan.randomSeeds = true ∨ (s.plan.epoch = 0 ∧ x.plan.has 9 = false))
      then { s with plan := { s.plan with commit := some { y with step := .entropy } } }
      else beginPrepare { s with plan := { s.plan with commit := some y } }
    | .error f => failCommit s f)) ∧
  (∀ c, s.plan.commit = some c → c.step = .entropy → isReady s 4 = true → exec .commitEntropyReady s = .next (beginPrepare s)) ∧
  (∀ c p, s.plan.commit = some c → c.plan = some p → s.plan.old.isSome = true → confWrites p s.plan.now = true →
    beginPrepare s = { s with plan := { s.plan with commit := some { c with step := .waiting } } }) ∧
  (∀ c, s.plan.commit = some c → c.step = .preparing → c.group = false →
    exec .commitPrepareDone s = .next (armCommit (modCommit (loadCommitLines s) (fun c => { c with step := .prepared, prepEnd := s.now })))) ∧
  (∀ c t, s.plan.commit = some c → c.atTime = some t → c.group = true → c.step = .prepared → c.abortSeen = false →
    let u := advanceTo s (s.now + ticksTo s (t - 20000))
    (∀ m ∈ u.plan.prepared, (groupPeers u c).contains m.dev = true →
      m.digest = memBytes u.plan.staging.image 128 48 ∧ m.epoch = u.plan.epoch ∧ m.atTime = t) →
    (∀ d ∈ groupPeers u c, ∃ m ∈ u.plan.prepared, m.dev = d) →
    exec .groupDecisionPoint s = .next (armCommit u)) ∧
  (∀ c, s.plan.commit = some c → armCommit s = { s with plan := { s.plan with commit := some { c with
    step := .armed, notBefore := Nat.max (c.prepEnd + usTicks 10) (if s.plan.old.isSome then s.plan.retireTick else 0) } } })) ∧
  (∀ (s u : State) (k : Fin 3) (at_ : Nat) (m : Bytes),
  (takeMsg s k.val 0x12 = some (at_, m, u) → msgPasses (getSpan s k.val).st 0x12 = true →
    exec (.prepared k) s = .next (sendMsg { u with plan := { u.plan with
      prepared := u.plan.prepared.filter (fun y => y.dev ≠ devAt u k.val) ++
        [{ dev := devAt u k.val, digest := slice m 16 48, epoch := leAt m 2 4, atTime := ofTime10 (slice m 6 10) }] } } k.val 1
      (toLE 1 0x19 ++ zeros 1 ++ slice m 2 14))) ∧
  (takeMsg s k.val 0x13 = some (at_, m, u) → msgPasses (getSpan s k.val).st 0x13 = true →
    ∃ t, exec (.abort k) s = .next t ∧ t.plan.prepared = u.plan.prepared.filter (fun y => y.dev ≠ devAt u k.val) ∧
      t.plan.commit = u.plan.commit.map (fun c => if c.group ∧ c.groupMask.testBit (devAt u k.val) then { c with abortSeen := true } else c) ∧
      t = { u with plan := t.plan }) ∧
  (takeMsg s k.val 0x19 = some (at_, m, u) → msgPasses (getSpan s k.val).st 0x19 = true →
    ∃ t, exec (.preparedAck k) s = .next t ∧
      t.plan.commit = u.plan.commit.map (fun c => if c.group then { c with acks := c.acks ++ [devAt u k.val] } else c) ∧
      t = { u with plan := t.plan }) ∧
  (takeMsg s k.val 0x12 = none → exec (.prepared k) s = .next s) ∧ (takeMsg s k.val 0x13 = none → exec (.abort k) s = .next s) ∧
  (takeMsg s k.val 0x19 = none → exec (.preparedAck k) s = .next s))

/-- The state in which an armed commit's plan has come into force at its instant, before the commit's reply: the plan is
switched, the first epoch's table is cleaned, READY.HOD and READY.PLAN set, the commit counts and INT_STATUS bit 29 sets. -/
def switched (s : State) (c : Commit) (p : PlanCopy) : State :=
  let u := loadCommitLines (advanceTo s (instantTick s c))
  let x := epochEvent (switchPlan u c p)
  raiseInt (logCount (setReady (setReady (if u.plan.cur.isNone then cleanupAll x else x) 11 true) 19 true) 0x009 1) 29

/-- The epoch instant and the retirement (R59 to R61): at the instant the new plan comes into force and the commit completes
with OK, and a Hawk restart that has waited for it starts (R463); when the old epoch retires, its plan is gone. -/
def Obligations.EpochSwitch : Prop := ∀ (s : State),
  (∀ c p, s.plan.commit = some c → c.plan = some p → c.step = .armed → (switched s c p).host.hawkDeferred = false →
    exec .epochInstant s = .next (reply (switched s c p) c.mailbox stOk (commitResult (switched s c p) c.report))) ∧
  (∀ c p, s.plan.commit = some c → c.plan = some p → c.step = .armed → (switched s c p).host.hawkDeferred = true →
    ∃ u, u = reply (switched s c p) c.mailbox stOk (commitResult (switched s c p) c.report) ∧
      exec .epochInstant s = .next (hawkRestartDue { u with host := { u.host with hawkDeferred := false } } u.svc.trialFirst)) ∧
  (∀ o, s.plan.old = some o → s.plan.commit = none → ∃ t, exec .epochRetire s = .next t ∧ t.plan.old = none) ∧
  (s.plan.commit = none → exec .epochInstant s = .next s) ∧ (s.plan.old = none → exec .epochRetire s = .next s)

/-- The state after the RMON receive counters of a frame's length and kind of address (R81, 802.3 counters of Table 3-5). -/
def rxCounted (s : State) (n : Nat) (frame : Bytes) : State := rmonCast (rmonFrame s n 0 frame.length) n 0 frame

/-- Reception through the express MAC (Table 3-3, R81, R82): on a port that is up and not looped back, a frame lost in
symbols counts FRAGMENTS or SYMBOL_ERRORS; one whose FCS is wrong counts FCS_ERRORS; one with a right FCS below 64 bytes or
above the port's limit counts UNDERSIZE or OVERSIZE; each is dropped and changes nothing but counters. A frame that passes,
on a port without a SecY and outside a pair, is counted and waits for Hod's buffer, padded to 60 bytes, with its port, its
length, its receive time and the epoch in force; MAC Control only counts. A port that is not up takes nothing. -/
def Obligations.FrameReception : Prop := ∀ (port : PortId) (f : Bytes) (fecBad : Bool) (s : State),
  portUp s port.val = true → (getPort s port.val).loopback = 0 →
  let n := port.val
  let u := rmonFrame s n 0 f.length
  let body := f.take (f.length - 4)
  let sound := 4 ≤ f.length ∧ leAt f (f.length - 4) 4 = crc32 body
  (exec (.rxFrame port f true fecBad) s = .next (portCount u n (if f.length < 64 then 0x38 else 0x40) 1)) ∧
  (¬ sound → exec (.rxFrame port f false false) s = .next (portCount u n 0x20 1)) ∧
  (sound → f.length < 64 → exec (.rxFrame port f false false) s = .next (portCount u n 0x28 1)) ∧
  (sound → 64 ≤ f.length → portMaxFrame s.plan.now n < f.length → exec (.rxFrame port f false false) s = .next (portCount u n 0x30 1)) ∧
  (sound → 64 ≤ f.length → f.length ≤ portMaxFrame s.plan.now n → secyOf s.plan.now n = none →
    (beAt body 12 2 = 0x8808 → exec (.rxFrame port f false false) s = .next (portCount (rxCounted s n f) n 0xA8 1)) ∧
    (beAt body 12 2 ≠ 0x8808 → pairAt s.plan.now n = none → ∃ t, exec (.rxFrame port f false false) s = .next t ∧
      t = { s with cnt := (rxCounted s n f).cnt, ports := { s.ports with rxWait := s.ports.rxWait ++ [{
        bytes := pad60 body
        rx := { port := n, len := (pad60 body).length, time := rxTime s n f.length, macsec := 0, scIndex := 0, preemptable := false }
        epoch := s.plan.epoch, tick := s.now, pass := none }] } }))

/-- Fragments of preempted frames and Hod's answers (R84, R88, R214): a continuation with no frame in reassembly counts an
assembly error; the start of a frame that is not complete waits in reassembly with its time; a continuation that does not
fit drops the frame in reassembly. Hod's grant writes the oldest waiting frame at HEADROOM and admits it to its pipeline's
Stencil engine; a refusal drops the frame and counts it. -/
def Obligations.FragmentsAndAdmission : Prop := ∀ (s : State),
  (∀ (port : PortId) (fc gc : BitVec 2) (d : Bytes), portUp s port.val = true → (getPort s port.val).loopback = 0 →
    ((getPort s port.val).reasm = none → exec (.mmFragmentRx port false fc gc d) s =
      .next (portCount (portCount s port.val 0x298 1) port.val 0x288 1)) ∧
    ((getPort s port.val).reasm = none → leAt d (d.length - 4) 4 = mCrc (d.take (d.length - 4)) →
      leAt d (d.length - 4) 4 ≠ crc32 (d.take (d.length - 4)) → exec (.mmFragmentRx port true fc gc d) s =
      .next (modPort s port.val (fun p => { p with reasm := some {
        frameCount := fc.toNat, fragCount := 0, data := d.take (d.length - 4), time := rxTime s port.val d.length } }))) ∧
    (∀ r, (getPort s port.val).reasm = some r → r.frameCount ≠ fc.toNat ∨ r.fragCount % 4 ≠ gc.toNat →
      exec (.mmFragmentRx port false fc gc d) s = .next (modPort (portCount (portCount s port.val 0x298 1) port.val 0x280 1) port.val
        (fun p => { p with reasm := none })))) ∧
  (s.ports.rxWait = [] → exec .hodAllocAnswer s = .next s) ∧
  (∀ w r h u x, s.ports.rxWait = w :: r → w.pass = none →
    hodAlloc { s with ports := { s.ports with rxWait := r } } (portDropDomain (s.plan.of w.epoch) w.rx.port)
      (headroom (s.plan.of w.epoch) + w.bytes.length) = (.granted h, u) →
    x = hbmPut u 1 w.rx.port (bufAddr u h + headroom (s.plan.of w.epoch)) w.bytes →
    recovering x (unitLoc (18 + w.rx.port / 32) 0) = false →
    exec .hodAllocAnswer s = .next { x with stencil := { x.stencil with walking := x.stencil.walking ++
        [{ handle := h, rx := w.rx, epoch := w.epoch, tick := w.tick, source := w.rx.port }] } }) ∧
  (∀ w r u a b, s.ports.rxWait = w :: r → w.pass = none →
    hodAlloc { s with ports := { s.ports with rxWait := r } } (portDropDomain (s.plan.of w.epoch) w.rx.port)
      (headroom (s.plan.of w.epoch) + w.bytes.length) = (.refused a b, u) →
    exec .hodAllocAnswer s = .next (domCnt (portCount u w.rx.port 0x50 1) (portDropDomain (s.plan.of w.epoch) w.rx.port) 0x40))

/-- Transmission (R83 to R88, R219): a port whose wire is free takes the oldest frame of its transmit buffer; with an empty
buffer it goes on with a frame that was cut, unless its gate holds; an express frame cuts a preemptable one at its next
boundary, and the part sent leaves with its mCRC. The end of a frame counts it, frees the wire after the gap, releases its
buffer and puts the frame on the balls; under loopback MODE 1 it returns to reception instead. -/
def Obligations.FrameTransmission : Prop := ∀ (port : PortId) (s : State),
  let n := port.val
  (∀ i r, portUp s n = true → (getPort s n).onWire = none → (getPort s n).txBuf = i :: r →
    exec (.txFrame port) s = .next (startFrame (modPort s n (fun p => { p with txBuf := r })) n i)) ∧
  (∀ w, portUp s n = true → (getPort s n).onWire = none → (getPort s n).txBuf = [] → (getPort s n).held = some w → (getGate s n).hold = false →
    exec (.txFrame port) s = .next (let u := advanceTo s (getPort s n).freeAt
      portCount (modPort u n (fun p => { p with onWire := some { w with start := u.now, frags := w.frags + 1 }, held := none })) n 0x2A0 1)) ∧
  (∀ w i r b, portUp s n = true → (getPort s n).onWire = some w → (getPort s n).txBuf = i :: r → w.item.preemptable = true →
    i.preemptable = false → preempting s n = true → preemptAt s n w = some b →
    exec (.txFrame port) s = .next (startFrame (modPort
      (emit (cbsSync (advanceTo s (w.start + wireTicks s n (8 + b + 4 + 12))))
        (.fragment n (slice w.wire w.sent b ++ toLE 4 (mCrc (w.wire.take (w.sent + b)))) false)) n
      (fun p => { p with txBuf := r, onWire := none, held := some { w with sent := w.sent + b } })) n i)) ∧
  (∀ w x, (getPort s n).onWire = some w →
    x = txRelease (modPort (txCounters (cbsSync (advanceTo s (w.start + wireTicks s n (8 + (w.wire.length - w.sent))))) n w) n
      (fun p => { p with onWire := none, freeAt := w.start + wireTicks s n (8 + (w.wire.length - w.sent) + 12) })) n w.item →
    ((getPort s n).loopback = 0 → w.frags = 0 → exec (.txComplete port) s = .next (emit x (.frame n w.wire))) ∧
    ((getPort s n).loopback = 0 → 0 < w.frags → exec (.txComplete port) s = .next (emit x (.fragment n (w.wire.drop w.sent) true))) ∧
    ((getPort s n).loopback = 1 → exec (.txComplete port) s =
      .next (portReceive x n w.wire false false w.item.preemptable (rxTime x n w.wire.length)))) ∧
  (portUp s n = false → exec (.txFrame port) s = .next s) ∧ ((getPort s n).onWire = none → exec (.txComplete port) s = .next s)

/-- Link states (R85, R87, R98, R99): LINK_UP takes a port in TRAINING or DOWN to UP at the present time and sets the
LANE_READY bits of its lanes; a loss takes a port that is up to DOWN, with everything dropped, a LINK_DOWN record and its
count; AN_RESTART counts, and is a loss on a port that is up. Verification: a respond mPacket activates preemption, a verify
mPacket is answered, and the third attempt without a response ends it with VERIFY_FAILED. -/
def Obligations.LinkStates : Prop := ∀ (port : PortId) (s : State),
  let n := port.val
  (portEnabled s.plan.now n = true → ((getPort s n).st = 1 ∨ (getPort s n).st = 3) → recovering s (portLoc n) = false →
    portFlag s.plan.now n 3 = false → exec (.linkUp port) s = .next (modPort
      { s with laneReady := s.laneReady ||| laneMask s.plan.now n } n (fun p => { p with st := 2, lastChange := devNs s }))) ∧
  (portUp s n = true → exec (.linkLoss port) s = .next (portState
    (portCount (record (portDrop s n) 0 0x01 0x0001 (portLoc n)) n 0x218 1) n 3)) ∧
  (portUp s n = false → exec (.linkLoss port) s = .next s) ∧
  (portEnabled s.plan.now n = true → portFlag s.plan.now n 1 = true → portUp s n = false →
    exec (.anRestart port) s = .next (portCount s n 0x220 1)) ∧
  (portUp s n = true → exec (.verifyResponseRx port false) s = .next { s with out := .verify n true :: s.out }) ∧
  (portUp s n = true → 0 < (getPort s n).verifyTries → (getPort s n).verifyFailed = false →
    exec (.verifyResponseRx port true) s = .next (modPort s n (fun p => { p with preemptActive := true, verifyTries := 0 }))) ∧
  (portUp s n = true → (getPort s n).verifyTries = 3 → (getPort s n).preemptActive = false → (getPort s n).verifyFailed = false →
    exec (.verifyTimeout port) s = .next (portCount (modPort
      (advanceTo s ((getPort s n).verifyAt + msTicks (byteAt (portEnt s.plan.now n) 6))) n
      (fun p => { p with verifyFailed := true, verifyTries := 0 })) n 0x2B0 1))

/-- The port commands (Tables 3-8 and 3-17): a port that is not enabled in the plan in force is E_NOT_FOUND. PORT_STATUS
answers 24 bytes; PORT_RESTART takes the port to TRAINING with everything dropped and VERIFY_FAILED clear; PORT_LOOPBACK
sets a mode up to 2 and refuses others; PORT_COUNTERS reads whole words within the block; TX_TS_READ takes up to 31 of the
oldest entries of the timestamp ring. -/
def Obligations.PortCommands : Prop := ∀ (mb : MbId) (port : BitVec 8) (s : State),
  let n := port.toNat
  (portEnabled s.plan.now n = false → ∀ m f c x,
    exec (.portStatus mb port) s = .next (reply s mb.val eNotFound) ∧ exec (.portRestart mb port) s = .next (reply s mb.val eNotFound) ∧
    exec (.portLoopback mb port m) s = .next (reply s mb.val eNotFound) ∧ exec (.portCounters mb port f c) s = .next (reply s mb.val eNotFound) ∧
    exec (.txTsRead mb port x) s = .next (reply s mb.val eNotFound)) ∧
  (portEnabled s.plan.now n = true →
    (∃ sas, exec (.portStatus mb port) s = .next (reply s mb.val stOk (toLE 1 (getPort s n).st ++
      toLE 1 (b2n (getPort s n).verifyFailed + 2 * b2n (getPort s n).preemptActive) ++ toLE 1 (getPort s n).loopback ++
      sas ++ time10 (getPort s n).lastChange ++ zeros 6)) ∧ sas.length = 5) ∧
    exec (.portRestart mb port) s = .next (reply (modPort (modPort (portDrop s n) n
      (fun p => { p with st := 1, lastChange := devNs (portDrop s n) })) n (fun p => { p with verifyFailed := false })) mb.val stOk) ∧
    (∀ m, m.toNat ≤ 2 → exec (.portLoopback mb port m) s = .next (reply (modPort s n (fun p => { p with loopback := m.toNat })) mb.val stOk)) ∧
    (∀ m, 2 < m.toNat → exec (.portLoopback mb port m) s = .next (reply s mb.val eArgs)) ∧
    (∀ f c, f.toNat % 8 = 0 → c.toNat ≤ 62 → f.toNat + 8 * c.toNat ≤ 0x1000 → exec (.portCounters mb port f c) s =
      .next (reply s mb.val stOk ((List.range c.toNat).flatMap (fun k => toLE 8 (portWord s n (f.toNat + 8 * k)))))) ∧
    (∀ f c, f.toNat % 8 ≠ 0 ∨ 62 < c.toNat ∨ 0x1000 < f.toNat + 8 * c.toNat → exec (.portCounters mb port f c) s = .next (reply s mb.val eArgs)) ∧
    (∀ x, exec (.txTsRead mb port x) s = .next (reply (modPort s n (fun p => { p with tsRing := p.tsRing.drop (Nat.min x.toNat 31) }))
      mb.val stOk ((getPort s n).tsRing.take (Nat.min x.toNat 31)).flatten)))

/-- Secure associations (Table 3-9, R93, R94): SA_INSTALL with its arguments in order holds the key that unwraps under the
MACsec key-encryption key, with PN as its next packet number and lowest acceptable one; TX_SELECT makes AN the one transmit
association in use; SA_ERASE removes exactly the one named; STATUS only answers. Each is E_NOT_FOUND on a port without a
SecY, and a wrapped key that does not unwrap is E_SIGNATURE. -/
def Obligations.SecureAssociations : Prop := ∀ (mb : MbId) (s : State),
  (∀ (a : Bytes) (kek y : Bytes), portEnabled s.plan.now (byteAt a 0) = true → secyOf s.plan.now (byteAt a 0) = some y →
    byteAt a 3 = 0 → allZero (slice a 76 4) = true → byteAt a 1 = 0 → byteAt a 2 ≤ 3 → 0 < leAt a 12 8 → leAt a 12 8 ≤ pnMax (secyXpn y) →
    (secyXpn y = false → allZero (slice a 20 16) = true) → (rxScOf s.plan.now (byteAt a 0) (leAt a 4 8)).isSome = true →
    tblFind s.svc.keks 0 = some kek → ∃ sel, exec (.macsecSaInstall mb a) s = .next (match keyUnwrap kek (slice a 36 40) with
      | some key => reply (putSa s {
          port := byteAt a 0, tx := false, sci := leAt a 4 8, an := byteAt a 2, next := leAt a 12 8,
          lowest := leAt a 12 8, ssci := leAt a 20 4, salt := slice a 24 12, key := key, selected := sel }) mb.val stOk
      | none => reply s mb.val eSignature)) ∧
  (∀ (port an : BitVec 8) y x, portEnabled s.plan.now port.toNat = true → secyOf s.plan.now port.toNat = some y → an.toNat ≤ 3 →
    x ∈ s.ports.sas → x.port = port.toNat → x.tx = true → x.sci = leAt y 8 8 → x.an = an.toNat → x.old = false →
    exec (.macsecTxSelect mb port an) s = .next (reply { s with ports := { s.ports with sas := s.ports.sas.map (fun z =>
      if z.port = port.toNat ∧ z.tx = true ∧ z.sci = leAt y 8 8 ∧ z.old = false then { z with selected := decide (z.an = an.toNat) } else z) } } mb.val stOk)) ∧
  (∀ (port dir an : BitVec 8) (sci : BitVec 64) y x, portEnabled s.plan.now port.toNat = true → secyOf s.plan.now port.toNat = some y →
    dir.toNat ≤ 1 → an.toNat ≤ 3 → x ∈ s.ports.sas → x.port = port.toNat → x.tx = decide (dir.toNat = 1) → x.sci = sci.toNat → x.an = an.toNat → x.old = false →
    ∃ t, exec (.macsecSaErase mb port dir sci an) s = .next (reply t mb.val stOk) ∧ t = { s with ports := { s.ports with sas := t.ports.sas } } ∧
      ∀ z, z ∈ t.ports.sas ↔ z ∈ s.ports.sas ∧ ¬ (z.port = port.toNat ∧ z.tx = decide (dir.toNat = 1) ∧ z.sci = sci.toNat ∧ z.an = an.toNat ∧ z.old = false)) ∧
  (∀ (port : BitVec 8) y, portEnabled s.plan.now port.toNat = true → secyOf s.plan.now port.toNat = some y →
    ∃ d, exec (.macsecStatus mb port) s = .next (reply s mb.val stOk d) ∧ d.length ≤ 496) ∧
  (∀ (port dir an : BitVec 8) sci, secyOf s.plan.now port.toNat = none →
    exec (.macsecTxSelect mb port an) s = .next (reply s mb.val eNotFound) ∧ exec (.macsecStatus mb port) s = .next (reply s mb.val eNotFound) ∧
    exec (.macsecSaErase mb port dir sci an) s = .next (reply s mb.val eNotFound))

/-- The host's steering of device time (R101 to R103, R621): TIME_READY makes the time unit ready once, from its reset
values; TIME_GET reads device time; TIME_SET steps to the time given and sets VALID; TIME_OFFSET slews a correction within
the plan's SLEW_LIMIT and steps any other; TIME_FREQ sets FREQ_ADJ within its bounds; a host that may not steer is refused,
and so are all before READY.TIME. -/
def Obligations.DeviceTime : Prop := ∀ (mb : MbId) (s : State),
  (s.power.dieOut = true → isReady s 5 = false → exec .timeReady s = .next (setReady { s with time := {} } 5 true)) ∧
  (isReady s 5 = false → ∀ a b c d e f, exec (.timeGet mb) s = .next (reply s mb.val eNotReady) ∧
    exec (.timeSet mb a b c) s = .next (reply s mb.val eNotReady) ∧ exec (.timeOffset mb d e) s = .next (reply s mb.val eNotReady) ∧
    exec (.timeFreq mb f) s = .next (reply s mb.val eNotReady) ∧ exec (.timeStatus mb) s = .next (reply s mb.val eNotReady)) ∧
  (isReady s 5 = true →
    exec (.timeGet mb) s = .next (reply s mb.val stOk (time12 (s.time.t / 2 ^ 43) (s.time.t % 2 ^ 43 / 2 ^ 27))) ∧
    (∃ d, exec (.timeStatus mb) s = .next (reply s mb.val stOk d) ∧ d.length = 32) ∧
    (hostSteers s = false → ∀ a b c d e f, exec (.timeSet mb a b c) s = .next (reply s mb.val eRights) ∧
      exec (.timeOffset mb d e) s = .next (reply s mb.val eRights) ∧ exec (.timeFreq mb f) s = .next (reply s mb.val eRights)) ∧
    (hostSteers s = true →
      (∀ (sec : BitVec 48) (ns : BitVec 32) (frac : BitVec 16), ns.toNat < 1000000000 → ∃ u,
        exec (.timeSet mb sec ns frac) s = .next (reply { u with time := { u.time with valid := true } } mb.val stOk) ∧
        u = timeStep s (((sec.toNat * 1000000000 + ns.toNat) * 2 ^ 43 + frac.toNat * 2 ^ 27 : Nat) - (s.time.t : Int))) ∧
      (∀ (ns : BitVec 64) (frac : BitVec 16), let d := ns.toInt * 2 ^ 43 + (frac.toNat : Int) * 2 ^ 27
        0 < slewLimit s.plan.now → d.natAbs ≤ slewLimit s.plan.now * 2 ^ 43 →
        exec (.timeOffset mb ns frac) s = .next (reply { s with time := { s.time with slew := d } } mb.val stOk)) ∧
      (∀ (ns : BitVec 64) (frac : BitVec 16), let d := ns.toInt * 2 ^ 43 + (frac.toNat : Int) * 2 ^ 27
        slewLimit s.plan.now * 2 ^ 43 < d.natAbs → 0 ≤ (s.time.t : Int) + d →
        exec (.timeOffset mb ns frac) s = .next (reply (timeStep s d) mb.val stOk)) ∧
      (∀ f : BitVec 32, -549755813 ≤ f.toInt → f.toInt ≤ 549755813 →
        exec (.timeFreq mb f) s = .next (reply { s with time := { s.time with freqAdj := f.toInt } } mb.val stOk)) ∧
      (∀ f : BitVec 32, f.toInt < -549755813 ∨ 549755813 < f.toInt → exec (.timeFreq mb f) s = .next (reply s mb.val eArgs))))

/-- The servo, PPS and the reference (R103 to R105, R107): while SERVO is HAWK and Hawk runs, its rate is FREQ_ADJ within the
bounds and its correction is applied; the PPS output starts a pulse at each new second; the PPS input takes the time of its
active edge, unless one came in the last 100 ms; a reference beyond 100 ppm or stopped is recorded once, when it goes. -/
def Obligations.ServoPpsReference : Prop := ∀ (s : State), isReady s 5 = true →
  (∀ (f : BitVec 32) (off : BitVec 64), servoOf s.plan.now = 1 → s.host.hawkState = 1 → f.toInt.natAbs ≤ 549755813 →
    exec (.hawkServoCorrection f 0 0 off) s = .next { s with
      time := servoMeasured { s.time with freqAdj := f.toInt } (lockThreshold s.plan.now) off.toInt }) ∧
  (∀ v, v = ((s.time.t : Int) + signedOf 32 (leAt (timeEnt s.plan.now) 8 4) * 2 ^ 43 / 1000).toNat / (1000000000 * 2 ^ 43) →
    timeFlag s.plan.now 0 = true →
    (s.time.ppsOutSecond < v → exec .ppsOutEdge s = .next { s with out := .pps :: s.out, time := { s.time with
      ppsOutSecond := v, ppsOutUntil := s.now + 1600 * leAt (timeEnt s.plan.now) 4 4 } }) ∧
    (v ≤ s.time.ppsOutSecond → exec .ppsOutEdge s = .next s)) ∧
  (∀ rising : Bool, timeFlag s.plan.now 1 = true → rising = !(timeFlag s.plan.now 2) →
    (s.time.ppsInTick = 0 ∨ s.time.ppsInTick + 160000000 ≤ s.now + 1) → exec (.ppsInEdge rising) s = .next { s with time := { s.time with
      ppsIn := ((s.time.t : Int) + signedOf 32 (leAt (timeEnt s.plan.now) 12 4) * 2 ^ 43 / 1000).toNat / 2 ^ 43, ppsInSeen := true, ppsInTick := s.now + 1 } }) ∧
  (∀ (ppm : BitVec 16) (stopped : Bool), stopped = true ∨ 100 < ppm.toInt.natAbs →
    (s.time.refOut = false → exec (.refCheck ppm stopped) s = .next (record { s with time := { s.time with refOut := true } } 2 0x02 0x0002 (unitLoc 17 0))) ∧
    (s.time.refOut = true → exec (.refCheck ppm stopped) s = .next s)) ∧
  (∀ ppm : BitVec 16, ppm.toInt.natAbs ≤ 100 → exec (.refCheck ppm false) s = .next { s with time := { s.time with refOut := false } })

/-- The state after a head's walk has left the engine: its time has come, the memories of its nodes are read, and HOPS and
the longest walk are counted (Table 4-7). -/
def walked (s : State) (k : Packet) : State :=
  let w := walkOf s k
  let e := k.rx.port / 32
  let u := w.seen.reverse.foldl (fun x i => nodeTouch x e k.epoch i)
    (advanceTo { s with stencil := { s.stencil with walking := s.stencil.walking.erase k } } (walkEnd s k))
  let v := stencilCnt u e 0x200 w.hops
  let a := 0x2000000 + 0x10000 * e + 0x208
  let x := { v with cnt := cntSet v.cnt a (Nat.max w.hops (cntGet v.cnt a)) }
  if w.frag = 3 then stencilCnt x e 0x2B8 1 else x

/-- The parse engines (R110, R113 to R133): the walk that ends first is the one PARSE_COMPLETE finishes, at 6 + 2 × h slots
after its head; without fragment handling its result goes to the classifier, with its reason, or the packet is dropped as
the reason's action says. A fragment context that expires is deleted at its due tick: a decided one is counted, a waiting
one delivers the fragments it holds with their reason. A bad node is good again when repaired. -/
def Obligations.ParseEngines : Prop := ∀ s : State,
  (∀ l k, firstWalk s l = some k → k ∈ l ∧ ∀ j ∈ l, walkEnd s k ≤ walkEnd s j) ∧
  (∀ k, walkEnd s k = k.tick + 6 + 2 * (walkOf s k).hops) ∧
  (∀ k, firstWalk s s.stencil.walking = some k → fragMode ((walked s k).plan.of k.epoch) k.rx.port ≠ 1 ∨ (walkOf s k).frag = 0 →
    exec .parseComplete s = .next (finishParse (walked s k)
      { k with md := parseResult k.rx (walkOf s k), fragState := (walkOf s k).frag } (walkOf s k).reason)) ∧
  (∀ t k r, reasonDrops (t.plan.of k.epoch) r = false →
    finishParse t k r = deliver (stencilCnt t (k.rx.port / 32) (8 * r) 1) { k with md := withReason k.md r }) ∧
  (s.stencil.walking = [] → exec .parseComplete s = .next s) ∧
  (∀ (engine : Fin 2) key c, findCtx s engine.val key = some c →
    (c.st = .decided → exec (.fragContextExpire engine key) s = .next (stencilCnt (delCtx (advanceTo s c.due) engine.val key) engine.val 0x2B0 1)) ∧
    (c.st ≠ .decided → exec (.fragContextExpire engine key) s = .next
      (c.held.foldl (fun x k => finishParse x k rFragTimeout) (delCtx (advanceTo s c.due) engine.val key)))) ∧
  (∀ (engine : Fin 2) (node : Fin 1024), (engine.val, node.val) ∈ s.stencil.badNodes → ∃ t, exec (.parseNodeRepair engine node) s = .next t ∧
    (∀ e i, (e, i) ∈ t.stencil.badNodes ↔ (e, i) ∈ s.stencil.badNodes ∧ (e, i) ≠ (engine.val, node.val)) ∧
    t = { s with stencil := { s.stencil with badNodes := t.stencil.badNodes }, fault := { s.fault with marks := t.fault.marks } })

/-- The classifiers (R137 to R162): the packet that enters is the one firstBy picks among the highest-priority packets
waiting for the pipe, and its search starts while no more than four have entered in the tick; a packet leaves at 16 ticks
after its entry, and is dropped where its policing or its action says so, and handed on otherwise. The three commands clear
exactly the latch, block or meter they name, and are E_NOT_FOUND for an absent one. A scrub with nothing marked changes
nothing, and a rewrite clears the classifiers' bad words. -/
def Obligations.Classifiers : Prop := ∀ s : State,
  (∀ (pipe : Fin 2) k, let mine := s.cls.input.filter (fun k => k.rx.port / 32 == pipe.val)
    let prio := mine.filter (isPriority s pipe.val)
    firstBy entersBefore (if prio = [] then mine else prio) = some k → k.delivered = s.now →
    (s.cls.busy.filter (fun b => b.pkt.rx.port / 32 == pipe.val && b.enter == s.now)).length < 4 →
    recovering s (unitLoc (20 + pipe.val) 0) = false → pipeBad { s with cls := { s.cls with input := s.cls.input.erase k } } pipe.val = false →
    exec (.classifyEnter pipe) s = .next (enterSearch { s with cls := { s.cls with input := s.cls.input.erase k } } pipe.val k)) ∧
  (∀ b u, firstBy handsBefore s.cls.busy = some b → b.pkt.fragKey = [] →
    u = advanceTo { s with cls := { s.cls with busy := s.cls.busy.erase b } } (b.enter + 16) →
    (b.policed = true → exec .classifyHandon s = .next (unitRelease (domCnt u b.res.domain 0x38) b.pkt.handle (20 + b.pkt.rx.port / 32) 0)) ∧
    (b.policed = false → b.res.action = 0 → exec .classifyHandon s =
      .next (unitRelease (domCnt (releaseClaim u b) b.res.domain 0x30) b.pkt.handle (20 + b.pkt.rx.port / 32) 0)) ∧
    (b.policed = false → b.res.action ≠ 0 → exec .classifyHandon s = .next (handOn u b))) ∧
  (∀ m, clsMarks s = [m] → m.kind = 1 → exec .classifyScrub s =
    .next (record (clearMark s m.loc m.word) 1 0x04 0x0001 (wordLoc m.loc m.word) [] m.injected)) ∧
  (∃ t, exec .classifyRewriteDone s = .next t ∧ t.cls = { s.cls with bad := [] } ∧
    t = { s with cls := t.cls, fault := { s.fault with marks := t.fault.marks } }) ∧
  (∀ (mb : MbId) (n : BitVec 16),
    ((sgateOf s.plan.now n.toNat).isSome = true → exec (.streamGateReopen mb n) s =
      .next (reply (setSGate s n.toNat { getSGate s n.toNat with latched := false }) mb.val stOk)) ∧
    ((kindEnt s.plan.now 7 2 n.toNat).isSome = true → exec (.streamFilterUnblock mb n) s =
      .next (reply { s with cls := { s.cls with blocked := s.cls.blocked.filter (fun f => f ≠ n.toNat) } } mb.val stOk)) ∧
    ((meterOf s.plan.now n.toNat).isSome = true → exec (.meterClearRed mb n) s =
      .next (reply { s with cls := { s.cls with meters := s.cls.meters.map (fun m => if m.1 = n.toNat then (m.1, { m.2 with allRed := false }) else m) } } mb.val stOk)) ∧
    (sgateOf s.plan.now n.toNat = none → exec (.streamGateReopen mb n) s = .next (reply s mb.val eNotFound)) ∧
    (kindEnt s.plan.now 7 2 n.toNat = none → exec (.streamFilterUnblock mb n) s = .next (reply s mb.val eNotFound)) ∧
    (meterOf s.plan.now n.toNat = none → exec (.meterClearRed mb n) s = .next (reply s mb.val eNotFound)))

/-- A buffer's references (R213, R216, R219, R220): a granted allocation hands out the head handle and the buffer is IN_USE
with one reference, charged to its domain; HOLD adds one reference below 63; RELEASE removes one, and the last gives the
buffer its next generation and its handle to the head cache's tail. On a state without planted memory errors. The free lists (R216, R217, R228): a refill starts bundle reads, one a chain and at most 64 in flight, or takes fresh
indices once every chain is empty; a bundle that returns puts its handles and its own at the tail; a lost one retires its
buffer and stops its chain; a write-out and the sweeps act on the pool they name and stop while Hod recovers. -/
def Obligations.BuffersAndFreeLists : Prop :=
  (∀ s : State, s.fault.marks = [] →
  (∀ d p h r, poolRefuses s d p = none → (getPool s p).head = h :: r → ∃ u, poolGrant s d p = (h, u) ∧
    getWord u h = { gen := hGen h, ref := 1, domain := d, st := 2 } ∧ (getPool u p).head = r ∧ heldOf u d p = heldOf s d p + 1) ∧
  (∀ h q, refCheck s h true q = none → q.thread = none → ∃ u, hodHold s h q = (none, u) ∧ (getWord u h).ref = (getWord s h).ref + 1 ∧
    u = { s with hod := u.hod, cnt := u.cnt }) ∧
  (∀ h q, refCheck s h false q = none → q.thread = none → 1 < (getWord s h).ref → ∃ u, hodRelease s h q = (none, u) ∧
    (getWord u h).ref = (getWord s h).ref - 1 ∧ u = { s with hod := u.hod, cnt := u.cnt }) ∧
  (∀ h q, refCheck s h false q = none → q.thread = none → (getWord s h).ref = 1 → hodDown s = false → (getPool s (hPool h)).head.length < 16384 →
    ∃ u, hodRelease s h q = (none, u) ∧ (getWord u h).gen = ((getWord s h).gen + 1) % 64 ∧ (getWord u h).ref = 0 ∧ (getWord u h).st = 1 ∧
    (getPool u (hPool h)).head = (getPool s (hPool h)).head ++ [mkHandle (hPool h) (hIndex h) (((getWord s h).gen + 1) % 64)])) ∧
  (∀ (pool : Fin 5) (s : State), s.fault.marks = [] →
  let p := pool.val
  let q := getPool s p
  let n := poolCount s.plan.now p
  let cs := (refillChains q).take (64 - q.reads.length)
  (q.head.length < 8192 → n ≠ 0 → hodDown s = false → cs ≠ [] → exec (.headCacheRefill pool) s = .next (modPool s p (fun q => { q with
    reads := q.reads ++ cs.map (fun c => (c, chainHead q c)), rotIn := (q.rotIn + cs.length) % 64 }))) ∧
  (q.head.length < 8192 → n ≠ 0 → hodDown s = false → cs = [] → q.reads = [] → (∀ c < 64, chainHead q c = noHandle) →
    exec (.headCacheRefill pool) s = .next (modPool s p (fun q => { q with
      head := q.head ++ (List.range (Nat.min (8192 - q.head.length) (n - q.fresh))).map (fun i => mkHandle p (q.fresh + i) 0),
      fresh := q.fresh + Nat.min (8192 - q.head.length) (n - q.fresh) }))) ∧
  (8192 ≤ q.head.length ∨ hodDown s = true → exec (.headCacheRefill pool) s = .next s) ∧
  (∀ c h r b x, q.reads = (c, h) :: r → hbmRead s 2 64 (bufAddr s h) 128 = (none, b, x) →
    exec (.bundleReadDone pool false) s = .next (modPool ((bundleHandles b ++ [h]).foldl cacheHandle x) p (fun q => { q with
      reads := r, head := q.head ++ (bundleHandles b ++ [h])
      chains := if leAt b 0 4 = noHandle then tblDel q.chains c else tblSet q.chains c (leAt b 0 4) }))) ∧
  (∀ c h r e b x, q.reads = (c, h) :: r → hbmRead s 2 64 (bufAddr s h) 128 = (e, b, x) →
    exec (.bundleReadDone pool true) s = .next (poolCnt (modPool (modWord (errorIn x 2 0x06 0x0004 (unitLoc 23 p)) h (fun w => { w with st := 3 })) p
      (fun q => { q with reads := r, chains := tblDel q.chains c, stopped := q.stopped ++ [c], used := q.used + 1, retired := q.retired + 1 })) p 0x60)) ∧
  (q.reads = [] → ∀ l, exec (.bundleReadDone pool l) s = .next s) ∧
  (hodDown s = false → exec (.headCacheWriteout pool) s = .next (writeOut p 67 s)) ∧
  (∀ c : Fin 64, c.val ∈ q.stopped → ∃ hs, hs = sweepHandles s p (fun w => decide (w.st = 0) && decide (w.chain = c.val) && !w.unlinked) ∧
    exec (.chainSweepDone pool c) s = .next (bundleUp p c.val hs.length hs (modPool s p (fun q => { q with
      stopped := q.stopped.filter (fun d => d ≠ c.val), chains := tblDel q.chains c.val })))) ∧
  (∀ c, hodDown s = false → outChain q = some c → ∃ hs, hs = sweepHandles s p (fun w => decide (w.st = 0) && w.unlinked) ∧
    exec (.unlinkedSweep pool) s = .next (bundleUp p c hs.length hs s)) ∧
  (hodDown s = true → exec (.headCacheWriteout pool) s = .next s ∧ exec (.unlinkedSweep pool) s = .next s))

/-- Order restore (R231 to R237): the entry released is complete and the oldest of its ordering domain, and no other
complete head is older; it leaves 192 ticks after its admission with its items, in order, to admission; one that is too old
is dropped with its references. An incomplete head at its MAX_RESIDENCE is closed and counted. -/
def Obligations.OrderRestore : Prop := ∀ s : State,
  (∀ e, nextRelease s = some e → e ∈ s.egress.entries ∧ e.complete = true ∧
    (∀ f ∈ s.egress.entries, f.od = e.od → e.tick < f.tick ∨ (e.tick = f.tick ∧ e.source ≤ f.source)) ∧
    (∀ f ∈ s.egress.entries, f.complete = true → isHead s f = true → e.tick ≤ f.tick)) ∧
  (∀ e u, nextRelease s = some e → recovering s (unitLoc 24 0) = false →
    u = delEntry (orderTouch (advanceTo s (e.tick + 192)) e.tick e.source) e.tick e.source →
    (e.drop = true → exec .orderRelease s = .next (orderCnt u 0x18)) ∧
    (e.drop = false → aged u e.epoch e.tick = true → exec .orderRelease s =
      .next (ageDrop (releaseAll u (descHandles e ++ [e.handle])) e.domain e.source)) ∧
    (e.drop = false → aged u e.epoch e.tick = false → (entryItems e).any (fun i => dHandle i.desc == e.handle) = true → exec .orderRelease s =
      .next (orderCnt { u with egress := { u.egress with released := u.egress.released ++ entryItems e } } 0x10))) ∧
  (nextRelease s = none → exec .orderRelease s = .next s) ∧
  (∀ (od : BitVec 16) e, s.egress.entries.find? (fun e => e.od == od.toNat && !e.complete && isHead s e) = some e →
    exec (.orderAgeClose od) s = .next (ageDrop (orderCnt (delEntry (releaseAll (advanceTo s (e.tick + residence s e.epoch)) (descHandles e))
      e.tick e.source) 0x28) e.domain e.source))

/-- The egress complex (R238 to R262): admission takes released items before the FIFO's; a duplicate-discard entry that
expires is counted by its member; recovery functions reset at their last pass plus RESET_MS; the latent-error test compares
the discarded copies with its base and records a difference beyond its limit; a transmit opportunity serves a port that is
up with nothing waiting for the wire; the head of a queue that is too old is dropped. Gate control lists (R243 to R247): a port's list starts at the operation its time falls in; at the end of an operation
the next takes its place at that time with its hold, and queued claims of the occurrence are swept; HOLD and RELEASE may
come early by their advances. At its time a waiting list takes the place of the present one, from its first operation. -/
def Obligations.EgressAndGates : Prop :=
  (∀ s : State,
  (∀ i r, recovering s (unitLoc 25 64) = false → s.egress.released = i :: r →
    exec .egressAdmit s = .next (admitItem { s with egress := { s.egress with released := r } } i)) ∧
  (∀ i r, recovering s (unitLoc 25 64) = false → s.egress.released = [] → s.egress.fifo = i :: r →
    exec .egressAdmit s = .next (admitItem { s with egress := { s.egress with fifo := r } } i)) ∧
  (∀ (pair : Fin 16) e d r, pairOf s.plan.now pair.val = some e → (getPair s pair.val).dups = d :: r →
    exec (.dupEntryExpire pair) s = .next (pairCnt (modPair (advanceTo s (d.made + msTicks (leAt e 8 4))) pair.val (fun v => { v with dups := r }))
      pair.val (if d.member = 0 then 0x28 else 0x30))) ∧
  (∀ (fn : BitVec 16) e, cbOf s.plan.now fn.toNat = some e → cbFlag e 1 = true → (getFn s fn.toNat).takeAny = false →
    exec (.cbRecoveryReset fn) s = .next (fnCnt (setFn (advanceTo s ((getFn s fn.toNat).lastPass + msTicks (leAt e 4 2))) fn.toNat
      { getFn s fn.toNat with takeAny := true, recov := 65535, history := 0 }) fn.toNat 0x30 1)) ∧
  (∀ (fn : BitVec 16) e u diff, cbOf s.plan.now fn.toNat = some e → cbFlag e 4 = true →
    u = advanceTo s ((getFn s fn.toNat).lastTest + msTicks (leAt e 8 4)) →
    diff = (cntGet u.cnt (0x6800000 + 0x40 * fn.toNat) : Int) - cntGet u.cnt (0x6800000 + 0x40 * fn.toNat + 8) →
    (((getFn s fn.toNat).baseDiff - diff).natAbs ≤ leAt e 6 2 → exec (.cbLatentTest fn) s =
      .next (setFn u fn.toNat { getFn s fn.toNat with lastTest := u.now, baseDiff := diff })) ∧
    (leAt e 6 2 < ((getFn s fn.toNat).baseDiff - diff).natAbs → exec (.cbLatentTest fn) s = .next (fnCnt (record
      (setFn u fn.toNat { getFn s fn.toNat with lastTest := u.now, baseDiff := diff }) 0 0x07 0x0001 (unitLoc 25 65) (toLE 2 fn.toNat)) fn.toNat 0x38 1))) ∧
  (∀ port : PortId, portUp s port.val = true → (getPort s port.val).txBuf = [] → (getPort s port.val).onWire = none → recovering s (unitLoc 25 port.val) = false →
    ∃ u n, u = cbsSync (advanceTo s (getPort s port.val).freeAt) ∧ n = ((List.range 16).map (fun q => (getQueue u port.val q).length)).sum ∧
      exec (.transmitOpportunity port) s = .next (transmitSelect u port.val (n + 1))) ∧
  (∀ (port : PortId) (q : Fin 16) f r, getQueue s port.val q.val = f :: r →
    exec (.queueAgeDrop port q) s = .next (queueAgeDrop (cbsSync (advanceTo s (f.tick + residence s f.epoch + 1))) port.val q.val f))) ∧
  (∀ (port : PortId) (s : State),
  let n := port.val
  let u := cbsSync s
  (∀ l o, (getGate u n).list = some l → (getGate u n).op = none → locate l (gateTime u n / unitNs) = some o →
    exec (.gateEvent port) s = .next (sweepClaims (setHold (modGate u n (fun g => { g with op := some o })) n
      (holdOf (opKind l o.1) (getGate u n).hold)) n false)) ∧
  (∀ l i st, (getGate u n).list = some l → (getGate u n).op = some (i, st) → (st + opLen l i) * unitNs ≤ gateTime u n →
    exec (.gateEvent port) s = .next (sweepClaims (setHold (modGate u n (fun g => { g with op := some ((i + 1) % l.ops.length, st + opLen l i) })) n
      (holdOf (opKind l ((i + 1) % l.ops.length)) (getGate u n).hold)) n false)) ∧
  (∀ l i st, (getGate u n).list = some l → (getGate u n).op = some (i, st) → (getGate u n).hold = false → opKind l ((i + 1) % l.ops.length) = 1 →
    gateTime u n < (st + opLen l i) * unitNs → (st + opLen l i - l.holdAdv) * unitNs ≤ gateTime u n →
    exec (.gateEvent port) s = .next (setHold u n (holdOf 1 false))) ∧
  ((getGate u n).list = none → exec (.gateEvent port) s = .next s) ∧
  (∀ l t, (getGate s n).next = some (some l, t) → t * unitNs ≤ gateTime s n → exec (.gateListSwitch port) s =
    .next (sweepClaims (setHold (modGate u n (fun g => { g with list := some l, op := some (0, t), next := none })) n
      (holdOf (opKind l 0) (getGate u n).hold)) n false)) ∧
  (∀ l t, (getGate s n).next = some (l, t) → gateTime s n < t * unitNs → exec (.gateListSwitch port) s = .next s))

/-- Dispatchers and pairs (R301 to R312, R510 to R517): the oldest packet handed on enters its pool's queue 12 ticks after
its delivery; a fill of an idle thread loads the item, with its metadata and work slot, as the thread's shadow and the
thread holds its buffer; a spilled item returns to its queue's place. A pair whose two sides agree writes the packet and
posts its descriptors once; one whose sides differ is dropped, counted and recorded; one side alone is dropped at its limit. -/
def Obligations.DispatchAndPairs : Prop := ∀ s : State,
  (∀ k r, s.cls.handed = k :: r → exec .dispatchEnqueue s =
    .next (enterItem (advanceTo { s with cls := { s.cls with handed := r } } (k.delivered + 12)) (itemOf k) false)) ∧
  (∀ (cl : ClusterId) f u w, dispDown s cl.val = false → nextFill s cl.val = some f → s.fault.marks = [] → u = advanceTo s (f.start + 8) →
    w = windowOf (setQ u cl.val { f.queue with items := f.queue.items.erase f.item }) cl.val f.item (poolWinStart (u.plan.of f.item.epoch) f.item.pool) →
    w.1 = none → f.item.pair = none → dispDown u cl.val = false → ∃ t sh rest, exec (.dispatchFill cl) s = .next t ∧
    (getTh t f.tid).shadow = some sh ∧ sh.item = f.item ∧ sh.win = w.2.1 ∧ sh.md = slice f.item.md 0 56 ++ rest ∧ f.item.handle ∈ threadSlots t f.tid) ∧
  (∀ (cl : ClusterId) (pool : BitVec 16) q it r, dispDown s cl.val = false →
    (getCl s cl.val).queues.find? (fun q => q.pool == pool.toNat && !q.spill.isEmpty && !atLimit s cl.val q) = some q → q.spill = it :: r →
    exec (.unspill cl pool) s = .next (dispCnt (setQ s cl.val
      { q with items := placeItem q.items { it with spilled := true, entered := s.now }, spill := r }) cl.val 0x18 1)) ∧
  (∀ (pair : BitVec 9) entry x, findPair s entry = some x → x.pair = pair.toNat → x.a.last = true → x.b.last = true →
    (serverOf s x.pair).isSome = true → x.a.descs ≠ x.b.descs →
    ∃ u, u = faultCount { s with fault := { s.fault with digestFlips := s.fault.digestFlips.erase x.pair } } 0x58 1 ∧
    exec (.pairDecision pair entry) s = .next (errorIn (faultCount (pairDrop u x) 0x60 1) 2 0x0F 0x0005 (unitLoc 29 (x.pair % 32))
      (toLE 2 x.pair ++ toLE 6 entry) (s.fault.digestFlips.contains x.pair))) ∧
  (∀ (pair : BitVec 9) entry x t, findPair s entry = some x → x.pair = pair.toNat → x.firstLast = some t → x.b.last = false →
    exec (.pairWaitTimeout pair entry) s = .next (errorIn (faultCount (pairDrop
      (advanceTo s (t + usTicks (leAt (((s.plan.of x.epoch).sec 0x14).entry 0x14 x.pair) 12 4))) x) 0x68 1) 2 0x0F 0x0006 (unitLoc 29 (x.pair % 32))
      (toLE 2 x.pair ++ toLE 6 entry))) ∧
  (∀ (pair : BitVec 9) entry x u v, findPair s entry = some x → x.pair = pair.toNat → x.a.last = true → x.b.last = true →
    (serverOf s x.pair).isSome = true → x.a.descs = x.b.descs → pairDigest x.a = pairDigest x.b → x.pair ∉ s.fault.digestFlips →
    u = faultCount { s with fault := { s.fault with digestFlips := s.fault.digestFlips.erase x.pair } } 0x58 1 →
    v = x.a.words.foldl (fun y w => hbmPut y 1 (65 + x.cluster) (bufAddr y x.handle + headroom (u.plan.of x.epoch) + w.1) w.2) u →
    exec (.pairDecision pair entry) s = .next (x.a.descs.zipIdx.foldl (fun y di =>
      (postEntry y none (entry / 128) (entry % 128) x.handle di.1 (di.2 + 1 == x.a.descs.length)).2)
      (unitRelease { v with fault := { v.fault with pairItems := v.fault.pairItems.filter (fun y => y.entry ≠ entry) } } x.handle 29 (x.pair % 32))))

/-- The memory controller's accesses (R406 to R424): a bank activates a row for its most urgent waiting request, which is
marked active; a request that is done leaves the queue, is accounted, and its load part or store status reaches its thread;
the write-back of a corrected line clears the single errors of the line; the patrol scrub reads one line and goes on by 64
bytes; refreshes follow one another in the window and are put off at most eight times for urgent work; a window's end
forgets its rows, throttles and refreshes. -/
def Obligations.MemoryAccesses : Prop := ∀ s : State,
  (∀ (g : Fin 128) (b : Fin 32) r, nextActivate s g.val b.val = some r → (r ∈ s.hbm.waiting ∧ r.active = false ∧ hbmPc r.addr = g.val ∧ hbmBank r.addr = b.val) ∧
    ∃ u, u = (if urgency s r = 3 then qosCnt (hbmActivate s r.port r.source r.addr) r.port 0x28 1 else hbmActivate s r.port r.source r.addr) ∧
    exec (.hbmActivate g b) s = .next { u with hbm := { u.hbm with waiting := u.hbm.waiting.map (fun x => if x = r then { x with active := true } else x) } }) ∧
  (∀ (g : Fin 128) (b : Fin 32) r, s.hbm.waiting.find? (fun r => r.active && hbmPc r.addr == g.val && hbmBank r.addr == b.val) = some r →
    (∀ tid entry, r.use = .load tid entry → exec (.hbmRequestDone g b) s =
      .next (loadPart (qosDone (hbmServe s r).2.2 r) tid entry r.addr (hbmServe s r).1 (hbmServe s r).2.1)) ∧
    (∀ tid seq, r.use = .store tid seq → exec (.hbmRequestDone g b) s = .next (storePart (qosDone (hbmServe s r).2.2 r) tid seq (hbmServe s r).1)) ∧
    (∀ tid entry, r.use = .sc tid entry → exec (.hbmRequestDone g b) s = .next (scDone s r tid entry))) ∧
  (∀ r u, s.hbm.waiting.find? (fun r => decide (r.use = HbmFor.writeback)) = some r →
    u = qosCnt (hbmActivate { s with hbm := { s.hbm with waiting := s.hbm.waiting.erase r } } 7 0 r.addr) 7 0x08 1 →
    exec .eccWriteback s = .next ((lineMarks u r.addr).foldl (fun x m => if m.2.kind = 1 then unmark x m.1 else x) u)) ∧
  ((∀ n < 4, isReady s (6 + n) = true) → ∃ t, exec .patrolScrub s = .next t ∧ t.hbm.scrubAt = (s.hbm.scrubAt + 64) % hbmSize) ∧
  (∀ x r, s.hbm.targeted = x :: r → exec .targetedRefresh s = .next (pcCnt { s with hbm := { s.hbm with targeted := r } } x.1 0x18)) ∧
  (∀ (g : Fin 128) (b : Fin 32) n k u, n = tblGet 0 s.hbm.refreshed (32 * g.val + b.val) → n < refreshCount s g.val → k = 32 * g.val + b.val →
    u = advanceTo s (s.hbm.windowFrom + n * refreshWindow / refreshCount s g.val) →
    ((urgentWaits u g.val b.val = false ∨ 8 ≤ tblGet 0 u.hbm.postponed k) → exec (.hbmRefresh g b) s = .next { u with
      hbm := { u.hbm with postponed := tblSet u.hbm.postponed k 0, refreshed := tblSet u.hbm.refreshed k (n + 1) }
      cnt := cntAdd u.cnt (0x9010000 + 0x100 * g.val + 8) (tblGet 0 u.hbm.postponed k + 1) }) ∧
    (urgentWaits u g.val b.val = true → tblGet 0 u.hbm.postponed k < 8 → exec (.hbmRefresh g b) s = .next (pcCnt { u with
      hbm := { u.hbm with postponed := tblSet u.hbm.postponed k (tblGet 0 u.hbm.postponed k + 1), refreshed := tblSet u.hbm.refreshed k (n + 1) } } g.val 0x10))) ∧
  (∃ u, u = advanceTo s (s.hbm.windowFrom + refreshWindow) ∧ exec .refreshWindowEnd s = .next { u with
    hbm := { u.hbm with windowFrom := u.hbm.windowFrom + refreshWindow, rows := [], throttles := [], refreshed := [] } })

/-- Training, temperatures and the HBM commands (R425 to R434): a step that passes leads to the next, the fifth makes the
stack ready with its memory zeroed; a failing attempt starts again, and after the third the stack has failed, with its
record; a temperature above 85 °C refreshes fast, and is recorded when it is first passed; the eye of a pseudo-channel below
350 thousandths of a unit interval marks the stack's margin low, recorded at most once an hour. -/
def Obligations.MemoryTraining : Prop := ∀ s : State,
  (∀ (st : Fin 4) r x, isReady s 2 = true → x = getStack s st.val → x.st = 1 → 1 ≤ x.step → 1 ≤ x.attempts →
    (x.step < 4 → exec (.hbmTrainStep st true r) s = .next (modStack (modStack s st.val (fun y => { y with
      st := 1, step := x.step, attempts := x.attempts })) st.val (fun y => { y with step := x.step + 1 }))) ∧
    (x.attempts < 3 → x.step ≤ 4 → exec (.hbmTrainStep st false r) s = .next (modStack (modStack
      (modStack s st.val (fun y => { y with st := 1, step := x.step, attempts := x.attempts })) st.val
      (fun y => { y with report := trainReport x.attempts r, lanes := lanesRepaired r })) st.val (fun y => { y with step := 1, attempts := x.attempts + 1 }))) ∧
    (x.attempts = 3 → x.step ≤ 4 → ∃ t, exec (.hbmTrainStep st false r) s = .next t ∧ (getStack t st.val).st = 3) ∧
    (x.step = 5 → ∃ t, exec (.hbmTrainStep st true r) s = .next t ∧ (getStack t st.val).st = 2 ∧ isReady t (6 + st.val) = true)) ∧
  (∀ t0 t1 t2 t3, isReady s 2 = true → exec (.hbmTempRead t0 t1 t2 t3) s =
    .next (stackTemp (stackTemp (stackTemp (stackTemp s 0 t0) 1 t1) 2 t2) 3 t3)) ∧
  (∀ n t, (getStack s n).temp ≤ 85 → 85 < t → stackTemp s n t =
    record (modStack s n (fun x => { x with temp := t, fast := true })) 0 0x0C 0x0001 (stackLoc n) (toLE 1 (toSigned 8 t))) ∧
  (∀ (pc : Fin 128) eye u, (getStack s (pc.val % 4)).st = 2 → u = advanceTo s (tblGet 0 s.hbm.tracked pc.val + trackPeriod) →
    (350 ≤ eye → exec (.hbmTrackingStep pc eye) s = .next (pcCnt { u with hbm := { u.hbm with tracked := tblSet u.hbm.tracked pc.val u.now } } pc.val 0x38)) ∧
    (eye < 350 → tblGet 0 u.hbm.marginAt pc.val = 0 → ∃ v, v = modStack
      (pcCnt { u with hbm := { u.hbm with tracked := tblSet u.hbm.tracked pc.val u.now } } pc.val 0x38) (pc.val % 4) (fun x => { x with marginLow := true }) ∧
      exec (.hbmTrackingStep pc eye) s = .next (record { v with hbm := { v.hbm with marginAt := tblSet v.hbm.marginAt pc.val (u.now + 1) } } 0 0x0C 0x0006 (unitLoc 27 pc.val)))) ∧
  (∀ mb : MbId, ∃ d, exec (.hbmStatus mb) s = .next (reply s mb.val stOk d) ∧ d.length = 64) ∧
  (∀ (mb : MbId) (st : BitVec 8) a, st.toNat ≤ 3 → (getStack s st.toNat).report ≠ [] →
    exec (.hbmTrainReport mb st (some a)) s = .next (replyBulk s mb.val (some a) (getStack s st.toNat).report)) ∧
  (∀ (mb : MbId) (st : BitVec 8), st.toNat ≤ 3 → isReady s 19 = false → (getStack s st.toNat).st ≠ 1 →
    exec (.hbmRetrain mb st) s = .next (setReady (modStack s st.toNat (fun x => { x with st := 1, step := 1, attempts := 1, mailbox := some mb.val })) (6 + st.toNat) false)) ∧
  (∀ (mb : MbId) (st : BitVec 8), st.toNat ≤ 3 → isReady s 19 = true → exec (.hbmRetrain mb st) s = .next (reply s mb.val eBusy)) ∧
  (∀ (mb : MbId) (st : BitVec 8) a, 3 < st.toNat → exec (.hbmRetrain mb st) s = .next (reply s mb.val eArgs) ∧
    exec (.hbmTrainReport mb st a) s = .next (reply s mb.val eArgs))

/-- The table engine's own events (R176 to R197): the oldest learning request is decided; the learn rates, the age clock and
the sweeps follow their periods; a routine's chunk is run, and a revoked routine ends abandoned at its bucket; lines leave
the lookaside cache at the end of their life; a location to repair takes its configured entry again, or is cleared; the
pinned memories' bad words are good again; marked entries are cleaned once the old epoch's packets are gone. -/
def Obligations.TableEngine : Prop := ∀ s : State,
  (∀ r l, s.table.learn = r :: l → recovering s (unitLoc 22 0) = false → isReady s 10 = true →
    exec .learnApply s = .next (learnDecide { s with table := { s.table with learn := l } } r)) ∧
  (∃ u, u = advanceTo s (s.table.rateFrom + 1600000) ∧ exec .learnRatePeriod s = .next { u with table := { u.table with rate := [], rateFrom := u.now } }) ∧
  (isReady s 10 = true → leAt (tablePre s.plan.now) 40 4 ≠ 0 → ∃ u, u = advanceTo s (s.table.ageAt + msTicks (leAt (tablePre s.plan.now) 40 4)) ∧
    exec .ageClockTick s = .next { u with table := { u.table with
      ageClock := (u.table.ageClock + 1) % 65536, ageAt := s.table.ageAt + msTicks (leAt (tablePre s.plan.now) 40 4) } }) ∧
  (isReady s 10 = true → leAt (tablePre s.plan.now) 44 4 ≠ 0 → s.table.routines = [] →
    ∃ u, u = advanceTo s (s.table.sweepAt + msTicks (leAt (tablePre s.plan.now) 44 4)) ∧ exec .ageingPassStart s = .next { u with table := { u.table with
      sweepAt := s.table.sweepAt + msTicks (leAt (tablePre s.plan.now) 44 4), routines := [{ pass := true, holders := [.engine], start := 0, next := 0 }] } }) ∧
  (∀ (i : Fin 4) r, s.table.routines[i.val]? = some r → recovering s (unitLoc 22 0) = false →
    (r.revoked = false → exec (.routineChunk i) s = .next (chunkRun s r)) ∧
    (r.revoked = true → exec (.routineChunk i) s = .next (startFlushes (endRoutine s r sAbandoned (2 * r.next))))) ∧
  (s.table.cache ≠ [] → ∃ l u, l ∈ s.table.cache ∧ (∀ m ∈ s.table.cache, l.filled ≤ m.filled) ∧ u = advanceTo s (l.filled + 1600000) ∧
    exec .cacheLineExpire s = .next (expireCache u) ∧
    ∀ m, m ∈ (expireCache u).table.cache ↔ m ∈ s.table.cache ∧ u.now < m.filled + 1600000) ∧
  (∀ loc l, s.table.repairs = loc :: l → (∀ e, tblFind s.table.conf loc = some e → exec .tableEntryRepair s = .next (putLoc s 7 1 loc e)) ∧
    (tblFind s.table.conf loc = none → exec .tableEntryRepair s = .next (putLoc s 7 1 loc (zeros 32)))) ∧
  (s.fault.marks = [] → exec .pinnedScrub s = .next { s with table := { s.table with pinnedBad := [] } }) ∧
  (∀ o, s.plan.old = some o → s.table.marked ≠ [] → ∃ u, u = advanceTo s (s.plan.instTick + usTicks o.maxRes) ∧
    exec .configCleanup s = .next (cleanupAll u) ∧ (cleanupAll u).table.marked = [])

/-- What a lock is worth (R395 to R398): ACQUIRE and TRY by a permitted thread take a FREE lock, and leave a held one with
its holder: ACQUIRE waits last in its queue, TRY is E_BUSY; RELEASE by another thread changes nothing of the lock; RELEASE
by the holder passes it to the thread that has waited longest, or frees it. On a state without planted memory errors. -/
def Obligations.LockOperations : Prop := ∀ (s : State) (o : LockOp), s.fault.marks = [] →
  (o.sub ≤ 1 → lockPermitted s o.tid o.lock = true → waitsOf s o.tid < 4 → getLock s o.lock = none → ∃ u,
    applyLock s o = (some stOk, true, u) ∧ ∃ l, getLock u o.lock = some l ∧ l.holder = o.tid ∧ l.waiters = []) ∧
  (∀ l, o.sub = 0 → lockPermitted s o.tid o.lock = true → waitsOf s o.tid < 4 → getLock s o.lock = some l → l.holder ≠ o.tid → ∃ u w,
    applyLock s o = (none, false, u) ∧ getLock u o.lock = some { l with waiters := l.waiters ++ [w] } ∧ w.tid = o.tid ∧ w.entry = o.entry) ∧
  (∀ l, o.sub = 1 → lockPermitted s o.tid o.lock = true → getLock s o.lock = some l → l.holder ≠ o.tid →
    applyLock s o = (some eBusy, false, lockCnt (lockCnt s 0x00) 0x18)) ∧
  (∀ l, o.sub = 2 → getLock s o.lock = some l → l.holder ≠ o.tid → ∃ u, applyLock s o = (some eRights, false, u) ∧ u.core = s.core) ∧
  (∀ l w r, o.sub = 2 → getLock s o.lock = some l → l.holder = o.tid → l.waiters = w :: r → ∃ u m, applyLock s o = (some stOk, false, u) ∧
    getLock u o.lock = some m ∧ m.holder = w.tid ∧ m.waiters = r) ∧
  (∀ l, o.sub = 2 → getLock s o.lock = some l → l.holder = o.tid → l.waiters = [] → ∃ u, applyLock s o = (some stOk, false, u) ∧
    u.core.locks = tblDel s.core.locks o.lock) ∧
  (lockPermitted s o.tid o.lock = false → o.sub ≤ 1 → applyLock s o = (some eRights, false, lockCnt s 0x58))

/-- The lock unit's events and commands (R398 to R404), and Sealer's key commands (Table 13-7), where no lock operation
waits to be applied: the oldest grant reaches its thread and counts; a waiter past its limit leaves with E_TIMEOUT; a lock
held past its limit is recorded once; LOCK_STATUS and LOCK_GROUP_STATUS only answer, LOCK_FORCE_RELEASE passes the lock on.
SEALER_KEY_INSTALL holds the unwrapped key, ERASE removes it, STATUS answers its domain and use. -/
def Obligations.LocksAndKeys : Prop := ∀ s : State, s.fault.marks = [] →
  (s.core.lockOps = [] →
    (∀ g r, s.core.grants = g :: r → exec .lockGrant s =
      .next (lockAnswer (lockCnt { s with core := { s.core with grants := r } } 0x10) g.tid g.entry g.status (some 4) none)) ∧
    (∀ (n : Fin 4096) l w, getLock s n.val = some l → firstOverdue l = some w → ∃ u, u = advanceTo s (w.since + usTicks w.maxWaitUs) ∧
      exec (.lockWaitTimeout n) s = .next (lockAnswer (lockCnt (setLock u n.val { l with waiters := l.waiters.erase w }) 0x40) w.tid w.entry eTimeout none none)) ∧
    (∀ (n : Fin 4096) l, getLock s n.val = some l → l.maxHoldUs ≠ 0 → l.reported = false → ∃ u, u = advanceTo s (l.grantTick + usTicks l.maxHoldUs + 1) ∧
      exec (.lockHoldLong n) s = .next (record (lockCnt (setLock u n.val { l with reported := true }) 0x48) 0 0x0B 0x0002 (unitLoc 26 (n.val / 64))
        (toLE 2 n.val ++ toLE 2 l.holder))) ∧
    (∀ (mb : MbId) (n : BitVec 16), isReady s 24 = true → n.toNat ≤ 4095 →
      (∃ d, exec (.lockStatus mb n) s = .next (reply s mb.val stOk d) ∧ d.length = 32 ∧ (d.head? = some 1 ↔ (getLock s n.toNat).isSome = true)) ∧
      (∀ l, getLock s n.toNat = some l → exec (.lockForceRelease mb n) s = .next (reply (passLock (lockCnt s 0x30) n.toNat sAbandoned s.now) mb.val stOk)) ∧
      (getLock s n.toNat = none → exec (.lockForceRelease mb n) s = .next (reply s mb.val eNotFound))) ∧
    (∀ (mb : MbId) (g : BitVec 8), isReady s 24 = true → g.toNat ≤ 63 → ∃ d, exec (.lockGroupStatus mb g) s = .next (reply s mb.val stOk d) ∧ d.length = 13)) ∧
  (∀ (mb : MbId) (i : BitVec 16) (d u : BitVec 8) (w kek : Bytes), isReady s 23 = true → i.toNat ≤ 4095 → d.toNat ≤ 15 → u.toNat ≤ 7 → w.length = 40 →
    tblFind s.svc.keks 1 = some kek →
    exec (.sealerKeyInstall mb i d u w) s = .next (match keyUnwrap kek w with
      | some key => reply { s with core := { s.core with keys := tblSet s.core.keys i.toNat { domain := d.toNat, use := u.toNat, key := key } } } mb.val stOk
      | none => reply s mb.val eSignature)) ∧
  (∀ (mb : MbId) (i : BitVec 16), isReady s 23 = true → i.toNat ≤ 4095 →
    (∀ k, getKey s i.toNat = some k → exec (.sealerKeyErase mb i) s = .next (reply { s with core := { s.core with keys := tblDel s.core.keys i.toNat } } mb.val stOk) ∧
      exec (.sealerKeyStatus mb i) s = .next (reply s mb.val stOk (toLE 1 1 ++ toLE 1 k.domain ++ toLE 1 k.use))) ∧
    (getKey s i.toNat = none → exec (.sealerKeyErase mb i) s = .next (reply s mb.val eNotFound) ∧ exec (.sealerKeyStatus mb i) s = .next (reply s mb.val stOk [0, 0, 0]))) ∧
  (∀ (mb : MbId) (i : BitVec 16), isReady s 23 = false → exec (.sealerKeyErase mb i) s = .next (reply s mb.val eNotReady) ∧
    exec (.sealerKeyStatus mb i) s = .next (reply s mb.val eNotReady))

/-- A thread's Skim word `x` of a row issues now: the thread's next position is at tick `c.p`, no block instruction runs and
no event takes the position, the word at its PC decodes to `x`, nothing pending stops it (R274) and it stands where it may
(R342); `v` is what its stage 3 reads, and `u` the state in which it issues. -/
def SkimDue (s : State) (tid : Tid) (row : Row) (x : SkWord) (c : Ctx) (v u : State) : Prop :=
  ∃ s1 w, slotFor s (tidNum tid) = some (c.p, s1) ∧ (getTh s1 (tidNum tid)).block = none ∧
    ((getTh s1 (tidNum tid)).rprog.isNone && eventTakes s1 (tidNum tid) c.p) = false ∧
    fetchCode s1 (tidNum tid) = .word w ∧ decodeSkim w = some x ∧ skRow v (tidNum tid) w = row ∧
    v = stage3 s1 (tidNum tid) c.p ∧ u = wordIssued s1 (tidNum tid) (getTh s1 (tidNum tid)).pc 4 ∧
    c = { tid := tidNum tid, p := c.p, addr := (getTh s1 (tidNum tid)).pc, len := 4, render := false } ∧
    scoreboardStops (getTh s1 (tidNum tid)) (skUses v (tidNum tid) x) = false ∧ skPlacement s1 c x = false ∧
    scoreboardStops (getTh u (tidNum tid)) (skUses v (tidNum tid) x) = false ∧ skPlacement u c x = false

/-- The row of the table that a decoded Skim word is, TCMD's apart. -/
def wordRow (x : SkWord) : Option Row :=
  match x with
  | .paired _ _ => some .paired | .nop => some .nop | .alu _ _ _ _ _ => some .alu | .insh _ _ => some .insh | .ld _ _ _ _ _ _ _ => some .ld
  | .st _ _ _ _ _ _ => some .st | .tas _ _ _ _ => some .tas | .loop _ _ _ => some .loop | .setlc _ => some .setlc | .br _ _ => some .br
  | .bal _ => some .bal | .jr _ => some .jr | .mode _ => some .mode | .fence => some .fence | .trap => some .trap | .retx => some .retx
  | .mfs _ _ => some .mfs | .mts _ _ => some .mts | .fmov _ _ => some .fmov | .thr k _ _ _ => some (thrRow k)
  | .sr 0 _ _ => some .srld | .sr 1 _ _ => some .srst | .sr 2 _ _ => some .sradd | .sr _ _ _ => some .srswap
  | .lookup _ _ => some .lookup | .learn _ => some .learn | .buf 0 _ _ => some .bufAlloc | .buf 1 _ _ => some .bufHold
  | .buf _ _ _ => some .bufRelease | .epost _ _ _ _ => some .egressPost | .tcmd _ _ => none
  | .lock 0 _ _ => some .acquire | .lock 1 _ _ => some .try_ | .lock 2 _ _ => some .release | .lock _ _ _ => some .force
  | .cop _ _ _ => some .cop | .cmov _ _ _ _ => some .cmov | .cstate _ false _ => some .csave | .cstate _ true _ => some .crestore

/-- Which row a Skim word issues under: every word that decodes has the row of what it decodes to, but a table command,
which has its record's. What issuing does besides a word's own effect (R268, R274, R335, R341, R344): a row other than that of the word due, or
a row while the thread does not run, changes nothing; a word that something pending stops leaves the thread at its PC for
the next tick, and counts; a plain word leads to the next address and the next tick, and a branch to its delay slot first.
A word that decodes to nothing raises ILLEGAL, and a PC outside the program raises CODE under the row NOP. -/
def Obligations.IssueRules : Prop :=
  (∀ (v : State) (tid w : Nat) (x : SkWord) (r : Row), w < 2 ^ 32 →
  decodeSkim w = some x → wordRow x = some r → skRow v tid w = r) ∧
  (∀ (tid : Tid) (s s1 : State) (p w : Nat), let k := tidNum tid
  ((getTh s k).running = false → ∀ row, issue s k row = s) ∧
  (slotFor s k = some (p, s1) → (getTh s1 k).block = none → ((getTh s1 k).rprog.isNone && eventTakes s1 k p) = false →
    (fetchCode s1 k = .word w → ∀ row, row ≠ skRow (stage3 s1 k p) k w → issue s k row = s) ∧
    (∀ x, fetchCode s1 k = .word w → decodeSkim w = some x → scoreboardStops (getTh s1 k) (skUses (stage3 s1 k p) k x) = true →
      issue s k (skRow (stage3 s1 k p) k w) = coreCnt (modTh s1 k (fun t => { t with nextAt := p + 1 })) k 0x10 1) ∧
    (fetchCode s1 k = .word w → decodeSkim w = none → ∃ u v c, u = wordIssued s1 k (getTh s1 k).pc 4 ∧ v = stage3 s1 k p ∧
      c = { tid := k, p := p, addr := (getTh s1 k).pc, len := 4, render := false : Ctx } ∧
      issue s k (skRow v k w) = deliverExc u (getTh v k) k p c.addr 4 false { cause := 3 }) ∧
    (fetchCode s1 k = .code → (getTh s1 k).mode = false → exec (.nop tid) s =
      .next (deliverExc s1 (getTh (stage3 s1 k p) k) k p (getTh s1 k).pc 4 false { cause := 5 }))) ∧
  (∀ (u v : State) (c : Ctx), (getTh u c.tid).flow = .plain → loopEndsAt (getTh u c.tid) c.addr c.len = false →
    (getTh (finishWord u v c .seq) c.tid).pc = (c.addr + c.len) % 2 ^ 24 ∧ (getTh (finishWord u v c .seq) c.tid).nextAt = c.p + 1) ∧
  (∀ (u v : State) (c : Ctx) a b tick, (getTh u c.tid).flow = .slot b (some a) tick →
    (getTh (finishWord u v c .seq) c.tid).pc = a % 2 ^ 24 ∧ (getTh (finishWord u v c .seq) c.tid).nextAt = Nat.max (c.p + 1) (tick + 3)) ∧
  (∀ (u v : State) (c : Ctx), (getTh u c.tid).flow = .plain → loopEndsAt (getTh u c.tid) c.addr c.len = true → 1 < (getTh u c.tid).lc →
    (getTh u c.tid).loopFirst < 2 ^ 24 → (getTh (finishWord u v c .seq) c.tid).pc = (getTh u c.tid).loopFirst ∧
    (getTh (finishWord u v c .seq) c.tid).lc = (getTh u c.tid).lc - 1))

/-- The ALU's flags (Table 11-7): Z and N are those of the result; C of ADD and ADC is the carry out of bit 63, and of SUB,
SBC and CMP that no borrow occurs; V is signed overflow; shifts put the last bit shifted out into C, and a shift by 0 clears
it; the logic functions clear C and V; MOV and BSWAP write no flags; CMP and TST write no register. -/
def Obligations.AluFlags : Prop := ∀ (a b : BitVec 64) (c : Bool),
  (∀ fn q f, aluRun fn a b c = (some q, some f) → (f.z = true ↔ q = 0) ∧ (f.n = true ↔ q.toInt < 0)) ∧
  (∃ f, aluRun 0 a b c = (some (a + b), some f) ∧ (f.c = true ↔ 2 ^ 64 ≤ a.toNat + b.toNat) ∧
    (f.v = true ↔ a.toInt + b.toInt < -2 ^ 63 ∨ 2 ^ 63 ≤ a.toInt + b.toInt)) ∧
  (∃ q f, aluRun 1 a b c = (some q, some f) ∧ q.toNat = (a.toNat + b.toNat + c.toNat) % 2 ^ 64 ∧ (f.c = true ↔ 2 ^ 64 ≤ a.toNat + b.toNat + c.toNat) ∧
    (f.v = true ↔ a.toInt + b.toInt + c.toNat < -2 ^ 63 ∨ 2 ^ 63 ≤ a.toInt + b.toInt + c.toNat)) ∧
  (∃ f, aluRun 2 a b c = (some (a - b), some f) ∧ aluRun 9 a b c = (none, some f) ∧ (f.c = true ↔ b.toNat ≤ a.toNat) ∧
    (f.v = true ↔ a.toInt - b.toInt < -2 ^ 63 ∨ 2 ^ 63 ≤ a.toInt - b.toInt)) ∧
  (∃ q f, aluRun 3 a b c = (some q, some f) ∧ (f.c = true ↔ b.toNat + (1 - c.toNat) ≤ a.toNat) ∧
    (q.toNat : Int) = ((a.toNat : Int) - b.toNat - (1 - c.toNat : Nat)) % 2 ^ 64 ∧
    (f.v = true ↔ a.toInt - b.toInt - (1 - c.toNat : Nat) < -2 ^ 63 ∨ 2 ^ 63 ≤ a.toInt - b.toInt - (1 - c.toNat : Nat))) ∧
  (∀ fn, 4 ≤ fn → fn ≤ 7 → ∃ q f, aluRun fn a b c = (some q, some f) ∧ f.c = false ∧ f.v = false) ∧
  (b.toNat % 64 = 0 → ∀ fn, 11 ≤ fn → fn ≤ 13 → ∃ f, aluRun fn a b c = (some a, some f) ∧ f.c = false) ∧
  (0 < b.toNat % 64 → (∃ f, aluRun 11 a b c = (some (a <<< (b.toNat % 64)), some f) ∧ f.c = a.getLsbD (64 - b.toNat % 64)) ∧
    (∃ f, aluRun 12 a b c = (some (a >>> (b.toNat % 64)), some f) ∧ f.c = a.getLsbD (b.toNat % 64 - 1)) ∧
    (∃ f, aluRun 13 a b c = (some (a.sshiftRight (b.toNat % 64)), some f) ∧ f.c = a.getLsbD (b.toNat % 64 - 1))) ∧
  aluRun 8 a b c = (some b, none) ∧ aluRun 15 a b c = (some (bswapV a b.toNat), none) ∧ (∃ f, aluRun 10 a b c = (none, some f))

/-- The source operand of a Format R word (Table 11-5): a register, or an immediate zero-extended, sign-extended or shifted
left by 16. -/
def aluSource (t : Thread) (sk src imm : Nat) : BitVec 64 :=
  match sk with
  | 0 => srcR t src
  | 1 => BitVec.ofNat 64 imm
  | 2 => sext 16 imm
  | _ => BitVec.ofNat 64 (imm * 65536)

/-- ALU words and moves (R269, R333, R336, R339): results and flags land three ticks after the issue, computed from what
stage 3 reads; a paired word does both halves; INSH shifts 16 bits in; MFS, MTS and FMOV move status, and nothing else of
the thread changes but its place in the program. -/
def Obligations.AluWords : Prop := ∀ (tid : Tid) (s v u : State) (c : Ctx), let t := getTh v (tidNum tid)
  (∀ fn d sk src imm o, SkimDue s tid .alu (.alu fn d sk src imm) c v u → o = aluRun fn (getReg t (regD d)) (aluSource t sk src imm) t.fc →
    (∀ q f, o = (some q, some f) → exec (.alu tid) s =
      .next (finishWord (pendTh (pendTh u c.tid (c.p + 4) (.reg (regD d) q)) c.tid (c.p + 4) (.flags f.z f.n f.c f.v)) v c .seq)) ∧
    (∀ q, o = (some q, none) → exec (.alu tid) s = .next (finishWord (pendTh u c.tid (c.p + 4) (.reg (regD d) q)) v c .seq)) ∧
    (∀ f, o = (none, some f) → exec (.alu tid) s = .next (finishWord (pendTh u c.tid (c.p + 4) (.flags f.z f.n f.c f.v)) v c .seq))) ∧
  (∀ d imm, SkimDue s tid .insh (.insh d imm) c v u → exec (.insh tid) s =
    .next (finishWord (pendTh u c.tid (c.p + 4) (.reg (regD d) (getReg t (regD d) <<< 16 ||| BitVec.ofNat 64 imm))) v c .seq)) ∧
  (∀ a b, SkimDue s tid .paired (.paired a b) c v u → halfBad a = none → halfBad b = none → exec (.pairedWord tid) s =
    .next (finishWord (coreCnt (semHalf v (semHalf v u c a) c b) c.tid 0x08 1) v c .seq)) ∧
  (∀ r n, SkimDue s tid .mfs (.mfs r n) c v u → exec (.mfs tid) s =
    .next (finishWord (pendTh u c.tid (c.p + 4) (.reg (regA r) (getStatus v c.tid (c.p + 2) n))) v c .seq)) ∧
  (∀ r n, SkimDue s tid .mts (.mts r n) c v u → exec (.mts tid) s =
    .next (finishWord (pendTh u c.tid (c.p + 4) (.status n (getReg t (regA r)))) v c .seq)) ∧
  (∀ r, SkimDue s tid .fmov (.fmov true r) c v u → exec (.fmov tid) s =
    .next (finishWord (pendTh u c.tid (c.p + 4) (.fmov (getReg t (regA r)))) v c .seq)) ∧
  (∀ r, SkimDue s tid .fmov (.fmov false r) c v u → exec (.fmov tid) s =
    .next (finishWord (pendTh u c.tid (c.p + 4) (.reg (regA r) (BitVec.ofNat 64 (fWord t)))) v c .seq))

/-- Loads, stores and TAS (R283, R284, R334, R337, R338): an access within bank 0 or the own cluster's memory is answered
after its latency, a store there is put on its way, an access beyond them becomes a long load with its scoreboard entry or a
posted store; a forbidden access raises its exception and does nothing else. -/
def Obligations.MemoryWords : Prop := ∀ (tid : Tid) (s v u : State) (c : Ctx), let t := getTh v (tidNum tid)
  (∀ r size am be sx z0 disp, SkimDue s tid .ld (.ld r size am be sx z0 disp) c v u → let f : LoadFmt := { size := 2 ^ size, be := be, sx := sx }
    (∀ o, resolveBank v c.tid (memBank t z0) (memOffset t am (2 ^ size) disp) (2 ^ size) false = .ok (.priv o) → exec (.ld tid) s =
      .next (finishWord (pendTh u c.tid (c.p + shortLat (.priv o) (2 ^ size) + 1) (.reg (regA r) (loadValue f (memBytes t.mem o (2 ^ size))))) v c .seq)) ∧
    (∀ a, resolveBank v c.tid (memBank t z0) (memOffset t am (2 ^ size) disp) (2 ^ size) false = .ok (.own a) → exec (.ld tid) s =
      .next (finishWord (pendTh u c.tid (c.p + shortLat (.own a) (2 ^ size) + 1) (.reg (regA r) (loadValue f (memBytes v.mem a (2 ^ size))))) v c .seq)) ∧
    (∀ a, resolveBank v c.tid (memBank t z0) (memOffset t am (2 ^ size) disp) (2 ^ size) false = .ok (.far a) → exec (.ld tid) s =
      .next (finishWord (longLoad u c a (2 ^ size) [.reg (regA r)] (.load a f (regA r))) v c .seq)) ∧
    (∀ e, resolveBank v c.tid (memBank t z0) (memOffset t am (2 ^ size) disp) (2 ^ size) false = .error e → exec (.ld tid) s =
      .next (finishWord u v c (.exc e)))) ∧
  (∀ r size am be z0 disp, SkimDue s tid .st (.st r size am be z0 disp) c v u → let f : LoadFmt := { size := 2 ^ size, be := be }
    (∀ a, resolveBank v c.tid (memBank t z0) (memOffset t am (2 ^ size) disp) (2 ^ size) true = .ok (.own a) → exec (.st tid) s =
      .next (finishWord (clusterOp u c.tid (c.p + shortLat (.own a) (storeBytes f (getReg t (regA r))).length + 1) (.store a (storeBytes f (getReg t (regA r))))) v c .seq)) ∧
    (∀ o, resolveBank v c.tid (memBank t z0) (memOffset t am (2 ^ size) disp) (2 ^ size) true = .ok (.priv o) → exec (.st tid) s =
      .next (finishWord (shortWrite u c.tid c.p (.priv o) (storeBytes f (getReg t (regA r)))) v c .seq)) ∧
    (∀ a, resolveBank v c.tid (memBank t z0) (memOffset t am (2 ^ size) disp) (2 ^ size) true = .ok (.far a) → exec (.st tid) s =
      .next (finishWord (longStore u c a (storeBytes f (getReg t (regA r)))) v c .seq)) ∧
    (∀ e, resolveBank v c.tid (memBank t z0) (memOffset t am (2 ^ size) disp) (2 ^ size) true = .error e → exec (.st tid) s =
      .next (finishWord u v c (.exc e)))) ∧
  (∀ r am z0 disp a pl, SkimDue s tid .tas (.tas r am z0 disp) c v u →
    resolveBank v c.tid (memBank t z0) (memOffset t am 1 disp) 1 false = .ok pl →
    resolveBank v c.tid (memBank t z0) (memOffset t am 1 disp) 1 true = .ok (.own a) → ∃ e,
    e = allocEntry u c.tid [.reg (regA r)] (.tas a (regA r) none) (some (c.p + 14)) true ∧
    exec (.tas tid) s = .next (finishWord (clusterOp e.2 c.tid (c.p + 13) (.tas a e.1)) v c .seq)) ∧
  (∀ r am z0 disp o pl, SkimDue s tid .tas (.tas r am z0 disp) c v u →
    resolveBank v c.tid (memBank t z0) (memOffset t am 1 disp) 1 false = .ok pl →
    resolveBank v c.tid (memBank t z0) (memOffset t am 1 disp) 1 true = .ok (.priv o) →
    exec (.tas tid) s = .next (finishWord u v c (.exc { cause := 3 })))

/-- Control words (R277, R340, R343, R346, R347, R350): LOOP and SETLC write LC at issue; BR goes to its target after the
delay slot when its condition holds for the flags of stage 3, BAL and JR always, BAL with its link in Y; MODE changes the
mode after its shadow; FENCE holds the thread back; TRAP raises its exception; RETX goes back to EPC in a handler and is
ILLEGAL outside one; NOP does nothing. -/
def Obligations.ControlWords : Prop := ∀ (tid : Tid) (s v u : State) (c : Ctx), let t := getTh v (tidNum tid)
  (SkimDue s tid .nop .nop c v u → exec (.nop tid) s = .next (finishWord u v c .seq)) ∧
  (∀ csrc len imm n, SkimDue s tid .loop (.loop csrc len imm) c v u →
    n = (if csrc = 0 then imm else (getReg (getTh u (tidNum tid)) (regA (csrc - 1))).toNat % 65536) →
    (n ≠ 0 → exec (.loop tid) s = .next (finishWord (modTh u c.tid (fun t => { t with
      lc := n, loopFirst := c.addr + 4, loopLast := c.addr + 4 + 4 * len, loopValid := true })) v c .seq)) ∧
    (n = 0 → exec (.loop tid) s = .next (finishWord (modTh u c.tid (fun t => { t with lc := 0, loopValid := false })) v c (.skip (c.addr + 4 + 4 * len))))) ∧
  (∀ imm, SkimDue s tid .setlc (.setlc imm) c v u → exec (.setlc tid) s =
    .next (finishWord (modTh u c.tid (fun t => { t with lc := imm, loopValid := false })) v c .seq)) ∧
  (∀ cond d, SkimDue s tid .br (.br cond d) c v u → exec (.br tid) s = .next (finishWord u v c
    (.branch (if condHolds cond { z := t.fz, n := t.fn, c := t.fc, v := t.fv } t.fe then some (codeAdd (c.addr + 4) (4 * d)) else none)))) ∧
  (∀ d, SkimDue s tid .bal (.bal d) c v u → exec (.bal tid) s = .next (finishWord
    (pendTh u c.tid (c.p + 4) (.reg .y (BitVec.ofNat 64 ((c.addr + 8) % 2 ^ 24)))) v c (.branch (some (codeAdd (c.addr + 4) (4 * d)))))) ∧
  (∀ r, SkimDue s tid .jr (.jr r) c v u → exec (.jr tid) s = .next (finishWord u v c (.branch (some ((getReg t (regA r)).toNat % 2 ^ 24))))) ∧
  (∀ r, SkimDue s tid .mode (.mode r) c v u → exec (.mode tid) s = .next (finishWord u v c (.mode r))) ∧
  (SkimDue s tid .fence .fence c v u → (getTh u (tidNum tid)).pend = [] → (getCl u (tidCluster (tidNum tid))).ops = [] → exec (.fence tid) s =
    .next (modTh (finishWord (coreCnt u c.tid 0x58 1) u c .seq) c.tid (fun t => { t with fence := true }))) ∧
  (SkimDue s tid .trap .trap c v u → exec (.trap tid) s = .next (deliverExc u t c.tid c.p c.addr 4 true { cause := 4 })) ∧
  (SkimDue s tid .retx .retx c v u → (getTh u (tidNum tid)).ex = true →
    ∃ w, exec (.retx tid) s = .next w ∧ (getTh w c.tid).pc = t.epc ∧ (getTh w c.tid).lc = t.elc ∧ (getTh w c.tid).ex = false ∧
      (getTh w c.tid).mode = t.ef.testBit 5 ∧ (getTh w c.tid).resv = none) ∧
  (SkimDue s tid .retx .retx c v u → (getTh u (tidNum tid)).ex = false → exec (.retx tid) s = .next (finishWord u v c (.exc { cause := 3 })))

/-- Thread words (R303 to R306, R314, R320 to R325): NEXT and WAIT go on when their event is there and wait otherwise; PASS
hands the item on and is done; messages, signals and delay-list words become entries that complete later; CHRECV takes the
head message; TMRPOP the earliest due tag; SLEEP joins the delay list. Shared registers (R323, R324): a thread whose domain meets the register's reads it into a register, or puts a store, an
addition or an exchange on its way to the cluster; another thread's word raises RIGHTS. -/
def Obligations.ThreadWords : Prop :=
  (∀ (tid : Tid) (s v u : State) (c : Ctx) (o1 o2 : Nat) (h : Bool), let t := getTh v (tidNum tid)
  (SkimDue s tid .next (.thr 0 o1 o2 h) c v u → ((getTh u (tidNum tid)).bind.map (·.service)).getD false = false →
    ((evfAt u c.tid c.p).testBit 0 = true → (nextSwap u c.tid c.p).1 = false → exec (.next tid) s = .next (finishWord (nextSwap u c.tid c.p).2 v c .seq)) ∧
    ((evfAt u c.tid c.p).testBit 0 = false → exec (.next tid) s = .next (finishWord u v c (if blocks u c.tid then .block .work else .again)))) ∧
  (SkimDue s tid .wait (.thr 1 o1 o2 h) c v u →
    (armedAt u c.tid c.p ≠ 0 → exec (.wait tid) s = .next (finishWord u v c .seq)) ∧
    (armedAt u c.tid c.p = 0 → exec (.wait tid) s = .next (finishWord u v c (if blocks u c.tid then .block .event else .again)))) ∧
  (SkimDue s tid .sleep (.thr 2 o1 o2 h) c v u → (getTh u (tidNum tid)).sleeping = false → (getCl u (tidCluster c.tid)).timers.length < 512 →
    ∃ u1, addTimer u { tid := c.tid, tag := 0, deadline := t.a.toNat % 2 ^ 32, sleep := true } = (true, u1) ∧
      (blocks u c.tid = true → exec (.sleep tid) s = .next (finishWord u1 v c (.block .sleep))) ∧
      (blocks u c.tid = false → exec (.sleep tid) s = .next (finishWord (modTh u1 c.tid (fun t => { t with sleeping := true })) v c .again))) ∧
  (SkimDue s tid .sleep (.thr 2 o1 o2 h) c v u → (getTh u (tidNum tid)).sleeping = false → 512 ≤ (getCl u (tidCluster c.tid)).timers.length →
    exec (.sleep tid) s = .next (finishWord (pendTh (dispCnt u (tidCluster c.tid) 0x58 1) c.tid (c.p + 4) (.ebit true)) v c .seq)) ∧
  (∀ it, SkimDue s tid .pass (.thr 3 o1 o2 h) c v u → areaBad o2 2 = none → t.item = some it → it.done = false →
    it.coat + 1 < (chainCoats (u.plan.of it.epoch) it.chain).length → passBusy u (passedItem t it) = false → changedWords t = [] → ∃ e,
    e = opEntry (modSlots u c.tid (fun l => l.erase it.handle)) c o2 2 (.pass (8 * o2) none) (some (c.p + 4)) true ∧
    exec (.pass tid) s = .next (finishWord (modTh e.2 c.tid (fun t => { t with
      passing := tblSet t.passing e.1 (passedItem (getTh v (tidNum tid)) it), item := some { it with done := true } })) v c .seq)) ∧
  (SkimDue s tid .chsend (.thr 4 o1 o2 h) c v u → areaBad o2 2 = none → exec (.chsend tid) s = .next (finishWord (opEntry u c o2 2
    (.chsend (8 * o2) (t.x.toNat % 65536) (o1 % 8) t.a (if h then some (t.y.toNat % 2 ^ 32) else none)) none false).2 v c .seq)) ∧
  (SkimDue s tid .chrecv (.thr 5 o1 o2 h) c v u →
    ((evfAt u c.tid c.p).testBit (5 + o1 % 8) = true → exec (.chrecv tid) s = .next (finishWord (takeMessage u c.tid (o1 % 8) (c.p + 5)) v c .seq)) ∧
    ((evfAt u c.tid c.p).testBit (5 + o1 % 8) = false → blocks u c.tid = true → exec (.chrecv tid) s = .next (finishWord u v c (.block (.channel (o1 % 8))))) ∧
    ((evfAt u c.tid c.p).testBit (5 + o1 % 8) = false → blocks u c.tid = false → exec (.chrecv tid) s =
      .next (finishWord (pendTh u c.tid (c.p + 5) (.ebit true)) v c .seq))) ∧
  (SkimDue s tid .signal (.thr 6 o1 o2 h) c v u → areaBad o2 2 = none → exec (.signal tid) s =
    .next (finishWord (opEntry u c o2 2 (.signal (8 * o2) (t.x.toNat % 65536) (o1 % 8)) none false).2 v c .seq)) ∧
  (SkimDue s tid .tmrset (.thr 7 o1 o2 h) c v u → areaBad o2 2 = none → exec (.tmrset tid) s = .next (finishWord (opEntry u c o2 2
    (.tmrset (8 * o2) (t.a.toNat % 2 ^ 32 + listTick u (tidCluster c.tid)) (t.x.toNat % 65536)) (some (c.p + 8)) true).2 v c .seq)) ∧
  (SkimDue s tid .tmrcan (.thr 8 o1 o2 h) c v u → areaBad o2 2 = none → exec (.tmrcan tid) s =
    .next (finishWord (opEntry u c o2 2 (.tmrcan (8 * o2) (t.x.toNat % 65536)) (some (c.p + 8)) true).2 v c .seq)) ∧
  (SkimDue s tid .tmrpop (.thr 9 o1 o2 h) c v u →
    (∀ e, firstDue u c.tid c.p = some e → exec (.tmrpop tid) s = .next (finishWord (pendTh (pendTh
      (modCl u (tidCluster c.tid) (fun k => { k with timers := k.timers.erase e })) c.tid (c.p + 5) (.reg .a (BitVec.ofNat 64 e.tag))) c.tid (c.p + 5) (.ebit false)) v c .seq)) ∧
    (firstDue u c.tid c.p = none → exec (.tmrpop tid) s = .next (finishWord (pendTh u c.tid (c.p + 5) (.ebit true)) v c .seq)))) ∧
  (∀ (tid : Tid) (s v u : State) (c : Ctx) (r n : Nat), let t := getTh v (tidNum tid)
  let k := tidCluster c.tid
  let meets := domainsMeet (threadDomain t) (shregDomain (planOfTh u t) k n)
  (SkimDue s tid .srld (.sr 0 r n) c v u → meets = true → exec (.srld tid) s =
    .next (finishWord (pendTh u c.tid (c.p + 5) (.reg (regA r) (tblGet 0 (getCl v k).shreg n))) v c .seq)) ∧
  (SkimDue s tid .srst (.sr 1 r n) c v u → meets = true → exec (.srst tid) s =
    .next (finishWord (clusterOp u c.tid (c.p + 5) (.srst n (getReg t (regA r)))) v c .seq)) ∧
  (SkimDue s tid .sradd (.sr 2 r n) c v u → meets = true → exec (.sradd tid) s =
    .next (finishWord (clusterOp u c.tid (c.p + 5) (.sradd n (getReg t (regA r)) (regA r))) v c .seq)) ∧
  (SkimDue s tid .srswap (.sr 3 r n) c v u → meets = true → exec (.srswap tid) s =
    .next (finishWord (clusterOp u c.tid (c.p + 5) (.srswap n (getReg t (regA r)) (regA r))) v c .seq)) ∧
  (SkimDue s tid .srst (.sr 1 r n) c v u → meets = false → ∃ e, e.cause = 2 ∧ exec (.srst tid) s = .next (finishWord (drawFree u).2 v c (.exc e))))

/-- The engine's answer to a table command in a mailbox record, by its OP (Table 6-9), with COMMANDS counted. -/
def tableAnswer (s : State) (mb : MbId) (r : Bytes × State) : State := reply (tabCnt r.2 0x0C0 1) mb.val (leAt r.1 0 2) r.1

/-- A well-formed record of a table command: 64 bytes, its OP and its reserved fields as Table 6-8 gives them. -/
def RecordOk (op : Nat) (cmd : Bytes) : Prop :=
  leAt cmd 0 2 = op ∧ cmd.length = 64 ∧ byteAt cmd 3 / 32 = 0 ∧ allZero (slice cmd 9 3) = true ∧ allZero (slice cmd 20 12) = true

/-- A thread's TCMD word is due whose record in bank 0 names the OP (Table 11-10). -/
def TcmdDue (s : State) (tid : Tid) (op o1 o2 : Nat) (c : Ctx) (v u : State) : Prop :=
  SkimDue s tid (.tcmd op) (.tcmd o1 o2) c v u ∧ areaBad o1 64 = none ∧ areaBad o2 64 = none

/-- Table commands by mailbox (R191 to R193, R626): SEARCH, NEXT, INSERT, DELETE and INVALIDATE answer at once with the
result of the engine's operation; FLUSH_BY_PORT and AGE_NOW become routines, or answer at once when they cannot start;
TABLE_STATUS only answers. A record with another OP or a reserved field set is E_ARGS, and all are E_NOT_READY before
READY.TABLES. Table commands by threads (R191): the record is copied into a scoreboard entry that completes with TABLE, and with 56
slots taken the command completes at once with E_BUSY; the same holds for every OP. -/
def Obligations.TableCommands : Prop :=
  (∀ (mb : MbId) (cmd : Bytes) (s : State),
  let d := byteAt cmd 2
  let k := withDomain (slice cmd 32 19) d
  (isReady s 10 = true →
    (RecordOk 1 cmd → d ≤ 15 → exec (.search (.mailbox mb cmd)) s = .next (tableAnswer s mb (cmdSearch s k))) ∧
    (RecordOk 2 cmd → d ≤ 15 ∨ d = 0xFF → exec (.tableNext (.mailbox mb cmd)) s = .next (tableAnswer s mb (cmdNext s d cmd))) ∧
    (RecordOk 3 cmd → d ≤ 15 → exec (.insert (.mailbox mb cmd)) s = .next (tableAnswer s mb (cmdInsert s cmd k))) ∧
    (RecordOk 4 cmd → d ≤ 15 → exec (.delete (.mailbox mb cmd)) s = .next (tableAnswer s mb (cmdDelete s k))) ∧
    (RecordOk 6 cmd → exec (.invalidate (.mailbox mb cmd)) s = .next (tableAnswer s mb (cmdInvalidate s cmd k))) ∧
    (RecordOk 5 cmd → d ≤ 15 ∨ d = 0xFF →
      (∀ t, cmdRoutine s false (.mailbox mb.val) d cmd = (none, t) → exec (.flushByPort (.mailbox mb cmd)) s = .next t) ∧
      (∀ r t, cmdRoutine s false (.mailbox mb.val) d cmd = (some r, t) → exec (.flushByPort (.mailbox mb cmd)) s = .next (tableAnswer t mb (r, t)))) ∧
    (RecordOk 7 cmd →
      (∀ t, cmdRoutine s true (.mailbox mb.val) d cmd = (none, t) → exec (.ageNow (.mailbox mb cmd)) s = .next t) ∧
      (∀ r t, cmdRoutine s true (.mailbox mb.val) d cmd = (some r, t) → exec (.ageNow (.mailbox mb cmd)) s = .next (tableAnswer t mb (r, t)))) ∧
    exec (.tableStatus (.mailbox mb cmd)) s = .next (reply s mb.val stOk (tableStatus s)) ∧
    (leAt cmd 0 2 ≠ 1 → exec (.search (.mailbox mb cmd)) s = .next (reply s mb.val eArgs))) ∧
  (isReady s 10 = false → exec (.search (.mailbox mb cmd)) s = .next (reply s mb.val eNotReady) ∧
    exec (.insert (.mailbox mb cmd)) s = .next (reply s mb.val eNotReady) ∧ exec (.tableStatus (.mailbox mb cmd)) s = .next (reply s mb.val eNotReady))) ∧
  (∀ (tid : Tid) (op o1 o2 : Nat) (s v u : State) (c : Ctx), TcmdDue s tid op o1 o2 c v u →
  let t := if 56 ≤ threadSlotsUsed u then (opEntry u c o2 64 (.result (8 * o2) (cmdResult u eBusy) (some 14) none) (some c.p) false).2
    else (opEntry u c o2 64 (.tcmd (8 * o2) (memBytes (getTh v c.tid).mem (8 * o1) 64)) none false).2
  (op = 1 → exec (.search (.thread tid)) s = .next (finishWord t v c .seq)) ∧ (op = 2 → exec (.tableNext (.thread tid)) s = .next (finishWord t v c .seq)) ∧
  (op = 3 → exec (.insert (.thread tid)) s = .next (finishWord t v c .seq)) ∧ (op = 4 → exec (.delete (.thread tid)) s = .next (finishWord t v c .seq)) ∧
  (op = 5 → exec (.flushByPort (.thread tid)) s = .next (finishWord t v c .seq)) ∧ (op = 6 → exec (.invalidate (.thread tid)) s = .next (finishWord t v c .seq)) ∧
  (op = 7 → exec (.ageNow (.thread tid)) s = .next (finishWord t v c .seq)) ∧ (op = 8 → exec (.tableStatus (.thread tid)) s = .next (finishWord t v c .seq)))

/-- A scoreboard entry whose result is decided at issue: `d` is written at OPD2 when it completes, with a flag (R273). -/
def resultEntry (x : State) (c : Ctx) (o2 : Nat) (d : Bytes) (flag : Option Nat) (due : Option Nat) (exact : Bool) : State :=
  (opEntry x c o2 d.length (.result (8 * o2) d flag none) due exact).2

/-- The long words of Table 11-10 whose areas lie in bank 0: LOOKUP searches the forwarding table of its epoch, LEARN posts a
request for its item's domain, BUF words take and give references by the checks of Hod, EGRESS_POST hands a descriptor over,
and each has its result in a scoreboard entry; lock words join the lock unit's operations of the slot. An area that leaves
its mapped part of bank 0 raises ADDRESS instead. -/
def Obligations.LongWords : Prop := ∀ (tid : Tid) (s v u : State) (c : Ctx) (o1 o2 r : Nat), let t := getTh u (tidNum tid)
  let g := (getReg (getTh v (tidNum tid)) (regA r)).toNat
  (SkimDue s tid .lookup (.lookup o1 o2) c v u → areaBad o1 32 = none → areaBad o2 48 = none → epochRetired u t = false → ∃ req d x,
    req = memBytes (getTh v c.tid).mem (8 * o1) 32 ∧ d = (if threadDomain t = 0 then keyDomain (keyOf req) else workDomain t) ∧
    x = lookupRun u (u.plan.of t.epoch) (c.tid % 2) d req ∧
    exec (.lookup tid) s = .next (finishWord (resultEntry x.2.2.2 c o2 x.1 (some 1) (some (c.p + x.2.1)) x.2.2.1) v c .seq)) ∧
  (∀ it, SkimDue s tid .learn (.learn o1) c v u → areaBad o1 19 = none → t.item = some it → exec (.learn tid) s = .next (finishWord (learnPost u
    { key := withDomain (slice (memBytes (getTh v c.tid).mem (8 * o1) 19) 0 19) it.domain, port := leAt (memBytes (getTh v c.tid).mem 0x1100 64) 28 2 }) v c .seq)) ∧
  (SkimDue s tid .bufAlloc (.buf 0 r o2) c v u → areaBad o2 8 = none → ∃ x, x = bufAlloc u (getTh v c.tid) c.tid (g % 65536) ∧
    exec (.bufAlloc tid) s = .next (finishWord (resultEntry x.2 c o2 x.1 none (some (c.p + 12)) true) v c .seq)) ∧
  (SkimDue s tid .bufHold (.buf 1 r o2) c v u → areaBad o2 8 = none → ∃ x, x = bufHold u (getTh v c.tid) c.tid (g % 2 ^ 32) ∧
    exec (.bufHold tid) s = .next (finishWord (resultEntry x.2 c o2 x.1 none (some (c.p + 500)) false) v c .seq)) ∧
  (SkimDue s tid .bufRelease (.buf 2 r o2) c v u → areaBad o2 8 = none → ∃ x, x = bufRelease u (getTh v c.tid) c.tid (g % 2 ^ 32) ∧
    exec (.bufRelease tid) s = .next (finishWord (resultEntry x.2 c o2 x.1 none (some (c.p + 500)) false) v c .seq)) ∧
  (∀ it last x, SkimDue s tid .egressPost (.epost false last o1 o2) c v u → areaBad o1 32 = none → areaBad o2 2 = none → t.item = some it → it.done = false →
    x = postItem v u c it (memBytes (getTh v c.tid).mem (8 * o1) 32) last →
    exec (.egressPost tid) s = .next (finishWord (resultEntry (postedItem x.2 c x.1 last) c o2 (toLE 2 x.1) (some 13) (some (c.p + 8)) false) v c .seq)) ∧
  (∀ sub, (sub = 0 → SkimDue s tid .acquire (.lock 0 r o2) c v u) → (sub = 1 → SkimDue s tid .try_ (.lock 1 r o2) c v u) →
    (sub = 2 → SkimDue s tid .release (.lock 2 r o2) c v u) → (sub = 3 → SkimDue s tid .force (.lock 3 r o2) c v u) → areaBad o2 2 = none →
    ∃ e w, e = opEntry u c o2 2 (.lockWait (8 * o2) (g % 4096)) (some (c.p + 12)) true ∧
    w = finishWord { e.2 with core := { e.2.core with lockOps := e.2.core.lockOps ++
      [{ tick := c.p, tid := c.tid, entry := e.1, sub := sub, lock := g % 4096, off := 8 * o2 }] } } v c .seq ∧
    (sub = 0 → exec (.acquire tid) s = .next w) ∧ (sub = 1 → exec (.tryLock tid) s = .next w) ∧
    (sub = 2 → exec (.release tid) s = .next w) ∧ (sub = 3 → exec (.force tid) s = .next w)) ∧
  (∀ e, SkimDue s tid .bufAlloc (.buf 0 r o2) c v u → areaBad o2 8 = some e → exec (.bufAlloc tid) s = .next (finishWord u v c (.exc e)))

/-- Coprocessor words (R379 to R384): the first word of a thread takes a unit that has no owner, and a unit of another
thread refuses with RIGHTS and counts; COP starts its function with an entry that completes after its slots; CMOV moves a
register each way; CSAVE writes the context and frees the unit; CRESTORE takes a context in. On a unit without memory errors. -/
def Obligations.CoprocessorWords : Prop := ∀ (tid : Tid) (s v u w : State) (c : Ctx) (k n : Nat), copMarks w (tidUnit (tidNum tid)) k = [] →
  let i := tidUnit (tidNum tid)
  (copClaim u (tidNum tid) k = .ok w →
    (∀ func, k = 0 → copArgs 0 func ≠ some 0xFFFF → SkimDue s tid .cop (.cop 0 func n) c v u → ∃ regs, regs = (getCop v i 0).regs ∧ exec (.cop tid) s =
      .next (finishWord (allocEntry w c.tid [.unit 0] (.cop 0 func (changedRegs regs (scrimRun func n regs (memBytes (getTh v c.tid).mem n 0))) none none)
        (some (c.p + scrimSlots func 0)) true).2 v c .seq)) ∧
    (∀ r, SkimDue s tid .cmov (.cmov k true r n) c v u → exec (.cmov tid) s =
      .next (finishWord (pendTh w c.tid (c.p + 5) (.reg (regA r) (creg (getCop v i k).regs n))) v c .seq)) ∧
    (∀ r, SkimDue s tid .cmov (.cmov k false r n) c v u → exec (.cmov tid) s =
      .next (finishWord (pendTh (clearMark w (copLoc i k) n) c.tid (c.p + 5) (.copro k n (getReg (getTh v c.tid) (regA r)))) v c .seq)) ∧
    (SkimDue s tid .crestore (.cstate k true n) c v u → areaBad n (contextLen k) = none → exec (.crestore tid) s = .next (finishWord
      (allocEntry w c.tid [.unit k] (.crestore k ((List.range (contextLen k / 8)).foldl (fun (t : Table W64) i =>
        tblSet t i (BitVec.ofNat 64 (leAt (memBytes (getTh v c.tid).mem (8 * n) (contextLen k)) (8 * i) 8))) [])) (some (c.p + 4)) true).2 v c .seq))) ∧
  ((getCop u i k).owner = some (tidNum tid) → copMarks u i k = [] → areaBad n (contextLen k) = none → SkimDue s tid .csave (.cstate k false n) c v u →
    exec (.csave tid) s = .next (finishWord (pendTh (copCnt (modCop u i k (fun _ => {})) c.tid 0x38) c.tid (c.p + 7)
      (.bytes (8 * n) ((List.range (contextLen k / 8)).flatMap (fun j => toLE 8 (creg (getCop v i k).regs j).toNat)))) v c .seq)) ∧
  (∀ o r, (getCop u i k).owner = some o → o ≠ tidNum tid → SkimDue s tid .cmov (.cmov k true r n) c v u →
    exec (.cmov tid) s = .next (finishWord (copCnt u c.tid 0x10) v c (.exc { cause := 2, eaddr := o + 2 ^ 63 }))) ∧
  (copClaim u (tidNum tid) k = .ok w → (getCop w i k).owner = some (tidNum tid))

/-- What a Render instruction's words use as the scoreboard sees it before its operands are known (R274). -/
def renderUses (v : State) (t : Thread) (i : RIns) (k : Nat) : Uses :=
  match i with
  | .skw w => (match decodeSkim w with | some x => skUses v k x | none => { regs := insRegs i })
  | .block _ _ _ _ => { regs := insRegs i, long := t.lc != 0 }
  | _ => { regs := insRegs i }

/-- Nothing stops the first word of a Render instruction in a state: the scoreboard, its place, a refill of the line. -/
def RenderFree (x v : State) (c : Ctx) (i : RIns) : Prop :=
  (getTh x c.tid).rprog = none ∧ scoreboardStops (getTh x c.tid) (renderUses v (getTh x c.tid) i c.tid) = false ∧
  owesRefill c i (getTh x c.tid) = false ∧
  placementBad x c i.isControl i.isBranch (match i with | .loop _ _ _ => true | _ => false)
    (match (match i with | .skw w => decodeSkim w | _ => none) with | some (.mode _) => true | _ => false)
    (match i with | .block _ _ _ _ => true | _ => false) = false

/-- The first word of a thread's Render instruction `i` issues now under a row, as SkimDue says it for Skim words. -/
def RenderDue (s : State) (tid : Tid) (row : Row) (i : RIns) (c : Ctx) (v u : State) : Prop :=
  ∃ s1 len, slotFor s (tidNum tid) = some (c.p, s1) ∧ (getTh s1 (tidNum tid)).block = none ∧ eventTakes s1 (tidNum tid) c.p = false ∧
    fetchCode s1 (tidNum tid) = .ins len i ∧ rowFits v (tidNum tid) i row = true ∧ v = stage3 s1 (tidNum tid) c.p ∧
    u = wordIssued s1 (tidNum tid) (getTh s1 (tidNum tid)).pc len ∧
    c = { tid := tidNum tid, p := c.p, addr := (getTh s1 (tidNum tid)).pc, len := len, render := true } ∧
    RenderFree s1 v c i ∧ RenderFree u v c i ∧ (runRender c i v s1).2 ≠ .stalled

/-- Whether an instruction crosses a code line. -/
def crossesLine (c : Ctx) : Bool := c.addr / 64 != (c.addr + c.len - 1) / 64

/-- The value of an operand that is a register or an immediate. -/
def plainOperand (t : Thread) (sp : Spec) : Option (BitVec 64) :=
  match sp with
  | .reg n => some (regVal t n)
  | .imm x => some x
  | _ => none

/-- Render's control instructions (R366, R367): the same effects as the Skim words', with 2-byte units. -/
def Obligations.RenderControl : Prop := ∀ (tid : Tid) (s v u : State) (c : Ctx), let t := getTh v (tidNum tid)
  (RenderDue s tid .nop .nop c v u → exec (.nop tid) s = .next (finishWord u v c .seq)) ∧
  (∀ cond d, RenderDue s tid .br (.br cond d) c v u → exec (.br tid) s = .next (finishWord u v c
    (.branch (if condHolds cond { z := t.fz, n := t.fn, c := t.fc, v := t.fv } t.fe then some (codeAdd (c.addr + c.len) (2 * d)) else none)))) ∧
  (∀ d, RenderDue s tid .bal (.bal d) c v u → exec (.bal tid) s = .next (finishWord (pendTh u c.tid (c.p + 4)
    (.reg .y (BitVec.ofNat 64 ((c.addr + c.len + renderLenAt u c.tid (c.addr + c.len)) % 2 ^ 24)))) v c (.branch (some (codeAdd (c.addr + c.len) (2 * d)))))) ∧
  (∀ r, RenderDue s tid .jr (.jr r) c v u → exec (.jr tid) s = .next (finishWord u v c (.branch (some ((getReg t (regA r)).toNat % 2 ^ 24))))) ∧
  (∀ csrc len imm n, RenderDue s tid .loop (.loop csrc len imm) c v u →
    n = (if csrc = 0 then imm else (getReg (getTh u (tidNum tid)) (regA (csrc - 1))).toNat % 65536) →
    (n ≠ 0 → exec (.loop tid) s = .next (finishWord (modTh u c.tid (fun t => { t with
      lc := n, loopFirst := c.addr + c.len, loopLast := c.addr + c.len + 2 * len, loopValid := true })) v c .seq)) ∧
    (n = 0 → exec (.loop tid) s = .next (finishWord (modTh u c.tid (fun t => { t with lc := 0, loopValid := false })) v c (.skip (c.addr + c.len + 2 * len))))) ∧
  (∀ csrc imm n, RenderDue s tid .setlc (.setlc csrc imm) c v u →
    n = (if csrc = 0 then imm else (getReg (getTh u (tidNum tid)) (regA (csrc - 1))).toNat % 65536) →
    exec (.setlc tid) s = .next (finishWord (modTh u c.tid (fun t => { t with lc := n, loopValid := false })) v c .seq)) ∧
  (∀ w x, RenderDue s tid .skw (.skw w) c v u → decodeSkim w = some x → exec (.skw tid) s = .next (finishWord (runSk c x v u).1 v c (runSk c x v u).2))

/-- Render's computations (R358 to R364). Every form of an instruction with operands checks its operands in the first word
and goes on with its issue words. Where no operand lies in memory the word is its last: MOV, the ALU functions, MUL and
BSWAP put their result on its way to the destination after three ticks, MUL after five, with the flags unless NF is set;
CMP and TST only write flags. -/
def Obligations.RenderComputations : Prop := ∀ (tid : Tid) (s v u : State) (c : Ctx) (o : GOp), let t := getTh v (tidNum tid)
  (∀ row ops, RenderDue s tid row (.g o ops) c v u → issue s (tidNum tid) row =
    finishWord (gFirst c o ops (crossesLine c) v u).1 v c (gFirst c o ops (crossesLine c) v u).2) ∧
  (∀ d sp b, crossesLine c = false → o.tri = false → d ≠ 3 → plainOperand t sp = some b →
    (o.op = 0x01 → RenderDue s tid .mov (.g o [.reg d, sp]) c v u → exec (.mov tid) s = .next (finishWord (pendTh u c.tid (c.p + 4) (.reg (regR d) b)) v c .seq)) ∧
    (o.op = 0x0F → RenderDue s tid .bswap (.g o [.reg d, sp]) c v u → exec (.bswap tid) s =
      .next (finishWord (pendTh u c.tid (c.p + 4) (.reg (regR d) (bswapV b o.size))) v c .seq)) ∧
    (∀ q f, o.op = 0x0E → o.nf = false → mulFl (regVal t d) b = (q, f) → RenderDue s tid .mul (.g o [.reg d, sp]) c v u → exec (.mul tid) s =
      .next (finishWord (pendTh (pendTh u c.tid (c.p + 6) (.reg (regR d) q)) c.tid (c.p + 4) (.flags f.z f.n f.c f.v)) v c .seq)) ∧
    (∀ q f, 0x02 ≤ o.op → o.op ≤ 0x0D → aluRun (aluFnOf o.op) (regVal t d) b t.fc = (some q, some f) → RenderDue s tid .alu (.g o [.reg d, sp]) c v u →
      (o.nf = false → exec (.alu tid) s = .next (finishWord (pendTh (pendTh u c.tid (c.p + 4) (.reg (regR d) q)) c.tid (c.p + 4) (.flags f.z f.n f.c f.v)) v c .seq)) ∧
      (o.nf = true → exec (.alu tid) s = .next (finishWord (pendTh u c.tid (c.p + 4) (.reg (regR d) q)) v c .seq))) ∧
    (∀ f, o.op = 0x10 → o.nf = false → aluRun 9 (regVal t d) b t.fc = (none, some f) → RenderDue s tid .cmp (.g o [.reg d, sp]) c v u →
      exec (.cmp tid) s = .next (finishWord (pendTh u c.tid (c.p + 4) (.flags f.z f.n f.c f.v)) v c .seq)) ∧
    (∀ f, o.op = 0x11 → o.nf = false → aluRun 10 (regVal t d) b t.fc = (none, some f) → RenderDue s tid .tst (.g o [.reg d, sp]) c v u →
      exec (.tst tid) s = .next (finishWord (pendTh u c.tid (c.p + 4) (.flags f.z f.n f.c f.v)) v c .seq))) ∧
  (∀ d l r a b q f, crossesLine c = false → o.tri = true → o.nf = false → 0x02 ≤ o.op → o.op ≤ 0x0D → d ≠ 3 →
    plainOperand t l = some a → plainOperand t r = some b → aluRun (aluFnOf o.op) a b t.fc = (some q, some f) →
    RenderDue s tid .alu (.g o [.reg d, l, r]) c v u → exec (.alu tid) s =
      .next (finishWord (pendTh (pendTh u c.tid (c.p + 4) (.reg (regR d) q)) c.tid (c.p + 4) (.flags f.z f.n f.c f.v)) v c .seq))

/-- Render's memory instructions (R355, R358, R369, R370): LEA writes the address its specifier forms, without any access;
LR of the own cluster's memory loads and holds the line's reservation; SC of the own cluster's memory starts the store that
decides by the reservation, with an entry for its register; a MOV from bank 0 gives the extended value after its latency, and
one to bank 0 stores the register's low bytes. -/
def Obligations.RenderMemory : Prop := ∀ (tid : Tid) (s v u : State) (c : Ctx) (o : GOp), let t := getTh v (tidNum tid)
  crossesLine c = false → o.tri = false → 0 < o.size →
  (∀ d pn dis, o.op = 0x12 → RenderDue s tid .lea (.g o [.reg d, .ptr pn none dis]) c v u → exec (.lea tid) s =
    .next (finishWord (pendTh u c.tid (c.p + 4) (.reg (regR d) (BitVec.ofNat 64 (mod48 ((getReg t (.p pn)).toNat + dis))))) v c .seq)) ∧
  (∀ d off, o.op = 0x01 → off + o.size ≤ 0x1000 → RenderDue s tid .mov (.g o [.reg d, .bank0 off]) c v u → exec (.mov tid) s =
    .next (finishWord (pendTh u c.tid (c.p + shortLat (.priv off) o.size + 1)
      (.reg (regR d) (loadValue { size := o.size, be := o.be, sx := o.sx } (memBytes t.mem off o.size)))) v c .seq)) ∧
  (∀ d off, o.op = 0x01 → off + o.size ≤ 0x1000 → RenderDue s tid .mov (.g o [.bank0 off, .reg d]) c v u → exec (.mov tid) s =
    .next (finishWord (shortWrite u c.tid c.p (.priv off) (storeBytes { size := o.size, be := o.be } (regVal t d))) v c .seq)) ∧
  (∀ d a, o.op = 0x13 → a % o.size = 0 → isOwn c.tid (false, a) = true → RenderDue s tid .lr (.g o [.reg d, .abs a]) c v u →
    resolvePtr v c.tid a o.size false = .ok (.own a) → exec (.lr tid) s =
    .next (finishWord (pendTh (modTh u c.tid (fun t => { t with resv := some (lineOf a, c.p) })) c.tid (c.p + shortLat (.own a) o.size + 1)
      (.reg (regR d) (loadValue { size := o.size, be := o.be, sx := o.sx } (memBytes v.mem a o.size)))) v c .seq)) ∧
  (∀ d a, o.op = 0x14 → a % o.size = 0 → isOwn c.tid (false, a) = true → RenderDue s tid .sc (.g o [.abs a, .reg d]) c v u →
    resolvePtr v c.tid a o.size true = .ok (.own a) → exec (.sc tid) s =
    .next (finishWord (scStart u c o (regR d) (regVal t d) (.own a)) v c .seq))

/-- Block instructions (R372 to R376): with LC 0 the instruction is done at once, setting Z for BCMP and BSCAN; with LC not 0
and its ranges in order its first position takes a scoreboard entry and requests element 0; each further position of the
thread requests the next; an element that completes has its effect, counts LC down and moves the pointers, and the block
ends after its last. -/
def Obligations.BlockInstructions : Prop := ∀ (tid : Tid) (s v u : State) (c : Ctx) (op pd ps : Nat) (fn : Bool), let k := tidNum tid
  let out (row : Row) (i : Instr) (t : State) := RenderDue s tid row (.block op pd ps fn) c v u → exec i s = .next t
  let started (e : Nat × State) : State := blockRequest v (modTh (landTh e.2 c.tid (c.p + 1)) c.tid (fun t => { t with
    block := some { op := op, pd := pd, ps := ps, fn := fn, total := (getTh u k).lc, entry := e.1 } })) c
  ((getTh u k).lc = 0 →
    (op = 0x20 → out .bmove (.bmove tid) (finishWord u v c .seq)) ∧ (op = 0x21 → out .bfill (.bfill tid) (finishWord u v c .seq)) ∧
    (op = 0x22 → out .bcmp (.bcmp tid) (finishWord (pendTh u c.tid (c.p + 4) (.zbit true)) v c .seq)) ∧
    (op = 0x23 → out .bsum (.bsum tid) (finishWord u v c .seq)) ∧
    (op = 0x24 → out .bscan (.bscan tid) (finishWord (pendTh u c.tid (c.p + 4) (.zbit true)) v c .seq))) ∧
  ((getTh u k).lc ≠ 0 → blockBad v c.tid op pd ps (getTh u k).lc = none → ∃ e, e = allocEntry u c.tid [.lc] .block none false ∧
    (op = 0x20 → out .bmove (.bmove tid) (started e)) ∧ (op = 0x21 → out .bfill (.bfill tid) (started e)) ∧
    (op = 0x22 → out .bcmp (.bcmp tid) (started e)) ∧ (op = 0x23 → out .bsum (.bsum tid) (started e)) ∧
    (op = 0x24 → out .bscan (.bscan tid) (started e))) ∧
  (∀ p s1 b, slotFor s k = some (p, s1) → (getTh s1 k).block = some b →
    (b.op = 0x20 → exec (.bmove tid) s = .next (blockWord s1 k p b)) ∧ (b.op = 0x21 → exec (.bfill tid) s = .next (blockWord s1 k p b)) ∧
    (b.op = 0x22 → exec (.bcmp tid) s = .next (blockWord s1 k p b)) ∧ (b.op = 0x23 → exec (.bsum tid) s = .next (blockWord s1 k p b)) ∧
    (b.op = 0x24 → exec (.bscan tid) s = .next (blockWord s1 k p b))) ∧
  (∀ b e rest d r x, (getTh s k).block = some b → b.inflight = e :: rest → b.stop = false → e.due = some d → r = elemEffect (advanceTo s d) k b e →
    x = (if r.1 then r.2 else blockCount r.2 k b) → exec (.blockElementDone tid) s = .next (blockSettle (modTh x k (fun t => { t with
      block := t.block.map (fun b => { b with inflight := rest, stop := b.stop || r.1 }) })) k (advanceTo s d).now)) ∧
  (∀ x b, let t := getTh x k
    (getTh (blockCount x k b) k).lc = t.lc - 1 ∧
    (b.op ≠ 0x21 → b.pd ≠ b.ps → tblGet 0 (getTh (blockCount x k b) k).p b.ps = (tblGet 0 t.p b.ps + 8) &&& 0xFFFFFFFFFFFF))

/-- Exceptions (R268, R317, R318): outside a handler, with a handler of the pool, the exception saves the place of the word,
F as the word read it and LC, with the cause, and EADDR for ADDRESS and RIGHTS; the handler starts at EXC_PC five ticks
later with EX set and IE clear, and the reservation is gone; TRAP saves the address behind it. Without a handler, or in one,
the thread is restarted. An event saves the same and starts at EVENT_PC with cause 6. -/
def Obligations.ExceptionEntry : Prop := ∀ (s : State) (v : Thread) (k p addr len : Nat) (trap : Bool) (e : Exc) (b : Binding), let t := getTh s k
  (t.bind = some b → t.ex = false → b.excPc ≠ 0xFFFFFFFF →
    let u := getTh (deliverExc s v k p addr len trap e) k
    u.ex = true ∧ u.ie = false ∧ u.pc = b.excPc ∧ u.ef = fWord v ∧ u.elc = t.lc ∧ u.ecause = e.cause ∧ u.resv = none ∧ u.flow = .plain ∧ u.nextAt = p + 5 ∧
      (e.cause = 1 ∨ e.cause = 2 → u.eaddr = e.eaddr) ∧ (¬ (e.cause = 1 ∨ e.cause = 2) → u.eaddr = t.eaddr) ∧
      (t.flow = .plain → trap = false → u.epc = addr % 2 ^ 24) ∧ (t.flow = .plain → trap = true → u.epc = (addr + len) % 2 ^ 24) ∧
      u.a = t.a ∧ u.x = t.x ∧ u.y = t.y ∧ u.b = t.b ∧ u.p = t.p ∧ u.mem = t.mem ∧ u.sb = t.sb ∧ u.mode = t.mode) ∧
  (t.ex = true → e.cause ≠ 1 → e.cause ≠ 2 → deliverExc s v k p addr len trap e = exceptionRestart s k e.cause e.eaddr p) ∧
  (t.bind = some b → let u := getTh (takeEvent s k p) k
    u.pc = b.eventPc ∧ u.ecause = 6 ∧ u.ex = true ∧ u.ie = false ∧ u.nextAt = p + 3 ∧ u.eaddr = t.eaddr ∧ u.elc = t.lc) ∧
  (∀ (tid : Tid) s1, k = tidNum tid → slotFor s k = some (p, s1) → (getTh s1 k).block = none → (getTh s1 k).rprog = none → eventTakes s1 k p = true →
    exec (.eventDelivery tid) s = .next (takeEvent s1 k p)) ∧
  (∀ (tid : Tid) s1, k = tidNum tid → slotFor s k = some (p, s1) → (getTh s1 k).block = none → eventTakes s1 k p = false →
    exec (.eventDelivery tid) s = .next s)

/-- Completions (R273, R275, R276): a long load whose answers are all in writes its extended value, sets MEMDONE and clears
its entry; one that failed clears its entry, leaves its register and raises FAULT with the status; a decided result is
written at its place with its flag; a posted store leaves when performed, MEMDONE setting with the last. Waking, timers and reservations (R303, R314, R321, R325, R326, Table 12-6): a thread that waits for events, work or a
message goes on when its condition holds, three ticks after it came true at the earliest, with the work swapped in or the
message taken; entries of a delay list whose deadline has come fall due; a reservation is gone 1,024 ticks after its LR. -/
def Obligations.CompletionsAndWakes : Prop :=
  (∀ (tid : Tid) (s : State) (n : Fin 17) (host : BitVec 64) (e : SbEntry), let k := tidNum tid
  ((getTh s k).sb.find? (fun e => e.id == n.val) = some e → e.exact = false →
    (∀ a f r d x, e.op = .load a f r → loadOutcome s k e a f.size host = some (stOk, d, x) →
      exec (.longOpComplete tid n host) s = .next (modTh (setFlag (clearEntry x k e.id) k 18) k (fun t => setReg t r (loadValue f d)))) ∧
    (∀ a f r d x st, e.op = .load a f r → loadOutcome s k e a f.size host = some (st, d, x) → st ≠ stOk →
      exec (.longOpComplete tid n host) s = .next (raiseFault (clearEntry x k e.id) k st 1 e.id)) ∧
    (∀ off d, e.op = .result off d none none → exec (.longOpComplete tid n host) s =
      .next (modTh (clearEntry s k e.id) k (fun t => { t with mem := memWrite t.mem off d }))) ∧
    (∀ off d b, e.op = .result off d (some b) none → exec (.longOpComplete tid n host) s =
      .next (setFlag (modTh (clearEntry s k e.id) k (fun t => { t with mem := memWrite t.mem off d })) k b)) ∧
    (∀ a f r, e.op = .load a f r → loadOutcome s k e a f.size host = none → exec (.longOpComplete tid n host) s = .next s)) ∧
  ((getTh s k).sb.find? (fun e => e.id == n.val) = none → exec (.longOpComplete tid n host) s = .next s) ∧
  (∀ (i : Fin 32) x y, (getTh s k).stores[i.val]? = some x → storeOutcome s k x = some (stOk, y) →
    ∃ w, w = modTh y k (fun t => { t with stores := t.stores.filter (fun z => z.seq ≠ x.seq) }) ∧
    ((getTh w k).stores = [] → exec (.storePerformed tid i) s = .next (setFlag w k 18)) ∧
    ((getTh w k).stores ≠ [] → exec (.storePerformed tid i) s = .next w)) ∧
  (∀ i : Fin 32, (getTh s k).stores[i.val]? = none → exec (.storePerformed tid i) s = .next s)) ∧
  (∀ (tid : Tid) (s : State), let k := tidNum tid
  let t := getTh s k
  (t.wait = .event → armedAt s k (s.now + 1) ≠ 0 → ∃ m, t.waitAt ≤ m ∧ exec (.threadWake tid) s = .next (wakeAt s k m)) ∧
  (t.wait = .event → armedAt s k (s.now + 1) = 0 → exec (.threadWake tid) s = .next s) ∧
  (t.wait = .work → t.shadow.isSome = true → ∃ m, t.waitAt ≤ m ∧ exec (.threadWake tid) s = .next (nextSwap (wakeAt s k m) k (m + 3)).2) ∧
  (∀ n, t.wait = .channel n → chanOf t n ≠ [] → ∃ m, t.waitAt ≤ m ∧ exec (.threadWake tid) s = .next (takeMessage (wakeAt s k m) k n (m + 5))) ∧
  (∀ e, t.wait = .sleep → t.evf.testBit 17 = false → sleepEntry s k = some e → e.due = true → exec (.threadWake tid) s =
    .next (modTh (wakeAt (endSleep s k) k (Nat.max e.dueAt t.waitAt)) k (fun t => { t with fe := false }))) ∧
  (t.wait = .none → exec (.threadWake tid) s = .next s) ∧
  (∀ m, (getTh (wakeAt s k m) k).wait = .none ∧ (getTh (wakeAt s k m) k).nextAt = m + 4) ∧
  (∀ a at_, t.resv = some (a, at_) → exec (.reservationExpire tid) s = .next (modTh (advanceTo s (at_ + 1024)) k (fun t => { t with resv := none }))) ∧
  (t.resv = none → exec (.reservationExpire tid) s = .next s) ∧
  (∀ (cl : ClusterId) e u, s.fault.marks = [] → (getCl s cl.val).timers = [e] → e.due = false → e.sleep = false → tidCluster e.tid = cl.val →
    u = advanceTo s (listTickStart s cl.val e.deadline) → e.deadline ≤ listTick u cl.val → exec (.timerDue cl) s = .next (dispCnt (modTh
      (modCl u cl.val (fun c => { c with timers := [{ e with due := true, dueAt := u.now }] })) e.tid
      (fun t => { t with setAt := tblSet t.setAt 3 u.now })) cl.val 0x50 1)))

/-- The instruction cache and the slot tables (R280, R282, R295, R296): a missed line comes from the plan store into the way
to be replaced, and the thread's fetch goes on; where every way is locked the line is served to the thread alone; a bad line
is reloaded and recorded; at the switch every core takes the new plan's slot tables. -/
def Obligations.CodeLines : Prop := ∀ (tid : Tid) (s : State) (l : Nat) (d : Bytes), let k := tidNum tid
  let p := planOfTh s (getTh s k)
  (lineAwaited s k = some l → codeLine p l = some d →
    (fetchLine s k l = .miss →
      (∀ ix, fillWay s (tidUnit k) l = some ix → exec (.icacheFillDone tid) s = .next (fetchGoesOn { s with core := { s.core with
        icache := tblSet s.core.icache ix { line := l, space := p.epoch % 2, used := s.now, data := d } } } k)) ∧
      (fillWay s (tidUnit k) l = none → exec (.icacheFillDone tid) s = .next (fetchGoesOn (modTh s k (fun t => { t with served := ((l, d) :: t.served).take 2 })) k))) ∧
    (∀ ix m, fetchLine s k l = .bad ix m → ∃ x y, x = (icMarks s (tidUnit k) ix l).foldl (fun x m => clearMark x m.loc m.word) s ∧
      y = { x with core := { x.core with icache := tblMod { line := l, space := 0, data := d } x.core.icache ix (fun e => { e with data := d, used := x.now }) } } ∧
      exec (.icacheReload tid) s = .next (fetchGoesOn (coreCnt (record y 1 0x08 0x0002 (wordLoc m.loc m.word) [] m.injected) k 0x40 1) k))) ∧
  (lineAwaited s k = none → (getTh s k).missing = false → exec (.icacheFillDone tid) s = .next s ∧ exec (.icacheReload tid) s = .next s) ∧
  (∀ at_, s.core.slotSwitchAt = some at_ → ∃ u w, u = advanceTo s at_ ∧ w = { u with core := { u.core with slotEpoch := u.plan.epoch, slotSwitchAt := none } } ∧
    exec .slotTableSwitch s = .next ((List.range 3072).foldl (fun x n => match bindingOf u.plan.now n with
      | some b => if (bindingOf (u.plan.of u.core.slotEpoch) n).isSome ∧ (getTh x n).running then x else threadStart x n at_ b
      | none => x) w)) ∧
  (s.core.slotSwitchAt = none → exec .slotTableSwitch s = .next s)

/-- R447: what a write of `v` to MB_DOORBELL does, by the first case that applies; MB_DOORBELL holds `v` and DOORBELLS counts
in each. In the fourth case the command area is copied, RUN sets and RUN_SEQ becomes `v`, or, while READY.MAILBOX is clear,
QUEUED sets (R446); a later write to the command area leaves the copy. -/
def Obligations.Doorbells : Prop := ∀ (s : State) (mb : MbId) (v : BitVec 16), let m := getMb s mb.val
  let s0 := modMb (hostCount s 0x00 1) mb.val (fun x => { x with doorbell := v.toNat })
  ((m.run = true ∨ m.queued = true) → v.toNat = m.runSeq → exec (.mbDoorbell mb v) s = .next (hostCount s0 0x18 1)) ∧
  ((m.run = true ∨ m.queued = true) → v.toNat ≠ m.runSeq →
    exec (.mbDoorbell mb v) s = .next (hostCount (modMb s0 mb.val (fun x => { x with overrun := true })) 0x20 1)) ∧
  (m.run = false → m.queued = false → m.resDone = true → v.toNat = m.resSeq → ∃ t, exec (.mbDoorbell mb v) s = .next t ∧
    t = hostCount (raiseInt s0 mb.val) 0x10 1 ∧ t.host.intStatus.testBit mb.val = true ∧ getMb t mb.val = { m with doorbell := v.toNat }) ∧
  (m.run = false → m.queued = false → (m.resDone = false ∨ v.toNat ≠ m.resSeq) → ∃ t, exec (.mbDoorbell mb v) s = .next t ∧
    t = { s with host := t.host } ∧ (getMb t mb.val).copied = mbArea m ∧ (getMb t mb.val).runSeq = v.toNat ∧
    (getMb t mb.val).run = isReady s 3 ∧ (getMb t mb.val).queued = !isReady s 3 ∧
    (isReady s 3 = true → ∀ st, hawkCheck s mb.val v.toNat (mbArea m) = some st → (getMb t mb.val).reply = some { status := st })) ∧
  (∀ (off : BitVec 16) d, 0x1000 + 0x400 * mb.val ≤ off.toNat → off.toNat < 0x1100 + 0x400 * mb.val → ∃ t, exec (.registerWrite off d) s = .next t ∧
    (getMb t mb.val).copied = m.copied)

/-- R445: a host read that includes byte 4 of a DONE result raises READ_COUNT, saturating at 3, and returns the raised value;
it returns the result otherwise unchanged. Other reads, and reads of an EMPTY result, change nothing. The bytes returned are
the model's `readData`. -/
def Obligations.ResultReads : Prop := ∀ (s : State) (mb : MbId) (off : BitVec 9) (len : BitVec 4), let m := getMb s mb.val
  (off.toNat ≤ 4 → 4 < off.toNat + len.toNat → m.resDone = true → ∃ t, exec (.resultRead mb off len) s = .next t ∧
    getMb t mb.val = { m with readCount := Nat.min 3 (m.readCount + 1) } ∧
    t.host.readData = slice (resultBytes { m with readCount := Nat.min 3 (m.readCount + 1) }) off.toNat len.toNat ∧ t = { s with host := t.host } ∧
    (∀ n < 8, n ≠ mb.val → getMb t n = getMb s n)) ∧
  ((4 < off.toNat ∨ off.toNat + len.toNat ≤ 4 ∨ m.resDone = false) → exec (.resultRead mb off len) s =
    .next { s with host := { s.host with readData := slice (resultBytes m) off.toNat len.toNat } }) ∧
  (∀ i < 512, i ≠ 4 → byteAt (resultBytes { m with readCount := Nat.min 3 (m.readCount + 1) }) i = byteAt (resultBytes m) i)

/-- The host's mailboxes and registers (R443 to R456, R462 to R464): a
result becomes visible with READ_COUNT 0, MB_DONE and RUN clear; the first
write to HOST_LOCKDOWN sets it, a later one is a violation; causes clear and are enabled; an access of another size than a
register takes is only counted; the device commands answer what they read, and HAWK_RESTART restarts Hawk. -/
def Obligations.HostMailboxes : Prop := ∀ (s : State) (mb : MbId), let m := getMb s mb.val
  (∀ r, m.reply = some r → ∃ t, exec (.mailboxResult mb) s = .next t ∧ t.host.intStatus.testBit mb.val = true ∧ getMb t mb.val =
    { m with reply := none, wait := none, run := false, resSeq := m.runSeq, resDone := true, readCount := 0, res := r }) ∧
  (∀ mask t, m.reply = none → m.wait = some (mask, t) → ∃ u, exec (.mailboxResult mb) s = .next u ∧ u.now = Nat.max s.now t ∧
    (getMb u mb.val).res = { status := eTimeout, data := toLE 4 s.ready }) ∧
  (m.reply = none → m.wait = none → exec (.mailboxResult mb) s = .next s) ∧
  (∀ v : BitVec 1, (s.kept.lockdownWritten = false → exec (.hostLockdown v) s = .next { s with
      kept := { s.kept with lockdownWritten := true, lockdown := decide (v = 1) } }) ∧
    (s.kept.lockdownWritten = true → ∃ t, exec (.hostLockdown v) s = .next t ∧ t.kept = { s.kept with writeViolation := true } ∧
      t.host.violationCount = (s.host.violationCount + 1) % 2 ^ 64 ∧ t.host.violationOffset = 0x0400 ∧ t.host.intStatus.testBit 27 = true)) ∧
  (∀ mask : BitVec 64, ∃ t, exec (.intStatusClear mask) s = .next t ∧ t = { s with host := { s.host with intStatus := t.host.intStatus } } ∧
    ∀ n, t.host.intStatus.testBit n = (s.host.intStatus.testBit n && !mask.getLsbD n)) ∧
  (∀ v : BitVec 64, ∃ t, exec (.intEnableWrite v) s = .next t ∧ t.host.intEnable = v.toNat ∧ t.host.intStatus = s.host.intStatus) ∧
  (∀ (off : BitVec 16) d, (off.toNat < 0x1000 ∨ 0x3000 ≤ off.toNat) → (d.length ≠ 4 ∨ off.toNat % 4 ≠ 0) → (d.length ≠ 8 ∨ off.toNat % 8 ≠ 0) →
    exec (.registerWrite off d) s = .next (hostCount s 0x48 1)) ∧
  (∀ d, d.length = 8 → s.kept.lockdown = true → ∃ t, exec (.registerWrite 0x0500 d) s = .next t ∧ t.kept = { s.kept with writeViolation := true } ∧
    t.host.violationOffset = 0x0500) ∧
  (∀ d, d.length = 8 → s.kept.lockdown = false → exec (.registerWrite 0x0500 d) s = .next { s with
    kept := { s.kept with windows := tblSet s.kept.windows 0 (mergeBits (tblGet 0 s.kept.windows 0) (leVal d) (2 ^ 64 - 1) &&& 0xFFFFFFC00003) } }) ∧
  (∃ d, exec (.deviceInfo mb) s = .next (reply s mb.val stOk d) ∧ d.length = 64) ∧
  (∀ mask us : BitVec 32, mask.toNat &&& 12 = 0 → mask.toNat < 2 ^ 25 → 1 ≤ us.toNat → us.toNat ≤ 10000000 →
    (mask.toNat &&& s.ready = mask.toNat → exec (.readyWait mb mask us) s = .next (reply s mb.val stOk (toLE 4 s.ready))) ∧
    (mask.toNat &&& s.ready ≠ mask.toNat → exec (.readyWait mb mask us) s =
      .next (modMb s mb.val (fun x => { x with wait := some (mask.toNat, s.now + usTicks us.toNat) })))) ∧
  (∀ args, (args.length ≤ 224 → exec (.echo mb args) s = .next (reply s mb.val stOk args)) ∧
    (224 < args.length → exec (.echo mb args) s = .next (reply s mb.val eArgs))) ∧
  (∀ max : BitVec 16, 1 ≤ max.toNat → max.toNat ≤ 15 → s.host.err.enabled = false → s.fault.summary = none →
    exec (.errorRingRead mb max true none) s = .next (reply { s with fault := { s.fault with ring := s.fault.ring.drop max.toNat } } mb.val stOk
      ((s.fault.ring.take max.toNat).flatMap recordBytes ++ toLE 8 s.fault.overflow)) ∧
    exec (.errorRingRead mb max false none) s = .next (reply s mb.val stOk ((s.fault.ring.take max.toNat).flatMap recordBytes ++ toLE 8 s.fault.overflow))) ∧
  (s.power.dieOut = true → s.host.hawkState = 1 → epochArmed s = false → s.svc.fw ≠ .trial →
    exec (.hawkRestart mb) s = .next (hawkRestartNow (reply s mb.val stOk))) ∧
  (s.host.hawkState = 1 → exec .hawkStart s = .next s) ∧
  (s.power.dieOut = true → s.power.loaderOk = true → s.host.hawkState = 0 → (∀ n < 8, (getMb s n).queued = false) → s.svc.fw ≠ .trial →
    exec .hawkStart s = .next (setReady (setReady { s with host := { s.host with hawkState := 1 } } 2 true) 3 true))

/-- The host's rings, interrupts' link and windows (R436 to R442, R453, R457 to R462, R620): ENABLE with a size in range
starts a stopped ring with its indices 0; a stopped ring keeps its size; a receive ring that takes a copy writes the header
and the bytes at HEAD, counts them and raises its cause, and one that does not counts the drop; a transmit descriptor that
fails a check completes with its status, one that passes takes a buffer; an error record moves from the on-die ring to the
host ring; a link reset stops every ring; a read outside the windows answers all ones with its fault, and a range that fails
its checks completes a memory command with the first forbidden byte. -/
def Obligations.HostRings : Prop := ∀ s : State,
  (∀ (tx : Bool) (r : Fin 8) (l : BitVec 5) (u : BitVec 8), (getRing s tx r.val).enabled = false → 6 ≤ l.toNat → l.toNat ≤ 16 → ∃ t,
    exec (.ringEnable tx r l u) s = .next t ∧ getRing t tx r.val = { getRing s tx r.val with
      log2 := l.toNat, slotUnits := u.toNat, enabled := true, head := 0, tail := 0, dropsBefore := 0 } ∧ t = { s with host := t.host }) ∧
  (∀ (tx : Bool) (r : Fin 8) (l : BitVec 5) (u : BitVec 8), (getRing s tx r.val).enabled = true → exec (.ringEnable tx r l u) s = .next (modRing s tx r.val id)) ∧
  (∀ (tx : Bool) (r : Fin 8), ∃ t, exec (.ringDisable tx r) s = .next t ∧ (getRing t tx r.val).enabled = false ∧
    (tx = false → t = modRing s tx r.val (fun c => { c with enabled := false }))) ∧
  (∀ (r : Fin 8) (h : BitVec 32), exec (.txRingHeadWrite r h) s = .next (modRing s true r.val (fun c => { c with head := h.toNat }))) ∧
  (∀ l : BitVec 5, s.host.err.enabled = true → exec (.errRingEnable false l) s = .next { s with host := { s.host with err := { s.host.err with enabled := false } } }) ∧
  (∀ l : BitVec 5, s.host.err.enabled = false → 6 ≤ l.toNat → l.toNat ≤ 16 → exec (.errRingEnable true l) s = .next { s with host := { s.host with
    err := { s.host.err with log2 := l.toNat, slotUnits := 0, enabled := true, head := 0, tail := 0, dropsBefore := 0 } } }) ∧
  (∀ r l, s.host.err.enabled = true → isReady s 22 = true → ringFull s.host.err = false → s.host.err.mirror = 0 → s.fault.ring = r :: l →
    let h := (s.host.err.head + 1) % 2 ^ s.host.err.log2
    exec .errorRecordDeliver s = .next (raiseInt { s with
      fault := { s.fault with ring := l }
      host := { s.host with
        mem := memWrite s.host.mem (s.host.err.base + 32 * (s.host.err.head % 2 ^ s.host.err.log2)) (recordBytes r)
        err := { s.host.err with head := h }
        counters := cntAdd s.host.counters 0x50 1 } } 24)) ∧
  ((s.host.err.enabled = false ∨ isReady s 22 = false ∨ ringFull s.host.err = true) → exec .errorRecordDeliver s = .next s) ∧
  (∃ t, exec .pcieHotReset s = .next t ∧ t.host.linkUp = false ∧ t.host.busMaster = false ∧ isReady t 22 = false ∧ t.host.err.enabled = false ∧
    ∀ tx, ∀ r < 8, (getRing t tx r).enabled = false ∧ (getRing t tx r).head = 0 ∧ (getRing t tx r).tail = 0) ∧
  (s.power.endpointUp = true → exec .pcieLinkUp s = .next (refreshDma { s with host := { s.host with linkUp := true } })) ∧
  (s.power.endpointUp = false → exec .pcieLinkUp s = .next s) ∧
  (∀ b, s.host.linkUp = true → exec (.configurationSpaceWrite b) s = .next (refreshDma { s with host := { s.host with busMaster := b } }) ∧
    isReady (refreshDma { s with host := { s.host with busMaster := b } }) 22 = (b && s.power.dieOut)) ∧
  (∀ b, s.host.linkUp = false → exec (.configurationSpaceWrite b) s = .next s) ∧
  (∀ c l, s.egress.copies = c :: l → let u : State := { s with egress := { s.egress with copies := l } }
    (c.ring = 15 → s.host.hawkState = 1 → exec .ringCopyWrite s = .next (endCopy u c)) ∧
    (c.ring < 8 → (getRing s false c.ring).enabled = false → exec .ringCopyWrite s = .next (dropCopy (rxCnt
      (modRing u false c.ring (fun x => { x with dropsBefore := Nat.min 0xFFFFFFFF (x.dropsBefore + 1) })) c.ring 0x08 1) c)) ∧
    (∀ d w, c.ring < 8 → (getRing s false c.ring).enabled = true → ringFull (getRing s false c.ring) = false → isReady s 22 = true →
      hbmRead u 5 1 (bufAddr u c.handle + c.start) c.len = (none, d, w) → exec .ringCopyWrite s = .next (endCopy (rxWrite w c.ring c (c.bytes.getD d)) c))) ∧
  (s.egress.copies = [] → exec .ringCopyWrite s = .next s) ∧
  (∀ (r : Fin 8) desc, (txAvailable s r.val = false → exec (.txDescriptor r desc) s = .next s) ∧
    (∀ st, txAvailable s r.val = true → txCheck s r.val (slice desc 0 32) = some st → exec (.txDescriptor r desc) s = .next (txEnd s r.val st (slice desc 0 32))) ∧
    (∀ h u, txAvailable s r.val = true → txCheck s r.val (slice desc 0 32) = none →
      hodAlloc s ((txOwner s r.val).getD 0) (headroom s.plan.now + txLen (slice desc 0 32)) = (.granted h, u) → exec (.txDescriptor r desc) s =
        .next { u with host := { u.host with txPending := tblSet u.host.txPending r.val { desc := slice desc 0 32, handle := some h } } })) ∧
  (∀ (r : Fin 8) d h u, tblFind s.host.txPending r.val = some { desc := d, handle := none } → isReady s 22 = true →
    hodAlloc s ((txOwner s r.val).getD 0) (headroom s.plan.now + txLen d) = (.granted h, u) → exec (.txDescriptorRetry r) s =
      .next { u with host := { u.host with txPending := tblSet u.host.txPending r.val { desc := d, handle := some h } } }) ∧
  (∀ (r : Fin 8) d h f, tblFind s.host.txPending r.val = some { desc := d, handle := some h } → isReady s 22 = true → txKind d = 1 →
    s.egress.fifo.length < fifoCapacity → findEntry s s.now (64 + r.val) = none → ∃ u, u = hbmPut s 5 1 (bufAddr s h + headroom s.plan.now) (slice f 0 (txLen d)) ∧
      exec (.txFrameAccept r f) s = .next (txEnd { u with egress := { u.egress with fifo := u.egress.fifo ++
        [{ desc := txEgress u h d, epoch := u.plan.epoch, tick := u.now, domain := (getWord u h).domain }] } } r.val stOk d)) ∧
  (∀ (r : Fin 8) d h, tblFind s.host.txPending r.val = some { desc := d, handle := some h } → isReady s 22 = true →
    exec (.dmaReadTimeout (.txRing r)) s = .next (txEnd (unitRelease (hostCount s 0x38 1) h 31 0) r.val eTimeout d)) ∧
  (∀ (mb : MbId) (n : BitVec 16), (poolOf s.plan.now n.toNat ≠ none → exec (.threadNotify mb n) s = .next (reply (setFlag s n.toNat 15) mb.val stOk)) ∧
    (poolOf s.plan.now n.toNat = none → exec (.threadNotify mb n) s = .next (reply s mb.val eArgs))) ∧
  (∀ (mb : MbId) (a : BitVec 64) (n : BitVec 32), 1 ≤ n.toNat → n.toNat ≤ 62 →
    (a.toNat % 8 = 0 → 0x1300000000 ≤ a.toNat → a.toNat + 8 * n.toNat ≤ 0x1310000000 → ∃ d, exec (.counterRead mb a n none) s = .next (reply s mb.val stOk d) ∧
      d.length = 8 * n.toNat) ∧
    (a.toNat % 8 ≠ 0 ∨ a.toNat < 0x1300000000 → exec (.counterRead mb a n none) s = .next (reply s mb.val eRange))) ∧
  (∀ (off : BitVec 26) n, 0 < n → n ≤ 4096 → let a := bar2Addr s off.toNat
    (s.kept.lockdown = true → exec (.bar2Read off n) s = .next (bar2Answer s eRights a n [])) ∧
    (∀ d x u, bar2Check s off.toNat n false = none → (∀ k lo hi, regionOf a ≠ some (.span k, lo, hi)) → directRead s 5 0 a n = (none, d, u) → x = slice d 0 n →
      exec (.bar2Read off n) s = .next { u with host := { u.host with readData := x } })) ∧
  (∀ (off : BitVec 26) d, d ≠ [] → (s.kept.lockdown = true → exec (.bar2Write off d) s = .next (winFault s eRights (bar2Addr s off.toNat))) ∧
    (∀ u, bar2Check s off.toNat d.length true = none → (∀ k lo hi, regionOf (bar2Addr s off.toNat) ≠ some (.span k, lo, hi)) →
      directWrite s 5 0 (bar2Addr s off.toNat) d = (none, u) → exec (.bar2Write off d) s = .next u)) ∧
  (∀ (mb : MbId) (a i : BitVec 64) (n : BitVec 32), 0 < n.toNat → n.toNat ≤ 4194304 →
    (∀ st b, rangeCheck s a.toNat n.toNat false = some (st, b) → exec (.memRead mb a n (some i)) s = .next (reply s mb.val st (toLE 8 b))) ∧
    (∀ d u, rangeCheck s a.toNat n.toNat false = none → memNotReady s a.toNat = false → (∀ k lo hi, regionOf a.toNat ≠ some (.span k, lo, hi)) →
      directRead s 5 2 a.toNat n.toNat = (none, d, u) → exec (.memRead mb a n (some i)) s = .next (replyBulk u mb.val (some i) d)) ∧
    exec (.memRead mb a n none) s = .next (reply s mb.val eArgs)) ∧
  (∀ (mb : MbId) (a : BitVec 64) (n : BitVec 32), 0 < n.toNat → n.toNat ≤ 4194304 → isReady s 22 = true → let u := hostCount s 0x30 n.toNat
    (∀ d w, d.length = n.toNat → rangeCheck u a.toNat n.toNat true = none → memNotReady u a.toNat = false →
      (∀ k lo hi, regionOf a.toNat ≠ some (.span k, lo, hi)) → directWrite u 5 2 a.toNat d = (none, w) → exec (.memWrite mb a n (some d)) s =
        .next (modMb (reply w mb.val stOk) mb.val (fun m => { m with reply := m.reply.map (fun r => { r with indDone := n.toNat }) }))) ∧
    exec (.memWrite mb a n none) s = .next (reply (hostCount s 0x38 1) mb.val eTimeout))

/-- A span link's states (R468, R472 to R478): FEC lock takes a training link to JOINING with full credits; STATE leaves each
microsecond; a received STATE is judged: where all of Table 16-7 holds a joining link joins, and where a condition fails the
link goes to QUARANTINE with its reason; a link that is down trains again; TIME_SYNC requests are sent and answered. -/
def Obligations.SpanLinks : Prop := ∀ (s : State) (k : Fin 3), let l := getSpan s k.val
  (l.st = 1 → ∃ t, exec (.spanFecLock k) s = .next t ∧ getSpan t k.val = { l with
      st := 2, reason := 0, changeNs := recordNs s, credits := fullCredits, lastFlit := s.now, lastState := s.now, stateSentAt := s.now, syncAt := s.now } ∧
    t = setReady { s with span := t.span } (15 + k.val) false) ∧
  (l.st ≠ 1 → exec (.spanFecLock k) s = .next s) ∧
  (2 ≤ l.st → l.returns = [] → ∃ u, u = advanceTo s (l.stateSentAt + 1600) ∧ exec (.spanStateTx k) s = .next (sendControl (modSpan u k.val (fun x => { x with
    stateSentAt := u.now, sentSeen := x.sentSeen || x.peerSeen })) k.val (stateMsg u k.val))) ∧
  (l.st < 2 → exec (.spanStateTx k) s = .next s ∧ exec (.timeSyncTx k) s = .next s ∧ ∀ b, exec (.spanLinkDown k b) s = .next s) ∧
  (∀ at_ m u, 2 ≤ l.st → takeMsg s k.val 0x01 = some (at_, m, u) → ∃ v,
    v = modSpan u k.val (fun x => { x with peer := m, peerSeen := true, lastState := u.now }) ∧
    ((getSpan v k.val).st = 2 → (getSpan v k.val).sentSeen = true → (byteAt m 1).testBit 0 = true → (isReady v 5 = false ∨ ofTime10 (slice m 16 10) = 0) →
      (joinReason v k.val m = 0 → exec (.spanState k) s = .next (spanJoin v k.val)) ∧
      (∀ r, joinReason v k.val m = r → r ≠ 0 → exec (.spanState k) s = .next (spanQuarantine v k.val r))) ∧
    ((getSpan v k.val).st = 2 → (getSpan v k.val).sentSeen = false → exec (.spanState k) s = .next v) ∧
    ((getSpan v k.val).st = 4 → (isReady v 5 = false ∨ ofTime10 (slice m 16 10) = 0) → joinReason v k.val m = 0 → exec (.spanState k) s = .next v)) ∧
  (takeMsg s k.val 0x01 = none → exec (.spanState k) s = .next s) ∧
  (∀ m : Bytes, (joinReason s k.val m = 0 ↔ leAt m 4 2 = 0x1C32 ∧ leAt m 8 4 = runningVersion s.svc ∧
    slice m 32 48 = slice (judgedAgainst s (ofTime10 (slice m 16 10))).2 0 48 ∧ leAt m 12 4 = (judgedAgainst s (ofTime10 (slice m 16 10))).1 ∧
    byteAt m 2 = spanPeerId s.plan.now k.val ∧ byteAt m 3 = 2 - k.val)) ∧
  (∀ r, (getSpan (spanQuarantine s k.val r) k.val).st = 3 ∧ (getSpan (spanQuarantine s k.val r) k.val).reason = r) ∧
  ((getSpan (spanJoin s k.val) k.val).st = 4 ∧ isReady (spanJoin s k.val) (15 + k.val) = true) ∧
  ((getSpan (spanTraining s k.val) k.val).st = 1 ∧ (getSpan (spanTraining s k.val) k.val).replay = [] ∧ (getSpan (spanTraining s k.val) k.val).reads = [] ∧
    isReady (spanTraining s k.val) (15 + k.val) = false) ∧
  (∀ b, 2 ≤ l.st → (b = true ∨ l.lastFlit + 16000 ≤ s.now ∨ l.lastState + 16000 ≤ s.now ∨ 16 ≤ l.replayed) →
    exec (.spanLinkDown k b) s = .next (record (spanCnt (spanTraining s k.val) k.val 0x20 1) 0 0x0D 0x0002 (spanLoc k.val))) ∧
  (s.now < l.lastFlit + 16000 → s.now < l.lastState + 16000 → l.replayed < 16 → exec (.spanLinkDown k false) s = .next s) ∧
  (2 ≤ l.st → ∃ u q, u = advanceTo s (l.syncAt + 200000) ∧ q = (l.syncSeq + 1) % 65536 ∧ exec (.timeSyncTx k) s =
    .next (sendControl (modSpan u k.val (fun x => { x with syncSeq := q, syncT1 := devNs u, syncAt := u.now })) k.val
      ([0x02, 0] ++ toLE 2 q ++ time10 (devNs u) ++ zeros 38))) ∧
  (∀ at_ m u, 2 ≤ l.st → takeMsg s k.val 0x02 = some (at_, m, u) →
    ((byteAt m 1).testBit 0 = false → exec (.timeSync k) s = .next (sendControl u k.val
      ([0x02, 1] ++ slice m 2 2 ++ slice m 4 10 ++ time10 at_ ++ time10 (devNs u) ++ toLE 4 (toSigned 32 u.time.freqAdj) ++ zeros 14))) ∧
    ((byteAt m 1).testBit 0 = true → leAt m 2 2 ≠ (getSpan u k.val).syncSeq → exec (.timeSync k) s = .next u)) ∧
  (∀ ps f : Int, l.st = 4 → spanFollow s.plan.now k.val = false →
    (ps.natAbs ≤ 100000 → spanOffset s k.val ps f = modSpan s k.val (fun x => { x with
      offset := ps.tdiv 1000, offsetMax := Nat.max x.offsetMax (ps.natAbs / 1000), good := x.good + 1 })) ∧
    (100000 < ps.natAbs → (getSpan (spanOffset s k.val ps f) k.val).st = 5 ∧ isReady (spanOffset s k.val ps f) (15 + k.val) = false))

/-- Flits and messages (R469 to R471, R479 to R488): a bad flit asks for a retry, as does one out of sequence; an accepted
flit's message joins those received; a peer's request outside what it may reach puts the link into QUARANTINE and is
answered E_QUARANTINE, any other is performed and answered; a response goes to the one that waits; learning messages and
packets are judged against epoch, domain and port; a packet leaves once VC3 holds its credits. -/
def Obligations.SpanMessages : Prop := ∀ (s : State) (k : Fin 3), let l := getSpan s k.val
  (∀ (f : Bytes), 2 ≤ l.st → f.length = 64 → ∃ u, u = modSpan s k.val (fun x => { x with lastFlit := s.now }) ∧
    (∀ b, (b = true ∨ crc32c (slice f 0 60) ≠ leAt f 60 4) → exec (.flitRx k f b) s = .next (spanCnt (modSpan u k.val (fun x => { x with retry := true })) k.val 0x10 1)) ∧
    (crc32c (slice f 0 60) = leAt f 60 4 → l.replay = [] → l.wait0 = [] → (byteAt f 3).testBit 7 = false → ∃ v, v = modSpan u k.val (fun x => { x with
        credits := tblMod 0 x.credits (byteAt f 3 % 4) (fun c => Nat.min (vcBuffer (byteAt f 3 % 4)) (c + leAt f 4 2)) }) ∧
      (byteAt f 0 % 8 = 0 → exec (.flitRx k f false) s = .next v) ∧
      (byteAt f 0 % 8 ≠ 0 → byteAt f 1 ≠ l.rxSeq → exec (.flitRx k f false) s = .next (modSpan v k.val (fun x => { x with retry := true }))) ∧
      (byteAt f 0 % 8 = 2 → byteAt f 1 = l.rxSeq → vcOf (byteAt f 8) ≠ none → ∃ t, exec (.flitRx k f false) s = .next t ∧
        (getSpan t k.val).rx = l.rx ++ [(devNs s, 1, slice f 8 52)] ∧ (getSpan t k.val).rxSeq = (l.rxSeq + 1) % 256 ∧ (getSpan t k.val).retry = false ∧
        t = spanCnt { s with span := t.span } k.val 0x08 1))) ∧
  (∀ f b, (l.st < 2 ∨ f.length ≠ 64) → exec (.flitRx k f b) s = .next s) ∧
  (∀ at_ m u, (l.st = 4 ∨ l.st = 5) → takeMsg s k.val 0x10 = some (at_, m, u) →
    (∀ d w, requestOk (leAt m 4 6) (byteAt m 1) false = true → directRead (spanCnt u k.val 0x50 1) 4 (0xC10 + k.val) (leAt m 4 6) (byteAt m 1) = (none, d, w) →
      exec (.readReq k) s = .next (sendMsg w k.val 1 (respMsg (byteAt m 1) (leAt m 2 2) stOk d))) ∧
    (requestOk (leAt m 4 6) (byteAt m 1) false = false → exec (.readReq k) s =
      .next (inboundViolation (sendMsg u k.val 1 (respMsg (byteAt m 1) (leAt m 2 2) eQuarantine [])) k.val))) ∧
  (∀ at_ m u, (l.st = 4 ∨ l.st = 5) → takeMsg s k.val 0x11 = some (at_, m, u) →
    (∀ w, requestOk (leAt m 4 6) (byteAt m 1) true = true →
      directWrite (spanCnt u k.val 0x50 1) 4 (0xC10 + k.val) (leAt m 4 6) (slice m 12 (byteAt m 1)) = (none, w) → exec (.writeReq k) s = .next w) ∧
    (requestOk (leAt m 4 6) (byteAt m 1) true = false → exec (.writeReq k) s = .next (inboundViolation u k.val))) ∧
  ((getSpan (inboundViolation s k.val) k.val).violation = true ∧ (spanOpen s k.val = true → (getSpan (inboundViolation s k.val) k.val).st = 3 ∧
    (getSpan (inboundViolation s k.val) k.val).reason = 6)) ∧
  (∀ at_ m u r, (l.st = 4 ∨ l.st = 5) → takeMsg s k.val 0x18 = some (at_, m, u) → (getSpan u k.val).reads.find? (fun r => r.tag == leAt m 2 2) = some r →
    (getSpan u k.val).wait0 = [] → ∃ w, w = modSpan u k.val (fun x => { x with reads := x.reads.erase r }) ∧
      (∀ tid e p, r.who = .thread tid e p → exec (.readResp k) s = .next (loadPart w tid e p (leAt m 4 2) (slice m 8 r.n))) ∧
      (r.who = .nobody → exec (.readResp k) s = .next w)) ∧
  (∀ at_ m u, (l.st = 4 ∨ l.st = 5) → takeMsg s k.val 0x20 = some (at_, m, u) →
    (leAt m 2 4 ≠ u.plan.epoch → exec (.learnMessage k) s = .next (spanCnt u k.val 0xB0 1)) ∧
    (leAt m 2 4 = u.plan.epoch → spanDomain u.plan.now k.val (byteAt m 24 / 16) = false → exec (.learnMessage k) s = .next (spanCnt u k.val 0x80 1)) ∧
    (leAt m 2 4 = u.plan.epoch → spanDomain u.plan.now k.val (byteAt m 24 / 16) = true → exec (.learnMessage k) s =
      .next (learnPost (spanCnt u k.val 0xA8 1) { key := slice m 8 19, port := byteAt m 6, link := some k.val }))) ∧
  (∀ at_ m u, (l.st = 4 ∨ l.st = 5) → takeMsg s k.val 0x21 = some (at_, m, u) → exec (.hawkMsg k) s =
    .next { u with span := { u.span with hawkMsgs := u.span.hawkMsgs ++ [(k.val, slice m 4 48)] } }) ∧
  (∀ at_ m u, l.st = 4 → s.egress.fifo.length < fifoCapacity → takeMsg s k.val 0x30 = some (at_, m, u) →
    (spanDomain u.plan.now k.val (byteAt m 3 % 16) = false → exec (.packet k) s = .next (spanCnt u k.val 0x80 1)) ∧
    (spanDomain u.plan.now k.val (byteAt m 3 % 16) = true → leAt m 4 4 = 0 → exec (.packet k) s = .next (spanCnt u k.val 0x88 1)) ∧
    (∀ h v, spanDomain u.plan.now k.val (byteAt m 3 % 16) = true → leAt m 4 4 ≠ 0 → u.plan.epoch = leAt m 4 4 →
      portEnabled (u.plan.of (leAt m 4 4)) (byteAt m 1) = true → hodAlloc u (byteAt m 3 % 16) (leAt m 8 2) = (.granted h, v) → ∃ w i,
        w = hbmPut v 1 (81 + k.val) (bufAddr v h + headroom (v.plan.of (leAt m 4 4))) (slice m 32 (leAt m 8 2)) ∧
        exec (.packet k) s = .next (spanCnt { w with egress := { w.egress with fifo := w.egress.fifo ++ [i] } } k.val 0x70 1) ∧
        dHandle i.desc = h % 2 ^ 32 ∧ i.domain = byteAt m 3 % 16 ∧ i.epoch = leAt m 4 4 ∧ i.owned = true)) ∧
  ((takeMsg s k.val 0x10 = none → exec (.readReq k) s = .next s) ∧ (takeMsg s k.val 0x11 = none → exec (.writeReq k) s = .next s) ∧
    (takeMsg s k.val 0x18 = none → exec (.readResp k) s = .next s) ∧ (takeMsg s k.val 0x30 = none → exec (.packet k) s = .next s)) ∧
  (∀ i r, l.packets = i :: r → l.st = 4 → hasCredits s k.val 3 (zeros (32 + leAt i.desc 6 2)) = true → ∀ d w,
    hbmRead (modSpan s k.val (fun x => { x with packets := r })) 2 (81 + k.val) (bufAddr s (dHandle i.desc) + leAt i.desc 4 2) (leAt i.desc 6 2) = (none, d, w) →
    exec (.spanPacketSend k) s = .next (modSpan (spanCnt (sendMsg w k.val 3 (packetMsg i d)) k.val 0x68 1) k.val (fun x => { x with
      unacked := x.unacked ++ [(dHandle i.desc, x.formed)] }))) ∧
  (∀ i r, l.packets = i :: r → hasCredits s k.val 3 (zeros (32 + leAt i.desc 6 2)) = false → exec (.spanPacketSend k) s = .next s) ∧
  (∀ (mb : MbId) (n : BitVec 8), n.toNat ≤ 2 →
    (∃ d, exec (.spanStatus mb n) s = .next (reply s mb.val stOk d) ∧ d.length = 96 ∧ slice d 0 1 = toLE 1 (getSpan s n.toNat).st) ∧
    ((getSpan s n.toNat).st = 0 → exec (.spanRejoin mb n) s = .next (reply s mb.val eNotFound)) ∧
    ((getSpan s n.toNat).st ≠ 0 → exec (.spanRejoin mb n) s = .next (reply (spanTraining s n.toNat) mb.val stOk)) ∧
    (∀ a c : BitVec 16, a.toNat % 8 = 0 → c.toNat ≤ 62 → a.toNat + 8 * c.toNat ≤ 0x100 → exec (.spanCounters mb n a c) s = .next (reply s mb.val stOk
      ((List.range c.toNat).flatMap (fun i => toLE 8 (spanWord s (0x100 * n.toNat + a.toNat + 8 * i))))))) ∧
  (∀ (mb : MbId) (n : BitVec 8) (a c : BitVec 16), 2 < n.toNat → exec (.spanStatus mb n) s = .next (reply s mb.val eArgs) ∧
    exec (.spanRejoin mb n) s = .next (reply s mb.val eArgs) ∧ exec (.spanCounters mb n a c) s = .next (reply s mb.val eArgs))

/-- The service port and the update protocol (R532 to R545): a solicitation and an echo request for the port's address are
answered, any other frame is dropped and counted; HELLO opens a session where an enable holds, TRNG is ready and none is
open; a message of the session's host in an accepted state acts, a repeated one is answered again, and any other state gets
E_SEQUENCE; chunks arrive block by block, are checked by digest and written in ascending order through the journal. -/
def Obligations.UpdateProtocol : Prop := ∀ s : State, let x := s.svc.session
  (∀ f : Bytes, svcPortUp s = true → exec (.svcFrameDrop f) s = .next { s with svc := { s.svc with drops := (s.svc.drops + 1) % 2 ^ 64 } } ∧
    (beAt f 12 2 = 0x86DD → byteAt f 20 = 58 → byteAt f 21 = 255 → byteAt f 54 = 135 → slice f 62 16 = svcIp → allZero (slice f 22 16) = false →
      exec (.neighborSolicitation f) s = .next { s with out := .service (svcIpFrame (slice f 6 6) (slice f 22 16)
        ([136, 0, 0, 0, 0x60, 0, 0, 0] ++ svcIp ++ [2, 1] ++ svcMac)) :: s.out }) ∧
    (beAt f 12 2 = 0x86DD → byteAt f 20 = 58 → byteAt f 54 = 128 → slice f 38 16 = svcIp → beAt f 18 2 ≤ 1240 → exec (.icmpv6EchoRequest f) s =
      .next { s with out := .service (svcIpFrame (slice f 6 6) (slice f 22 16) ([129, 0, 0, 0] ++ (slice f 54 (beAt f 18 2)).drop 4)) :: s.out }) ∧
    (slice f 62 16 ≠ svcIp → exec (.neighborSolicitation f) s = exec (.svcFrameDrop f) s)) ∧
  (∀ f, svcPortUp s = false → exec (.svcFrameDrop f) s = .next s ∧ exec (.neighborSolicitation f) s = .next s ∧ exec (.icmpv6EchoRequest f) s = .next s) ∧
  (∀ h : UpdHeader, svcPortUp s = true → x.st = .listen →
    (svcEnabled s = false → exec (.hello h) s = .next (sendUpdate s h.addr h.port.toNat 10 0 h.seq.toNat (statusBody s.svc eRights 0))) ∧
    (svcEnabled s = true → isReady s 4 = false → exec (.hello h) s = .next (sendUpdate s h.addr h.port.toNat 10 0 h.seq.toNat (statusBody s.svc eNotReady 0))) ∧
    (svcEnabled s = true → isReady s 4 = true → ∃ t, exec (.hello h) s = .next t ∧ t.svc.session.st = .opened ∧ t.svc.session.peerAddr = h.addr ∧
      t.svc.session.peerPort = h.port.toNat ∧ t.svc.session.id = beVal ((List.range 4).map (fun i => Config.trngByte (s.svc.trngPos + i))) ∧
      t.host.intStatus.testBit 31 = true)) ∧
  (∀ h : UpdHeader, svcPortUp s = true → x.st ≠ .listen → svcEnabled s = true → isReady s 4 = true → h.addr ≠ x.peerAddr →
    exec (.hello h) s = .next (sendUpdate s h.addr h.port.toNat 10 0 h.seq.toNat (statusBody s.svc eBusy 0)) ∧
    exec (.finish h) s = .next (svcDrop s) ∧ exec (.activate h) s = .next (svcDrop s) ∧ ∀ n, exec (.manifestEnd h n) s = .next (svcDrop s)) ∧
  (∀ h : UpdHeader, svcPortUp s = true → h.addr = x.peerAddr → h.port.toNat = x.peerPort → h.session.toNat = x.id → x.lastSeq ≠ some h.seq.toNat → let u := touchSession s
    (∀ (off : BitVec 32) d, (x.st = .opened ∨ x.st = .manifest) → 0 < d.length → d.length ≤ 1024 → off.toNat + d.length ≤ 16384 → exec (.manifestPart h off d) s =
      .next (answerStatus (modSession u (fun y => { y with st := .manifest, manifest := patchBytes y.manifest off.toNat d })) h stOk 0)) ∧
    (∀ n : BitVec 32, x.st = .manifest → match manifestCheck s.svc x.manifest n.toNat with
      | none => ∃ t, exec (.manifestEnd h n) s = .next t ∧ t.svc.pending = x.manifest ∧ t.svc.session.st = .transfer
      | some (c, st) => exec (.manifestEnd h n) s = .next (answerStatus (serviceRecord u 0 0x0003 5) h st c)) ∧
    (∀ c b crc d, x.st = .transfer → ((chunksLeft s.svc).take 2).contains c.toNat = true → b.toNat < chunkBlockCount s.svc.pending c.toNat → d.length = 1024 →
      crc32c d = crc.toNat → chunkState s.svc c.toNat = .empty → exec (.block h c b crc d) s = .next (touchSession (modSession s (fun y => { y with
        chunks := tblSet y.chunks c.toNat .receiving, rx := tblSet y.rx c.toNat { received := 2 ^ b.toNat, blocks := [(b.toNat, d)] } })))) ∧
    (∀ c b crc d, x.st = .transfer → crc32c d ≠ crc.toNat → exec (.block h c b crc d) s = .next (svcDrop s)) ∧
    (∀ c : BitVec 16, x.st = .transfer → c.toNat < mfChunks s.svc.pending → ∃ d, exec (.chunkQuery h c) s = .next (answer u h 7 x.id d) ∧ d.length = 12 ∧
      slice d 2 1 = toBE 1 (chunkCode (chunkState s.svc c.toNat))) ∧
    (x.st = .transfer → chunksLeft s.svc = [] → ∃ t, exec (.finish h) s = .next t ∧ t.svc.fw = .written ∧ t.svc.session.st = .done) ∧
    (∀ i r, x.st = .transfer → chunksLeft s.svc = i :: r → chunkState s.svc i = .empty → exec (.finish h) s = .next (answerStatus u h eArgs i)) ∧
    (x.st = .done → s.svc.fw = .written → ∃ t, exec (.activate h) s = .next t ∧ t.svc.session.st = .listen) ∧
    (x.st = .done → s.svc.fw ≠ .written → exec (.activate h) s = .next (answerStatus u h eSequence 0)) ∧
    (∀ r, x.st ≠ .listen → exec (.sessionAbort h r false) s = .next (closeSession u 1)) ∧
    (x.st = .opened → exec (.finish h) s = .next (answerStatus s h eSequence 0))) ∧
  (x.st ≠ .listen → ∃ u, u = advanceTo s (x.lastTick + secTicks 30) ∧ exec .sessionTimeout s = .next (closeSession u 2)) ∧
  (x.st = .listen → exec .sessionTimeout s = .next s) ∧
  (∀ b, x.st = .listen → exec (.svcEnChange b) s = .next { s with svc := { s.svc with svcEn := b } }) ∧
  (s.svc.hostEnableUntil = none → exec (.svcEnChange false) s = .next (enablesChanged { s with svc := { s.svc with svcEn := false } })) ∧
  (∀ t, s.svc.hostEnableUntil = some t → x.st = .listen → ∃ u, u = advanceTo s t ∧ exec .svcEnableLapse s = .next { u with svc := { u.svc with hostEnableUntil := none } }) ∧
  (∀ c : BitVec 16, chunkState s.svc c.toNat = .receiving → (tblGet ({} : ChunkRx) x.rx c.toNat).received = 2 ^ chunkBlockCount s.svc.pending c.toNat - 1 →
    (sha384 (rxData s.svc c.toNat) ≠ mfChunkDigest s.svc.pending c.toNat → exec (.chunkComplete c) s =
      .next (modSession s (fun y => { y with chunks := tblSet y.chunks c.toNat .bad, rx := tblDel y.rx c.toNat }))) ∧
    (sha384 (rxData s.svc c.toNat) = mfChunkDigest s.svc.pending c.toNat → (chunksLeft s.svc).head? ≠ some c.toNat → exec (.chunkComplete c) s =
      .next (modSession s (fun y => { y with chunks := tblSet y.chunks c.toNat .writing })))) ∧
  (∀ (c : BitVec 16) (p : Fin 9), chunkState s.svc c.toNat = .writing → (chunksLeft s.svc).head? = some c.toNat → x.finishSeq = none → x.closing = false →
    ∃ u, u = modSession (journalWrite (journalCopy s c.toNat p.val) c.toNat (rxData s.svc c.toNat) p.val) (fun y => { y with
      chunks := tblDel y.chunks c.toNat, rx := tblDel y.rx c.toNat }) ∧ tblFind u.svc.image c.toNat = some (rxData s.svc c.toNat) ∧
    (chunksLeft u.svc ≠ [] → exec (.chunkWritten c p) s = .next u) ∧ (chunksLeft u.svc = [] → exec (.chunkWritten c p) s = .next (becomeWritten u)))

/-- The firmware store, keys, fuses and random numbers (R528 to R531, R546 to R562): the loader verifies the image that is
to run; a healthy trial becomes CURRENT, raises the minimum version and releases the journal; one that is not confirmed falls
back; a worn block is retired to a spare; TRNG follows its tests; key slots and key-encryption keys are written once, and a
second write is a violation; the fuse for signed plans needs a live key. -/
def Obligations.FirmwareStore : Prop := ∀ s : State,
  (isReady s 0 = true → s.svc.fw ≠ .trial → (∀ r ∈ s.svc.journal, r.done = true) → ∃ t, exec .loaderVerify s = .next t ∧
    (match imageVerifies s.svc.current (currentChunk s.svc) with
    | true => t.power.loaderOk = true ∧ t.svc.runningPending = false ∧ isReady t 1 = true
    | false => t.power.loaderOk = false ∧ t.power.dieOut = false ∧ isReady t 1 = false ∧ t.svc.imageBad = true)) ∧
  (isReady s 0 = true → s.svc.fw = .trial → s.svc.trialFirst = true → (∀ r ∈ s.svc.journal, r.done = true) → ∃ t, exec .loaderVerify s = .next t ∧
    (match imageVerifies s.svc.pending (pendingChunk s.svc) with
    | true => t.svc.runningPending = true ∧ t.svc.fw = .trial ∧ isReady t 1 = true
    | false => t.svc.fw = .restoring ∧ t.svc.fallbackReason = 4 ∧ t.svc.runningPending = false)) ∧
  (∀ b, s.svc.fw = .trial → isReady s 3 = true → ∃ t, exec (.healthConfirm b) s = .next t ∧ t.svc.current = s.svc.pending ∧ t.svc.fw = .idle ∧
    t.svc.minFwVersion = Nat.max s.svc.minFwVersion (mfSec s.svc.pending) ∧ t.svc.journal = [] ∧ t.svc.pending = []) ∧
  (∀ b, s.svc.fw ≠ .trial → exec (.healthConfirm b) s = .next s) ∧
  (∀ at_, s.svc.healthBy = some at_ → s.svc.fw = .trial → ∃ t, exec .healthTimeout s = .next t ∧ t.svc.fw = .restoring ∧ t.svc.fallbackReason = 1 ∧ t.now = Nat.max s.now at_) ∧
  (s.svc.fw = .restoring → exec .restoreDone s = .next { s with svc := journalRestore s.svc } ∧ (journalRestore s.svc).fw = .idle) ∧
  (∀ (b : BitVec 14) (y : BitVec 12), regionDonated s.svc b.toNat = false → 0 < s.svc.sparesLeft → ∃ u, u = mramRecord { s with svc := { s.svc with
      sparesLeft := s.svc.sparesLeft - 1, retired := tblSet s.svc.retired b.toNat (16384 - s.svc.sparesLeft) } } 1 0x000A b.toNat y.toNat ∧ (s.svc.sparesLeft ≤ 1312 →
    exec (.mramBlockRetire b y .writeFailed) s = .next u ∧ (∀ n, 4 < n → exec (.mramBlockRetire b y (.corrected n)) s = .next u))) ∧
  (∀ (b : BitVec 14) y, exec (.mramBlockRetire b y (.corrected 0)) s = .next s) ∧
  (s.svc.running = true → s.svc.trng = .collecting →
    exec (.trngStartupDone true) s = .next (setReady { s with svc := { s.svc with trng := .ready, trngFails := 0 } } 4 true) ∧
    (s.svc.trngFails < 2 → exec (.trngStartupDone false) s = .next { s with svc := { s.svc with trngFails := s.svc.trngFails + 1 } }) ∧
    (2 ≤ s.svc.trngFails → exec (.trngStartupDone false) s =
      .next (serviceRecord { s with svc := { s.svc with trng := .failed, trngFails := s.svc.trngFails + 1 } } 3 0x0010 3))) ∧
  (s.svc.trng = .ready → exec .trngHealthFail s = .next (serviceRecord (setReady { s with svc := { s.svc with trng := .collecting, trngFails := 0 } } 4 false) 1 0x000F 3) ∧
    exec .drbgReseed s = .next { s with svc := { s.svc with trngPos := s.svc.trngPos + 1 } }) ∧
  (s.svc.trng ≠ .ready → exec .trngHealthFail s = .next s ∧ exec .drbgReseed s = .next s) ∧
  (∀ c, exec (.uartCharacterRx c) s = .next s) ∧
  (∀ mb : MbId, isReady s 0 = true →
    (∀ n : BitVec 32, 1 ≤ n.toNat → n.toNat ≤ 86400 → exec (.svcEnable mb 1 n) s =
      .next (reply { s with svc := { s.svc with hostEnableUntil := some (s.now + secTicks n.toNat) } } mb.val stOk)) ∧
    (∀ n : BitVec 32, 86400 < n.toNat → exec (.svcEnable mb 1 n) s = .next (reply s mb.val eArgs)) ∧
    (∃ d, exec (.svcStatus mb) s = .next (reply { s with free := s.free + 1 } mb.val stOk d) ∧ d.length = 31) ∧
    (∃ d, exec (.fwStatus mb) s = .next (reply s mb.val stOk d) ∧ d.length = 26 ∧ slice d 0 1 = toLE 1 (fwCode s.svc.fw)) ∧
    (s.svc.fw = .written → ∃ t, exec (.fwActivate mb) s = .next t ∧ t.svc.fw = .trial) ∧
    (s.svc.fw ≠ .written → exec (.fwActivate mb) s = .next (reply s mb.val eSequence)) ∧
    (s.svc.fw = .idle → exec (.fwRollback mb) s = .next (reply s mb.val eSequence)) ∧
    (s.svc.fw = .written → s.svc.session.st = .listen → ∃ u, u = reply s mb.val stOk ∧ exec (.fwRollback mb) s = .next { u with svc := { u.svc with fw := .restoring } }) ∧
    (∀ (n : BitVec 8) k, n.toNat ≤ 3 → k.length = 96 → p384KeyValid k = true →
      (tblGet KeySlot.empty s.svc.keySlots n.toNat = .empty → exec (.keySlotWrite mb n k) s = .next (serviceRecord (reply { s with svc := { s.svc with
        keySlots := tblSet s.svc.keySlots n.toNat (.written k) } } mb.val stOk) 0 0x0013 1)) ∧
      (tblGet KeySlot.empty s.svc.keySlots n.toNat ≠ .empty → exec (.keySlotWrite mb n k) s = .next (reply (violation s none) mb.val eLocked))) ∧
    (∀ (n : BitVec 8) k, n.toNat ≤ 3 → tblGet KeySlot.empty s.svc.keySlots n.toNat = .written k → s.svc.planSigFuse = false → exec (.keySlotRevoke mb n) s =
      .next (serviceRecord (planStagingToLoaded (reply { s with svc := { s.svc with keySlots := tblSet s.svc.keySlots n.toNat .revoked } } mb.val stOk)) 0 0x0014 1)) ∧
    (∃ d, exec (.keyStatus mb) s = .next (reply s mb.val stOk d)) ∧
    (∀ (n : BitVec 8) k, n.toNat ≤ 1 → k.length = 32 →
      (tblFind s.svc.keks n.toNat = none → exec (.kekInstall mb n k) s = .next (reply { s with svc := { s.svc with keks := tblSet s.svc.keks n.toNat k } } mb.val stOk)) ∧
      (tblFind s.svc.keks n.toNat ≠ none → exec (.kekInstall mb n k) s = .next (reply (violation s none) mb.val eLocked))) ∧
    (liveSlots s.svc ≠ [] → s.svc.planSigFuse = false →
      exec (.fusePlanSigned mb 0x1C32 true) s = .next (serviceRecord (planStagingToLoaded (reply { s with svc := { s.svc with planSigFuse := true } } mb.val stOk)) 0 0x0011 4) ∧
      exec (.fusePlanSigned mb 0x1C32 false) s = .next (serviceRecord (reply s mb.val eCheck) 3 0x0012 4)) ∧
    (liveSlots s.svc = [] → ∀ b, exec (.fusePlanSigned mb 0x1C32 b) s = .next (reply s mb.val eSequence))) ∧
  (∀ (mb : MbId) (n : BitVec 16), 1 ≤ n.toNat → n.toNat ≤ 256 →
    (isReady s 4 = true → exec (.trngRead mb n) s = .next (reply { s with svc := { s.svc with trngPos := s.svc.trngPos + n.toNat } } mb.val stOk
      ((List.range n.toNat).map (fun i => Config.trngByte (s.svc.trngPos + i))))) ∧
    (isReady s 4 = false → exec (.trngRead mb n) s = .next (reply s mb.val eNotReady))) ∧
  (∀ mb : MbId, isReady s 0 = false → exec (.fwStatus mb) s = .next (reply s mb.val eNotReady) ∧ exec (.keyStatus mb) s = .next (reply s mb.val eNotReady))

/-- Detection, unit restarts, comparators and the fault commands (R494 to R507, R515 to R519, R522): an unfinished stage, a
stalled step or a missing heartbeat is an S3 error of its unit, which starts its restart; the restart's end rebuilds the unit
and lets it rejoin, or becomes a DEVICE restart past its bound; a DEVICE restart holds the processor die; a comparator that
fails its test is replaced by the lower spare at the boundary; FAULT_N is released while no condition latches it. -/
def Obligations.FaultHandling : Prop := ∀ s : State,
  (∀ (a : BitVec 6) (b : BitVec 8) (c : BitVec 10) (d : BitVec 12), s.power.dieOut = true → completionCovers s a.toNat b.toNat = true →
    s.fault.planted = [] → exec (.slotOverrun a b c d) s = .next (unitError s 0x08 0x0004 { unitLoc a.toNat b.toNat with l3 := c.toNat, l2 := d.toNat } false)) ∧
  (∀ (a : BitVec 6) (b : BitVec 8) (c : BitVec 10) (d : BitVec 12), (s.power.dieOut = false ∨ completionCovers s a.toNat b.toNat = false) →
    exec (.slotOverrun a b c d) s = .next s) ∧
  (∀ (n : ClusterId) (c : Fin 12), s.power.dieOut = true → clusterFree s n.val = true → exec (.stepStall n [c]) s = .next (unitError s 0x08 0x0005 (unitLoc n.val c.val) false)) ∧
  (∀ (a : BitVec 6) (b : BitVec 8), s.power.dieOut = true → 16 ≤ a.toNat → a.toNat ≤ 29 → unitExists a.toNat b.toNat = true → s.fault.planted = [] →
    exec (.heartbeatTimeout a b) s = .next (unitError s 0x0F 0x0004 (unitLoc a.toNat b.toNat) false)) ∧
  (s.power.dieOut = true → s.fault.trigger = none → ∃ t, exec .watchdogExpire s = .next t ∧ t.fault.trigger = some (0x0F, 0x0004, locCode s (unitLoc 29 35)) ∧
    t.svc.faultN = true) ∧
  (∀ (u : Loc) cls code, u.l5 ≤ 15 → u.l4 ≤ 11 → (∀ e ∈ s.fault.restartLog, e.1 ≠ u) → ∃ r, r ∈ (startRestart s u cls code none).fault.recovering ∧
    r.loc = u ∧ r.since = s.now ∧ r.cls = cls ∧ r.code = code ∧ (startRestart s u cls code none).host.clusterReady.testBit u.l5 = false) ∧
  (∀ (a : BitVec 6) (b : BitVec 8) r, s.fault.recovering.find? (fun r => r.loc == restartUnit (unitLoc a.toNat b.toNat)) = some r → a.toNat ≠ 30 →
    pastBound s r = false → storeSpoilt s r.loc = false → r.mailbox = none → ∃ u, u = faultCount (rebuild s r.loc) 0x48 1 ∧
      exec (.unitRestartEnd a b) s = .next (readyAgain { u with fault := { u.fault with recovering := u.fault.recovering.filter (fun o => o.loc != r.loc) } } r)) ∧
  (∀ (a : BitVec 6) (b : BitVec 8) r, s.fault.recovering.find? (fun r => r.loc == restartUnit (unitLoc a.toNat b.toNat)) = some r → a.toNat ≠ 30 →
    pastBound s r = true → exec (.unitRestartEnd a b) s = .next (decideDevice s r.cls r.code (locCode s r.loc))) ∧
  (s.fault.recovering = [] → ∀ a b, exec (.unitRestartEnd a b) s = .next s) ∧
  (∀ (mb : MbId) (x : BitVec 64), (bits x.toNat 63 60 ≠ s.svc.devId → exec (.unitRestart mb x) s = .next (reply s mb.val eArgs)) ∧
    (bits x.toNat 63 60 = s.svc.devId → (locOfCode x.toNat).l6 = 0 → unitExists (locOfCode x.toNat).l5 (locOfCode x.toNat).l4 = true →
      restartBound (restartUnit (locOfCode x.toNat)).l5 (restartUnit (locOfCode x.toNat)).l4 ≠ none →
      (recovering s (restartUnit (locOfCode x.toNat)) = true → exec (.unitRestart mb x) s = .next (reply s mb.val eBusy)) ∧
      (recovering s (restartUnit (locOfCode x.toNat)) = false → exec (.unitRestart mb x) s =
        .next (restartReset (startRestart s (restartUnit (locOfCode x.toNat)) 0x0F 0x0002 (some mb.val)) (restartUnit (locOfCode x.toNat)))))) ∧
  (∀ mb : MbId, s.fault.commandRestartAt = none → exec (.deviceRestart mb 0x1C32) s =
    .next (reply { s with fault := { s.fault with commandRestartAt := some (s.now + 1600000) } } mb.val stOk)) ∧
  (∀ (mb : MbId) (c : BitVec 32), c.toNat ≠ 0x1C32 → exec (.deviceRestart mb c) s = .next (reply s mb.val eArgs)) ∧
  (∀ a b c, s.power.dieOut = true → s.fault.trigger = some (a, b, c) → ∃ t, exec .deviceRestartDecision s = .next t ∧ t.power.dieOut = false ∧
    t.power.holding = true ∧ t.power.holdFrom = s.now ∧ t.svc.faultN = true ∧ t.svc.lastClass = a ∧ t.svc.lastCode = b ∧ t.svc.lastLoc = c ∧ t.plan = {} ∧ t.mem = [] ∧
    t.svc.deviceRestarts = s.svc.deviceRestarts + 1 ∧ isReady t 11 = false) ∧
  (s.fault.trigger = none → s.fault.commandRestartAt = none → exec .deviceRestartDecision s = .next s) ∧
  (∀ k : Fin 34, s.power.dieOut = true → k.val ∉ s.fault.cmpFailed → s.fault.planted = [] → exec (.comparatorSelfTest k true true) s = .next (faultCount s 0x88 1) ∧
    exec (.comparatorSelfTest k false true) s = .next (comparatorFails (faultCount s 0x88 1) k.val false)) ∧
  (∀ (n : Fin 32) w at_ ns k, s.fault.cmpWaiting.find? (fun w => w.1 == n.val) = some (w, at_, ns) → (sparesFree s).head? = some k → ∃ u,
    u = advanceTo s (boundaryTick s at_ ns) ∧ exec (.comparatorReplace n) s = .next (record { u with fault := { u.fault with
      cmpServer := tblSet u.fault.cmpServer n.val k
      sparesUsed := u.fault.sparesUsed ++ [k]
      cmpWaiting := u.fault.cmpWaiting.filter (fun w => w.1 ≠ n.val) } } 0 0x0F 0x0008 (unitLoc 29 n.val))) ∧
  (∀ at_, s.svc.restartHoldUntil = some at_ → ∃ u, u = advanceTo s at_ ∧ exec .restartHoldEnd s = .next { u with svc := { u.svc with restartHoldUntil := none } }) ∧
  (s.svc.restartHoldUntil = none → exec .restartHoldEnd s = .next s) ∧
  (∀ mb : MbId, (latchedMask s = 0 → exec (.faultNRelease mb) s = .next (reply { s with svc := { s.svc with faultN := false } } mb.val stOk)) ∧
    (latchedMask s ≠ 0 → exec (.faultNRelease mb) s = .next (reply s mb.val eBusy (toLE 1 (latchedMask s))))) ∧
  (∀ mb : MbId, ∃ d, exec (.faultStatus mb) s = .next (reply s mb.val stOk d) ∧ d.length = 112) ∧
  (∀ (mb : MbId) (x : BitVec 64) (i : BitVec 16), (i.toNat < 512 → exec (.faultInject mb 5 x i) s =
      .next (reply { s with fault := { s.fault with digestFlips := s.fault.digestFlips ++ [i.toNat] } } mb.val stOk)) ∧
    (bits x.toNat 63 60 ≠ s.svc.devId → exec (.faultInject mb 1 x i) s = .next (reply s mb.val eArgs)) ∧
    (bits x.toNat 63 60 = s.svc.devId → (locOfCode x.toNat).l6 = 0 → (locOfCode x.toNat).l5 = 29 → exec (.faultInject mb 8 x i) s =
      .next (reply { s with fault := { s.fault with planted := s.fault.planted ++ [(8, 29, 35)] } } mb.val stOk)))

/-- The logbook (R586 to R592): each second counts, and a delta record with the changed words goes to the next block of its
ring, or a generation when more than 504 words changed; a mount takes the newer generation and the newer deltas, counts the
power-up and sets READY.LOGBOOK; histograms are sampled each second; the read commands answer in their limits. -/
def Obligations.Logbook : Prop := ∀ s : State,
  (∀ p : Fin 9, s.svc.running = true → s.power.dieOut = false → ∃ u, u = { logCount s 0x000 1 with log := { (logCount s 0x000 1).log with
      eventsThisSecond := 0, secondsSinceGen := s.log.secondsSinceGen + 1 } } ∧
    (logMayWrite s = false → exec (.logbookDeltaWrite p) s = .next u) ∧
    (logMayWrite s = true → u.log.dirty.length ≤ 504 → exec (.logbookDeltaWrite p) s = .next (writeDelta u p.val)) ∧
    (logMayWrite s = true → 504 < u.log.dirty.length → exec (.logbookDeltaWrite p) s = .next (writeGeneration u p.val))) ∧
  (∀ p : Fin 9, s.svc.running = false → exec (.logbookDeltaWrite p) s = .next s) ∧
  (∀ p : Fin 9, (logMayWrite s = true → 256 ≤ s.log.secondsSinceGen → exec (.logbookGenerationWrite p) s = .next (writeGeneration s p.val)) ∧
    (s.log.secondsSinceGen < 256 → exec (.logbookGenerationWrite p) s = .next s)) ∧
  (isReady s 0 = true → s.log.mounted = false → s.log.genB = none → s.log.deltas = [] → s.log.dirty = [] → s.power.lastLossUnclean = false →
    ∃ u, u = { s with log := { s.log with words := (match s.log.genA with | some g => g.words | none => []), mounted := true, deltaLost := false } } ∧
    exec .logbookMount s = .next (setReady (logCount u 0x001 1) 21 true)) ∧
  (s.log.mounted = true → exec .logbookMount s = .next s) ∧
  (s.svc.running = true → s.power.dieOut = false → exec .histogramSample s =
    .next (histSample (histSample s 2 (histBin s.power.vinMv 30000 2000 27)) 3 (Nat.min 33 (s.power.vinMv * s.power.iinMa / 10000000)))) ∧
  (s.svc.running = false → exec .histogramSample s = .next s) ∧
  (∀ id n, (tblGet {} (logCount s id n).log.words id) = logWordAdd (tblGet {} s.log.words id) n ∧
    (tblGet {} (logCount s id n).log.words id).value = Nat.min 0xFFFFFFFFFF ((tblGet {} s.log.words id).value + n)) ∧
  (∀ mb : MbId, isReady s 21 = true →
    (∃ d, exec (.logbookStatus mb) s = .next (reply s mb.val stOk d) ∧ d.length = 48 ∧ slice d 0 1 = toLE 1 s.svc.wearStage) ∧
    (∀ (f : BitVec 64) (n : BitVec 32), n.toNat ≤ 62 → f.toNat + n.toNat ≤ 0x14000 → exec (.logbookRead mb 0 f n none) s = .next (reply s mb.val stOk
      ((List.range n.toNat).flatMap (fun i => toLE 8 (if counterIdKnown (f.toNat + i) then logWordBits s (f.toNat + i) else 0))))) ∧
    (∀ (f : BitVec 64) (n : BitVec 32), n.toNat ≤ 12 → s.log.eventFirst ≤ f.toNat → f.toNat + n.toNat ≤ s.log.eventNext → exec (.logbookRead mb 1 f n none) s =
      .next (reply s mb.val stOk (((s.log.events.drop (f.toNat - s.log.eventFirst)).take n.toNat).flatMap eventBytes))) ∧
    (∀ f n, exec (.logbookRead mb 2 f n none) s = .next (reply s mb.val eArgs)) ∧
    (∀ (id : BitVec 32) (f n : BitVec 16) b, histBins id.toNat = some b → f.toNat + n.toNat ≤ b → exec (.histogramRead mb id f n) s = .next (reply s mb.val stOk
      ((List.range n.toNat).flatMap (fun i => toLE 8 (logWordBits s (binWord id.toNat (f.toNat + i))))))) ∧
    (∀ (id : BitVec 32) (f n : BitVec 16), histBins id.toNat = none → exec (.histogramRead mb id f n) s = .next (reply s mb.val eArgs)))

/-- What a DEVICE restart leaves (R505): the processor die is held from now on, FAULT_N is asserted, its cause is kept, and
nothing of the processor die's state is left. -/
def Restarted (s t : State) (cls code loc : Nat) : Prop :=
  t.power.dieOut = false ∧ t.power.holding = true ∧ t.svc.faultN = true ∧ t.svc.lastClass = cls ∧ t.svc.lastCode = code ∧ t.svc.lastLoc = loc ∧
    t.svc.deviceRestarts = s.svc.deviceRestarts + 1 ∧ t.plan = {} ∧ t.mem = [] ∧ t.now = s.now

/-- Power and resets (R565 to R585, R603): input power that fails takes all volatile state with it; rail groups rise in
order, and a failing rail of group 2 or 3 is a DEVICE restart; PFAIL_N, RESET_N and TEST_EN restart and hold the die, which
leaves reset 10 ms after a hold began when nothing holds it; the averages, Plumb's readings and the temperatures move their
flags, set points and records; SMBus answers Table 19-5; the start steps set their READY bits. -/
def Obligations.PowerAndResets : Prop := ∀ s : State,
  (s.power.vinValid = true → ∃ t, exec .vinUvlo s = .next t ∧ t.ready = 0 ∧ t.svc.running = false ∧ t.power.vinValid = false ∧ t.power.dieOut = false ∧ t.plan = {} ∧
    t.mem = [] ∧ t.kept = {} ∧ t.svc.keks = [] ∧ t.svc.image = s.svc.image ∧ t.svc.keySlots = s.svc.keySlots ∧ t.svc.planSigFuse = s.svc.planSigFuse) ∧
  (s.power.vinValid = false → exec .vinUvlo s = .next s) ∧
  (s.power.vinValid = false → ∃ t, exec .vinValid s = .next t ∧ t.power.vinValid = true ∧ t.svc.faultN = false ∧
    t.power.lastLossUnclean = !s.power.cleanMarker ∧ t.power.cleanMarker = false ∧ (s.svc.fw = .trial → t.svc.fw = .restoring ∧ t.svc.fallbackReason = 3)) ∧
  (s.power.vinValid = true → exec (.railGroupUp .one) s = .next { s with power := { s.power with group1 := true } }) ∧
  (s.power.group1 = true → s.power.railsHeldOff = false → s.power.pfailLow = false → s.power.holding = false →
    exec (.railGroupUp .two) s = .next { s with power := { s.power with group2 := true } }) ∧
  (s.power.group2 = false → exec (.railGroupUp .three) s = .next s) ∧
  (s.power.group2 = true → s.power.group3 = false → releaseAllowed { s with power := { s.power with group3 := true } } = true →
    exec (.railGroupUp .three) s = .next (dieRelease { s with power := { s.power with group3 := true } })) ∧
  (s.power.dieOut = false → (dieRelease s).power.dieOut = true ∧ (dieRelease s).power.holding = false ∧ (dieRelease s).svc.queue = []) ∧
  (s.svc.running = true → s.power.group2 = true → ∃ t, exec (.railFault .two) s = .next t ∧ Restarted s t 0x11 0x0005 (locCode s powerLoc) ∧
    t.power.group2 = false ∧ t.power.group3 = false) ∧
  (exec (.railFault .one) s = .next (powerOff s)) ∧
  (releaseAllowed s = true → s.power.dieOut = false → s.power.holding = true → ∃ u, u = advanceTo s (s.power.holdFrom + 16000000) ∧
    exec .processorResetRelease s = .next (dieRelease u)) ∧
  (s.power.pfailLow = false → s.svc.running = true → ∃ t, exec .pfailAssert s = .next t ∧ Restarted s t 0x11 0x0003 (locCode s powerLoc) ∧
    t.power.pfailLow = true ∧ t.power.group2 = false ∧ t.power.group3 = false ∧ t.power.cleanMarker = true) ∧
  (s.power.pfailLow = true → exec .pfailAssert s = .next s ∧ exec .pfailRelease s = .next { s with power := { s.power with
    pfailLow := false, holdFrom := s.now, holding := true, cleanMarker := s.power.cleanMarker && !s.svc.running } }) ∧
  (s.power.resetLow = false → s.svc.running = true → ∃ t, exec .resetAssert s = .next t ∧ Restarted s t 0x11 0x000A (locCode s powerLoc) ∧
    t.power.resetLow = true ∧ t.power.railsHeldOff = false) ∧
  (s.power.resetLow = true → exec .resetRelease s = .next { s with power := { s.power with resetLow := false, holdFrom := s.now, holding := true } }) ∧
  (s.power.testEn = false → s.svc.running = true → ∃ t, exec .testEnRise s = .next t ∧ Restarted s t 0x11 0x000A (locCode s powerLoc) ∧ t.power.testEn = true) ∧
  (s.power.testEn = true → ∃ t, exec .testEnFall s = .next t ∧ t.power.testEn = false ∧ t.power.holdFrom = s.now ∧ t.power.holding = true ∧ t.pkg.driven = none ∧
    (s.pkg.ir = .extest → t.pkg.ir = .bypass) ∧ t = { s with power := t.power, pkg := t.pkg }) ∧
  (∀ mv ma : Nat, s.svc.running = true → 33500 ≤ mv → mv ≤ 79500 → s.power.vinLow = false → s.power.vinHigh = false → ∃ t, exec (.vinAverage mv ma) s = .next t ∧
    t.power.vinMv = mv ∧ t.power.iinMa = ma ∧ t.power.energyNj = s.power.energyNj + mv * ma ∧ t.power.vinLow = false ∧ t.power.vinHigh = false ∧ t.fault = s.fault) ∧
  (∀ mv ma : Nat, s.svc.running = true → mv < 33000 → s.power.lowRun = 9 → s.power.vinLow = false → ∃ t, exec (.vinAverage mv ma) s = .next t ∧ t.power.vinLow = true) ∧
  (∀ (c : ClusterId) rate, s.power.dieOut = true → (getPlumb s c.val).sensorLost = false → ∃ t, exec (.plumbReading c none rate) s = .next t ∧
    (getPlumb t c.val).sensorLost = true ∧ (getPlumb t c.val).vcode = 88) ∧
  (∀ (c : ClusterId) d rate, s.power.dieOut = true → clusterFree s c.val = false → 150 ≤ d → d ≤ 700 → (getPlumb s c.val).sensorLost = false →
    ∃ t, exec (.plumbReading c (some d) rate) s = .next t ∧ (getPlumb t c.val).delay = d ∧ (getPlumb t c.val).vcode = (beaconLaw (getPlumb s c.val) d).vcode) ∧
  (∀ c ps rate, s.power.dieOut = false → exec (.plumbReading c ps rate) s = .next s) ∧
  (∀ p : Plumb, (beaconLaw p 600).vcode = Nat.min 88 (p.vcode + 1) ∧ (beaconLaw p 490).vcode = p.vcode ∧ (p.count = 63 → (beaconLaw p 400).vcode = p.vcode - 1)) ∧
  (∀ cs a b, s.svc.running = true → s.power.dieOut = false → exec (.tempMeasure cs a b) s = .next { s with power := { s.power with tempStage := a, tempSvc := b } }) ∧
  (∀ x a b : Int, s.svc.running = true → s.power.dieOut = true → ∃ t, exec (.tempMeasure [x] a b) s = .next t ∧ t.power.tjMax = x ∧
    (100000 ≤ x → t.power.tempHigh = true) ∧ (x < 95000 → t.power.tempHigh = false) ∧ (105000 ≤ x → t.power.tempOver = true)) ∧
  (smbusUp s = true → (∀ c w, smbusWord s c.toNat = some w → exec (.smbusReadWord c) s = .next { s with out := .smbusWord w :: s.out }) ∧
    (∀ c, smbusWord s c.toNat = none → exec (.smbusReadWord c) s = .next { s with out := .smbusNack :: s.out }) ∧
    (∀ c w, exec (.smbusNack c w) s = .next { s with out := .smbusNack :: s.out }) ∧
    (s.power.alert = true → exec .smbusAlertResponse s = .next { s with
      power := { s.power with alert := false }, out := .smbusWord (2 * (0x58 + s.svc.devId)) :: s.out })) ∧
  (s.power.group1 = true → s.svc.running = false → ∃ t, exec .serviceDieStart s = .next t ∧ t.svc.running = true ∧ t.svc.devId = s.svc.devIdStrap % 4 ∧ isReady t 0 = true) ∧
  (s.power.dieOut = true → ∃ t, exec .onDieMemoryInit s = .next t ∧ t.power.memInit = true ∧ isReady t 12 = true ∧ isReady t 13 = true ∧ isReady t 14 = true ∧
    isReady t 23 = true ∧ isReady t 24 = true) ∧
  (s.power.dieOut = true → exec .pcieEndpointUp s = .next (refreshDma { s with power := { s.power with endpointUp := true } })) ∧
  (s.power.dieOut = false → exec .pcieEndpointUp s = .next s ∧ exec .onDieMemoryInit s = .next s) ∧
  (s.host.hawkState = 2 → s.power.loaderOk = true → (∀ r ∈ s.fault.recovering, r.loc.l5 ≠ 30) → s.plan.undo = false → ∃ t, exec .hawkRestartEnd s = .next t ∧
    t.host.hawkState = 1 ∧ isReady t 2 = true ∧ isReady t 3 = true ∧ t.host.hawkRestarts = Nat.min 0xFFFF (s.host.hawkRestarts + 1)) ∧
  (s.host.hawkState ≠ 2 → exec .hawkRestartEnd s = .next s)

/-- GPIO and the TAP (R609 to R613): a register write takes the 16 implemented bits, GPIO_CHANGED collects the pins that
change and clears where 1 is written; a released open drain and an input show the board's level. An instruction that needs
TEST_EN acts as BYPASS without it; the boundary register captures, shifts out and keeps what is shifted in. -/
def Obligations.GpioAndTap : Prop := ∀ s : State, let p := s.pkg
  (∀ v : BitVec 64, s.power.dieOut = true →
    exec (.gpioWrite 0x08 v) s = .next { s with pkg := gpioSample { p with gpioDir := v.toNat % 65536 } } ∧
    exec (.gpioWrite 0x10 v) s = .next { s with pkg := gpioSample { p with gpioOut := v.toNat % 65536 } } ∧
    exec (.gpioWrite 0x18 v) s = .next { s with pkg := gpioSample { p with gpioOd := v.toNat % 65536 } } ∧
    (∃ t, exec (.gpioWrite 0x20 v) s = .next t ∧ t = { s with pkg := { p with gpioChanged := t.pkg.gpioChanged } } ∧
      ∀ n < 16, t.pkg.gpioChanged.testBit n = (p.gpioChanged.testBit n && !v.getLsbD n)) ∧
    exec (.gpioWrite 0x00 v) s = .next s) ∧
  (∀ r v, s.power.dieOut = false → exec (.gpioWrite r v) s = .next s) ∧
  (∀ l : BitVec 16, s.svc.running = true → exec (.gpioInputChange l) s = .next { s with pkg := gpioSample { p with gpioBoard := l.toNat } }) ∧
  (∀ q : PkgState, ∀ k < 16, (gpioSample q).gpioIn.testBit k =
      (if q.gpioDir.testBit k = true ∧ (q.gpioOd.testBit k = false ∨ q.gpioOut.testBit k = false) then q.gpioOut.testBit k else q.gpioBoard.testBit k) ∧
    (gpioSample q).gpioChanged.testBit k = (q.gpioChanged.testBit k || (q.gpioIn.testBit k != (gpioSample q).gpioIn.testBit k))) ∧
  (exec .tapReset s = .next { s with pkg := { p with ir := .idcode, driven := none } }) ∧
  (∀ c x : Nat, s.power.group1 = true → s.power.testEn = true → c < 2 ^ 1211 → x < 2 ^ 1211 →
    exec (.extest c x) s = .next { s with pkg := { p with ir := .extest, boundary := x, driven := some x }, out := .tap 1211 c :: s.out } ∧
    exec (.extestPulse c x) s = .next { s with pkg := { p with ir := .extestPulse, boundary := x, driven := some x }, out := .tap 1211 c :: s.out } ∧
    exec (.extestTrain c x) s = .next { s with pkg := { p with ir := .extestTrain, boundary := x, driven := some x }, out := .tap 1211 c :: s.out }) ∧
  (∀ c x : Nat, s.power.group1 = true → c < 2 ^ 1211 → x < 2 ^ 1211 →
    exec (.samplePreload c x) s = .next { s with pkg := { p with ir := .sample, boundary := x, driven := none }, out := .tap 1211 c :: s.out }) ∧
  (s.power.group1 = true →
    exec .idcode s = .next { s with pkg := { p with ir := .idcode, driven := none }, out := .tap 32 0xB1C32F3B :: s.out } ∧
    (∀ c, exec (.bypass c) s = .next { s with pkg := { p with ir := .bypass, driven := none }, out := .tap 1 0 :: s.out }) ∧
    (s.power.testEn = true → exec .highz s = .next { s with pkg := { p with ir := .highz, driven := none }, out := .tap 1 0 :: s.out } ∧
      exec .clamp s = .next { s with pkg := { p with ir := .clamp, driven := some p.boundary }, out := .tap 1 0 :: s.out }) ∧
    (s.power.testEn = false → exec .highz s = exec (.bypass 0) s ∧ exec .clamp s = exec (.bypass 0) s ∧ ∀ c x, exec (.extest c x) s = exec (.bypass 0) s ∧
      exec (.extestPulse c x) s = exec (.bypass 0) s ∧ exec (.extestTrain c x) s = exec (.bypass 0) s)) ∧
  (s.power.group1 = false → exec .idcode s = .next s ∧ exec .highz s = .next s ∧ exec .clamp s = .next s ∧ (∀ c, exec (.bypass c) s = .next s) ∧
    ∀ c x, exec (.extest c x) s = .next s ∧ exec (.samplePreload c x) s = .next s ∧ exec (.extestPulse c x) s = .next s ∧ exec (.extestTrain c x) s = .next s)
end

