-- ==== Sys2Proof/Laws/Memory.lean ====
section
/-!
SUPPORT. The laws of byte memories and sparse tables: every operation keeps the canonical form, a read after a write
gives what was written, and a write leaves every other place alone.
-/

namespace Sys2Proof.Machine

/-! ### Canonical form -/

/-- A memory that starts above a place starts above every lower one. -/
theorem above_weaken {m : Memory} {l k : Nat} (h : Memory.above (some l) m = true) (hk : k ≤ l) : Memory.above (some k) m = true := by
  cases m with
  | nil => rfl
  | cons c r =>
    obtain ⟨a, b⟩ := c
    simp only [Memory.above, Bool.and_eq_true, decide_eq_true_eq] at h ⊢
    exact ⟨⟨by omega, h.1.2⟩, h.2⟩

/-- A memory that starts above a place is in canonical form. -/
theorem above_none {m : Memory} {lo : Option Nat} (h : Memory.above lo m = true) : Memory.above none m = true := by
  cases m with
  | nil => rfl
  | cons c r =>
    obtain ⟨a, b⟩ := c
    simp only [Memory.above, Bool.and_eq_true, decide_eq_true_eq] at h ⊢
    exact ⟨⟨trivial, h.1.2⟩, h.2⟩

/-- The empty memory is in canonical form. -/
@[simp] theorem wf_nil : Memory.wf [] = true := rfl

/-- Writing one byte keeps the canonical form. -/
theorem memSet_above (v : Byte) (a : Nat) : ∀ (m : Memory) (lo : Option Nat), Memory.above lo m = true → (∀ l, lo = some l → l < a) →
    Memory.above lo (memSet m a v) = true := by
  intro m
  induction m with
  | nil =>
    intro lo _ hl
    by_cases hv : v = 0#8
    · simp [memSet, hv, Memory.above]
    · cases lo with
      | none => simp [memSet, hv, Memory.above]
      | some l => simp [memSet, hv, Memory.above, hl l rfl]
  | cons c r ih =>
    intro lo h hl
    obtain ⟨j, w⟩ := c
    simp only [Memory.above, Bool.and_eq_true, decide_eq_true_eq] at h
    obtain ⟨⟨h1, h2⟩, h3⟩ := h
    replace h2 : ¬ w = 0#8 := h2
    unfold memSet
    by_cases h4 : a < j
    · by_cases hv : v = 0#8
      · simp [h4, hv, Memory.above, h1, h2, h3]
      · simp [h4, hv, Memory.above, h2, h3]
        cases lo with
        | none => rfl
        | some l => simp [hl l rfl]
    · by_cases h5 : a = j
      · subst h5
        by_cases hv : v = 0#8
        · simp only [Nat.lt_irrefl, if_false, if_true, hv]
          cases lo with
          | none => exact above_none h3
          | some l => exact above_weaken h3 (Nat.le_of_lt (hl l rfl))
        · simp [hv, Memory.above, h3]
          cases lo with
          | none => rfl
          | some l => simp [hl l rfl]
      · simp only [h4, h5, if_false, Memory.above, h1, Bool.true_and, Bool.and_eq_true, decide_eq_true_eq]
        exact ⟨h2, ih (some j) h3 (by intro l hl'; cases hl'; omega)⟩

/-- Writing one byte keeps the canonical form. -/
theorem memSet_wf {m : Memory} (h : m.wf = true) (a : Nat) (v : Byte) : (memSet m a v).wf = true :=
  memSet_above v a m none h (by intro l hl; cases hl)

/-- Writing bytes keeps the canonical form. -/
theorem memWrite_wf : ∀ (d : Bytes) (m : Memory) (a : Nat), m.wf = true → (memWrite m a d).wf = true := by
  intro d
  induction d with
  | nil => intro m a h; exact h
  | cons b r ih => intro m a h; exact ih _ _ (memSet_wf h a b)

/-- A part of a memory in canonical form is in canonical form. -/
theorem filter_above (p : Host.Cell → Bool) : ∀ (m : Memory) (lo : Option Nat), Memory.above lo m = true → Memory.above lo (m.filter p) = true := by
  intro m
  induction m with
  | nil => intro lo h; exact h
  | cons c r ih =>
    intro lo h
    obtain ⟨j, w⟩ := c
    simp only [Memory.above, Bool.and_eq_true, decide_eq_true_eq] at h
    obtain ⟨⟨h1, h2⟩, h3⟩ := h
    by_cases hp : p (j, w) = true
    · replace h2 : ¬ w = 0#8 := h2
      simp [hp, Memory.above, h1, h2, ih (some j) h3]
    · simp only [List.filter_cons, hp, if_false]
      cases lo with
      | none => exact above_none (ih (some j) h3)
      | some l =>
        refine above_weaken (ih (some j) h3) ?_
        simp only [decide_eq_true_eq] at h1
        omega

/-- A part of a memory in canonical form is in canonical form. -/
theorem filter_wf {m : Memory} (h : m.wf = true) (p : Host.Cell → Bool) : Memory.wf (m.filter p) = true := filter_above p m none h

/-- Clearing a range keeps the canonical form. -/
theorem memClear_wf {m : Memory} (h : m.wf = true) (lo hi : Nat) : (memClear m lo hi).wf = true := filter_wf h _

/-- A memory moved down by an offset that lies at or below its start. -/
theorem map_down_above (off : Nat) : ∀ (m : Memory) (l : Nat), Memory.above (some l) m = true → off ≤ l →
    Memory.above (some (l - off)) (m.map (fun c => (c.1 - off, c.2))) = true := by
  intro m
  induction m with
  | nil => intro l _ _; rfl
  | cons c r ih =>
    intro l h ho
    obtain ⟨j, w⟩ := c
    simp only [Memory.above, Bool.and_eq_true, decide_eq_true_eq] at h
    simp only [List.map_cons, Memory.above, Bool.and_eq_true, decide_eq_true_eq]
    exact ⟨⟨by omega, h.1.2⟩, ih j h.2 (by omega)⟩

/-- A memory moved up by an offset. -/
theorem map_up_above (off : Nat) : ∀ (m : Memory) (l : Nat), Memory.above (some l) m = true →
    Memory.above (some (l + off)) (m.map (fun c => (c.1 + off, c.2))) = true := by
  intro m
  induction m with
  | nil => intro l _; rfl
  | cons c r ih =>
    intro l h
    obtain ⟨j, w⟩ := c
    simp only [Memory.above, Bool.and_eq_true, decide_eq_true_eq] at h
    simp only [List.map_cons, Memory.above, Bool.and_eq_true, decide_eq_true_eq]
    exact ⟨⟨by omega, h.1.2⟩, ih j h.2⟩

/-- A memory followed by one that starts above all its cells. -/
theorem append_above (b : Memory) : ∀ (a : Memory) (lo : Option Nat), Memory.above lo a = true →
    (∀ l, (lo = some l ∨ ∃ w, (l, w) ∈ a) → Memory.above (some l) b = true) → b.wf = true → Memory.above lo (a ++ b) = true := by
  intro a
  induction a with
  | nil =>
    intro lo _ hb hn
    cases lo with
    | none => exact hn
    | some l => exact hb l (Or.inl rfl)
  | cons c r ih =>
    intro lo h hb hn
    obtain ⟨j, w⟩ := c
    simp only [Memory.above, Bool.and_eq_true, decide_eq_true_eq] at h
    simp only [List.cons_append, Memory.above, Bool.and_eq_true, decide_eq_true_eq]
    refine ⟨h.1, ih (some j) h.2 ?_ hn⟩
    rintro l (hl | ⟨v, hv⟩)
    · cases hl
      exact hb j (Or.inr ⟨w, List.mem_cons_self ..⟩)
    · exact hb l (Or.inr ⟨v, List.mem_cons_of_mem _ hv⟩)

/-- A memory whose cells lie at or above a place starts above everything below it. -/
theorem above_of_ge (k : Nat) : ∀ (m : Memory), m.wf = true → (∀ c ∈ m, k ≤ c.1) → ∀ l, l < k → Memory.above (some l) m = true := by
  intro m h hm l hl
  cases m with
  | nil => rfl
  | cons c r =>
    obtain ⟨j, w⟩ := c
    have hj := hm (j, w) (List.mem_cons_self ..)
    simp only [Memory.wf, Memory.above, Bool.and_eq_true, decide_eq_true_eq] at h
    simp only [Memory.above, Bool.and_eq_true, decide_eq_true_eq]
    exact ⟨⟨by simp only at hj; omega, h.1.2⟩, h.2⟩

/-- A part of a memory moved to address 0 is in canonical form. -/
theorem memSub_wf {m : Memory} (h : m.wf = true) (off n : Nat) : (memSub m off n).wf = true := by
  have hf := filter_wf h (fun c => decide (off ≤ c.1) && decide (c.1 < off + n))
  have hge : ∀ c ∈ m.filter (fun c => decide (off ≤ c.1) && decide (c.1 < off + n)), off ≤ c.1 := by
    intro c hc
    have := (List.mem_filter.mp hc).2
    simp only [Bool.and_eq_true, decide_eq_true_eq] at this
    exact this.1
  unfold memSub
  revert hf hge
  generalize m.filter (fun c => decide (off ≤ c.1) && decide (c.1 < off + n)) = r
  intro hf hge
  cases r with
  | nil => rfl
  | cons c q =>
    obtain ⟨j, w⟩ := c
    have hj : off ≤ j := hge (j, w) (List.mem_cons_self ..)
    simp only [Memory.wf, Memory.above, Bool.and_eq_true, decide_eq_true_eq] at hf
    simp only [List.map_cons, Memory.wf, Memory.above, Bool.and_eq_true, decide_eq_true_eq]
    exact ⟨⟨trivial, hf.1.2⟩, map_down_above off q j hf.2 hj⟩

/-- A memory moved up is in canonical form. -/
theorem memShift_wf {m : Memory} (h : m.wf = true) (off : Nat) : (memShift m off).wf = true := by
  cases m with
  | nil => rfl
  | cons c r =>
    obtain ⟨j, w⟩ := c
    simp only [Memory.wf, Memory.above, Bool.and_eq_true, decide_eq_true_eq] at h
    simp only [memShift, List.map_cons, Memory.wf, Memory.above, Bool.and_eq_true, decide_eq_true_eq]
    exact ⟨⟨trivial, h.1.2⟩, map_up_above off r j h.2⟩

/-- A replaced range keeps the canonical form. -/
theorem memSplice_wf {m src : Memory} (h : m.wf = true) (hs : src.wf = true) (off n : Nat) (hb : ∀ c ∈ src, c.1 < n) :
    (memSplice m off n src).wf = true := by
  have hge : ∀ c ∈ memShift src off, off ≤ c.1 := by
    intro c hc
    obtain ⟨d, _, rfl⟩ := List.mem_map.mp hc
    exact Nat.le_add_left ..
  have hlt : ∀ c ∈ memShift src off, c.1 < off + n := by
    intro c hc
    obtain ⟨d, hd, rfl⟩ := List.mem_map.mp hc
    have := hb d hd
    simp only
    omega
  have hlow : ∀ c ∈ m.filter (fun c => decide (c.1 < off)), c.1 < off := by
    intro c hc
    simpa using (List.mem_filter.mp hc).2
  have hhigh : ∀ c ∈ m.filter (fun c => decide (off + n ≤ c.1)), off + n ≤ c.1 := by
    intro c hc
    simpa using (List.mem_filter.mp hc).2
  have hw := filter_wf h (fun c => decide (off + n ≤ c.1))
  have first : Memory.wf (m.filter (fun c => decide (c.1 < off)) ++ memShift src off) = true := by
    refine append_above _ _ none (filter_wf h _) ?_ (memShift_wf hs off)
    rintro l (hl | ⟨w, hm⟩)
    · cases hl
    · exact above_of_ge off _ (memShift_wf hs off) hge l (hlow _ hm)
  refine append_above _ _ none first ?_ hw
  rintro l (hl | ⟨w, hm⟩)
  · cases hl
  · refine above_of_ge (off + n) _ hw hhigh l ?_
    rcases List.mem_append.mp hm with h1 | h1
    · exact Nat.lt_of_lt_of_le (hlow _ h1) (Nat.le_add_right ..)
    · exact hlt _ h1

/-! ### Reads -/

/-- Below its first cell a memory reads zero. -/
theorem memGet_below : ∀ (m : Memory) (l a : Nat), Memory.above (some l) m = true → a ≤ l → memGet m a = 0 := by
  intro m
  induction m with
  | nil => intro l a _ _; rfl
  | cons c r ih =>
    intro l a h ha
    obtain ⟨j, w⟩ := c
    simp only [Memory.above, Bool.and_eq_true, decide_eq_true_eq] at h
    have : ¬ j = a := by omega
    simp only [memGet, this, if_false]
    exact ih j a h.2 (by omega)

/-- A byte read after a byte was written: what was written there, what was there before elsewhere. -/
theorem memGet_memSet_above (a b : Nat) (v : Byte) : ∀ (m : Memory) (lo : Option Nat), Memory.above lo m = true →
    memGet (memSet m a v) b = if b = a then v else memGet m b := by
  intro m
  induction m with
  | nil =>
    intro lo _
    by_cases hv : v = 0#8 <;> by_cases hb : b = a <;> simp [memSet, memGet, hv, hb]
    exact fun e => absurd e.symm hb
  | cons c r ih =>
    intro lo h
    obtain ⟨j, w⟩ := c
    simp only [Memory.above, Bool.and_eq_true, decide_eq_true_eq] at h
    obtain ⟨⟨_, _⟩, h3⟩ := h
    unfold memSet
    by_cases h4 : a < j
    · by_cases hv : v = 0#8
      · by_cases hb : b = a
        · have hz := memGet_below r j a h3 (by omega)
          have : ¬ j = a := by omega
          simp [h4, hv, hb, memGet, this, hz]
        · simp [h4, hv, hb]
      · by_cases hb : b = a
        · simp [h4, hv, hb, memGet]
        · have : ¬ a = b := fun e => hb e.symm
          simp [h4, hv, hb, memGet, this]
    · by_cases h5 : a = j
      · subst h5
        by_cases hv : v = 0#8
        · by_cases hb : b = a
          · simp [hv, hb, memGet_below r a a h3 (Nat.le_refl a)]
          · have : ¬ a = b := fun e => hb e.symm
            simp [hv, hb, memGet, this]
        · by_cases hb : b = a
          · simp [hv, hb, memGet]
          · have : ¬ a = b := fun e => hb e.symm
            simp [hv, hb, memGet, this]
      · simp only [h4, h5, if_false, memGet, ih (some j) h3]
        by_cases hb : b = a
        · have : ¬ j = b := by omega
          simp [hb, show ¬ j = a from fun e => h5 e.symm]
        · simp [hb]

/-- A byte read after a byte was written. -/
theorem memGet_memSet {m : Memory} (h : m.wf = true) (a b : Nat) (v : Byte) : memGet (memSet m a v) b = if b = a then v else memGet m b :=
  memGet_memSet_above a b v m none h

/-- A write leaves every byte outside it alone. -/
theorem memGet_memWrite_outside : ∀ (d : Bytes) (m : Memory) (a b : Nat), m.wf = true → (b < a ∨ a + d.length ≤ b) →
    memGet (memWrite m a d) b = memGet m b := by
  intro d
  induction d with
  | nil => intro m a b _ _; rfl
  | cons x r ih =>
    intro m a b h ho
    simp only [List.length_cons] at ho
    rw [memWrite, ih _ _ _ (memSet_wf h a x) (by omega), memGet_memSet h]
    have : ¬ b = a := by omega
    simp [this]

/-- A byte inside a write reads as written. -/
theorem memGet_memWrite_inside : ∀ (d : Bytes) (m : Memory) (a i : Nat), m.wf = true → (hi : i < d.length) →
    memGet (memWrite m a d) (a + i) = d[i] := by
  intro d
  induction d with
  | nil => intro m a i _ hi; exact absurd hi (Nat.not_lt_zero i)
  | cons x r ih =>
    intro m a i h hi
    cases i with
    | zero =>
      rw [memWrite, Nat.add_zero, memGet_memWrite_outside r _ _ _ (memSet_wf h a x) (by omega), memGet_memSet h]
      simp
    | succ k =>
      have hk : k < r.length := by simpa using hi
      have := ih (memSet m a x) (a + 1) k (memSet_wf h a x) hk
      rw [memWrite, show a + (k + 1) = a + 1 + k by omega, this]
      simp

/-! ### Tables -/

/-- Reading a table at the key just set. -/
@[simp] theorem tblFind_tblSet_same {α : Type} (k : Nat) (v : α) : ∀ (m : Table α), tblFind (tblSet m k v) k = some v := by
  intro m
  induction m with
  | nil => simp [tblSet, tblFind]
  | cons c r ih =>
    obtain ⟨j, w⟩ := c
    unfold tblSet
    by_cases h1 : k < j
    · simp [h1, tblFind]
    · by_cases h2 : k = j
      · simp [h2, tblFind]
      · simp [h1, h2, tblFind, ih, show ¬ j = k from fun e => h2 e.symm]

/-- Reading a table at another key than the one set. -/
theorem tblFind_tblSet_other {α : Type} {k i : Nat} (v : α) (h : i ≠ k) : ∀ (m : Table α), tblFind (tblSet m k v) i = tblFind m i := by
  intro m
  have hk : ¬ k = i := fun e => h e.symm
  induction m with
  | nil => simp [tblSet, tblFind, hk]
  | cons c r ih =>
    obtain ⟨j, w⟩ := c
    unfold tblSet
    by_cases h1 : k < j
    · simp [h1, tblFind, hk]
    · by_cases h2 : k = j
      · subst h2
        simp [tblFind, hk]
      · by_cases h3 : j = i
        · subst h3; simp [h1, h2, tblFind]
        · simp [h1, h2, tblFind, h3, ih]

/-- Reading a table at the key just changed. -/
@[simp] theorem tblGet_tblMod_same {α : Type} (d : α) (m : Table α) (k : Nat) (f : α → α) : tblGet d (tblMod d m k f) k = f (tblGet d m k) := by
  simp [tblGet, tblMod]

/-- Reading a table at another key than the one changed. -/
theorem tblGet_tblMod_other {α : Type} (d : α) (m : Table α) {k i : Nat} (f : α → α) (h : i ≠ k) :
    tblGet d (tblMod d m k f) i = tblGet d m i := by
  simp [tblGet, tblMod, tblFind_tblSet_other _ h]

end Sys2Proof.Machine
end

