-- ==== Sys2Proof/Laws/State.lean ====
section
/-!
SUPPORT. What each update of the state leaves alone: one lemma per field.
-/

namespace Sys2Proof.Machine

/-! ### modMb -/

@[simp] theorem modMb_pending (s : State) (n : Nat) (f : Mailbox → Mailbox) : (modMb s n f).pending = s.pending := rfl
@[simp] theorem modMb_now (s : State) (n : Nat) (f : Mailbox → Mailbox) : (modMb s n f).now = s.now := rfl
@[simp] theorem modMb_ready (s : State) (n : Nat) (f : Mailbox → Mailbox) : (modMb s n f).ready = s.ready := rfl
@[simp] theorem modMb_laneReady (s : State) (n : Nat) (f : Mailbox → Mailbox) : (modMb s n f).laneReady = s.laneReady := rfl
@[simp] theorem modMb_mem (s : State) (n : Nat) (f : Mailbox → Mailbox) : (modMb s n f).mem = s.mem := rfl
@[simp] theorem modMb_cnt (s : State) (n : Nat) (f : Mailbox → Mailbox) : (modMb s n f).cnt = s.cnt := rfl
@[simp] theorem modMb_plan (s : State) (n : Nat) (f : Mailbox → Mailbox) : (modMb s n f).plan = s.plan := rfl
@[simp] theorem modMb_ports (s : State) (n : Nat) (f : Mailbox → Mailbox) : (modMb s n f).ports = s.ports := rfl
@[simp] theorem modMb_hod (s : State) (n : Nat) (f : Mailbox → Mailbox) : (modMb s n f).hod = s.hod := rfl
@[simp] theorem modMb_stencil (s : State) (n : Nat) (f : Mailbox → Mailbox) : (modMb s n f).stencil = s.stencil := rfl
@[simp] theorem modMb_cls (s : State) (n : Nat) (f : Mailbox → Mailbox) : (modMb s n f).cls = s.cls := rfl
@[simp] theorem modMb_egress (s : State) (n : Nat) (f : Mailbox → Mailbox) : (modMb s n f).egress = s.egress := rfl
@[simp] theorem modMb_core (s : State) (n : Nat) (f : Mailbox → Mailbox) : (modMb s n f).core = s.core := rfl
@[simp] theorem modMb_table (s : State) (n : Nat) (f : Mailbox → Mailbox) : (modMb s n f).table = s.table := rfl
@[simp] theorem modMb_hbm (s : State) (n : Nat) (f : Mailbox → Mailbox) : (modMb s n f).hbm = s.hbm := rfl
@[simp] theorem modMb_span (s : State) (n : Nat) (f : Mailbox → Mailbox) : (modMb s n f).span = s.span := rfl
@[simp] theorem modMb_time (s : State) (n : Nat) (f : Mailbox → Mailbox) : (modMb s n f).time = s.time := rfl
@[simp] theorem modMb_fault (s : State) (n : Nat) (f : Mailbox → Mailbox) : (modMb s n f).fault = s.fault := rfl
@[simp] theorem modMb_kept (s : State) (n : Nat) (f : Mailbox → Mailbox) : (modMb s n f).kept = s.kept := rfl
@[simp] theorem modMb_svc (s : State) (n : Nat) (f : Mailbox → Mailbox) : (modMb s n f).svc = s.svc := rfl
@[simp] theorem modMb_power (s : State) (n : Nat) (f : Mailbox → Mailbox) : (modMb s n f).power = s.power := rfl
@[simp] theorem modMb_log (s : State) (n : Nat) (f : Mailbox → Mailbox) : (modMb s n f).log = s.log := rfl
@[simp] theorem modMb_pkg (s : State) (n : Nat) (f : Mailbox → Mailbox) : (modMb s n f).pkg = s.pkg := rfl
@[simp] theorem modMb_out (s : State) (n : Nat) (f : Mailbox → Mailbox) : (modMb s n f).out = s.out := rfl
@[simp] theorem modMb_free (s : State) (n : Nat) (f : Mailbox → Mailbox) : (modMb s n f).free = s.free := rfl

/-! ### replyWith -/

@[simp] theorem replyWith_pending (s : State) (n : Nat) (r : Reply) : (replyWith s n r).pending = s.pending := rfl
@[simp] theorem replyWith_now (s : State) (n : Nat) (r : Reply) : (replyWith s n r).now = s.now := rfl
@[simp] theorem replyWith_ready (s : State) (n : Nat) (r : Reply) : (replyWith s n r).ready = s.ready := rfl
@[simp] theorem replyWith_laneReady (s : State) (n : Nat) (r : Reply) : (replyWith s n r).laneReady = s.laneReady := rfl
@[simp] theorem replyWith_mem (s : State) (n : Nat) (r : Reply) : (replyWith s n r).mem = s.mem := rfl
@[simp] theorem replyWith_cnt (s : State) (n : Nat) (r : Reply) : (replyWith s n r).cnt = s.cnt := rfl
@[simp] theorem replyWith_plan (s : State) (n : Nat) (r : Reply) : (replyWith s n r).plan = s.plan := rfl
@[simp] theorem replyWith_ports (s : State) (n : Nat) (r : Reply) : (replyWith s n r).ports = s.ports := rfl
@[simp] theorem replyWith_hod (s : State) (n : Nat) (r : Reply) : (replyWith s n r).hod = s.hod := rfl
@[simp] theorem replyWith_stencil (s : State) (n : Nat) (r : Reply) : (replyWith s n r).stencil = s.stencil := rfl
@[simp] theorem replyWith_cls (s : State) (n : Nat) (r : Reply) : (replyWith s n r).cls = s.cls := rfl
@[simp] theorem replyWith_egress (s : State) (n : Nat) (r : Reply) : (replyWith s n r).egress = s.egress := rfl
@[simp] theorem replyWith_core (s : State) (n : Nat) (r : Reply) : (replyWith s n r).core = s.core := rfl
@[simp] theorem replyWith_table (s : State) (n : Nat) (r : Reply) : (replyWith s n r).table = s.table := rfl
@[simp] theorem replyWith_hbm (s : State) (n : Nat) (r : Reply) : (replyWith s n r).hbm = s.hbm := rfl
@[simp] theorem replyWith_span (s : State) (n : Nat) (r : Reply) : (replyWith s n r).span = s.span := rfl
@[simp] theorem replyWith_time (s : State) (n : Nat) (r : Reply) : (replyWith s n r).time = s.time := rfl
@[simp] theorem replyWith_fault (s : State) (n : Nat) (r : Reply) : (replyWith s n r).fault = s.fault := rfl
@[simp] theorem replyWith_kept (s : State) (n : Nat) (r : Reply) : (replyWith s n r).kept = s.kept := rfl
@[simp] theorem replyWith_svc (s : State) (n : Nat) (r : Reply) : (replyWith s n r).svc = s.svc := rfl
@[simp] theorem replyWith_power (s : State) (n : Nat) (r : Reply) : (replyWith s n r).power = s.power := rfl
@[simp] theorem replyWith_log (s : State) (n : Nat) (r : Reply) : (replyWith s n r).log = s.log := rfl
@[simp] theorem replyWith_pkg (s : State) (n : Nat) (r : Reply) : (replyWith s n r).pkg = s.pkg := rfl
@[simp] theorem replyWith_out (s : State) (n : Nat) (r : Reply) : (replyWith s n r).out = s.out := rfl
@[simp] theorem replyWith_free (s : State) (n : Nat) (r : Reply) : (replyWith s n r).free = s.free := rfl

/-! ### reply -/

@[simp] theorem reply_pending (s : State) (n status : Nat) (data : Bytes) : (reply s n status data).pending = s.pending := rfl
@[simp] theorem reply_now (s : State) (n status : Nat) (data : Bytes) : (reply s n status data).now = s.now := rfl
@[simp] theorem reply_ready (s : State) (n status : Nat) (data : Bytes) : (reply s n status data).ready = s.ready := rfl
@[simp] theorem reply_laneReady (s : State) (n status : Nat) (data : Bytes) : (reply s n status data).laneReady = s.laneReady := rfl
@[simp] theorem reply_mem (s : State) (n status : Nat) (data : Bytes) : (reply s n status data).mem = s.mem := rfl
@[simp] theorem reply_cnt (s : State) (n status : Nat) (data : Bytes) : (reply s n status data).cnt = s.cnt := rfl
@[simp] theorem reply_plan (s : State) (n status : Nat) (data : Bytes) : (reply s n status data).plan = s.plan := rfl
@[simp] theorem reply_ports (s : State) (n status : Nat) (data : Bytes) : (reply s n status data).ports = s.ports := rfl
@[simp] theorem reply_hod (s : State) (n status : Nat) (data : Bytes) : (reply s n status data).hod = s.hod := rfl
@[simp] theorem reply_stencil (s : State) (n status : Nat) (data : Bytes) : (reply s n status data).stencil = s.stencil := rfl
@[simp] theorem reply_cls (s : State) (n status : Nat) (data : Bytes) : (reply s n status data).cls = s.cls := rfl
@[simp] theorem reply_egress (s : State) (n status : Nat) (data : Bytes) : (reply s n status data).egress = s.egress := rfl
@[simp] theorem reply_core (s : State) (n status : Nat) (data : Bytes) : (reply s n status data).core = s.core := rfl
@[simp] theorem reply_table (s : State) (n status : Nat) (data : Bytes) : (reply s n status data).table = s.table := rfl
@[simp] theorem reply_hbm (s : State) (n status : Nat) (data : Bytes) : (reply s n status data).hbm = s.hbm := rfl
@[simp] theorem reply_span (s : State) (n status : Nat) (data : Bytes) : (reply s n status data).span = s.span := rfl
@[simp] theorem reply_time (s : State) (n status : Nat) (data : Bytes) : (reply s n status data).time = s.time := rfl
@[simp] theorem reply_fault (s : State) (n status : Nat) (data : Bytes) : (reply s n status data).fault = s.fault := rfl
@[simp] theorem reply_kept (s : State) (n status : Nat) (data : Bytes) : (reply s n status data).kept = s.kept := rfl
@[simp] theorem reply_svc (s : State) (n status : Nat) (data : Bytes) : (reply s n status data).svc = s.svc := rfl
@[simp] theorem reply_power (s : State) (n status : Nat) (data : Bytes) : (reply s n status data).power = s.power := rfl
@[simp] theorem reply_log (s : State) (n status : Nat) (data : Bytes) : (reply s n status data).log = s.log := rfl
@[simp] theorem reply_pkg (s : State) (n status : Nat) (data : Bytes) : (reply s n status data).pkg = s.pkg := rfl
@[simp] theorem reply_out (s : State) (n status : Nat) (data : Bytes) : (reply s n status data).out = s.out := rfl
@[simp] theorem reply_free (s : State) (n status : Nat) (data : Bytes) : (reply s n status data).free = s.free := rfl

/-! ### hostCount -/

@[simp] theorem hostCount_pending (s : State) (off n : Nat) : (hostCount s off n).pending = s.pending := rfl
@[simp] theorem hostCount_now (s : State) (off n : Nat) : (hostCount s off n).now = s.now := rfl
@[simp] theorem hostCount_ready (s : State) (off n : Nat) : (hostCount s off n).ready = s.ready := rfl
@[simp] theorem hostCount_laneReady (s : State) (off n : Nat) : (hostCount s off n).laneReady = s.laneReady := rfl
@[simp] theorem hostCount_mem (s : State) (off n : Nat) : (hostCount s off n).mem = s.mem := rfl
@[simp] theorem hostCount_cnt (s : State) (off n : Nat) : (hostCount s off n).cnt = s.cnt := rfl
@[simp] theorem hostCount_plan (s : State) (off n : Nat) : (hostCount s off n).plan = s.plan := rfl
@[simp] theorem hostCount_ports (s : State) (off n : Nat) : (hostCount s off n).ports = s.ports := rfl
@[simp] theorem hostCount_hod (s : State) (off n : Nat) : (hostCount s off n).hod = s.hod := rfl
@[simp] theorem hostCount_stencil (s : State) (off n : Nat) : (hostCount s off n).stencil = s.stencil := rfl
@[simp] theorem hostCount_cls (s : State) (off n : Nat) : (hostCount s off n).cls = s.cls := rfl
@[simp] theorem hostCount_egress (s : State) (off n : Nat) : (hostCount s off n).egress = s.egress := rfl
@[simp] theorem hostCount_core (s : State) (off n : Nat) : (hostCount s off n).core = s.core := rfl
@[simp] theorem hostCount_table (s : State) (off n : Nat) : (hostCount s off n).table = s.table := rfl
@[simp] theorem hostCount_hbm (s : State) (off n : Nat) : (hostCount s off n).hbm = s.hbm := rfl
@[simp] theorem hostCount_span (s : State) (off n : Nat) : (hostCount s off n).span = s.span := rfl
@[simp] theorem hostCount_time (s : State) (off n : Nat) : (hostCount s off n).time = s.time := rfl
@[simp] theorem hostCount_fault (s : State) (off n : Nat) : (hostCount s off n).fault = s.fault := rfl
@[simp] theorem hostCount_kept (s : State) (off n : Nat) : (hostCount s off n).kept = s.kept := rfl
@[simp] theorem hostCount_svc (s : State) (off n : Nat) : (hostCount s off n).svc = s.svc := rfl
@[simp] theorem hostCount_power (s : State) (off n : Nat) : (hostCount s off n).power = s.power := rfl
@[simp] theorem hostCount_log (s : State) (off n : Nat) : (hostCount s off n).log = s.log := rfl
@[simp] theorem hostCount_pkg (s : State) (off n : Nat) : (hostCount s off n).pkg = s.pkg := rfl
@[simp] theorem hostCount_out (s : State) (off n : Nat) : (hostCount s off n).out = s.out := rfl
@[simp] theorem hostCount_free (s : State) (off n : Nat) : (hostCount s off n).free = s.free := rfl

/-! ### faultCount -/

@[simp] theorem faultCount_pending (s : State) (off n : Nat) : (faultCount s off n).pending = s.pending := rfl
@[simp] theorem faultCount_now (s : State) (off n : Nat) : (faultCount s off n).now = s.now := rfl
@[simp] theorem faultCount_ready (s : State) (off n : Nat) : (faultCount s off n).ready = s.ready := rfl
@[simp] theorem faultCount_laneReady (s : State) (off n : Nat) : (faultCount s off n).laneReady = s.laneReady := rfl
@[simp] theorem faultCount_mem (s : State) (off n : Nat) : (faultCount s off n).mem = s.mem := rfl
@[simp] theorem faultCount_cnt (s : State) (off n : Nat) : (faultCount s off n).cnt = s.cnt := rfl
@[simp] theorem faultCount_plan (s : State) (off n : Nat) : (faultCount s off n).plan = s.plan := rfl
@[simp] theorem faultCount_ports (s : State) (off n : Nat) : (faultCount s off n).ports = s.ports := rfl
@[simp] theorem faultCount_hod (s : State) (off n : Nat) : (faultCount s off n).hod = s.hod := rfl
@[simp] theorem faultCount_stencil (s : State) (off n : Nat) : (faultCount s off n).stencil = s.stencil := rfl
@[simp] theorem faultCount_cls (s : State) (off n : Nat) : (faultCount s off n).cls = s.cls := rfl
@[simp] theorem faultCount_egress (s : State) (off n : Nat) : (faultCount s off n).egress = s.egress := rfl
@[simp] theorem faultCount_core (s : State) (off n : Nat) : (faultCount s off n).core = s.core := rfl
@[simp] theorem faultCount_table (s : State) (off n : Nat) : (faultCount s off n).table = s.table := rfl
@[simp] theorem faultCount_hbm (s : State) (off n : Nat) : (faultCount s off n).hbm = s.hbm := rfl
@[simp] theorem faultCount_span (s : State) (off n : Nat) : (faultCount s off n).span = s.span := rfl
@[simp] theorem faultCount_time (s : State) (off n : Nat) : (faultCount s off n).time = s.time := rfl
@[simp] theorem faultCount_host (s : State) (off n : Nat) : (faultCount s off n).host = s.host := rfl
@[simp] theorem faultCount_kept (s : State) (off n : Nat) : (faultCount s off n).kept = s.kept := rfl
@[simp] theorem faultCount_svc (s : State) (off n : Nat) : (faultCount s off n).svc = s.svc := rfl
@[simp] theorem faultCount_power (s : State) (off n : Nat) : (faultCount s off n).power = s.power := rfl
@[simp] theorem faultCount_log (s : State) (off n : Nat) : (faultCount s off n).log = s.log := rfl
@[simp] theorem faultCount_pkg (s : State) (off n : Nat) : (faultCount s off n).pkg = s.pkg := rfl
@[simp] theorem faultCount_out (s : State) (off n : Nat) : (faultCount s off n).out = s.out := rfl
@[simp] theorem faultCount_free (s : State) (off n : Nat) : (faultCount s off n).free = s.free := rfl

/-! ### emit -/

@[simp] theorem emit_pending (s : State) (o : Output) : (emit s o).pending = s.pending := rfl
@[simp] theorem emit_now (s : State) (o : Output) : (emit s o).now = s.now := rfl
@[simp] theorem emit_ready (s : State) (o : Output) : (emit s o).ready = s.ready := rfl
@[simp] theorem emit_laneReady (s : State) (o : Output) : (emit s o).laneReady = s.laneReady := rfl
@[simp] theorem emit_mem (s : State) (o : Output) : (emit s o).mem = s.mem := rfl
@[simp] theorem emit_cnt (s : State) (o : Output) : (emit s o).cnt = s.cnt := rfl
@[simp] theorem emit_plan (s : State) (o : Output) : (emit s o).plan = s.plan := rfl
@[simp] theorem emit_ports (s : State) (o : Output) : (emit s o).ports = s.ports := rfl
@[simp] theorem emit_hod (s : State) (o : Output) : (emit s o).hod = s.hod := rfl
@[simp] theorem emit_stencil (s : State) (o : Output) : (emit s o).stencil = s.stencil := rfl
@[simp] theorem emit_cls (s : State) (o : Output) : (emit s o).cls = s.cls := rfl
@[simp] theorem emit_egress (s : State) (o : Output) : (emit s o).egress = s.egress := rfl
@[simp] theorem emit_core (s : State) (o : Output) : (emit s o).core = s.core := rfl
@[simp] theorem emit_table (s : State) (o : Output) : (emit s o).table = s.table := rfl
@[simp] theorem emit_hbm (s : State) (o : Output) : (emit s o).hbm = s.hbm := rfl
@[simp] theorem emit_span (s : State) (o : Output) : (emit s o).span = s.span := rfl
@[simp] theorem emit_time (s : State) (o : Output) : (emit s o).time = s.time := rfl
@[simp] theorem emit_fault (s : State) (o : Output) : (emit s o).fault = s.fault := rfl
@[simp] theorem emit_host (s : State) (o : Output) : (emit s o).host = s.host := rfl
@[simp] theorem emit_kept (s : State) (o : Output) : (emit s o).kept = s.kept := rfl
@[simp] theorem emit_svc (s : State) (o : Output) : (emit s o).svc = s.svc := rfl
@[simp] theorem emit_power (s : State) (o : Output) : (emit s o).power = s.power := rfl
@[simp] theorem emit_log (s : State) (o : Output) : (emit s o).log = s.log := rfl
@[simp] theorem emit_pkg (s : State) (o : Output) : (emit s o).pkg = s.pkg := rfl
@[simp] theorem emit_free (s : State) (o : Output) : (emit s o).free = s.free := rfl

/-! ### logCount -/

@[simp] theorem logCount_pending (s : State) (id n : Nat) : (logCount s id n).pending = s.pending := rfl
@[simp] theorem logCount_now (s : State) (id n : Nat) : (logCount s id n).now = s.now := rfl
@[simp] theorem logCount_ready (s : State) (id n : Nat) : (logCount s id n).ready = s.ready := rfl
@[simp] theorem logCount_laneReady (s : State) (id n : Nat) : (logCount s id n).laneReady = s.laneReady := rfl
@[simp] theorem logCount_mem (s : State) (id n : Nat) : (logCount s id n).mem = s.mem := rfl
@[simp] theorem logCount_cnt (s : State) (id n : Nat) : (logCount s id n).cnt = s.cnt := rfl
@[simp] theorem logCount_plan (s : State) (id n : Nat) : (logCount s id n).plan = s.plan := rfl
@[simp] theorem logCount_ports (s : State) (id n : Nat) : (logCount s id n).ports = s.ports := rfl
@[simp] theorem logCount_hod (s : State) (id n : Nat) : (logCount s id n).hod = s.hod := rfl
@[simp] theorem logCount_stencil (s : State) (id n : Nat) : (logCount s id n).stencil = s.stencil := rfl
@[simp] theorem logCount_cls (s : State) (id n : Nat) : (logCount s id n).cls = s.cls := rfl
@[simp] theorem logCount_egress (s : State) (id n : Nat) : (logCount s id n).egress = s.egress := rfl
@[simp] theorem logCount_core (s : State) (id n : Nat) : (logCount s id n).core = s.core := rfl
@[simp] theorem logCount_table (s : State) (id n : Nat) : (logCount s id n).table = s.table := rfl
@[simp] theorem logCount_hbm (s : State) (id n : Nat) : (logCount s id n).hbm = s.hbm := rfl
@[simp] theorem logCount_span (s : State) (id n : Nat) : (logCount s id n).span = s.span := rfl
@[simp] theorem logCount_time (s : State) (id n : Nat) : (logCount s id n).time = s.time := rfl
@[simp] theorem logCount_fault (s : State) (id n : Nat) : (logCount s id n).fault = s.fault := rfl
@[simp] theorem logCount_host (s : State) (id n : Nat) : (logCount s id n).host = s.host := rfl
@[simp] theorem logCount_kept (s : State) (id n : Nat) : (logCount s id n).kept = s.kept := rfl
@[simp] theorem logCount_svc (s : State) (id n : Nat) : (logCount s id n).svc = s.svc := rfl
@[simp] theorem logCount_power (s : State) (id n : Nat) : (logCount s id n).power = s.power := rfl
@[simp] theorem logCount_pkg (s : State) (id n : Nat) : (logCount s id n).pkg = s.pkg := rfl
@[simp] theorem logCount_out (s : State) (id n : Nat) : (logCount s id n).out = s.out := rfl
@[simp] theorem logCount_free (s : State) (id n : Nat) : (logCount s id n).free = s.free := rfl

/-! ### setTh -/

@[simp] theorem setTh_pending (s : State) (t : Nat) (v : Thread) : (setTh s t v).pending = s.pending := rfl
@[simp] theorem setTh_now (s : State) (t : Nat) (v : Thread) : (setTh s t v).now = s.now := rfl
@[simp] theorem setTh_ready (s : State) (t : Nat) (v : Thread) : (setTh s t v).ready = s.ready := rfl
@[simp] theorem setTh_laneReady (s : State) (t : Nat) (v : Thread) : (setTh s t v).laneReady = s.laneReady := rfl
@[simp] theorem setTh_mem (s : State) (t : Nat) (v : Thread) : (setTh s t v).mem = s.mem := rfl
@[simp] theorem setTh_cnt (s : State) (t : Nat) (v : Thread) : (setTh s t v).cnt = s.cnt := rfl
@[simp] theorem setTh_plan (s : State) (t : Nat) (v : Thread) : (setTh s t v).plan = s.plan := rfl
@[simp] theorem setTh_ports (s : State) (t : Nat) (v : Thread) : (setTh s t v).ports = s.ports := rfl
@[simp] theorem setTh_hod (s : State) (t : Nat) (v : Thread) : (setTh s t v).hod = s.hod := rfl
@[simp] theorem setTh_stencil (s : State) (t : Nat) (v : Thread) : (setTh s t v).stencil = s.stencil := rfl
@[simp] theorem setTh_cls (s : State) (t : Nat) (v : Thread) : (setTh s t v).cls = s.cls := rfl
@[simp] theorem setTh_egress (s : State) (t : Nat) (v : Thread) : (setTh s t v).egress = s.egress := rfl
@[simp] theorem setTh_table (s : State) (t : Nat) (v : Thread) : (setTh s t v).table = s.table := rfl
@[simp] theorem setTh_hbm (s : State) (t : Nat) (v : Thread) : (setTh s t v).hbm = s.hbm := rfl
@[simp] theorem setTh_span (s : State) (t : Nat) (v : Thread) : (setTh s t v).span = s.span := rfl
@[simp] theorem setTh_time (s : State) (t : Nat) (v : Thread) : (setTh s t v).time = s.time := rfl
@[simp] theorem setTh_fault (s : State) (t : Nat) (v : Thread) : (setTh s t v).fault = s.fault := rfl
@[simp] theorem setTh_host (s : State) (t : Nat) (v : Thread) : (setTh s t v).host = s.host := rfl
@[simp] theorem setTh_kept (s : State) (t : Nat) (v : Thread) : (setTh s t v).kept = s.kept := rfl
@[simp] theorem setTh_svc (s : State) (t : Nat) (v : Thread) : (setTh s t v).svc = s.svc := rfl
@[simp] theorem setTh_power (s : State) (t : Nat) (v : Thread) : (setTh s t v).power = s.power := rfl
@[simp] theorem setTh_log (s : State) (t : Nat) (v : Thread) : (setTh s t v).log = s.log := rfl
@[simp] theorem setTh_pkg (s : State) (t : Nat) (v : Thread) : (setTh s t v).pkg = s.pkg := rfl
@[simp] theorem setTh_out (s : State) (t : Nat) (v : Thread) : (setTh s t v).out = s.out := rfl
@[simp] theorem setTh_free (s : State) (t : Nat) (v : Thread) : (setTh s t v).free = s.free := rfl

/-! ### modTh -/

@[simp] theorem modTh_pending (s : State) (t : Nat) (f : Thread → Thread) : (modTh s t f).pending = s.pending := rfl
@[simp] theorem modTh_now (s : State) (t : Nat) (f : Thread → Thread) : (modTh s t f).now = s.now := rfl
@[simp] theorem modTh_ready (s : State) (t : Nat) (f : Thread → Thread) : (modTh s t f).ready = s.ready := rfl
@[simp] theorem modTh_laneReady (s : State) (t : Nat) (f : Thread → Thread) : (modTh s t f).laneReady = s.laneReady := rfl
@[simp] theorem modTh_mem (s : State) (t : Nat) (f : Thread → Thread) : (modTh s t f).mem = s.mem := rfl
@[simp] theorem modTh_cnt (s : State) (t : Nat) (f : Thread → Thread) : (modTh s t f).cnt = s.cnt := rfl
@[simp] theorem modTh_plan (s : State) (t : Nat) (f : Thread → Thread) : (modTh s t f).plan = s.plan := rfl
@[simp] theorem modTh_ports (s : State) (t : Nat) (f : Thread → Thread) : (modTh s t f).ports = s.ports := rfl
@[simp] theorem modTh_hod (s : State) (t : Nat) (f : Thread → Thread) : (modTh s t f).hod = s.hod := rfl
@[simp] theorem modTh_stencil (s : State) (t : Nat) (f : Thread → Thread) : (modTh s t f).stencil = s.stencil := rfl
@[simp] theorem modTh_cls (s : State) (t : Nat) (f : Thread → Thread) : (modTh s t f).cls = s.cls := rfl
@[simp] theorem modTh_egress (s : State) (t : Nat) (f : Thread → Thread) : (modTh s t f).egress = s.egress := rfl
@[simp] theorem modTh_table (s : State) (t : Nat) (f : Thread → Thread) : (modTh s t f).table = s.table := rfl
@[simp] theorem modTh_hbm (s : State) (t : Nat) (f : Thread → Thread) : (modTh s t f).hbm = s.hbm := rfl
@[simp] theorem modTh_span (s : State) (t : Nat) (f : Thread → Thread) : (modTh s t f).span = s.span := rfl
@[simp] theorem modTh_time (s : State) (t : Nat) (f : Thread → Thread) : (modTh s t f).time = s.time := rfl
@[simp] theorem modTh_fault (s : State) (t : Nat) (f : Thread → Thread) : (modTh s t f).fault = s.fault := rfl
@[simp] theorem modTh_host (s : State) (t : Nat) (f : Thread → Thread) : (modTh s t f).host = s.host := rfl
@[simp] theorem modTh_kept (s : State) (t : Nat) (f : Thread → Thread) : (modTh s t f).kept = s.kept := rfl
@[simp] theorem modTh_svc (s : State) (t : Nat) (f : Thread → Thread) : (modTh s t f).svc = s.svc := rfl
@[simp] theorem modTh_power (s : State) (t : Nat) (f : Thread → Thread) : (modTh s t f).power = s.power := rfl
@[simp] theorem modTh_log (s : State) (t : Nat) (f : Thread → Thread) : (modTh s t f).log = s.log := rfl
@[simp] theorem modTh_pkg (s : State) (t : Nat) (f : Thread → Thread) : (modTh s t f).pkg = s.pkg := rfl
@[simp] theorem modTh_out (s : State) (t : Nat) (f : Thread → Thread) : (modTh s t f).out = s.out := rfl
@[simp] theorem modTh_free (s : State) (t : Nat) (f : Thread → Thread) : (modTh s t f).free = s.free := rfl

/-! ### modCl -/

@[simp] theorem modCl_pending (s : State) (n : Nat) (f : Cluster → Cluster) : (modCl s n f).pending = s.pending := rfl
@[simp] theorem modCl_now (s : State) (n : Nat) (f : Cluster → Cluster) : (modCl s n f).now = s.now := rfl
@[simp] theorem modCl_ready (s : State) (n : Nat) (f : Cluster → Cluster) : (modCl s n f).ready = s.ready := rfl
@[simp] theorem modCl_laneReady (s : State) (n : Nat) (f : Cluster → Cluster) : (modCl s n f).laneReady = s.laneReady := rfl
@[simp] theorem modCl_mem (s : State) (n : Nat) (f : Cluster → Cluster) : (modCl s n f).mem = s.mem := rfl
@[simp] theorem modCl_cnt (s : State) (n : Nat) (f : Cluster → Cluster) : (modCl s n f).cnt = s.cnt := rfl
@[simp] theorem modCl_plan (s : State) (n : Nat) (f : Cluster → Cluster) : (modCl s n f).plan = s.plan := rfl
@[simp] theorem modCl_ports (s : State) (n : Nat) (f : Cluster → Cluster) : (modCl s n f).ports = s.ports := rfl
@[simp] theorem modCl_hod (s : State) (n : Nat) (f : Cluster → Cluster) : (modCl s n f).hod = s.hod := rfl
@[simp] theorem modCl_stencil (s : State) (n : Nat) (f : Cluster → Cluster) : (modCl s n f).stencil = s.stencil := rfl
@[simp] theorem modCl_cls (s : State) (n : Nat) (f : Cluster → Cluster) : (modCl s n f).cls = s.cls := rfl
@[simp] theorem modCl_egress (s : State) (n : Nat) (f : Cluster → Cluster) : (modCl s n f).egress = s.egress := rfl
@[simp] theorem modCl_table (s : State) (n : Nat) (f : Cluster → Cluster) : (modCl s n f).table = s.table := rfl
@[simp] theorem modCl_hbm (s : State) (n : Nat) (f : Cluster → Cluster) : (modCl s n f).hbm = s.hbm := rfl
@[simp] theorem modCl_span (s : State) (n : Nat) (f : Cluster → Cluster) : (modCl s n f).span = s.span := rfl
@[simp] theorem modCl_time (s : State) (n : Nat) (f : Cluster → Cluster) : (modCl s n f).time = s.time := rfl
@[simp] theorem modCl_fault (s : State) (n : Nat) (f : Cluster → Cluster) : (modCl s n f).fault = s.fault := rfl
@[simp] theorem modCl_host (s : State) (n : Nat) (f : Cluster → Cluster) : (modCl s n f).host = s.host := rfl
@[simp] theorem modCl_kept (s : State) (n : Nat) (f : Cluster → Cluster) : (modCl s n f).kept = s.kept := rfl
@[simp] theorem modCl_svc (s : State) (n : Nat) (f : Cluster → Cluster) : (modCl s n f).svc = s.svc := rfl
@[simp] theorem modCl_power (s : State) (n : Nat) (f : Cluster → Cluster) : (modCl s n f).power = s.power := rfl
@[simp] theorem modCl_log (s : State) (n : Nat) (f : Cluster → Cluster) : (modCl s n f).log = s.log := rfl
@[simp] theorem modCl_pkg (s : State) (n : Nat) (f : Cluster → Cluster) : (modCl s n f).pkg = s.pkg := rfl
@[simp] theorem modCl_out (s : State) (n : Nat) (f : Cluster → Cluster) : (modCl s n f).out = s.out := rfl
@[simp] theorem modCl_free (s : State) (n : Nat) (f : Cluster → Cluster) : (modCl s n f).free = s.free := rfl

/-! ### modCop -/

@[simp] theorem modCop_pending (s : State) (u k : Nat) (f : Copro → Copro) : (modCop s u k f).pending = s.pending := rfl
@[simp] theorem modCop_now (s : State) (u k : Nat) (f : Copro → Copro) : (modCop s u k f).now = s.now := rfl
@[simp] theorem modCop_ready (s : State) (u k : Nat) (f : Copro → Copro) : (modCop s u k f).ready = s.ready := rfl
@[simp] theorem modCop_laneReady (s : State) (u k : Nat) (f : Copro → Copro) : (modCop s u k f).laneReady = s.laneReady := rfl
@[simp] theorem modCop_mem (s : State) (u k : Nat) (f : Copro → Copro) : (modCop s u k f).mem = s.mem := rfl
@[simp] theorem modCop_cnt (s : State) (u k : Nat) (f : Copro → Copro) : (modCop s u k f).cnt = s.cnt := rfl
@[simp] theorem modCop_plan (s : State) (u k : Nat) (f : Copro → Copro) : (modCop s u k f).plan = s.plan := rfl
@[simp] theorem modCop_ports (s : State) (u k : Nat) (f : Copro → Copro) : (modCop s u k f).ports = s.ports := rfl
@[simp] theorem modCop_hod (s : State) (u k : Nat) (f : Copro → Copro) : (modCop s u k f).hod = s.hod := rfl
@[simp] theorem modCop_stencil (s : State) (u k : Nat) (f : Copro → Copro) : (modCop s u k f).stencil = s.stencil := rfl
@[simp] theorem modCop_cls (s : State) (u k : Nat) (f : Copro → Copro) : (modCop s u k f).cls = s.cls := rfl
@[simp] theorem modCop_egress (s : State) (u k : Nat) (f : Copro → Copro) : (modCop s u k f).egress = s.egress := rfl
@[simp] theorem modCop_table (s : State) (u k : Nat) (f : Copro → Copro) : (modCop s u k f).table = s.table := rfl
@[simp] theorem modCop_hbm (s : State) (u k : Nat) (f : Copro → Copro) : (modCop s u k f).hbm = s.hbm := rfl
@[simp] theorem modCop_span (s : State) (u k : Nat) (f : Copro → Copro) : (modCop s u k f).span = s.span := rfl
@[simp] theorem modCop_time (s : State) (u k : Nat) (f : Copro → Copro) : (modCop s u k f).time = s.time := rfl
@[simp] theorem modCop_fault (s : State) (u k : Nat) (f : Copro → Copro) : (modCop s u k f).fault = s.fault := rfl
@[simp] theorem modCop_host (s : State) (u k : Nat) (f : Copro → Copro) : (modCop s u k f).host = s.host := rfl
@[simp] theorem modCop_kept (s : State) (u k : Nat) (f : Copro → Copro) : (modCop s u k f).kept = s.kept := rfl
@[simp] theorem modCop_svc (s : State) (u k : Nat) (f : Copro → Copro) : (modCop s u k f).svc = s.svc := rfl
@[simp] theorem modCop_power (s : State) (u k : Nat) (f : Copro → Copro) : (modCop s u k f).power = s.power := rfl
@[simp] theorem modCop_log (s : State) (u k : Nat) (f : Copro → Copro) : (modCop s u k f).log = s.log := rfl
@[simp] theorem modCop_pkg (s : State) (u k : Nat) (f : Copro → Copro) : (modCop s u k f).pkg = s.pkg := rfl
@[simp] theorem modCop_out (s : State) (u k : Nat) (f : Copro → Copro) : (modCop s u k f).out = s.out := rfl
@[simp] theorem modCop_free (s : State) (u k : Nat) (f : Copro → Copro) : (modCop s u k f).free = s.free := rfl

/-! ### coreCnt -/

@[simp] theorem coreCnt_pending (s : State) (tid off n : Nat) : (coreCnt s tid off n).pending = s.pending := rfl
@[simp] theorem coreCnt_now (s : State) (tid off n : Nat) : (coreCnt s tid off n).now = s.now := rfl
@[simp] theorem coreCnt_ready (s : State) (tid off n : Nat) : (coreCnt s tid off n).ready = s.ready := rfl
@[simp] theorem coreCnt_laneReady (s : State) (tid off n : Nat) : (coreCnt s tid off n).laneReady = s.laneReady := rfl
@[simp] theorem coreCnt_mem (s : State) (tid off n : Nat) : (coreCnt s tid off n).mem = s.mem := rfl
@[simp] theorem coreCnt_plan (s : State) (tid off n : Nat) : (coreCnt s tid off n).plan = s.plan := rfl
@[simp] theorem coreCnt_ports (s : State) (tid off n : Nat) : (coreCnt s tid off n).ports = s.ports := rfl
@[simp] theorem coreCnt_hod (s : State) (tid off n : Nat) : (coreCnt s tid off n).hod = s.hod := rfl
@[simp] theorem coreCnt_stencil (s : State) (tid off n : Nat) : (coreCnt s tid off n).stencil = s.stencil := rfl
@[simp] theorem coreCnt_cls (s : State) (tid off n : Nat) : (coreCnt s tid off n).cls = s.cls := rfl
@[simp] theorem coreCnt_egress (s : State) (tid off n : Nat) : (coreCnt s tid off n).egress = s.egress := rfl
@[simp] theorem coreCnt_core (s : State) (tid off n : Nat) : (coreCnt s tid off n).core = s.core := rfl
@[simp] theorem coreCnt_table (s : State) (tid off n : Nat) : (coreCnt s tid off n).table = s.table := rfl
@[simp] theorem coreCnt_hbm (s : State) (tid off n : Nat) : (coreCnt s tid off n).hbm = s.hbm := rfl
@[simp] theorem coreCnt_span (s : State) (tid off n : Nat) : (coreCnt s tid off n).span = s.span := rfl
@[simp] theorem coreCnt_time (s : State) (tid off n : Nat) : (coreCnt s tid off n).time = s.time := rfl
@[simp] theorem coreCnt_fault (s : State) (tid off n : Nat) : (coreCnt s tid off n).fault = s.fault := rfl
@[simp] theorem coreCnt_host (s : State) (tid off n : Nat) : (coreCnt s tid off n).host = s.host := rfl
@[simp] theorem coreCnt_kept (s : State) (tid off n : Nat) : (coreCnt s tid off n).kept = s.kept := rfl
@[simp] theorem coreCnt_svc (s : State) (tid off n : Nat) : (coreCnt s tid off n).svc = s.svc := rfl
@[simp] theorem coreCnt_power (s : State) (tid off n : Nat) : (coreCnt s tid off n).power = s.power := rfl
@[simp] theorem coreCnt_log (s : State) (tid off n : Nat) : (coreCnt s tid off n).log = s.log := rfl
@[simp] theorem coreCnt_pkg (s : State) (tid off n : Nat) : (coreCnt s tid off n).pkg = s.pkg := rfl
@[simp] theorem coreCnt_out (s : State) (tid off n : Nat) : (coreCnt s tid off n).out = s.out := rfl
@[simp] theorem coreCnt_free (s : State) (tid off n : Nat) : (coreCnt s tid off n).free = s.free := rfl

/-! ### dispCnt -/

@[simp] theorem dispCnt_pending (s : State) (n off k : Nat) : (dispCnt s n off k).pending = s.pending := rfl
@[simp] theorem dispCnt_now (s : State) (n off k : Nat) : (dispCnt s n off k).now = s.now := rfl
@[simp] theorem dispCnt_ready (s : State) (n off k : Nat) : (dispCnt s n off k).ready = s.ready := rfl
@[simp] theorem dispCnt_laneReady (s : State) (n off k : Nat) : (dispCnt s n off k).laneReady = s.laneReady := rfl
@[simp] theorem dispCnt_mem (s : State) (n off k : Nat) : (dispCnt s n off k).mem = s.mem := rfl
@[simp] theorem dispCnt_plan (s : State) (n off k : Nat) : (dispCnt s n off k).plan = s.plan := rfl
@[simp] theorem dispCnt_ports (s : State) (n off k : Nat) : (dispCnt s n off k).ports = s.ports := rfl
@[simp] theorem dispCnt_hod (s : State) (n off k : Nat) : (dispCnt s n off k).hod = s.hod := rfl
@[simp] theorem dispCnt_stencil (s : State) (n off k : Nat) : (dispCnt s n off k).stencil = s.stencil := rfl
@[simp] theorem dispCnt_cls (s : State) (n off k : Nat) : (dispCnt s n off k).cls = s.cls := rfl
@[simp] theorem dispCnt_egress (s : State) (n off k : Nat) : (dispCnt s n off k).egress = s.egress := rfl
@[simp] theorem dispCnt_core (s : State) (n off k : Nat) : (dispCnt s n off k).core = s.core := rfl
@[simp] theorem dispCnt_table (s : State) (n off k : Nat) : (dispCnt s n off k).table = s.table := rfl
@[simp] theorem dispCnt_hbm (s : State) (n off k : Nat) : (dispCnt s n off k).hbm = s.hbm := rfl
@[simp] theorem dispCnt_span (s : State) (n off k : Nat) : (dispCnt s n off k).span = s.span := rfl
@[simp] theorem dispCnt_time (s : State) (n off k : Nat) : (dispCnt s n off k).time = s.time := rfl
@[simp] theorem dispCnt_fault (s : State) (n off k : Nat) : (dispCnt s n off k).fault = s.fault := rfl
@[simp] theorem dispCnt_host (s : State) (n off k : Nat) : (dispCnt s n off k).host = s.host := rfl
@[simp] theorem dispCnt_kept (s : State) (n off k : Nat) : (dispCnt s n off k).kept = s.kept := rfl
@[simp] theorem dispCnt_svc (s : State) (n off k : Nat) : (dispCnt s n off k).svc = s.svc := rfl
@[simp] theorem dispCnt_power (s : State) (n off k : Nat) : (dispCnt s n off k).power = s.power := rfl
@[simp] theorem dispCnt_log (s : State) (n off k : Nat) : (dispCnt s n off k).log = s.log := rfl
@[simp] theorem dispCnt_pkg (s : State) (n off k : Nat) : (dispCnt s n off k).pkg = s.pkg := rfl
@[simp] theorem dispCnt_out (s : State) (n off k : Nat) : (dispCnt s n off k).out = s.out := rfl
@[simp] theorem dispCnt_free (s : State) (n off k : Nat) : (dispCnt s n off k).free = s.free := rfl

/-! ### tabCnt -/

@[simp] theorem tabCnt_pending (s : State) (off n : Nat) : (tabCnt s off n).pending = s.pending := rfl
@[simp] theorem tabCnt_now (s : State) (off n : Nat) : (tabCnt s off n).now = s.now := rfl
@[simp] theorem tabCnt_ready (s : State) (off n : Nat) : (tabCnt s off n).ready = s.ready := rfl
@[simp] theorem tabCnt_laneReady (s : State) (off n : Nat) : (tabCnt s off n).laneReady = s.laneReady := rfl
@[simp] theorem tabCnt_mem (s : State) (off n : Nat) : (tabCnt s off n).mem = s.mem := rfl
@[simp] theorem tabCnt_plan (s : State) (off n : Nat) : (tabCnt s off n).plan = s.plan := rfl
@[simp] theorem tabCnt_ports (s : State) (off n : Nat) : (tabCnt s off n).ports = s.ports := rfl
@[simp] theorem tabCnt_hod (s : State) (off n : Nat) : (tabCnt s off n).hod = s.hod := rfl
@[simp] theorem tabCnt_stencil (s : State) (off n : Nat) : (tabCnt s off n).stencil = s.stencil := rfl
@[simp] theorem tabCnt_cls (s : State) (off n : Nat) : (tabCnt s off n).cls = s.cls := rfl
@[simp] theorem tabCnt_egress (s : State) (off n : Nat) : (tabCnt s off n).egress = s.egress := rfl
@[simp] theorem tabCnt_core (s : State) (off n : Nat) : (tabCnt s off n).core = s.core := rfl
@[simp] theorem tabCnt_table (s : State) (off n : Nat) : (tabCnt s off n).table = s.table := rfl
@[simp] theorem tabCnt_hbm (s : State) (off n : Nat) : (tabCnt s off n).hbm = s.hbm := rfl
@[simp] theorem tabCnt_span (s : State) (off n : Nat) : (tabCnt s off n).span = s.span := rfl
@[simp] theorem tabCnt_time (s : State) (off n : Nat) : (tabCnt s off n).time = s.time := rfl
@[simp] theorem tabCnt_fault (s : State) (off n : Nat) : (tabCnt s off n).fault = s.fault := rfl
@[simp] theorem tabCnt_host (s : State) (off n : Nat) : (tabCnt s off n).host = s.host := rfl
@[simp] theorem tabCnt_kept (s : State) (off n : Nat) : (tabCnt s off n).kept = s.kept := rfl
@[simp] theorem tabCnt_svc (s : State) (off n : Nat) : (tabCnt s off n).svc = s.svc := rfl
@[simp] theorem tabCnt_power (s : State) (off n : Nat) : (tabCnt s off n).power = s.power := rfl
@[simp] theorem tabCnt_log (s : State) (off n : Nat) : (tabCnt s off n).log = s.log := rfl
@[simp] theorem tabCnt_pkg (s : State) (off n : Nat) : (tabCnt s off n).pkg = s.pkg := rfl
@[simp] theorem tabCnt_out (s : State) (off n : Nat) : (tabCnt s off n).out = s.out := rfl
@[simp] theorem tabCnt_free (s : State) (off n : Nat) : (tabCnt s off n).free = s.free := rfl

/-! ### poolCnt -/

@[simp] theorem poolCnt_pending (s : State) (p off : Nat) : (poolCnt s p off).pending = s.pending := rfl
@[simp] theorem poolCnt_now (s : State) (p off : Nat) : (poolCnt s p off).now = s.now := rfl
@[simp] theorem poolCnt_ready (s : State) (p off : Nat) : (poolCnt s p off).ready = s.ready := rfl
@[simp] theorem poolCnt_laneReady (s : State) (p off : Nat) : (poolCnt s p off).laneReady = s.laneReady := rfl
@[simp] theorem poolCnt_mem (s : State) (p off : Nat) : (poolCnt s p off).mem = s.mem := rfl
@[simp] theorem poolCnt_plan (s : State) (p off : Nat) : (poolCnt s p off).plan = s.plan := rfl
@[simp] theorem poolCnt_ports (s : State) (p off : Nat) : (poolCnt s p off).ports = s.ports := rfl
@[simp] theorem poolCnt_hod (s : State) (p off : Nat) : (poolCnt s p off).hod = s.hod := rfl
@[simp] theorem poolCnt_stencil (s : State) (p off : Nat) : (poolCnt s p off).stencil = s.stencil := rfl
@[simp] theorem poolCnt_cls (s : State) (p off : Nat) : (poolCnt s p off).cls = s.cls := rfl
@[simp] theorem poolCnt_egress (s : State) (p off : Nat) : (poolCnt s p off).egress = s.egress := rfl
@[simp] theorem poolCnt_core (s : State) (p off : Nat) : (poolCnt s p off).core = s.core := rfl
@[simp] theorem poolCnt_table (s : State) (p off : Nat) : (poolCnt s p off).table = s.table := rfl
@[simp] theorem poolCnt_hbm (s : State) (p off : Nat) : (poolCnt s p off).hbm = s.hbm := rfl
@[simp] theorem poolCnt_span (s : State) (p off : Nat) : (poolCnt s p off).span = s.span := rfl
@[simp] theorem poolCnt_time (s : State) (p off : Nat) : (poolCnt s p off).time = s.time := rfl
@[simp] theorem poolCnt_fault (s : State) (p off : Nat) : (poolCnt s p off).fault = s.fault := rfl
@[simp] theorem poolCnt_host (s : State) (p off : Nat) : (poolCnt s p off).host = s.host := rfl
@[simp] theorem poolCnt_kept (s : State) (p off : Nat) : (poolCnt s p off).kept = s.kept := rfl
@[simp] theorem poolCnt_svc (s : State) (p off : Nat) : (poolCnt s p off).svc = s.svc := rfl
@[simp] theorem poolCnt_power (s : State) (p off : Nat) : (poolCnt s p off).power = s.power := rfl
@[simp] theorem poolCnt_log (s : State) (p off : Nat) : (poolCnt s p off).log = s.log := rfl
@[simp] theorem poolCnt_pkg (s : State) (p off : Nat) : (poolCnt s p off).pkg = s.pkg := rfl
@[simp] theorem poolCnt_out (s : State) (p off : Nat) : (poolCnt s p off).out = s.out := rfl
@[simp] theorem poolCnt_free (s : State) (p off : Nat) : (poolCnt s p off).free = s.free := rfl

/-! ### domCnt -/

@[simp] theorem domCnt_pending (s : State) (d off : Nat) : (domCnt s d off).pending = s.pending := rfl
@[simp] theorem domCnt_now (s : State) (d off : Nat) : (domCnt s d off).now = s.now := rfl
@[simp] theorem domCnt_ready (s : State) (d off : Nat) : (domCnt s d off).ready = s.ready := rfl
@[simp] theorem domCnt_laneReady (s : State) (d off : Nat) : (domCnt s d off).laneReady = s.laneReady := rfl
@[simp] theorem domCnt_mem (s : State) (d off : Nat) : (domCnt s d off).mem = s.mem := rfl
@[simp] theorem domCnt_plan (s : State) (d off : Nat) : (domCnt s d off).plan = s.plan := rfl
@[simp] theorem domCnt_ports (s : State) (d off : Nat) : (domCnt s d off).ports = s.ports := rfl
@[simp] theorem domCnt_hod (s : State) (d off : Nat) : (domCnt s d off).hod = s.hod := rfl
@[simp] theorem domCnt_stencil (s : State) (d off : Nat) : (domCnt s d off).stencil = s.stencil := rfl
@[simp] theorem domCnt_cls (s : State) (d off : Nat) : (domCnt s d off).cls = s.cls := rfl
@[simp] theorem domCnt_egress (s : State) (d off : Nat) : (domCnt s d off).egress = s.egress := rfl
@[simp] theorem domCnt_core (s : State) (d off : Nat) : (domCnt s d off).core = s.core := rfl
@[simp] theorem domCnt_table (s : State) (d off : Nat) : (domCnt s d off).table = s.table := rfl
@[simp] theorem domCnt_hbm (s : State) (d off : Nat) : (domCnt s d off).hbm = s.hbm := rfl
@[simp] theorem domCnt_span (s : State) (d off : Nat) : (domCnt s d off).span = s.span := rfl
@[simp] theorem domCnt_time (s : State) (d off : Nat) : (domCnt s d off).time = s.time := rfl
@[simp] theorem domCnt_fault (s : State) (d off : Nat) : (domCnt s d off).fault = s.fault := rfl
@[simp] theorem domCnt_host (s : State) (d off : Nat) : (domCnt s d off).host = s.host := rfl
@[simp] theorem domCnt_kept (s : State) (d off : Nat) : (domCnt s d off).kept = s.kept := rfl
@[simp] theorem domCnt_svc (s : State) (d off : Nat) : (domCnt s d off).svc = s.svc := rfl
@[simp] theorem domCnt_power (s : State) (d off : Nat) : (domCnt s d off).power = s.power := rfl
@[simp] theorem domCnt_log (s : State) (d off : Nat) : (domCnt s d off).log = s.log := rfl
@[simp] theorem domCnt_pkg (s : State) (d off : Nat) : (domCnt s d off).pkg = s.pkg := rfl
@[simp] theorem domCnt_out (s : State) (d off : Nat) : (domCnt s d off).out = s.out := rfl
@[simp] theorem domCnt_free (s : State) (d off : Nat) : (domCnt s d off).free = s.free := rfl

/-! ### modPort -/

@[simp] theorem modPort_pending (s : State) (n : Nat) (f : PortSt → PortSt) : (modPort s n f).pending = s.pending := rfl
@[simp] theorem modPort_now (s : State) (n : Nat) (f : PortSt → PortSt) : (modPort s n f).now = s.now := rfl
@[simp] theorem modPort_ready (s : State) (n : Nat) (f : PortSt → PortSt) : (modPort s n f).ready = s.ready := rfl
@[simp] theorem modPort_laneReady (s : State) (n : Nat) (f : PortSt → PortSt) : (modPort s n f).laneReady = s.laneReady := rfl
@[simp] theorem modPort_mem (s : State) (n : Nat) (f : PortSt → PortSt) : (modPort s n f).mem = s.mem := rfl
@[simp] theorem modPort_cnt (s : State) (n : Nat) (f : PortSt → PortSt) : (modPort s n f).cnt = s.cnt := rfl
@[simp] theorem modPort_plan (s : State) (n : Nat) (f : PortSt → PortSt) : (modPort s n f).plan = s.plan := rfl
@[simp] theorem modPort_hod (s : State) (n : Nat) (f : PortSt → PortSt) : (modPort s n f).hod = s.hod := rfl
@[simp] theorem modPort_stencil (s : State) (n : Nat) (f : PortSt → PortSt) : (modPort s n f).stencil = s.stencil := rfl
@[simp] theorem modPort_cls (s : State) (n : Nat) (f : PortSt → PortSt) : (modPort s n f).cls = s.cls := rfl
@[simp] theorem modPort_egress (s : State) (n : Nat) (f : PortSt → PortSt) : (modPort s n f).egress = s.egress := rfl
@[simp] theorem modPort_core (s : State) (n : Nat) (f : PortSt → PortSt) : (modPort s n f).core = s.core := rfl
@[simp] theorem modPort_table (s : State) (n : Nat) (f : PortSt → PortSt) : (modPort s n f).table = s.table := rfl
@[simp] theorem modPort_hbm (s : State) (n : Nat) (f : PortSt → PortSt) : (modPort s n f).hbm = s.hbm := rfl
@[simp] theorem modPort_span (s : State) (n : Nat) (f : PortSt → PortSt) : (modPort s n f).span = s.span := rfl
@[simp] theorem modPort_time (s : State) (n : Nat) (f : PortSt → PortSt) : (modPort s n f).time = s.time := rfl
@[simp] theorem modPort_fault (s : State) (n : Nat) (f : PortSt → PortSt) : (modPort s n f).fault = s.fault := rfl
@[simp] theorem modPort_host (s : State) (n : Nat) (f : PortSt → PortSt) : (modPort s n f).host = s.host := rfl
@[simp] theorem modPort_kept (s : State) (n : Nat) (f : PortSt → PortSt) : (modPort s n f).kept = s.kept := rfl
@[simp] theorem modPort_svc (s : State) (n : Nat) (f : PortSt → PortSt) : (modPort s n f).svc = s.svc := rfl
@[simp] theorem modPort_power (s : State) (n : Nat) (f : PortSt → PortSt) : (modPort s n f).power = s.power := rfl
@[simp] theorem modPort_log (s : State) (n : Nat) (f : PortSt → PortSt) : (modPort s n f).log = s.log := rfl
@[simp] theorem modPort_pkg (s : State) (n : Nat) (f : PortSt → PortSt) : (modPort s n f).pkg = s.pkg := rfl
@[simp] theorem modPort_out (s : State) (n : Nat) (f : PortSt → PortSt) : (modPort s n f).out = s.out := rfl
@[simp] theorem modPort_free (s : State) (n : Nat) (f : PortSt → PortSt) : (modPort s n f).free = s.free := rfl

/-! ### portCount -/

@[simp] theorem portCount_pending (s : State) (n off k : Nat) : (portCount s n off k).pending = s.pending := rfl
@[simp] theorem portCount_now (s : State) (n off k : Nat) : (portCount s n off k).now = s.now := rfl
@[simp] theorem portCount_ready (s : State) (n off k : Nat) : (portCount s n off k).ready = s.ready := rfl
@[simp] theorem portCount_laneReady (s : State) (n off k : Nat) : (portCount s n off k).laneReady = s.laneReady := rfl
@[simp] theorem portCount_mem (s : State) (n off k : Nat) : (portCount s n off k).mem = s.mem := rfl
@[simp] theorem portCount_plan (s : State) (n off k : Nat) : (portCount s n off k).plan = s.plan := rfl
@[simp] theorem portCount_ports (s : State) (n off k : Nat) : (portCount s n off k).ports = s.ports := rfl
@[simp] theorem portCount_hod (s : State) (n off k : Nat) : (portCount s n off k).hod = s.hod := rfl
@[simp] theorem portCount_stencil (s : State) (n off k : Nat) : (portCount s n off k).stencil = s.stencil := rfl
@[simp] theorem portCount_cls (s : State) (n off k : Nat) : (portCount s n off k).cls = s.cls := rfl
@[simp] theorem portCount_egress (s : State) (n off k : Nat) : (portCount s n off k).egress = s.egress := rfl
@[simp] theorem portCount_core (s : State) (n off k : Nat) : (portCount s n off k).core = s.core := rfl
@[simp] theorem portCount_table (s : State) (n off k : Nat) : (portCount s n off k).table = s.table := rfl
@[simp] theorem portCount_hbm (s : State) (n off k : Nat) : (portCount s n off k).hbm = s.hbm := rfl
@[simp] theorem portCount_span (s : State) (n off k : Nat) : (portCount s n off k).span = s.span := rfl
@[simp] theorem portCount_time (s : State) (n off k : Nat) : (portCount s n off k).time = s.time := rfl
@[simp] theorem portCount_fault (s : State) (n off k : Nat) : (portCount s n off k).fault = s.fault := rfl
@[simp] theorem portCount_host (s : State) (n off k : Nat) : (portCount s n off k).host = s.host := rfl
@[simp] theorem portCount_kept (s : State) (n off k : Nat) : (portCount s n off k).kept = s.kept := rfl
@[simp] theorem portCount_svc (s : State) (n off k : Nat) : (portCount s n off k).svc = s.svc := rfl
@[simp] theorem portCount_power (s : State) (n off k : Nat) : (portCount s n off k).power = s.power := rfl
@[simp] theorem portCount_log (s : State) (n off k : Nat) : (portCount s n off k).log = s.log := rfl
@[simp] theorem portCount_pkg (s : State) (n off k : Nat) : (portCount s n off k).pkg = s.pkg := rfl
@[simp] theorem portCount_out (s : State) (n off k : Nat) : (portCount s n off k).out = s.out := rfl
@[simp] theorem portCount_free (s : State) (n off k : Nat) : (portCount s n off k).free = s.free := rfl

/-! ### modQueue -/

@[simp] theorem modQueue_pending (s : State) (n q : Nat) (f : List QFrame → List QFrame) : (modQueue s n q f).pending = s.pending := rfl
@[simp] theorem modQueue_now (s : State) (n q : Nat) (f : List QFrame → List QFrame) : (modQueue s n q f).now = s.now := rfl
@[simp] theorem modQueue_ready (s : State) (n q : Nat) (f : List QFrame → List QFrame) : (modQueue s n q f).ready = s.ready := rfl
@[simp] theorem modQueue_laneReady (s : State) (n q : Nat) (f : List QFrame → List QFrame) : (modQueue s n q f).laneReady = s.laneReady := rfl
@[simp] theorem modQueue_mem (s : State) (n q : Nat) (f : List QFrame → List QFrame) : (modQueue s n q f).mem = s.mem := rfl
@[simp] theorem modQueue_cnt (s : State) (n q : Nat) (f : List QFrame → List QFrame) : (modQueue s n q f).cnt = s.cnt := rfl
@[simp] theorem modQueue_plan (s : State) (n q : Nat) (f : List QFrame → List QFrame) : (modQueue s n q f).plan = s.plan := rfl
@[simp] theorem modQueue_ports (s : State) (n q : Nat) (f : List QFrame → List QFrame) : (modQueue s n q f).ports = s.ports := rfl
@[simp] theorem modQueue_hod (s : State) (n q : Nat) (f : List QFrame → List QFrame) : (modQueue s n q f).hod = s.hod := rfl
@[simp] theorem modQueue_stencil (s : State) (n q : Nat) (f : List QFrame → List QFrame) : (modQueue s n q f).stencil = s.stencil := rfl
@[simp] theorem modQueue_cls (s : State) (n q : Nat) (f : List QFrame → List QFrame) : (modQueue s n q f).cls = s.cls := rfl
@[simp] theorem modQueue_core (s : State) (n q : Nat) (f : List QFrame → List QFrame) : (modQueue s n q f).core = s.core := rfl
@[simp] theorem modQueue_table (s : State) (n q : Nat) (f : List QFrame → List QFrame) : (modQueue s n q f).table = s.table := rfl
@[simp] theorem modQueue_hbm (s : State) (n q : Nat) (f : List QFrame → List QFrame) : (modQueue s n q f).hbm = s.hbm := rfl
@[simp] theorem modQueue_span (s : State) (n q : Nat) (f : List QFrame → List QFrame) : (modQueue s n q f).span = s.span := rfl
@[simp] theorem modQueue_time (s : State) (n q : Nat) (f : List QFrame → List QFrame) : (modQueue s n q f).time = s.time := rfl
@[simp] theorem modQueue_fault (s : State) (n q : Nat) (f : List QFrame → List QFrame) : (modQueue s n q f).fault = s.fault := rfl
@[simp] theorem modQueue_host (s : State) (n q : Nat) (f : List QFrame → List QFrame) : (modQueue s n q f).host = s.host := rfl
@[simp] theorem modQueue_kept (s : State) (n q : Nat) (f : List QFrame → List QFrame) : (modQueue s n q f).kept = s.kept := rfl
@[simp] theorem modQueue_svc (s : State) (n q : Nat) (f : List QFrame → List QFrame) : (modQueue s n q f).svc = s.svc := rfl
@[simp] theorem modQueue_power (s : State) (n q : Nat) (f : List QFrame → List QFrame) : (modQueue s n q f).power = s.power := rfl
@[simp] theorem modQueue_log (s : State) (n q : Nat) (f : List QFrame → List QFrame) : (modQueue s n q f).log = s.log := rfl
@[simp] theorem modQueue_pkg (s : State) (n q : Nat) (f : List QFrame → List QFrame) : (modQueue s n q f).pkg = s.pkg := rfl
@[simp] theorem modQueue_out (s : State) (n q : Nat) (f : List QFrame → List QFrame) : (modQueue s n q f).out = s.out := rfl
@[simp] theorem modQueue_free (s : State) (n q : Nat) (f : List QFrame → List QFrame) : (modQueue s n q f).free = s.free := rfl

/-! ### modPool -/

@[simp] theorem modPool_pending (s : State) (p : Nat) (f : PoolSt → PoolSt) : (modPool s p f).pending = s.pending := rfl
@[simp] theorem modPool_now (s : State) (p : Nat) (f : PoolSt → PoolSt) : (modPool s p f).now = s.now := rfl
@[simp] theorem modPool_ready (s : State) (p : Nat) (f : PoolSt → PoolSt) : (modPool s p f).ready = s.ready := rfl
@[simp] theorem modPool_laneReady (s : State) (p : Nat) (f : PoolSt → PoolSt) : (modPool s p f).laneReady = s.laneReady := rfl
@[simp] theorem modPool_mem (s : State) (p : Nat) (f : PoolSt → PoolSt) : (modPool s p f).mem = s.mem := rfl
@[simp] theorem modPool_cnt (s : State) (p : Nat) (f : PoolSt → PoolSt) : (modPool s p f).cnt = s.cnt := rfl
@[simp] theorem modPool_plan (s : State) (p : Nat) (f : PoolSt → PoolSt) : (modPool s p f).plan = s.plan := rfl
@[simp] theorem modPool_ports (s : State) (p : Nat) (f : PoolSt → PoolSt) : (modPool s p f).ports = s.ports := rfl
@[simp] theorem modPool_stencil (s : State) (p : Nat) (f : PoolSt → PoolSt) : (modPool s p f).stencil = s.stencil := rfl
@[simp] theorem modPool_cls (s : State) (p : Nat) (f : PoolSt → PoolSt) : (modPool s p f).cls = s.cls := rfl
@[simp] theorem modPool_egress (s : State) (p : Nat) (f : PoolSt → PoolSt) : (modPool s p f).egress = s.egress := rfl
@[simp] theorem modPool_core (s : State) (p : Nat) (f : PoolSt → PoolSt) : (modPool s p f).core = s.core := rfl
@[simp] theorem modPool_table (s : State) (p : Nat) (f : PoolSt → PoolSt) : (modPool s p f).table = s.table := rfl
@[simp] theorem modPool_hbm (s : State) (p : Nat) (f : PoolSt → PoolSt) : (modPool s p f).hbm = s.hbm := rfl
@[simp] theorem modPool_span (s : State) (p : Nat) (f : PoolSt → PoolSt) : (modPool s p f).span = s.span := rfl
@[simp] theorem modPool_time (s : State) (p : Nat) (f : PoolSt → PoolSt) : (modPool s p f).time = s.time := rfl
@[simp] theorem modPool_fault (s : State) (p : Nat) (f : PoolSt → PoolSt) : (modPool s p f).fault = s.fault := rfl
@[simp] theorem modPool_host (s : State) (p : Nat) (f : PoolSt → PoolSt) : (modPool s p f).host = s.host := rfl
@[simp] theorem modPool_kept (s : State) (p : Nat) (f : PoolSt → PoolSt) : (modPool s p f).kept = s.kept := rfl
@[simp] theorem modPool_svc (s : State) (p : Nat) (f : PoolSt → PoolSt) : (modPool s p f).svc = s.svc := rfl
@[simp] theorem modPool_power (s : State) (p : Nat) (f : PoolSt → PoolSt) : (modPool s p f).power = s.power := rfl
@[simp] theorem modPool_log (s : State) (p : Nat) (f : PoolSt → PoolSt) : (modPool s p f).log = s.log := rfl
@[simp] theorem modPool_pkg (s : State) (p : Nat) (f : PoolSt → PoolSt) : (modPool s p f).pkg = s.pkg := rfl
@[simp] theorem modPool_out (s : State) (p : Nat) (f : PoolSt → PoolSt) : (modPool s p f).out = s.out := rfl
@[simp] theorem modPool_free (s : State) (p : Nat) (f : PoolSt → PoolSt) : (modPool s p f).free = s.free := rfl

/-! ### modWord -/

@[simp] theorem modWord_pending (s : State) (h : Nat) (f : BufWord → BufWord) : (modWord s h f).pending = s.pending := rfl
@[simp] theorem modWord_now (s : State) (h : Nat) (f : BufWord → BufWord) : (modWord s h f).now = s.now := rfl
@[simp] theorem modWord_ready (s : State) (h : Nat) (f : BufWord → BufWord) : (modWord s h f).ready = s.ready := rfl
@[simp] theorem modWord_laneReady (s : State) (h : Nat) (f : BufWord → BufWord) : (modWord s h f).laneReady = s.laneReady := rfl
@[simp] theorem modWord_mem (s : State) (h : Nat) (f : BufWord → BufWord) : (modWord s h f).mem = s.mem := rfl
@[simp] theorem modWord_cnt (s : State) (h : Nat) (f : BufWord → BufWord) : (modWord s h f).cnt = s.cnt := rfl
@[simp] theorem modWord_plan (s : State) (h : Nat) (f : BufWord → BufWord) : (modWord s h f).plan = s.plan := rfl
@[simp] theorem modWord_ports (s : State) (h : Nat) (f : BufWord → BufWord) : (modWord s h f).ports = s.ports := rfl
@[simp] theorem modWord_stencil (s : State) (h : Nat) (f : BufWord → BufWord) : (modWord s h f).stencil = s.stencil := rfl
@[simp] theorem modWord_cls (s : State) (h : Nat) (f : BufWord → BufWord) : (modWord s h f).cls = s.cls := rfl
@[simp] theorem modWord_egress (s : State) (h : Nat) (f : BufWord → BufWord) : (modWord s h f).egress = s.egress := rfl
@[simp] theorem modWord_core (s : State) (h : Nat) (f : BufWord → BufWord) : (modWord s h f).core = s.core := rfl
@[simp] theorem modWord_table (s : State) (h : Nat) (f : BufWord → BufWord) : (modWord s h f).table = s.table := rfl
@[simp] theorem modWord_hbm (s : State) (h : Nat) (f : BufWord → BufWord) : (modWord s h f).hbm = s.hbm := rfl
@[simp] theorem modWord_span (s : State) (h : Nat) (f : BufWord → BufWord) : (modWord s h f).span = s.span := rfl
@[simp] theorem modWord_time (s : State) (h : Nat) (f : BufWord → BufWord) : (modWord s h f).time = s.time := rfl
@[simp] theorem modWord_fault (s : State) (h : Nat) (f : BufWord → BufWord) : (modWord s h f).fault = s.fault := rfl
@[simp] theorem modWord_host (s : State) (h : Nat) (f : BufWord → BufWord) : (modWord s h f).host = s.host := rfl
@[simp] theorem modWord_kept (s : State) (h : Nat) (f : BufWord → BufWord) : (modWord s h f).kept = s.kept := rfl
@[simp] theorem modWord_svc (s : State) (h : Nat) (f : BufWord → BufWord) : (modWord s h f).svc = s.svc := rfl
@[simp] theorem modWord_power (s : State) (h : Nat) (f : BufWord → BufWord) : (modWord s h f).power = s.power := rfl
@[simp] theorem modWord_log (s : State) (h : Nat) (f : BufWord → BufWord) : (modWord s h f).log = s.log := rfl
@[simp] theorem modWord_pkg (s : State) (h : Nat) (f : BufWord → BufWord) : (modWord s h f).pkg = s.pkg := rfl
@[simp] theorem modWord_out (s : State) (h : Nat) (f : BufWord → BufWord) : (modWord s h f).out = s.out := rfl
@[simp] theorem modWord_free (s : State) (h : Nat) (f : BufWord → BufWord) : (modWord s h f).free = s.free := rfl

/-! ### modSlots -/

@[simp] theorem modSlots_pending (s : State) (t : Nat) (f : List Nat → List Nat) : (modSlots s t f).pending = s.pending := rfl
@[simp] theorem modSlots_now (s : State) (t : Nat) (f : List Nat → List Nat) : (modSlots s t f).now = s.now := rfl
@[simp] theorem modSlots_ready (s : State) (t : Nat) (f : List Nat → List Nat) : (modSlots s t f).ready = s.ready := rfl
@[simp] theorem modSlots_laneReady (s : State) (t : Nat) (f : List Nat → List Nat) : (modSlots s t f).laneReady = s.laneReady := rfl
@[simp] theorem modSlots_mem (s : State) (t : Nat) (f : List Nat → List Nat) : (modSlots s t f).mem = s.mem := rfl
@[simp] theorem modSlots_cnt (s : State) (t : Nat) (f : List Nat → List Nat) : (modSlots s t f).cnt = s.cnt := rfl
@[simp] theorem modSlots_plan (s : State) (t : Nat) (f : List Nat → List Nat) : (modSlots s t f).plan = s.plan := rfl
@[simp] theorem modSlots_ports (s : State) (t : Nat) (f : List Nat → List Nat) : (modSlots s t f).ports = s.ports := rfl
@[simp] theorem modSlots_stencil (s : State) (t : Nat) (f : List Nat → List Nat) : (modSlots s t f).stencil = s.stencil := rfl
@[simp] theorem modSlots_cls (s : State) (t : Nat) (f : List Nat → List Nat) : (modSlots s t f).cls = s.cls := rfl
@[simp] theorem modSlots_egress (s : State) (t : Nat) (f : List Nat → List Nat) : (modSlots s t f).egress = s.egress := rfl
@[simp] theorem modSlots_core (s : State) (t : Nat) (f : List Nat → List Nat) : (modSlots s t f).core = s.core := rfl
@[simp] theorem modSlots_table (s : State) (t : Nat) (f : List Nat → List Nat) : (modSlots s t f).table = s.table := rfl
@[simp] theorem modSlots_hbm (s : State) (t : Nat) (f : List Nat → List Nat) : (modSlots s t f).hbm = s.hbm := rfl
@[simp] theorem modSlots_span (s : State) (t : Nat) (f : List Nat → List Nat) : (modSlots s t f).span = s.span := rfl
@[simp] theorem modSlots_time (s : State) (t : Nat) (f : List Nat → List Nat) : (modSlots s t f).time = s.time := rfl
@[simp] theorem modSlots_fault (s : State) (t : Nat) (f : List Nat → List Nat) : (modSlots s t f).fault = s.fault := rfl
@[simp] theorem modSlots_host (s : State) (t : Nat) (f : List Nat → List Nat) : (modSlots s t f).host = s.host := rfl
@[simp] theorem modSlots_kept (s : State) (t : Nat) (f : List Nat → List Nat) : (modSlots s t f).kept = s.kept := rfl
@[simp] theorem modSlots_svc (s : State) (t : Nat) (f : List Nat → List Nat) : (modSlots s t f).svc = s.svc := rfl
@[simp] theorem modSlots_power (s : State) (t : Nat) (f : List Nat → List Nat) : (modSlots s t f).power = s.power := rfl
@[simp] theorem modSlots_log (s : State) (t : Nat) (f : List Nat → List Nat) : (modSlots s t f).log = s.log := rfl
@[simp] theorem modSlots_pkg (s : State) (t : Nat) (f : List Nat → List Nat) : (modSlots s t f).pkg = s.pkg := rfl
@[simp] theorem modSlots_out (s : State) (t : Nat) (f : List Nat → List Nat) : (modSlots s t f).out = s.out := rfl
@[simp] theorem modSlots_free (s : State) (t : Nat) (f : List Nat → List Nat) : (modSlots s t f).free = s.free := rfl

/-! ### modEntry -/

@[simp] theorem modEntry_pending (s : State) (tick source : Nat) (f : OrderEntry → OrderEntry) : (modEntry s tick source f).pending = s.pending := rfl
@[simp] theorem modEntry_now (s : State) (tick source : Nat) (f : OrderEntry → OrderEntry) : (modEntry s tick source f).now = s.now := rfl
@[simp] theorem modEntry_ready (s : State) (tick source : Nat) (f : OrderEntry → OrderEntry) : (modEntry s tick source f).ready = s.ready := rfl
@[simp] theorem modEntry_laneReady (s : State) (tick source : Nat) (f : OrderEntry → OrderEntry) : (modEntry s tick source f).laneReady = s.laneReady := rfl
@[simp] theorem modEntry_mem (s : State) (tick source : Nat) (f : OrderEntry → OrderEntry) : (modEntry s tick source f).mem = s.mem := rfl
@[simp] theorem modEntry_cnt (s : State) (tick source : Nat) (f : OrderEntry → OrderEntry) : (modEntry s tick source f).cnt = s.cnt := rfl
@[simp] theorem modEntry_plan (s : State) (tick source : Nat) (f : OrderEntry → OrderEntry) : (modEntry s tick source f).plan = s.plan := rfl
@[simp] theorem modEntry_ports (s : State) (tick source : Nat) (f : OrderEntry → OrderEntry) : (modEntry s tick source f).ports = s.ports := rfl
@[simp] theorem modEntry_hod (s : State) (tick source : Nat) (f : OrderEntry → OrderEntry) : (modEntry s tick source f).hod = s.hod := rfl
@[simp] theorem modEntry_stencil (s : State) (tick source : Nat) (f : OrderEntry → OrderEntry) : (modEntry s tick source f).stencil = s.stencil := rfl
@[simp] theorem modEntry_cls (s : State) (tick source : Nat) (f : OrderEntry → OrderEntry) : (modEntry s tick source f).cls = s.cls := rfl
@[simp] theorem modEntry_core (s : State) (tick source : Nat) (f : OrderEntry → OrderEntry) : (modEntry s tick source f).core = s.core := rfl
@[simp] theorem modEntry_table (s : State) (tick source : Nat) (f : OrderEntry → OrderEntry) : (modEntry s tick source f).table = s.table := rfl
@[simp] theorem modEntry_hbm (s : State) (tick source : Nat) (f : OrderEntry → OrderEntry) : (modEntry s tick source f).hbm = s.hbm := rfl
@[simp] theorem modEntry_span (s : State) (tick source : Nat) (f : OrderEntry → OrderEntry) : (modEntry s tick source f).span = s.span := rfl
@[simp] theorem modEntry_time (s : State) (tick source : Nat) (f : OrderEntry → OrderEntry) : (modEntry s tick source f).time = s.time := rfl
@[simp] theorem modEntry_fault (s : State) (tick source : Nat) (f : OrderEntry → OrderEntry) : (modEntry s tick source f).fault = s.fault := rfl
@[simp] theorem modEntry_host (s : State) (tick source : Nat) (f : OrderEntry → OrderEntry) : (modEntry s tick source f).host = s.host := rfl
@[simp] theorem modEntry_kept (s : State) (tick source : Nat) (f : OrderEntry → OrderEntry) : (modEntry s tick source f).kept = s.kept := rfl
@[simp] theorem modEntry_svc (s : State) (tick source : Nat) (f : OrderEntry → OrderEntry) : (modEntry s tick source f).svc = s.svc := rfl
@[simp] theorem modEntry_power (s : State) (tick source : Nat) (f : OrderEntry → OrderEntry) : (modEntry s tick source f).power = s.power := rfl
@[simp] theorem modEntry_log (s : State) (tick source : Nat) (f : OrderEntry → OrderEntry) : (modEntry s tick source f).log = s.log := rfl
@[simp] theorem modEntry_pkg (s : State) (tick source : Nat) (f : OrderEntry → OrderEntry) : (modEntry s tick source f).pkg = s.pkg := rfl
@[simp] theorem modEntry_out (s : State) (tick source : Nat) (f : OrderEntry → OrderEntry) : (modEntry s tick source f).out = s.out := rfl
@[simp] theorem modEntry_free (s : State) (tick source : Nat) (f : OrderEntry → OrderEntry) : (modEntry s tick source f).free = s.free := rfl

/-! ### delEntry -/

@[simp] theorem delEntry_pending (s : State) (tick source : Nat) : (delEntry s tick source).pending = s.pending := rfl
@[simp] theorem delEntry_now (s : State) (tick source : Nat) : (delEntry s tick source).now = s.now := rfl
@[simp] theorem delEntry_ready (s : State) (tick source : Nat) : (delEntry s tick source).ready = s.ready := rfl
@[simp] theorem delEntry_laneReady (s : State) (tick source : Nat) : (delEntry s tick source).laneReady = s.laneReady := rfl
@[simp] theorem delEntry_mem (s : State) (tick source : Nat) : (delEntry s tick source).mem = s.mem := rfl
@[simp] theorem delEntry_cnt (s : State) (tick source : Nat) : (delEntry s tick source).cnt = s.cnt := rfl
@[simp] theorem delEntry_plan (s : State) (tick source : Nat) : (delEntry s tick source).plan = s.plan := rfl
@[simp] theorem delEntry_ports (s : State) (tick source : Nat) : (delEntry s tick source).ports = s.ports := rfl
@[simp] theorem delEntry_hod (s : State) (tick source : Nat) : (delEntry s tick source).hod = s.hod := rfl
@[simp] theorem delEntry_stencil (s : State) (tick source : Nat) : (delEntry s tick source).stencil = s.stencil := rfl
@[simp] theorem delEntry_cls (s : State) (tick source : Nat) : (delEntry s tick source).cls = s.cls := rfl
@[simp] theorem delEntry_core (s : State) (tick source : Nat) : (delEntry s tick source).core = s.core := rfl
@[simp] theorem delEntry_table (s : State) (tick source : Nat) : (delEntry s tick source).table = s.table := rfl
@[simp] theorem delEntry_hbm (s : State) (tick source : Nat) : (delEntry s tick source).hbm = s.hbm := rfl
@[simp] theorem delEntry_span (s : State) (tick source : Nat) : (delEntry s tick source).span = s.span := rfl
@[simp] theorem delEntry_time (s : State) (tick source : Nat) : (delEntry s tick source).time = s.time := rfl
@[simp] theorem delEntry_fault (s : State) (tick source : Nat) : (delEntry s tick source).fault = s.fault := rfl
@[simp] theorem delEntry_host (s : State) (tick source : Nat) : (delEntry s tick source).host = s.host := rfl
@[simp] theorem delEntry_kept (s : State) (tick source : Nat) : (delEntry s tick source).kept = s.kept := rfl
@[simp] theorem delEntry_svc (s : State) (tick source : Nat) : (delEntry s tick source).svc = s.svc := rfl
@[simp] theorem delEntry_power (s : State) (tick source : Nat) : (delEntry s tick source).power = s.power := rfl
@[simp] theorem delEntry_log (s : State) (tick source : Nat) : (delEntry s tick source).log = s.log := rfl
@[simp] theorem delEntry_pkg (s : State) (tick source : Nat) : (delEntry s tick source).pkg = s.pkg := rfl
@[simp] theorem delEntry_out (s : State) (tick source : Nat) : (delEntry s tick source).out = s.out := rfl
@[simp] theorem delEntry_free (s : State) (tick source : Nat) : (delEntry s tick source).free = s.free := rfl

/-! ### modSpan -/

@[simp] theorem modSpan_pending (s : State) (k : Nat) (f : SpanLink → SpanLink) : (modSpan s k f).pending = s.pending := rfl
@[simp] theorem modSpan_now (s : State) (k : Nat) (f : SpanLink → SpanLink) : (modSpan s k f).now = s.now := rfl
@[simp] theorem modSpan_ready (s : State) (k : Nat) (f : SpanLink → SpanLink) : (modSpan s k f).ready = s.ready := rfl
@[simp] theorem modSpan_laneReady (s : State) (k : Nat) (f : SpanLink → SpanLink) : (modSpan s k f).laneReady = s.laneReady := rfl
@[simp] theorem modSpan_mem (s : State) (k : Nat) (f : SpanLink → SpanLink) : (modSpan s k f).mem = s.mem := rfl
@[simp] theorem modSpan_cnt (s : State) (k : Nat) (f : SpanLink → SpanLink) : (modSpan s k f).cnt = s.cnt := rfl
@[simp] theorem modSpan_plan (s : State) (k : Nat) (f : SpanLink → SpanLink) : (modSpan s k f).plan = s.plan := rfl
@[simp] theorem modSpan_ports (s : State) (k : Nat) (f : SpanLink → SpanLink) : (modSpan s k f).ports = s.ports := rfl
@[simp] theorem modSpan_hod (s : State) (k : Nat) (f : SpanLink → SpanLink) : (modSpan s k f).hod = s.hod := rfl
@[simp] theorem modSpan_stencil (s : State) (k : Nat) (f : SpanLink → SpanLink) : (modSpan s k f).stencil = s.stencil := rfl
@[simp] theorem modSpan_cls (s : State) (k : Nat) (f : SpanLink → SpanLink) : (modSpan s k f).cls = s.cls := rfl
@[simp] theorem modSpan_egress (s : State) (k : Nat) (f : SpanLink → SpanLink) : (modSpan s k f).egress = s.egress := rfl
@[simp] theorem modSpan_core (s : State) (k : Nat) (f : SpanLink → SpanLink) : (modSpan s k f).core = s.core := rfl
@[simp] theorem modSpan_table (s : State) (k : Nat) (f : SpanLink → SpanLink) : (modSpan s k f).table = s.table := rfl
@[simp] theorem modSpan_hbm (s : State) (k : Nat) (f : SpanLink → SpanLink) : (modSpan s k f).hbm = s.hbm := rfl
@[simp] theorem modSpan_time (s : State) (k : Nat) (f : SpanLink → SpanLink) : (modSpan s k f).time = s.time := rfl
@[simp] theorem modSpan_fault (s : State) (k : Nat) (f : SpanLink → SpanLink) : (modSpan s k f).fault = s.fault := rfl
@[simp] theorem modSpan_host (s : State) (k : Nat) (f : SpanLink → SpanLink) : (modSpan s k f).host = s.host := rfl
@[simp] theorem modSpan_kept (s : State) (k : Nat) (f : SpanLink → SpanLink) : (modSpan s k f).kept = s.kept := rfl
@[simp] theorem modSpan_svc (s : State) (k : Nat) (f : SpanLink → SpanLink) : (modSpan s k f).svc = s.svc := rfl
@[simp] theorem modSpan_power (s : State) (k : Nat) (f : SpanLink → SpanLink) : (modSpan s k f).power = s.power := rfl
@[simp] theorem modSpan_log (s : State) (k : Nat) (f : SpanLink → SpanLink) : (modSpan s k f).log = s.log := rfl
@[simp] theorem modSpan_pkg (s : State) (k : Nat) (f : SpanLink → SpanLink) : (modSpan s k f).pkg = s.pkg := rfl
@[simp] theorem modSpan_out (s : State) (k : Nat) (f : SpanLink → SpanLink) : (modSpan s k f).out = s.out := rfl
@[simp] theorem modSpan_free (s : State) (k : Nat) (f : SpanLink → SpanLink) : (modSpan s k f).free = s.free := rfl

/-! ### modStack -/

@[simp] theorem modStack_pending (s : State) (n : Nat) (f : StackSt → StackSt) : (modStack s n f).pending = s.pending := rfl
@[simp] theorem modStack_now (s : State) (n : Nat) (f : StackSt → StackSt) : (modStack s n f).now = s.now := rfl
@[simp] theorem modStack_ready (s : State) (n : Nat) (f : StackSt → StackSt) : (modStack s n f).ready = s.ready := rfl
@[simp] theorem modStack_laneReady (s : State) (n : Nat) (f : StackSt → StackSt) : (modStack s n f).laneReady = s.laneReady := rfl
@[simp] theorem modStack_mem (s : State) (n : Nat) (f : StackSt → StackSt) : (modStack s n f).mem = s.mem := rfl
@[simp] theorem modStack_cnt (s : State) (n : Nat) (f : StackSt → StackSt) : (modStack s n f).cnt = s.cnt := rfl
@[simp] theorem modStack_plan (s : State) (n : Nat) (f : StackSt → StackSt) : (modStack s n f).plan = s.plan := rfl
@[simp] theorem modStack_ports (s : State) (n : Nat) (f : StackSt → StackSt) : (modStack s n f).ports = s.ports := rfl
@[simp] theorem modStack_hod (s : State) (n : Nat) (f : StackSt → StackSt) : (modStack s n f).hod = s.hod := rfl
@[simp] theorem modStack_stencil (s : State) (n : Nat) (f : StackSt → StackSt) : (modStack s n f).stencil = s.stencil := rfl
@[simp] theorem modStack_cls (s : State) (n : Nat) (f : StackSt → StackSt) : (modStack s n f).cls = s.cls := rfl
@[simp] theorem modStack_egress (s : State) (n : Nat) (f : StackSt → StackSt) : (modStack s n f).egress = s.egress := rfl
@[simp] theorem modStack_core (s : State) (n : Nat) (f : StackSt → StackSt) : (modStack s n f).core = s.core := rfl
@[simp] theorem modStack_table (s : State) (n : Nat) (f : StackSt → StackSt) : (modStack s n f).table = s.table := rfl
@[simp] theorem modStack_span (s : State) (n : Nat) (f : StackSt → StackSt) : (modStack s n f).span = s.span := rfl
@[simp] theorem modStack_time (s : State) (n : Nat) (f : StackSt → StackSt) : (modStack s n f).time = s.time := rfl
@[simp] theorem modStack_fault (s : State) (n : Nat) (f : StackSt → StackSt) : (modStack s n f).fault = s.fault := rfl
@[simp] theorem modStack_host (s : State) (n : Nat) (f : StackSt → StackSt) : (modStack s n f).host = s.host := rfl
@[simp] theorem modStack_kept (s : State) (n : Nat) (f : StackSt → StackSt) : (modStack s n f).kept = s.kept := rfl
@[simp] theorem modStack_svc (s : State) (n : Nat) (f : StackSt → StackSt) : (modStack s n f).svc = s.svc := rfl
@[simp] theorem modStack_power (s : State) (n : Nat) (f : StackSt → StackSt) : (modStack s n f).power = s.power := rfl
@[simp] theorem modStack_log (s : State) (n : Nat) (f : StackSt → StackSt) : (modStack s n f).log = s.log := rfl
@[simp] theorem modStack_pkg (s : State) (n : Nat) (f : StackSt → StackSt) : (modStack s n f).pkg = s.pkg := rfl
@[simp] theorem modStack_out (s : State) (n : Nat) (f : StackSt → StackSt) : (modStack s n f).out = s.out := rfl
@[simp] theorem modStack_free (s : State) (n : Nat) (f : StackSt → StackSt) : (modStack s n f).free = s.free := rfl

/-! ### clearMark -/

@[simp] theorem clearMark_pending (s : State) (l : Loc) (w : Nat) : (clearMark s l w).pending = s.pending := rfl
@[simp] theorem clearMark_now (s : State) (l : Loc) (w : Nat) : (clearMark s l w).now = s.now := rfl
@[simp] theorem clearMark_ready (s : State) (l : Loc) (w : Nat) : (clearMark s l w).ready = s.ready := rfl
@[simp] theorem clearMark_laneReady (s : State) (l : Loc) (w : Nat) : (clearMark s l w).laneReady = s.laneReady := rfl
@[simp] theorem clearMark_mem (s : State) (l : Loc) (w : Nat) : (clearMark s l w).mem = s.mem := rfl
@[simp] theorem clearMark_cnt (s : State) (l : Loc) (w : Nat) : (clearMark s l w).cnt = s.cnt := rfl
@[simp] theorem clearMark_plan (s : State) (l : Loc) (w : Nat) : (clearMark s l w).plan = s.plan := rfl
@[simp] theorem clearMark_ports (s : State) (l : Loc) (w : Nat) : (clearMark s l w).ports = s.ports := rfl
@[simp] theorem clearMark_hod (s : State) (l : Loc) (w : Nat) : (clearMark s l w).hod = s.hod := rfl
@[simp] theorem clearMark_stencil (s : State) (l : Loc) (w : Nat) : (clearMark s l w).stencil = s.stencil := rfl
@[simp] theorem clearMark_cls (s : State) (l : Loc) (w : Nat) : (clearMark s l w).cls = s.cls := rfl
@[simp] theorem clearMark_egress (s : State) (l : Loc) (w : Nat) : (clearMark s l w).egress = s.egress := rfl
@[simp] theorem clearMark_core (s : State) (l : Loc) (w : Nat) : (clearMark s l w).core = s.core := rfl
@[simp] theorem clearMark_table (s : State) (l : Loc) (w : Nat) : (clearMark s l w).table = s.table := rfl
@[simp] theorem clearMark_hbm (s : State) (l : Loc) (w : Nat) : (clearMark s l w).hbm = s.hbm := rfl
@[simp] theorem clearMark_span (s : State) (l : Loc) (w : Nat) : (clearMark s l w).span = s.span := rfl
@[simp] theorem clearMark_time (s : State) (l : Loc) (w : Nat) : (clearMark s l w).time = s.time := rfl
@[simp] theorem clearMark_host (s : State) (l : Loc) (w : Nat) : (clearMark s l w).host = s.host := rfl
@[simp] theorem clearMark_kept (s : State) (l : Loc) (w : Nat) : (clearMark s l w).kept = s.kept := rfl
@[simp] theorem clearMark_svc (s : State) (l : Loc) (w : Nat) : (clearMark s l w).svc = s.svc := rfl
@[simp] theorem clearMark_power (s : State) (l : Loc) (w : Nat) : (clearMark s l w).power = s.power := rfl
@[simp] theorem clearMark_log (s : State) (l : Loc) (w : Nat) : (clearMark s l w).log = s.log := rfl
@[simp] theorem clearMark_pkg (s : State) (l : Loc) (w : Nat) : (clearMark s l w).pkg = s.pkg := rfl
@[simp] theorem clearMark_out (s : State) (l : Loc) (w : Nat) : (clearMark s l w).out = s.out := rfl
@[simp] theorem clearMark_free (s : State) (l : Loc) (w : Nat) : (clearMark s l w).free = s.free := rfl

/-! ### setLock -/

@[simp] theorem setLock_pending (s : State) (n : Nat) (v : LockSt) : (setLock s n v).pending = s.pending := rfl
@[simp] theorem setLock_now (s : State) (n : Nat) (v : LockSt) : (setLock s n v).now = s.now := rfl
@[simp] theorem setLock_ready (s : State) (n : Nat) (v : LockSt) : (setLock s n v).ready = s.ready := rfl
@[simp] theorem setLock_laneReady (s : State) (n : Nat) (v : LockSt) : (setLock s n v).laneReady = s.laneReady := rfl
@[simp] theorem setLock_mem (s : State) (n : Nat) (v : LockSt) : (setLock s n v).mem = s.mem := rfl
@[simp] theorem setLock_cnt (s : State) (n : Nat) (v : LockSt) : (setLock s n v).cnt = s.cnt := rfl
@[simp] theorem setLock_plan (s : State) (n : Nat) (v : LockSt) : (setLock s n v).plan = s.plan := rfl
@[simp] theorem setLock_ports (s : State) (n : Nat) (v : LockSt) : (setLock s n v).ports = s.ports := rfl
@[simp] theorem setLock_hod (s : State) (n : Nat) (v : LockSt) : (setLock s n v).hod = s.hod := rfl
@[simp] theorem setLock_stencil (s : State) (n : Nat) (v : LockSt) : (setLock s n v).stencil = s.stencil := rfl
@[simp] theorem setLock_cls (s : State) (n : Nat) (v : LockSt) : (setLock s n v).cls = s.cls := rfl
@[simp] theorem setLock_egress (s : State) (n : Nat) (v : LockSt) : (setLock s n v).egress = s.egress := rfl
@[simp] theorem setLock_table (s : State) (n : Nat) (v : LockSt) : (setLock s n v).table = s.table := rfl
@[simp] theorem setLock_hbm (s : State) (n : Nat) (v : LockSt) : (setLock s n v).hbm = s.hbm := rfl
@[simp] theorem setLock_span (s : State) (n : Nat) (v : LockSt) : (setLock s n v).span = s.span := rfl
@[simp] theorem setLock_time (s : State) (n : Nat) (v : LockSt) : (setLock s n v).time = s.time := rfl
@[simp] theorem setLock_fault (s : State) (n : Nat) (v : LockSt) : (setLock s n v).fault = s.fault := rfl
@[simp] theorem setLock_host (s : State) (n : Nat) (v : LockSt) : (setLock s n v).host = s.host := rfl
@[simp] theorem setLock_kept (s : State) (n : Nat) (v : LockSt) : (setLock s n v).kept = s.kept := rfl
@[simp] theorem setLock_svc (s : State) (n : Nat) (v : LockSt) : (setLock s n v).svc = s.svc := rfl
@[simp] theorem setLock_power (s : State) (n : Nat) (v : LockSt) : (setLock s n v).power = s.power := rfl
@[simp] theorem setLock_log (s : State) (n : Nat) (v : LockSt) : (setLock s n v).log = s.log := rfl
@[simp] theorem setLock_pkg (s : State) (n : Nat) (v : LockSt) : (setLock s n v).pkg = s.pkg := rfl
@[simp] theorem setLock_out (s : State) (n : Nat) (v : LockSt) : (setLock s n v).out = s.out := rfl
@[simp] theorem setLock_free (s : State) (n : Nat) (v : LockSt) : (setLock s n v).free = s.free := rfl

/-! ### freeLock -/

@[simp] theorem freeLock_pending (s : State) (n : Nat) : (freeLock s n).pending = s.pending := rfl
@[simp] theorem freeLock_now (s : State) (n : Nat) : (freeLock s n).now = s.now := rfl
@[simp] theorem freeLock_ready (s : State) (n : Nat) : (freeLock s n).ready = s.ready := rfl
@[simp] theorem freeLock_laneReady (s : State) (n : Nat) : (freeLock s n).laneReady = s.laneReady := rfl
@[simp] theorem freeLock_mem (s : State) (n : Nat) : (freeLock s n).mem = s.mem := rfl
@[simp] theorem freeLock_cnt (s : State) (n : Nat) : (freeLock s n).cnt = s.cnt := rfl
@[simp] theorem freeLock_plan (s : State) (n : Nat) : (freeLock s n).plan = s.plan := rfl
@[simp] theorem freeLock_ports (s : State) (n : Nat) : (freeLock s n).ports = s.ports := rfl
@[simp] theorem freeLock_hod (s : State) (n : Nat) : (freeLock s n).hod = s.hod := rfl
@[simp] theorem freeLock_stencil (s : State) (n : Nat) : (freeLock s n).stencil = s.stencil := rfl
@[simp] theorem freeLock_cls (s : State) (n : Nat) : (freeLock s n).cls = s.cls := rfl
@[simp] theorem freeLock_egress (s : State) (n : Nat) : (freeLock s n).egress = s.egress := rfl
@[simp] theorem freeLock_table (s : State) (n : Nat) : (freeLock s n).table = s.table := rfl
@[simp] theorem freeLock_hbm (s : State) (n : Nat) : (freeLock s n).hbm = s.hbm := rfl
@[simp] theorem freeLock_span (s : State) (n : Nat) : (freeLock s n).span = s.span := rfl
@[simp] theorem freeLock_time (s : State) (n : Nat) : (freeLock s n).time = s.time := rfl
@[simp] theorem freeLock_fault (s : State) (n : Nat) : (freeLock s n).fault = s.fault := rfl
@[simp] theorem freeLock_host (s : State) (n : Nat) : (freeLock s n).host = s.host := rfl
@[simp] theorem freeLock_kept (s : State) (n : Nat) : (freeLock s n).kept = s.kept := rfl
@[simp] theorem freeLock_svc (s : State) (n : Nat) : (freeLock s n).svc = s.svc := rfl
@[simp] theorem freeLock_power (s : State) (n : Nat) : (freeLock s n).power = s.power := rfl
@[simp] theorem freeLock_log (s : State) (n : Nat) : (freeLock s n).log = s.log := rfl
@[simp] theorem freeLock_pkg (s : State) (n : Nat) : (freeLock s n).pkg = s.pkg := rfl
@[simp] theorem freeLock_out (s : State) (n : Nat) : (freeLock s n).out = s.out := rfl
@[simp] theorem freeLock_free (s : State) (n : Nat) : (freeLock s n).free = s.free := rfl

end Sys2Proof.Machine
end

