-- ==== Sys2Proof/Laws/Ops.lean ====
section
/-!
SUPPORT. What the shared operations of the control side can do: for each of them, the fields that it may change, and
that every other field stays.
-/

namespace Sys2Proof.Machine

/-! ### Frames -/

/-- A signal changes Hawk's interface and the outputs. -/
theorem signalVector_frame (s : State) (n : Nat) : signalVector s n = { s with host := (signalVector s n).host, out := (signalVector s n).out } := by
  unfold signalVector; split <;> rfl

/-- An interrupt cause changes Hawk's interface and the outputs. -/
theorem raiseInt_frame (s : State) (n : Nat) : raiseInt s n = { s with host := (raiseInt s n).host, out := (raiseInt s n).out } := by
  unfold raiseInt
  dsimp only
  split
  · rfl
  · split
    · rw [signalVector_frame]
    · rfl

/-- A READY bit changes the READY vector, Hawk's interface and the outputs. -/
theorem setReady_frame (s : State) (i : Nat) (b : Bool) :
    setReady s i b = { s with ready := (setReady s i b).ready, host := (setReady s i b).host, out := (setReady s i b).out } := by
  unfold setReady
  split
  · rfl
  · unfold settleWaits; rw [raiseInt_frame]

/-- A READY bit has its new value. -/
theorem setReady_ready (s : State) (i : Nat) (b : Bool) : (setReady s i b).ready = if s.ready.testBit i = b then s.ready else putBit s.ready i b := by
  unfold setReady
  split
  · rfl
  · unfold settleWaits; rw [raiseInt_frame]

/-- The advance of time changes the tick count and device time. -/
theorem advanceTo_frame (s : State) (t : Nat) : advanceTo s t = { s with now := (advanceTo s t).now, time := (advanceTo s t).time } := by
  unfold advanceTo; split <;> rfl

/-- Time never runs back. -/
theorem advanceTo_now (s : State) (t : Nat) : (advanceTo s t).now = Nat.max s.now t := by
  unfold advanceTo
  split
  · rename_i h; exact (Nat.max_eq_left h).symm
  · rename_i h; exact (Nat.max_eq_right (Nat.le_of_not_le h)).symm

/-- The event log changes the logbook only. -/
theorem logEvent_frame (s : State) (r : ErrRecord) : logEvent s r = { s with log := (logEvent s r).log } := by
  unfold logEvent
  split
  · rfl
  · split
    · rfl
    · split <;> rfl

/-- The logbook's counting of a record changes the logbook only. -/
theorem logRecord_frame (s : State) (r : ErrRecord) : logRecord s r = { s with log := (logRecord s r).log } := by
  unfold logRecord; rw [logEvent_frame]; rfl

/-- FAULT_N is asserted, INT_STATUS bit 30 sets, and nothing else changes but the outputs (R518). -/
theorem assertFaultN_frame (s : State) : assertFaultN s =
    { s with svc := (assertFaultN s).svc, host := (assertFaultN s).host, out := (assertFaultN s).out } := by
  unfold assertFaultN; rw [raiseInt_frame]

/-- FAULT_N is asserted (R518). -/
theorem assertFaultN_svc (s : State) : (assertFaultN s).svc = { s.svc with faultN := true } := by
  unfold assertFaultN; rw [raiseInt_frame]

/-- A record reaches the ring, the logbook, and FAULT_N (R492, R518). -/
theorem putRecord_frame (s : State) (r : ErrRecord) : putRecord s r =
    { s with fault := (putRecord s r).fault, log := (putRecord s r).log, svc := (putRecord s r).svc, host := (putRecord s r).host, out := (putRecord s r).out } := by
  unfold putRecord
  dsimp only
  split
  · rw [assertFaultN_frame, logRecord_frame]
  · rw [logRecord_frame]

/-- The ring takes a record by the cases of R492. -/
theorem putRecord_fault (s : State) (r : ErrRecord) : (putRecord s r).fault = ringStore s.fault r := by
  unfold putRecord
  dsimp only
  split
  · rw [assertFaultN_frame, logRecord_frame]
  · rw [logRecord_frame]

/-- A record asserts FAULT_N exactly from S3 on (R518). -/
theorem putRecord_svc (s : State) (r : ErrRecord) : (putRecord s r).svc = if 3 ≤ r.sev then { s.svc with faultN := true } else s.svc := by
  unfold putRecord
  dsimp only
  split
  · rw [assertFaultN_svc, logRecord_frame]
  · rw [logRecord_frame]

/-- A record of the fault manager changes its ring, the logbook, FAULT_N, Hawk's interface and the outputs. -/
theorem record_frame (s : State) (sev cls code : Nat) (l : Loc) (d : Bytes) (i : Bool) : record s sev cls code l d i =
    { s with fault := (record s sev cls code l d i).fault, log := (record s sev cls code l d i).log, svc := (record s sev cls code l d i).svc
             host := (record s sev cls code l d i).host, out := (record s sev cls code l d i).out } := by
  unfold record; exact putRecord_frame _ _

/-- A record of the service die changes the same fields. -/
theorem svcRecord_frame (s : State) (sev cls code : Nat) (l : Loc) (d : Bytes) : svcRecord s sev cls code l d =
    { s with fault := (svcRecord s sev cls code l d).fault, log := (svcRecord s sev cls code l d).log, svc := (svcRecord s sev cls code l d).svc
             host := (svcRecord s sev cls code l d).host, out := (svcRecord s sev cls code l d).out } := by
  unfold svcRecord
  dsimp only
  split
  · exact putRecord_frame _ _
  · split
    · rw [assertFaultN_frame, logRecord_frame]
    · rw [logRecord_frame]

/-! ### Replies -/

/-- The reply of a mailbox command. -/
@[simp] theorem reply_reply (s : State) (n st : Nat) (d : Bytes) : (getMb (reply s n st d) n).reply = some { status := st, data := d } := by
  simp [getMb, reply, replyWith, modMb]

/-- Another mailbox keeps its state. -/
theorem reply_other (s : State) {n k : Nat} (st : Nat) (d : Bytes) (h : k ≠ n) : getMb (reply s n st d) k = getMb s k := by
  simp [getMb, reply, replyWith, modMb, tblGet_tblMod_other _ _ _ h]

/-! ### Memory -/

/-- Bytes go to HBM in one line or not at all, and the memory keeps its canonical form. -/
theorem state_write_wf {s : State} (h : s.mem.wf = true) (a : Nat) (d : Bytes) : (memWrite s.mem a d).wf = true := memWrite_wf d s.mem a h

/-- The machine's memories are in canonical form at reset. -/
theorem reset_mem_wf : State.reset.mem.wf = true ∧ State.reset.host.mem.wf = true := ⟨rfl, rfl⟩

end Sys2Proof.Machine
end

