-- ==== Sys2Proof/Laws/PerInstr.lean ====
section
/-!
SUPPORT. One lemma per command: no word of the table of operations spells it, since the table gives its row no bits.
-/

namespace Sys2Proof.Laws.Wordless

/-- No word spells a command. -/
def Statement (i : Instr) : Prop := ∀ nbits w : Nat, decodeTableWord nbits w ≠ some i

/-- The table gives no row any bits. -/
theorem no_word (i : Instr) : Statement i := by
  intro n w h
  simp [decodeTableWord] at h

theorem planStageBegin (mb : MbId) (size : BitVec 32) : Statement (.planStageBegin mb size) := no_word _
theorem planStageData (mb : MbId) (off len : BitVec 32) (payload : Option Bytes) : Statement (.planStageData mb off len payload) := no_word _
theorem planStageEnd (mb : MbId) : Statement (.planStageEnd mb) := no_word _
theorem planCheck (mb : MbId) : Statement (.planCheck mb) := no_word _
theorem planCommit (mb : MbId) (args : Bytes) : Statement (.planCommit mb args) := no_word _
theorem planAbort (mb : MbId) : Statement (.planAbort mb) := no_word _
theorem planStatus (mb : MbId) : Statement (.planStatus mb) := no_word _
theorem commitCheckDone : Statement (.commitCheckDone) := no_word _
theorem commitEntropyReady : Statement (.commitEntropyReady) := no_word _
theorem commitPrepareDone : Statement (.commitPrepareDone) := no_word _
theorem epochInstant : Statement (.epochInstant) := no_word _
theorem epochRetire : Statement (.epochRetire) := no_word _
theorem groupDecisionPoint : Statement (.groupDecisionPoint) := no_word _
theorem prepared (link : Fin 3) : Statement (.prepared link) := no_word _
theorem abort (link : Fin 3) : Statement (.abort link) := no_word _
theorem preparedAck (link : Fin 3) : Statement (.preparedAck link) := no_word _
theorem rxFrame (port : PortId) (frame : Bytes) (lost fecBad : Bool) : Statement (.rxFrame port frame lost fecBad) := no_word _
theorem mmFragmentRx (port : PortId) (start : Bool) (frameCount fragCount : BitVec 2) (data : Bytes) : Statement (.mmFragmentRx port start frameCount fragCount data) := no_word _
theorem linkUp (port : PortId) : Statement (.linkUp port) := no_word _
theorem anRestart (port : PortId) : Statement (.anRestart port) := no_word _
theorem linkLoss (port : PortId) : Statement (.linkLoss port) := no_word _
theorem verifyTimeout (port : PortId) : Statement (.verifyTimeout port) := no_word _
theorem verifyResponseRx (port : PortId) (respond : Bool) : Statement (.verifyResponseRx port respond) := no_word _
theorem txFrame (port : PortId) : Statement (.txFrame port) := no_word _
theorem portStatus (mb : MbId) (port : BitVec 8) : Statement (.portStatus mb port) := no_word _
theorem portRestart (mb : MbId) (port : BitVec 8) : Statement (.portRestart mb port) := no_word _
theorem portLoopback (mb : MbId) (port mode : BitVec 8) : Statement (.portLoopback mb port mode) := no_word _
theorem portCounters (mb : MbId) (port : BitVec 8) (first count : BitVec 16) : Statement (.portCounters mb port first count) := no_word _
theorem macsecSaInstall (mb : MbId) (args : Bytes) : Statement (.macsecSaInstall mb args) := no_word _
theorem macsecTxSelect (mb : MbId) (port an : BitVec 8) : Statement (.macsecTxSelect mb port an) := no_word _
theorem macsecSaErase (mb : MbId) (port dir : BitVec 8) (sci : BitVec 64) (an : BitVec 8) : Statement (.macsecSaErase mb port dir sci an) := no_word _
theorem macsecStatus (mb : MbId) (port : BitVec 8) : Statement (.macsecStatus mb port) := no_word _
theorem timeGet (mb : MbId) : Statement (.timeGet mb) := no_word _
theorem timeSet (mb : MbId) (sec : BitVec 48) (ns : BitVec 32) (frac : BitVec 16) : Statement (.timeSet mb sec ns frac) := no_word _
theorem timeOffset (mb : MbId) (ns : BitVec 64) (frac : BitVec 16) : Statement (.timeOffset mb ns frac) := no_word _
theorem timeFreq (mb : MbId) (adj : BitVec 32) : Statement (.timeFreq mb adj) := no_word _
theorem timeStatus (mb : MbId) : Statement (.timeStatus mb) := no_word _
theorem txTsRead (mb : MbId) (port : BitVec 8) (max : BitVec 8) : Statement (.txTsRead mb port max) := no_word _
theorem hawkServoCorrection (freq : BitVec 32) (corrNs : BitVec 64) (frac : BitVec 16) (offsetNs : BitVec 64) : Statement (.hawkServoCorrection freq corrNs frac offsetNs) := no_word _
theorem ppsOutEdge : Statement (.ppsOutEdge) := no_word _
theorem ppsInEdge (rising : Bool) : Statement (.ppsInEdge rising) := no_word _
theorem refCheck (deviationPpm : BitVec 16) (stopped : Bool) : Statement (.refCheck deviationPpm stopped) := no_word _
theorem timeReady : Statement (.timeReady) := no_word _
theorem hodAllocAnswer : Statement (.hodAllocAnswer) := no_word _
theorem txComplete (port : PortId) : Statement (.txComplete port) := no_word _
theorem parseComplete : Statement (.parseComplete) := no_word _
theorem fragContextExpire (engine : Fin 2) (key : Bytes) : Statement (.fragContextExpire engine key) := no_word _
theorem parseNodeRepair (engine : Fin 2) (node : Fin 1024) : Statement (.parseNodeRepair engine node) := no_word _
theorem classifyEnter (pipe : Fin 2) : Statement (.classifyEnter pipe) := no_word _
theorem classifyHandon : Statement (.classifyHandon) := no_word _
theorem classifyScrub : Statement (.classifyScrub) := no_word _
theorem classifyRewriteDone : Statement (.classifyRewriteDone) := no_word _
theorem streamGateReopen (mb : MbId) (gate : BitVec 16) : Statement (.streamGateReopen mb gate) := no_word _
theorem streamFilterUnblock (mb : MbId) (filter : BitVec 16) : Statement (.streamFilterUnblock mb filter) := no_word _
theorem meterClearRed (mb : MbId) (meter : BitVec 16) : Statement (.meterClearRed mb meter) := no_word _
theorem orderRelease : Statement (.orderRelease) := no_word _
theorem orderAgeClose (od : BitVec 16) : Statement (.orderAgeClose od) := no_word _
theorem egressAdmit : Statement (.egressAdmit) := no_word _
theorem gateEvent (port : PortId) : Statement (.gateEvent port) := no_word _
theorem gateListSwitch (port : PortId) : Statement (.gateListSwitch port) := no_word _
theorem transmitOpportunity (port : PortId) : Statement (.transmitOpportunity port) := no_word _
theorem cbRecoveryReset (fn : BitVec 16) : Statement (.cbRecoveryReset fn) := no_word _
theorem cbLatentTest (fn : BitVec 16) : Statement (.cbLatentTest fn) := no_word _
theorem dupEntryExpire (pair : Fin 16) : Statement (.dupEntryExpire pair) := no_word _
theorem queueAgeDrop (port : PortId) (queue : Fin 16) : Statement (.queueAgeDrop port queue) := no_word _
theorem headCacheRefill (pool : Fin 5) : Statement (.headCacheRefill pool) := no_word _
theorem bundleReadDone (pool : Fin 5) (lost : Bool) : Statement (.bundleReadDone pool lost) := no_word _
theorem headCacheWriteout (pool : Fin 5) : Statement (.headCacheWriteout pool) := no_word _
theorem chainSweepDone (pool : Fin 5) (chain : Fin 64) : Statement (.chainSweepDone pool chain) := no_word _
theorem unlinkedSweep (pool : Fin 5) : Statement (.unlinkedSweep pool) := no_word _
theorem configCleanup : Statement (.configCleanup) := no_word _
theorem lookup (tid : Tid) : Statement (.lookup tid) := no_word _
theorem cacheLineExpire : Statement (.cacheLineExpire) := no_word _
theorem learn (tid : Tid) : Statement (.learn tid) := no_word _
theorem learnApply : Statement (.learnApply) := no_word _
theorem learnRatePeriod : Statement (.learnRatePeriod) := no_word _
theorem ageClockTick : Statement (.ageClockTick) := no_word _
theorem ageingPassStart : Statement (.ageingPassStart) := no_word _
theorem routineChunk (i : Fin 4) : Statement (.routineChunk i) := no_word _
theorem tableEntryRepair : Statement (.tableEntryRepair) := no_word _
theorem pinnedScrub : Statement (.pinnedScrub) := no_word _
theorem search (who : TblSource) : Statement (.search who) := no_word _
theorem tableNext (who : TblSource) : Statement (.tableNext who) := no_word _
theorem insert (who : TblSource) : Statement (.insert who) := no_word _
theorem delete (who : TblSource) : Statement (.delete who) := no_word _
theorem flushByPort (who : TblSource) : Statement (.flushByPort who) := no_word _
theorem invalidate (who : TblSource) : Statement (.invalidate who) := no_word _
theorem ageNow (who : TblSource) : Statement (.ageNow who) := no_word _
theorem tableStatus (who : TblSource) : Statement (.tableStatus who) := no_word _
theorem bufAlloc (tid : Tid) : Statement (.bufAlloc tid) := no_word _
theorem bufHold (tid : Tid) : Statement (.bufHold tid) := no_word _
theorem bufRelease (tid : Tid) : Statement (.bufRelease tid) := no_word _
theorem egressPost (tid : Tid) : Statement (.egressPost tid) := no_word _
theorem next (tid : Tid) : Statement (.next tid) := no_word _
theorem pass (tid : Tid) : Statement (.pass tid) := no_word _
theorem wait (tid : Tid) : Statement (.wait tid) := no_word _
theorem sleep (tid : Tid) : Statement (.sleep tid) := no_word _
theorem chsend (tid : Tid) : Statement (.chsend tid) := no_word _
theorem chrecv (tid : Tid) : Statement (.chrecv tid) := no_word _
theorem signal (tid : Tid) : Statement (.signal tid) := no_word _
theorem srld (tid : Tid) : Statement (.srld tid) := no_word _
theorem srst (tid : Tid) : Statement (.srst tid) := no_word _
theorem sradd (tid : Tid) : Statement (.sradd tid) := no_word _
theorem srswap (tid : Tid) : Statement (.srswap tid) := no_word _
theorem tmrset (tid : Tid) : Statement (.tmrset tid) := no_word _
theorem tmrcan (tid : Tid) : Statement (.tmrcan tid) := no_word _
theorem tmrpop (tid : Tid) : Statement (.tmrpop tid) := no_word _
theorem trap (tid : Tid) : Statement (.trap tid) := no_word _
theorem retx (tid : Tid) : Statement (.retx tid) := no_word _
theorem pairedWord (tid : Tid) : Statement (.pairedWord tid) := no_word _
theorem nop (tid : Tid) : Statement (.nop tid) := no_word _
theorem alu (tid : Tid) : Statement (.alu tid) := no_word _
theorem insh (tid : Tid) : Statement (.insh tid) := no_word _
theorem ld (tid : Tid) : Statement (.ld tid) := no_word _
theorem st (tid : Tid) : Statement (.st tid) := no_word _
theorem tas (tid : Tid) : Statement (.tas tid) := no_word _
theorem loop (tid : Tid) : Statement (.loop tid) := no_word _
theorem setlc (tid : Tid) : Statement (.setlc tid) := no_word _
theorem br (tid : Tid) : Statement (.br tid) := no_word _
theorem bal (tid : Tid) : Statement (.bal tid) := no_word _
theorem jr (tid : Tid) : Statement (.jr tid) := no_word _
theorem mode (tid : Tid) : Statement (.mode tid) := no_word _
theorem fence (tid : Tid) : Statement (.fence tid) := no_word _
theorem mfs (tid : Tid) : Statement (.mfs tid) := no_word _
theorem mts (tid : Tid) : Statement (.mts tid) := no_word _
theorem fmov (tid : Tid) : Statement (.fmov tid) := no_word _
theorem mov (tid : Tid) : Statement (.mov tid) := no_word _
theorem mul (tid : Tid) : Statement (.mul tid) := no_word _
theorem bswap (tid : Tid) : Statement (.bswap tid) := no_word _
theorem cmp (tid : Tid) : Statement (.cmp tid) := no_word _
theorem tst (tid : Tid) : Statement (.tst tid) := no_word _
theorem lea (tid : Tid) : Statement (.lea tid) := no_word _
theorem lr (tid : Tid) : Statement (.lr tid) := no_word _
theorem sc (tid : Tid) : Statement (.sc tid) := no_word _
theorem skw (tid : Tid) : Statement (.skw tid) := no_word _
theorem bmove (tid : Tid) : Statement (.bmove tid) := no_word _
theorem bfill (tid : Tid) : Statement (.bfill tid) := no_word _
theorem bcmp (tid : Tid) : Statement (.bcmp tid) := no_word _
theorem bsum (tid : Tid) : Statement (.bsum tid) := no_word _
theorem bscan (tid : Tid) : Statement (.bscan tid) := no_word _
theorem cop (tid : Tid) : Statement (.cop tid) := no_word _
theorem cmov (tid : Tid) : Statement (.cmov tid) := no_word _
theorem csave (tid : Tid) : Statement (.csave tid) := no_word _
theorem crestore (tid : Tid) : Statement (.crestore tid) := no_word _
theorem acquire (tid : Tid) : Statement (.acquire tid) := no_word _
theorem tryLock (tid : Tid) : Statement (.tryLock tid) := no_word _
theorem release (tid : Tid) : Statement (.release tid) := no_word _
theorem force (tid : Tid) : Statement (.force tid) := no_word _
theorem longOpComplete (tid : Tid) (entry : Fin 17) (host : BitVec 64) : Statement (.longOpComplete tid entry host) := no_word _
theorem storePerformed (tid : Tid) (index : Fin 32) : Statement (.storePerformed tid index) := no_word _
theorem eventDelivery (tid : Tid) : Statement (.eventDelivery tid) := no_word _
theorem threadWake (tid : Tid) : Statement (.threadWake tid) := no_word _
theorem dispatchEnqueue : Statement (.dispatchEnqueue) := no_word _
theorem unspill (cluster : ClusterId) (pool : BitVec 16) : Statement (.unspill cluster pool) := no_word _
theorem dispatchFill (cluster : ClusterId) : Statement (.dispatchFill cluster) := no_word _
theorem timerDue (cluster : ClusterId) : Statement (.timerDue cluster) := no_word _
theorem reservationExpire (tid : Tid) : Statement (.reservationExpire tid) := no_word _
theorem blockElementDone (tid : Tid) : Statement (.blockElementDone tid) := no_word _
theorem slotTableSwitch : Statement (.slotTableSwitch) := no_word _
theorem icacheFillDone (tid : Tid) : Statement (.icacheFillDone tid) := no_word _
theorem icacheReload (tid : Tid) : Statement (.icacheReload tid) := no_word _
theorem lockGrant : Statement (.lockGrant) := no_word _
theorem lockWaitTimeout (lock : Fin 4096) : Statement (.lockWaitTimeout lock) := no_word _
theorem lockHoldLong (lock : Fin 4096) : Statement (.lockHoldLong lock) := no_word _
theorem lockStatus (mb : MbId) (lock : BitVec 16) : Statement (.lockStatus mb lock) := no_word _
theorem lockForceRelease (mb : MbId) (lock : BitVec 16) : Statement (.lockForceRelease mb lock) := no_word _
theorem lockGroupStatus (mb : MbId) (group : BitVec 8) : Statement (.lockGroupStatus mb group) := no_word _
theorem sealerKeyInstall (mb : MbId) (index : BitVec 16) (domain use : BitVec 8) (wrapped : Bytes) : Statement (.sealerKeyInstall mb index domain use wrapped) := no_word _
theorem sealerKeyErase (mb : MbId) (index : BitVec 16) : Statement (.sealerKeyErase mb index) := no_word _
theorem sealerKeyStatus (mb : MbId) (index : BitVec 16) : Statement (.sealerKeyStatus mb index) := no_word _
theorem hbmActivate (pc : Fin 128) (bank : Fin 32) : Statement (.hbmActivate pc bank) := no_word _
theorem targetedRefresh : Statement (.targetedRefresh) := no_word _
theorem hbmRequestDone (pc : Fin 128) (bank : Fin 32) : Statement (.hbmRequestDone pc bank) := no_word _
theorem eccWriteback : Statement (.eccWriteback) := no_word _
theorem hbmRefresh (pc : Fin 128) (bank : Fin 32) : Statement (.hbmRefresh pc bank) := no_word _
theorem refreshWindowEnd : Statement (.refreshWindowEnd) := no_word _
theorem hbmTempRead (t0 t1 t2 t3 : Int) : Statement (.hbmTempRead t0 t1 t2 t3) := no_word _
theorem patrolScrub : Statement (.patrolScrub) := no_word _
theorem hbmTrainStep (stack : Fin 4) (passed : Bool) (report : Bytes) : Statement (.hbmTrainStep stack passed report) := no_word _
theorem hbmTrackingStep (pc : Fin 128) (eye : Nat) : Statement (.hbmTrackingStep pc eye) := no_word _
theorem hbmStatus (mb : MbId) : Statement (.hbmStatus mb) := no_word _
theorem hbmTrainReport (mb : MbId) (stack : BitVec 8) (indOut : Option (BitVec 64)) : Statement (.hbmTrainReport mb stack indOut) := no_word _
theorem hbmRetrain (mb : MbId) (stack : BitVec 8) : Statement (.hbmRetrain mb stack) := no_word _
theorem memRead (mb : MbId) (addr : BitVec 64) (length : BitVec 32) (indOut : Option (BitVec 64)) : Statement (.memRead mb addr length indOut) := no_word _
theorem memWrite (mb : MbId) (addr : BitVec 64) (length : BitVec 32) (payload : Option Bytes) : Statement (.memWrite mb addr length payload) := no_word _
theorem mbDoorbell (mb : MbId) (v : BitVec 16) : Statement (.mbDoorbell mb v) := no_word _
theorem resultRead (mb : MbId) (off : BitVec 9) (len : BitVec 4) : Statement (.resultRead mb off len) := no_word _
theorem mailboxResult (mb : MbId) : Statement (.mailboxResult mb) := no_word _
theorem hostLockdown (v : BitVec 1) : Statement (.hostLockdown v) := no_word _
theorem intStatusClear (mask : BitVec 64) : Statement (.intStatusClear mask) := no_word _
theorem intEnableWrite (v : BitVec 64) : Statement (.intEnableWrite v) := no_word _
theorem ringEnable (tx : Bool) (r : Fin 8) (log2 : BitVec 5) (slotUnits : BitVec 8) : Statement (.ringEnable tx r log2 slotUnits) := no_word _
theorem ringDisable (tx : Bool) (r : Fin 8) : Statement (.ringDisable tx r) := no_word _
theorem txRingHeadWrite (r : Fin 8) (head : BitVec 32) : Statement (.txRingHeadWrite r head) := no_word _
theorem errRingEnable (enable : Bool) (log2 : BitVec 5) : Statement (.errRingEnable enable log2) := no_word _
theorem registerWrite (off : BitVec 16) (data : Bytes) : Statement (.registerWrite off data) := no_word _
theorem bar2Read (off : BitVec 26) (len : Nat) : Statement (.bar2Read off len) := no_word _
theorem bar2Write (off : BitVec 26) (data : Bytes) : Statement (.bar2Write off data) := no_word _
theorem pcieHotReset : Statement (.pcieHotReset) := no_word _
theorem pcieLinkUp : Statement (.pcieLinkUp) := no_word _
theorem configurationSpaceWrite (busMaster : Bool) : Statement (.configurationSpaceWrite busMaster) := no_word _
theorem dmaReadTimeout (who : DmaReader) : Statement (.dmaReadTimeout who) := no_word _
theorem deviceInfo (mb : MbId) : Statement (.deviceInfo mb) := no_word _
theorem readyWait (mb : MbId) (mask : BitVec 32) (timeoutUs : BitVec 32) : Statement (.readyWait mb mask timeoutUs) := no_word _
theorem hawkRestart (mb : MbId) : Statement (.hawkRestart mb) := no_word _
theorem hawkRestartEnd : Statement (.hawkRestartEnd) := no_word _
theorem threadNotify (mb : MbId) (threadId : BitVec 16) : Statement (.threadNotify mb threadId) := no_word _
theorem echo (mb : MbId) (args : Bytes) : Statement (.echo mb args) := no_word _
theorem counterRead (mb : MbId) (addr : BitVec 64) (count : BitVec 32) (indOut : Option (BitVec 64)) : Statement (.counterRead mb addr count indOut) := no_word _
theorem errorRingRead (mb : MbId) (max : BitVec 16) (consume : Bool) (indOut : Option (BitVec 64)) : Statement (.errorRingRead mb max consume indOut) := no_word _
theorem ringCopyWrite : Statement (.ringCopyWrite) := no_word _
theorem txDescriptor (r : Fin 8) (desc : Bytes) : Statement (.txDescriptor r desc) := no_word _
theorem txDescriptorRetry (r : Fin 8) : Statement (.txDescriptorRetry r) := no_word _
theorem txFrameAccept (r : Fin 8) (frame : Bytes) : Statement (.txFrameAccept r frame) := no_word _
theorem errorRecordDeliver : Statement (.errorRecordDeliver) := no_word _
theorem slotOverrun (l5 : BitVec 6) (l4 : BitVec 8) (l3 : BitVec 10) (l2 : BitVec 12) : Statement (.slotOverrun l5 l4 l3 l2) := no_word _
theorem stepStall (cluster : ClusterId) (cores : List (Fin 12)) : Statement (.stepStall cluster cores) := no_word _
theorem unitRestart (mb : MbId) (loc : BitVec 64) : Statement (.unitRestart mb loc) := no_word _
theorem unitRestartEnd (l5 : BitVec 6) (l4 : BitVec 8) : Statement (.unitRestartEnd l5 l4) := no_word _
theorem deviceRestart (mb : MbId) (confirm : BitVec 32) : Statement (.deviceRestart mb confirm) := no_word _
theorem deviceRestartDecision : Statement (.deviceRestartDecision) := no_word _
theorem processorResetRelease : Statement (.processorResetRelease) := no_word _
theorem heartbeatTimeout (l5 : BitVec 6) (l4 : BitVec 8) : Statement (.heartbeatTimeout l5 l4) := no_word _
theorem watchdogExpire : Statement (.watchdogExpire) := no_word _
theorem pairDecision (pair : BitVec 9) (entry : Nat) : Statement (.pairDecision pair entry) := no_word _
theorem pairWaitTimeout (pair : BitVec 9) (entry : Nat) : Statement (.pairWaitTimeout pair entry) := no_word _
theorem comparatorSelfTest (cmp : Fin 34) (detects : Bool) (codeValid : Bool) : Statement (.comparatorSelfTest cmp detects codeValid) := no_word _
theorem comparatorReplace (cmp : Fin 32) : Statement (.comparatorReplace cmp) := no_word _
theorem restartHoldEnd : Statement (.restartHoldEnd) := no_word _
theorem faultStatus (mb : MbId) : Statement (.faultStatus mb) := no_word _
theorem faultNRelease (mb : MbId) : Statement (.faultNRelease mb) := no_word _
theorem faultInject (mb : MbId) (kind : BitVec 8) (loc : BitVec 64) (index : BitVec 16) : Statement (.faultInject mb kind loc index) := no_word _
theorem spanFecLock (link : Fin 3) : Statement (.spanFecLock link) := no_word _
theorem spanStateTx (link : Fin 3) : Statement (.spanStateTx link) := no_word _
theorem spanState (link : Fin 3) : Statement (.spanState link) := no_word _
theorem spanLinkDown (link : Fin 3) (lockLost : Bool) : Statement (.spanLinkDown link lockLost) := no_word _
theorem flitRx (link : Fin 3) (flit : Bytes) (fecBad : Bool) : Statement (.flitRx link flit fecBad) := no_word _
theorem timeSyncTx (link : Fin 3) : Statement (.timeSyncTx link) := no_word _
theorem timeSync (link : Fin 3) : Statement (.timeSync link) := no_word _
theorem readReq (link : Fin 3) : Statement (.readReq link) := no_word _
theorem writeReq (link : Fin 3) : Statement (.writeReq link) := no_word _
theorem readResp (link : Fin 3) : Statement (.readResp link) := no_word _
theorem learnMessage (link : Fin 3) : Statement (.learnMessage link) := no_word _
theorem hawkMsg (link : Fin 3) : Statement (.hawkMsg link) := no_word _
theorem packet (link : Fin 3) : Statement (.packet link) := no_word _
theorem spanPacketSend (link : Fin 3) : Statement (.spanPacketSend link) := no_word _
theorem spanStatus (mb : MbId) (link : BitVec 8) : Statement (.spanStatus mb link) := no_word _
theorem spanRejoin (mb : MbId) (link : BitVec 8) : Statement (.spanRejoin mb link) := no_word _
theorem spanCounters (mb : MbId) (link : BitVec 8) (first count : BitVec 16) : Statement (.spanCounters mb link first count) := no_word _
theorem neighborSolicitation (frame : Bytes) : Statement (.neighborSolicitation frame) := no_word _
theorem icmpv6EchoRequest (frame : Bytes) : Statement (.icmpv6EchoRequest frame) := no_word _
theorem svcFrameDrop (frame : Bytes) : Statement (.svcFrameDrop frame) := no_word _
theorem hello (h : UpdHeader) : Statement (.hello h) := no_word _
theorem manifestPart (h : UpdHeader) (offset : BitVec 32) (data : Bytes) : Statement (.manifestPart h offset data) := no_word _
theorem manifestEnd (h : UpdHeader) (size : BitVec 32) : Statement (.manifestEnd h size) := no_word _
theorem block (h : UpdHeader) (chunk : BitVec 16) (blk : BitVec 8) (crc : BitVec 32) (data : Bytes) : Statement (.block h chunk blk crc data) := no_word _
theorem chunkQuery (h : UpdHeader) (chunk : BitVec 16) : Statement (.chunkQuery h chunk) := no_word _
theorem finish (h : UpdHeader) : Statement (.finish h) := no_word _
theorem activate (h : UpdHeader) : Statement (.activate h) := no_word _
theorem sessionAbort (h : UpdHeader) (reason : BitVec 8) (rollback : Bool) : Statement (.sessionAbort h reason rollback) := no_word _
theorem sessionTimeout : Statement (.sessionTimeout) := no_word _
theorem svcEnChange (level : Bool) : Statement (.svcEnChange level) := no_word _
theorem svcEnableLapse : Statement (.svcEnableLapse) := no_word _
theorem chunkComplete (chunk : BitVec 16) : Statement (.chunkComplete chunk) := no_word _
theorem chunkWritten (chunk : BitVec 16) (pulses : Fin 9) : Statement (.chunkWritten chunk pulses) := no_word _
theorem loaderVerify : Statement (.loaderVerify) := no_word _
theorem healthConfirm (fuseReadsBack : Bool) : Statement (.healthConfirm fuseReadsBack) := no_word _
theorem healthTimeout : Statement (.healthTimeout) := no_word _
theorem restoreDone : Statement (.restoreDone) := no_word _
theorem mramBlockRetire (block : BitVec 14) (byte : BitVec 12) (cause : WearCause) : Statement (.mramBlockRetire block byte cause) := no_word _
theorem trngStartupDone (passed : Bool) : Statement (.trngStartupDone passed) := no_word _
theorem trngHealthFail : Statement (.trngHealthFail) := no_word _
theorem drbgReseed : Statement (.drbgReseed) := no_word _
theorem uartCharacterRx (c : BitVec 8) : Statement (.uartCharacterRx c) := no_word _
theorem svcEnable (mb : MbId) (enable : BitVec 8) (seconds : BitVec 32) : Statement (.svcEnable mb enable seconds) := no_word _
theorem svcStatus (mb : MbId) : Statement (.svcStatus mb) := no_word _
theorem fwStatus (mb : MbId) : Statement (.fwStatus mb) := no_word _
theorem fwActivate (mb : MbId) : Statement (.fwActivate mb) := no_word _
theorem fwRollback (mb : MbId) : Statement (.fwRollback mb) := no_word _
theorem keySlotWrite (mb : MbId) (slot : BitVec 8) (key : Bytes) : Statement (.keySlotWrite mb slot key) := no_word _
theorem keySlotRevoke (mb : MbId) (slot : BitVec 8) : Statement (.keySlotRevoke mb slot) := no_word _
theorem keyStatus (mb : MbId) : Statement (.keyStatus mb) := no_word _
theorem kekInstall (mb : MbId) (kind : BitVec 8) (key : Bytes) : Statement (.kekInstall mb kind key) := no_word _
theorem fusePlanSigned (mb : MbId) (confirm : BitVec 32) (readsBack : Bool) : Statement (.fusePlanSigned mb confirm readsBack) := no_word _
theorem trngRead (mb : MbId) (count : BitVec 16) : Statement (.trngRead mb count) := no_word _
theorem vinValid : Statement (.vinValid) := no_word _
theorem vinUvlo : Statement (.vinUvlo) := no_word _
theorem vinAverage (mv : Nat) (ma : Nat) : Statement (.vinAverage mv ma) := no_word _
theorem railGroupUp (g : RailGroup) : Statement (.railGroupUp g) := no_word _
theorem railFault (g : RailGroup) : Statement (.railFault g) := no_word _
theorem plumbReading (cluster : ClusterId) (ps : Option Nat) (stepRateMhz : Nat) : Statement (.plumbReading cluster ps stepRateMhz) := no_word _
theorem tempMeasure (clusters : List Int) (stage : Int) (svc : Int) : Statement (.tempMeasure clusters stage svc) := no_word _
theorem smbusReadWord (cmd : BitVec 8) : Statement (.smbusReadWord cmd) := no_word _
theorem smbusAlertResponse : Statement (.smbusAlertResponse) := no_word _
theorem smbusNack (cmd : BitVec 8) (write : Bool) : Statement (.smbusNack cmd write) := no_word _
theorem pfailAssert : Statement (.pfailAssert) := no_word _
theorem pfailRelease : Statement (.pfailRelease) := no_word _
theorem resetAssert : Statement (.resetAssert) := no_word _
theorem resetRelease : Statement (.resetRelease) := no_word _
theorem serviceDieStart : Statement (.serviceDieStart) := no_word _
theorem onDieMemoryInit : Statement (.onDieMemoryInit) := no_word _
theorem pcieEndpointUp : Statement (.pcieEndpointUp) := no_word _
theorem hawkStart : Statement (.hawkStart) := no_word _
theorem logbookMount : Statement (.logbookMount) := no_word _
theorem logbookDeltaWrite (pulses : Fin 9) : Statement (.logbookDeltaWrite pulses) := no_word _
theorem logbookGenerationWrite (pulses : Fin 9) : Statement (.logbookGenerationWrite pulses) := no_word _
theorem histogramSample : Statement (.histogramSample) := no_word _
theorem logbookStatus (mb : MbId) : Statement (.logbookStatus mb) := no_word _
theorem logbookRead (mb : MbId) (kind : BitVec 8) (first : BitVec 64) (count : BitVec 32) (indOut : Option (BitVec 64)) : Statement (.logbookRead mb kind first count indOut) := no_word _
theorem histogramRead (mb : MbId) (id : BitVec 32) (firstBin : BitVec 16) (count : BitVec 16) : Statement (.histogramRead mb id firstBin count) := no_word _
theorem testEnRise : Statement (.testEnRise) := no_word _
theorem testEnFall : Statement (.testEnFall) := no_word _
theorem gpioWrite (reg : BitVec 6) (value : BitVec 64) : Statement (.gpioWrite reg value) := no_word _
theorem gpioInputChange (levels : BitVec 16) : Statement (.gpioInputChange levels) := no_word _
theorem tapReset : Statement (.tapReset) := no_word _
theorem extest (captured : Nat) (shifted : Nat) : Statement (.extest captured shifted) := no_word _
theorem samplePreload (captured : Nat) (shifted : Nat) : Statement (.samplePreload captured shifted) := no_word _
theorem idcode : Statement (.idcode) := no_word _
theorem highz : Statement (.highz) := no_word _
theorem clamp : Statement (.clamp) := no_word _
theorem extestPulse (captured : Nat) (shifted : Nat) : Statement (.extestPulse captured shifted) := no_word _
theorem extestTrain (captured : Nat) (shifted : Nat) : Statement (.extestTrain captured shifted) := no_word _
theorem bypass (code : BitVec 8) : Statement (.bypass code) := no_word _

end Sys2Proof.Laws.Wordless
end

