-- ==== Sys2Proof/Tests/Slice0.lean ====
section
/-!
SUPPORT. Tests: small steps on small states, ill-formed operands that the checks refuse, and for each statement with
hypotheses a witness that they can be met.
-/

open Sys2Proof Sys2Proof.Machine

namespace Sys2Proof.Tests

set_option Elab.async false

/-! ### States for the tests -/

/-- The cells of bytes at an offset. -/
def tcells (off : Nat) (b : Bytes) : Memory := (b.zipIdx off).filterMap (fun x => if x.1 = 0 then none else some (x.2, x.1))
/-- A section body of `len` bytes with bytes at rising offsets. -/
def tsec (len : Nat) (ws : List (Nat × Bytes)) : Sec := { len := len, mem := ws.flatMap (fun w => tcells w.1 w.2) }
/-- A plan with the sections given. -/
def tcopy (secs : Table Sec) : PlanCopy := { PlanCopy.none with epoch := 1, maxRes := 100, secs := secs }
/-- PORTS with port 0 at 10G and port 2 at 25G enabled, with PREEMPT and VERIFY on port 0; a largest frame of 100 bytes keeps the frames of the tests short. -/
def tports : Sec := tsec 4096 [(0, [0, 2, 0, 0x19, 0, 0, 10, 0, 0, 0, 100, 0]), (128, [2, 3, 0, 0x01, 0, 0, 10, 0, 0, 0, 100, 0])]
/-- DOMAINS with domain 0 enabled on every cluster, with buffers, table entries, order entries and rings of its own. -/
def tdoms : Sec := tsec 2048 [(0, [0, 7, 0xFF, 0xFF] ++ zeros 16 ++ (List.replicate 5 (toLE 4 16)).flatten ++ zeros 20 ++ toLE 4 1000 ++ zeros 4 ++
  zeros 4 ++ toLE 4 64 ++ zeros 4 ++ toLE 4 64 ++ toLE 2 100 ++ toLE 2 0xFF ++ toLE 8 1)]
/-- POOLS with 16 buffers of 2,048 bytes, HEADROOM 64. -/
def tpools : Sec := tsec (64 + 160) [(0, [64]), (64, [0,4]), (68, toLE 4 128), (96, [1,3]), (100, toLE 4 256), (128, [2,2]), (132, toLE 4 512),
  (160, [3,1]), (164, toLE 4 2048), (168, toLE 4 16), (192, [4,0]), (196, toLE 4 10240)]
/-- PARSE_GRAPH whose node 0 accepts every packet. -/
def tgraph : Sec := tsec (256 + 1024 * 64) [(0, [1]), (256, [1]), (266, [0xFF, 0xFF])]
/-- A plan in force as epoch 1. -/
def tplan (secs : Table Sec) : PlanState := { epoch := 1, cur := some (tcopy secs) }

/-- A machine that runs: the processor die is out of reset, every READY bit is set and the plan is in force. -/
def ton (secs : Table Sec) : State :=
  { State.reset with
    ready := 0x1FFFFFF
    laneReady := 0xFFFFFFFFFFFFFFFF
    plan := tplan secs
    power := { State.reset.power with vinValid := true, group1 := true, group2 := true, group3 := true, dieOut := true, loaderOk := true, memInit := true, endpointUp := true }
    svc := { State.reset.svc with running := true }
    log := { State.reset.log with mounted := true }
    host := { State.reset.host with hawkState := 1, linkUp := true, busMaster := true, clusterReady := 0xFFFF } }

/-- A machine whose thread 0 runs a program of 64 bytes at address 0, whose line it holds. -/
def trun (code : Bytes) (f : Thread → Thread) (secs : Table Sec := []) : State :=
  modTh (ton secs) 0 (fun t => f { t with
    running := true, epoch := 1
    bind := some { epoch := 1, pool := 0, domain := 1, program := 0, first := 0, len := 64, entryPc := 0, excPc := 32, eventPc := 40, bankTable := 0, regionSet := 0, lockGroups := 1 }
    line := some (0, slice code 0 64) })

/-- A Skim word of thread 0 is due, as the statements' `SkimDue` says it, and `P` holds of its issue. -/
def skimCheck (s : State) (row : Row) (w : Nat) (x : SkWord) (P : Ctx → State → State → Bool) : Bool :=
  match slotFor s 0 with
  | none => false
  | some (p, s1) =>
    let v := stage3 s1 0 p
    let u := wordIssued s1 0 (getTh s1 0).pc 4
    let c : Ctx := { tid := 0, p := p, addr := (getTh s1 0).pc, len := 4, render := false }
    (getTh s1 0).block.isNone && !((getTh s1 0).rprog.isNone && eventTakes s1 0 p) &&
      (match fetchCode s1 0 with | .word z => decide (z = w) | _ => false) && decide (decodeSkim w = some x) && decide (skRow v 0 w = row) &&
      !scoreboardStops (getTh s1 0) (skUses v 0 x) && !skPlacement s1 c x && !scoreboardStops (getTh u 0) (skUses v 0 x) && !skPlacement u c x && P c v u

/-- Thread 0. -/
def tid0 : Tid := ⟨0, 0, 0⟩

theorem skimCheck_due {s : State} {row : Row} {w : Nat} {x : SkWord} {P : Ctx → State → State → Bool} (h : skimCheck s row w x P = true) :
    ∃ c v u, SkimDue s tid0 row x c v u ∧ P c v u = true := by
  simp only [skimCheck] at h
  split at h
  · exact absurd h (by simp)
  · next p s1 hs =>
    simp only [Bool.and_eq_true, decide_eq_true_eq, Bool.not_eq_true', Option.isNone_iff_eq_none] at h
    obtain ⟨⟨⟨⟨⟨⟨⟨⟨⟨h1, h2⟩, h3⟩, h4⟩, h5⟩, h6⟩, h7⟩, h8⟩, h9⟩, h10⟩ := h
    refine ⟨{ tid := 0, p := p, addr := (getTh s1 0).pc, len := 4, render := false }, _, _, ⟨s1, w, hs, h1, ?_, ?_, h4, h5, rfl, rfl, rfl, h6, h7, h8, h9⟩, h10⟩
    · exact h2
    · revert h3
      show (match fetchCode s1 0 with | .word z => decide (z = w) | _ => false) = true → fetchCode s1 0 = .word w
      cases fetchCode s1 0 <;> simp

/-- A Skim word of thread 0 is due in `s` as a row and `P` holds of its issue. -/
def SkimWit (s : State) (row : Row) (x : SkWord) (P : Ctx → State → State → Bool) : Prop := ∃ c v u, SkimDue s tid0 row x c v u ∧ P c v u = true

/-- BANKS_REGIONS: bank 1 of table 0 is the own cluster's memory and bank 2 HBM, with all rights; region set 0 the same two. -/
def tbanks : Sec := tsec 128 [(0, [1, 0, 1, 3]), (8, toLE 8 0x1000000000), (32, [1, 0, 2, 3]), (64, [2, 0, 0, 3]), (72, toLE 8 0x1000000000 ++ toLE 8 0x100000FFFF),
  (96, [2, 0, 0, 3]), (104, toLE 8 0 ++ toLE 8 0xFFFF)]

/-- A machine whose thread 0 has a Skim word due at tick 1. -/
def tw (w : Nat) (f : Thread → Thread := id) (secs : Table Sec := [(0x10, tbanks)]) : State := trun (toLE 4 w) (fun t => f { t with nextAt := 1 }) secs

/-- No further condition. -/
def tany : Ctx → State → State → Bool := fun _ _ _ => true

/-- `RenderFree`, decided. -/
def freeCheck (x v : State) (c : Ctx) (i : RIns) : Bool :=
  (getTh x c.tid).rprog.isNone && !scoreboardStops (getTh x c.tid) (renderUses v (getTh x c.tid) i c.tid) && !owesRefill c i (getTh x c.tid) &&
  !placementBad x c i.isControl i.isBranch (match i with | .loop _ _ _ => true | _ => false)
    (match (match i with | .skw w => decodeSkim w | _ => none) with | some (.mode _) => true | _ => false)
    (match i with | .block _ _ _ _ => true | _ => false)

theorem freeCheck_free {x v : State} {c : Ctx} {i : RIns} (h : freeCheck x v c i = true) : RenderFree x v c i := by
  simp only [freeCheck, Bool.and_eq_true, Bool.not_eq_true', Option.isNone_iff_eq_none] at h
  exact ⟨h.1.1.1, h.1.1.2, h.1.2, h.2⟩

/-- Length of a fetched instruction. -/
def codeLen (x : Code) : Nat := match x with | .ins n _ => n | _ => 0

/-- A Render instruction of thread 0 is due, as the statements' `RenderDue` says it, and `P` holds of its issue. -/
def renderCheck (s : State) (row : Row) (i : RIns) (P : Ctx → State → State → Bool) : Bool :=
  match slotFor s 0 with
  | none => false
  | some (p, s1) =>
    let len := codeLen (fetchCode s1 0)
    let v := stage3 s1 0 p
    let u := wordIssued s1 0 (getTh s1 0).pc len
    let c : Ctx := { tid := 0, p := p, addr := (getTh s1 0).pc, len := len, render := true }
    (getTh s1 0).block.isNone && !eventTakes s1 0 p && decide (fetchCode s1 0 = .ins len i) && rowFits v 0 i row && freeCheck s1 v c i && freeCheck u v c i &&
      (match (runRender c i v s1).2 with | .stalled => false | _ => true) && P c v u

/-- A Render instruction of thread 0 is due in `s` as a row and `P` holds of its issue. -/
def RenderWit (s : State) (row : Row) (i : RIns) (P : Ctx → State → State → Bool) : Prop := ∃ c v u, RenderDue s tid0 row i c v u ∧ P c v u = true

theorem renderCheck_due {s : State} {row : Row} {i : RIns} {P : Ctx → State → State → Bool} (h : renderCheck s row i P = true) : RenderWit s row i P := by
  simp only [renderCheck] at h
  split at h
  · exact absurd h (by simp)
  · next p s1 hs =>
    simp only [Bool.and_eq_true, decide_eq_true_eq, Bool.not_eq_true', Option.isNone_iff_eq_none] at h
    obtain ⟨⟨⟨⟨⟨⟨⟨h1, h2⟩, h3⟩, h4⟩, h5⟩, h6⟩, h7⟩, h8⟩ := h
    refine ⟨{ tid := 0, p := p, addr := (getTh s1 0).pc, len := codeLen (fetchCode s1 0), render := true }, stage3 s1 0 p,
      wordIssued s1 0 (getTh s1 0).pc (codeLen (fetchCode s1 0)),
      ⟨s1, codeLen (fetchCode s1 0), hs, h1, h2, h3, h4, rfl, rfl, rfl, freeCheck_free h5, freeCheck_free h6, fun e => ?_⟩, h8⟩
    rw [e] at h7; cases h7

/-- A machine whose thread 0 has a Render instruction of the parcels given due at tick 1. -/
def tr (ps : List Nat) (f : Thread → Thread := id) (secs : Table Sec := [(0x10, tbanks)]) : State :=
  trun (ps.flatMap (toLE 2)) (fun t => f { t with nextAt := 1, mode := true }) secs

/-! ### The whole machine and plans -/

/-- `StagedElsewhere` does not hold of mailbox 0 where it owns the session. -/
theorem staged_own {s : State} (h : s.plan.staging.owner = some 0) : ¬ StagedElsewhere s (0 : MbId) := fun x => x.2 h

/-- The states of `IdleTick`: READY.TIME clear and set, FREQ_ADJ at its lower bound. -/
theorem witness_IdleTick : let s := { ton [] with time := { State.reset.time with freqAdj := -549755813 } }
    State.reset.pending = [] ∧ isReady State.reset 5 = false ∧ s.pending = [] ∧ isReady s 5 = true ∧ s.time.slew = 0 ∧ (0 : Int) ≤ 2 ^ 40 + s.time.freqAdj := by
  decide +kernel

/-- A reset machine with a command waiting meets each invariant, and steps. -/
theorem witness_invariants : let s : State := { State.reset with pending := [.planStatus 0] }
    RingOk s.fault ∧ PkgOk s.pkg ∧ MemOk s ∧ ∃ t, step s = .next t := by
  refine ⟨by unfold RingOk; decide +kernel, ⟨by decide, by decide, by decide, by decide, by decide, Nat.two_pow_pos _, fun v h => by cases (show (none : Option Nat) = some v from h)⟩,
    by unfold MemOk; decide +kernel, _, rfl⟩

/-- A record for the ring. -/
def trec : ErrRecord := { ns := 0, sev := 0, cls := 1, code := 1, loc := 0, detail := [] }

/-- Rings of the four cases: with an open summary and one record, and full with it; empty, and with 63 records. -/
theorem witness_RingCases : let m := summaryOpen trec
    let a : FaultState := { ring := [trec], summary := some m }
    let b : FaultState := { ring := List.replicate 63 trec, summary := some m }
    let c : FaultState := { ring := List.replicate 63 trec }
    (RingOk a ∧ ringHeld a < 63) ∧ (RingOk b ∧ 63 ≤ ringHeld b) ∧ (RingOk {} ∧ ringHeld {} < 63) ∧ (RingOk c ∧ ringHeld c = 63) := by
  unfold RingOk; decide +kernel

theorem witness_TimeAdvances : (0 : Int) ≤ 2 ^ 40 + State.reset.time.freqAdj ∧ State.reset.time.slew = 0 ∧ State.reset.now ≤ 3 ∧ 3 ≤ 7 := by decide +kernel

/-- A machine with a staging session of mailbox 0. -/
def tstage (st : StageState) : State := setStaging (ton []) { st := st, owner := some 0, size := 512 }

theorem witness_PlanStaging :
    ((ton []).plan.staging.st = .empty ∧ (∀ n < 4, isReady (ton []) (6 + n) = true) ∧ (268435456 : BitVec 32).toNat ≤ 256 * 2 ^ 20) ∧
    ((tstage .loading).plan.staging.st = .loading ∧ ¬ StagedElsewhere (tstage .loading) (0 : MbId) ∧ isReady (tstage .loading) 22 = true ∧
      (zeros 512).length = (512 : BitVec 32).toNat ∧ (0 : BitVec 32).toNat + (512 : BitVec 32).toNat ≤ (tstage .loading).plan.staging.size) ∧
    ((tstage .loaded).plan.staging.st = .loaded ∧ ¬ StagedElsewhere (tstage .loaded) (0 : MbId)) ∧
    ((tstage .checked).plan.staging.st = .checked ∧ ¬ StagedElsewhere (tstage .checked) (0 : MbId)) ∧
    StagedElsewhere (tstage .loading) (1 : MbId) ∧
    (¬ StagedElsewhere (tstage .committing) (0 : MbId) ∧ (tstage .committing).plan.staging.st = .committing) :=
  ⟨by decide +kernel, ⟨by decide +kernel, staged_own (by decide), by decide +kernel⟩, ⟨by decide, staged_own (by decide)⟩, ⟨by decide, staged_own (by decide)⟩,
    ⟨by decide, by decide⟩, ⟨staged_own (by decide), by decide⟩⟩

/-- A machine with a commit of mailbox 0. -/
def tcommit (f : Commit → Commit) (g : State → State := id) : State :=
  g { tstage .committing with plan := { (tstage .committing).plan with commit := some (f { mailbox := 0, step := .checking, fromState := .loaded, plan := some (tcopy []) }) } }

/-- A machine whose link 0 has received one message. -/
def tmsg (st : Nat) (m : Bytes) (s : State := ton []) : State := modSpan s 0 (fun l => { l with st := st, rx := [(0, 1, m)] })

/-- A machine with a group commit of devices 0 and 1 that device 1 has prepared. -/
def tgroup : State := tcommit (fun c => { c with step := .prepared, group := true, groupMask := 3, atTime := some 20000 }) (fun s =>
  { s with plan := { s.plan with prepared := [{ dev := 1, digest := zeros 48, epoch := 1, atTime := 20000 }] } })

theorem witness_CommitSteps :
    ((tstage .loaded).plan.staging.st = .loaded ∧ (tstage .loaded).plan.staging.owner = some 0 ∧ argBad (tstage .loaded) (zeros 32) = false) ∧
    (∃ c, (tcommit id).plan.commit = some c ∧ c.step = .checking) ∧
    (∃ c, (tcommit (fun c => { c with step := .entropy })).plan.commit = some c ∧ c.step = .entropy ∧ isReady (tcommit (fun c => { c with step := .entropy })) 4 = true) ∧
    (let s := tcommit (fun c => { c with plan := some (tcopy [(9, tsec 608 [(576, [1])])]) }) (fun s => { s with plan := { s.plan with old := some (tcopy []) } })
     ∃ c p, s.plan.commit = some c ∧ c.plan = some p ∧ s.plan.old.isSome = true ∧ confWrites p s.plan.now = true) ∧
    (∃ c, (tcommit (fun c => { c with step := .preparing })).plan.commit = some c ∧ c.step = .preparing ∧ c.group = false) ∧
    (∃ c, tgroup.plan.commit = some c ∧ c.atTime = some 20000 ∧ c.group = true ∧ c.step = .prepared ∧ c.abortSeen = false ∧
      let u := advanceTo tgroup (tgroup.now + ticksTo tgroup (20000 - 20000))
      (∀ m ∈ u.plan.prepared, (groupPeers u c).contains m.dev = true → m.digest = memBytes u.plan.staging.image 128 48 ∧ m.epoch = u.plan.epoch ∧ m.atTime = 20000) ∧
      (∀ d ∈ groupPeers u c, ∃ m ∈ u.plan.prepared, m.dev = d) ∧ groupPeers u c = [1]) ∧
    ((takeMsg (tmsg 2 (0x12 :: zeros 63)) 0 0x12).isSome = true ∧ (takeMsg (tmsg 4 (0x13 :: zeros 63)) 0 0x13).isSome = true ∧
      (takeMsg (tmsg 4 (0x19 :: zeros 15)) 0 0x19).isSome = true ∧ msgPasses 2 0x12 = true ∧ msgPasses 4 0x13 = true ∧ msgPasses 4 0x19 = true) ∧
    (takeMsg (ton []) 0 0x12 = none ∧ takeMsg (ton []) 0 0x13 = none ∧ takeMsg (ton []) 0 0x19 = none) := by
  refine ⟨by decide +kernel, ⟨_, rfl, by decide⟩, ⟨_, rfl, by decide, by decide +kernel⟩, ⟨_, _, rfl, rfl, by decide, by decide +kernel⟩, ⟨_, rfl, by decide, by decide⟩,
    ⟨_, rfl, by decide, by decide, by decide, by decide, by decide +kernel, by decide +kernel, by decide +kernel⟩, by decide +kernel, by decide +kernel⟩

theorem witness_EpochSwitch :
    (∃ c p, let s := tcommit (fun c => { c with step := .armed })
      s.plan.commit = some c ∧ c.plan = some p ∧ c.step = .armed ∧ (switched s c p).host.hawkDeferred = false) ∧
    (∃ c p, let s := tcommit (fun c => { c with step := .armed }) (fun s => { s with host := { s.host with hawkDeferred := true } })
      s.plan.commit = some c ∧ c.plan = some p ∧ c.step = .armed ∧ (switched s c p).host.hawkDeferred = true) ∧
    (let s := { ton [] with plan := { (ton []).plan with old := some (tcopy []) } }
     s.plan.old = some (tcopy []) ∧ s.plan.commit = none) ∧ (ton []).plan.commit = none ∧ (ton []).plan.old = none := by
  refine ⟨⟨_, _, rfl, rfl, rfl, ?_⟩, ⟨_, _, rfl, rfl, rfl, ?_⟩, by decide +kernel⟩
  · decide +kernel
  · decide +kernel

/-! ### Ports and device time -/

/-- The plan of the port tests in force, with buffers in the head cache of pool 3. -/
def tpt : State :=
  { ton [(1, tports), (0xA, tpools), (0x15, tdoms)] with
    hod := { State.reset.hod with pools := [(3, { head := (List.range 16).map (fun i => mkHandle 3 i 0) })] }
    ports := { State.reset.ports with ports := [(0, { st := 2 }), (2, { st := 2 })] } }

/-- A frame with a right FCS. -/
def tframe (b : Bytes) : Bytes := b ++ toLE 4 (crc32 b)

theorem witness_FrameReception : let p := tpt.plan.now
    (portUp tpt 0 = true ∧ (getPort tpt 0).loopback = 0) ∧ ¬ (4 ≤ (zeros 64).length ∧ leAt (zeros 64) 60 4 = crc32 ((zeros 64).take 60)) ∧
    (let f := tframe (zeros 59); f.length = 63 ∧ leAt f 59 4 = crc32 (f.take 59)) ∧
    (let f := tframe (zeros 97); portMaxFrame p 0 < f.length ∧ 64 ≤ f.length ∧ leAt f 97 4 = crc32 (f.take 97)) ∧
    (let f := tframe (zeros 12 ++ [0x88, 0x08] ++ zeros 46); f.length = 64 ∧ leAt f 60 4 = crc32 (f.take 60) ∧ f.length ≤ portMaxFrame p 0 ∧
      secyOf p 0 = none ∧ beAt (f.take 60) 12 2 = 0x8808) ∧
    (let f := tframe (zeros 96); f.length = portMaxFrame p 0 ∧ leAt f 96 4 = crc32 (f.take 96) ∧ beAt (f.take 96) 12 2 ≠ 0x8808 ∧ pairAt p 0 = none) := by
  decide +kernel

/-- A machine on which a frame of 1,024 bytes waits for Hod, for which pool 3's 16 buffers are enough or all in use. -/
def trx (used : Nat) : State :=
  { tpt with
    ports := { tpt.ports with rxWait := [{ bytes := zeros 1024, rx := { port := 0 }, epoch := 1, tick := 0 }] }
    hod := { tpt.hod with pools := [(3, { head := if used = 0 then (List.range 16).map (fun i => mkHandle 3 i 0) else [], used := used })] } }

/-- What Hod answers for the waiting frame. -/
def trxAnswer (s : State) : AllocResult := (hodAlloc { s with ports := { s.ports with rxWait := [] } } (portDropDomain s.plan.now 0) (headroom s.plan.now + 1024)).1

theorem witness_FragmentsAndAdmission :
    (portUp tpt 0 = true ∧ (getPort tpt 0).loopback = 0 ∧ (getPort tpt 0).reasm = none) ∧
    (let d := zeros 60 ++ toLE 4 (mCrc (zeros 60)); leAt d 60 4 = mCrc (d.take 60) ∧ leAt d 60 4 ≠ crc32 (d.take 60)) ∧
    (let r : Reasm := { frameCount := 1, fragCount := 0, data := [], time := 0 }
     let s := modPort tpt 0 (fun p => { p with reasm := some r }); portUp s 0 = true ∧ (getPort s 0).reasm = some r ∧ r.frameCount ≠ (0 : BitVec 2).toNat) ∧
    tpt.ports.rxWait = [] ∧
    ((∃ h, trxAnswer (trx 0) = .granted h) ∧ recovering (trx 0) (unitLoc 18 0) = false) ∧ ∃ a b, trxAnswer (trx 16) = .refused a b := by
  refine ⟨by decide +kernel, by decide +kernel, by decide +kernel, by decide +kernel, ⟨⟨mkHandle 3 0 0, by decide +kernel⟩, by decide +kernel⟩, ⟨2, 3, by decide +kernel⟩⟩

/-- A frame to send, and one on the wire. -/
def titem (pre : Bool) : TxItem := { handle := 0, bytes := zeros 1000, preemptable := pre }
/-- See `titem`. -/
def twire : OnWire := { item := titem true, wire := zeros 1004 }
/-- Port 0 with a frame to send, on the wire, or held. -/
def ttx (f : PortSt → PortSt) : State := modPort tpt 0 f

theorem witness_FrameTransmission :
    (let s := ttx (fun p => { p with txBuf := [titem false] }); portUp s 0 = true ∧ (getPort s 0).onWire = none ∧ (getPort s 0).txBuf = [titem false]) ∧
    (let s := ttx (fun p => { p with held := some twire }); portUp s 0 = true ∧ (getPort s 0).onWire = none ∧ (getPort s 0).txBuf = [] ∧
      (getPort s 0).held = some twire ∧ (getGate s 0).hold = false) ∧
    (let s := ttx (fun p => { p with onWire := some twire, txBuf := [titem false], preemptActive := true })
     portUp s 0 = true ∧ (getPort s 0).onWire = some twire ∧ (getPort s 0).txBuf = [titem false] ∧ twire.item.preemptable = true ∧
       (titem false).preemptable = false ∧ preempting s 0 = true ∧ preemptAt s 0 twire = some 60) ∧
    (let s := ttx (fun p => { p with onWire := some twire }); (getPort s 0).onWire = some twire ∧ (getPort s 0).loopback = 0 ∧ twire.frags = 0) ∧
    (let w := { twire with frags := 1, sent := 60 }; let s := ttx (fun p => { p with onWire := some w }); (getPort s 0).onWire = some w ∧ 0 < w.frags) ∧
    (let s := ttx (fun p => { p with onWire := some twire, loopback := 1 }); (getPort s 0).onWire = some twire ∧ (getPort s 0).loopback = 1) ∧
    portUp State.reset 0 = false ∧ (getPort tpt 0).onWire = none := by
  refine ⟨by decide +kernel, by decide +kernel, by decide +kernel, by decide +kernel, by decide +kernel, by decide +kernel, by decide +kernel, by decide +kernel⟩

theorem witness_LinkStates :
    (let s := ttx (fun p => { p with st := 1 }); portEnabled s.plan.now 2 = true ∧ (getPort (modPort s 2 (fun p => { p with st := 3 })) 2).st = 3 ∧
      recovering s (portLoc 2) = false ∧ portFlag s.plan.now 2 3 = false) ∧
    portUp tpt 2 = true ∧ portUp State.reset 0 = false ∧
    (let s := { ton [(1, tsec 4096 [(0, [0, 3, 0, 3])])] with laneReady := 0, ports := { ports := [(0, { st := 1 })] } }
     portEnabled s.plan.now 0 = true ∧ portFlag s.plan.now 0 1 = true ∧ portUp s 0 = false) ∧
    (let s := ttx (fun p => { p with verifyTries := 1 }); portUp s 0 = true ∧ 0 < (getPort s 0).verifyTries ∧ (getPort s 0).verifyFailed = false) ∧
    (let s := ttx (fun p => { p with verifyTries := 3 }); portUp s 0 = true ∧ (getPort s 0).verifyTries = 3 ∧ (getPort s 0).preemptActive = false ∧
      (getPort s 0).verifyFailed = false) := by
  refine ⟨by decide +kernel, by decide +kernel, by decide +kernel, by decide +kernel, by decide +kernel, by decide +kernel⟩

theorem witness_PortCommands : portEnabled tpt.plan.now 1 = false ∧ portEnabled tpt.plan.now 0 = true ∧ (2 : BitVec 8).toNat ≤ 2 ∧ 2 < (3 : BitVec 8).toNat ∧
    (let f : BitVec 16 := 0xE10; let c : BitVec 8 := 62; f.toNat % 8 = 0 ∧ c.toNat ≤ 62 ∧ f.toNat + 8 * c.toNat ≤ 0x1000) ∧
    ((0xE11 : BitVec 16).toNat % 8 ≠ 0 ∧ 62 < (63 : BitVec 8).toNat ∧ 0x1000 < (0xE18 : BitVec 16).toNat + 8 * (62 : BitVec 8).toNat) := by
  refine ⟨by decide +kernel, by decide +kernel, by decide +kernel, by decide +kernel, by decide +kernel, by decide +kernel⟩

/-- MACSEC with a SecY of port 0 and a receive SC of SCI 5. -/
def tmacsec : Sec := tsec 128 [(0, [1, 0, 1, 0, 2, 0, 0, 0, 7]), (64, [2, 0, 0, 0, 0, 0, 0, 0, 5])]
/-- A machine with that SecY, with the MACsec key-encryption key of FIPS-197's examples and the secure associations given. -/
def tsecy (sas : List MacSa) : State :=
  { ton [(1, tports), (0x16, tmacsec)] with
    ports := { sas := sas }
    svc := { (ton []).svc with keks := [(0, (List.range 32).map (BitVec.ofNat 8))] } }
/-- The wrapped key of RFC 3394, 4.6. -/
def twrapped : Bytes :=
  [0x28, 0xC9, 0xF4, 0x04, 0xC4, 0xB8, 0x10, 0xF4, 0xCB, 0xCC, 0xB3, 0x5C, 0xFB, 0x87, 0xF8, 0x26, 0x3F, 0x57, 0x86, 0xE2,
   0xD8, 0x0E, 0xD3, 0x26, 0xCB, 0xC7, 0xF0, 0xE7, 0x1A, 0x99, 0xF4, 0x3B, 0xFB, 0x98, 0x8B, 0x9B, 0x7A, 0x02, 0xDD, 0x21]
/-- The arguments of MACSEC_SA_INSTALL. -/
def tsaArgs : Bytes := [0, 0, 3, 0] ++ toLE 8 5 ++ toLE 8 (2 ^ 32 - 1) ++ zeros 16 ++ twrapped ++ zeros 4
/-- A transmit secure association of that SecY. -/
def tsa : MacSa := { port := 0, tx := true, sci := 7, an := 3, next := 1, lowest := 1, ssci := 0, salt := [], key := [] }

/-- FIPS-197: the multiplication of 4.2 and the S-box value of 5.1.1, with its inverse. -/
theorem test_aes_field : gfMul 0x57 0x83 = 0xC1 ∧ aesSub 0x53 = 0xED ∧ aesSubInv 0xED = 0x53 := by decide +kernel

theorem witness_SecureAssociations :
    (let s := tsecy []; let a := tsaArgs; ∃ kek y, portEnabled s.plan.now (byteAt a 0) = true ∧ secyOf s.plan.now (byteAt a 0) = some y ∧
      byteAt a 3 = 0 ∧ allZero (slice a 76 4) = true ∧ byteAt a 1 = 0 ∧ byteAt a 2 ≤ 3 ∧ 0 < leAt a 12 8 ∧ leAt a 12 8 ≤ pnMax (secyXpn y) ∧
      (secyXpn y = false → allZero (slice a 20 16) = true) ∧ (rxScOf s.plan.now (byteAt a 0) (leAt a 4 8)).isSome = true ∧
      tblFind s.svc.keks 0 = some kek ∧ slice a 36 40 = twrapped) ∧
    (let s := tsecy [tsa]; ∃ y, portEnabled s.plan.now 0 = true ∧ secyOf s.plan.now 0 = some y ∧ tsa ∈ s.ports.sas ∧ tsa.tx = true ∧ tsa.sci = leAt y 8 8 ∧ tsa.old = false) ∧
    (let s := tsecy [tsa]; tsa ∈ s.ports.sas ∧ tsa.port = (0 : BitVec 8).toNat ∧ tsa.tx = decide ((1 : BitVec 8).toNat = 1) ∧ tsa.sci = (7 : BitVec 64).toNat ∧
      tsa.an = (3 : BitVec 8).toNat) ∧
    secyOf (tsecy []).plan.now 2 = none := by
  refine ⟨⟨_, _, by decide +kernel, rfl, by decide +kernel, by decide +kernel, by decide +kernel, by decide +kernel, by decide +kernel, by decide +kernel,
    by decide +kernel, by decide +kernel, rfl, by decide +kernel⟩, ⟨_, by decide +kernel, rfl, by decide +kernel, by decide +kernel, by decide +kernel, by decide +kernel⟩,
    by decide +kernel, by decide +kernel⟩

/-- TIME with PPS in and out, the servo given, SLEW_LIMIT 1,000 ns and the pulse width 1. -/
def ttime (servo : Nat) : Sec := tsec 64 [(0, toLE 1 servo ++ [0, 0, 3, 1]), (24, toLE 4 1000), (28, [1])]

theorem witness_DeviceTime :
    ({ State.reset with power := { State.reset.power with dieOut := true } }.power.dieOut = true ∧ isReady State.reset 5 = false) ∧
    (let s := ton [(2, ttime 1)]; isReady s 5 = true ∧ hostSteers { s with host := { s.host with hawkState := 1 } } = false) ∧
    (let s := ton [(2, ttime 2)]; isReady s 5 = true ∧ hostSteers s = true ∧ (999999999 : BitVec 32).toNat < 1000000000 ∧
      0 < slewLimit s.plan.now ∧ ((1000 : BitVec 64).toInt * 2 ^ 43).natAbs ≤ slewLimit s.plan.now * 2 ^ 43 ∧
      slewLimit s.plan.now * 2 ^ 43 < ((1001 : BitVec 64).toInt * 2 ^ 43).natAbs ∧ 0 ≤ (s.time.t : Int) + (1001 : BitVec 64).toInt * 2 ^ 43) ∧
    ((-549755813 : Int) ≤ (549755813 : BitVec 32).toInt ∧ (549755813 : BitVec 32).toInt ≤ 549755813 ∧ 549755813 < (549755814 : BitVec 32).toInt) := by
  decide +kernel

theorem witness_ServoPpsReference :
    (let s := ton [(2, ttime 1)]; isReady s 5 = true ∧ servoOf s.plan.now = 1 ∧ s.host.hawkState = 1 ∧ (549755813 : BitVec 32).toInt.natAbs ≤ 549755813) ∧
    (let s := ton [(2, ttime 1)]; timeFlag s.plan.now 0 = true ∧ timeFlag s.plan.now 1 = true ∧ timeFlag s.plan.now 2 = false ∧ s.time.ppsInTick = 0 ∧
      0 ≤ s.time.ppsOutSecond ∧ ((s.time.t : Int) + signedOf 32 (leAt (timeEnt s.plan.now) 8 4) * 2 ^ 43 / 1000).toNat / (1000000000 * 2 ^ 43) = 0) ∧
    (let s := { ton [(2, ttime 1)] with time := { State.reset.time with t := 1000000000 * 2 ^ 43, refOut := true } }; s.time.ppsOutSecond < 1 ∧ s.time.refOut = true ∧
      ((s.time.t : Int) + signedOf 32 (leAt (timeEnt s.plan.now) 8 4) * 2 ^ 43 / 1000).toNat / (1000000000 * 2 ^ 43) = 1) ∧
    100 < (101 : BitVec 16).toInt.natAbs ∧ (ton []).time.refOut = false ∧ (100 : BitVec 16).toInt.natAbs ≤ 100 := by
  decide +kernel

/-! ### Ill-formed operands, check values, and single steps -/

/-- Each check of `Instr.wf` refuses a term, and takes one at its bound. -/
theorem test_wf_refuses :
    (Instr.planCommit 0 (zeros 225)).wf = false ∧ (Instr.planCommit 0 (zeros 224)).wf = true ∧ (Instr.macsecSaInstall 0 (zeros 79)).wf = false ∧
    (∀ f ∈ [Instr.search, Instr.tableNext, Instr.insert, Instr.delete, Instr.flushByPort, Instr.invalidate, Instr.ageNow, Instr.tableStatus],
      (f (.mailbox 0 (zeros 63))).wf = false ∧ (f (.mailbox 0 (zeros 64))).wf = true ∧ (f (.thread tid0)).wf = true) ∧
    (Instr.sealerKeyInstall 0 0 0 0 (zeros 41)).wf = false ∧ (Instr.hbmTrainStep 0 true (zeros 3)).wf = false ∧ (Instr.resultRead 0 0 3).wf = false ∧
    (Instr.resultRead 0 0 8).wf = true ∧ (Instr.registerWrite 0 []).wf = false ∧ (Instr.registerWrite 0 (zeros 65)).wf = false ∧
    (Instr.bar2Read 0 0).wf = false ∧ (Instr.bar2Read 0 4097).wf = false ∧ (Instr.bar2Read 0 4096).wf = true ∧ (Instr.bar2Write 0 []).wf = false ∧
    (Instr.echo 0 (zeros 225)).wf = false ∧ (Instr.txDescriptor 0 (zeros 31)).wf = false ∧ (Instr.flitRx 0 (zeros 63) false).wf = false ∧
    (Instr.flitRx 0 (zeros 64) false).wf = true ∧
    (let h : UpdHeader := { addr := zeros 15, port := 0, session := 0, seq := 0 }
     ∀ c ∈ [Instr.hello h, .manifestPart h 0 [], .manifestEnd h 0, .block h 0 0 0 [], .chunkQuery h 0, .finish h, .activate h, .sessionAbort h 0 false], c.wf = false) ∧
    (Instr.keySlotWrite 0 0 (zeros 95)).wf = false ∧ (Instr.kekInstall 0 0 (zeros 33)).wf = false ∧ (Instr.tempMeasure [] 0 0).wf = false := by
  decide +kernel

/-- A value of 1,212 bits is no value of the boundary register. -/
theorem test_wf_cells : Instr.cells (1 <<< 1211) = false ∧ (Instr.extest (1 <<< 1211) 0).wf = false ∧ (Instr.samplePreload 0 (1 <<< 1211)).wf = false ∧
    (Instr.extestPulse (1 <<< 1211) 0).wf = false ∧ (Instr.extestTrain 0 (1 <<< 1211)).wf = false := by
  have h : ∀ v, v = 1 <<< 1211 → Instr.cells v = false := by
    intro v hv
    rw [hv, Nat.shiftLeft_eq, Nat.one_mul]
    exact decide_eq_false (Nat.lt_irrefl _)
  simp [Instr.wf, h]

/-- The nine digits in ASCII. -/
def tdigits : Bytes := [0x31, 0x32, 0x33, 0x34, 0x35, 0x36, 0x37, 0x38, 0x39]

/-- The published check values of the two CRCs that R124 and IEEE 802.3 name. -/
theorem test_crc : crc32c tdigits = 0xE3069283 ∧ crc32 tdigits = 0xCBF43926 := by decide +kernel

/-- FIPS 180-4's example: the digest of "abc". -/
theorem test_sha384 : sha384 [0x61, 0x62, 0x63] = toBE 48
    0xcb00753f45a35e8bb5a03d699ac65007272c32ab0eded1631a8b605a43ff5bed8086072ba1e7cc2358baeca134c825a7 := by decide +kernel

/-- The base point lies on P-384, and a changed one does not. -/
theorem test_p384 : p384OnCurve p384Gx p384Gy = true ∧ p384OnCurve p384Gx (p384Gy + 1) = false := by decide +kernel

/-- No word spells a command, and none is put in the queue. -/
theorem test_no_words : decodeTableWord 32 0x12345678 = none ∧ (State.reset.withFetchWord 32 0x12345678).pending = [] := by decide

/-- The bits of `P` of the next state. -/
def tnext (o : Host.Outcome State Fault Refusal) (P : State → Bool) : Bool :=
  match o with
  | .next t => P t
  | _ => false

/-- Eight beacon ticks of 1.6 GHz are 5 ns of device time (R100). -/
theorem test_eight_ticks : devNs (advanceTo (ton []) 8) = 5 ∧ devNs (advanceTo (ton []) 7) = 4 := by decide +kernel

/-- ALU ADD A, A, #5 with A = 2^64 − 1: the sum wraps, C sets, Z and V stay clear; the thread goes on at the next word. -/
theorem test_add_wraps : tnext (exec (.alu tid0) (tw 0x02020005 (fun t => { t with a := -1 }))) (fun t => let u := landTh t 0 9
    (getTh u 0).a == 4 && (getTh u 0).fc && !(getTh u 0).fz && !(getTh u 0).fv && (getTh u 0).pc == 4) = true := by decide +kernel

/-- The row of another word has no effect on a thread whose word is an ALU word. -/
theorem test_other_row : tnext (exec (.br tid0) (tw 0x02020005 (fun t => { t with a := -1 }))) (fun t => (getTh t 0).a == -1 && (getTh t 0).pc == 0) = true := by decide +kernel

/-- A step takes the front of the queue: the host's first write of HOST_LOCKDOWN, then its second, a violation. -/
theorem test_queue : tnext (step { State.reset with pending := [.hostLockdown 1, .hostLockdown 0] }) (fun t =>
    t.kept.lockdown && decide (t.pending = [.hostLockdown 0]) && tnext (step t) (fun u => u.kept.writeViolation && u.kept.lockdown && decide (u.pending = []))) = true := by
  decide +kernel

/-- A doorbell with a SEQ that its command does not carry completes with E_SEQUENCE. -/
theorem test_doorbell : tnext (exec (.mbDoorbell 3 9) (ton [])) (fun t => (getMb t 3).reply == some { status := eSequence } && (getMb t 3).runSeq == 9) = true := by decide +kernel

/-- The IDCODE of Table 20-11. -/
theorem test_idcode : tnext (exec .idcode (ton [])) (fun t => t.out == [.tap 32 0xB1C32F3B]) = true := by decide +kernel

/-! ### The packet path -/

/-- A packet of 64 bytes admitted on port 0, delivered in the present tick. -/
def tpkt : Packet := { handle := mkHandle 3 0 0, rx := { port := 0, len := 64 }, epoch := 1 }
/-- A machine with a parse graph and a packet in walk, or in the classifier's input. -/
def tpath (f : State → State) : State :=
  f { tpt with plan := tplan [(1, tports), (3, tgraph), (7, tsec 448 [(64, [2]), (128, [3]), (192, [5])]), (0xA, tpools), (0x15, tdoms)] }
/-- A fragment context. -/
def tctx (st : FragSt) : FragCtx := { engine := 0, key := [1], epoch := 1, st := st, due := 5 }

theorem witness_ParseEngines :
    (let s := tpath (fun s => { s with stencil := { s.stencil with walking := [tpkt] } })
     firstWalk s s.stencil.walking = some tpkt ∧ fragMode ((walked s tpkt).plan.of tpkt.epoch) 0 ≠ 1 ∧ (walkOf s tpkt).hops = 1) ∧
    (reasonDrops (tpt.plan.of 1) 0 = false ∧ tpt.stencil.walking = []) ∧
    (let s := tpath (fun s => { s with stencil := { s.stencil with ctxs := [tctx .decided] } }); findCtx s 0 [1] = some (tctx .decided)) ∧
    (let s := tpath (fun s => { s with stencil := { s.stencil with ctxs := [tctx .waiting] } }); findCtx s 0 [1] = some (tctx .waiting) ∧ (tctx .waiting).st ≠ .decided) ∧
    (1, 1023) ∈ (tpath (fun s => { s with stencil := { s.stencil with badNodes := [(1, 1023)] } })).stencil.badNodes := by
  decide +kernel

/-- A packet in the rule search. -/
def tbusy (policed : Bool) (action : Nat) : ClsBusy := { pkt := tpkt, enter := 0, res := { action := action }, policed := policed }
/-- A machine with one packet in the rule search. -/
def tclsb (b : ClsBusy) : State := tpath (fun s => { s with cls := { s.cls with busy := [b] } })
/-- A single error planted in the rule memory of pipeline 0. -/
def tmark : ErrorMark := { loc := { unitLoc 20 0 with l3 := 0 }, word := 1, kind := 1 }

theorem witness_Classifiers :
    (let s := tpath (fun s => { s with cls := { s.cls with input := [tpkt] } }); let mine := s.cls.input.filter (fun k => k.rx.port / 32 == 0)
     let prio := mine.filter (isPriority s 0)
     firstBy entersBefore (if prio = [] then mine else prio) = some tpkt ∧ tpkt.delivered = s.now ∧
       (s.cls.busy.filter (fun b => b.pkt.rx.port / 32 == 0 && b.enter == s.now)).length < 4 ∧ recovering s (unitLoc 20 0) = false ∧
       pipeBad { s with cls := { s.cls with input := s.cls.input.erase tpkt } } 0 = false) ∧
    (firstBy handsBefore (tclsb (tbusy true 0)).cls.busy = some (tbusy true 0) ∧ firstBy handsBefore (tclsb (tbusy false 0)).cls.busy = some (tbusy false 0) ∧
      firstBy handsBefore (tclsb (tbusy false 1)).cls.busy = some (tbusy false 1) ∧ (tbusy false 1).pkt.fragKey = []) ∧
    (clsMarks { tpt with fault := { tpt.fault with marks := [tmark] } } = [tmark] ∧ tmark.kind = 1) ∧
    (let p := (tpath id).plan.now; (sgateOf p 0).isSome = true ∧ (kindEnt p 7 2 0).isSome = true ∧ (meterOf p 0).isSome = true ∧
      sgateOf p 65535 = none ∧ kindEnt p 7 2 65535 = none ∧ meterOf p 65535 = none) := by
  decide +kernel

/-- A machine whose buffer 0 of pool 3 is in use with `r` references. -/
def tbuf (r : Nat) : State :=
  { tpt with hod := { pools := [(3, { head := [mkHandle 3 1 0], fresh := 2, used := 1 })], words := [(hKey (mkHandle 3 0 0), { ref := r, st := 2 })] } }
/-- A machine whose pool 3 has the head cache and other fields given. -/
def tpool (q : PoolSt) : State := { tpt with hod := { pools := [(3, q)] } }
/-- A machine on which Hod recovers. -/
def thodDown : State := { tpt with fault := { tpt.fault with recovering := [{ loc := unitLoc 23 0, sev := 3, cls := 6, code := 4, since := 0 }] } }

theorem witness_BuffersAndFreeLists : tpt.fault.marks = [] ∧
    (poolRefuses tpt 0 3 = none ∧ (getPool tpt 3).head = mkHandle 3 0 0 :: (List.range 15).map (fun i => mkHandle 3 (i + 1) 0)) ∧
    (refCheck (tbuf 62) (mkHandle 3 0 0) true (unitReq 24 0) = none ∧ (unitReq 24 0).thread = none) ∧
    (refCheck (tbuf 2) (mkHandle 3 0 0) false (unitReq 24 0) = none ∧ 1 < (getWord (tbuf 2) (mkHandle 3 0 0)).ref) ∧
    (refCheck (tbuf 1) (mkHandle 3 0 0) false (unitReq 24 0) = none ∧ (getWord (tbuf 1) (mkHandle 3 0 0)).ref = 1 ∧ hodDown (tbuf 1) = false ∧
      (getPool (tbuf 1) 3).head.length < 16384) ∧
    (let s := tpool { chains := [(63, mkHandle 3 0 0)] }; poolCount s.plan.now 3 ≠ 0 ∧ hodDown s = false ∧ (refillChains (getPool s 3)).take 64 ≠ []) ∧
    (let s := tpool {}; (refillChains (getPool s 3)).take 64 = [] ∧ (getPool s 3).reads = [] ∧ ∀ c < 64, chainHead (getPool s 3) c = noHandle) ∧
    hodDown thodDown = true ∧
    (let s := tpool { reads := [(0, mkHandle 3 0 0)] }; (getPool s 3).reads = [(0, mkHandle 3 0 0)] ∧
      (hbmRead s 2 64 (bufAddr s (mkHandle 3 0 0)) 128).1 = none) ∧
    (63 ∈ (getPool (tpool { stopped := [63] }) 3).stopped ∧ outChain (getPool tpt 3) = some 0) := by
  decide +kernel

/-- An order-restore entry whose one descriptor names the packet's buffer. -/
def tentry (drop complete : Bool) : OrderEntry :=
  { od := 63, tick := 0, source := 0, handle := 7, domain := 0, epoch := 1, descs := [toLE 4 7 ++ zeros 28], complete := complete, drop := drop }
/-- A machine with one entry at tick `now`. -/
def torder (now : Nat) (e : OrderEntry) : State := { tpt with now := now, egress := { tpt.egress with entries := [e] } }

theorem witness_OrderRestore :
    (nextRelease (torder 0 (tentry true true)) = some (tentry true true) ∧ recovering (torder 0 (tentry true true)) (unitLoc 24 0) = false) ∧
    (let s := torder (usTicks 100 + 1) (tentry false true); let u := delEntry (orderTouch (advanceTo s 192) 0 0) 0 0
     nextRelease s = some (tentry false true) ∧ aged u 1 0 = true) ∧
    (let s := torder 0 (tentry false true); let u := delEntry (orderTouch (advanceTo s 192) 0 0) 0 0
     aged u 1 0 = false ∧ (entryItems (tentry false true)).any (fun i => dHandle i.desc == 7) = true) ∧
    nextRelease tpt = none ∧
    (let s := torder 0 (tentry false false); s.egress.entries.find? (fun e => e.od == (63 : BitVec 16).toNat && !e.complete && isHead s e) = some (tentry false false)) := by
  decide +kernel

/-- REDUNDANCY: a sequence recovery function with RESET_MS 1, LATENT_EN, limit 5 and period 100 ms, and a PRP pair of ports 0 and 2. -/
def tredun : Sec := tsec 128 [(0, [1, 0x12, 16, 1, 1, 0, 5, 0, 100]), (64, [2, 1, 0, 2, 0, 0, 0, 0, 10])]
/-- A machine with those functions. -/
def tegr (f : EgressState → EgressState) : State :=
  { tpt with plan := tplan [(1, tports), (0xA, tpools), (0xC, tredun), (0x15, tdoms)], egress := f tpt.egress }
/-- A list of two operations of 1,000 ns, the second a HOLD. -/
def tlist : GateList := { ops := [⟨0, 1, 1000⟩, ⟨1, 2, 1000⟩], base := 0, cycle := 2000, holdAdv := 500, relAdv := 0, epoch := 1 }
/-- A machine whose port 0 follows that list. -/
def tgate (g : GateSt) (t : Nat := 0) : State := { tegr (fun e => { e with gates := [(0, g)] }) with time := { State.reset.time with t := t * unitNs } }

theorem witness_EgressAndGates :
    (recovering tpt (unitLoc 25 64) = false ∧ (tegr (fun e => { e with released := [{ desc := [] }] })).egress.released = [{ desc := [] }]) ∧
    (let s := tegr (fun e => { e with fifo := [{ desc := [] }] }); s.egress.released = [] ∧ s.egress.fifo = [{ desc := [] }]) ∧
    (let d : DupEntry := { mac := 0, seq := 0, member := 1, made := 0 }; let s := tegr (fun e => { e with pairs := [(0, { dups := [d] })] })
     (pairOf s.plan.now 0).isSome = true ∧ (getPair s 0).dups = [d]) ∧
    (let s := tegr (fun e => { e with fns := [(0, { takeAny := false, baseDiff := 6 })] }); ∃ e, cbOf s.plan.now 0 = some e ∧ cbFlag e 1 = true ∧ cbFlag e 4 = true ∧
      (getFn s 0).takeAny = false ∧ leAt e 6 2 < ((getFn s 0).baseDiff - 0).natAbs) ∧
    (let s := tegr (fun e => { e with fns := [(0, { baseDiff := 5 })] }); ∃ e, cbOf s.plan.now 0 = some e ∧ cbFlag e 4 = true ∧ ((getFn s 0).baseDiff - 0).natAbs ≤ leAt e 6 2) ∧
    (portUp tpt 0 = true ∧ (getPort tpt 0).txBuf = [] ∧ (getPort tpt 0).onWire = none ∧ recovering tpt (unitLoc 25 0) = false) ∧
    (let f : QFrame := { handle := 0, start := 0, len := 64 }; getQueue (tegr (fun e => { e with queues := [(15, [f])] })) 0 15 = [f]) ∧
    (let u := cbsSync (tgate { list := some tlist }); (getGate u 0).list = some tlist ∧ (getGate u 0).op = none ∧ (locate tlist (gateTime u 0 / unitNs)).isSome = true) ∧
    (let u := cbsSync (tgate { list := some tlist, op := some (0, 0) } 1000); (getGate u 0).op = some (0, 0) ∧ (0 + opLen tlist 0) * unitNs ≤ gateTime u 0) ∧
    (let u := cbsSync (tgate { list := some tlist, op := some (0, 0) } 600); (getGate u 0).hold = false ∧ opKind tlist ((0 + 1) % tlist.ops.length) = 1 ∧
      gateTime u 0 < (0 + opLen tlist 0) * unitNs ∧ (0 + opLen tlist 0 - tlist.holdAdv) * unitNs ≤ gateTime u 0) ∧
    (getGate (cbsSync tpt) 0).list = none ∧
    (let s := tgate { next := some (some tlist, 0) }; (getGate s 0).next = some (some tlist, 0) ∧ 0 * unitNs ≤ gateTime s 0) ∧
    (let s := tgate { next := some (none, 1000) }; (getGate s 0).next = some (none, 1000) ∧ gateTime s 0 < 1000 * unitNs) := by
  refine ⟨by decide +kernel, by decide +kernel, by decide +kernel, ⟨_, rfl, by decide +kernel, by decide +kernel, by decide +kernel, by decide +kernel⟩,
    ⟨_, rfl, by decide +kernel, by decide +kernel⟩, by decide +kernel, by decide +kernel, by decide +kernel, by decide +kernel, by decide +kernel, by decide +kernel,
    by decide +kernel, by decide +kernel⟩

/-- An item of pool 0. -/
def titm : Item := { handle := mkHandle 3 0 0, epoch := 1, tick := 0, source := 0, len := 64 }
/-- A machine whose pool 0 is thread 0 of cluster 0, with items on its queue. -/
def tdisp (items spill : List Item) : State :=
  let s : State := { tpt with
    plan := tplan [(1, tports), (0xA, tpools), (0xF, tsec 64 [(0, [1, 0, 0, 0, 0, 0, 16, 0, 1])]), (0x15, tdoms)]
    core := { tpt.core with clusters := [(0, { queues := [{ pool := 0, epoch := 1, items := items, spill := spill }] })] } }
  modTh s 0 (fun t => { t with running := true })
/-- A paired item with the sides given. -/
def tpair (a b : PairSide) : State :=
  { tpt with fault := { tpt.fault with pairItems := [{ pair := 511, entry := 9, epoch := 1, handle := 0, a := a, b := b, firstLast := some 0 }] } }

theorem witness_DispatchAndPairs :
    (∃ k r, ({ tpt with cls := { tpt.cls with handed := [tpkt] } }).cls.handed = k :: r) ∧
    (let s := tdisp [titm] []; ∃ f, nextFill s 0 = some f ∧ dispDown s 0 = false ∧ s.fault.marks = [] ∧ f.item.pair = none ∧
      (windowOf (setQ (advanceTo s (f.start + 8)) 0 { f.queue with items := f.queue.items.erase f.item }) 0 f.item (poolWinStart (s.plan.of f.item.epoch) f.item.pool)).1 = none) ∧
    (let s := tdisp [] [titm]; let q : DispQueue := { pool := 0, epoch := 1, spill := [titm] }
     (getCl s 0).queues.find? (fun q => q.pool == (0 : BitVec 16).toNat && !q.spill.isEmpty && !atLimit s 0 q) = some q) ∧
    (let s := tpair { last := true, descs := [[1]] } { last := true, descs := [[2]] }; ∃ x, findPair s 9 = some x ∧ x.pair = (511 : BitVec 9).toNat ∧
      x.a.last = true ∧ x.b.last = true ∧ (serverOf s x.pair).isSome = true ∧ x.a.descs ≠ x.b.descs) ∧
    (let s := tpair { last := true } {}; ∃ x, findPair s 9 = some x ∧ x.firstLast = some 0 ∧ x.b.last = false) ∧
    (let s := tpair { last := true, descs := [[1]] } { last := true, descs := [[1]] }; ∃ x, findPair s 9 = some x ∧ x.a.descs = x.b.descs ∧
      pairDigest x.a = pairDigest x.b ∧ x.pair ∉ s.fault.digestFlips) := by
  refine ⟨⟨_, _, rfl⟩, ⟨{ queue := { pool := 0, epoch := 1, items := [titm] }, item := titm, tid := 0, start := 0 }, by decide +kernel⟩, by decide +kernel,
    ⟨_, rfl, by decide +kernel⟩, ⟨_, rfl, by decide +kernel⟩, ⟨_, rfl, by decide +kernel⟩⟩

/-! ### Memory, tables and locks -/

/-- A request that waits for HBM. -/
def treq (use : HbmFor) (active : Bool) : HbmReq := { port := 1, source := 0, addr := 0, n := 8, accepted := 0, use := use, active := active }
/-- A machine with HBM state of its own. -/
def thbm (f : HbmState → HbmState) : State := { tpt with hbm := f tpt.hbm }

theorem witness_MemoryAccesses :
    nextActivate (thbm (fun h => { h with waiting := [treq (.load 0 1) false] })) 0 0 = some (treq (.load 0 1) false) ∧
    (∀ u ∈ [HbmFor.load 0 1, .store 0 1, .sc 0 1], (thbm (fun h => { h with waiting := [treq u true] })).hbm.waiting.find?
      (fun r => r.active && hbmPc r.addr == 0 && hbmBank r.addr == 0) = some (treq u true)) ∧
    (thbm (fun h => { h with waiting := [treq .writeback false] })).hbm.waiting.find? (fun r => decide (r.use = HbmFor.writeback)) = some (treq .writeback false) ∧
    (∀ n < 4, isReady tpt (6 + n) = true) ∧ (thbm (fun h => { h with targeted := [(127, 31, 5)] })).hbm.targeted = [(127, 31, 5)] ∧
    (let s := thbm (fun h => { h with refreshed := [(0, 8191)] }); let u := advanceTo s (s.hbm.windowFrom + 8191 * refreshWindow / refreshCount s 0)
     8191 < refreshCount s 0 ∧ urgentWaits u 0 0 = false) ∧
    (let s := thbm (fun h => { h with waiting := [treq (.load 0 1) false], postponed := [(0, 7)], refreshed := [(0, 8191)] })
     let u := advanceTo s (s.hbm.windowFrom + 8191 * refreshWindow / refreshCount s 0); urgentWaits u 0 0 = true ∧ tblGet 0 u.hbm.postponed 0 < 8) := by
  decide +kernel

/-- A machine whose stack 0 is in the state given. -/
def tstack (f : StackSt → StackSt) : State := thbm (fun h => { h with stackSet := [(0, f {})] })

theorem witness_MemoryTraining : isReady tpt 2 = true ∧
    (let x := getStack (tstack (fun x => { x with st := 1, step := 3, attempts := 2 })) 0; x.st = 1 ∧ 1 ≤ x.step ∧ 1 ≤ x.attempts ∧ x.step < 4 ∧ x.attempts < 3) ∧
    (let x := getStack (tstack (fun x => { x with st := 1, step := 4, attempts := 3 })) 0; x.st = 1 ∧ x.attempts = 3 ∧ x.step ≤ 4) ∧
    (let x := getStack (tstack (fun x => { x with st := 1, step := 5, attempts := 1 })) 0; x.st = 1 ∧ x.step = 5) ∧
    ((getStack (tstack (fun x => { x with temp := 85 })) 0).temp ≤ 85 ∧ (85 : Int) < 86) ∧
    (let s := tstack (fun x => { x with st := 2 }); (getStack s 0).st = 2 ∧ tblGet 0 (advanceTo s (tblGet 0 s.hbm.tracked 0 + trackPeriod)).hbm.marginAt 0 = 0 ∧
      (350 ≤ 350 ∧ 349 < 350)) ∧
    (let s := tstack (fun x => { x with report := [1] }); (getStack s 0).report ≠ [] ∧ (3 : BitVec 8).toNat ≤ 3 ∧ isReady s 19 = true) ∧
    (isReady State.reset 19 = false ∧ (getStack State.reset 3).st ≠ 1 ∧ 3 < (4 : BitVec 8).toNat) := by
  decide +kernel

/-- TABLE_PARAMS with AGE_TICK_MS 100 and SWEEP_MS 2,000. -/
def tparams : Sec := tsec 576 [(40, toLE 4 100 ++ toLE 4 2000)]
/-- A machine with table-engine state of its own. -/
def ttbl (f : TableState → TableState) : State := { tpt with plan := tplan [(1, tports), (9, tparams), (0xA, tpools), (0x15, tdoms)], table := f tpt.table }
/-- A cache line. -/
def tline : CacheLine := { set := 0, loc := 0, data := [], filled := 3, used := 3 }
/-- A routine. -/
def troutine (revoked : Bool) : Routine := { pass := true, holders := [.engine], revoked := revoked }

theorem witness_TableEngine :
    (recovering (ttbl id) (unitLoc 22 0) = false ∧ isReady (ttbl id) 10 = true ∧ (ttbl (fun t => { t with learn := [{ key := zeros 16, port := 0 }] })).table.learn ≠ []) ∧
    (leAt (tablePre (ttbl id).plan.now) 40 4 ≠ 0 ∧ leAt (tablePre (ttbl id).plan.now) 44 4 ≠ 0 ∧ (ttbl id).table.routines = []) ∧
    ((ttbl (fun t => { t with routines := [troutine false, troutine false, troutine false, troutine false] })).table.routines[3]? = some (troutine false) ∧
      (ttbl (fun t => { t with routines := [troutine true] })).table.routines[0]? = some (troutine true)) ∧
    (ttbl (fun t => { t with cache := [tline] })).table.cache ≠ [] ∧
    (let s := ttbl (fun t => { t with repairs := [5], conf := [(5, zeros 32)] }); s.table.repairs = [5] ∧ tblFind s.table.conf 5 = some (zeros 32)) ∧
    (let s := ttbl (fun t => { t with repairs := [5] }); s.table.repairs = [5] ∧ tblFind s.table.conf 5 = none) ∧ (ttbl id).fault.marks = [] ∧
    (let s := { ttbl (fun t => { t with marked := [1] }) with plan := { tplan [] with old := some (tcopy []) } }; s.plan.old = some (tcopy []) ∧ s.table.marked ≠ []) := by
  decide +kernel

/-- A machine whose thread 0 and its program may use lock group 0, with the locks given. -/
def tlock (l : Table LockSt) : State :=
  let s : State := { tpt with core := { tpt.core with locks := l } }
  modTh s 0 (fun t => { t with running := true, bind := some { epoch := 1, pool := 0, domain := 0, program := 0, first := 0, len := 64, entryPc := 0, lockGroups := 1 } })
/-- A lock operation of thread 0 on lock 63. -/
def tlop (sub : Nat) : LockOp := { tick := 0, tid := 0, entry := 1, sub := sub, lock := 63, off := 0 }
/-- A lock of a thread. -/
def tlk (holder : Nat) (ws : List LockWait := []) : LockSt := { holder := holder, waiters := ws, maxHoldUs := 5 }

theorem witness_LockOperations : (tlock []).fault.marks = [] ∧
    (lockPermitted (tlock []) 0 63 = true ∧ waitsOf (tlock []) 0 < 4 ∧ getLock (tlock []) 63 = none) ∧
    (lockPermitted (tlock [(63, tlk 7)]) 0 63 = true ∧ waitsOf (tlock [(63, tlk 7)]) 0 < 4 ∧ getLock (tlock [(63, tlk 7)]) 63 = some (tlk 7) ∧ (tlk 7).holder ≠ 0) ∧
    (let w : LockWait := { tid := 9, entry := 2, since := 0 }; getLock (tlock [(63, tlk 0 [w])]) 63 = some (tlk 0 [w]) ∧ (tlk 0 [w]).holder = 0 ∧ (tlk 0 [w]).waiters = [w]) ∧
    (getLock (tlock [(63, tlk 0)]) 63 = some (tlk 0) ∧ (tlk 0).waiters = []) ∧ lockPermitted (tlock []) 0 64 = false := by
  decide +kernel

theorem witness_LocksAndKeys : tpt.fault.marks = [] ∧ tpt.core.lockOps = [] ∧
    (∃ g, { tpt with core := { tpt.core with grants := [g] } }.core.grants = [g]) ∧
    (let w : LockWait := { tid := 9, entry := 2, since := 0, maxWaitUs := 10 }; getLock (tlock [(4095, tlk 0 [w])]) 4095 = some (tlk 0 [w]) ∧ firstOverdue (tlk 0 [w]) = some w ∧
      (tlk 0 [w]).maxHoldUs ≠ 0 ∧ (tlk 0 [w]).reported = false) ∧
    (isReady tpt 24 = true ∧ (4095 : BitVec 16).toNat ≤ 4095 ∧ (63 : BitVec 8).toNat ≤ 63 ∧ getLock tpt 4095 = none ∧ getLock (tlock [(4095, tlk 0)]) 4095 = some (tlk 0)) ∧
    (isReady tpt 23 = true ∧ (15 : BitVec 8).toNat ≤ 15 ∧ (7 : BitVec 8).toNat ≤ 7 ∧ twrapped.length = 40 ∧
      tblFind { tpt with svc := { tpt.svc with keks := [(1, zeros 32)] } }.svc.keks 1 = some (zeros 32)) ∧
    (let k : KeyEnt := { domain := 0, use := 1, key := zeros 32 }; getKey { tpt with core := { tpt.core with keys := [(4095, k)] } } 4095 = some k ∧ getKey tpt 4095 = none) ∧
    isReady State.reset 23 = false := by
  refine ⟨by decide +kernel, by decide +kernel, ⟨{ lock := 0, tid := 0, entry := 0, status := 0, since := 0, by_ := 0 }, rfl⟩, by decide +kernel, by decide +kernel,
    by decide +kernel, by decide +kernel, by decide +kernel⟩

/-! ### Skim words -/

theorem witness_IssueRules : (decodeSkim 0 = some .nop ∧ wordRow .nop = some .nop) ∧ (getTh (ton []) (tidNum tid0)).running = false ∧
    (∃ p s1, slotFor (tw 0) 0 = some (p, s1) ∧ (getTh s1 0).block = none ∧ ((getTh s1 0).rprog.isNone && eventTakes s1 0 p) = false ∧
      fetchCode s1 0 = .word 0 ∧ Row.br ≠ skRow (stage3 s1 0 p) 0 0) ∧
    (let s := tw 0x02020005 (fun t => { t with sb := [{ id := 1, names := [.reg .a], op := .block, issued := 0, due := none }] })
     ∃ p s1 x, slotFor s 0 = some (p, s1) ∧ (getTh s1 0).block = none ∧ ((getTh s1 0).rprog.isNone && eventTakes s1 0 p) = false ∧
      fetchCode s1 0 = .word 0x02020005 ∧ decodeSkim 0x02020005 = some x ∧ scoreboardStops (getTh s1 0) (skUses (stage3 s1 0 p) 0 x) = true) ∧
    (∃ p s1, slotFor (tw 0x7E000000) 0 = some (p, s1) ∧ fetchCode s1 0 = .word 0x7E000000 ∧ decodeSkim 0x7E000000 = none) ∧
    (∃ p s1, slotFor (tw 0 (fun t => { t with pc := 64 })) 0 = some (p, s1) ∧ fetchCode s1 0 = .code ∧ (getTh s1 0).mode = false) ∧
    (loopEndsAt (getTh (tw 0) 0) 0 4 = false ∧ (getTh (tw 0) 0).flow = .plain) ∧
    (getTh (tw 0 (fun t => { t with flow := .slot 0 (some 8) 1 })) 0).flow = .slot 0 (some 8) 1 ∧
    (let t := getTh (tw 0 (fun t => { t with lc := 2, loopFirst := 0, loopLast := 4, loopValid := true })) 0
     t.flow = .plain ∧ loopEndsAt t 0 4 = true ∧ 1 < t.lc ∧ t.loopFirst < 2 ^ 24) := by
  refine ⟨by decide, by decide +kernel, ⟨_, _, rfl, by decide +kernel, by decide +kernel, by decide +kernel, by decide +kernel⟩,
    ⟨_, _, _, rfl, by decide +kernel, by decide +kernel, by decide +kernel, rfl, by decide +kernel⟩, ⟨_, _, rfl, by decide +kernel, by decide +kernel⟩,
    ⟨_, _, rfl, by decide +kernel, by decide +kernel⟩, by decide +kernel, by decide +kernel, by decide +kernel⟩

theorem witness_AluFlags : (∃ q f, aluRun 0 1 2 true = (some q, some f)) ∧ (64 : BitVec 64).toNat % 64 = 0 ∧ 0 < (63 : BitVec 64).toNat % 64 ∧ 4 ≤ 7 ∧ 11 ≤ 13 := by
  exact ⟨⟨_, _, rfl⟩, by decide⟩

/-- What an ALU word answers: a value, flags. -/
def tans (t : Thread) (fn d sk src imm : Nat) : Bool × Bool := let o := aluRun fn (getReg t (regD d)) (aluSource t sk src imm) t.fc; (o.1.isSome, o.2.isSome)

theorem witness_AluWords :
    SkimWit (tw 0x02020005) .alu (.alu 0 0 1 0 5) (fun _ v _ => tans (getTh v 0) 0 0 1 0 5 == (true, true)) ∧
    SkimWit (tw 0x03020005) .alu (.alu 8 0 1 0 5) (fun _ v _ => tans (getTh v 0) 8 0 1 0 5 == (true, false)) ∧
    SkimWit (tw 0x033A0005) .alu (.alu 9 3 1 0 5) (fun _ v _ => tans (getTh v 0) 9 3 1 0 5 == (false, true)) ∧
    SkimWit (tw 0x0408FFFF) .insh (.insh 1 65535) tany ∧
    SkimWit (tw 0xA4810000) .paired (.paired (.alu 0 0 (some 1) 0) .nop) (fun _ _ _ => (halfBad (.alu 0 0 (some 1) 0)).isNone && (halfBad .nop).isNone) ∧
    SkimWit (tw 0x1F0B0000) .mfs (.mfs 2 11) tany ∧ SkimWit (tw 0x20000000) .mts (.mts 0 0) tany ∧
    SkimWit (tw 0x23100000) .fmov (.fmov true 2) tany ∧ SkimWit (tw 0x22000000) .fmov (.fmov false 0) tany :=
  ⟨skimCheck_due (w := 0x02020005) (by decide +kernel), skimCheck_due (w := 0x03020005) (by decide +kernel), skimCheck_due (w := 0x033A0005) (by decide +kernel),
    skimCheck_due (w := 0x0408FFFF) (by decide +kernel), skimCheck_due (w := 0xA4810000) (by decide +kernel), skimCheck_due (w := 0x1F0B0000) (by decide +kernel),
    skimCheck_due (w := 0x20000000) (by decide +kernel), skimCheck_due (w := 0x23100000) (by decide +kernel), skimCheck_due (w := 0x22000000) (by decide +kernel)⟩

/-- Where an access lands: 0 bank 0, 1 the own cluster, 2 beyond, 3 refused. -/
def tplace (e : Except Exc Place) : Nat :=
  match e with
  | .ok (.priv _) => 0
  | .ok (.own _) => 1
  | .ok (.far _) => 2
  | .error _ => 3
/-- The place of a Format M access of thread 0. -/
def tacc (v : State) (size am disp : Nat) (z0 wr : Bool) : Nat :=
  tplace (resolveBank v 0 (memBank (getTh v 0) z0) (memOffset (getTh v 0) am (2 ^ size) disp) (2 ^ size) wr)
/-- A thread whose B names a bank. -/
def tb (n : Nat) (t : Thread) : Thread := { t with b := BitVec.ofNat 8 n }

theorem witness_MemoryWords :
    SkimWit (tw 0x06610008) .ld (.ld 0 3 0 false false true 8) (fun _ v _ => tacc v 3 0 8 true false == 0) ∧
    SkimWit (tw 0x06600008 (tb 1)) .ld (.ld 0 3 0 false false false 8) (fun _ v _ => tacc v 3 0 8 false false == 1) ∧
    SkimWit (tw 0x06600008 (tb 2)) .ld (.ld 0 3 0 false false false 8) (fun _ v _ => tacc v 3 0 8 false false == 2) ∧
    SkimWit (tw 0x06600008 (tb 3)) .ld (.ld 0 3 0 false false false 8) (fun _ v _ => tacc v 3 0 8 false false == 3) ∧
    SkimWit (tw 0x08610008) .st (.st 0 3 0 false true 8) (fun _ v _ => tacc v 3 0 8 true true == 0) ∧
    SkimWit (tw 0x08600008 (tb 1)) .st (.st 0 3 0 false false 8) (fun _ v _ => tacc v 3 0 8 false true == 1) ∧
    SkimWit (tw 0x08600008 (tb 2)) .st (.st 0 3 0 false false 8) (fun _ v _ => tacc v 3 0 8 false true == 2) ∧
    SkimWit (tw 0x08600008 (tb 3)) .st (.st 0 3 0 false false 8) (fun _ v _ => tacc v 3 0 8 false true == 3) ∧
    SkimWit (tw 0x0A000008 (tb 1)) .tas (.tas 0 0 false 8) (fun _ v _ => tacc v 0 0 8 false true == 1 && tacc v 0 0 8 false false == 1) ∧
    SkimWit (tw 0x0A010008) .tas (.tas 0 0 true 8) (fun _ v _ => tacc v 0 0 8 true true == 0 && tacc v 0 0 8 true false == 0) :=
  ⟨skimCheck_due (w := 0x06610008) (by decide +kernel), skimCheck_due (w := 0x06600008) (by decide +kernel), skimCheck_due (w := 0x06600008) (by decide +kernel),
    skimCheck_due (w := 0x06600008) (by decide +kernel), skimCheck_due (w := 0x08610008) (by decide +kernel), skimCheck_due (w := 0x08600008) (by decide +kernel),
    skimCheck_due (w := 0x08600008) (by decide +kernel), skimCheck_due (w := 0x08600008) (by decide +kernel), skimCheck_due (w := 0x0A000008) (by decide +kernel),
    skimCheck_due (w := 0x0A010008) (by decide +kernel)⟩

theorem witness_ControlWords :
    SkimWit (tw 0) .nop .nop tany ∧ SkimWit (tw 0x0C010001) .loop (.loop 0 1 1) tany ∧ SkimWit (tw 0x0C010000) .loop (.loop 0 1 0) tany ∧
    SkimWit (tw 0x0C810000) .loop (.loop 1 1 0) (fun _ _ u => (getReg (getTh u 0) (regA 0)).toNat % 65536 == 0) ∧
    SkimWit (tw 0x0E00FFFF) .setlc (.setlc 65535) tany ∧ SkimWit (tw 0x101FFFFF) .br (.br 0 (-1)) tany ∧ SkimWit (tw 0x12000002) .bal (.bal 2) tany ∧
    SkimWit (tw 0x14800000) .jr (.jr 1) tany ∧ SkimWit (tw 0x17000000) .mode (.mode true) tany ∧
    SkimWit (tw 0x18000000) .fence .fence (fun _ _ u => (getTh u 0).pend.isEmpty && (getCl u 0).ops.isEmpty) ∧
    SkimWit (tw 0x1A000000) .trap .trap tany ∧ SkimWit (tw 0x1C000000 (fun t => { t with ex := true })) .retx .retx (fun _ _ u => (getTh u 0).ex) ∧
    SkimWit (tw 0x1C000000) .retx .retx (fun _ _ u => !(getTh u 0).ex) :=
  ⟨skimCheck_due (w := 0) (by decide +kernel), skimCheck_due (w := 0x0C010001) (by decide +kernel), skimCheck_due (w := 0x0C010000) (by decide +kernel),
    skimCheck_due (w := 0x0C810000) (by decide +kernel), skimCheck_due (w := 0x0E00FFFF) (by decide +kernel), skimCheck_due (w := 0x101FFFFF) (by decide +kernel),
    skimCheck_due (w := 0x12000002) (by decide +kernel), skimCheck_due (w := 0x14800000) (by decide +kernel), skimCheck_due (w := 0x17000000) (by decide +kernel),
    skimCheck_due (w := 0x18000000) (by decide +kernel), skimCheck_due (w := 0x1A000000) (by decide +kernel), skimCheck_due (w := 0x1C000000) (by decide +kernel),
    skimCheck_due (w := 0x1C000000) (by decide +kernel)⟩

/-- SLOT_TABLES in which core 0 has 16 threads, and register 0 of cluster 0 belongs to domain 2. -/
def tslots : Sec := tsec (208 * 64) [(0, [1, 0, 0, 0, 0, 0, 0, 0, 2]), (1024, [2, 0, 0, 16])]
/-- DISPATCH with pool 0 of thread 0 and a chain of two coats over it. -/
def tchain : Sec := tsec 128 [(0, [1, 0, 0, 0, 0, 0, 16, 0, 1]), (64, [2, 2]), (72, [0, 0, 1]), (88, [1, 0, 1])]
/-- A machine with a thread word of code `sub` due. -/
def tthr (sub o1 o2 : Nat) (f : Thread → Thread := id) (secs : Table Sec := []) : State := tw (0x12 * 2 ^ 25 + sub * 2 ^ 21 + o1 * 2 ^ 11 + o2 * 2) f secs
/-- The same with timers in the cluster. -/
def ttim (sub : Nat) (ts : List TimerEnt) : State := modCl (tthr sub 0 0) 0 (fun k => { k with timers := ts })
/-- A full shadow. -/
def tshadow : Shadow := { item := titm, win := zeros 256, md := zeros 64, work := zeros 64 }

theorem witness_ThreadWords :
    SkimWit (tthr 0 0 0 (fun t => { t with shadow := some tshadow })) .next (.thr 0 0 0 false) (fun c _ u => ((getTh u 0).bind.map (·.service)).getD false == false &&
      (evfAt u 0 c.p).testBit 0 && !(nextSwap u 0 c.p).1) ∧
    SkimWit (tthr 0 0 0) .next (.thr 0 0 0 false) (fun c _ u => !(evfAt u 0 c.p).testBit 0) ∧
    SkimWit (tthr 1 0 0 (fun t => { t with evf := 2, evm := 2 })) .wait (.thr 1 0 0 false) (fun c _ u => armedAt u 0 c.p != 0) ∧
    SkimWit (tthr 1 0 0) .wait (.thr 1 0 0 false) (fun c _ u => armedAt u 0 c.p == 0) ∧
    SkimWit (tthr 2 0 0 id [(0xE, tslots)]) .sleep (.thr 2 0 0 false) (fun _ _ u => !(getTh u 0).sleeping && decide ((getCl u 0).timers.length < 512) && blocks u 0) ∧
    SkimWit (tthr 2 0 0) .sleep (.thr 2 0 0 false) (fun _ _ u => !(getTh u 0).sleeping && decide ((getCl u 0).timers.length < 512) && !blocks u 0) ∧
    SkimWit (ttim 2 (List.replicate 512 { tid := 1, tag := 0, deadline := 9 })) .sleep (.thr 2 0 0 false)
      (fun _ _ u => !(getTh u 0).sleeping && decide (512 ≤ (getCl u 0).timers.length)) ∧
    SkimWit (tthr 3 0 0 (fun t => { t with item := some titm }) [(0xF, tchain)]) .pass (.thr 3 0 0 false) (fun _ v u => (areaBad 0 2).isNone &&
      (getTh v 0).item == some titm && decide (titm.coat + 1 < (chainCoats (u.plan.of titm.epoch) titm.chain).length) && !passBusy u (passedItem (getTh v 0) titm) &&
      (changedWords (getTh v 0)).isEmpty) ∧
    SkimWit (tthr 4 7 1) .chsend (.thr 4 7 1 false) (fun _ _ _ => (areaBad 1 2).isNone) ∧
    SkimWit (tthr 5 0 0 (fun t => { t with chans := [(0, [(7, none)])] })) .chrecv (.thr 5 0 0 false) (fun c _ u => (evfAt u 0 c.p).testBit 5) ∧
    SkimWit (tthr 5 7 0 id [(0xE, tslots)]) .chrecv (.thr 5 7 0 false) (fun c _ u => !(evfAt u 0 c.p).testBit 12 && blocks u 0) ∧
    SkimWit (tthr 5 7 0) .chrecv (.thr 5 7 0 false) (fun c _ u => !(evfAt u 0 c.p).testBit 12 && !blocks u 0) ∧
    SkimWit (tthr 6 4 1) .signal (.thr 6 4 1 false) (fun _ _ _ => (areaBad 1 2).isNone) ∧ SkimWit (tthr 7 0 1) .tmrset (.thr 7 0 1 false) tany ∧
    SkimWit (tthr 8 0 1) .tmrcan (.thr 8 0 1 false) tany ∧
    SkimWit (ttim 9 [{ tid := 0, tag := 5, deadline := 0, due := true }]) .tmrpop (.thr 9 0 0 false) (fun c _ u => (firstDue u 0 c.p).isSome) ∧
    SkimWit (tthr 9 0 0) .tmrpop (.thr 9 0 0 false) (fun c _ u => (firstDue u 0 c.p).isNone) ∧
    SkimWit (tw 0x2600003F) .srld (.sr 0 0 63) (fun _ v u => domainsMeet (threadDomain (getTh v 0)) (shregDomain (planOfTh u (getTh v 0)) 0 63)) ∧
    SkimWit (tw 0x2620003F) .srst (.sr 1 0 63) tany ∧ SkimWit (tw 0x2640003F) .sradd (.sr 2 0 63) tany ∧ SkimWit (tw 0x2660003F) .srswap (.sr 3 0 63) tany ∧
    SkimWit (tw 0x26200000 id [(0xE, tslots)]) .srst (.sr 1 0 0) (fun _ v u => !domainsMeet (threadDomain (getTh v 0)) (shregDomain (planOfTh u (getTh v 0)) 0 0)) := by
  refine ⟨?_, ?_, ?_, ?_, ?_, ?_, ?_, ?_, ?_, ?_, ?_, ?_, ?_, ?_, ?_, ?_, ?_, ?_, ?_, ?_, ?_, ?_⟩
  · exact skimCheck_due (w := 0x24000000) (by decide +kernel)
  · exact skimCheck_due (w := 0x24000000) (by decide +kernel)
  · exact skimCheck_due (w := 0x24200000) (by decide +kernel)
  · exact skimCheck_due (w := 0x24200000) (by decide +kernel)
  · exact skimCheck_due (w := 0x24400000) (by decide +kernel)
  · exact skimCheck_due (w := 0x24400000) (by decide +kernel)
  · exact skimCheck_due (w := 0x24400000) (by decide +kernel)
  · exact skimCheck_due (w := 0x24600000) (by decide +kernel)
  · exact skimCheck_due (w := 0x24803802) (by decide +kernel)
  · exact skimCheck_due (w := 0x24A00000) (by decide +kernel)
  · exact skimCheck_due (w := 0x24A03800) (by decide +kernel)
  · exact skimCheck_due (w := 0x24A03800) (by decide +kernel)
  · exact skimCheck_due (w := 0x24C02002) (by decide +kernel)
  · exact skimCheck_due (w := 0x24E00002) (by decide +kernel)
  · exact skimCheck_due (w := 0x25000002) (by decide +kernel)
  · exact skimCheck_due (w := 0x25200000) (by decide +kernel)
  · exact skimCheck_due (w := 0x25200000) (by decide +kernel)
  · exact skimCheck_due (w := 0x2600003F) (by decide +kernel)
  · exact skimCheck_due (w := 0x2620003F) (by decide +kernel)
  · exact skimCheck_due (w := 0x2640003F) (by decide +kernel)
  · exact skimCheck_due (w := 0x2660003F) (by decide +kernel)
  · exact skimCheck_due (w := 0x26200000) (by decide +kernel)

/-! ### Table commands, long words and coprocessor words -/

/-- A record of a table command. -/
def tcmd (op : Nat) (start : Nat := 0) : Bytes := toLE 2 op ++ zeros 2 ++ toLE 4 start ++ zeros 56
/-- A machine whose thread 0 has a table command due, its record at 0 and its result at 64. -/
def ttcmd (op : Nat) : State := tw 0x30000010 (fun t => { t with mem := tcells 0 (tcmd op) })

/-- Whether a routine command ends at once. -/
def tends (s : State) (pass : Bool) (cmd : Bytes) : Bool := (cmdRoutine s pass (.mailbox 0) 0 cmd).1.isSome

theorem tcmd_due (op : Nat) (h : skimCheck (ttcmd op) (.tcmd op) 0x30000010 (.tcmd 0 8) (fun _ _ _ => (areaBad 0 64).isNone && (areaBad 8 64).isNone) = true) :
    ∃ c v u, TcmdDue (ttcmd op) tid0 op 0 8 c v u := by
  obtain ⟨c, v, u, hd, hp⟩ := skimCheck_due h
  simp only [Bool.and_eq_true, Option.isNone_iff_eq_none] at hp
  exact ⟨c, v, u, hd, hp.1, hp.2⟩

theorem witness_TableCommands : isReady (ttbl id) 10 = true ∧ isReady State.reset 10 = false ∧
    (∀ op ∈ [1, 2, 3, 4, 5, 6, 7], leAt (tcmd op) 0 2 = op ∧ (tcmd op).length = 64 ∧ byteAt (tcmd op) 3 / 32 = 0 ∧ allZero (slice (tcmd op) 9 3) = true ∧
      allZero (slice (tcmd op) 20 12) = true ∧ byteAt (tcmd op) 2 ≤ 15) ∧
    (tends (ttbl id) false (tcmd 5) = false ∧ tends (ttbl id) true (tcmd 7) = false ∧ tends (ttbl id) false (tcmd 5 (2 ^ 25)) = true ∧ tends (ttbl id) true (tcmd 7 (2 ^ 25)) = true) ∧
    leAt (tcmd 2) 0 2 ≠ 1 ∧
    ((∃ c v u, TcmdDue (ttcmd 1) tid0 1 0 8 c v u) ∧ (∃ c v u, TcmdDue (ttcmd 2) tid0 2 0 8 c v u) ∧ (∃ c v u, TcmdDue (ttcmd 3) tid0 3 0 8 c v u) ∧
      (∃ c v u, TcmdDue (ttcmd 4) tid0 4 0 8 c v u) ∧ (∃ c v u, TcmdDue (ttcmd 5) tid0 5 0 8 c v u) ∧ (∃ c v u, TcmdDue (ttcmd 6) tid0 6 0 8 c v u) ∧
      (∃ c v u, TcmdDue (ttcmd 7) tid0 7 0 8 c v u) ∧ (∃ c v u, TcmdDue (ttcmd 8) tid0 8 0 8 c v u)) := by
  refine ⟨by decide +kernel, by decide +kernel, by decide +kernel, by decide +kernel, by decide +kernel,
    tcmd_due 1 (by decide +kernel), tcmd_due 2 (by decide +kernel), tcmd_due 3 (by decide +kernel), tcmd_due 4 (by decide +kernel), tcmd_due 5 (by decide +kernel),
    tcmd_due 6 (by decide +kernel), tcmd_due 7 (by decide +kernel), tcmd_due 8 (by decide +kernel)⟩

/-- A thread with an item. -/
def titem0 (t : Thread) : Thread := { t with item := some titm }

theorem witness_LongWords :
    SkimWit (tw 0x28000008) .lookup (.lookup 0 4) (fun _ _ u => (areaBad 0 32).isNone && (areaBad 4 48).isNone && !epochRetired u (getTh u 0)) ∧
    SkimWit (tw 0x2A000000 titem0) .learn (.learn 0) (fun _ _ u => (areaBad 0 19).isNone && (getTh u 0).item == some titm) ∧
    SkimWit (tw 0x2C000000) .bufAlloc (.buf 0 0 0) (fun _ _ _ => (areaBad 0 8).isNone) ∧
    SkimWit (tw 0x2C200000) .bufHold (.buf 1 0 0) tany ∧ SkimWit (tw 0x2C400000) .bufRelease (.buf 2 0 0) tany ∧
    SkimWit (tw 0x2E000008 titem0) .egressPost (.epost false false 0 4) (fun _ _ u => (areaBad 0 32).isNone && (areaBad 4 2).isNone && (getTh u 0).item == some titm && !titm.done) ∧
    SkimWit (tw 0x32000000) .acquire (.lock 0 0 0) tany ∧ SkimWit (tw 0x32200000) .try_ (.lock 1 0 0) tany ∧
    SkimWit (tw 0x32400000) .release (.lock 2 0 0) tany ∧ SkimWit (tw 0x32600000) .force (.lock 3 0 0) tany ∧
    SkimWit (tw 0x2C0007FE) .bufAlloc (.buf 0 0 1023) (fun _ _ _ => (areaBad 1023 8).isSome) := by
  refine ⟨?_, ?_, ?_, ?_, ?_, ?_, ?_, ?_, ?_, ?_, ?_⟩
  · exact skimCheck_due (w := 0x28000008) (by decide +kernel)
  · exact skimCheck_due (w := 0x2A000000) (by decide +kernel)
  · exact skimCheck_due (w := 0x2C000000) (by decide +kernel)
  · exact skimCheck_due (w := 0x2C200000) (by decide +kernel)
  · exact skimCheck_due (w := 0x2C400000) (by decide +kernel)
  · exact skimCheck_due (w := 0x2E000008) (by decide +kernel)
  · exact skimCheck_due (w := 0x32000000) (by decide +kernel)
  · exact skimCheck_due (w := 0x32200000) (by decide +kernel)
  · exact skimCheck_due (w := 0x32400000) (by decide +kernel)
  · exact skimCheck_due (w := 0x32600000) (by decide +kernel)
  · exact skimCheck_due (w := 0x2C0007FE) (by decide +kernel)

/-- Thread 0 may claim unit `k`, which holds no bad register. -/
def tclaims (k : Nat) (_ : Ctx) (_ u : State) : Bool :=
  match copClaim u 0 k with
  | .ok w => (copMarks w 0 k).isEmpty
  | .error _ => false
/-- A machine whose Scrim of core 0 has an owner. -/
def towned (w o : Nat) : State := let s := tw w; { s with core := { s.core with copros := [(0, { owner := some o })] } }

theorem witness_CoprocessorWords :
    copArgs 0 0x03 ≠ some 0xFFFF ∧ SkimWit (tw 0x34030001) .cop (.cop 0 0x03 1) (tclaims 0) ∧
    SkimWit (tw 0x37800000) .cmov (.cmov 1 true 0 0) (tclaims 1) ∧ SkimWit (tw 0x360E0000) .cmov (.cmov 0 false 0 7) (tclaims 0) ∧
    SkimWit (tw 0x38800000) .crestore (.cstate 0 true 0) (fun c v u => tclaims 0 c v u && (areaBad 0 (contextLen 0)).isNone) ∧
    SkimWit (towned 0x38000000 0) .csave (.cstate 0 false 0) (fun _ _ u => (getCop u 0 0).owner == some 0 && (copMarks u 0 0).isEmpty && (areaBad 0 (contextLen 0)).isNone) ∧
    SkimWit (towned 0x36800000 5) .cmov (.cmov 0 true 0 0) (fun _ _ u => (getCop u 0 0).owner == some 5) := by
  refine ⟨by decide, ?_, ?_, ?_, ?_, ?_, ?_⟩
  · exact skimCheck_due (w := 0x34030001) (by decide +kernel)
  · exact skimCheck_due (w := 0x37800000) (by decide +kernel)
  · exact skimCheck_due (w := 0x360E0000) (by decide +kernel)
  · exact skimCheck_due (w := 0x38800000) (by decide +kernel)
  · exact skimCheck_due (w := 0x38000000) (by decide +kernel)
  · exact skimCheck_due (w := 0x36800000) (by decide +kernel)

/-! ### Render instructions -/

theorem witness_RenderControl :
    RenderWit (tr [0]) .nop .nop tany ∧ RenderWit (tr [0x6000, 0xFFFF]) .br (.br 0 (-1)) tany ∧ RenderWit (tr [0x6400, 2]) .bal (.bal 2) tany ∧
    RenderWit (tr [0x6900]) .jr (.jr 1) tany ∧ RenderWit (tr [0x6C01, 1]) .loop (.loop 0 1 1) tany ∧ RenderWit (tr [0x6C01, 0]) .loop (.loop 0 1 0) tany ∧
    RenderWit (tr [0x7000, 0xFFFF]) .setlc (.setlc 0 65535) tany ∧ RenderWit (tr [0xC000, 0, 0x1800]) .skw (.skw 0x18000000) (fun _ _ _ => decodeSkim 0x18000000 == some .fence) := by
  refine ⟨?_, ?_, ?_, ?_, ?_, ?_, ?_, ?_⟩ <;> exact renderCheck_due (by decide +kernel)

/-- A G-layout opcode with operands of 8 bytes. -/
def tgop (op : Nat) (tri nf : Bool := false) : GOp := { op := op, size := 8, be := false, sx := false, tri := tri, nf := nf }
/-- A register or immediate operand, within a line, with what an ALU function answers for it. -/
def tplain (sp : Spec) (d : Nat) (o : Nat) (c : Ctx) (v _ : State) : Bool :=
  !crossesLine c && (plainOperand (getTh v 0) sp).isSome &&
    (if 0x02 ≤ o ∧ o ≤ 0x0D then (let r := aluRun (aluFnOf o) (regVal (getTh v 0) d) 5 (getTh v 0).fc; r.1.isSome && r.2.isSome) else true)

theorem witness_RenderComputations :
    RenderWit (tr [0x0700, 0x0000, 0x1005]) .mov (.g (tgop 0x01) [.reg 0, .imm 5]) (tplain (.imm 5) 0 0x01) ∧
    RenderWit (tr [0x3F00, 0x0000, 0x0100]) .bswap (.g (tgop 0x0F) [.reg 0, .reg 1]) (tplain (.reg 1) 0 0x0F) ∧
    RenderWit (tr [0x3B00, 0x0F00, 0x1005]) .mul (.g (tgop 0x0E) [.reg 15, .imm 5]) (tplain (.imm 5) 15 0x0E) ∧
    RenderWit (tr [0x0B00, 0x0400, 0x1005]) .alu (.g (tgop 0x02) [.reg 4, .imm 5]) (tplain (.imm 5) 4 0x02) ∧
    RenderWit (tr [0x0B10, 0x0000, 0x1005]) .alu (.g (tgop 0x02 false true) [.reg 0, .imm 5]) (tplain (.imm 5) 0 0x02) ∧
    RenderWit (tr [0x3700, 0x0000, 0x1005]) .alu (.g (tgop 0x0D) [.reg 0, .imm 5]) (tplain (.imm 5) 0 0x0D) ∧
    RenderWit (tr [0x4300, 0x0000, 0x1005]) .cmp (.g (tgop 0x10) [.reg 0, .imm 5]) (tplain (.imm 5) 0 0x10) ∧
    RenderWit (tr [0x4700, 0x0000, 0x1005]) .tst (.g (tgop 0x11) [.reg 0, .imm 5]) (tplain (.imm 5) 0 0x11) ∧
    RenderWit (tr [0x0B20, 0x0000, 0x0100, 0x1005]) .alu (.g (tgop 0x02 true) [.reg 0, .reg 1, .imm 5]) (tplain (.imm 5) 1 0x02) := by
  refine ⟨?_, ?_, ?_, ?_, ?_, ?_, ?_, ?_, ?_⟩ <;> exact renderCheck_due (by decide +kernel)

theorem witness_RenderMemory :
    RenderWit (tr [0x4B00, 0x0000, 0x7100]) .lea (.g (tgop 0x12) [.reg 0, .ptr 1 none 0]) (fun c _ _ => !crossesLine c) ∧
    RenderWit (tr [0x0700, 0x0000, 0x3000, 0x0FF8]) .mov (.g (tgop 0x01) [.reg 0, .bank0 0xFF8]) tany ∧
    RenderWit (tr [0x0700, 0x3000, 0x0010, 0x0000]) .mov (.g (tgop 0x01) [.bank0 0x10, .reg 0]) tany ∧
    RenderWit (tr [0x4F00, 0x0000, 0x6000, 0x40, 0, 0x10]) .lr (.g (tgop 0x13) [.reg 0, .abs 0x1000000040]) (fun _ v _ => isOwn 0 (false, 0x1000000040) &&
      tplace (resolvePtr v 0 0x1000000040 8 false) == 1) ∧
    RenderWit (tr [0x5300, 0x6000, 0x40, 0, 0x10, 0x0000]) .sc (.g (tgop 0x14) [.abs 0x1000000040, .reg 0]) (fun _ v _ => isOwn 0 (false, 0x1000000040) &&
      tplace (resolvePtr v 0 0x1000000040 8 true) == 1) := by
  refine ⟨?_, ?_, ?_, ?_, ?_⟩ <;> exact renderCheck_due (by decide +kernel)

/-- Two items in LC, P0 and P1 in the own cluster's memory. -/
def tptrs (t : Thread) : Thread := { t with lc := 2, p := [(0, 0x1000000000), (1, 0x1000000100)] }
/-- A block of the operation given runs, its first element in flight. -/
def tblock (op : Nat) : Block := { op := op, pd := 0, ps := 1, fn := false, requested := 1, total := 2, inflight := [{ k := 0, due := some 20 }], entry := 1 }
/-- Nothing is wrong with a block of two items. -/
def tgood (op pd ps : Nat) (_ : Ctx) (v u : State) : Bool := (getTh u 0).lc != 0 && (blockBad v 0 op pd ps (getTh u 0).lc).isNone

theorem witness_BlockInstructions :
    RenderWit (tr [0x8010]) .bmove (.block 0x20 0 1 false) (fun _ _ u => (getTh u 0).lc == 0) ∧ RenderWit (tr [0x8400]) .bfill (.block 0x21 0 0 false) (fun _ _ u => (getTh u 0).lc == 0) ∧
    RenderWit (tr [0x8810]) .bcmp (.block 0x22 0 1 false) (fun _ _ u => (getTh u 0).lc == 0) ∧ RenderWit (tr [0x8C10]) .bsum (.block 0x23 0 1 false) (fun _ _ u => (getTh u 0).lc == 0) ∧
    RenderWit (tr [0x9010]) .bscan (.block 0x24 0 1 false) (fun _ _ u => (getTh u 0).lc == 0) ∧
    RenderWit (tr [0x8010] tptrs) .bmove (.block 0x20 0 1 false) (tgood 0x20 0 1) ∧ RenderWit (tr [0x8400] tptrs) .bfill (.block 0x21 0 0 false) (tgood 0x21 0 0) ∧
    RenderWit (tr [0x8810] tptrs) .bcmp (.block 0x22 0 1 false) (tgood 0x22 0 1) ∧ RenderWit (tr [0x8C10] tptrs) .bsum (.block 0x23 0 1 false) (tgood 0x23 0 1) ∧
    RenderWit (tr [0x9010] tptrs) .bscan (.block 0x24 0 1 false) (tgood 0x24 0 1) ∧
    (∀ op ∈ [0x20, 0x21, 0x22, 0x23, 0x24], (slotFor (tr [0x8010] (fun t => { t with block := some (tblock op) })) 0).map (fun x => (getTh x.2 0).block) = some (some (tblock op))) ∧
    (let s := tr [0x8010] (fun t => { t with block := some (tblock 0x20) }); (getTh s 0).block = some (tblock 0x20) ∧ (tblock 0x20).stop = false ∧
      (tblock 0x20).inflight = [{ k := 0, due := some 20 }] ∧ (tblock 0x20).op ≠ 0x21 ∧ (tblock 0x20).pd ≠ (tblock 0x20).ps) := by
  refine ⟨?_, ?_, ?_, ?_, ?_, ?_, ?_, ?_, ?_, ?_, by decide +kernel, by decide +kernel⟩ <;> exact renderCheck_due (by decide +kernel)

/-! ### Exceptions, completions, wakes and code lines -/

/-- Thread 0 with a handler for events, enabled, and a flag 18 that is set and armed. -/
def tev (t : Thread) : Thread := { t with nextAt := 1, ie := true, evf := 2 ^ 18, evm := 2 ^ 18, setAt := [] }

theorem witness_ExceptionEntry :
    (let t := getTh (tw 0) 0; ∃ b, t.bind = some b ∧ t.ex = false ∧ b.excPc ≠ 0xFFFFFFFF ∧ t.flow = .plain) ∧
    (excIllegal.cause ≠ 1 ∧ excIllegal.cause ≠ 2 ∧ ({ cause := 1 } : Exc).cause = 1 ∧ ({ cause := 2 } : Exc).cause = 2) ∧
    (getTh (tw 0 (fun t => { t with ex := true })) 0).ex = true ∧
    (∃ p s1, 0 = tidNum tid0 ∧ slotFor (tw 0 tev) 0 = some (p, s1) ∧ (getTh s1 0).block = none ∧ (getTh s1 0).rprog = none ∧ eventTakes s1 0 p = true) ∧
    (∃ p s1, 0 = tidNum tid0 ∧ slotFor (tw 0) 0 = some (p, s1) ∧ (getTh s1 0).block = none ∧ eventTakes s1 0 p = false) := by
  refine ⟨⟨_, rfl, by decide +kernel⟩, by decide, by decide +kernel, ⟨_, _, by decide, rfl, by decide +kernel⟩, ⟨_, _, by decide, rfl, by decide +kernel⟩⟩

/-- A load of thread 0 with the parts that have come back, one asked for. -/
def tld (parts : List (Nat × Nat × Bytes)) : SbEntry :=
  { id := 3, names := [.reg .a], op := .load 0x40 { size := 8 } .a, issued := 0, due := none, parts := parts }
/-- A result that is decided. -/
def tresult (flag : Option Nat) : SbEntry := { id := 3, names := [], op := .result 0x10 [1] flag none, issued := 0, due := none }
/-- A machine whose thread 0 has one scoreboard entry. -/
def tsb (e : SbEntry) : State := tw 0 (fun t => { t with sb := [e] })
/-- A machine whose thread 0 has posted stores. -/
def tposted (xs : List PostedStore) : State := tw 0 (fun t => { t with stores := xs })
/-- A posted store, performed. -/
def tpx (seq : Nat) : PostedStore := { addr := 0x40, data := [1], seq := seq, issued := 0, done := [stOk] }
/-- A machine whose cluster 0 holds one delay-list entry of thread 0. -/
def tdelay (e : TimerEnt) (f : Thread → Thread := id) : State := modCl (tw 0 f) 0 (fun c => { c with timers := [e] })

theorem witness_CompletionsAndWakes :
    (∃ d x, (getTh (tsb (tld [(0x40, stOk, zeros 8)])) 0).sb.find? (fun e => e.id == 3) = some (tld [(0x40, stOk, zeros 8)]) ∧
      loadOutcome (tsb (tld [(0x40, stOk, zeros 8)])) 0 (tld [(0x40, stOk, zeros 8)]) 0x40 8 0 = some (stOk, d, x)) ∧
    (∃ d x, loadOutcome (tsb (tld [(0x40, eParity, [])])) 0 (tld [(0x40, eParity, [])]) 0x40 8 0 = some (eParity, d, x) ∧ eParity ≠ stOk) ∧
    loadOutcome (tsb (tld [])) 0 (tld []) 0x40 8 0 = none ∧
    ((getTh (tsb (tresult none)) 0).sb.find? (fun e => e.id == 3) = some (tresult none) ∧ (tresult none).op = .result 0x10 [1] none none ∧
      (tresult (some 4)).op = .result 0x10 [1] (some 4) none) ∧
    (getTh (tw 0) 0).sb.find? (fun e => e.id == 16) = none ∧
    (∃ y, (getTh (tposted [tpx 1]) 0).stores[0]? = some (tpx 1) ∧ storeOutcome (tposted [tpx 1]) 0 (tpx 1) = some (stOk, y) ∧
      (getTh (modTh y 0 (fun t => { t with stores := t.stores.filter (fun z => z.seq ≠ 1) })) 0).stores = []) ∧
    (∃ y, storeOutcome (tposted [tpx 1, tpx 2]) 0 (tpx 1) = some (stOk, y) ∧
      (getTh (modTh y 0 (fun t => { t with stores := t.stores.filter (fun z => z.seq ≠ 1) })) 0).stores ≠ []) ∧
    (getTh (tw 0) 0).stores[(31 : Fin 32).val]? = none ∧
    (let s := tw 0 (fun t => tev { t with wait := .event }); (getTh s 0).wait = .event ∧ armedAt s 0 (s.now + 1) ≠ 0) ∧
    (let s := tw 0 (fun t => { t with wait := .event }); (getTh s 0).wait = .event ∧ armedAt s 0 (s.now + 1) = 0) ∧
    (let t := getTh (tw 0 (fun t => { t with wait := .work, shadow := some { item := titm, win := [], md := [], work := [] } })) 0;
      t.wait = .work ∧ t.shadow.isSome = true) ∧
    (let t := getTh (tw 0 (fun t => { t with wait := .channel 7, chans := [(7, [(5, none)])] })) 0; t.wait = .channel 7 ∧ chanOf t 7 ≠ []) ∧
    (let s := tdelay { tid := 0, tag := 0, deadline := 1, sleep := true, due := true } (fun t => { t with wait := .sleep });
      ∃ e, (getTh s 0).wait = .sleep ∧ (getTh s 0).evf.testBit 17 = false ∧ sleepEntry s 0 = some e ∧ e.due = true) ∧
    (getTh (tw 0) 0).wait = .none ∧
    (∃ a n, (getTh (tw 0 (fun t => { t with resv := some (0x40, 0) })) 0).resv = some (a, n)) ∧ (getTh (tw 0) 0).resv = none ∧
    (let e : TimerEnt := { tid := 0, tag := 0, deadline := 1 }
     let s := tdelay e
     let u := advanceTo s (listTickStart s 0 1)
     s.fault.marks = [] ∧ (getCl s 0).timers = [e] ∧ e.due = false ∧ e.sleep = false ∧ tidCluster e.tid = 0 ∧ e.deadline ≤ listTick u 0) := by
  refine ⟨⟨_, _, by decide +kernel, rfl⟩, ⟨_, _, rfl, by decide⟩, rfl, by decide +kernel, by decide +kernel, ⟨_, by decide +kernel, rfl, by decide +kernel⟩,
    ⟨_, rfl, by decide +kernel⟩, by decide +kernel, by decide +kernel, by decide +kernel, by decide +kernel, by decide +kernel,
    ⟨_, by decide +kernel, by decide +kernel, rfl, by decide +kernel⟩, by decide +kernel, ⟨_, _, rfl⟩, by decide +kernel, by decide +kernel⟩

/-- CODE with line 0. -/
def tcode : Sec := tsec 128 [(0, [2]), (64, [1])]
/-- A machine whose thread 0 holds no line, with the cache lines given. -/
def tfetch (cache : Table ICLine) : State :=
  let s := tw 0 (fun t => { t with line := none, missing := true }) [(0x0D, tcode)]
  { s with core := { s.core with icache := cache } }
/-- Line 0 in the cache. -/
def tic (line : Nat) (locked : Bool) : ICLine := { line := line, space := 1, used := 0, locked := locked, data := [1] ++ zeros 63 }

theorem witness_CodeLines :
    (∃ d ix, lineAwaited (tfetch []) 0 = some 0 ∧ codeLine (planOfTh (tfetch []) (getTh (tfetch []) 0)) 0 = some d ∧ fetchLine (tfetch []) 0 0 = .miss ∧
      fillWay (tfetch []) (tidUnit 0) 0 = some ix) ∧
    (let s := tfetch [(0, tic 128 true), (1, tic 256 true), (2, tic 384 true), (3, tic 512 true)]
     lineAwaited s 0 = some 0 ∧ fetchLine s 0 0 = .miss ∧ fillWay s (tidUnit 0) 0 = none) ∧
    (let s := { tfetch [(0, tic 0 false)] with fault := { State.reset.fault with marks := [{ loc := { unitLoc 0 0 with l3 := 0 }, word := 0, kind := 3 }] } }
     ∃ ix m, lineAwaited s 0 = some 0 ∧ fetchLine s 0 0 = .bad ix m) ∧
    (lineAwaited (tw 0) 0 = none ∧ (getTh (tw 0) 0).missing = false) ∧
    (∃ n, ({ (tw 0) with core := { (tw 0).core with slotSwitchAt := some 5 } } : State).core.slotSwitchAt = some n) ∧ (tw 0).core.slotSwitchAt = none := by
  refine ⟨⟨_, _, by decide +kernel, rfl, by decide +kernel, rfl⟩, by decide +kernel, ⟨_, _, by decide +kernel, rfl⟩, by decide +kernel, ⟨5, by decide +kernel⟩, by decide +kernel⟩

/-! ### Host -/

/-- A machine whose mailbox 7 is as given. -/
def tmb (f : Mailbox → Mailbox) : State := modMb (ton []) 7 f

theorem witness_Doorbells :
    ((getMb (tmb (fun m => { m with run := true, runSeq := 65535 })) 7).run = true ∧ (65535 : BitVec 16).toNat = (getMb (tmb (fun m => { m with run := true, runSeq := 65535 })) 7).runSeq) ∧
    ((getMb (tmb (fun m => { m with queued := true, runSeq := 4 })) 7).queued = true ∧ (5 : BitVec 16).toNat ≠ (getMb (tmb (fun m => { m with queued := true, runSeq := 4 })) 7).runSeq) ∧
    (let m := getMb (tmb (fun m => { m with resDone := true, resSeq := 5 })) 7; m.run = false ∧ m.queued = false ∧ m.resDone = true ∧ (5 : BitVec 16).toNat = m.resSeq ∧ (6 : BitVec 16).toNat ≠ m.resSeq) ∧
    (let m := getMb (ton []) 7; m.run = false ∧ m.queued = false ∧ m.resDone = false ∧ isReady (ton []) 3 = true ∧ hawkCheck (ton []) 7 (1 : BitVec 16).toNat (mbArea m) = some eSequence) ∧
    (0x1000 + 0x400 * 7 ≤ (0x2C00 : BitVec 16).toNat ∧ (0x2CFF : BitVec 16).toNat < 0x1100 + 0x400 * 7) := by
  decide +kernel

theorem witness_ResultReads :
    ((4 : BitVec 9).toNat ≤ 4 ∧ 4 < (4 : BitVec 9).toNat + (1 : BitVec 4).toNat ∧ (getMb (tmb (fun m => { m with resDone := true, readCount := 3 })) 7).resDone = true) ∧
    (4 < (5 : BitVec 9).toNat ∧ (0 : BitVec 9).toNat + (4 : BitVec 4).toNat ≤ 4 ∧ (getMb (ton []) 7).resDone = false) := by
  decide +kernel

theorem witness_HostMailboxes :
    ((getMb (tmb (fun m => { m with reply := some {} })) 7).reply = some {}) ∧
    ((getMb (tmb (fun m => { m with wait := some (1, 5) })) 7).reply = none ∧ (getMb (tmb (fun m => { m with wait := some (1, 5) })) 7).wait = some (1, 5)) ∧
    ((getMb (ton []) 7).reply = none ∧ (getMb (ton []) 7).wait = none) ∧
    ((ton []).kept.lockdownWritten = false ∧ ({ (ton []) with kept := { (ton []).kept with lockdownWritten := true } } : State).kept.lockdownWritten = true) ∧
    ((0x0FFF : BitVec 16).toNat < 0x1000 ∧ 0x3000 ≤ (0x3000 : BitVec 16).toNat ∧ [0, 0, 0].length ≠ 4 ∧ [0, 0, 0].length ≠ 8 ∧ (0x402 : BitVec 16).toNat % 4 ≠ 0 ∧ (0x404 : BitVec 16).toNat % 8 ≠ 0) ∧
    ([0, 0, 0, 0, 0, 0, 0, 0].length = 8 ∧ (ton []).kept.lockdown = false ∧ ({ (ton []) with kept := { (ton []).kept with lockdown := true } } : State).kept.lockdown = true) ∧
    (let mask : BitVec 32 := 0x1; mask.toNat &&& 12 = 0 ∧ mask.toNat < 2 ^ 25 ∧ 1 ≤ (1 : BitVec 32).toNat ∧ (10000000 : BitVec 32).toNat ≤ 10000000 ∧
      mask.toNat &&& (ton []).ready = mask.toNat ∧ mask.toNat &&& State.reset.ready ≠ mask.toNat) ∧
    ((zeros 224).length ≤ 224 ∧ 224 < (zeros 225).length) ∧
    (1 ≤ (1 : BitVec 16).toNat ∧ (15 : BitVec 16).toNat ≤ 15 ∧ (ton []).host.err.enabled = false ∧ (ton []).fault.summary = none) ∧
    ((ton []).power.dieOut = true ∧ (ton []).host.hawkState = 1 ∧ epochArmed (ton []) = false ∧ (ton []).svc.fw ≠ .trial) ∧
    (let s : State := { (ton []) with host := { (ton []).host with hawkState := 0 } }; s.power.dieOut = true ∧ s.power.loaderOk = true ∧ s.host.hawkState = 0 ∧
      (∀ n < 8, (getMb s n).queued = false) ∧ s.svc.fw ≠ .trial) := by
  decide +kernel

/-- DOMAINS as `tdoms`, with every ring. -/
def tdomr : Sec := tsec 2048 [(0, [0, 7, 0xFF, 0xFF] ++ zeros 16 ++ (List.replicate 5 (toLE 4 16)).flatten ++ zeros 20 ++ toLE 4 1000 ++ zeros 8 ++
  toLE 4 64 ++ zeros 4 ++ toLE 4 64 ++ toLE 2 100 ++ toLE 2 0xFFFF ++ toLE 8 1)]
/-- The machine of the ring tests: rings 0 are enabled with 64 entries, one of them waiting on transmit ring 0; buffers are free in pool 3. -/
def tring : State :=
  let s : State := { tpt with plan := tplan [(1, tports), (0xA, tpools), (0xF, tsec 64 [(0, [1, 0, 0, 0, 0, 0, 16, 0, 1])]), (0x15, tdomr)] }
  let c : RingCtl := { log2 := 6, enabled := true }
  { s with host := { s.host with rx := [(0, c)], tx := [(0, { c with head := 1 })] } }
/-- A copy for a ring. -/
def tcpy (r : Nat) : RingCopy := { ring := r, handle := mkHandle 3 0 0, start := 64, len := 64 }
/-- Descriptors of a PORT frame of 60 bytes for port 0, and one that is too short. -/
def tdesc (len : Nat) : Bytes := zeros 8 ++ toLE 2 len ++ [1] ++ zeros 21
/-- What Hod answers for a transmit descriptor of ring 0. -/
def ttxAnswer (s : State) : AllocResult := (hodAlloc s ((txOwner s 0).getD 0) (headroom s.plan.now + txLen (tdesc 60))).1
/-- Whether a long read of 64 bytes succeeds. -/
def treads (s : State) (q src a n : Nat) : Bool := (directRead s q src a n).1.isNone

theorem witness_HostRings :
    ((getRing tring false 7).enabled = false ∧ 6 ≤ (6 : BitVec 5).toNat ∧ (16 : BitVec 5).toNat ≤ 16 ∧ (getRing tring false 0).enabled = true) ∧
    (let s : State := { tring with
        host := { tring.host with err := { log2 := 6, enabled := true } }
        fault := { tring.fault with ring := [{ ns := 0, sev := 1, cls := 0, code := 1, loc := 0, detail := [] }] } }
     s.host.err.enabled = true ∧ isReady s 22 = true ∧ ringFull s.host.err = false ∧ s.host.err.mirror = 0 ∧ s.fault.ring ≠ []) ∧
    (tring.host.err.enabled = false ∧ tring.power.endpointUp = true ∧ State.reset.power.endpointUp = false ∧ tring.host.linkUp = true ∧ State.reset.host.linkUp = false) ∧
    ((tcpy 15).ring = 15 ∧ tring.host.hawkState = 1 ∧ (tcpy 7).ring < 8 ∧ (getRing tring false 7).enabled = false ∧ tring.egress.copies = []) ∧
    ((tcpy 0).ring < 8 ∧ (getRing tring false 0).enabled = true ∧ ringFull (getRing tring false 0) = false ∧ isReady tring 22 = true ∧
      (hbmRead tring 5 1 (bufAddr tring (tcpy 0).handle + 64) 64).1 = none) ∧
    (txAvailable tring 7 = false ∧ txAvailable tring 0 = true ∧ txCheck tring 0 (slice (tdesc 59) 0 32) = some eArgs ∧ txCheck tring 0 (slice (tdesc 60) 0 32) = none) ∧
    (∃ h, ttxAnswer tring = .granted h) ∧
    (let s : State := { tring with host := { tring.host with txPending := [(0, { desc := tdesc 60, handle := none })] } }
     tblFind s.host.txPending 0 = some { desc := tdesc 60, handle := none } ∧ isReady s 22 = true ∧ ∃ h, ttxAnswer s = .granted h) ∧
    (let s : State := { tring with host := { tring.host with txPending := [(0, { desc := tdesc 60, handle := some (mkHandle 3 0 0) })] } }
     tblFind s.host.txPending 0 = some { desc := tdesc 60, handle := some (mkHandle 3 0 0) } ∧ isReady s 22 = true ∧ txKind (tdesc 60) = 1 ∧
       s.egress.fifo.length < fifoCapacity ∧ findEntry s s.now 64 = none) ∧
    (poolOf tring.plan.now (0 : BitVec 16).toNat ≠ none ∧ poolOf tring.plan.now (0xFFFF : BitVec 16).toNat = none) ∧
    (1 ≤ (1 : BitVec 32).toNat ∧ (62 : BitVec 32).toNat ≤ 62 ∧ (0x1300000000 : BitVec 64).toNat % 8 = 0 ∧ 0x1300000000 ≤ (0x1300000000 : BitVec 64).toNat ∧
      (0x130FFFFE10 : BitVec 64).toNat + 8 * (62 : BitVec 32).toNat ≤ 0x1310000000 ∧ (0x1300000001 : BitVec 64).toNat % 8 ≠ 0 ∧ (0x12FFFFFFF8 : BitVec 64).toNat < 0x1300000000) ∧
    (let s : State := { tring with kept := { tring.kept with windows := [(0, 0x1000000003)] } }
     bar2Check s 0 4096 false = none ∧ bar2Check s 0 1 true = none ∧ regionOf (bar2Addr s 0) = some (.cluster 0, 0x1000000000, 0x10001FFFFF) ∧
       treads s 5 0 (bar2Addr s 0) 4096 = true ∧ (directWrite s 5 0 (bar2Addr s 0) [1]).1 = none ∧ s.kept.lockdown = false) ∧
    ((∃ st b, rangeCheck tring (0x0F80000000 : BitVec 64).toNat 1 false = some (st, b)) ∧ rangeCheck tring (0x1000000000 : BitVec 64).toNat 4194304 false ≠ none ∧
      rangeCheck tring (0 : BitVec 64).toNat (4194304 : BitVec 32).toNat false = none ∧ memNotReady tring 0 = false ∧ regionOf (0 : BitVec 64).toNat = some (.hbm, 0, 0x0FFFFFFFFF) ∧
      treads tring 5 2 0 64 = true) ∧
    (let u := hostCount tring 0x30 1; [(1 : Byte)].length = (1 : BitVec 32).toNat ∧ rangeCheck u 0x1000000000 1 true = none ∧ memNotReady u 0x1000000000 = false ∧
      (directWrite u 5 2 0x1000000000 [1]).1 = none ∧ isReady tring 22 = true) := by
  refine ⟨by decide +kernel, by decide +kernel, by decide +kernel, by decide +kernel, by decide +kernel, by decide +kernel, ⟨mkHandle 3 0 0, by decide +kernel⟩,
    ⟨by decide +kernel, by decide +kernel, mkHandle 3 0 0, by decide +kernel⟩, by decide +kernel, by decide +kernel, by decide +kernel, by decide +kernel,
    ⟨⟨eRights, 0x0F80000000, by decide +kernel⟩, by decide +kernel⟩, by decide +kernel⟩

/-! ### Span links -/

/-- SPANS with link 0 to device 1 for domain 0. -/
def tspans : Sec := tsec 192 [(0, [0, 1, 1, 0, 0, 0, 1, 0])]
/-- The machine of the packet path with a span link in the state given that has received a message. -/
def tspan (st : Nat) (m : Bytes) (f : SpanLink → SpanLink := id) : State :=
  modSpan { tpt with plan := tplan [(1, tports), (0xA, tpools), (0x13, tspans), (0x15, tdoms)], svc := { tpt.svc with current := [] } } 0 (fun l => f { l with st := st, rx := [(0, 1, m)], credits := fullCredits })
/-- The state after a message has been taken from link 0. -/
def ttaken (s : State) (code : Nat) : State := ((takeMsg s 0 code).map (·.2.2)).getD s
/-- A STATE that meets Table 16-7, PEER_SEEN set. -/
def tstate (dev : Nat) : Bytes := [0x01, 1, BitVec.ofNat 8 dev, 2, 0x32, 0x1C, 0, 0] ++ zeros 4 ++ toLE 4 1 ++ zeros 88

theorem witness_SpanLinks :
    (getSpan (tspan 1 []) 0).st = 1 ∧ (getSpan (tspan 2 []) 0).st ≠ 1 ∧ (2 ≤ (getSpan (tspan 5 []) 0).st ∧ (getSpan (tspan 5 []) 0).returns = []) ∧
    (let s := tspan 2 (tstate 1) (fun l => { l with sentSeen := true }); let v := modSpan (ttaken s 0x01) 0 (fun x => { x with peer := tstate 1, peerSeen := true, lastState := 0 })
     (takeMsg s 0 0x01).map (fun x => x.2.1) = some (tstate 1) ∧ (getSpan v 0).st = 2 ∧ (getSpan v 0).sentSeen = true ∧ (byteAt (tstate 1) 1).testBit 0 = true ∧
       ofTime10 (slice (tstate 1) 16 10) = 0 ∧ joinReason v 0 (tstate 1) = 0 ∧ joinReason v 0 (tstate 3) = 5) ∧
    (let v := ttaken (tspan 2 (tstate 1)) 0x01; (getSpan v 0).st = 2 ∧ (getSpan v 0).sentSeen = false) ∧
    (let v := ttaken (tspan 4 (tstate 1)) 0x01; (getSpan v 0).st = 4 ∧ joinReason v 0 (tstate 1) = 0) ∧
    takeMsg (tspan 2 []) 0 0x01 = none ∧
    (let s := tspan 2 [] (fun l => { l with replayed := 16 }); 16 ≤ (getSpan s 0).replayed) ∧
    ({ (tspan 2 []) with now := 16000 } : State).now = (getSpan (tspan 2 []) 0).lastFlit + 16000 ∧
    (let s : State := { (tspan 2 []) with now := 15999 }; s.now < (getSpan s 0).lastFlit + 16000 ∧ s.now < (getSpan s 0).lastState + 16000 ∧ (getSpan s 0).replayed < 16) ∧
    ((takeMsg (tspan 2 (0x02 :: zeros 51)) 0 0x02).map (fun x => (byteAt x.2.1 1).testBit 0) = some false ∧
      (takeMsg (tspan 2 ([0x02, 1, 5] ++ zeros 49)) 0 0x02).map (fun x => decide ((byteAt x.2.1 1).testBit 0 = true ∧ leAt x.2.1 2 2 ≠ (getSpan x.2.2 0).syncSeq)) = some true) ∧
    ((getSpan (tspan 4 []) 0).st = 4 ∧ spanFollow (tspan 4 []).plan.now 0 = false ∧ (100000 : Int).natAbs ≤ 100000 ∧ 100000 < (-100001 : Int).natAbs) := by
  decide +kernel

/-- A flit of the type, SEQ and message code given, with its CRC. -/
def tflit (ty seq code : Nat) : Bytes := let b := [BitVec.ofNat 8 ty, BitVec.ofNat 8 seq] ++ zeros 6 ++ [BitVec.ofNat 8 code] ++ zeros 51; b ++ toLE 4 (crc32c b)
/-- A request for the bytes given of cluster memory, or of a Hawk-only address. -/
def tasked (code n hi : Nat) : Bytes := [BitVec.ofNat 8 code, BitVec.ofNat 8 n, 0, 0, 0, 0, 0, BitVec.ofNat 8 (hi % 256), BitVec.ofNat 8 (hi / 256), 0] ++ zeros 66
/-- Handles of a PACKET of domain `d`, epoch `e`, port 0 and 64 bytes. -/
def tpacket (d e : Nat) : Bytes := [0x30, 0, 0, BitVec.ofNat 8 d] ++ toLE 4 e ++ toLE 2 64 ++ zeros 86
/-- A LEARN of the epoch and domain given. -/
def tlearn (d e : Nat) : Bytes := [0x20, 0] ++ toLE 4 e ++ zeros 18 ++ [BitVec.ofNat 8 (16 * d)] ++ zeros 27
/-- A copy that waits on VC3. -/
def tvc3 : AdmitItem := { desc := zeros 6 ++ toLE 2 64 ++ zeros 24 }

theorem witness_SpanMessages :
    (2 ≤ (getSpan (tspan 2 []) 0).st ∧ (tflit 0 0 0).length = 64 ∧ crc32c (slice (zeros 60 ++ [1, 0, 0, 0]) 0 60) ≠ leAt (zeros 60 ++ [1, 0, 0, 0]) 60 4) ∧
    (let s := tspan 2 []; let f := tflit 0 0 0; crc32c (slice f 0 60) = leAt f 60 4 ∧ (getSpan s 0).replay = [] ∧ (getSpan s 0).wait0 = [] ∧
      (byteAt f 3).testBit 7 = false ∧ byteAt f 0 % 8 = 0) ∧
    (let f := tflit 2 255 1; crc32c (slice f 0 60) = leAt f 60 4 ∧ byteAt f 0 % 8 ≠ 0 ∧ byteAt f 1 ≠ (getSpan (tspan 2 []) 0).rxSeq) ∧
    (let s := tspan 2 [] (fun l => { l with rxSeq := 255 }); let f := tflit 2 255 1
     crc32c (slice f 0 60) = leAt f 60 4 ∧ byteAt f 0 % 8 = 2 ∧ byteAt f 1 = (getSpan s 0).rxSeq ∧ vcOf (byteAt f 8) ≠ none) ∧
    ((getSpan (tspan 1 []) 0).st < 2 ∧ (zeros 63).length ≠ 64) ∧
    (let m := tasked 0x10 64 0x1000; let s := tspan 4 m; let u := ttaken s 0x10
     (takeMsg s 0 0x10).map (·.2.1) = some m ∧ requestOk (leAt m 4 6) (byteAt m 1) false = true ∧
       (directRead (spanCnt u 0 0x50 1) 4 0xC10 (leAt m 4 6) (byteAt m 1)).1 = none) ∧
    (let m := tasked 0x10 64 0x0F80; let s := tspan 5 m; (takeMsg s 0 0x10).map (·.2.1) = some m ∧ requestOk (leAt m 4 6) (byteAt m 1) false = false) ∧
    (let m := tasked 0x11 1 0x1000; let s := tspan 4 m; let u := ttaken s 0x11
     (takeMsg s 0 0x11).map (·.2.1) = some m ∧ requestOk (leAt m 4 6) (byteAt m 1) true = true ∧
       (directWrite (spanCnt u 0 0x50 1) 4 0xC10 (leAt m 4 6) (slice m 12 (byteAt m 1))).1 = none) ∧
    (let m := tasked 0x11 65 0x1000; let s := tspan 4 m; (takeMsg s 0 0x11).map (·.2.1) = some m ∧ requestOk (leAt m 4 6) (byteAt m 1) true = false) ∧
    spanOpen (tspan 5 []) 0 = true ∧
    (∀ who ∈ [SpanWho.thread 0 1 0, .nobody], let s := tspan 4 ([0x18, 64] ++ zeros 70) (fun l => { l with reads := [{ tag := 0, who := who, n := 64 }] })
     (takeMsg s 0 0x18).map (fun x => (getSpan x.2.2 0).reads.find? (fun r => r.tag == leAt x.2.1 2 2)) = some (some { tag := 0, who := who, n := 64 }) ∧
       (getSpan (ttaken s 0x18) 0).wait0 = []) ∧
    (let m := tlearn 0 2; (takeMsg (tspan 4 m) 0 0x20).map (fun x => decide (leAt m 2 4 ≠ x.2.2.plan.epoch)) = some true) ∧
    (let m := tlearn 1 1; let u := ttaken (tspan 4 m) 0x20; leAt m 2 4 = u.plan.epoch ∧ spanDomain u.plan.now 0 (byteAt m 24 / 16) = false) ∧
    (let m := tlearn 0 1; let u := ttaken (tspan 4 m) 0x20; leAt m 2 4 = u.plan.epoch ∧ spanDomain u.plan.now 0 (byteAt m 24 / 16) = true) ∧
    ((takeMsg (tspan 5 (0x21 :: zeros 51)) 0 0x21).isSome = true ∧ (tspan 4 []).egress.fifo.length < fifoCapacity) ∧
    (let m := tpacket 1 1; let u := ttaken (tspan 4 m) 0x30; (takeMsg (tspan 4 m) 0 0x30).isSome = true ∧ spanDomain u.plan.now 0 (byteAt m 3 % 16) = false) ∧
    (let m := tpacket 0 0; let u := ttaken (tspan 4 m) 0x30; spanDomain u.plan.now 0 (byteAt m 3 % 16) = true ∧ leAt m 4 4 = 0) ∧
    (let m := tpacket 0 1; let u := ttaken (tspan 4 m) 0x30; ∃ h, spanDomain u.plan.now 0 (byteAt m 3 % 16) = true ∧ leAt m 4 4 ≠ 0 ∧ u.plan.epoch = leAt m 4 4 ∧
      portEnabled (u.plan.of (leAt m 4 4)) (byteAt m 1) = true ∧ (hodAlloc u (byteAt m 3 % 16) (leAt m 8 2)).1 = .granted h) ∧
    (let s := tspan 4 []; takeMsg s 0 0x10 = none ∧ takeMsg s 0 0x11 = none ∧ takeMsg s 0 0x18 = none ∧ takeMsg s 0 0x30 = none) ∧
    (let s := tspan 4 [] (fun l => { l with packets := [tvc3] }); (getSpan s 0).packets = [tvc3] ∧ (getSpan s 0).st = 4 ∧
      hasCredits s 0 3 (zeros (32 + leAt tvc3.desc 6 2)) = true ∧
      (hbmRead (modSpan s 0 (fun x => { x with packets := [] })) 2 81 (bufAddr s (dHandle tvc3.desc) + leAt tvc3.desc 4 2) (leAt tvc3.desc 6 2)).1 = none) ∧
    (let s := tspan 4 [] (fun l => { l with packets := [tvc3], credits := [(3, 1)] }); hasCredits s 0 3 (zeros (32 + leAt tvc3.desc 6 2)) = false) ∧
    ((2 : BitVec 8).toNat ≤ 2 ∧ 2 < (3 : BitVec 8).toNat ∧ (getSpan (tspan 0 []) 0).st = 0 ∧ (8 : BitVec 16).toNat % 8 = 0 ∧ (8 : BitVec 16).toNat + 8 * (31 : BitVec 16).toNat ≤ 0x100) := by
  refine ⟨by decide +kernel, by decide +kernel, by decide +kernel, by decide +kernel, by decide +kernel, by decide +kernel, by decide +kernel, by decide +kernel,
    by decide +kernel, by decide +kernel, by decide +kernel, by decide +kernel, by decide +kernel, by decide +kernel, by decide +kernel, by decide +kernel,
    by decide +kernel, ⟨mkHandle 3 0 0, by decide +kernel⟩, by decide +kernel, by decide +kernel, by decide +kernel, by decide +kernel⟩

/-! ### Service die -/

/-- An IPv6 frame to the service port with the ICMPv6 message given, its target after 8 bytes. -/
def ticmp (ty : Byte) (target : Bytes) : Bytes := zeros 12 ++ [0x86, 0xDD] ++ zeros 6 ++ [58, 255] ++ (1 :: zeros 15) ++ svcIp ++ [ty] ++ zeros 7 ++ target ++ zeros 8
/-- A request of the session's host. -/
def thdr : UpdHeader := { addr := [1], port := 5, session := 7, seq := 9 }
/-- A machine with a session in the state given. -/
def tsess (st : SessState) (f : SvcState → SvcState := id) (g : Session → Session := id) : State :=
  { ton [] with svc := f { (ton []).svc with svcEn := true, current := [], session := g { st := st, peerAddr := [1], peerPort := 5, id := 7 } } }
/-- A manifest of two chunks, of 64 blocks and 1 block of zeros; the first digest is wrong and the second right. -/
def tmanif : Bytes := zeros 20 ++ toLE 4 66560 ++ toLE 2 2 ++ zeros 230 ++ zeros 48 ++
  toBE 48 0xccdfa1aec6214bf6db74b4addaca7f87ab5980bcfdbf6f5fcab8d8425bc2169ca3bc9dd6046b26e4b1da6ba33c31dfb0
/-- A session that receives it. -/
def txfer (g : Session → Session := id) : State := tsess .transfer (fun v => { v with pending := tmanif }) g
/-- Chunk 1 has its only block. -/
def trxdone (d : Bytes) : State := txfer (fun y => { y with chunks := [(1, .receiving)], rx := [(1, { received := 1, blocks := [(0, d)] })] })

theorem crcByte_lt (a : Nat) (b : Byte) (h : a < 2 ^ 32) : crcByte 0x82F63B78 a b < 2 ^ 32 := by
  have key : ∀ (l : List Nat) x, x < 2 ^ 32 → l.foldl (fun a _ => crcBit 0x82F63B78 a) x < 2 ^ 32 := by
    intro l
    induction l with
    | nil => exact fun x hx => hx
    | cons y l ih =>
      intro x hx
      apply ih
      simp only [crcBit]
      split
      · exact Nat.xor_lt_two_pow (by omega) (by decide)
      · omega
  exact key _ _ (Nat.xor_lt_two_pow h (by have := b.isLt; omega))

theorem crc32c_lt (b : Bytes) : crc32c b < 2 ^ 32 := by
  have key : ∀ (l : Bytes) x, x < 2 ^ 32 → l.foldl (crcByte 0x82F63B78) x < 2 ^ 32 := by
    intro l
    induction l with
    | nil => exact fun x hx => hx
    | cons y l ih => exact fun x hx => ih _ (crcByte_lt x y hx)
  exact Nat.xor_lt_two_pow (key b _ (by decide)) (by decide)

theorem crc_exists (b : Bytes) : ∃ crc : BitVec 32, crc32c b = crc.toNat :=
  ⟨BitVec.ofNat 32 (crc32c b), by rw [BitVec.toNat_ofNat, Nat.mod_eq_of_lt (crc32c_lt _)]⟩

theorem witness_UpdateProtocol :
    (svcPortUp (ton []) = true ∧ svcPortUp State.reset = false) ∧
    (let f := ticmp 135 svcIp; beAt f 12 2 = 0x86DD ∧ byteAt f 20 = 58 ∧ byteAt f 21 = 255 ∧ byteAt f 54 = 135 ∧ slice f 62 16 = svcIp ∧ allZero (slice f 22 16) = false) ∧
    (let f := ticmp 128 []; beAt f 12 2 = 0x86DD ∧ byteAt f 20 = 58 ∧ byteAt f 54 = 128 ∧ slice f 38 16 = svcIp ∧ beAt f 18 2 ≤ 1240) ∧
    slice (ticmp 135 (zeros 16)) 62 16 ≠ svcIp ∧
    (let s := tsess .listen; s.svc.session.st = .listen ∧ svcEnabled s = true ∧ isReady s 4 = true ∧ svcEnabled (ton []) = false ∧
      isReady { s with ready := 0x1FFFFEF } 4 = false ∧ svcEnabled { s with ready := 0x1FFFFEF } = true) ∧
    (let s := tsess .opened; s.svc.session.st ≠ .listen ∧ svcEnabled s = true ∧ isReady s 4 = true ∧ [2] ≠ s.svc.session.peerAddr) ∧
    (let s := tsess .opened; svcPortUp s = true ∧ thdr.addr = s.svc.session.peerAddr ∧ thdr.port.toNat = s.svc.session.peerPort ∧
      thdr.session.toNat = s.svc.session.id ∧ s.svc.session.lastSeq ≠ some thdr.seq.toNat) ∧
    ((zeros 1024).length ≤ 1024 ∧ (15360 : BitVec 32).toNat + (zeros 1024).length ≤ 16384 ∧ 0 < [(0 : Byte)].length) ∧ (tsess .manifest).svc.session.st = .manifest ∧
    (((chunksLeft txfer.svc).take 2).contains (1 : BitVec 16).toNat = true ∧ (63 : BitVec 8).toNat < chunkBlockCount txfer.svc.pending 0 ∧
      ¬ (64 : BitVec 8).toNat < chunkBlockCount txfer.svc.pending 0 ∧ (0 : BitVec 8).toNat < chunkBlockCount txfer.svc.pending 1 ∧ (zeros 1024).length = 1024 ∧
      (∃ crc : BitVec 32, crc32c (zeros 1024) = crc.toNat) ∧ (∃ crc : BitVec 32, crc32c [] ≠ crc.toNat) ∧ chunkState txfer.svc 1 = .empty ∧ (1 : BitVec 16).toNat < mfChunks txfer.svc.pending) ∧
    chunksLeft (tsess .transfer).svc = [] ∧ (chunksLeft txfer.svc = [0, 1] ∧ chunkState txfer.svc 0 = .empty) ∧
    ((tsess .done (fun v => { v with fw := .written })).svc.fw = .written ∧ (tsess .done).svc.session.st = .done ∧ (tsess .done).svc.fw ≠ .written) ∧
    ((tsess .listen (fun v => { v with hostEnableUntil := some 5 })).svc.hostEnableUntil = some 5 ∧ (tsess .listen).svc.hostEnableUntil = none) ∧
    (let s := trxdone [1]; chunkState s.svc 1 = .receiving ∧ (tblGet ({} : ChunkRx) s.svc.session.rx 1).received = 2 ^ chunkBlockCount s.svc.pending 1 - 1 ∧
      sha384 (rxData s.svc 1) ≠ mfChunkDigest s.svc.pending 1) ∧
    (let s := trxdone (zeros 1024); sha384 (rxData s.svc 1) = mfChunkDigest s.svc.pending 1 ∧ (chunksLeft s.svc).head? ≠ some 1) ∧
    (let s := txfer (fun y => { y with chunks := [(0, .writing)] }); chunkState s.svc 0 = .writing ∧ (chunksLeft s.svc).head? = some 0 ∧
      s.svc.session.finishSeq = none ∧ s.svc.session.closing = false) := by
  refine ⟨by decide +kernel, ⟨by decide +kernel, by decide +kernel, by decide +kernel, by decide +kernel, rfl, by decide +kernel⟩,
    ⟨by decide +kernel, by decide +kernel, by decide +kernel, rfl, by decide +kernel⟩, fun h => absurd (congrArg List.head? h) (by decide +kernel), by decide +kernel, by decide +kernel,
    by decide +kernel, by decide +kernel, by decide +kernel,
    ⟨by decide +kernel, by decide +kernel, by decide +kernel, by decide +kernel, by decide +kernel, crc_exists _, ⟨1, by decide +kernel⟩,
      by decide +kernel, by decide +kernel⟩,
    by decide +kernel, by decide +kernel, by decide +kernel, by decide +kernel, by decide +kernel, by decide +kernel, by decide +kernel⟩

/-- A machine with the service die's state changed. -/
def tsvc (f : SvcState → SvcState) : State := { ton [] with svc := f (ton []).svc }
/-- The base point of P-384 as a public key. -/
def tkey : Bytes := toBE 48 p384Gx ++ toBE 48 p384Gy

theorem witness_FirmwareStore :
    (isReady (ton []) 0 = true ∧ (ton []).svc.fw ≠ .trial ∧ ∀ r ∈ (ton []).svc.journal, r.done = true) ∧
    (let s := tsvc (fun v => { v with fw := .trial, trialFirst := true, healthBy := some 5 }); s.svc.fw = .trial ∧ s.svc.trialFirst = true ∧ isReady s 3 = true ∧ s.svc.healthBy = some 5) ∧
    (tsvc (fun v => { v with fw := .restoring })).svc.fw = .restoring ∧
    (regionDonated (ton []).svc (16383 : BitVec 14).toNat = false ∧ 0 < (ton []).svc.sparesLeft ∧ (ton []).svc.sparesLeft ≤ 1312 ∧ 4 < 5) ∧
    (let s := tsvc (fun v => { v with trng := .collecting, trngFails := 1 }); s.svc.running = true ∧ s.svc.trng = .collecting ∧ s.svc.trngFails < 2) ∧
    2 ≤ (tsvc (fun v => { v with trng := .collecting, trngFails := 2 })).svc.trngFails ∧
    ((tsvc (fun v => { v with trng := .ready })).svc.trng = .ready ∧ (tsvc (fun v => { v with trng := .failed })).svc.trng ≠ .ready) ∧
    (1 ≤ (1 : BitVec 32).toNat ∧ (86400 : BitVec 32).toNat ≤ 86400 ∧ 86400 < (86401 : BitVec 32).toNat) ∧
    ((tsvc (fun v => { v with fw := .written })).svc.fw = .written ∧ (ton []).svc.session.st = .listen ∧ (tsvc (fun v => { v with fw := .idle })).svc.fw = .idle) ∧
    ((3 : BitVec 8).toNat ≤ 3 ∧ tkey.length = 96 ∧ p384KeyValid tkey = true ∧ tblGet KeySlot.empty (ton []).svc.keySlots 3 = .empty) ∧
    (let s := tsvc (fun v => { v with keySlots := [(3, .written tkey)] }); tblGet KeySlot.empty s.svc.keySlots 3 = .written tkey ∧ tblGet KeySlot.empty s.svc.keySlots 3 ≠ .empty ∧
      s.svc.planSigFuse = false ∧ liveSlots s.svc ≠ []) ∧
    ((1 : BitVec 8).toNat ≤ 1 ∧ (zeros 32).length = 32 ∧ tblFind (ton []).svc.keks 1 = none ∧ tblFind (tsvc (fun v => { v with keks := [(1, zeros 32)] })).svc.keks 1 ≠ none) ∧
    liveSlots (ton []).svc = [] ∧
    (1 ≤ (1 : BitVec 16).toNat ∧ (256 : BitVec 16).toNat ≤ 256 ∧ isReady (ton []) 4 = true ∧ isReady State.reset 4 = false ∧ isReady State.reset 0 = false) := by
  decide +kernel

/-! ### Faults and the logbook -/

/-- A machine with the fault manager's state changed. -/
def tfault (f : FaultState → FaultState) : State := { ton [] with fault := f (ton []).fault }
/-- A restart of parse pipeline 0 that began at tick 0. -/
def trecov : Recovery := { loc := unitLoc 18 0, sev := 3, cls := 0x0F, code := 2, since := 0 }

theorem witness_FaultHandling :
    ((ton []).power.dieOut = true ∧ completionCovers (ton []) (18 : BitVec 6).toNat (2 : BitVec 8).toNat = true ∧ (ton []).fault.planted = [] ∧
      completionCovers (ton []) (18 : BitVec 6).toNat (3 : BitVec 8).toNat = false ∧ State.reset.power.dieOut = false) ∧
    clusterFree (ton [(0x0E, tsec 1024 [(0, [0, 0, 1])])]) 0 = true ∧
    (16 ≤ (16 : BitVec 6).toNat ∧ (29 : BitVec 6).toNat ≤ 29 ∧ unitExists 16 127 = true ∧ unitExists 29 35 = true) ∧
    ((ton []).fault.trigger = none ∧ (∀ e ∈ (ton []).fault.restartLog, e.1 ≠ unitLoc 15 11) ∧ (unitLoc 15 11).l5 ≤ 15 ∧ (unitLoc 15 11).l4 ≤ 11) ∧
    (let s := tfault (fun f => { f with recovering := [trecov] })
     s.fault.recovering.find? (fun r => r.loc == restartUnit (unitLoc (18 : BitVec 6).toNat (0 : BitVec 8).toNat)) = some trecov ∧ (18 : BitVec 6).toNat ≠ 30 ∧
       pastBound s trecov = false ∧ storeSpoilt s trecov.loc = false ∧ trecov.mailbox = none ∧ pastBound { s with now := 160000 } trecov = false ∧
       pastBound { s with now := 160001 } trecov = true) ∧
    (ton []).fault.recovering = [] ∧
    (let x : BitVec 64 := BitVec.ofNat 64 (locCode (ton []) (unitLoc 18 0)); bits x.toNat 63 60 = (ton []).svc.devId ∧ (locOfCode x.toNat).l6 = 0 ∧
      unitExists (locOfCode x.toNat).l5 (locOfCode x.toNat).l4 = true ∧ restartBound (restartUnit (locOfCode x.toNat)).l5 (restartUnit (locOfCode x.toNat)).l4 ≠ none ∧
      recovering (ton []) (restartUnit (locOfCode x.toNat)) = false ∧ recovering (tfault (fun f => { f with recovering := [trecov] })) (restartUnit (locOfCode x.toNat)) = true ∧
      bits (15 * 2 ^ 60) 63 60 ≠ (ton []).svc.devId) ∧
    ((ton []).fault.commandRestartAt = none ∧ (0x1C33 : BitVec 32).toNat ≠ 0x1C32 ∧ (tfault (fun f => { f with trigger := some (1, 2, 3) })).fault.trigger = some (1, 2, 3)) ∧
    ((33 : Fin 34).val ∉ (ton []).fault.cmpFailed ∧ (ton []).fault.planted = []) ∧
    (let s := tfault (fun f => { f with cmpWaiting := [(31, 5, 6)] })
     s.fault.cmpWaiting.find? (fun w => w.1 == (31 : Fin 32).val) = some (31, 5, 6) ∧ (sparesFree s).head? = some 32) ∧
    ((tsvc (fun v => { v with restartHoldUntil := some 5 })).svc.restartHoldUntil = some 5 ∧ (ton []).svc.restartHoldUntil = none) ∧
    (latchedMask (ton []) = 0 ∧ latchedMask (tfault (fun f => { f with noSpare := true })) ≠ 0) ∧
    ((511 : BitVec 16).toNat < 512 ∧ (let x : BitVec 64 := BitVec.ofNat 64 (locCode (ton []) (unitLoc 29 0)); bits x.toNat 63 60 = (ton []).svc.devId ∧
      (locOfCode x.toNat).l6 = 0 ∧ (locOfCode x.toNat).l5 = 29)) := by
  decide +kernel

/-- A machine with the logbook changed. -/
def tlog (f : LogState → LogState) : State := { ton [] with log := f (ton []).log }

theorem witness_Logbook :
    (let s : State := { ton [] with power := { (ton []).power with dieOut := false } }
     s.svc.running = true ∧ s.power.dieOut = false ∧ logMayWrite s = true ∧ (logCount s 0x000 1).log.dirty.length ≤ 504) ∧
    logMayWrite { ton [] with power := { (ton []).power with pfailLow := true } } = false ∧
    504 < (logCount (tlog (fun l => { l with dirty := (List.range 504).map (fun i => (i + 1, 1)) })) 0x000 1).log.dirty.length ∧
    State.reset.svc.running = false ∧
    (256 ≤ (tlog (fun l => { l with secondsSinceGen := 256 })).log.secondsSinceGen ∧ (tlog (fun l => { l with secondsSinceGen := 255 })).log.secondsSinceGen < 256) ∧
    (let s := tlog (fun l => { l with mounted := false, genA := some { seq := 1, stamp := 2, words := [] } })
     isReady s 0 = true ∧ s.log.mounted = false ∧ s.log.genB = none ∧ s.log.deltas = [] ∧ s.log.dirty = [] ∧ s.power.lastLossUnclean = false ∧ s.log.genA.isSome = true) ∧
    ((ton []).log.mounted = true ∧ isReady (ton []) 21 = true) ∧
    ((62 : BitVec 32).toNat ≤ 62 ∧ (0x13FC2 : BitVec 64).toNat + (62 : BitVec 32).toNat ≤ 0x14000 ∧
      (ton []).log.eventFirst ≤ (0 : BitVec 64).toNat ∧ (0 : BitVec 64).toNat + (0 : BitVec 32).toNat ≤ (ton []).log.eventNext) ∧
    (let s := tlog (fun l => { l with eventNext := 12 }); s.log.eventFirst ≤ (0 : BitVec 64).toNat ∧ (0 : BitVec 64).toNat + (12 : BitVec 32).toNat ≤ s.log.eventNext) ∧
    (histBins (5 : BitVec 32).toNat = some 42 ∧ histBins (0x4FFF : BitVec 32).toNat = some 6 ∧ histBins (6 : BitVec 32).toNat = none ∧ histBins (0x5000 : BitVec 32).toNat = none ∧
      (0 : BitVec 16).toNat + (42 : BitVec 16).toNat ≤ 42) := by
  decide +kernel

/-! ### Power, resets and pins -/

/-- A machine with the power state changed. -/
def tpow (f : PowerState → PowerState) (s : State := ton []) : State := { s with power := f s.power }

theorem witness_PowerAndResets :
    ((ton []).power.vinValid = true ∧ State.reset.power.vinValid = false ∧ (tsvc (fun v => { v with fw := .trial })).svc.fw = .trial) ∧
    (let s := tpow id; s.power.group1 = true ∧ s.power.railsHeldOff = false ∧ s.power.pfailLow = false ∧ s.power.holding = false ∧ State.reset.power.group2 = false) ∧
    (let s := tpow (fun p => { p with group3 := false, dieOut := false }) (tsvc (fun v => { v with imageBad := false })); s.power.group2 = true ∧ s.power.group3 = false ∧
      releaseAllowed { s with power := { s.power with group3 := true } } = true) ∧
    (State.reset.power.dieOut = false ∧ (ton []).svc.running = true ∧ (ton []).power.group2 = true) ∧
    (let s := tpow (fun p => { p with dieOut := false, holding := true }); releaseAllowed s = true ∧ s.power.dieOut = false ∧ s.power.holding = true) ∧
    ((ton []).power.pfailLow = false ∧ (tpow (fun p => { p with pfailLow := true })).power.pfailLow = true) ∧
    ((ton []).power.resetLow = false ∧ (tpow (fun p => { p with resetLow := true })).power.resetLow = true) ∧
    ((ton []).power.testEn = false ∧ (tpow (fun p => { p with testEn := true })).power.testEn = true) ∧
    ((ton []).power.vinLow = false ∧ (ton []).power.vinHigh = false ∧ 33500 ≤ 79500 ∧ 32999 < 33000 ∧ (tpow (fun p => { p with lowRun := 9 })).power.lowRun = 9) ∧
    ((getPlumb (ton []) 15).sensorLost = false ∧ 150 ≤ 700) ∧
    clusterFree (ton []) 0 = false ∧
    ((smbusUp (ton []) = true ∧ smbusWord (ton []) (5 : BitVec 8).toNat ≠ none ∧ smbusWord (ton []) (8 : BitVec 8).toNat = none) ∧ (tpow (fun p => { p with alert := true })).power.alert = true) ∧
    (let s := tpow (fun p => { p with group1 := true }) State.reset; s.power.group1 = true ∧ s.svc.running = false) ∧
    (let s : State := { ton [] with host := { (ton []).host with hawkState := 2 } }; s.host.hawkState = 2 ∧ s.power.loaderOk = true ∧ (∀ r ∈ s.fault.recovering, r.loc.l5 ≠ 30) ∧ s.plan.undo = false) ∧
    (ton []).host.hawkState ≠ 2 := by
  decide +kernel

theorem witness_GpioAndTap :
    ((ton []).power.dieOut = true ∧ State.reset.power.dieOut = false ∧ (ton []).svc.running = true) ∧
    (let s := tpow (fun p => { p with testEn := true }); s.power.group1 = true ∧ s.power.testEn = true ∧ 2 ^ 1211 - 1 < 2 ^ 1211) ∧
    ((ton []).power.group1 = true ∧ (ton []).power.testEn = false ∧ State.reset.power.group1 = false) := by
  decide +kernel

end Sys2Proof.Tests
end

section
/-!
PROOFS. Egress admission, redundancy, transmission and gate control lists (R63, R238 to R262): what each command of the
egress complex does in each case of its rule, and O26 from them.
-/

namespace Sys2Proof.Proofs.EgressAndGates
open Sys2Proof Sys2Proof.Machine

/-! ### Admission -/

/-- Released items go before the FIFO's (R240). -/
theorem exec_egressAdmit_released {s : State} {i : AdmitItem} {r : List AdmitItem}
    (hup : recovering s (unitLoc 25 64) = false) (hrel : s.egress.released = i :: r) :
    exec .egressAdmit s = .next (admitItem { s with egress := { s.egress with released := r } } i) := by
  show execEgressAdmit s = _
  simp [execEgressAdmit, hup, hrel]

/-- With nothing released, the FIFO's head is admitted (R240). -/
theorem exec_egressAdmit_fifo {s : State} {i : AdmitItem} {r : List AdmitItem}
    (hup : recovering s (unitLoc 25 64) = false) (hrel : s.egress.released = []) (hfifo : s.egress.fifo = i :: r) :
    exec .egressAdmit s = .next (admitItem { s with egress := { s.egress with fifo := r } } i) := by
  show execEgressAdmit s = _
  simp [execEgressAdmit, hup, hrel, hfifo]

/-! ### Redundancy -/

/-- The oldest entry of a configured pair's duplicate table goes at its time, counted by its member (R256). -/
theorem exec_dupEntryExpire_cons {s : State} {pair : Fin 16} {e : Bytes} {d : DupEntry} {r : List DupEntry}
    (hpair : pairOf s.plan.now pair.val = some e) (hdups : (getPair s pair.val).dups = d :: r) :
    exec (.dupEntryExpire pair) s =
      .next (pairCnt (modPair (advanceTo s (d.made + msTicks (leAt e 8 4))) pair.val (fun v => { v with dups := r }))
        pair.val (if d.member = 0 then 0x28 else 0x30)) := by
  show execDupEntryExpire pair s = _
  simp only [execDupEntryExpire, hpair, hdups]

/-- A recovery function that has passed a frame resets RESET_MS after the last one (R252). -/
theorem exec_cbRecoveryReset_armed {s : State} {fn : BitVec 16} {e : Bytes} (hfn : cbOf s.plan.now fn.toNat = some e)
    (hrec : cbFlag e 1 = true) (harmed : (getFn s fn.toNat).takeAny = false) :
    exec (.cbRecoveryReset fn) s = .next (fnCnt (setFn (advanceTo s ((getFn s fn.toNat).lastPass + msTicks (leAt e 4 2))) fn.toNat
      { getFn s fn.toNat with takeAny := true, recov := 65535, history := 0 }) fn.toNat 0x30 1) := by
  show execCbRecoveryReset fn s = _
  simp [execCbRecoveryReset, hfn, hrec, harmed]

/-- The latent-error test of an enabled function: the new base is taken in any case, and a difference beyond the limit
is recorded and counted (R254). -/
theorem exec_cbLatentTest_enabled {s u : State} {fn : BitVec 16} {e : Bytes} {diff : Int}
    (hfn : cbOf s.plan.now fn.toNat = some e) (hen : cbFlag e 4 = true)
    (hu : u = advanceTo s ((getFn s fn.toNat).lastTest + msTicks (leAt e 8 4)))
    (hdiff : diff = (cntGet u.cnt (0x6800000 + 0x40 * fn.toNat) : Int) - cntGet u.cnt (0x6800000 + 0x40 * fn.toNat + 8)) :
    exec (.cbLatentTest fn) s = .next (if leAt e 6 2 < ((getFn s fn.toNat).baseDiff - diff).natAbs
      then fnCnt (record (setFn u fn.toNat { getFn s fn.toNat with lastTest := u.now, baseDiff := diff })
        0 0x07 0x0001 (unitLoc 25 65) (toLE 2 fn.toNat)) fn.toNat 0x38 1
      else setFn u fn.toNat { getFn s fn.toNat with lastTest := u.now, baseDiff := diff }) := by
  subst hu hdiff
  show execCbLatentTest fn s = _
  simp [execCbLatentTest, hfn, hen]

/-! ### Transmission -/

/-- An idle port that is up selects at its free tick, with fuel for every frame it has queued (R250). -/
theorem exec_transmitOpportunity_idle {s : State} {port : PortId} (hup : portUp s port.val = true)
    (hbuf : (getPort s port.val).txBuf = []) (hwire : (getPort s port.val).onWire = none)
    (hrec : recovering s (unitLoc 25 port.val) = false) :
    ∃ u n, u = cbsSync (advanceTo s (getPort s port.val).freeAt) ∧
      n = ((List.range 16).map (fun q => (getQueue u port.val q).length)).sum ∧
      exec (.transmitOpportunity port) s = .next (transmitSelect u port.val (n + 1)) := by
  refine ⟨_, _, rfl, rfl, ?_⟩
  show execTransmitOpportunity port s = _
  simp [execTransmitOpportunity, hup, hbuf, hwire, hrec]

/-- The head of a queue is dropped at the first tick beyond its epoch's MAX_RESIDENCE (R63, R630). -/
theorem exec_queueAgeDrop_cons {s : State} {port : PortId} {q : Fin 16} {f : QFrame} {r : List QFrame}
    (hq : getQueue s port.val q.val = f :: r) :
    exec (.queueAgeDrop port q) s =
      .next (queueAgeDrop (cbsSync (advanceTo s (f.tick + residence s f.epoch + 1))) port.val q.val f) := by
  show execQueueAgeDrop port q s = _
  simp only [execQueueAgeDrop, hq]

/-! ### Gate events -/

section GateEvent
variable {s : State} {port : PortId} {l : GateList} {i st : Nat}

/-- A port without a list has no gate event. -/
theorem exec_gateEvent_noList (hlist : (getGate (cbsSync s) port.val).list = none) :
    exec (.gateEvent port) s = .next s := by
  show execGateEvent port s = _
  simp only [execGateEvent, hlist]

/-- A list with no operation in force starts at the operation its time falls in (R243, R244). The time is a variable
`t`: with `gateTime` in its place the kernel would evaluate `locate` down to the 2^43 units of a nanosecond. -/
theorem exec_gateEvent_start {o : Nat × Nat} {t : Nat} (ht : gateTime (cbsSync s) port.val = t)
    (hlist : (getGate (cbsSync s) port.val).list = some l) (hop : (getGate (cbsSync s) port.val).op = none)
    (hloc : locate l (t / unitNs) = some o) :
    exec (.gateEvent port) s = .next (sweepClaims (setHold (modGate (cbsSync s) port.val (fun g => { g with op := some o }))
      port.val (holdOf (opKind l o.1) (getGate (cbsSync s) port.val).hold)) port.val false) := by
  show execGateEvent port s = _
  simp only [execGateEvent, ht]
  simp only [hlist, hop, hloc]

/-- At the end of an operation the next one takes its place, as of that end, with its hold (R243). -/
theorem exec_gateEvent_end (hlist : (getGate (cbsSync s) port.val).list = some l)
    (hop : (getGate (cbsSync s) port.val).op = some (i, st))
    (hend : (st + opLen l i) * unitNs ≤ gateTime (cbsSync s) port.val) :
    exec (.gateEvent port) s = .next (sweepClaims (setHold (modGate (cbsSync s) port.val
        (fun g => { g with op := some ((i + 1) % l.ops.length, st + opLen l i) }))
      port.val (holdOf (opKind l ((i + 1) % l.ops.length)) (getGate (cbsSync s) port.val).hold)) port.val false) := by
  show execGateEvent port s = _
  simp only [execGateEvent, hlist, hop, if_pos hend]

/-- A hold not yet in force is taken ahead of its operation by HOLD's advance, and the operation stays (R250). -/
theorem exec_gateEvent_earlyHold (hlist : (getGate (cbsSync s) port.val).list = some l)
    (hop : (getGate (cbsSync s) port.val).op = some (i, st)) (hhold : (getGate (cbsSync s) port.val).hold = false)
    (hkind : opKind l ((i + 1) % l.ops.length) = 1) (hbefore : gateTime (cbsSync s) port.val < (st + opLen l i) * unitNs)
    (hearly : (st + opLen l i - l.holdAdv) * unitNs ≤ gateTime (cbsSync s) port.val) :
    exec (.gateEvent port) s = .next (setHold (cbsSync s) port.val (holdOf 1 false)) := by
  show execGateEvent port s = _
  simp only [execGateEvent, hlist, hop, hhold, hkind, if_neg (Nat.not_le.mpr hbefore), and_self, if_true, if_pos hearly]

/-! ### The switch of lists -/

/-- At its time a waiting list takes the place of the present one, from its first operation (R246). -/
theorem exec_gateListSwitch_due {t : Nat} (hnext : (getGate s port.val).next = some (some l, t))
    (hdue : t * unitNs ≤ gateTime s port.val) :
    exec (.gateListSwitch port) s = .next (sweepClaims (setHold (modGate (cbsSync s) port.val
        (fun g => { g with list := some l, op := some (0, t), next := none }))
      port.val (holdOf (opKind l 0) (getGate (cbsSync s) port.val).hold)) port.val false) := by
  show execGateListSwitch port s = _
  simp only [execGateListSwitch, hnext, if_neg (Nat.not_lt.mpr hdue)]

/-- Before its time a waiting list, or the waiting end of a list, changes nothing (R246). -/
theorem exec_gateListSwitch_early {w : Option GateList} {t : Nat} (hnext : (getGate s port.val).next = some (w, t))
    (hearly : gateTime s port.val < t * unitNs) : exec (.gateListSwitch port) s = .next s := by
  show execGateListSwitch port s = _
  simp only [execGateListSwitch, hnext, if_pos hearly]

end GateEvent

/-! ### The obligation -/

/-- Settles O26: the commands of admission, redundancy and transmission, then the events of a port's gates, each by the
lemma of its case. -/
theorem egressAndGates : Obligations.EgressAndGates := by
  refine ⟨fun s => ⟨fun i r => exec_egressAdmit_released, fun i r => exec_egressAdmit_fifo,
      fun pair e d r => exec_dupEntryExpire_cons, fun fn e => exec_cbRecoveryReset_armed, ?latent,
      fun port => exec_transmitOpportunity_idle, fun port q f r => exec_queueAgeDrop_cons⟩,
    fun port s => ⟨fun l o => exec_gateEvent_start rfl, fun l i st => exec_gateEvent_end, fun l i st => exec_gateEvent_earlyHold,
      exec_gateEvent_noList, fun l t => exec_gateListSwitch_due, fun l t => exec_gateListSwitch_early⟩⟩
  case latent =>
    intro fn e u diff hfn hen hu hdiff
    have htest := exec_cbLatentTest_enabled hfn hen hu hdiff
    exact ⟨fun hin => htest.trans (by rw [if_neg (Nat.not_lt.mpr hin)]), fun hout => htest.trans (by rw [if_pos hout])⟩

end Sys2Proof.Proofs.EgressAndGates
end

section
/-!
PROOFS. Device time (R101 to R108, R621): what an advance of the clock does, what each time command and each event of the
time unit does in each case of its rule, and O2, O10, O20 and O21 from them.
-/

namespace Sys2Proof.Proofs.DeviceTime
open Sys2Proof Sys2Proof.Machine

/-! ### The clock -/

/-- With no slew in progress device time runs at the rate that FREQ_ADJ sets, modulo the range of its seconds (R101). -/
theorem timeAfter_noSlew {t : TimeState} (n : Nat) (hrate : (0 : Int) ≤ 2 ^ 40 + t.freqAdj) (hslew : t.slew = 0) :
    timeAfter t n = { t with t := (t.t + 5 * (2 ^ 40 + t.freqAdj).toNat * n) % (2 ^ 48 * 1000000000 * 2 ^ 43) } := by
  obtain ⟨r, hr⟩ := Int.eq_ofNat_of_zero_le hrate
  have hnat : ((t.t : Int) + 5 * (r : Int) * n).toNat = t.t + 5 * r * n := by norm_cast
  simp only [timeAfter, unitNs, hslew, hr, Int.natAbs_zero, Nat.min_eq_min, Nat.min_zero, Int.lt_irrefl, if_false, Nat.cast_zero,
    Int.add_zero, Int.sub_self, hnat, Int.toNat_natCast]

/-- Ticks of device time pass one after another as they pass together. -/
theorem timeAfter_add {t : TimeState} (m n : Nat) (hrate : (0 : Int) ≤ 2 ^ 40 + t.freqAdj) (hslew : t.slew = 0) :
    timeAfter (timeAfter t m) n = timeAfter t (m + n) := by
  rw [timeAfter_noSlew m hrate hslew, timeAfter_noSlew (m + n) hrate hslew, timeAfter_noSlew n (by exact hrate) (by exact hslew)]
  simp only [Nat.mod_add_mod, Nat.mul_add, Nat.add_assoc]

/-- An advance to a later tick sets the clock, and moves device time while READY.TIME is set. -/
theorem advanceTo_later {s : State} {a : Nat} (ha : s.now < a) :
    advanceTo s a = { s with now := a, time := if isReady s 5 then timeAfter s.time (a - s.now) else s.time } :=
  if_neg (Nat.not_le.mpr ha)

/-- An advance to a tick that is not later changes nothing. -/
theorem advanceTo_past {s : State} {a : Nat} (ha : a ≤ s.now) : advanceTo s a = s := if_pos ha

/-- Without a slew, an advance may stop on its way. -/
theorem advanceTo_advanceTo {s : State} {a b : Nat} (hrate : (0 : Int) ≤ 2 ^ 40 + s.time.freqAdj) (hslew : s.time.slew = 0)
    (ha : s.now ≤ a) (hb : a ≤ b) : advanceTo (advanceTo s a) b = advanceTo s b := by
  rcases ha.eq_or_lt with rfl | ha
  · rw [advanceTo_past le_rfl]
  rcases hb.eq_or_lt with rfl | hb
  · exact advanceTo_past (by rw [advanceTo_later ha])
  have hsum : a - s.now + (b - a) = b - s.now := by omega
  rw [advanceTo_later ha, advanceTo_later (by exact hb), advanceTo_later (ha.trans hb)]
  cases hready : isReady s 5
  · simp [isReady, show s.ready.testBit 5 = false from hready]
  · simp [isReady, show s.ready.testBit 5 = true from hready, timeAfter_add _ _ hrate hslew, hsum]

/-- Settles O10, by the advance of the clock and by the sum of two advances. -/
theorem timeAdvances : Obligations.TimeAdvances :=
  fun s a _ => ⟨advanceTo_now s a, advanceTo_advanceTo⟩

/-- On an empty queue a step is one beacon tick. -/
theorem step_empty {s : State} (hq : s.pending = []) :
    step s = .next { s with now := s.now + 1, time := if isReady s 5 then timeAfter s.time 1 else s.time } := by
  simp only [step, hq, Machine.idleTick, advanceTo_later (Nat.lt_add_one s.now), Nat.add_sub_cancel_left]

/-- Settles O2, from the tick of an empty queue and the run of device time without a slew. -/
theorem idleTick : Obligations.IdleTick := by
  intro s hq
  rw [step_empty hq]
  constructor
  · intro hready
    simp [hready]
  · intro hready hslew hrate
    simp [hready, timeAfter_noSlew 1 hrate hslew]


/-! ### The time commands -/

/-- A correction's nanoseconds and fraction in units of 2^-43 ns (Table 3-8). -/
theorem corrUnits_eq (ns : Int) (frac : Nat) : corrUnits ns frac = ns * 2 ^ 43 + (frac : Int) * 2 ^ 27 := rfl

section Commands
variable {s : State} {mb : MbId}

/-- A command that finds its READY bit set runs. -/
theorem whenReady_ready {n bit : Nat} {k : State → State} (hready : isReady s bit = true) : whenReady s n bit k = k s :=
  if_pos hready

/-- A command that finds its READY bit clear is E_NOT_READY. -/
theorem whenReady_notReady {n bit : Nat} {k : State → State} (hready : isReady s bit = false) :
    whenReady s n bit k = reply s n eNotReady := if_neg (by simp [hready])

/-- TIME_READY makes the time unit ready from its reset values, once the processor die is out of reset (R101). -/
theorem exec_timeReady (hdie : s.power.dieOut = true) (hready : isReady s 5 = false) :
    exec .timeReady s = .next (setReady { s with time := {} } 5 true) := by
  show execTimeReady s = _
  simp [execTimeReady, hdie, hready]

/-- TIME_GET reads device time. -/
theorem exec_timeGet (hready : isReady s 5 = true) :
    exec (.timeGet mb) s = .next (reply s mb.val stOk (time12 (s.time.t / 2 ^ 43) (s.time.t % 2 ^ 43 / 2 ^ 27))) :=
  congrArg Host.Outcome.next (whenReady_ready hready)

/-- The number of bytes that a value is written in. -/
@[simp] theorem length_toLE (n v : Nat) : (toLE n v).length = n := by
  induction n generalizing v with
  | zero => rfl
  | succ n ih => simp [toLE, ih]

/-- The 10-byte form of a time has 10 bytes. -/
@[simp] theorem length_time10 (ns : Nat) : (time10 ns).length = 10 := by simp [time10]

/-- TIME_STATUS answers 32 bytes (Table 3-6). -/
theorem exec_timeStatus (hready : isReady s 5 = true) :
    ∃ d, exec (.timeStatus mb) s = .next (reply s mb.val stOk d) ∧ d.length = 32 :=
  ⟨_, congrArg Host.Outcome.next (whenReady_ready hready), by simp⟩

section Steering
variable (hready : isReady s 5 = true) (hhost : hostSteers s = true)
include hready hhost

/-- TIME_SET steps device time to the time given and sets TIME_VALID (R102, R103). -/
theorem exec_timeSet {sec : BitVec 48} {ns : BitVec 32} {frac : BitVec 16} (hns : ns.toNat < 1000000000) :
    ∃ u, exec (.timeSet mb sec ns frac) s = .next (reply { u with time := { u.time with valid := true } } mb.val stOk) ∧
      u = timeStep s (((sec.toNat * 1000000000 + ns.toNat) * 2 ^ 43 + frac.toNat * 2 ^ 27 : Nat) - (s.time.t : Int)) := by
  refine ⟨_, ?_, rfl⟩
  show execTimeSet mb sec ns frac s = _
  simp only [execTimeSet, whenReady_ready hready, hhost, Bool.true_eq_false, if_false, if_neg (Nat.not_le.mpr hns), unitNs]

/-- A correction within a set SLEW_LIMIT is slewed (R102). -/
theorem exec_timeOffset_slew {ns : BitVec 64} {frac : BitVec 16} {d : Int} (hd : corrUnits ns.toInt frac.toNat = d)
    (hset : 0 < slewLimit s.plan.now) (hin : d.natAbs ≤ slewLimit s.plan.now * unitNs) :
    exec (.timeOffset mb ns frac) s = .next (reply { s with time := { s.time with slew := d } } mb.val stOk) := by
  have hslewed : ¬ (slewLimit s.plan.now = 0 ∨ slewLimit s.plan.now * unitNs < d.natAbs) := by omega
  show execTimeOffset mb ns frac s = _
  simp only [execTimeOffset, whenReady_ready hready, hhost, Bool.true_eq_false, if_false, hd, hslewed, false_and, timeCorrect,
    if_pos (And.intro hset hin)]

/-- A correction beyond SLEW_LIMIT is a step, when it leaves device time at 0 or later (R102). -/
theorem exec_timeOffset_step {ns : BitVec 64} {frac : BitVec 16} {d : Int} (hd : corrUnits ns.toInt frac.toNat = d)
    (hout : slewLimit s.plan.now * unitNs < d.natAbs) (hpos : 0 ≤ (s.time.t : Int) + d) :
    exec (.timeOffset mb ns frac) s = .next (reply (timeStep s d) mb.val stOk) := by
  show execTimeOffset mb ns frac s = _
  simp only [execTimeOffset, whenReady_ready hready, hhost, Bool.true_eq_false, if_false, hd, Int.not_lt.mpr hpos, and_false, timeCorrect,
    Nat.not_le.mpr hout]

/-- TIME_FREQ sets FREQ_ADJ within its bounds (R101). -/
theorem exec_timeFreq_inside {f : BitVec 32} (hlo : -freqMax ≤ f.toInt) (hhi : f.toInt ≤ freqMax) :
    exec (.timeFreq mb f) s = .next (reply { s with time := { s.time with freqAdj := f.toInt } } mb.val stOk) := by
  show execTimeFreq mb f s = _
  simp only [execTimeFreq, whenReady_ready hready, hhost, Bool.true_eq_false, if_false, Int.not_lt.mpr hlo, Int.not_lt.mpr hhi, or_self]

/-- TIME_FREQ outside its bounds is E_ARGS (R101). -/
theorem exec_timeFreq_outside {f : BitVec 32} (hout : f.toInt < -freqMax ∨ freqMax < f.toInt) :
    exec (.timeFreq mb f) s = .next (reply s mb.val eArgs) := by
  show execTimeFreq mb f s = _
  simp only [execTimeFreq, whenReady_ready hready, hhost, Bool.true_eq_false, if_false, if_pos hout.symm]

end Steering

/-- A host that may not steer device time is E_RIGHTS (R103). -/
theorem exec_steering_refused (hready : isReady s 5 = true) (hhost : hostSteers s = false) (sec : BitVec 48) (ns : BitVec 32)
    (frac : BitVec 16) (off : BitVec 64) (offFrac : BitVec 16) (f : BitVec 32) :
    exec (.timeSet mb sec ns frac) s = .next (reply s mb.val eRights) ∧
      exec (.timeOffset mb off offFrac) s = .next (reply s mb.val eRights) ∧
      exec (.timeFreq mb f) s = .next (reply s mb.val eRights) :=
  have hrefused (k : State → State) (hk : k s = reply s mb.val eRights) :
      (.next (whenReady s mb.val 5 k) : Res) = .next (reply s mb.val eRights) := congrArg _ ((whenReady_ready hready).trans hk)
  ⟨hrefused _ (if_pos hhost), hrefused _ (if_pos hhost), hrefused _ (if_pos hhost)⟩

end Commands

/-- Settles O20, from the lemmas of the commands; before READY.TIME each is refused by `whenReady`. -/
theorem deviceTime : Obligations.DeviceTime := by
  refine fun mb s => ⟨exec_timeReady, fun hready a b c d e f => ?notReady, fun hready => ⟨exec_timeGet hready, exec_timeStatus hready,
    fun hhost => exec_steering_refused hready hhost, fun hhost => ⟨fun sec ns frac => exec_timeSet hready hhost,
      fun ns frac => exec_timeOffset_slew hready hhost (corrUnits_eq _ _), fun ns frac => exec_timeOffset_step hready hhost (corrUnits_eq _ _),
      fun f => exec_timeFreq_inside hready hhost, fun f => exec_timeFreq_outside hready hhost⟩⟩⟩
  case notReady =>
    have hrefused (k : State → State) : (.next (whenReady s mb.val 5 k) : Res) = .next (reply s mb.val eNotReady) :=
      congrArg _ (whenReady_notReady hready)
    exact ⟨hrefused _, hrefused _, hrefused _, hrefused _, hrefused _⟩

/-! ### The servo, PPS and the reference -/

section Events
variable {s : State} (hready : isReady s 5 = true)
include hready

/-- A sync interval of the Hawk servo without a correction: FREQ_ADJ takes Hawk's rate, and the offset is judged (R103, R104). -/
theorem exec_hawkServoCorrection_rate {f : BitVec 32} {off : BitVec 64} (hservo : servoOf s.plan.now = 1) (hhawk : s.host.hawkState = 1)
    (hf : f.toInt.natAbs ≤ 549755813) : exec (.hawkServoCorrection f 0 0 off) s = .next { s with
      time := servoMeasured { s.time with freqAdj := f.toInt } (lockThreshold s.plan.now) off.toInt } := by
  have hclamp : max (-freqMax) (min freqMax f.toInt) = f.toInt := by simp only [freqMax]; omega
  have hnone : corrUnits (0 : BitVec 64).toInt (0 : BitVec 16).toNat = 0 := by decide
  show execHawkServoCorrection f 0 0 off s = _
  simp only [execHawkServoCorrection, servoNow, hready, hservo, hhawk, hclamp, hnone, if_true]
  simp

/-- PPS_OUT starts a pulse at each new second of device time corrected by PPS_OUT_ADJ_PS, and only then (R107). -/
theorem exec_ppsOutEdge {v : Nat}
    (hv : v = ((s.time.t : Int) + signedOf 32 (leAt (timeEnt s.plan.now) 8 4) * 2 ^ 43 / 1000).toNat / (1000000000 * 2 ^ 43))
    (hen : timeFlag s.plan.now 0 = true) : exec .ppsOutEdge s = .next (if v ≤ s.time.ppsOutSecond then s else
      { s with out := .pps :: s.out, time := { s.time with
        ppsOutSecond := v, ppsOutUntil := s.now + 1600 * leAt (timeEnt s.plan.now) 4 4 } }) := by
  subst hv
  show execPpsOutEdge s = _
  simp only [execPpsOutEdge, hready, hen, Bool.true_eq_false, false_or, unitNs, Nat.cast_pow, Nat.cast_ofNat, emit, usTicks]

/-- The PPS input takes the time of its active edge, unless one came in the last 100 ms (R107). -/
theorem exec_ppsInEdge_taken {rising : Bool} (hen : timeFlag s.plan.now 1 = true) (hactive : rising = !(timeFlag s.plan.now 2))
    (hfar : s.time.ppsInTick = 0 ∨ s.time.ppsInTick + 160000000 ≤ s.now + 1) :
    exec (.ppsInEdge rising) s = .next { s with time := { s.time with
      ppsIn := ((s.time.t : Int) + signedOf 32 (leAt (timeEnt s.plan.now) 12 4) * 2 ^ 43 / 1000).toNat / 2 ^ 43
      ppsInSeen := true, ppsInTick := s.now + 1 } } := by
  have hnear : ¬ (0 < s.time.ppsInTick ∧ s.now + 1 < s.time.ppsInTick + msTicks 100) := by simp only [msTicks]; omega
  have hbne : ((!timeFlag s.plan.now 2) != timeFlag s.plan.now 2) = true := by simp
  show execPpsInEdge rising s = _
  simp only [execPpsInEdge, hready, hen, hactive, hbne, Bool.true_eq_false, false_or, Bool.and_eq_true, decide_eq_true_eq, if_neg hnear,
    unitNs, Nat.cast_pow, Nat.cast_ofNat]

/-- A reference beyond 100 ppm, or one that has stopped, is recorded when it goes (R108). -/
theorem exec_refCheck_gone {ppm : BitVec 16} {stopped : Bool} (hbad : stopped = true ∨ 100 < ppm.toInt.natAbs) (hin : s.time.refOut = false) :
    exec (.refCheck ppm stopped) s = .next (record { s with time := { s.time with refOut := true } } 2 0x02 0x0002 (unitLoc 17 0)) := by
  have hdec : (stopped || decide (100 < ppm.toInt.natAbs)) = true := by simpa using hbad
  show execRefCheck ppm stopped s = _
  simp only [execRefCheck, hready, hdec, hin, timeLoc, Bool.true_eq_false, and_self, if_true, if_false]

/-- A reference that is gone already leaves the state as it is (R108). -/
theorem exec_refCheck_stillGone {ppm : BitVec 16} {stopped : Bool} (hbad : stopped = true ∨ 100 < ppm.toInt.natAbs) (hout : s.time.refOut = true) :
    exec (.refCheck ppm stopped) s = .next s := by
  have hdec : (stopped || decide (100 < ppm.toInt.natAbs)) = true := by simpa using hbad
  have hsame : { s.time with refOut := true } = s.time := by rw [← hout]
  show execRefCheck ppm stopped s = _
  simp only [execRefCheck, hready, hdec, hout, hsame, Bool.true_eq_false, and_false, if_false]

/-- A reference within 100 ppm clears REF_OUT_OF_TOLERANCE (R108). -/
theorem exec_refCheck_good {ppm : BitVec 16} (hgood : ppm.toInt.natAbs ≤ 100) :
    exec (.refCheck ppm false) s = .next { s with time := { s.time with refOut := false } } := by
  have hdec : (false || decide (100 < ppm.toInt.natAbs)) = false := by simpa using hgood
  show execRefCheck ppm false s = _
  simp only [execRefCheck, hready, hdec, Bool.true_eq_false, Bool.false_eq_true, false_and, if_false]

end Events

/-- Settles O21, from the lemmas of the events. -/
theorem servoPpsReference : Obligations.ServoPpsReference := by
  refine fun s hready => ⟨fun f off => exec_hawkServoCorrection_rate hready, fun v hv hen => ?ppsOut,
    fun rising => exec_ppsInEdge_taken hready, fun ppm stopped hbad => ⟨exec_refCheck_gone hready hbad, exec_refCheck_stillGone hready hbad⟩,
    fun ppm => exec_refCheck_good hready⟩
  case ppsOut =>
    have hedge := exec_ppsOutEdge hready hv hen
    exact ⟨fun hnew => hedge.trans (by rw [if_neg (Nat.not_le.mpr hnew)]), fun hold => hedge.trans (by rw [if_pos hold])⟩

end Sys2Proof.Proofs.DeviceTime
end

section
/-!
PROOFS. Link states and the port commands (R85, R87, R98, R99, R106, Tables 3-8 and 3-17): what each event and each command
does in each case of its rule, and O17 and O18 from them.
-/

namespace Sys2Proof.Proofs.PortLinks
open Sys2Proof Sys2Proof.Machine

/-! ### Link states and verification -/

section Links
variable {s : State} {port : PortId}

/-- A port in TRAINING or DOWN comes up with its LANE_READY bits; without PREEMPT no verification starts (R87, R98). -/
theorem exec_linkUp_noPreempt (hen : portEnabled s.plan.now port.val = true)
    (hst : (getPort s port.val).st = 1 ∨ (getPort s port.val).st = 3) (hrec : recovering s (portLoc port.val) = false)
    (hpre : portFlag s.plan.now port.val 3 = false) :
    exec (.linkUp port) s = .next (modPort { s with laneReady := s.laneReady ||| laneMask s.plan.now port.val } port.val
      (fun p => { p with st := 2, lastChange := devNs s })) := by
  have hrest : ¬ ((getPort s port.val).st ≠ 1 ∧ (getPort s port.val).st ≠ 3) := by omega
  show execLinkUp port s = _
  simp only [execLinkUp, hen, hrec, if_neg hrest, startVerify, hpre, Bool.true_eq_false, Bool.false_eq_true, false_or, or_false,
    true_or, if_true]
  rfl

/-- A link that is up is lost (R99). -/
theorem exec_linkLoss_up (hup : portUp s port.val = true) : exec (.linkLoss port) s = .next (linkLost s port.val) :=
  congrArg Host.Outcome.next (if_pos hup)

/-- A link that is not up cannot be lost. -/
theorem exec_linkLoss_down (hdown : portUp s port.val = false) : exec (.linkLoss port) s = .next s :=
  congrArg Host.Outcome.next (if_neg (Bool.eq_false_iff.mp hdown))

/-- A restart of auto-negotiation on a port that is not up only counts (R98). -/
theorem exec_anRestart_down (hen : portEnabled s.plan.now port.val = true) (han : portFlag s.plan.now port.val 1 = true)
    (hdown : portUp s port.val = false) : exec (.anRestart port) s = .next (portCount s port.val 0x220 1) := by
  show execAnRestart port s = _
  simp [execAnRestart, hen, han, hdown]

/-- A verify mPacket is answered (R87). -/
theorem exec_verifyResponseRx_verify (hup : portUp s port.val = true) :
    exec (.verifyResponseRx port false) s = .next (emit s (.verify port.val true)) := by
  show execVerifyResponseRx port false s = _
  simp [execVerifyResponseRx, hup]

/-- A respond mPacket during verification activates preemption (R87). -/
theorem exec_verifyResponseRx_respond (hup : portUp s port.val = true) (htries : 0 < (getPort s port.val).verifyTries)
    (hfailed : (getPort s port.val).verifyFailed = false) : exec (.verifyResponseRx port true) s =
      .next (modPort s port.val (fun p => { p with preemptActive := true, verifyTries := 0 })) := by
  show execVerifyResponseRx port true s = _
  simp [execVerifyResponseRx, hup, hfailed, Nat.ne_of_gt htries]

/-- The third attempt without a response ends verification with VERIFY_FAILED (R87). -/
theorem exec_verifyTimeout_third (hup : portUp s port.val = true) (htries : (getPort s port.val).verifyTries = 3)
    (hactive : (getPort s port.val).preemptActive = false) (hfailed : (getPort s port.val).verifyFailed = false) :
    exec (.verifyTimeout port) s = .next (portCount (modPort
      (advanceTo s ((getPort s port.val).verifyAt + msTicks (byteAt (portEnt s.plan.now port.val) 6))) port.val
      (fun p => { p with verifyFailed := true, verifyTries := 0 })) port.val 0x2B0 1) := by
  show execVerifyTimeout port s = _
  simp [execVerifyTimeout, hup, htries, hactive, hfailed]

end Links

/-- Settles O17, by the lemma of each case. -/
theorem linkStates : Obligations.LinkStates :=
  fun _ _ => ⟨exec_linkUp_noPreempt, exec_linkLoss_up, exec_linkLoss_down, exec_anRestart_down, exec_verifyResponseRx_verify,
    exec_verifyResponseRx_respond, exec_verifyTimeout_third⟩

/-! ### The port commands -/

section Commands
variable {s : State} {mb : MbId} {port : BitVec 8}

/-- A command that names a port absent from the plan in force is E_NOT_FOUND. -/
theorem withPort_absent {k : Nat → State} (hen : portEnabled s.plan.now port.toNat = false) :
    withPort s mb port k = reply s mb.val eNotFound := if_neg (Bool.eq_false_iff.mp hen)

/-- A command that names an enabled port runs on it. -/
theorem withPort_enabled {k : Nat → State} (hen : portEnabled s.plan.now port.toNat = true) :
    withPort s mb port k = k port.toNat := if_pos hen

/-- Each port command is E_NOT_FOUND on a port absent from the plan in force. -/
theorem exec_portCommand_absent (hen : portEnabled s.plan.now port.toNat = false) (m : BitVec 8) (f c : BitVec 16) (x : BitVec 8) :
    exec (.portStatus mb port) s = .next (reply s mb.val eNotFound) ∧
      exec (.portRestart mb port) s = .next (reply s mb.val eNotFound) ∧
      exec (.portLoopback mb port m) s = .next (reply s mb.val eNotFound) ∧
      exec (.portCounters mb port f c) s = .next (reply s mb.val eNotFound) ∧
      exec (.txTsRead mb port x) s = .next (reply s mb.val eNotFound) :=
  have hrefused (k : Nat → State) : (.next (withPort s mb port k) : Res) = .next (reply s mb.val eNotFound) :=
    congrArg _ (withPort_absent hen)
  ⟨hrefused _, hrefused _, hrefused _, hrefused _, hrefused _⟩

section Enabled
variable (hen : portEnabled s.plan.now port.toNat = true)
include hen

/-- PORT_STATUS: TX_SA and RX_SAS are 5 bytes (Table 3-17). -/
theorem exec_portStatus : ∃ sas, exec (.portStatus mb port) s = .next (reply s mb.val stOk (toLE 1 (getPort s port.toNat).st ++
      toLE 1 (b2n (getPort s port.toNat).verifyFailed + 2 * b2n (getPort s port.toNat).preemptActive) ++
      toLE 1 (getPort s port.toNat).loopback ++ sas ++ time10 (getPort s port.toNat).lastChange ++ zeros 6)) ∧ sas.length = 5 := by
  refine ⟨toLE 1 (portSas s port.toNat).1 ++ toLE 4 (portSas s port.toNat).2, ?_, by simp⟩
  show execPortStatus mb port s = _
  simp only [execPortStatus, withPort_enabled hen, List.append_assoc]

/-- PORT_RESTART drops everything, takes the port to TRAINING and starts verification afresh (R87, R98). -/
theorem exec_portRestart : exec (.portRestart mb port) s =
    .next (reply (modPort (portBringUp s port.toNat) port.toNat (fun p => { p with verifyFailed := false })) mb.val stOk) :=
  congrArg Host.Outcome.next (withPort_enabled hen)

/-- PORT_LOOPBACK takes the modes up to 2 and refuses every other. -/
theorem exec_portLoopback (m : BitVec 8) : exec (.portLoopback mb port m) s = .next (if 2 < m.toNat then reply s mb.val eArgs
    else reply (modPort s port.toNat (fun p => { p with loopback := m.toNat })) mb.val stOk) :=
  congrArg Host.Outcome.next (withPort_enabled hen)

/-- PORT_COUNTERS reads up to 62 whole words within the port's block, and refuses every other range. -/
theorem exec_portCounters (f c : BitVec 16) : exec (.portCounters mb port f c) s =
    .next (if f.toNat % 8 ≠ 0 ∨ 62 < c.toNat ∨ 0x1000 < f.toNat + 8 * c.toNat then reply s mb.val eArgs
      else reply s mb.val stOk ((List.range c.toNat).flatMap (fun k => toLE 8 (portWord s port.toNat (f.toNat + 8 * k))))) :=
  congrArg Host.Outcome.next (withPort_enabled hen)

/-- TX_TS_READ returns and removes the oldest entries of the timestamp ring, up to 31 (R106). -/
theorem exec_txTsRead (x : BitVec 8) : exec (.txTsRead mb port x) s =
    .next (reply (modPort s port.toNat (fun p => { p with tsRing := p.tsRing.drop (Nat.min x.toNat 31) }))
      mb.val stOk ((getPort s port.toNat).tsRing.take (Nat.min x.toNat 31)).flatten) := by
  show execTxTsRead mb port x s = _
  simp only [execTxTsRead, withPort_enabled hen, List.flatMap_id']

end Enabled
end Commands

/-- Settles O18: absent ports by `exec_portCommand_absent`, enabled ones by the lemma of each command. -/
theorem portCommands : Obligations.PortCommands := by
  refine fun mb port s => ⟨exec_portCommand_absent, fun hen => ⟨exec_portStatus hen, exec_portRestart hen,
    fun m hm => ?mode, fun m hm => ?noMode, fun f c hf hc hfc => ?words, fun f c hbad => ?noWords, exec_txTsRead hen⟩⟩
  case mode => rw [exec_portLoopback hen, if_neg (Nat.not_lt.mpr hm)]
  case noMode => rw [exec_portLoopback hen, if_pos hm]
  case words => rw [exec_portCounters hen, if_neg (by omega)]
  case noWords => rw [exec_portCounters hen, if_pos hbad]

end Sys2Proof.Proofs.PortLinks
end

section
/-!
PROOFS. The MACsec commands (R93, R94, R96, Tables 3-8 and 3-9): what each does on a port with a SecY and on one without, and
O19 from them.
-/

namespace Sys2Proof.Proofs.MacsecCommands
open Sys2Proof Sys2Proof.Machine

section Commands
variable {s : State} {mb : MbId}

/-- A MACsec command on an enabled port with a SecY runs on its entry. -/
theorem withSecy_some {n port : Nat} {y : Bytes} {k : Bytes → State} (hen : portEnabled s.plan.now port = true)
    (hy : secyOf s.plan.now port = some y) : withSecy s n port k = k y := by
  simp [withSecy, hen, hy]

/-- A MACsec command on a port without a SecY is E_NOT_FOUND. -/
theorem withSecy_none {n port : Nat} {k : Bytes → State} (hy : secyOf s.plan.now port = none) :
    withSecy s n port k = reply s n eNotFound := by
  simp [withSecy, hy]

/-! ### SA_INSTALL -/

/-- SA_INSTALL of a receive association with its arguments in order holds the key that unwraps under the MACsec
key-encryption key, and is E_SIGNATURE when none does (R93, R94). -/
theorem exec_macsecSaInstall_rx {a kek y : Bytes} (hen : portEnabled s.plan.now (byteAt a 0) = true)
    (hy : secyOf s.plan.now (byteAt a 0) = some y) (hres : byteAt a 3 = 0) (htail : allZero (slice a 76 4) = true)
    (hdir : byteAt a 1 = 0) (han : byteAt a 2 ≤ 3) (hpn : 0 < leAt a 12 8) (hmax : leAt a 12 8 ≤ pnMax (secyXpn y))
    (hsalt : secyXpn y = false → allZero (slice a 20 16) = true)
    (hsc : (rxScOf s.plan.now (byteAt a 0) (leAt a 4 8)).isSome = true) (hkek : tblFind s.svc.keks 0 = some kek) :
    ∃ sel, exec (.macsecSaInstall mb a) s = .next (match keyUnwrap kek (slice a 36 40) with
      | some key => reply (putSa s {
          port := byteAt a 0, tx := false, sci := leAt a 4 8, an := byteAt a 2, next := leAt a 12 8,
          lowest := leAt a 12 8, ssci := leAt a 20 4, salt := slice a 24 12, key := key, selected := sel }) mb.val stOk
      | none => reply s mb.val eSignature) := by
  refine ⟨s.ports.sas.any (fun z => z.port == byteAt a 0 && z.tx == false && z.sci == leAt a 4 8 && z.an == byteAt a 2 && z.selected && !z.old), ?_⟩
  have hplain : (!secyXpn y && !allZero (slice a 20 16)) = false := by
    cases hx : secyXpn y
    · simp [hsalt hx]
    · rfl
  show execMacsecSaInstall mb a s = _
  simp only [execMacsecSaInstall, withSecy_some hen hy, hres, htail, hdir, hplain, Nat.not_lt.mpr han, Nat.ne_of_gt hpn,
    Nat.not_lt.mpr hmax, Option.isNone_eq_false_iff.mpr hsc, hkek, Option.bind_some]
  cases keyUnwrap kek (slice a 36 40) <;> simp

/-! ### TX_SELECT -/

/-- TX_SELECT of an installed AN makes it the one transmit association in use (R96). -/
theorem exec_macsecTxSelect_installed {port an : BitVec 8} {y : Bytes} {x : MacSa} (hen : portEnabled s.plan.now port.toNat = true)
    (hy : secyOf s.plan.now port.toNat = some y) (han : an.toNat ≤ 3) (hmem : x ∈ s.ports.sas) (hport : x.port = port.toNat)
    (htx : x.tx = true) (hsci : x.sci = leAt y 8 8) (hxan : x.an = an.toNat) (hold : x.old = false) :
    exec (.macsecTxSelect mb port an) s = .next (reply { s with ports := { s.ports with sas := s.ports.sas.map (fun z =>
      if z.port = port.toNat ∧ z.tx = true ∧ z.sci = leAt y 8 8 ∧ z.old = false
      then { z with selected := decide (z.an = an.toNat) } else z) } } mb.val stOk) := by
  have hany : s.ports.sas.any (fun z => (z.port == port.toNat && z.tx && z.sci == leAt y 8 8 && !z.old) && z.an == an.toNat) = true :=
    List.any_eq_true.mpr ⟨x, hmem, by simp [hport, htx, hsci, hxan, hold]⟩
  show execMacsecTxSelect mb port an s = _
  simp only [execMacsecTxSelect, withSecy_some hen hy, if_neg (Nat.not_lt.mpr han), hany, Bool.true_eq_false, if_false]
  simp only [Bool.and_eq_true, Bool.not_eq_true', beq_eq_decide, decide_eq_true_eq, and_assoc]

/-! ### SA_ERASE -/

/-- Whether SA_ERASE names the association. -/
def saNamed (port dir : BitVec 8) (sci : BitVec 64) (an : BitVec 8) (z : MacSa) : Bool :=
  z.port == port.toNat && z.tx == (dir.toNat == 1) && z.sci == sci.toNat && z.an == an.toNat && !z.old

/-- SA_ERASE names an association of the present plan by its port, direction, SCI and AN. -/
theorem saNamed_iff {port dir an : BitVec 8} {sci : BitVec 64} {z : MacSa} : saNamed port dir sci an z = true ↔
    z.port = port.toNat ∧ z.tx = decide (dir.toNat = 1) ∧ z.sci = sci.toNat ∧ z.an = an.toNat ∧ z.old = false := by
  simp only [saNamed, Bool.and_eq_true, Bool.not_eq_true', beq_eq_decide, decide_eq_true_eq, and_assoc]

/-- SA_ERASE removes the association that it names. -/
theorem exec_macsecSaErase_installed {port dir an : BitVec 8} {sci : BitVec 64} {y : Bytes} {x : MacSa}
    (hen : portEnabled s.plan.now port.toNat = true) (hy : secyOf s.plan.now port.toNat = some y) (hdir : dir.toNat ≤ 1)
    (han : an.toNat ≤ 3) (hmem : x ∈ s.ports.sas) (hx : saNamed port dir sci an x = true) :
    exec (.macsecSaErase mb port dir sci an) s = .next (reply { s with ports := { s.ports with
      sas := s.ports.sas.filter (fun z => !saNamed port dir sci an z) } } mb.val stOk) := by
  have hany : s.ports.sas.any (saNamed port dir sci an) = true := List.any_eq_true.mpr ⟨x, hmem, hx⟩
  show execMacsecSaErase mb port dir sci an s = _
  unfold saNamed at hany ⊢
  simp only [execMacsecSaErase, withSecy_some hen hy, Nat.not_lt.mpr hdir, Nat.not_lt.mpr han, or_self, if_false, hany, Bool.true_eq_false]

/-! ### STATUS and ports without a SecY -/

/-- STATUS only answers, with at most 496 bytes. -/
theorem exec_macsecStatus_secy {port : BitVec 8} {y : Bytes} (hen : portEnabled s.plan.now port.toNat = true)
    (hy : secyOf s.plan.now port.toNat = some y) :
    ∃ d, exec (.macsecStatus mb port) s = .next (reply s mb.val stOk d) ∧ d.length ≤ 496 :=
  ⟨_, congrArg Host.Outcome.next (withSecy_some hen hy), List.length_take_le _ _⟩

/-- A port without a SecY is E_NOT_FOUND. -/
theorem exec_macsecCommand_noSecy {port dir an : BitVec 8} {sci : BitVec 64} (hy : secyOf s.plan.now port.toNat = none) :
    exec (.macsecTxSelect mb port an) s = .next (reply s mb.val eNotFound) ∧
      exec (.macsecStatus mb port) s = .next (reply s mb.val eNotFound) ∧
      exec (.macsecSaErase mb port dir sci an) s = .next (reply s mb.val eNotFound) :=
  have hrefused (k : Bytes → State) : (.next (withSecy s mb.val port.toNat k) : Res) = .next (reply s mb.val eNotFound) :=
    congrArg _ (withSecy_none hy)
  ⟨hrefused _, hrefused _, hrefused _⟩

end Commands

/-- Settles O19, by the lemma of each command. -/
theorem secureAssociations : Obligations.SecureAssociations := by
  refine fun mb s => ⟨fun a kek y => exec_macsecSaInstall_rx, fun port an y x => exec_macsecTxSelect_installed,
    fun port dir an sci y x hen hy hdir han hmem hport htx hsci hxan hold => ?erase,
    fun port y => exec_macsecStatus_secy, fun port dir an sci => exec_macsecCommand_noSecy⟩
  case erase =>
    have hx : saNamed port dir sci an x = true := saNamed_iff.mpr ⟨hport, htx, hsci, hxan, hold⟩
    refine ⟨_, exec_macsecSaErase_installed hen hy hdir han hmem hx, rfl, fun z => ?_⟩
    rw [← saNamed_iff, Bool.not_eq_true, ← Bool.not_eq_true']
    exact List.mem_filter

end Sys2Proof.Proofs.MacsecCommands
end

section
/-!
PROOFS. Reception, reassembly and Hod's answers (R81, R82, R89, R90, R214): what becomes of a frame, of an mPacket and of an
answer in each case of its rule, and O14 and O15 from them.
-/

namespace Sys2Proof.Proofs.Reception
open Sys2Proof Sys2Proof.Machine

/-! ### The counters of a frame -/

/-- The RMON counters of a frame's length change counters only. -/
theorem rmonFrame_frame (s : State) (n base len : Nat) :
    rmonFrame s n base len = { s with cnt := (rmonFrame s n base len).cnt } := by
  unfold rmonFrame
  dsimp only
  split <;> rfl

/-- The RMON counters of a frame's kind of address change counters only. -/
theorem rmonCast_frame (s : State) (n base : Nat) (f : Bytes) :
    rmonCast s n base f = { s with cnt := (rmonCast s n base f).cnt } := by
  unfold rmonCast
  split
  · rfl
  · split <;> rfl

/-- The RMON receive counters of a frame change counters only. -/
theorem rxCounted_frame (s : State) (n : Nat) (f : Bytes) : rxCounted s n f = { s with cnt := (rxCounted s n f).cnt } := by
  unfold rxCounted
  rw [rmonCast_frame, rmonFrame_frame]

/-! ### The checks of Table 3-3 in order -/

section Checks
variable {s : State} {n : Nat} {f : Bytes} {pre : Bool} {time : Nat}

/-- A frame with a right FCS. -/
def Sound (f : Bytes) : Prop := 4 ≤ f.length ∧ leAt f (f.length - 4) 4 = crc32 (f.take (f.length - 4))

/-- A frame lost in symbols counts by its length (Table 3-3). -/
theorem portReceive_lost {fecBad : Bool} : portReceive s n f true fecBad pre time =
    portCount (rmonFrame s n 0 f.length) n (if f.length < 64 then 0x38 else 0x40) 1 := by
  simp [portReceive]

/-- A frame with a wrong FCS counts as one (Table 3-3). -/
theorem portReceive_unsound (hf : ¬ Sound f) :
    portReceive s n f false false pre time = portCount (rmonFrame s n 0 f.length) n 0x20 1 := by
  have hbad : leAt f (f.length - 4) 4 ≠ crc32 (f.take (f.length - 4)) ∨ f.length < 4 :=
    (not_and_or.mp hf).symm.imp_right Nat.not_le.mp
  simp [portReceive, hbad]

section SoundFrame
variable (hf : Sound f)
include hf

/-- A sound frame below 64 bytes counts as too short (Table 3-3). -/
theorem portReceive_short (hshort : f.length < 64) :
    portReceive s n f false false pre time = portCount (rmonFrame s n 0 f.length) n 0x28 1 := by
  obtain ⟨hlen, hfcs⟩ := hf
  simp [portReceive, hfcs, Nat.not_lt.mpr hlen, hshort]

/-- A sound frame above the port's limit counts as too long (Table 3-3). -/
theorem portReceive_long (hmin : 64 ≤ f.length) (hlong : portMaxFrame s.plan.now n < f.length) :
    portReceive s n f false false pre time = portCount (rmonFrame s n 0 f.length) n 0x30 1 := by
  obtain ⟨hlen, hfcs⟩ := hf
  simp [portReceive, hfcs, Nat.not_lt.mpr hlen, Nat.not_lt.mpr hmin, hlong]

/-- A sound frame of a right length is counted; without a SecY, MAC Control counts and every other frame is accepted
(R81, R82). -/
theorem portReceive_counted (hmin : 64 ≤ f.length) (hmax : f.length ≤ portMaxFrame s.plan.now n)
    (hy : secyOf s.plan.now n = none) : portReceive s n f false false pre time =
      if beAt (f.take (f.length - 4)) 12 2 = 0x8808 then portCount (rxCounted s n f) n 0xA8 1
      else acceptFrame (rxCounted s n f) s.plan.now n
        { port := n, len := (f.take (f.length - 4)).length, time := time, macsec := 0, scIndex := 0, preemptable := pre }
        (f.take (f.length - 4)) := by
  obtain ⟨hlen, hfcs⟩ := hf
  simp only [portReceive, macReceive, hy, hfcs, Bool.false_eq_true, ne_eq, not_true_eq_false, Nat.not_lt.mpr hlen, Nat.not_lt.mpr hmin,
    Nat.not_lt.mpr hmax, or_self, if_false]
  rfl

end SoundFrame

/-- Outside a pair an accepted frame waits for Hod's buffer (R82, R214). -/
theorem acceptFrame_noPair {p : PlanCopy} {rx : RxFields} (hpair : pairAt p n = none) : acceptFrame s p n rx f = requestAlloc s rx f none := by
  simp only [acceptFrame, hpair]

/-- A frame that waits for Hod after its counters: nothing else has changed. -/
theorem requestAlloc_rxCounted {g : Bytes} {rx : RxFields} : requestAlloc (rxCounted s n f) rx g none = { s with
    cnt := (rxCounted s n f).cnt
    ports := { s.ports with rxWait := s.ports.rxWait ++
      [{ bytes := pad60 g, rx := { rx with len := (pad60 g).length }, epoch := s.plan.epoch, tick := s.now, pass := none }] } } := by
  rw [rxCounted_frame]
  rfl

/-- A port that is up and not looped back receives what comes. -/
theorem exec_rxFrame_up {port : PortId} {lost fecBad : Bool} (hup : portUp s port.val = true) (hlb : (getPort s port.val).loopback = 0) :
    exec (.rxFrame port f lost fecBad) s = .next (portReceive s port.val f lost fecBad false (rxTime s port.val f.length)) := by
  show execRxFrame port f lost fecBad s = _
  simp [execRxFrame, hup, hlb]

end Checks

/-- Settles O14: on a port that is up RX_FRAME is `portReceive`, and each case is the lemma of its check. -/
theorem frameReception : Obligations.FrameReception := by
  intro port f fecBad s hup hlb n u body sound
  simp only [exec_rxFrame_up hup hlb]
  refine ⟨congrArg _ portReceive_lost, fun hf => congrArg _ (portReceive_unsound hf), fun hf hshort => congrArg _ (portReceive_short hf hshort),
    fun hf hmin hlong => congrArg _ (portReceive_long hf hmin hlong), fun hf hmin hmax hy => ⟨fun hctl => ?control, fun hctl hpair => ?wait⟩⟩
  case control => rw [portReceive_counted hf hmin hmax hy, if_pos hctl]
  case wait =>
    refine ⟨_, ?_, rfl⟩
    rw [portReceive_counted hf hmin hmax hy, if_neg hctl, acceptFrame_noPair hpair, requestAlloc_rxCounted]

/-! ### Reassembly -/

section Fragments
variable {s : State} {port : PortId} {fc gc : BitVec 2} {d : Bytes} (hup : portUp s port.val = true) (hlb : (getPort s port.val).loopback = 0)
include hup hlb

/-- A continuation with no frame in reassembly counts as an assembly error (R89). -/
theorem exec_mmFragmentRx_orphan (hnone : (getPort s port.val).reasm = none) :
    exec (.mmFragmentRx port false fc gc d) s = .next (portCount (portCount s port.val 0x298 1) port.val 0x288 1) := by
  show execMmFragmentRx port false fc gc d s = _
  simp [execMmFragmentRx, hup, hlb, hnone]

/-- The start of a frame whose check is the mCRC waits in reassembly (R89, R90). -/
theorem exec_mmFragmentRx_start (hnone : (getPort s port.val).reasm = none)
    (hpart : leAt d (d.length - 4) 4 = mCrc (d.take (d.length - 4))) (hwhole : leAt d (d.length - 4) 4 ≠ crc32 (d.take (d.length - 4))) :
    exec (.mmFragmentRx port true fc gc d) s = .next (modPort s port.val (fun p => { p with reasm := some {
      frameCount := fc.toNat, fragCount := 0, data := d.take (d.length - 4), time := rxTime s port.val d.length } })) := by
  show execMmFragmentRx port true fc gc d s = _
  simp only [execMmFragmentRx, hup, hlb, hnone, if_neg hwhole, if_pos hpart, Bool.true_eq_false, Option.isSome_none, Bool.false_eq_true,
    zero_ne_one, or_self, if_false]

/-- A continuation of another frame, or out of its order, drops the frame in reassembly (R90). -/
theorem exec_mmFragmentRx_misfit {r : Reasm} (hsome : (getPort s port.val).reasm = some r)
    (hmisfit : r.frameCount ≠ fc.toNat ∨ r.fragCount % 4 ≠ gc.toNat) : exec (.mmFragmentRx port false fc gc d) s =
      .next (modPort (portCount (portCount s port.val 0x298 1) port.val 0x280 1) port.val (fun p => { p with reasm := none })) := by
  show execMmFragmentRx port false fc gc d s = _
  simp only [execMmFragmentRx, hup, hlb, hsome, if_pos hmisfit, Bool.true_eq_false, zero_ne_one, or_self, if_false]

end Fragments

/-! ### Hod's answers -/

section Answers
variable {s u : State} {w : RxWait} {r : List RxWait}

/-- With no frame waiting Hod has nothing to answer. -/
theorem exec_hodAllocAnswer_idle (hwait : s.ports.rxWait = []) : exec .hodAllocAnswer s = .next s := by
  show execHodAllocAnswer s = _
  simp only [execHodAllocAnswer, hwait]

/-- A grant writes the oldest waiting frame at HEADROOM and admits it to its pipeline's Stencil engine (R214). -/
theorem exec_hodAllocAnswer_granted {h : Nat} {x : State} (hwait : s.ports.rxWait = w :: r) (hpass : w.pass = none)
    (hhod : hodAlloc { s with ports := { s.ports with rxWait := r } } (portDropDomain (s.plan.of w.epoch) w.rx.port)
      (headroom (s.plan.of w.epoch) + w.bytes.length) = (.granted h, u))
    (hx : x = hbmPut u 1 w.rx.port (bufAddr u h + headroom (s.plan.of w.epoch)) w.bytes)
    (hrec : recovering x (unitLoc (18 + w.rx.port / 32) 0) = false) :
    exec .hodAllocAnswer s = .next { x with stencil := { x.stencil with walking := x.stencil.walking ++
      [{ handle := h, rx := w.rx, epoch := w.epoch, tick := w.tick, source := w.rx.port }] } } := by
  subst hx
  show execHodAllocAnswer s = _
  simp only [execHodAllocAnswer, hwait, hpass, hhod, pipeOf, hrec, Bool.false_eq_true, if_false]

/-- A refusal drops the oldest waiting frame and counts it at its port and its domain (R81 order 8). -/
theorem exec_hodAllocAnswer_refused {a b : Nat} (hwait : s.ports.rxWait = w :: r) (hpass : w.pass = none)
    (hhod : hodAlloc { s with ports := { s.ports with rxWait := r } } (portDropDomain (s.plan.of w.epoch) w.rx.port)
      (headroom (s.plan.of w.epoch) + w.bytes.length) = (.refused a b, u)) :
    exec .hodAllocAnswer s = .next (domCnt (portCount u w.rx.port 0x50 1) (portDropDomain (s.plan.of w.epoch) w.rx.port) 0x40) := by
  show execHodAllocAnswer s = _
  simp only [execHodAllocAnswer, hwait, hpass, hhod]

end Answers

/-- Settles O15, by the lemma of each case. -/
theorem fragmentsAndAdmission : Obligations.FragmentsAndAdmission :=
  fun _ => ⟨fun _ _ _ _ hup hlb => ⟨exec_mmFragmentRx_orphan hup hlb, exec_mmFragmentRx_start hup hlb, fun _ => exec_mmFragmentRx_misfit hup hlb⟩,
    exec_hodAllocAnswer_idle, fun _ _ _ _ _ => exec_hodAllocAnswer_granted, fun _ _ _ _ _ => exec_hodAllocAnswer_refused⟩

end Sys2Proof.Proofs.Reception
end

section
/-!
PROOFS. Transmission (R83 to R88, R219): what TX_FRAME and TX_COMPLETE do in each case of their rules, and O16 from them.
-/

namespace Sys2Proof.Proofs.Transmission
open Sys2Proof Sys2Proof.Machine

/-! ### TX_FRAME -/

section Start
variable {s : State} {port : PortId}

/-- A port that is not up starts nothing. -/
theorem exec_txFrame_down (hdown : portUp s port.val = false) : exec (.txFrame port) s = .next s :=
  congrArg Host.Outcome.next (if_pos hdown)

variable (hup : portUp s port.val = true)
include hup

/-- A port whose wire is free takes the oldest frame of its transmit buffer (R83). -/
theorem exec_txFrame_next {i : TxItem} {r : List TxItem} (hwire : (getPort s port.val).onWire = none)
    (hbuf : (getPort s port.val).txBuf = i :: r) :
    exec (.txFrame port) s = .next (startFrame (modPort s port.val (fun p => { p with txBuf := r })) port.val i) := by
  show execTxFrame port s = _
  simp only [execTxFrame, hup, hwire, hbuf, Bool.true_eq_false, if_false]

/-- With an empty transmit buffer the port goes on with the frame that was cut, unless its gate holds (R88). -/
theorem exec_txFrame_resume {w : OnWire} (hwire : (getPort s port.val).onWire = none) (hbuf : (getPort s port.val).txBuf = [])
    (hheld : (getPort s port.val).held = some w) (hgate : (getGate s port.val).hold = false) :
    exec (.txFrame port) s = .next (portCount (modPort (advanceTo s (getPort s port.val).freeAt) port.val (fun p => { p with
      onWire := some { w with start := (advanceTo s (getPort s port.val).freeAt).now, frags := w.frags + 1 }, held := none }))
      port.val 0x2A0 1) := by
  show execTxFrame port s = _
  simp only [execTxFrame, hup, hwire, hbuf, hheld, hgate, Bool.true_eq_false, Bool.false_eq_true, false_and, if_false]

/-- An express frame cuts a preemptable one at its next boundary: the part sent leaves with its mCRC, and the express frame
starts (R88). -/
theorem exec_txFrame_cut {w : OnWire} {i : TxItem} {r : List TxItem} {b : Nat} (hwire : (getPort s port.val).onWire = some w)
    (hbuf : (getPort s port.val).txBuf = i :: r) (hpre : w.item.preemptable = true) (hexp : i.preemptable = false)
    (hact : preempting s port.val = true) (hcut : preemptAt s port.val w = some b) :
    exec (.txFrame port) s = .next (startFrame (modPort
      (emit (cbsSync (advanceTo s (w.start + wireTicks s port.val (8 + b + 4 + 12))))
        (.fragment port.val (slice w.wire w.sent b ++ toLE 4 (mCrc (w.wire.take (w.sent + b)))) false)) port.val
      (fun p => { p with txBuf := r, onWire := none, held := some { w with sent := w.sent + b } })) port.val i) := by
  show execTxFrame port s = _
  simp only [execTxFrame, hup, hwire, hbuf, hpre, hexp, hact, hcut, Bool.true_eq_false, Bool.false_eq_true, or_self, if_false]

end Start

/-! ### TX_COMPLETE -/

section Complete
variable {s x : State} {port : PortId} {w : OnWire}

/-- Without a frame on the wire nothing ends. -/
theorem exec_txComplete_idle (hwire : (getPort s port.val).onWire = none) : exec (.txComplete port) s = .next s := by
  show execTxComplete port s = _
  simp only [execTxComplete, hwire]

/-- The end of the frame on the wire: counted, off the wire and released, it returns to reception in loopback MODE 1, goes
nowhere in MODE 2, and otherwise leaves as a frame or as the last fragment of one (R83, R219). -/
theorem exec_txComplete_done (hwire : (getPort s port.val).onWire = some w)
    (hx : x = txRelease (modPort (txCounters (cbsSync (advanceTo s (w.start + wireTicks s port.val (8 + (w.wire.length - w.sent)))))
      port.val w) port.val (fun p => { p with
        onWire := none, freeAt := w.start + wireTicks s port.val (8 + (w.wire.length - w.sent) + 12) })) port.val w.item) :
    exec (.txComplete port) s = .next (if (getPort s port.val).loopback = 1
      then portReceive x port.val w.wire false false w.item.preemptable (rxTime x port.val w.wire.length)
      else if (getPort s port.val).loopback = 2 then x
      else if w.frags = 0 then emit x (.frame port.val w.wire)
      else emit x (.fragment port.val (w.wire.drop w.sent) true)) := by
  subst hx
  show execTxComplete port s = _
  simp only [execTxComplete, hwire]

end Complete

/-- Settles O16: TX_FRAME by the lemma of each case, TX_COMPLETE by `exec_txComplete_done` at the loopback mode and the number
of fragments given. -/
theorem frameTransmission : Obligations.FrameTransmission := by
  refine fun port s => ⟨fun i r hup => exec_txFrame_next hup, fun w hup => exec_txFrame_resume hup, fun w i r b hup => exec_txFrame_cut hup,
    fun w x hwire hx => ?complete, exec_txFrame_down, exec_txComplete_idle⟩
  case complete =>
    rw [exec_txComplete_done hwire hx]
    refine ⟨fun hlb hwhole => ?frame, fun hlb hfrags => ?fragment, fun hlb => ?loop⟩
    case frame => simp only [hlb, hwhole, zero_ne_one, OfNat.zero_ne_ofNat, if_true, if_false]
    case fragment => simp only [hlb, Nat.ne_of_gt hfrags, zero_ne_one, OfNat.zero_ne_ofNat, if_false]
    case loop => rw [if_pos hlb]

end Sys2Proof.Proofs.Transmission
end

section
/-!
PROOFS. The parse engines (R110, R113, R119, R120, R122, R127, R130): which walk ends first, what PARSE_COMPLETE does with
its head, how a fragment context expires and a bad node is repaired, and O22 from them.
-/

namespace Sys2Proof.Proofs.ParseEngines
open Sys2Proof Sys2Proof.Machine

/-! ### The walk that ends first (R110) -/

/-- With no head in walk, and only then, no walk ends first. -/
theorem firstWalk_eq_none {s : State} {l : List Packet} : firstWalk s l = none ↔ l = [] := by
  cases l with
  | nil => simp [firstWalk]
  | cons k r =>
    simp only [firstWalk, reduceCtorEq, iff_false]
    split
    · simp
    · split <;> simp

/-- The walk that ends first is one of those in progress, and none of them ends before it. -/
theorem firstWalk_least {s : State} {l : List Packet} {k : Packet} (hfirst : firstWalk s l = some k) :
    k ∈ l ∧ ∀ j ∈ l, walkEnd s k ≤ walkEnd s j := by
  induction l generalizing k with
  | nil => simp [firstWalk] at hfirst
  | cons i r ih =>
    cases hrest : firstWalk s r with
    | none =>
      obtain rfl := firstWalk_eq_none.mp hrest
      obtain rfl : i = k := by simpa [firstWalk] using hfirst
      simp
    | some m =>
      obtain ⟨hmem, hleast⟩ := ih hrest
      simp only [firstWalk, hrest] at hfirst
      split at hfirst
      case isTrue hbefore =>
        obtain rfl : m = k := Option.some.inj hfirst
        have hle : walkEnd s m ≤ walkEnd s i := hbefore.elim Nat.le_of_lt fun htie => htie.1.le
        exact ⟨List.mem_cons_of_mem i hmem, List.forall_mem_cons.mpr ⟨hle, hleast⟩⟩
      case isFalse hafter =>
        obtain rfl : i = k := Option.some.inj hfirst
        have hle : walkEnd s i ≤ walkEnd s m := Nat.le_of_not_lt fun hlt => hafter (.inl hlt)
        exact ⟨List.mem_cons_self, List.forall_mem_cons.mpr ⟨le_rfl, fun j hj => hle.trans (hleast j hj)⟩⟩

/-! ### PARSE_COMPLETE -/

section Complete
variable {s : State} {k : Packet}

/-- With no head in walk nothing ends. -/
theorem exec_parseComplete_idle (hwalking : s.stencil.walking = []) : exec .parseComplete s = .next s := by
  show execParseComplete s = _
  simp only [execParseComplete, firstWalk_eq_none.mpr hwalking]

/-- Where fragments are not followed, and for a packet that is no fragment, the end of the walk is the end of the parse:
the head leaves the engine with its result and its reason (R113, R119). -/
theorem exec_parseComplete_unfollowed (hfirst : firstWalk s s.stencil.walking = some k)
    (hplain : fragMode ((walked s k).plan.of k.epoch) k.rx.port ≠ 1 ∨ (walkOf s k).frag = 0) :
    exec .parseComplete s = .next (finishParse (walked s k)
      { k with md := parseResult k.rx (walkOf s k), fragState := (walkOf s k).frag } (walkOf s k).reason) := by
  show execParseComplete s = _
  simp only [execParseComplete, hfirst]
  exact congrArg Host.Outcome.next (if_pos hplain)

/-- A reason that does not drop the packet is counted, and the packet is delivered with it (R119, R120). -/
theorem finishParse_delivers {r : Nat} (hkeep : reasonDrops (s.plan.of k.epoch) r = false) :
    finishParse s k r = deliver (stencilCnt s (k.rx.port / 32) (8 * r) 1) { k with md := withReason k.md r } := by
  simp only [finishParse, hkeep, Bool.false_eq_true, if_false, pipeOf]

end Complete

/-! ### FRAG_CONTEXT_EXPIRE -/

section Expire
variable {s : State} {engine : Fin 2} {key : Bytes} {c : FragCtx} (hctx : findCtx s engine.val key = some c)
include hctx

/-- A decided context goes at its due tick and is counted (R130). -/
theorem exec_fragContextExpire_decided (hst : c.st = .decided) : exec (.fragContextExpire engine key) s =
    .next (stencilCnt (delCtx (advanceTo s c.due) engine.val key) engine.val 0x2B0 1) := by
  show execFragContextExpire engine key s = _
  simp only [execFragContextExpire, hctx, hst, if_true]

/-- A context without a decision goes at its due tick, and the fragments it holds end with FRAG_TIMEOUT (R130). -/
theorem exec_fragContextExpire_undecided (hst : c.st ≠ .decided) : exec (.fragContextExpire engine key) s =
    .next (c.held.foldl (fun x k => finishParse x k rFragTimeout) (delCtx (advanceTo s c.due) engine.val key)) := by
  show execFragContextExpire engine key s = _
  simp only [execFragContextExpire, hctx, if_neg hst]

end Expire

/-! ### PARSE_NODE_REPAIR -/

/-- A bad node is taken from the bad nodes, and the marks of its words in both copies of the node memory go (R122). -/
theorem exec_parseNodeRepair_bad {s : State} {engine : Fin 2} {node : Fin 1024} (hbad : (engine.val, node.val) ∈ s.stencil.badNodes) :
    exec (.parseNodeRepair engine node) s = .next { s with
      stencil := { s.stencil with badNodes := s.stencil.badNodes.filter (fun b => b != (engine.val, node.val)) },
      fault := { s.fault with marks := s.fault.marks.filter (
        fun m => !((m.loc == nodeMem engine.val 0 || m.loc == nodeMem engine.val 1) && m.word / 8 == node.val)) } } := by
  show execParseNodeRepair engine node s = _
  simp only [execParseNodeRepair, List.contains_iff_mem.mpr hbad, Bool.true_eq_false, if_false]

/-- Settles O22: the walk's end is `walkEnd` itself, and each other clause is the lemma of its case. -/
theorem parseEngines : Obligations.ParseEngines := by
  refine fun s => ⟨fun l k => firstWalk_least, fun k => rfl, fun k => exec_parseComplete_unfollowed, fun t k r => finishParse_delivers,
    exec_parseComplete_idle, fun engine key c hctx => ⟨exec_fragContextExpire_decided hctx, exec_fragContextExpire_undecided hctx⟩,
    fun engine node hbad => ⟨_, exec_parseNodeRepair_bad hbad, fun e i => ?others, rfl⟩⟩
  case others => simp only [List.mem_filter, bne_iff_ne]

end Sys2Proof.Proofs.ParseEngines
end

section
/-!
PROOFS. The classifiers (R137 to R139, R149, R153 to R155, R159, R160): what CLASSIFY_ENTER, CLASSIFY_HANDON, the maintenance of the
classifiers' memories and the three commands do in each case of their rules, and O23 from them.
-/

namespace Sys2Proof.Proofs.Classifiers
open Sys2Proof Sys2Proof.Machine

/-! ### CLASSIFY_ENTER -/

/-- The first packet by the order of entry leaves the input and enters the search without a wait: it was delivered in this
tick, fewer than four have entered its pipeline in it, and the pipeline neither recovers nor awaits a rewrite (R138, R160). -/
theorem exec_classifyEnter_search {s u : State} {pipe : Fin 2} {k : Packet} {mine prio : List Packet}
    (hmine : mine = s.cls.input.filter (fun k => pipeOf k.rx.port == pipe.val)) (hprio : prio = mine.filter (isPriority s pipe.val))
    (hfirst : firstBy entersBefore (if prio = [] then mine else prio) = some k) (hnow : k.delivered = s.now)
    (hroom : (s.cls.busy.filter (fun b => pipeOf b.pkt.rx.port == pipe.val && b.enter == s.now)).length < 4)
    (hu : u = { s with cls := { s.cls with input := s.cls.input.erase k } })
    (hrec : recovering s (unitLoc (20 + pipe.val) 0) = false) (hbad : pipeBad u pipe.val = false) :
    exec (.classifyEnter pipe) s = .next (enterSearch u pipe.val k) := by
  have hrecu : recovering u (unitLoc (20 + pipe.val) 0) = false := by rw [hu]; exact hrec
  show execClassifyEnter pipe s = _
  simp only [execClassifyEnter, ← hmine, ← hprio, hfirst, hnow, Nat.not_le.mpr hroom, decide_false, Bool.false_eq_true, if_false,
    Nat.sub_self, if_true, ← hu, hrecu, hbad]

/-! ### CLASSIFY_HANDON -/

/-- The result handed on next leaves at 16 ticks after its entry. A packet of no followed fragments is dropped and counted at
its domain where policing or its action says so, and goes on otherwise (R139, R149, R159). -/
theorem exec_classifyHandon_whole {s u : State} {b : ClsBusy} (hfirst : firstBy handsBefore s.cls.busy = some b) (hwhole : b.pkt.fragKey = [])
    (hu : u = advanceTo { s with cls := { s.cls with busy := s.cls.busy.erase b } } (b.enter + 16)) :
    exec .classifyHandon s = .next (
      if b.policed then unitRelease (domCnt u b.res.domain 0x38) b.pkt.handle (20 + b.pkt.rx.port / 32) 0
      else if b.res.action = 0 then unitRelease (domCnt (releaseClaim u b) b.res.domain 0x30) b.pkt.handle (20 + b.pkt.rx.port / 32) 0
      else handOn u b) := by
  subst hu
  show execClassifyHandon s = _
  simp only [execClassifyHandon, hfirst, hwhole, if_true, pipeOf]

/-! ### Maintenance -/

/-- A scrub that finds one correctable word corrects it and records it (R160). -/
theorem exec_classifyScrub_correctable {s : State} {m : ErrorMark} (hone : clsMarks s = [m]) (hkind : m.kind = 1) :
    exec .classifyScrub s = .next (record (clearMark s m.loc m.word) 1 0x04 0x0001 (wordLoc m.loc m.word) [] m.injected) := by
  show execClassifyScrub s = _
  simp only [execClassifyScrub, hone, List.foldl_cons, List.foldl_nil, hkind, if_true]

/-- A rewrite leaves no word bad and takes the marks of the rewritten memories; where none was bad it takes no mark (R160). -/
theorem exec_classifyRewriteDone (s : State) : exec .classifyRewriteDone s = .next { s with
    cls := { s.cls with bad := [] }
    fault := { s.fault with
      marks := s.fault.marks.filter (fun m => !(s.cls.bad.contains (m.loc.l5, m.loc.l4) && decide (m.loc.l6 = 0))) } } := by
  by_cases hbad : s.cls.bad = []
  case pos =>
    have hcls : { s.cls with bad := [] } = s.cls := by rw [← hbad]
    rw [hcls, List.filter_eq_self.mpr fun m _ => by rw [hbad]; rfl]
    exact congrArg Host.Outcome.next (if_pos hbad)
  case neg => exact congrArg Host.Outcome.next (if_neg hbad)

/-! ### The commands -/

section Commands
variable {s : State} {mb : MbId} {n : BitVec 16}

/-- STREAM_GATE_REOPEN clears the latch of a gate of the plan in force (R154). -/
theorem exec_streamGateReopen_present (hgate : (sgateOf s.plan.now n.toNat).isSome = true) : exec (.streamGateReopen mb n) s =
    .next (reply (setSGate s n.toNat { getSGate s n.toNat with latched := false }) mb.val stOk) :=
  congrArg Host.Outcome.next (if_neg (Bool.eq_false_iff.mp (Option.isNone_eq_false_iff.mpr hgate)))

/-- STREAM_GATE_REOPEN finds no gate that the plan in force does not hold. -/
theorem exec_streamGateReopen_absent (hgate : sgateOf s.plan.now n.toNat = none) :
    exec (.streamGateReopen mb n) s = .next (reply s mb.val eNotFound) :=
  congrArg Host.Outcome.next (if_pos (Option.isNone_iff_eq_none.mpr hgate))

/-- STREAM_FILTER_UNBLOCK clears the block of a filter of the plan in force (R153). -/
theorem exec_streamFilterUnblock_present (hfilter : (kindEnt s.plan.now 7 2 n.toNat).isSome = true) : exec (.streamFilterUnblock mb n) s =
    .next (reply { s with cls := { s.cls with blocked := s.cls.blocked.filter (fun f => f ≠ n.toNat) } } mb.val stOk) :=
  congrArg Host.Outcome.next (if_neg (Bool.eq_false_iff.mp (Option.isNone_eq_false_iff.mpr hfilter)))

/-- STREAM_FILTER_UNBLOCK finds no filter that the plan in force does not hold. -/
theorem exec_streamFilterUnblock_absent (hfilter : kindEnt s.plan.now 7 2 n.toNat = none) :
    exec (.streamFilterUnblock mb n) s = .next (reply s mb.val eNotFound) :=
  congrArg Host.Outcome.next (if_pos (Option.isNone_iff_eq_none.mpr hfilter))

/-- METER_CLEAR_RED clears the red of a meter of the plan in force, and keeps its buckets and every other meter (R155). -/
theorem exec_meterClearRed_present (hmeter : (meterOf s.plan.now n.toNat).isSome = true) : exec (.meterClearRed mb n) s =
    .next (reply { s with cls := { s.cls with meters := s.cls.meters.map (fun m =>
      if m.1 = n.toNat then (m.1, { m.2 with allRed := false }) else m) } } mb.val stOk) :=
  congrArg Host.Outcome.next (if_neg (Bool.eq_false_iff.mp (Option.isNone_eq_false_iff.mpr hmeter)))

/-- METER_CLEAR_RED finds no meter that the plan in force does not hold. -/
theorem exec_meterClearRed_absent (hmeter : meterOf s.plan.now n.toNat = none) :
    exec (.meterClearRed mb n) s = .next (reply s mb.val eNotFound) :=
  congrArg Host.Outcome.next (if_pos (Option.isNone_iff_eq_none.mpr hmeter))

end Commands

/-- Settles O23: CLASSIFY_HANDON by `exec_classifyHandon_whole` at the policing and the action given, and each other clause is the
lemma of its case. -/
theorem classifiers : Obligations.Classifiers := by
  refine fun s => ⟨fun pipe k hfirst hnow hroom => exec_classifyEnter_search rfl rfl hfirst hnow hroom rfl, fun b u hfirst hwhole hu => ?handon,
    fun m => exec_classifyScrub_correctable, ⟨_, exec_classifyRewriteDone s, rfl, rfl⟩,
    fun mb n => ⟨exec_streamGateReopen_present, exec_streamFilterUnblock_present, exec_meterClearRed_present, exec_streamGateReopen_absent,
      exec_streamFilterUnblock_absent, exec_meterClearRed_absent⟩⟩
  case handon =>
    rw [exec_classifyHandon_whole hfirst hwhole hu]
    refine ⟨fun hred => ?policed, fun hpass hdrop => ?dropped, fun hpass hkeep => ?handed⟩
    case policed => rw [if_pos hred]
    case dropped => rw [if_neg (Bool.eq_false_iff.mp hpass), if_pos hdrop]
    case handed => rw [if_neg (Bool.eq_false_iff.mp hpass), if_neg hkeep]

end Sys2Proof.Proofs.Classifiers
end

section
/-!
PROOFS. The table engine's own events (R176 to R190): the learn unit, the periods, the routines, the lookaside cache, the
repairs and the cleanup, each in the cases of its rule, and O30 from them.
-/

namespace Sys2Proof.Proofs.TableEvents
open Sys2Proof Sys2Proof.Machine

section Events
variable {s : State}

/-! ### Learning and periods -/

/-- The oldest request leaves the learn queue and is decided (R179, R180). -/
theorem exec_learnApply_cons {r : LearnReq} {l : List LearnReq} (hlearn : s.table.learn = r :: l)
    (hrec : recovering s (unitLoc 22 0) = false) (hready : isReady s 10 = true) :
    exec .learnApply s = .next (learnDecide { s with table := { s.table with learn := l } } r) := by
  show execLearnApply s = _
  simp [execLearnApply, hlearn, hrec, hready]

/-- The age clock's tick, while AGE_TICK_MS is not 0 (R185). -/
theorem exec_ageClockTick_running (hready : isReady s 10 = true) (hms : ageTickMs s ≠ 0) :
    ∃ u, u = advanceTo s (s.table.ageAt + msTicks (ageTickMs s)) ∧ exec .ageClockTick s = .next { u with table := { u.table with
      ageClock := (u.table.ageClock + 1) % 65536, ageAt := s.table.ageAt + msTicks (ageTickMs s) } } := by
  refine ⟨_, rfl, ?_⟩
  show execAgeClockTick s = _
  simp [execAgeClockTick, hready, hms]

/-- The advance of time leaves the table engine alone. -/
@[simp] theorem advanceTo_table (s : State) (t : Nat) : (advanceTo s t).table = s.table := by rw [advanceTo_frame]

/-- A pass that falls due while no routine runs starts at bucket 0 for the engine (R186). -/
theorem exec_ageingPassStart_free (hready : isReady s 10 = true) (hms : sweepMs s ≠ 0) (hfree : s.table.routines = []) :
    ∃ u, u = advanceTo s (s.table.sweepAt + msTicks (sweepMs s)) ∧ exec .ageingPassStart s = .next { u with table := { u.table with
      sweepAt := s.table.sweepAt + msTicks (sweepMs s), routines := [{ pass := true, holders := [.engine], start := 0, next := 0 }] } } := by
  refine ⟨_, rfl, ?_⟩
  show execAgeingPassStart s = _
  simp [execAgeingPassStart, hready, hms, passRuns, startPass, hfree]

/-! ### Routines -/

/-- Routine `i` in order of start runs its next chunk, or stops where it is when it is revoked (R194). -/
theorem exec_routineChunk_present {i : Fin 4} {r : Routine} (hr : s.table.routines[i.val]? = some r) (hrec : recovering s (unitLoc 22 0) = false) :
    exec (.routineChunk i) s = .next (if r.revoked then startFlushes (endRoutine s r sAbandoned (2 * r.next)) else chunkRun s r) := by
  show execRoutineChunk i s = _
  simp [execRoutineChunk, List.head?_drop, hr, hrec]

/-! ### The lookaside cache -/

/-- The line of a list that was filled first, the earlier in the list of equals. -/
def earliestLine (l : CacheLine) (r : List CacheLine) : CacheLine := r.foldl (fun a m => if m.filled < a.filled then m else a) l

/-- The earliest line is one of the list, and none was filled before it. -/
theorem earliestLine_least (l : CacheLine) (r : List CacheLine) :
    earliestLine l r ∈ l :: r ∧ ∀ m ∈ l :: r, (earliestLine l r).filled ≤ m.filled := by
  induction r generalizing l with
  | nil => simp [earliestLine]
  | cons k r ih =>
    have hstep : earliestLine l (k :: r) = earliestLine (if k.filled < l.filled then k else l) r := rfl
    rw [hstep]
    split
    case isTrue hk =>
      obtain ⟨hmem, hleast⟩ := ih k
      exact ⟨List.mem_cons_of_mem l hmem, List.forall_mem_cons.mpr ⟨(hleast k List.mem_cons_self).trans hk.le, hleast⟩⟩
    case isFalse hk =>
      obtain ⟨hmem, hleast⟩ := ih l
      obtain ⟨hl, hrest⟩ := List.forall_mem_cons.mp hleast
      refine ⟨?_, List.forall_mem_cons.mpr ⟨hl, List.forall_mem_cons.mpr ⟨hl.trans (Nat.le_of_not_lt hk), hrest⟩⟩⟩
      simp only [List.mem_cons] at hmem ⊢
      tauto

/-- The lines that stay in the cache have been there for less than 1 ms (R177). -/
theorem mem_expireCache {s : State} {m : CacheLine} : m ∈ (expireCache s).table.cache ↔ m ∈ s.table.cache ∧ s.now < m.filled + 1600000 := by
  simp only [expireCache]
  split
  case isTrue hnone =>
    have hyoung := List.filter_eq_nil_iff.mp hnone
    exact ⟨fun hm => ⟨hm, by simpa using hyoung m hm⟩, fun hm => hm.1⟩
  case isFalse => simp [tabCnt]

/-- The cache loses its lines at the end of the life of the one filled first (R177). -/
theorem exec_cacheLineExpire_cons {l : CacheLine} {r : List CacheLine} (hcache : s.table.cache = l :: r) :
    exec .cacheLineExpire s = .next (expireCache (advanceTo s ((earliestLine l r).filled + 1600000))) := by
  show execCacheLineExpire s = _
  simp only [execCacheLineExpire, hcache, earliestLine]

/-! ### Repairs and cleanup -/

/-- A location that awaits its repair takes its configured entry again (R189). -/
theorem exec_tableEntryRepair_configured {loc : Nat} {l : List Nat} {e : Bytes} (hrep : s.table.repairs = loc :: l)
    (hconf : tblFind s.table.conf loc = some e) : exec .tableEntryRepair s = .next (putLoc s 7 1 loc e) := by
  show execTableEntryRepair s = _
  simp only [execTableEntryRepair, hrep, hconf]

/-- A location without a configured entry is cleared (R189). -/
theorem exec_tableEntryRepair_unconfigured {loc : Nat} {l : List Nat} (hrep : s.table.repairs = loc :: l)
    (hconf : tblFind s.table.conf loc = none) : exec .tableEntryRepair s = .next (putLoc s 7 1 loc (zeros 32)) := by
  show execTableEntryRepair s = _
  simp only [execTableEntryRepair, hrep, hconf, clearLoc]

/-- A scrub that meets no planted error leaves no pinned entry bad (R190). -/
theorem exec_pinnedScrub_clean (hmarks : s.fault.marks = []) :
    exec .pinnedScrub s = .next { s with table := { s.table with pinnedBad := [] } } := by
  have hfault : { s.fault with marks := [] } = s.fault := by rw [← hmarks]
  show execPinnedScrub s = _
  simp only [execPinnedScrub, hmarks, List.filter_nil, List.foldl_nil, hfault]

/-- The marked entries are cleaned at the end of the old epoch's MAX_RESIDENCE (R188). -/
theorem exec_configCleanup_marked {o : PlanCopy} (hold : s.plan.old = some o) (hmarked : s.table.marked ≠ []) :
    exec .configCleanup s = .next (cleanupAll (advanceTo s (s.plan.instTick + usTicks o.maxRes))) := by
  obtain ⟨m, r, hm⟩ := List.exists_cons_of_ne_nil hmarked
  show execConfigCleanup s = _
  simp only [execConfigCleanup, hold, hm]

end Events

/-- Settles O30, each event by the lemma of its case; the line that CACHE_LINE_EXPIRE waits for is the earliest one. -/
theorem tableEngine : Obligations.TableEngine := by
  refine fun s => ⟨fun r l => exec_learnApply_cons, ⟨_, rfl, rfl⟩, exec_ageClockTick_running, exec_ageingPassStart_free, ?routines, ?cache,
    fun loc l hrep => ⟨fun e => exec_tableEntryRepair_configured hrep, exec_tableEntryRepair_unconfigured hrep⟩, exec_pinnedScrub_clean,
    fun o hold hmarked => ⟨_, rfl, exec_configCleanup_marked hold hmarked, rfl⟩⟩
  case routines =>
    intro i r hr hrec
    have hchunk := exec_routineChunk_present hr hrec
    exact ⟨fun hgoes => hchunk.trans (by rw [hgoes]; rfl), fun hrevoked => hchunk.trans (by rw [hrevoked]; rfl)⟩
  case cache =>
    intro hcache
    obtain ⟨l, r, hlr⟩ := List.exists_cons_of_ne_nil hcache
    obtain ⟨hmem, hleast⟩ := earliestLine_least l r
    refine ⟨earliestLine l r, _, hlr ▸ hmem, hlr ▸ hleast, rfl, exec_cacheLineExpire_cons hlr, fun m => ?_⟩
    rw [mem_expireCache, advanceTo_table]

end Sys2Proof.Proofs.TableEvents
end

section
/-!
PROOFS. How a Skim word that is due issues (R274, R315): the word under its row does what `runSk` says and control goes on
as it asks.
-/

namespace Sys2Proof.Proofs.SkimIssue
open Sys2Proof Sys2Proof.Machine

/-- Only the scoreboard stalls a word (R274): what a Skim word does never asks for a stall. -/
theorem runSk_ne_stalled (c : Ctx) (x : SkWord) (v s : State) : (runSk c x v s).2 ≠ .stalled := by
  cases x
  case nop | alu | insh | setlc | br | bal | jr | mode | fence | trap | mfs | mts | fmov =>
    simp [runSk, semAlu, semInsh, semSetlc, semBr, semBal, semJr, semFence, semMfs, semMts, semFmov]
  case paired | ld | st | tas | loop | retx =>
    simp only [runSk, semPaired, semLd, semSt, semTas, semLoop]
    repeat' split
    all_goals simp
  case thr | sr =>
    simp only [runSk, semNext, semWait, semSleep, semPass, semChsend, semChrecv, semSignal, semTmrset, semTmrcan, semTmrpop, semSr]
    repeat' split
    all_goals simp
  case lookup | learn | buf | epost | tcmd | lock =>
    simp only [runSk, semLookup, semLearn, semBuf, semEpost, semTcmd, semLock]
    repeat' split
    all_goals simp
  case cop | cmov | cstate =>
    simp only [runSk, semCop, semCmov, semCsave, semCrestore, ownerReject]
    repeat' split
    all_goals simp

/-- A word that neither the scoreboard nor its place stops does what it does. -/
theorem issueSk_free {c : Ctx} {x : SkWord} {v s : State} (hsb : scoreboardStops (getTh s c.tid) (skUses v c.tid x) = false)
    (hplace : skPlacement s c x = false) : issueSk c x v s = runSk c x v s := by
  simp [issueSk, hsb, hplace]

/-- The issue of a due word: what it does in `u`, and then what it asks of the flow of control. -/
theorem issue_due {s v u : State} {tid : Tid} {row : Row} {x : SkWord} {c : Ctx} {r : State × Ctl} (hdue : SkimDue s tid row x c v u)
    (hrun : runSk c x v u = r) : issue s (tidNum tid) row = finishWord r.1 v c r.2 := by
  obtain ⟨s1, w, hslot, hblock, hevent, hfetch, hdecode, hrow, hv, hu, hc, hsb, hplace, hsbu, hplaceu⟩ := hdue
  have htid : c.tid = tidNum tid := by rw [hc]
  have hfirst : issueSk c x v s1 = runSk c x v s1 := issueSk_free (by rwa [htid]) hplace
  have hthen : issueSk c x v u = r := (issueSk_free (by rwa [htid]) hplaceu).trans hrun
  simp only [issue, hslot, hblock, hevent, ← hv, hfetch, hrow, hdecode, ← hc, ← hu, hfirst, runSk_ne_stalled, hthen,
    Bool.false_eq_true, ne_eq, not_true, if_false]

/-- The command of a due word's row leads where the word's issue does. -/
theorem next_due {s v u : State} {tid : Tid} {row : Row} {x : SkWord} {c : Ctx} {r : State × Ctl} (hdue : SkimDue s tid row x c v u)
    (hrun : runSk c x v u = r) : (.next (issue s (tidNum tid) row) : Res) = .next (finishWord r.1 v c r.2) :=
  congrArg Host.Outcome.next (issue_due hdue hrun)

/-- A due word's thread is the thread of its command. -/
theorem due_tid {s v u : State} {tid : Tid} {row : Row} {x : SkWord} {c : Ctx} (hdue : SkimDue s tid row x c v u) : c.tid = tidNum tid := by
  obtain ⟨s1, w, -, -, -, -, -, -, -, -, hc, -⟩ := hdue
  rw [hc]

end Sys2Proof.Proofs.SkimIssue
end

section
/-!
PROOFS. Table commands (R191 to R193, R626): what the engine answers to each command's record, a mailbox's checks of its
record, a thread's TCMD word, and O39 from them.
-/

namespace Sys2Proof.Proofs.TableCommands
open Sys2Proof Sys2Proof.Machine Sys2Proof.Proofs.SkimIssue

/-! ### The engine's answers -/

/-- A command that is decided at once: its result, and the state with COMMANDS counted. -/
def decidedNow (x : Bytes × State) : Option Bytes × State := (some x.1, tabCnt x.2 0x0C0 1)

section Engine
variable {s t : State} {h : RoutineHolder} {cmd k : Bytes} {pass : Bool}

/-- SEARCH is decided at once. -/
theorem tableCommand_search (hop : leAt cmd 0 2 = 1) (hdom : byteAt cmd 2 ≤ 15) (hk : k = withDomain (slice cmd 32 19) (byteAt cmd 2)) :
    tableCommand s h none cmd = decidedNow (cmdSearch s k) := by
  simp [tableCommand, decidedNow, hop, hdom, hk]

/-- NEXT is decided at once; it may name every domain together (R193). -/
theorem tableCommand_next (hop : leAt cmd 0 2 = 2) (hdom : byteAt cmd 2 ≤ 15 ∨ byteAt cmd 2 = 0xFF) :
    tableCommand s h none cmd = decidedNow (cmdNext s (byteAt cmd 2) cmd) := by
  rcases hdom with hdom | hdom <;> simp [tableCommand, decidedNow, hop, hdom]

/-- INSERT is decided at once. -/
theorem tableCommand_insert (hop : leAt cmd 0 2 = 3) (hdom : byteAt cmd 2 ≤ 15) (hk : k = withDomain (slice cmd 32 19) (byteAt cmd 2)) :
    tableCommand s h none cmd = decidedNow (cmdInsert s cmd k) := by
  simp [tableCommand, decidedNow, hop, hdom, hk]

/-- DELETE is decided at once. -/
theorem tableCommand_delete (hop : leAt cmd 0 2 = 4) (hdom : byteAt cmd 2 ≤ 15) (hk : k = withDomain (slice cmd 32 19) (byteAt cmd 2)) :
    tableCommand s h none cmd = decidedNow (cmdDelete s k) := by
  simp [tableCommand, decidedNow, hop, hdom, hk]

/-- INVALIDATE is decided at once, whatever domain its record names. -/
theorem tableCommand_invalidate (hop : leAt cmd 0 2 = 6) (hk : k = withDomain (slice cmd 32 19) (byteAt cmd 2)) :
    tableCommand s h none cmd = decidedNow (cmdInvalidate s cmd k) := by
  simp [tableCommand, decidedNow, hop, hk]

/-- The record names FLUSH_BY_PORT with a domain or all of them, or AGE_NOW, which starts a pass. -/
def RoutineRecord (pass : Bool) (cmd : Bytes) : Prop :=
  leAt cmd 0 2 = (if pass then 7 else 5) ∧ (pass = false → byteAt cmd 2 ≤ 15 ∨ byteAt cmd 2 = 0xFF)

/-- A command whose routine has started has no result yet (R194). -/
theorem tableCommand_started (hrec : RoutineRecord pass cmd) (hstart : cmdRoutine s pass h (byteAt cmd 2) cmd = (none, t)) :
    tableCommand s h none cmd = (none, t) := by
  obtain ⟨hop, hdom⟩ := hrec
  cases pass
  case false =>
    have hdomOk : ¬ (15 < byteAt cmd 2 ∧ ¬ byteAt cmd 2 = 0xFF) := by have := hdom rfl; omega
    simp [tableCommand, hop, hdomOk, hstart]
  case true => simp [tableCommand, hop, hstart]

/-- A command whose routine cannot start is decided at once. -/
theorem tableCommand_unstarted {r : Bytes} (hrec : RoutineRecord pass cmd) (hstart : cmdRoutine s pass h (byteAt cmd 2) cmd = (some r, t)) :
    tableCommand s h none cmd = decidedNow (r, t) := by
  obtain ⟨hop, hdom⟩ := hrec
  cases pass
  case false =>
    have hdomOk : ¬ (15 < byteAt cmd 2 ∧ ¬ byteAt cmd 2 = 0xFF) := by have := hdom rfl; omega
    simp [tableCommand, decidedNow, hop, hdomOk, hstart]
  case true => simp [tableCommand, decidedNow, hop, hstart]

end Engine

/-! ### From a mailbox -/

section Mailbox
variable {s t : State} {mb : MbId} {op : Nat} {cmd r : Bytes}

/-- A well-formed record is answered at once with the result of a command that the engine decides at once. -/
theorem mailboxTable_decided {x : Bytes × State} (hready : isReady s 10 = true) (hok : RecordOk op cmd)
    (hnow : tableCommand s (.mailbox mb.val) none cmd = decidedNow x) : mailboxTable s mb.val op cmd = tableAnswer s mb x := by
  obtain ⟨hop, hlen, hflags, hgap, htail⟩ := hok
  simp [mailboxTable, whenReady, tableAnswer, decidedNow, hready, hop, hlen, hflags, hgap, htail, hnow]

/-- A well-formed record whose routine has started is answered later. -/
theorem mailboxTable_started (hready : isReady s 10 = true) (hok : RecordOk op cmd)
    (hstart : tableCommand s (.mailbox mb.val) none cmd = (none, t)) : mailboxTable s mb.val op cmd = t := by
  obtain ⟨hop, hlen, hflags, hgap, htail⟩ := hok
  simp [mailboxTable, whenReady, hready, hop, hlen, hflags, hgap, htail, hstart]

/-- A record that names another command is refused. -/
theorem mailboxTable_otherOp (hready : isReady s 10 = true) (hop : leAt cmd 0 2 ≠ op) : mailboxTable s mb.val op cmd = reply s mb.val eArgs := by
  simp [mailboxTable, whenReady, hready, hop]

/-- Before READY.TABLES no record is looked at. -/
theorem mailboxTable_notReady (hready : isReady s 10 = false) : mailboxTable s mb.val op cmd = reply s mb.val eNotReady := by
  simp [mailboxTable, whenReady, hready]

/-- TABLE_STATUS answers from READY.TABLES on. -/
theorem exec_tableStatus_mailbox : exec (.tableStatus (.mailbox mb cmd)) s =
    .next (if isReady s 10 then reply s mb.val stOk (tableStatus s) else reply s mb.val eNotReady) := rfl

end Mailbox

/-! ### From a thread -/

/-- A TCMD word takes its record into a scoreboard entry, or completes at once with E_BUSY when the 56 slots of threads are
taken (R191). -/
theorem runSk_tcmd {u v : State} {c : Ctx} {o1 o2 : Nat} (hreq : areaBad o1 64 = none) (hres : areaBad o2 64 = none) :
    runSk c (.tcmd o1 o2) v u = (if 56 ≤ threadSlotsUsed u then (opEntry u c o2 64 (.result (8 * o2) (cmdResult u eBusy) (some 14) none) (some c.p) false).2
      else (opEntry u c o2 64 (.tcmd (8 * o2) (memBytes (getTh v c.tid).mem (8 * o1) 64)) none false).2, .seq) := by
  have hlen : (cmdResult u eBusy).length = 64 := by simp [cmdResult, zeros]
  simp only [runSk, semTcmd, hreq, hres, decided, hlen, request]
  split <;> rfl

/-! ### The obligation -/

/-- Settles O39: a mailbox record by the engine's answer to its command, a TCMD word by `runSk_tcmd` for every OP. -/
theorem tableCommands : Obligations.TableCommands := by
  refine ⟨fun mb cmd s => ⟨fun hready => ⟨?search, ?next, ?insert, ?delete, ?invalidate, ?flush, ?age, ?status, ?otherOp⟩, ?notReady⟩, ?thread⟩
  case search => exact fun hok hdom => congrArg Host.Outcome.next (mailboxTable_decided hready hok (tableCommand_search hok.1 hdom rfl))
  case next => exact fun hok hdom => congrArg Host.Outcome.next (mailboxTable_decided hready hok (tableCommand_next hok.1 hdom))
  case insert => exact fun hok hdom => congrArg Host.Outcome.next (mailboxTable_decided hready hok (tableCommand_insert hok.1 hdom rfl))
  case delete => exact fun hok hdom => congrArg Host.Outcome.next (mailboxTable_decided hready hok (tableCommand_delete hok.1 hdom rfl))
  case invalidate => exact fun hok => congrArg Host.Outcome.next (mailboxTable_decided hready hok (tableCommand_invalidate hok.1 rfl))
  case flush =>
    intro hok hdom
    have hrec : RoutineRecord false cmd := ⟨hok.1, fun _ => hdom⟩
    exact ⟨fun t hstart => congrArg Host.Outcome.next (mailboxTable_started hready hok (tableCommand_started hrec hstart)),
      fun r t hstart => congrArg Host.Outcome.next (mailboxTable_decided hready hok (tableCommand_unstarted hrec hstart))⟩
  case age =>
    intro hok
    have hrec : RoutineRecord true cmd := ⟨hok.1, nofun⟩
    exact ⟨fun t hstart => congrArg Host.Outcome.next (mailboxTable_started hready hok (tableCommand_started hrec hstart)),
      fun r t hstart => congrArg Host.Outcome.next (mailboxTable_decided hready hok (tableCommand_unstarted hrec hstart))⟩
  case status => rw [exec_tableStatus_mailbox, hready]; rfl
  case otherOp => exact fun hop => congrArg Host.Outcome.next (mailboxTable_otherOp hready hop)
  case notReady =>
    intro hready
    refine ⟨congrArg Host.Outcome.next (mailboxTable_notReady hready), congrArg Host.Outcome.next (mailboxTable_notReady hready), ?_⟩
    rw [exec_tableStatus_mailbox, hready]; rfl
  case thread =>
    intro tid op o1 o2 s v u c ⟨hdue, hreq, hres⟩
    have hissue := next_due hdue (runSk_tcmd hreq hres)
    refine ⟨?_, ?_, ?_, ?_, ?_, ?_, ?_, ?_⟩ <;> rintro rfl <;> exact hissue

end Sys2Proof.Proofs.TableCommands
end

section
/-!
PROOFS. The long words of Table 11-10 (R175, R179, R212, R219, R234, R395): what LOOKUP, LEARN, BUF, EGRESS_POST and the lock
words do with their areas in bank 0, and O40 from them.
-/

namespace Sys2Proof.Proofs.LongWords
open Sys2Proof Sys2Proof.Machine Sys2Proof.Proofs.SkimIssue

section Words
variable {v u : State} {c : Ctx} {o1 o2 r g : Nat} {t : Thread}

/-- A result decided at issue has its scoreboard entry (R273). -/
theorem decided_eq (x : State) (d : Bytes) (flag due : Option Nat) (exact : Bool) :
    decided x c o2 d flag none due exact = resultEntry x c o2 d flag due exact := rfl

/-! ### The forwarding table -/

/-- LOOKUP searches for the domain of its key in domain 0, and for the thread's otherwise (R174, R175). -/
theorem runSk_lookup {d : Nat} {req : Bytes} {x : Bytes × Nat × Bool × State} (ht : getTh u c.tid = t) (hreq : areaBad o1 32 = none)
    (hres : areaBad o2 48 = none) (hepoch : epochRetired u t = false) (hq : req = memBytes (getTh v c.tid).mem (8 * o1) 32)
    (hd : d = if threadDomain t = 0 then keyDomain (keyOf req) else workDomain t) (hx : x = lookupRun u (u.plan.of t.epoch) (c.tid % 2) d req) :
    runSk c (.lookup o1 o2) v u = (resultEntry x.2.2.2 c o2 x.1 (some 1) (some (c.p + x.2.1)) x.2.2.1, .seq) := by
  subst ht hx hd hq
  simp only [runSk, semLookup, hreq, hres, hepoch, Bool.false_eq_true, if_false, decided_eq, request]

/-- LEARN posts its key for the domain of the thread's item, with the item's ingress port (R179). -/
theorem runSk_learn {it : Item} (ht : getTh u c.tid = t) (hreq : areaBad o1 19 = none) (hitem : t.item = some it) :
    runSk c (.learn o1) v u = (learnPost u { key := withDomain (slice (memBytes (getTh v c.tid).mem (8 * o1) 19) 0 19) it.domain
                                             port := leAt (memBytes (getTh v c.tid).mem 0x1100 64) 28 2 }, .seq) := by
  subst ht
  simp only [runSk, semLearn, hreq, hitem, request]

/-! ### Buffers -/

/-- BUF_ALLOC has its result after exactly 12 slots (R212). -/
theorem runSk_bufAlloc {x : Bytes × State} (hg : (getReg (getTh v c.tid) (regA r)).toNat = g) (hres : areaBad o2 8 = none)
    (hx : x = bufAlloc u (getTh v c.tid) c.tid (g % 65536)) :
    runSk c (.buf 0 r o2) v u = (resultEntry x.2 c o2 x.1 none (some (c.p + 12)) true, .seq) := by
  subst hg hx
  simp only [runSk, semBuf, hres, decided_eq]

/-- BUF_HOLD has its result within 500 slots (R219). -/
theorem runSk_bufHold {x : Bytes × State} (hg : (getReg (getTh v c.tid) (regA r)).toNat = g) (hres : areaBad o2 8 = none)
    (hx : x = bufHold u (getTh v c.tid) c.tid (g % 2 ^ 32)) :
    runSk c (.buf 1 r o2) v u = (resultEntry x.2 c o2 x.1 none (some (c.p + 500)) false, .seq) := by
  subst hg hx
  simp only [runSk, semBuf, hres, decided_eq]

/-- BUF_RELEASE has its result within 500 slots (R219). -/
theorem runSk_bufRelease {x : Bytes × State} (hg : (getReg (getTh v c.tid) (regA r)).toNat = g) (hres : areaBad o2 8 = none)
    (hx : x = bufRelease u (getTh v c.tid) c.tid (g % 2 ^ 32)) :
    runSk c (.buf 2 r o2) v u = (resultEntry x.2 c o2 x.1 none (some (c.p + 500)) false, .seq) := by
  subst hg hx
  simp only [runSk, semBuf, hres, decided_eq]

/-- A BUF word whose result area leaves its mapped part of bank 0 raises the area's exception (R348). -/
theorem runSk_buf_areaBad {sub : Nat} {e : Exc} (hres : areaBad o2 8 = some e) : runSk c (.buf sub r o2) v u = (u, .exc e) := by
  simp only [runSk, semBuf, hres]

/-! ### Egress posts and locks -/

/-- A post under the held entry, by a thread whose item is not done (R234, R239). -/
theorem runSk_epost_item {it : Item} {last : Bool} {x : Nat × State} (ht : getTh u c.tid = t) (hreq : areaBad o1 32 = none)
    (hres : areaBad o2 2 = none) (hitem : t.item = some it) (hdone : it.done = false)
    (hx : x = postItem v u c it (memBytes (getTh v c.tid).mem (8 * o1) 32) last) : runSk c (.epost false last o1 o2) v u =
      (resultEntry (postedItem x.2 c x.1 last) c o2 (toLE 2 x.1) (some 13) (some (c.p + 8)) false, .seq) := by
  subst ht hx
  simp only [runSk, semEpost, hreq, hres, hitem, hdone, Bool.false_eq_true, if_false, decided_eq, request]

/-- A lock word joins the operations that the lock unit takes of its slot, with its entry (R395). -/
theorem runSk_lock {sub : Nat} {x : Nat × State} (hg : (getReg (getTh v c.tid) (regA r)).toNat = g) (hres : areaBad o2 2 = none)
    (hx : x = opEntry u c o2 2 (.lockWait (8 * o2) (g % 4096)) (some (c.p + 12)) true) : runSk c (.lock sub r o2) v u =
      ({ x.2 with core := { x.2.core with lockOps := x.2.core.lockOps ++
        [{ tick := c.p, tid := c.tid, entry := x.1, sub := sub, lock := g % 4096, off := 8 * o2 }] } }, .seq) := by
  subst hg hx
  simp only [runSk, semLock, hres]

end Words

/-- Settles O40: a due word is issued by `next_due`, what it does is the lemma of its word, and its thread is `tid`. -/
theorem longWords : Obligations.LongWords := by
  intro tid s v u c o1 o2 r t g
  have ht : ∀ {row x}, SkimDue s tid row x c v u → getTh u c.tid = t := fun hdue => by rw [due_tid hdue]
  have hg : ∀ {row x}, SkimDue s tid row x c v u → (getReg (getTh v c.tid) (regA r)).toNat = g := fun hdue => by rw [due_tid hdue]
  refine ⟨?lookup, ?learn, ?alloc, ?hold, ?release, ?post, ?lock, ?outside⟩
  case lookup =>
    intro hdue hreq hres hepoch
    have hnext := next_due hdue (runSk_lookup (ht hdue) hreq hres hepoch rfl rfl rfl)
    exact ⟨_, _, _, rfl, rfl, rfl, hnext⟩
  case learn => exact fun it hdue hreq hitem => next_due hdue (runSk_learn (ht hdue) hreq hitem)
  case alloc => exact fun hdue hres => ⟨_, rfl, next_due hdue (runSk_bufAlloc (hg hdue) hres rfl)⟩
  case hold => exact fun hdue hres => ⟨_, rfl, next_due hdue (runSk_bufHold (hg hdue) hres rfl)⟩
  case release => exact fun hdue hres => ⟨_, rfl, next_due hdue (runSk_bufRelease (hg hdue) hres rfl)⟩
  case post =>
    exact fun it last x hdue hreq hres hitem hdone hx => next_due hdue (runSk_epost_item (ht hdue) hreq hres hitem hdone hx)
  case lock =>
    intro sub h0 h1 h2 h3 hres
    refine ⟨_, _, rfl, rfl, ?_, ?_, ?_, ?_⟩ <;> rintro rfl
    · exact next_due (h0 rfl) (runSk_lock (hg (h0 rfl)) hres rfl)
    · exact next_due (h1 rfl) (runSk_lock (hg (h1 rfl)) hres rfl)
    · exact next_due (h2 rfl) (runSk_lock (hg (h2 rfl)) hres rfl)
    · exact next_due (h3 rfl) (runSk_lock (hg (h3 rfl)) hres rfl)
  case outside => exact fun e hdue hres => next_due hdue (runSk_buf_areaBad hres)

end Sys2Proof.Proofs.LongWords
end

section
/-!
PROOFS. Hod's references and free lists (R213 to R220, R227, R228): the rules of a pool, of a state word and of a charge, what a
grant, a HOLD and a RELEASE do in each case, what each free-list command does in each case, and O24 from them.
-/

namespace Sys2Proof.Proofs.BuffersAndFreeLists
open Sys2Proof Sys2Proof.Machine

/-! ### Pools, state words and charges -/

section Access
variable (s : State) (h p d off : Nat)

@[simp] theorem getPool_modPool (f : PoolSt → PoolSt) : getPool (modPool s p f) p = f (getPool s p) := tblGet_tblMod_same _ _ _ _
@[simp] theorem getPool_modWord (f : BufWord → BufWord) : getPool (modWord s h f) p = getPool s p := rfl
@[simp] theorem getPool_modHeld (e q : Nat) (f : Nat → Nat) : getPool (modHeld s e q f) p = getPool s p := rfl
@[simp] theorem getPool_poolCnt (q : Nat) : getPool (poolCnt s q off) p = getPool s p := rfl

@[simp] theorem getWord_modWord (f : BufWord → BufWord) : getWord (modWord s h f) h = f (getWord s h) := tblGet_tblMod_same _ _ _ _
@[simp] theorem getWord_modPool (f : PoolSt → PoolSt) : getWord (modPool s p f) h = getWord s h := rfl
@[simp] theorem getWord_modHeld (f : Nat → Nat) : getWord (modHeld s d p f) h = getWord s h := rfl
@[simp] theorem getWord_poolCnt : getWord (poolCnt s p off) h = getWord s h := rfl

@[simp] theorem heldOf_modHeld (f : Nat → Nat) : heldOf (modHeld s d p f) d p = f (heldOf s d p) := tblGet_tblMod_same _ _ _ _
@[simp] theorem heldOf_modPool (q : Nat) (f : PoolSt → PoolSt) : heldOf (modPool s q f) d p = heldOf s d p := rfl
@[simp] theorem heldOf_modWord (f : BufWord → BufWord) : heldOf (modWord s h f) d p = heldOf s d p := rfl
@[simp] theorem heldOf_poolCnt (q : Nat) : heldOf (poolCnt s q off) d p = heldOf s d p := rfl

end Access

/-! ### Memories without planted errors -/

section Unmarked
variable {s : State} (hmarks : s.fault.marks = [])
include hmarks

/-- No word holds a planted error. -/
theorem findMark_unmarked (l : Loc) (w : Nat) : findMark s l w = none := by
  rw [findMark, hmarks, List.find?_nil]

/-- A read of Hod's duplicated memories finds nothing to correct (R227). -/
theorem hodTouch_unmarked (p w : Nat) : hodTouch s p w = s := by
  simp only [hodTouch, dupTouch, findMark_unmarked hmarks]

/-- A read of the state cache finds nothing to correct (R227). -/
theorem stateTouch_unmarked (h : Nat) : stateTouch s h = s := by
  simp only [stateTouch, findMark_unmarked hmarks]

/-- A run of reads of a pool's memory finds nothing to correct either. -/
theorem foldl_hodTouch_unmarked (p : Nat) (w : Nat → Nat) (cs : List Nat) : cs.foldl (fun x c => hodTouch x p (w c)) s = s := by
  induction cs with
  | nil => rfl
  | cons c cs ih => rw [List.foldl_cons, hodTouch_unmarked hmarks, ih]

end Unmarked

/-! ### Grants -/

/-- A grant takes the head handle, writes its state word IN_USE with one reference, and charges the domain (R216, R219). -/
theorem poolGrant_head {s : State} {d p h : Nat} {r : List Nat} (hmarks : s.fault.marks = []) (hhead : (getPool s p).head = h :: r) :
    poolGrant s d p = (h, poolCnt (modHeld (modWord (modPool s p (fun q => { q with
      head := r, headPos := (q.headPos + 1) % 16384, used := q.used + 1
      freeMin := some (Nat.min (q.freeMin.getD (freeOf s p)) (freeOf s p - 1)) })) h
        (fun _ => { gen := hGen h, ref := 1, domain := d, st := 2 })) d p (· + 1)) p 0x00) := by
  simp only [poolGrant, hhead, hodTouch_unmarked hmarks]
  rfl

/-! ### References -/

section References
variable {s : State} {h : Nat} {q : Requester}

/-- What passes the checks of Table 7-5 is a buffer IN_USE (R222). -/
theorem inUse_of_refCheck {hold : Bool} (hok : refCheck s h hold q = none) : (getWord s h).st = 2 := by
  by_contra hst
  have hstale : (getPool s (hPool h)).fresh ≤ hIndex h ∨ hGen h ≠ (getWord s h).gen ∨ (getWord s h).st ≠ 2 := .inr (.inr hst)
  simp only [refCheck, if_pos hstale] at hok
  split at hok
  · cases hok
  · split at hok <;> cases hok

/-- An accepted HOLD of a unit adds one reference (R219). -/
theorem hodHold_accepted (hmarks : s.fault.marks = []) (hok : refCheck s h true q = none) (hunit : q.thread = none) :
    hodHold s h q = (none, poolCnt (modWord s h (fun w => { w with ref := w.ref + 1 })) (hPool h) 0x10) := by
  simp only [hodHold, hunit, stateTouch_unmarked hmarks, hok]

/-- An accepted RELEASE of a unit drops one reference (R219). -/
theorem hodRelease_accepted (hmarks : s.fault.marks = []) (hok : refCheck s h false q = none) (hunit : q.thread = none) :
    hodRelease s h q = (none, bufDrop s h) := by
  simp only [hodRelease, hunit, stateTouch_unmarked hmarks, hok]

/-- A dropped reference that is not the last only lowers the count (R219). -/
theorem bufDrop_shared (hst : (getWord s h).st = 2) (href : 1 < (getWord s h).ref) :
    bufDrop s h = modWord (poolCnt s (hPool h) 0x18) h (fun w => { w with ref := w.ref - 1 }) := by
  simp [bufDrop, hst, Nat.not_le.mpr href]

/-- The last reference dropped frees the buffer (R219). -/
theorem bufDrop_last (hst : (getWord s h).st = 2) (href : (getWord s h).ref = 1) : bufDrop s h = bufFree (poolCnt s (hPool h) 0x18) h := by
  simp [bufDrop, hst, href]

/-- A buffer freed while Hod runs and its head cache has room: the next generation, FREE_CACHED, its charge released, and its new
handle at the cache's tail (R216, R219). -/
theorem bufFree_cached {p g : Nat} (hp : p = hPool h) (hg : g = ((getWord s h).gen + 1) % 64) (hmarks : s.fault.marks = [])
    (hup : hodDown s = false) (hroom : (getPool s p).head.length < 16384) :
    bufFree s h = modPool (modWord (poolCnt (modHeld s (getWord s h).domain p (· - 1)) p 0x08) h (fun w => { w with gen := g, ref := 0, st := 1 })) p
      (fun q => { q with head := q.head ++ [mkHandle p (hIndex h) g], used := q.used - 1 }) := by
  subst hp hg
  have hupCharged : hodDown (poolCnt (modHeld s (getWord s h).domain (hPool h) (· - 1)) (hPool h) 0x08) = false := hup
  have hmarksCharged : (poolCnt (modHeld s (getWord s h).domain (hPool h) (· - 1)) (hPool h) 0x08).fault.marks = [] := hmarks
  simp only [bufFree, hodTouch_unmarked hmarks, hupCharged, hodTouch_unmarked hmarksCharged, getPool_poolCnt, getPool_modHeld, hroom,
    Bool.false_eq_true, if_false, if_true]

end References

/-! ### Refills (R216, R217) -/

section FreeLists
variable {s : State} {pool : Fin 5} {q : PoolSt}

section Refill
variable {n : Nat} {cs : List Nat}

/-- A refill does nothing while the head cache holds 8,192 handles or Hod restarts. -/
theorem exec_headCacheRefill_idle (hq : q = getPool s pool.val) (hidle : 8192 ≤ q.head.length ∨ hodDown s = true) :
    exec (.headCacheRefill pool) s = .next s := by
  subst hq
  exact congrArg Host.Outcome.next (if_pos (hidle.imp_right Or.inr))

/-- With fewer than 8,192 handles, in a pool that the plan has and while Hod runs, a refill is due. -/
theorem refill_due (hlow : q.head.length < 8192) (hpresent : n ≠ 0) (hup : hodDown s = false) :
    ¬(8192 ≤ q.head.length ∨ n = 0 ∨ hodDown s = true) := by
  simp [hlow, hpresent, hup]

variable (hmarks : s.fault.marks = []) (hq : q = getPool s pool.val) (hn : n = poolCount s.plan.now pool.val)
  (hcs : cs = (refillChains q).take (64 - q.reads.length)) (hdue : ¬(8192 ≤ q.head.length ∨ n = 0 ∨ hodDown s = true))
include hmarks hq hn hcs hdue

/-- A due refill starts a bundle read on each chain it may read, as far as 64 in flight allow (R216). -/
theorem exec_headCacheRefill_chains (hchains : cs ≠ []) : exec (.headCacheRefill pool) s = .next (modPool s pool.val (fun q => { q with
    reads := q.reads ++ cs.map (fun c => (c, chainHead q c)), rotIn := (q.rotIn + cs.length) % 64 })) := by
  subst hq hn hcs
  show execHeadCacheRefill pool s = _
  simp only [execHeadCacheRefill, if_neg hdue, if_pos hchains, foldl_hodTouch_unmarked hmarks]

/-- With every chain empty and no read in flight, a due refill takes handles at the fresh index (R217). -/
theorem exec_headCacheRefill_fresh (hchains : cs = []) (hreads : q.reads = []) (hempty : ∀ c < 64, chainHead q c = noHandle) :
    exec (.headCacheRefill pool) s = .next (modPool s pool.val (fun q => { q with
      head := q.head ++ (List.range (Nat.min (8192 - q.head.length) (n - q.fresh))).map (fun i => mkHandle pool.val (q.fresh + i) 0)
      fresh := q.fresh + Nat.min (8192 - q.head.length) (n - q.fresh) })) := by
  subst hq hn hcs
  have hall : (List.range 64).all (fun c => decide (chainHead (getPool s pool.val) c = noHandle)) = true := by simpa using hempty
  show execHeadCacheRefill pool s = _
  simp only [execHeadCacheRefill, if_neg hdue, if_neg (not_not.mpr hchains), if_pos (And.intro hreads hall), hodTouch_unmarked hmarks]
  rfl

end Refill

/-! ### Bundle reads (R216, R228) -/

section Bundle
variable {c h : Nat} {r : List (Nat × Nat)} {e : Option Nat} {b : Bytes} {x : State}

/-- Nothing returns where no bundle read is in flight. -/
theorem exec_bundleReadDone_idle (hq : q = getPool s pool.val) (hreads : q.reads = []) (lost : Bool) :
    exec (.bundleReadDone pool lost) s = .next s := by
  subst hq
  show execBundleReadDone pool lost s = _
  simp only [execBundleReadDone, hreads]

/-- A bundle that arrives puts the handles it lists and its own at the head cache's tail, and its chain goes on at the next
bundle (R216). -/
theorem exec_bundleReadDone_arrived (hq : q = getPool s pool.val) (hreads : q.reads = (c, h) :: r)
    (hread : hbmRead s 2 64 (bufAddr s h) 128 = (none, b, x)) :
    exec (.bundleReadDone pool false) s = .next (modPool ((bundleHandles b ++ [h]).foldl cacheHandle x) pool.val (fun q => { q with
      reads := r, head := q.head ++ (bundleHandles b ++ [h])
      chains := if leAt b 0 4 = noHandle then tblDel q.chains c else tblSet q.chains c (leAt b 0 4) })) := by
  subst hq
  show execBundleReadDone pool false s = _
  simp only [execBundleReadDone, hreads, hread, Bool.false_eq_true, Option.isSome_none, or_self, if_false]

/-- A lost bundle retires its buffer and stops its chain, with an S2 record (R228). -/
theorem exec_bundleReadDone_lost (hq : q = getPool s pool.val) (hreads : q.reads = (c, h) :: r)
    (hread : hbmRead s 2 64 (bufAddr s h) 128 = (e, b, x)) :
    exec (.bundleReadDone pool true) s = .next (poolCnt (modPool (modWord (errorIn x 2 0x06 0x0004 (unitLoc 23 pool.val)) h
      (fun w => { w with st := 3 })) pool.val (fun q => { q with
        reads := r, chains := tblDel q.chains c, stopped := q.stopped ++ [c], used := q.used + 1, retired := q.retired + 1 })) pool.val 0x60) := by
  subst hq
  show execBundleReadDone pool true s = _
  simp only [execBundleReadDone, hreads, hread, true_or, if_true]

end Bundle

/-! ### Write-out and sweeps (R216, R227, R228) -/

/-- Bundles are written while Hod runs. -/
theorem exec_headCacheWriteout_running (hup : hodDown s = false) : exec (.headCacheWriteout pool) s = .next (writeOut pool.val 67 s) :=
  congrArg Host.Outcome.next (if_neg (Bool.eq_false_iff.mp hup))

/-- No bundle is written while Hod restarts. -/
theorem exec_headCacheWriteout_down (hdown : hodDown s = true) : exec (.headCacheWriteout pool) s = .next s :=
  congrArg Host.Outcome.next (if_pos hdown)

/-- The sweep of a stopped chain writes the buffers it held into fresh bundles of it, and the chain is used again (R228). -/
theorem exec_chainSweepDone_stopped {c : Fin 64} {hs : List Nat} (hstopped : c.val ∈ (getPool s pool.val).stopped)
    (hhs : hs = sweepHandles s pool.val (fun w => decide (w.st = 0) && decide (w.chain = c.val) && !w.unlinked)) :
    exec (.chainSweepDone pool c) s = .next (bundleUp pool.val c.val hs.length hs (modPool s pool.val (fun q => { q with
      stopped := q.stopped.filter (fun d => d ≠ c.val), chains := tblDel q.chains c.val }))) := by
  subst hhs
  exact congrArg Host.Outcome.next (if_neg (by simp [hstopped]))

/-- The sweep of UNLINKED buffers writes them into bundles of the next chain in use (R227). -/
theorem exec_unlinkedSweep_running {c : Nat} {hs : List Nat} (hup : hodDown s = false) (hchain : outChain (getPool s pool.val) = some c)
    (hhs : hs = sweepHandles s pool.val (fun w => decide (w.st = 0) && w.unlinked)) :
    exec (.unlinkedSweep pool) s = .next (bundleUp pool.val c hs.length hs s) := by
  subst hhs
  show execUnlinkedSweep pool s = _
  simp only [execUnlinkedSweep, hup, hchain, Bool.false_eq_true, if_false]

/-- No UNLINKED buffer is swept while Hod restarts. -/
theorem exec_unlinkedSweep_down (hdown : hodDown s = true) : exec (.unlinkedSweep pool) s = .next s :=
  congrArg Host.Outcome.next (if_pos hdown)

end FreeLists

/-- Settles O24: the references by the equation of a grant, a HOLD and each kind of RELEASE, and each free-list clause by the lemma
of its case. -/
theorem buffersAndFreeLists : Obligations.BuffersAndFreeLists := by
  refine ⟨fun s hmarks => ⟨?grant, ?hold, ?shared, ?last⟩, fun pool s hmarks => ⟨
    fun hlow hpresent hup => exec_headCacheRefill_chains hmarks rfl rfl rfl (refill_due hlow hpresent hup),
    fun hlow hpresent hup => exec_headCacheRefill_fresh hmarks rfl rfl rfl (refill_due hlow hpresent hup), exec_headCacheRefill_idle rfl,
    fun c h r b x => exec_bundleReadDone_arrived rfl, fun c h r e b x => exec_bundleReadDone_lost rfl, exec_bundleReadDone_idle rfl,
    exec_headCacheWriteout_running, fun c hstopped => ⟨_, rfl, exec_chainSweepDone_stopped hstopped rfl⟩,
    fun c hup hchain => ⟨_, rfl, exec_unlinkedSweep_running hup hchain rfl⟩,
    fun hdown => ⟨exec_headCacheWriteout_down hdown, exec_unlinkedSweep_down hdown⟩⟩⟩
  case grant =>
    intro d p h r _ hhead
    exact ⟨_, poolGrant_head hmarks hhead, by simp, by simp, by simp⟩
  case hold =>
    intro h q hok hunit
    exact ⟨_, hodHold_accepted hmarks hok hunit, by simp, rfl⟩
  case shared =>
    intro h q hok hunit href
    have hdrop := bufDrop_shared (inUse_of_refCheck hok) href
    exact ⟨_, hodRelease_accepted hmarks hok hunit, by simp [hdrop], by rw [hdrop]; rfl⟩
  case last =>
    intro h q hok hunit href hup hroom
    have hdrop := (bufDrop_last (inUse_of_refCheck hok) href).trans
      (bufFree_cached (s := poolCnt s (hPool h) 0x18) rfl rfl hmarks hup hroom)
    exact ⟨_, hodRelease_accepted hmarks hok hunit, by simp [hdrop], by simp [hdrop], by simp [hdrop], by simp [hdrop]⟩

end Sys2Proof.Proofs.BuffersAndFreeLists
end

section
/-!
PROOFS. The order-restore unit (R232, R235 to R237): which entry is released next, what ORDER_RELEASE and ORDER_AGE_CLOSE do in
each case, and O25 from them.
-/

namespace Sys2Proof.Proofs.OrderRestore
open Sys2Proof Sys2Proof.Machine

/-! ### The entry released next (R236) -/

/-- The earlier of two entries is the first, admitted no later than the second, or the second, admitted no later than the first. -/
theorem earlier_cases (a b : OrderEntry) : earlier a b = a ∧ a.tick ≤ b.tick ∨ earlier a b = b ∧ b.tick ≤ a.tick := by
  unfold earlier
  split
  case isTrue hbefore => exact .inr ⟨rfl, hbefore.elim Nat.le_of_lt fun htie => htie.1.le⟩
  case isFalse hnot => exact .inl ⟨rfl, Nat.le_of_not_lt fun hlt => hnot (.inl hlt)⟩

/-- The earliest entry is one of the list, and none was admitted before it. -/
theorem foldl_earlier_least (e : OrderEntry) (r : List OrderEntry) :
    r.foldl earlier e ∈ e :: r ∧ ∀ f ∈ e :: r, (r.foldl earlier e).tick ≤ f.tick := by
  induction r generalizing e with
  | nil => simp
  | cons g r ih =>
    obtain ⟨hmem, hleast⟩ := ih (earlier e g)
    obtain ⟨hfold, hrest⟩ := List.forall_mem_cons.mp hleast
    simp only [List.foldl_cons, List.forall_mem_cons]
    rcases earlier_cases e g with ⟨heq, hle⟩ | ⟨heq, hle⟩ <;> rw [heq] at hmem hfold hrest ⊢
    · exact ⟨List.cons_subset_cons e (List.subset_cons_self g r) hmem, hfold, hfold.trans hle, hrest⟩
    · exact ⟨List.mem_cons_of_mem e hmem, hfold.trans hle, hfold, hrest⟩

/-- A head is an entry that no other of its ordering domain precedes in the order of the keys (R232). -/
theorem isHead_iff {s : State} {e : OrderEntry} : isHead s e = true ↔
    ∀ f ∈ s.egress.entries, f.od = e.od → e.tick < f.tick ∨ (e.tick = f.tick ∧ e.source ≤ f.source) := by
  simp [isHead, or_iff_not_imp_left]

/-- What is released next is a complete head, and no complete head is older. -/
theorem nextRelease_oldest {s : State} {e : OrderEntry} (hnext : nextRelease s = some e) :
    (e ∈ s.egress.entries ∧ e.complete = true ∧ isHead s e = true) ∧
    ∀ f ∈ s.egress.entries, f.complete = true → isHead s f = true → e.tick ≤ f.tick := by
  unfold nextRelease at hnext
  split at hnext
  case h_1 => cases hnext
  case h_2 g r hheads =>
    obtain rfl : r.foldl earlier g = e := Option.some.inj hnext
    have hleast := foldl_earlier_least g r
    simpa only [← hheads, List.mem_filter, Bool.and_eq_true, and_imp] using hleast

/-! ### ORDER_RELEASE (R63, R235, R236) -/

section Release
variable {s u : State} {e : OrderEntry}

/-- Nothing is released while no head is complete. -/
theorem exec_orderRelease_idle (hnext : nextRelease s = none) : exec .orderRelease s = .next s := by
  show execOrderRelease s = _
  simp only [execOrderRelease, hnext, ite_self]

variable (hnext : nextRelease s = some e) (hup : recovering s (unitLoc 24 0) = false)
  (hu : u = delEntry (orderTouch (advanceTo s (e.tick + 192)) e.tick e.source) e.tick e.source)
include hnext hup hu

/-- A drop marker leaves the unit and is counted (R235). -/
theorem exec_orderRelease_dropMarker (hdrop : e.drop = true) : exec .orderRelease s = .next (orderCnt u 0x18) := by
  subst hu
  show execOrderRelease s = _
  simp only [execOrderRelease, hup, hnext, hdrop, Bool.false_eq_true, if_false, if_true]

/-- A packet beyond its MAX_RESIDENCE is dropped, with its buffer and the references its descriptors handed over (R63). -/
theorem exec_orderRelease_aged (hdrop : e.drop = false) (haged : aged u e.epoch e.tick = true) :
    exec .orderRelease s = .next (ageDrop (releaseAll u (descHandles e ++ [e.handle])) e.domain e.source) := by
  subst hu
  show execOrderRelease s = _
  simp only [execOrderRelease, hup, hnext, hdrop, haged, Bool.false_eq_true, if_false, if_true]

/-- The items of a packet that sends its own buffer go to admission in the order of their posts (R236). -/
theorem exec_orderRelease_items (hdrop : e.drop = false) (haged : aged u e.epoch e.tick = false)
    (hown : (entryItems e).any (fun i => dHandle i.desc == e.handle) = true) :
    exec .orderRelease s =
      .next (orderCnt { u with egress := { u.egress with released := u.egress.released ++ entryItems e } } 0x10) := by
  subst hu
  show execOrderRelease s = _
  simp only [execOrderRelease, hup, hnext, hdrop, haged, hown, Bool.false_eq_true, if_false, if_true]

end Release

/-! ### ORDER_AGE_CLOSE (R237) -/

/-- The incomplete head of an ordering domain is closed at its MAX_RESIDENCE, and counts as an age marker and an age drop. -/
theorem exec_orderAgeClose_head {s : State} {od : BitVec 16} {e : OrderEntry}
    (hhead : s.egress.entries.find? (fun e => e.od == od.toNat && !e.complete && isHead s e) = some e) :
    exec (.orderAgeClose od) s = .next (ageDrop (orderCnt (delEntry
      (releaseAll (advanceTo s (e.tick + residence s e.epoch)) (descHandles e)) e.tick e.source) 0x28) e.domain e.source) := by
  show execOrderAgeClose od s = _
  simp only [execOrderAgeClose, hhead]

/-! ### The obligation -/

/-- Settles O25: the entry released by `nextRelease_oldest`, and each command by the lemma of its case. -/
theorem orderRestore : Obligations.OrderRestore := by
  refine fun s => ⟨fun e hnext => ?oldest, fun e u hnext hup hu => ⟨exec_orderRelease_dropMarker hnext hup hu,
    exec_orderRelease_aged hnext hup hu, exec_orderRelease_items hnext hup hu⟩, exec_orderRelease_idle,
    fun od e => exec_orderAgeClose_head⟩
  case oldest =>
    obtain ⟨⟨hmem, hcomplete, hhead⟩, holdest⟩ := nextRelease_oldest hnext
    exact ⟨hmem, hcomplete, isHead_iff.mp hhead, holdest⟩

end Sys2Proof.Proofs.OrderRestore
end

section
/-!
PROOFS. Threads and clusters of the state: what a change of one leaves to be read of it, and what an advance of the clock
and the counters leave alone.
-/

namespace Sys2Proof.Proofs.CoreState
open Sys2Proof Sys2Proof.Machine

/-- A changed thread reads as its change. -/
@[simp] theorem getTh_modTh (s : State) (k : Nat) (f : Thread → Thread) : getTh (modTh s k f) k = f (getTh s k) := tblGet_tblMod_same _ _ _ _

/-- Counting leaves the threads alone. -/
@[simp] theorem getTh_coreCnt (s : State) (tid off n k : Nat) : getTh (coreCnt s tid off n) k = getTh s k := rfl

/-- The advance of time leaves the clusters alone. -/
@[simp] theorem getCl_advanceTo (s : State) (a n : Nat) : getCl (advanceTo s a) n = getCl s n := by rw [advanceTo_frame]; rfl

/-- The advance of time leaves the fault manager alone. -/
@[simp] theorem advanceTo_fault (s : State) (a : Nat) : (advanceTo s a).fault = s.fault := by rw [advanceTo_frame]

/-- A change of a thread is what it makes of the thread as it stands. -/
theorem modTh_congr {s : State} {k : Nat} {f g : Thread → Thread} (h : f (getTh s k) = g (getTh s k)) : modTh s k f = modTh s k g :=
  congrArg (setTh s k) h

/-- A change of a cluster is what it makes of the cluster as it stands. -/
theorem modCl_congr {s : State} {n : Nat} {f g : Cluster → Cluster} (h : f (getCl s n) = g (getCl s n)) : modCl s n f = modCl s n g :=
  congrArg (fun c : Cluster => { s with core := { s.core with clusters := tblSet s.core.clusters n c } }) h

end Sys2Proof.Proofs.CoreState
end

section
/-!
PROOFS. ALU words and moves (R269, R333, R336, R339): what each word puts on its way, computed from what stage 3 reads, and
O35 from them.
-/

namespace Sys2Proof.Proofs.AluWords
open Sys2Proof Sys2Proof.Machine Sys2Proof.Proofs.SkimIssue

/-- What an outcome of the ALU puts on its way: the result, if there is one, and the flags, if they are written (R269). -/
def aluLands (u : State) (c : Ctx) (d : Nat) (o : Option W64 × Option Fl) : State :=
  resFlags (match o.1 with | some q => pendTh u c.tid (c.p + 4) (.reg (regD d) q) | none => u) c o.2

section Words
variable {v u : State} {c : Ctx} {t : Thread} {d r n imm : Nat}

/-- An ALU word computes from its destination and its source. -/
theorem runSk_alu {fn sk src : Nat} (ht : getTh v c.tid = t) : runSk c (.alu fn d sk src imm) v u =
    (aluLands u c d (aluRun fn (getReg t (regD d)) (aluSource t sk src imm) t.fc), .seq) := by
  subst ht; rfl

/-- INSH shifts 16 bits into its register (R336). -/
theorem runSk_insh (ht : getTh v c.tid = t) : runSk c (.insh d imm) v u =
    (pendTh u c.tid (c.p + 4) (.reg (regD d) (getReg t (regD d) <<< 16 ||| BitVec.ofNat 64 imm)), .seq) := by
  subst ht; rfl

/-- A paired word whose window accesses are allowed does both halves and counts (R333). -/
theorem runSk_paired {a b : Half} (ha : halfBad a = none) (hb : halfBad b = none) : runSk c (.paired a b) v u =
    (coreCnt (semHalf v (semHalf v u c a) c b) c.tid 0x08 1, .seq) := by
  simp only [runSk, semPaired, ha, hb]

/-- MFS reads a status register into a register (R339). -/
theorem runSk_mfs : runSk c (.mfs r n) v u = (pendTh u c.tid (c.p + 4) (.reg (regA r) (getStatus v c.tid (c.p + 2) n)), .seq) := rfl

/-- MTS writes a register to a status register (R339). -/
theorem runSk_mts (ht : getTh v c.tid = t) :
    runSk c (.mts r n) v u = (pendTh u c.tid (c.p + 4) (.status n (getReg t (regA r))), .seq) := by
  subst ht; rfl

/-- FMOV writes a register to F. -/
theorem runSk_fmov_write (ht : getTh v c.tid = t) :
    runSk c (.fmov true r) v u = (pendTh u c.tid (c.p + 4) (.fmov (getReg t (regA r))), .seq) := by
  subst ht; rfl

/-- FMOV reads F into a register. -/
theorem runSk_fmov_read (ht : getTh v c.tid = t) :
    runSk c (.fmov false r) v u = (pendTh u c.tid (c.p + 4) (.reg (regA r) (BitVec.ofNat 64 (fWord t))), .seq) := by
  subst ht; rfl

end Words

/-- Settles O35: a due word is issued by `next_due`, and what it does is the lemma of its word. -/
theorem aluWords : Obligations.AluWords := by
  intro tid s v u c t
  have ht : ∀ {row x}, SkimDue s tid row x c v u → getTh v c.tid = t := fun hdue => by rw [due_tid hdue]
  refine ⟨?alu, fun d imm hdue => next_due hdue (runSk_insh (ht hdue)), fun a b hdue ha hb => next_due hdue (runSk_paired ha hb),
    fun r n hdue => next_due hdue runSk_mfs, fun r n hdue => next_due hdue (runSk_mts (ht hdue)),
    fun r hdue => next_due hdue (runSk_fmov_write (ht hdue)), fun r hdue => next_due hdue (runSk_fmov_read (ht hdue))⟩
  case alu =>
    intro fn d sk src imm o hdue ho
    have hnext := next_due hdue (runSk_alu (ht hdue))
    rw [← ho] at hnext
    refine ⟨fun q f hboth => ?_, fun q hresult => ?_, fun f hflags => ?_⟩
    · subst hboth; exact hnext
    · subst hresult; exact hnext
    · subst hflags; exact hnext

end Sys2Proof.Proofs.AluWords
end

section
/-!
PROOFS. Loads, stores and TAS (R283, R284, R334, R337, R338): what each does at each place that its address resolves to, and
O36 from them.
-/

namespace Sys2Proof.Proofs.MemoryWords
open Sys2Proof Sys2Proof.Machine Sys2Proof.Proofs.SkimIssue

section Words
variable {v u : State} {c : Ctx} {t : Thread} {r size am disp : Nat} {be sx z0 : Bool} {pl : Place} {e : Exc}

/-! ### Loads -/

/-- An allowed load is made at its place. -/
theorem runSk_ld_ok (ht : getTh v c.tid = t) (hpl : resolveBank v c.tid (memBank t z0) (memOffset t am (2 ^ size) disp) (2 ^ size) false = .ok pl) :
    runSk c (.ld r size am be sx z0 disp) v u = (loadReg v u c pl { size := 2 ^ size, be := be, sx := sx } (regA r), .seq) := by
  subst ht
  simp only [runSk, semLd, hpl]

/-- A forbidden load only raises its exception. -/
theorem runSk_ld_error (ht : getTh v c.tid = t) (he : resolveBank v c.tid (memBank t z0) (memOffset t am (2 ^ size) disp) (2 ^ size) false = .error e) :
    runSk c (.ld r size am be sx z0 disp) v u = (u, .exc e) := by
  subst ht
  simp only [runSk, semLd, he]

/-- A load from bank 0 has its value after bank 0's latency. -/
theorem loadReg_priv {f : LoadFmt} {g : Reg} {o : Nat} (ht : getTh v c.tid = t) : loadReg v u c (.priv o) f g =
    pendTh u c.tid (c.p + shortLat (.priv o) f.size + 1) (.reg g (loadValue f (memBytes t.mem o f.size))) := by
  subst ht; rfl

/-! ### Stores -/

/-- An allowed store is made at its place. -/
theorem runSk_st_ok (ht : getTh v c.tid = t) (hpl : resolveBank v c.tid (memBank t z0) (memOffset t am (2 ^ size) disp) (2 ^ size) true = .ok pl) :
    runSk c (.st r size am be z0 disp) v u = (storeTo u c pl (storeBytes { size := 2 ^ size, be := be } (getReg t (regA r))), .seq) := by
  subst ht
  simp only [runSk, semSt, hpl]

/-- A forbidden store only raises its exception. -/
theorem runSk_st_error (ht : getTh v c.tid = t) (he : resolveBank v c.tid (memBank t z0) (memOffset t am (2 ^ size) disp) (2 ^ size) true = .error e) :
    runSk c (.st r size am be z0 disp) v u = (u, .exc e) := by
  subst ht
  simp only [runSk, semSt, he]

/-! ### TAS -/

/-- TAS in the own cluster's memory has its entry for its register, and reaches the cluster after 12 ticks (R338). -/
theorem runSk_tas_own {a : Nat} {x : Nat × State} (ht : getTh v c.tid = t)
    (hread : resolveBank v c.tid (memBank t z0) (memOffset t am 1 disp) 1 false = .ok pl)
    (hwrite : resolveBank v c.tid (memBank t z0) (memOffset t am 1 disp) 1 true = .ok (.own a))
    (hx : x = allocEntry u c.tid [.reg (regA r)] (.tas a (regA r) none) (some (c.p + 14)) true) :
    runSk c (.tas r am z0 disp) v u = (clusterOp x.2 c.tid (c.p + 13) (.tas a x.1), .seq) := by
  subst ht hx
  simp only [runSk, semTas, hread, hwrite]

/-- TAS in bank 0 is ILLEGAL (R338). -/
theorem runSk_tas_priv {o : Nat} (ht : getTh v c.tid = t)
    (hread : resolveBank v c.tid (memBank t z0) (memOffset t am 1 disp) 1 false = .ok pl)
    (hwrite : resolveBank v c.tid (memBank t z0) (memOffset t am 1 disp) 1 true = .ok (.priv o)) :
    runSk c (.tas r am z0 disp) v u = (u, .exc { cause := 3 }) := by
  subst ht
  simp only [runSk, semTas, hread, hwrite, excIllegal]

end Words

/-- Settles O36: a due word is issued by `next_due`, and what it does is the lemma of its word at the place that its address
resolves to. -/
theorem memoryWords : Obligations.MemoryWords := by
  intro tid s v u c t
  have ht : ∀ {row x}, SkimDue s tid row x c v u → getTh v c.tid = t := fun hdue => by rw [due_tid hdue]
  refine ⟨?ld, ?st, ?own, ?bank0⟩
  case ld =>
    intro r size am be sx z0 disp hdue f
    refine ⟨fun o hpriv => ?_, fun a hown => next_due hdue (runSk_ld_ok (ht hdue) hown), fun a hfar => next_due hdue (runSk_ld_ok (ht hdue) hfar),
      fun e he => next_due hdue (runSk_ld_error (ht hdue) he)⟩
    exact next_due hdue ((runSk_ld_ok (ht hdue) hpriv).trans (by rw [loadReg_priv (ht hdue)]))
  case st =>
    intro r size am be z0 disp hdue f
    exact ⟨fun a hown => next_due hdue (runSk_st_ok (ht hdue) hown), fun o hpriv => next_due hdue (runSk_st_ok (ht hdue) hpriv),
      fun a hfar => next_due hdue (runSk_st_ok (ht hdue) hfar), fun e he => next_due hdue (runSk_st_error (ht hdue) he)⟩
  case own => exact fun r am z0 disp a pl hdue hread hwrite => ⟨_, rfl, next_due hdue (runSk_tas_own (ht hdue) hread hwrite rfl)⟩
  case bank0 => exact fun r am z0 disp o pl hdue hread hwrite => next_due hdue (runSk_tas_priv (ht hdue) hread hwrite)

end Sys2Proof.Proofs.MemoryWords
end

section
/-!
PROOFS. Control words (R277, R317, R340, R343, R346, R347, R350): what each word does at its issue and asks of the flow of
control, and O37 from them.
-/

namespace Sys2Proof.Proofs.ControlWords
open Sys2Proof Sys2Proof.Machine Sys2Proof.Proofs.SkimIssue Sys2Proof.Proofs.CoreState

/-- A due Skim word has four bytes. -/
theorem due_len {s v u : State} {tid : Tid} {row : Row} {x : SkWord} {c : Ctx} (hdue : SkimDue s tid row x c v u) : c.len = 4 := by
  obtain ⟨s1, w, -, -, -, -, -, -, -, -, hc, -⟩ := hdue
  rw [hc]

section Words
variable {v u : State} {c : Ctx} {t : Thread} {r imm : Nat} {d : Int}

/-! ### Loops -/

/-- The iterations that a LOOP asks for: its immediate, or the low 16 bits of a register (R343). -/
def loopCount (t : Thread) (csrc imm : Nat) : Nat := if csrc = 0 then imm else (getReg t (regA (csrc - 1))).toNat % 65536

/-- A LOOP with iterations to do writes LC and its bounds (R343). -/
theorem runSk_loop_enter {csrc len n : Nat} (hlen : c.len = 4) (ht : getTh u c.tid = t) (hn : n = loopCount t csrc imm) (hne : n ≠ 0) :
    runSk c (.loop csrc len imm) v u = (modTh u c.tid (fun t => { t with
      lc := n, loopFirst := c.addr + 4, loopLast := c.addr + 4 + 4 * len, loopValid := true }), .seq) := by
  subst ht hn
  rw [loopCount] at hne ⊢
  simp only [runSk, semLoop, hlen, if_neg hne]

/-- A LOOP without iterations goes on behind its body (R343). -/
theorem runSk_loop_skip {csrc len : Nat} (hlen : c.len = 4) (ht : getTh u c.tid = t) (hn : loopCount t csrc imm = 0) :
    runSk c (.loop csrc len imm) v u = (modTh u c.tid (fun t => { t with lc := 0, loopValid := false }), .skip (c.addr + 4 + 4 * len)) := by
  subst ht
  rw [loopCount] at hn
  simp only [runSk, semLoop, hlen, if_pos hn]

/-- SETLC writes LC and ends any loop in force (R346). -/
theorem runSk_setlc : runSk c (.setlc imm) v u = (modTh u c.tid (fun t => { t with lc := imm, loopValid := false }), .seq) := rfl

/-! ### Branches -/

/-- BR is taken when its condition holds for the flags of stage 3 (R340). -/
theorem runSk_br {cond : Nat} (ht : getTh v c.tid = t) : runSk c (.br cond d) v u = (u,
    .branch (if condHolds cond { z := t.fz, n := t.fn, c := t.fc, v := t.fv } t.fe then some (codeAdd (c.addr + 4) (4 * d)) else none)) := by
  subst ht; rfl

/-- BAL is taken, and its link is on its way to Y. -/
theorem runSk_bal : runSk c (.bal d) v u =
    (pendTh u c.tid (c.p + 4) (.reg .y (BitVec.ofNat 64 ((c.addr + 8) % 2 ^ 24))), .branch (some (codeAdd (c.addr + 4) (4 * d)))) := rfl

/-- JR is taken to the address in its register. -/
theorem runSk_jr (ht : getTh v c.tid = t) : runSk c (.jr r) v u = (u, .branch (some ((getReg t (regA r)).toNat % 2 ^ 24))) := by
  subst ht; rfl

/-! ### FENCE -/

/-- A FENCE with nothing short on its way holds the thread back from its next word on (R277). -/
theorem runSk_fence_idle (hpend : (getTh u c.tid).pend = []) (hops : (getCl u (tidCluster c.tid)).ops = []) : runSk c .fence v u =
    (modTh (finishWord (coreCnt u c.tid 0x58 1) u c .seq) c.tid (fun t => { t with fence := true }), .placed) := by
  have hseen : modTh (finishWord (coreCnt u c.tid 0x58 1) u c .seq) c.tid (fun t => { t with fence := true, nextAt := Nat.max t.nextAt (0 - 1) }) =
      modTh (finishWord (coreCnt u c.tid 0x58 1) u c .seq) c.tid (fun t => { t with fence := true }) :=
    modTh_congr (by simp)
  simp only [runSk, semFence, hpend, hops, List.filterMap_nil, List.append_nil, List.foldl_nil, hseen]

/-! ### TRAP and RETX -/

/-- TRAP's exception is delivered with the place behind the word (R317). -/
theorem finishWord_trap (hlen : c.len = 4) (ht : getTh v c.tid = t) :
    finishWord u v c (.exc { cause := 4 }) = deliverExc u t c.tid c.p c.addr 4 true { cause := 4 } := by
  subst ht
  simp only [finishWord, hlen, BEq.rfl]

/-- RETX goes back in a handler. -/
theorem runSk_retx_handler (hex : (getTh u c.tid).ex = true) : runSk c .retx v u = (u, .retx) := by
  simp only [runSk, hex, if_true]

/-- RETX is ILLEGAL outside a handler. -/
theorem runSk_retx_outside (hex : (getTh u c.tid).ex = false) : runSk c .retx v u = (u, .exc { cause := 3 }) := by
  simp only [runSk, hex, Bool.false_eq_true, if_false, excIllegal]

/-- After RETX the thread stands at EPC with the saved LC and mode, outside the handler and without a reservation (R350). -/
theorem finishWord_retx_thread {w : Thread} (ht : getTh v c.tid = t) (hw : w = getTh (finishWord u v c .retx) c.tid) :
    w.pc = t.epc ∧ w.lc = t.elc ∧ w.ex = false ∧ w.mode = t.ef.testBit 5 ∧ w.resv = none := by
  subst ht hw
  simp only [finishWord, getTh_coreCnt, getTh_modTh, setIe, and_self]

end Words

/-- Settles O37: a due word is issued by `next_due`, and what it does is the lemma of its word. -/
theorem controlWords : Obligations.ControlWords := by
  intro tid s v u c t
  have ht : ∀ {row x}, SkimDue s tid row x c v u → getTh v c.tid = t := fun hdue => by rw [due_tid hdue]
  have hu : ∀ {row x}, SkimDue s tid row x c v u → getTh u c.tid = getTh u (tidNum tid) := fun hdue => by rw [due_tid hdue]
  refine ⟨fun hdue => next_due hdue rfl, ?loop, fun imm hdue => next_due hdue runSk_setlc, fun cond d hdue => next_due hdue (runSk_br (ht hdue)),
    fun d hdue => next_due hdue runSk_bal, fun r hdue => next_due hdue (runSk_jr (ht hdue)), fun r hdue => next_due hdue rfl, ?fence, ?trap,
    ?retx, ?outside⟩
  case loop =>
    intro csrc len imm n hdue hn
    exact ⟨fun hne => next_due hdue (runSk_loop_enter (due_len hdue) (hu hdue) hn hne),
      fun hzero => next_due hdue (runSk_loop_skip (due_len hdue) (hu hdue) (hn.symm.trans hzero))⟩
  case fence =>
    intro hdue hpend hops
    exact next_due hdue (runSk_fence_idle (by rwa [due_tid hdue]) (by rwa [due_tid hdue]))
  case trap => exact fun hdue => (next_due hdue rfl).trans (congrArg Host.Outcome.next (finishWord_trap (due_len hdue) (ht hdue)))
  case retx =>
    intro hdue hex
    exact ⟨_, next_due hdue (runSk_retx_handler (by rwa [due_tid hdue])), finishWord_retx_thread (ht hdue) rfl⟩
  case outside => exact fun hdue hex => next_due hdue (runSk_retx_outside (by rwa [due_tid hdue]))

end Sys2Proof.Proofs.ControlWords
end

section
/-!
PROOFS. Completions, wakes, delay lists and reservations (R273, R275, R276, R303, R314, R321, R325, R326, Table 12-6): what
each of these events does in each case of its rule, and O47 from them.
-/

namespace Sys2Proof.Proofs.CompletionsAndWakes
open Sys2Proof Sys2Proof.Machine Sys2Proof.Proofs.CoreState

section Events
variable {s x y : State} {k : Nat}

/-! ### LONG_OP_COMPLETE -/

section LongOps
variable {n a off st : Nat} {host : BitVec 64} {e : SbEntry} {f : LoadFmt} {r : Reg} {d : Bytes} {flag fault : Option Nat}

/-- Without an entry of its number nothing completes. -/
theorem longOpComplete_none (hfind : (getTh s k).sb.find? (fun e => e.id == n) = none) : longOpComplete s k n host = s := by
  simp only [longOpComplete, hfind]

/-- A long load without a tick of its own completes at the present one. -/
theorem longOpComplete_load (hfind : (getTh s k).sb.find? (fun e => e.id == n) = some e) (hexact : e.exact = false) (hop : e.op = .load a f r) :
    longOpComplete s k n host = completeEntry s k e host := by
  simp only [longOpComplete, hfind, hexact, hop, Bool.false_eq_true, if_false]

/-- A decided result without a tick of its own completes at the present one. -/
theorem longOpComplete_result (hfind : (getTh s k).sb.find? (fun e => e.id == n) = some e) (hexact : e.exact = false)
    (hop : e.op = .result off d flag fault) : longOpComplete s k n host = completeEntry s k e host := by
  simp only [longOpComplete, hfind, hexact, hop, Bool.false_eq_true, if_false]

/-- A load whose answers are all in writes its value, and MEMDONE sets (R273). -/
theorem completeEntry_load_ok (hop : e.op = .load a f r) (hout : loadOutcome s k e a f.size host = some (stOk, d, x)) :
    completeEntry s k e host = modTh (setFlag (clearEntry x k e.id) k 18) k (fun t => setReg t r (loadValue f d)) := by
  simp only [completeEntry, hop, hout, if_true, loadDone]

/-- A load that has failed leaves its register and raises FAULT (R275). -/
theorem completeEntry_load_failed (hop : e.op = .load a f r) (hout : loadOutcome s k e a f.size host = some (st, d, x)) (hst : st ≠ stOk) :
    completeEntry s k e host = raiseFault (clearEntry x k e.id) k st 1 e.id := by
  simp only [completeEntry, hop, hout, if_neg hst, longFails]

/-- A load that still waits for answers stays. -/
theorem completeEntry_load_waiting (hop : e.op = .load a f r) (hout : loadOutcome s k e a f.size host = none) : completeEntry s k e host = s := by
  simp only [completeEntry, hop, hout]

/-- A decided result is written at its place. -/
theorem completeEntry_result (hop : e.op = .result off d none none) :
    completeEntry s k e host = modTh (clearEntry s k e.id) k (fun t => { t with mem := memWrite t.mem off d }) := by
  simp only [completeEntry, hop, putResult]

/-- A decided result with an event is written at its place, and the event's flag sets. -/
theorem completeEntry_result_flag {b : Nat} (hop : e.op = .result off d (some b) none) :
    completeEntry s k e host = setFlag (modTh (clearEntry s k e.id) k (fun t => { t with mem := memWrite t.mem off d })) k b := by
  simp only [completeEntry, hop, putResult]

end LongOps

/-! ### STORE_PERFORMED (R276) -/

section Stores
variable {i : Nat} {p : PostedStore} {w : State}

/-- The last store outstanding leaves when it was performed, and MEMDONE sets. -/
theorem storePerformed_last (hi : (getTh s k).stores[i]? = some p) (hout : storeOutcome s k p = some (stOk, y))
    (hw : w = modTh y k (fun t => { t with stores := t.stores.filter (fun z => z.seq ≠ p.seq) })) (hlast : (getTh w k).stores = []) :
    storePerformed s k i = setFlag w k 18 := by
  obtain ⟨hlt, rfl⟩ := List.getElem?_eq_some_iff.mp hi
  simp only [storePerformed, List.drop_eq_getElem_cons hlt, hout, ← hw, hlast, if_true]

/-- A store before the last leaves when it was performed. -/
theorem storePerformed_earlier (hi : (getTh s k).stores[i]? = some p) (hout : storeOutcome s k p = some (stOk, y))
    (hw : w = modTh y k (fun t => { t with stores := t.stores.filter (fun z => z.seq ≠ p.seq) })) (hmore : (getTh w k).stores ≠ []) :
    storePerformed s k i = w := by
  obtain ⟨hlt, rfl⟩ := List.getElem?_eq_some_iff.mp hi
  simp only [storePerformed, List.drop_eq_getElem_cons hlt, hout, ← hw, if_neg hmore, if_true]

/-- Without a store of its number nothing is performed. -/
theorem storePerformed_none (hi : (getTh s k).stores[i]? = none) : storePerformed s k i = s := by
  simp only [storePerformed, List.drop_eq_nil_of_le (List.getElem?_eq_none_iff.mp hi)]

end Stores

/-! ### THREAD_WAKE -/

section Wakes
variable {t : Thread} {m n f at_ : Nat}

/-- For each of a set of flags, the tick in which it set, or the one in which the thread blocked when that is later. -/
def flagTicks (t : Thread) (f at_ : Nat) : List Nat := ((List.range 24).filter (fun b => f.testBit b)).map (fun b => Nat.max at_ (tblGet 0 t.setAt b))

/-- No flag counts from before the thread blocked. -/
theorem le_of_mem_flagTicks : ∀ i ∈ flagTicks t f at_, at_ ≤ i := by
  simp only [flagTicks, List.mem_map, forall_exists_index, and_imp]
  rintro i b - rfl
  exact Nat.le_max_left _ _

/-- A condition that wakes a thread comes true when the thread blocked at the earliest. -/
theorem le_wakeTick : at_ ≤ wakeTick t f at_ := by
  have hwake : wakeTick t f at_ = (flagTicks t f at_).foldl Nat.min ((flagTicks t f at_).headD at_) := rfl
  have hfirst : at_ ≤ (flagTicks t f at_).headD at_ := by
    cases hticks : flagTicks t f at_ with
    | nil => exact le_rfl
    | cons i l =>
      have hmem : i ∈ flagTicks t f at_ := by simp [hticks]
      exact le_of_mem_flagTicks i hmem
  rw [hwake]
  exact List.foldlRecOn _ Nat.min hfirst (fun a ha i hi => Nat.le_min.mpr ⟨ha, le_of_mem_flagTicks i hi⟩)

/-- A thread that does not wait is not woken. -/
theorem threadWake_running (ht : getTh s k = t) (hwait : t.wait = .none) : threadWake s k = s := by
  subst ht
  simp only [threadWake, hwait]

/-- A thread that waits for events wakes when one of its events is armed (R314). -/
theorem threadWake_event (ht : getTh s k = t) (hwait : t.wait = .event) : threadWake s k =
    if armedAt s k (s.now + 1) = 0 then s else wakeAt s k (wakeTick t (armedAt s k (s.now + 1)) t.waitAt) := by
  subst ht
  simp only [threadWake, hwait]

/-- A thread that waits for work wakes with the work swapped in (R303). -/
theorem threadWake_work (ht : getTh s k = t) (hwait : t.wait = .work) (hshadow : t.shadow.isSome = true) :
    threadWake s k = (nextSwap (wakeAt s k (wakeTick t 1 t.waitAt)) k (wakeTick t 1 t.waitAt + 3)).2 := by
  subst ht
  have hnone : (getTh s k).shadow.isNone = false := by rw [← Option.not_isSome, hshadow, Bool.not_true]
  simp only [threadWake, hwait, hnone, Bool.false_eq_true, if_false]

/-- A thread that waits for a message wakes with the message taken (R321). -/
theorem threadWake_channel (ht : getTh s k = t) (hwait : t.wait = .channel n) (hmsg : chanOf t n ≠ []) :
    threadWake s k = takeMessage (wakeAt s k (wakeTick t (2 ^ (5 + n)) t.waitAt)) k n (wakeTick t (2 ^ (5 + n)) t.waitAt + 5) := by
  subst ht
  simp only [threadWake, hwait, if_neg hmsg]

/-- A SLEEP without FAULT ends when its entry is due (R325). -/
theorem threadWake_sleep {e : TimerEnt} (ht : getTh s k = t) (hwait : t.wait = .sleep) (hfault : t.evf.testBit 17 = false)
    (hentry : sleepEntry s k = some e) (hdue : e.due = true) :
    threadWake s k = modTh (wakeAt (endSleep s k) k (Nat.max e.dueAt t.waitAt)) k (fun t => { t with fe := false }) := by
  subst ht
  simp only [threadWake, hwait, hfault, hentry, hdue, Bool.false_eq_true, if_true, if_false]

/-- A woken thread does not wait, and issues four ticks after its condition's. -/
theorem getTh_wakeAt : getTh (wakeAt s k m) k = { getTh s k with wait := .none, nextAt := m + 4 } := by
  simp only [wakeAt, getTh_coreCnt, getTh_modTh]

end Wakes

/-! ### RESERVATION_EXPIRE (Table 12-6) -/

/-- A reservation is gone 1,024 ticks after its LR. -/
theorem reservationExpire_some {a at_ : Nat} (hresv : (getTh s k).resv = some (a, at_)) :
    reservationExpire s k = modTh (advanceTo s (at_ + 1024)) k (fun t => { t with resv := none }) := by
  simp only [reservationExpire, hresv]

/-- Without a reservation nothing expires. -/
theorem reservationExpire_none (hresv : (getTh s k).resv = none) : reservationExpire s k = s := by
  simp only [reservationExpire, hresv]

/-! ### TIMER_DUE (R326) -/

section Timers
variable {n : Nat} {e : TimerEnt}

/-- Without planted errors the delay list reads whole. -/
theorem delayTouch_unmarked (hmarks : s.fault.marks = []) : delayTouch s n = (false, s) := by
  simp only [delayTouch, hmarks, List.filter_nil, List.foldl_nil]

/-- No timer is due to a thread on whose delay list nothing is due. -/
theorem flagNow_timer_none (htimers : (getCl s (tidCluster k)).timers = [e]) (hdue : e.due = false) : flagNow s k 3 = false := by
  have hnot : ∀ x ∈ timersOf s k, x.due = false := by
    intro x hx
    rw [timersOf, htimers] at hx
    rw [List.mem_singleton.mp (List.mem_of_mem_filter hx), hdue]
  have hany : (timersOf s k).any (fun x => x.due && !x.sleep) = false := List.any_eq_false.mpr (fun x hx => by simp [hnot x hx])
  simp [flagNow, hany]

/-- The only entry of a delay list falls due once its deadline has come. -/
theorem timerDue_only {cl : Nat} {u : State} (hmarks : s.fault.marks = []) (htimers : (getCl s cl).timers = [e]) (hdue : e.due = false)
    (hsleep : e.sleep = false) (hcl : tidCluster e.tid = cl) (hu : u = advanceTo s (listTickStart s cl e.deadline))
    (hle : e.deadline ≤ listTick u cl) : timerDue s cl = dispCnt (modTh
      (modCl u cl (fun c => { c with timers := [{ e with due := true, dueAt := u.now }] })) e.tid
      (fun t => { t with setAt := tblSet t.setAt 3 u.now })) cl 0x50 1 := by
  have hcl' : (getCl u cl).timers = [e] := by rw [hu, getCl_advanceTo, htimers]
  have hmarks' : u.fault.marks = [] := by rw [hu, advanceTo_fault, hmarks]
  have hflag : flagNow u e.tid 3 = false := flagNow_timer_none (by rw [hcl, hcl']) hdue
  have hfall : modCl u cl (fun c => { c with timers := c.timers.map (fun x => if [e].contains x then { x with due := true, dueAt := u.now } else x) }) =
      modCl u cl (fun c => { c with timers := [{ e with due := true, dueAt := u.now }] }) := modCl_congr (by simp [hcl'])
  have hsorted : ((getCl s cl).timers.filter (fun x => !x.due)).foldl (fun l x => insertBy (·.deadline) x l) [] = [e] := by
    simp [htimers, hdue, insertBy]
  have hgo : ([e].filter (fun x => decide (x.deadline ≤ listTick u cl))).take 8 = [e] := by simp [hle]
  simp only [timerDue, hsorted, ← hu, delayTouch_unmarked hmarks', hgo, hfall, hsleep, hflag, List.foldl_cons, List.foldl_nil,
    List.length_singleton, Bool.false_eq_true, or_self, if_false]

end Timers
end Events

/-- Settles O47: each completion, wake and expiry by the lemma of its case. -/
theorem completionsAndWakes : Obligations.CompletionsAndWakes := by
  refine ⟨?completions, ?wakes⟩
  case completions =>
    intro tid s n host e k
    refine ⟨?found, fun hfind => congrArg Host.Outcome.next (longOpComplete_none hfind), ?performed,
      fun i hi => congrArg Host.Outcome.next (storePerformed_none hi)⟩
    case found =>
      intro hfind hexact
      have hload : ∀ {a f r}, e.op = .load a f r → exec (.longOpComplete tid n host) s = .next (completeEntry s k e host) :=
        fun hop => congrArg Host.Outcome.next (longOpComplete_load hfind hexact hop)
      have hresult : ∀ {off d flag}, e.op = .result off d flag none → exec (.longOpComplete tid n host) s = .next (completeEntry s k e host) :=
        fun hop => congrArg Host.Outcome.next (longOpComplete_result hfind hexact hop)
      refine ⟨fun a f r d x hop hout => ?ok, fun a f r d x st hop hout hst => ?failed, fun off d hop => ?result, fun off d b hop => ?flagged,
        fun a f r hop hout => ?waiting⟩
      case ok => rw [hload hop, completeEntry_load_ok hop hout]
      case failed => rw [hload hop, completeEntry_load_failed hop hout hst]
      case result => rw [hresult hop, completeEntry_result hop]
      case flagged => rw [hresult hop, completeEntry_result_flag hop]
      case waiting => rw [hload hop, completeEntry_load_waiting hop hout]
    case performed =>
      intro i p y hi hout
      exact ⟨_, rfl, fun hlast => congrArg Host.Outcome.next (storePerformed_last hi hout rfl hlast),
        fun hmore => congrArg Host.Outcome.next (storePerformed_earlier hi hout rfl hmore)⟩
  case wakes =>
    intro tid s k t
    refine ⟨?armed, ?unarmed, ?work, ?channel, ?sleep, fun hwait => congrArg Host.Outcome.next (threadWake_running rfl hwait), ?woken,
      fun a at_ hresv => congrArg Host.Outcome.next (reservationExpire_some hresv),
      fun hresv => congrArg Host.Outcome.next (reservationExpire_none hresv), ?timer⟩
    case armed => exact fun hwait harmed => ⟨_, le_wakeTick, congrArg Host.Outcome.next ((threadWake_event rfl hwait).trans (if_neg harmed))⟩
    case unarmed => exact fun hwait harmed => congrArg Host.Outcome.next ((threadWake_event rfl hwait).trans (if_pos harmed))
    case work => exact fun hwait hshadow => ⟨_, le_wakeTick, congrArg Host.Outcome.next (threadWake_work rfl hwait hshadow)⟩
    case channel => exact fun n hwait hmsg => ⟨_, le_wakeTick, congrArg Host.Outcome.next (threadWake_channel rfl hwait hmsg)⟩
    case sleep => exact fun e hwait hfault hentry hdue => congrArg Host.Outcome.next (threadWake_sleep rfl hwait hfault hentry hdue)
    case woken =>
      intro m
      rw [getTh_wakeAt]
      exact ⟨rfl, rfl⟩
    case timer =>
      exact fun cl e u hmarks htimers hdue hsleep hcl hu hle => congrArg Host.Outcome.next (timerDue_only hmarks htimers hdue hsleep hcl hu hle)

end Sys2Proof.Proofs.CompletionsAndWakes
end

section
/-!
PROOFS. Code lines and slot tables (R280, R282, R295, R296): what a fill, a reload and the switch of the slot tables do, and
O48 from them.
-/

namespace Sys2Proof.Proofs.CodeLines
open Sys2Proof Sys2Proof.Machine

/-- What the switch at `u` does to one thread: one that the new plan binds starts, unless it runs bound already (R296). -/
def startBound (u : State) (at_ : Nat) (x : State) (n : Nat) : State :=
  match bindingOf u.plan.now n with
  | some b => if (bindingOf (u.plan.of u.core.slotEpoch) n).isSome ∧ (getTh x n).running then x else threadStart x n at_ b
  | none => x

section Lines
variable {s : State} {k l ix : Nat} {p : PlanCopy} {d : Bytes} {m : ErrorMark}

/-- A missed line goes into the way to be replaced, and the thread's fetch goes on (R280). -/
theorem icacheFillDone_filled (hp : p = planOfTh s (getTh s k)) (hline : lineAwaited s k = some l) (hcode : codeLine p l = some d)
    (hmiss : fetchLine s k l = .miss) (hway : fillWay s (tidUnit k) l = some ix) : icacheFillDone s k = fetchGoesOn { s with core := { s.core with
      icache := tblSet s.core.icache ix { line := l, space := p.epoch % 2, used := s.now, data := d } } } k := by
  subst hp
  simp only [icacheFillDone, hline, hcode, hmiss, hway]

/-- A missed line whose ways are all locked is served to the thread alone, and the thread's fetch goes on (R280). -/
theorem icacheFillDone_served (hp : p = planOfTh s (getTh s k)) (hline : lineAwaited s k = some l) (hcode : codeLine p l = some d)
    (hmiss : fetchLine s k l = .miss) (hway : fillWay s (tidUnit k) l = none) :
    icacheFillDone s k = fetchGoesOn (modTh s k (fun t => { t with served := ((l, d) :: t.served).take 2 })) k := by
  subst hp
  simp only [icacheFillDone, hline, hcode, hmiss, hway]

/-- A bad line is reloaded in its place and recorded, and the thread's fetch goes on (R282). -/
theorem icacheReload_bad {x y : State} (hp : p = planOfTh s (getTh s k)) (hline : lineAwaited s k = some l) (hcode : codeLine p l = some d)
    (hbad : fetchLine s k l = .bad ix m) (hx : x = (icMarks s (tidUnit k) ix l).foldl (fun x m => clearMark x m.loc m.word) s)
    (hy : y = { x with core := { x.core with
      icache := tblMod { line := l, space := 0, data := d } x.core.icache ix (fun e => { e with data := d, used := x.now }) } }) :
    icacheReload s k = fetchGoesOn (coreCnt (record y 1 0x08 0x0002 (wordLoc m.loc m.word) [] m.injected) k 0x40 1) k := by
  subst hp hx hy
  simp only [icacheReload, hline, hcode, hbad]

/-- No line is filled for a thread whose fetch awaits none. -/
theorem icacheFillDone_idle (hline : lineAwaited s k = none) (hmissing : (getTh s k).missing = false) : icacheFillDone s k = s := by
  simp only [icacheFillDone, hline, hmissing, Bool.false_eq_true, if_false]

/-- No line is reloaded for a thread whose fetch awaits none. -/
theorem icacheReload_idle (hline : lineAwaited s k = none) : icacheReload s k = s := by
  simp only [icacheReload, hline]

/-- At the switch the slot tables are the new plan's, and the threads that it binds start one after another (R295, R296). -/
theorem slotTableSwitch_due {at_ : Nat} {u : State} (hat : s.core.slotSwitchAt = some at_) (hu : u = advanceTo s at_) :
    slotTableSwitch s = (List.range 3072).foldl (startBound u at_) { u with core := { u.core with slotEpoch := u.plan.epoch, slotSwitchAt := none } } := by
  subst hu
  simp only [slotTableSwitch, hat]
  rfl

/-- Without a due switch the slot tables stay. -/
theorem slotTableSwitch_none (hat : s.core.slotSwitchAt = none) : slotTableSwitch s = s := by
  simp only [slotTableSwitch, hat]

end Lines

/-- Settles O48: each event of the instruction caches and of the slot tables by the lemma of its case. -/
theorem codeLines : Obligations.CodeLines := by
  intro tid s l d k p
  refine ⟨?lines, fun hline hmissing => ⟨congrArg Host.Outcome.next (icacheFillDone_idle hline hmissing),
      congrArg Host.Outcome.next (icacheReload_idle hline)⟩,
    fun at_ hat => ⟨_, _, rfl, rfl, congrArg Host.Outcome.next (slotTableSwitch_due hat rfl)⟩,
    fun hat => congrArg Host.Outcome.next (slotTableSwitch_none hat)⟩
  case lines =>
    intro hline hcode
    exact ⟨fun hmiss => ⟨fun ix hway => congrArg Host.Outcome.next (icacheFillDone_filled rfl hline hcode hmiss hway),
        fun hway => congrArg Host.Outcome.next (icacheFillDone_served rfl hline hcode hmiss hway)⟩,
      fun ix m hbad => ⟨_, _, rfl, rfl, congrArg Host.Outcome.next (icacheReload_bad rfl hline hcode hbad rfl rfl)⟩⟩

end Sys2Proof.Proofs.CodeLines
end

section
/-!
PROOFS. Dispatchers and pairs (R301, R307, R310, R312, R510 to R513): what an entry into a queue, a fill, a return from
the spill, a comparator's decision and its wait limit do, and O27 from them.
-/

namespace Sys2Proof.Proofs.DispatchAndPairs
open Sys2Proof Sys2Proof.Machine Sys2Proof.Proofs.CoreState

section Events
variable {s u : State}

/-! ### Dispatchers -/

/-- The oldest packet handed on enters its queue as an item, 12 ticks after its delivery (R301). -/
theorem execDispatchEnqueue_cons {k : Packet} {r : List Packet} (hhanded : s.cls.handed = k :: r) : execDispatchEnqueue s =
    .next (enterItem (advanceTo { s with cls := { s.cls with handed := r } } (k.delivered + 12)) (itemOf k) false) := by
  simp only [execDispatchEnqueue, hhanded]

/-- The first spilled item of a queue with a freed position comes back on-die (R307). -/
theorem execUnspill_cons {cl : ClusterId} {pool : BitVec 16} {q : DispQueue} {it : Item} {r : List Item} (hup : dispDown s cl.val = false)
    (hfind : (getCl s cl.val).queues.find? (fun q => q.pool == pool.toNat && !q.spill.isEmpty && !atLimit s cl.val q) = some q)
    (hspill : q.spill = it :: r) : execUnspill cl pool s = .next (dispCnt (setQ s cl.val
      { q with items := placeItem q.items { it with spilled := true, entered := s.now }, spill := r }) cl.val 0x18 1) := by
  simp only [execUnspill, hfind, hspill, hup, Bool.false_eq_true, if_false]

section Fills
variable {cl : ClusterId} {n : Nat} {f : FillPlan} {it : Item}

/-- Without planted errors a queue's head and its links read whole (R312). -/
theorem queueTouch_unmarked (hmarks : s.fault.marks = []) : queueTouch s n it = (false, s) := by
  simp only [queueTouch, hmarks, List.filter_nil, List.foldl_nil]

/-- What a queue holds does not decide whether its dispatcher restarts. -/
@[simp] theorem dispDown_setQ {q : DispQueue} {m : Nat} : dispDown (setQ s n q) m = dispDown s m := rfl

/-- The kind of the coat that an item stands before; 0 when its chain has none there. -/
def coatKind (s : State) (it : Item) : Nat := (((chainCoats (s.plan.of it.epoch) it.chain).drop it.coat).head?.map (·.coat)).getD 0

/-- The shadow that a fill at state `s` gives an item, with the window bytes read for it (R301, Tables 10-6 and 10-7). -/
def fillShadow (s : State) (it : Item) (win : Bytes) : Shadow :=
  { item := it, win := win, md := slice it.md 0 56 ++ dispMd it (coatKind s it),
    work := workSlot it (poolWinStart (s.plan.of it.epoch) it.pool) (s.now % 2 ^ 32) }

/-- A fill of a thread with an item that is not paired: it counts, the thread holds the item's buffer and has its shadow
(R310). -/
def fillThread (s : State) (n tid : Nat) (sh : Shadow) : State :=
  modTh (modSlots (dispCnt s n 0x00 1) tid (fun l => l ++ [sh.item.handle])) tid
    (fun t => { t with shadow := some sh, setAt := tblSet t.setAt 0 s.now })

/-- A fill whose dispatcher goes on and whose window can be read fills its thread from the window (R310). -/
theorem execDispatchFill_unpaired {w : Option Nat × Bytes × State} (hup : dispDown s cl.val = false) (hnext : nextFill s cl.val = some f)
    (hmarks : s.fault.marks = []) (hu : u = advanceTo s (f.start + 8))
    (hw : w = windowOf (setQ u cl.val { f.queue with items := f.queue.items.erase f.item }) cl.val f.item
      (poolWinStart (u.plan.of f.item.epoch) f.item.pool))
    (hread : w.1 = none) (hpair : f.item.pair = none) (hup' : dispDown u cl.val = false) :
    execDispatchFill cl s = .next (fillThread w.2.2 cl.val f.tid (fillShadow u f.item w.2.1)) := by
  have hwhole : queueTouch u cl.val f.item = (false, u) := queueTouch_unmarked (by rw [hu, advanceTo_fault, hmarks])
  simp only [execDispatchFill, hup, hnext, ← hu, hwhole, ← hw, hread, hpair, dispDown_setQ, hup', Bool.false_eq_true, if_false]
  rfl

/-- A filled thread has its shadow. -/
theorem fillThread_shadow {tid : Nat} {sh : Shadow} : (getTh (fillThread s n tid sh) tid).shadow = some sh := by
  rw [fillThread, getTh_modTh]

/-- A filled thread holds the buffer of its item (R310). -/
theorem handle_mem_fillThread {tid : Nat} {sh : Shadow} : sh.item.handle ∈ threadSlots (fillThread s n tid sh) tid := by
  have hslots : threadSlots (fillThread s n tid sh) tid = threadSlots s tid ++ [sh.item.handle] :=
    tblGet_tblMod_same [] s.hod.slots tid (fun l => l ++ [sh.item.handle])
  simp [hslots]

end Fills

/-! ### Pairs -/

section Pairs
variable {pair : BitVec 9} {entry : Nat} {x : PairItem}

/-- The state in which a comparator with both LAST posts decides: the decision counts, and a planted flip of its digest is
used up. -/
def decisionCounted (s : State) (x : PairItem) : State :=
  faultCount { s with fault := { s.fault with digestFlips := s.fault.digestFlips.erase x.pair } } 0x58 1

section Decision
variable (hpair : x.pair = pair.toNat) (ha : x.a.last = true) (hb : x.b.last = true)
include hpair ha hb

/-- A pair's comparator can decide once it holds both LAST posts (R512). -/
theorem not_waiting_of_bothLast : ¬ (x.pair ≠ pair.toNat ∨ (!(x.a.last && x.b.last)) = true) := by simp [hpair, ha, hb]

variable (hfind : findPair s entry = some x) (hserver : (serverOf s x.pair).isSome = true)
include hfind hserver

/-- Sides that post different descriptors drop the packet, and the mismatch is counted and recorded (R512, R513). -/
theorem execPairDecision_differ (hdescs : x.a.descs ≠ x.b.descs) : execPairDecision pair entry s =
    .next (errorIn (faultCount (pairDrop (decisionCounted s x) x) 0x60 1) 2 0x0F 0x0005 (unitLoc 29 (x.pair % 32))
      (toLE 2 x.pair ++ toLE 6 entry) (s.fault.digestFlips.contains x.pair)) := by
  have hserved : (serverOf s x.pair).isNone = false := by rw [← Option.not_isSome, hserver, Bool.not_true]
  simp only [execPairDecision, hfind, if_neg (not_waiting_of_bothLast hpair ha hb), hserved, hdescs, false_and, Bool.false_eq_true, if_false, decisionCounted]

/-- Sides that agree write the packet's changed words, release the comparator's reference and post side A's descriptors
once (R512). -/
theorem execPairDecision_agree {v : State} (hdescs : x.a.descs = x.b.descs) (hdigest : pairDigest x.a = pairDigest x.b)
    (hflip : x.pair ∉ s.fault.digestFlips) (hu : u = decisionCounted s x)
    (hv : v = x.a.words.foldl (fun y w => hbmPut y 1 (65 + x.cluster) (bufAddr y x.handle + headroom (u.plan.of x.epoch) + w.1) w.2) u) :
    execPairDecision pair entry s = .next (x.a.descs.zipIdx.foldl (fun y di =>
      (postEntry y none (entry / 128) (entry % 128) x.handle di.1 (di.2 + 1 == x.a.descs.length)).2)
      (unitRelease { v with fault := { v.fault with pairItems := v.fault.pairItems.filter (fun y => y.entry ≠ entry) } } x.handle 29 (x.pair % 32))) := by
  have hserved : (serverOf s x.pair).isNone = false := by rw [← Option.not_isSome, hserver, Bool.not_true]
  rw [decisionCounted] at hu
  have hagree : x.a.descs = x.b.descs ∧ pairDigest x.a = pairDigest x.b ∧ s.fault.digestFlips.contains x.pair = false :=
    ⟨hdescs, hdigest, by simpa using hflip⟩
  simp only [execPairDecision, hfind, if_neg (not_waiting_of_bothLast hpair ha hb), hserved, if_pos hagree, ← hu, ← hv,
    Bool.false_eq_true, if_false]

end Decision

/-- A pair of which one LAST post has not come within PAIR_WAIT_US is dropped, counted and recorded (R513). -/
theorem execPairWaitTimeout_due {t : Nat} (hfind : findPair s entry = some x) (hpair : x.pair = pair.toNat) (hfirst : x.firstLast = some t)
    (hb : x.b.last = false) : execPairWaitTimeout pair entry s = .next (errorIn (faultCount (pairDrop
      (advanceTo s (t + usTicks (leAt (((s.plan.of x.epoch).sec 0x14).entry 0x14 x.pair) 12 4))) x) 0x68 1) 2 0x0F 0x0006 (unitLoc 29 (x.pair % 32))
      (toLE 2 x.pair ++ toLE 6 entry)) := by
  have hwaits : ¬ (x.pair ≠ pair.toNat ∨ (x.a.last && x.b.last) = true) := by simp [hpair, hb]
  simp only [execPairWaitTimeout, hfind, hfirst, if_neg hwaits]

end Pairs
end Events

/-- Settles O27: each event of the dispatchers and of the comparators by the lemma of its case. -/
theorem dispatchAndPairs : Obligations.DispatchAndPairs := by
  intro s
  refine ⟨fun k r hhanded => execDispatchEnqueue_cons hhanded, ?fill, fun cl pool q it r hup hfind hspill => execUnspill_cons hup hfind hspill,
    fun pair entry x hfind hpair ha hb hserver hdescs => ⟨_, rfl, execPairDecision_differ hpair ha hb hfind hserver hdescs⟩,
    fun pair entry x t hfind hpair hfirst hb => execPairWaitTimeout_due hfind hpair hfirst hb,
    fun pair entry x u v hfind hpair ha hb hserver hdescs hdigest hflip hu hv =>
      execPairDecision_agree hpair ha hb hfind hserver hdescs hdigest hflip hu hv⟩
  case fill =>
    intro cl f u w hup hnext hmarks hu hw hread hpair hup'
    exact ⟨_, _, _, execDispatchFill_unpaired hup hnext hmarks hu hw hread hpair hup', fillThread_shadow, rfl, rfl, rfl, handle_mem_fillThread⟩

end Sys2Proof.Proofs.DispatchAndPairs
end

section
/-!
PROOFS. Thread words (R302 to R306, R314, R320 to R325): what each word on work, waiting, timers, channels, signals and
shared registers does in each case of its rule, and O38 from them.
-/

namespace Sys2Proof.Proofs.ThreadWords
open Sys2Proof Sys2Proof.Machine Sys2Proof.Proofs.SkimIssue

section Words
variable {v u : State} {c : Ctx} {t : Thread} {o1 o2 : Nat} {h : Bool}

/-! ### Work (R302 to R306) -/

section Next
variable (hservice : ((getTh u c.tid).bind.map (·.service)).getD false = false)
include hservice

/-- NEXT swaps in the work that is there (R303). -/
theorem runSk_next_work (hwork : (evfAt u c.tid c.p).testBit 0 = true) (hkept : (nextSwap u c.tid c.p).1 = false) :
    runSk c (.thr 0 o1 o2 h) v u = ((nextSwap u c.tid c.p).2, .seq) := by
  simp only [runSk, semNext, hservice, hwork, hkept, Bool.false_eq_true, if_false, if_true]

/-- NEXT without work waits for it, or issues again where threads do not block (R303). -/
theorem runSk_next_wait (hnone : (evfAt u c.tid c.p).testBit 0 = false) :
    runSk c (.thr 0 o1 o2 h) v u = (u, if blocks u c.tid then .block .work else .again) := by
  simp only [runSk, semNext, hservice, hnone, Bool.false_eq_true, if_false]

end Next

/-- A PASS that has a next coat with room, of a packet whose window is as it was, gives up the thread's reference and puts the
item on its way (R306). -/
theorem runSk_pass_on {it : Item} {e : Nat × State} (ht : getTh v c.tid = t) (harea : areaBad o2 2 = none) (hitem : t.item = some it)
    (hheld : it.done = false) (hcoat : it.coat + 1 < (chainCoats (u.plan.of it.epoch) it.chain).length)
    (hroom : passBusy u (passedItem t it) = false) (hwords : changedWords t = [])
    (he : e = opEntry (modSlots u c.tid (fun l => l.erase it.handle)) c o2 2 (.pass (8 * o2) none) (some (c.p + 4)) true) :
    runSk c (.thr 3 o1 o2 h) v u = (modTh e.2 c.tid (fun x => { x with
      passing := tblSet x.passing e.1 (passedItem t it), item := some { it with done := true } }), .seq) := by
  subst ht
  have hgoes : ¬ (it.done = true ∨ (chainCoats (u.plan.of it.epoch) it.chain).length ≤ it.coat + 1) := by simp [hheld, hcoat]
  simp only [runSk, semPass, harea, hitem, if_neg hgoes, hroom, hwords, List.foldl_nil, ← he, Bool.false_eq_true, if_false]

/-! ### Waiting (R314, R325) -/

/-- WAIT goes on when one of its events is armed (R314). -/
theorem runSk_wait_armed (harmed : armedAt u c.tid c.p ≠ 0) : runSk c (.thr 1 o1 o2 h) v u = (u, .seq) := by
  simp only [runSk, semWait, if_pos harmed]

/-- WAIT waits while none of its events is armed (R314). -/
theorem runSk_wait_unarmed (hnone : armedAt u c.tid c.p = 0) :
    runSk c (.thr 1 o1 o2 h) v u = (u, if blocks u c.tid then .block .event else .again) := by
  simp only [runSk, semWait, hnone, ne_eq, not_true, if_false]

/-- A thread's SLEEP as an entry of its cluster's delay list. -/
def sleepTimer (tid : Nat) (t : Thread) : TimerEnt := { tid := tid, tag := 0, deadline := t.a.toNat % 2 ^ 32, sleep := true }

/-- A delay list with room takes an entry (R325). -/
theorem addTimer_room {e : TimerEnt} (hroom : (getCl u (tidCluster e.tid)).timers.length < 512) : (addTimer u e).1 = true := by
  have hfree : ¬ listCapacity ≤ (getCl u (tidCluster e.tid)).timers.length := Nat.not_le.mpr hroom
  simp only [addTimer, if_neg hfree]

/-- A full delay list takes no entry (R325). -/
theorem addTimer_full {e : TimerEnt} (hfull : 512 ≤ (getCl u (tidCluster e.tid)).timers.length) : addTimer u e = (false, u) := by
  have hnone : listCapacity ≤ (getCl u (tidCluster e.tid)).timers.length := hfull
  simp only [addTimer, if_pos hnone]

section Sleep
variable (ht : getTh v c.tid = t) (hawake : (getTh u c.tid).sleeping = false)
include ht hawake

/-- SLEEP on a list with room waits in it, or issues again where threads do not block (R325). -/
theorem runSk_sleep_room {u1 : State} (hadd : addTimer u (sleepTimer c.tid t) = (true, u1)) : runSk c (.thr 2 o1 o2 h) v u =
    if blocks u c.tid then (u1, .block .sleep) else (modTh u1 c.tid (fun x => { x with sleeping := true }), .again) := by
  subst ht
  rw [sleepTimer] at hadd
  simp only [runSk, semSleep, hawake, hadd, Bool.false_eq_true, if_false]

/-- SLEEP on a full list only counts and sets F.E (R325). -/
theorem runSk_sleep_full (hadd : addTimer u (sleepTimer c.tid t) = (false, u)) : runSk c (.thr 2 o1 o2 h) v u =
    (pendTh (dispCnt u (tidCluster c.tid) 0x58 1) c.tid (c.p + 4) (.ebit true), .seq) := by
  subst ht
  rw [sleepTimer] at hadd
  simp only [runSk, semSleep, hawake, hadd, Bool.false_eq_true, if_false, res]

end Sleep

/-! ### Timers (R325) -/

/-- TMRSET has its deadline counted from its issue. -/
theorem runSk_tmrset (ht : getTh v c.tid = t) (harea : areaBad o2 2 = none) : runSk c (.thr 7 o1 o2 h) v u = ((opEntry u c o2 2
    (.tmrset (8 * o2) (t.a.toNat % 2 ^ 32 + listTick u (tidCluster c.tid)) (t.x.toNat % 65536)) (some (c.p + 8)) true).2, .seq) := by
  subst ht
  simp only [runSk, semTmrset, harea]

/-- TMRCAN names its timer by X. -/
theorem runSk_tmrcan (ht : getTh v c.tid = t) (harea : areaBad o2 2 = none) : runSk c (.thr 8 o1 o2 h) v u =
    ((opEntry u c o2 2 (.tmrcan (8 * o2) (t.x.toNat % 65536)) (some (c.p + 8)) true).2, .seq) := by
  subst ht
  simp only [runSk, semTmrcan, harea]

/-- TMRPOP takes the earliest due entry, whose tag is on its way to A. -/
theorem runSk_tmrpop_due {e : TimerEnt} (hdue : firstDue u c.tid c.p = some e) : runSk c (.thr 9 o1 o2 h) v u =
    (pendTh (pendTh (modCl u (tidCluster c.tid) (fun k => { k with timers := k.timers.erase e })) c.tid (c.p + 5)
      (.reg .a (BitVec.ofNat 64 e.tag))) c.tid (c.p + 5) (.ebit false), .seq) := by
  simp only [runSk, semTmrpop, hdue, res]

/-- TMRPOP with nothing due sets F.E. -/
theorem runSk_tmrpop_none (hnone : firstDue u c.tid c.p = none) :
    runSk c (.thr 9 o1 o2 h) v u = (pendTh u c.tid (c.p + 5) (.ebit true), .seq) := by
  simp only [runSk, semTmrpop, hnone, res]

/-! ### Channels and signals (R320 to R322) -/

/-- CHSEND has an entry with its message, decided later (R320). -/
theorem runSk_chsend (ht : getTh v c.tid = t) (harea : areaBad o2 2 = none) : runSk c (.thr 4 o1 o2 h) v u = ((opEntry u c o2 2
    (.chsend (8 * o2) (t.x.toNat % 65536) (o1 % 8) t.a (if h then some (t.y.toNat % 2 ^ 32) else none)) none false).2, .seq) := by
  subst ht
  simp only [runSk, semChsend, harea]

/-- SIGNAL has an entry, decided later (R322). -/
theorem runSk_signal (ht : getTh v c.tid = t) (harea : areaBad o2 2 = none) : runSk c (.thr 6 o1 o2 h) v u =
    ((opEntry u c o2 2 (.signal (8 * o2) (t.x.toNat % 65536) (o1 % 8)) none false).2, .seq) := by
  subst ht
  simp only [runSk, semSignal, harea]

/-- CHRECV takes the head message of a channel that has one (R321). -/
theorem runSk_chrecv_message (hmsg : (evfAt u c.tid c.p).testBit (5 + o1 % 8) = true) :
    runSk c (.thr 5 o1 o2 h) v u = (takeMessage u c.tid (o1 % 8) (c.p + 5), .seq) := by
  simp only [runSk, semChrecv, hmsg, if_true]

/-- CHRECV on an empty channel waits for its message, or sets F.E where threads do not block (R321). -/
theorem runSk_chrecv_empty (hnone : (evfAt u c.tid c.p).testBit (5 + o1 % 8) = false) : runSk c (.thr 5 o1 o2 h) v u =
    if blocks u c.tid then (u, .block (.channel (o1 % 8))) else (pendTh u c.tid (c.p + 5) (.ebit true), .seq) := by
  simp only [runSk, semChrecv, hnone, Bool.false_eq_true, if_false, res]

/-! ### Shared registers (R323, R324) -/

section Shared
variable {r n : Nat}

/-- Whether a thread's domain meets the domain of a shared register of a cluster. -/
def meetsShared (u : State) (t : Thread) (k n : Nat) : Bool := domainsMeet (threadDomain t) (shregDomain (planOfTh u t) k n)

section Meets
variable (ht : getTh v c.tid = t) (hmeet : meetsShared u t (tidCluster c.tid) n = true)
include ht hmeet

/-- SRLD has the register's value on its way to its own register. -/
theorem runSk_srld : runSk c (.sr 0 r n) v u =
    (pendTh u c.tid (c.p + 5) (.reg (regA r) (tblGet 0 (getCl v (tidCluster c.tid)).shreg n)), .seq) := by
  subst ht
  rw [meetsShared] at hmeet
  simp only [runSk, semSr, hmeet, Bool.true_eq_false, if_false, res]

/-- SRST is on its way to the cluster with its value. -/
theorem runSk_srst : runSk c (.sr 1 r n) v u = (clusterOp u c.tid (c.p + 5) (.srst n (getReg t (regA r))), .seq) := by
  subst ht
  rw [meetsShared] at hmeet
  simp only [runSk, semSr, hmeet, Bool.true_eq_false, if_false]

/-- SRADD is on its way to the cluster with its addend. -/
theorem runSk_sradd : runSk c (.sr 2 r n) v u = (clusterOp u c.tid (c.p + 5) (.sradd n (getReg t (regA r)) (regA r)), .seq) := by
  subst ht
  rw [meetsShared] at hmeet
  simp only [runSk, semSr, hmeet, Bool.true_eq_false, if_false]

/-- SRSWAP is on its way to the cluster with its value. -/
theorem runSk_srswap : runSk c (.sr 3 r n) v u = (clusterOp u c.tid (c.p + 5) (.srswap n (getReg t (regA r)) (regA r)), .seq) := by
  subst ht
  rw [meetsShared] at hmeet
  simp only [runSk, semSr, hmeet, Bool.true_eq_false, if_false]

end Meets

/-- A word on a register of another domain only raises RIGHTS, with a free value for its EADDR. -/
theorem runSk_sr_rights {sub : Nat} (ht : getTh v c.tid = t) (hapart : meetsShared u t (tidCluster c.tid) n = false) :
    runSk c (.sr sub r n) v u = ((drawFree u).2, .exc { cause := 2, eaddr := (drawFree u).1.toNat }) := by
  subst ht
  rw [meetsShared] at hapart
  simp only [runSk, semSr, hapart, if_true]

end Shared
end Words

/-- Settles O38: a due word is issued by `next_due`, and what it does is the lemma of its word. -/
theorem threadWords : Obligations.ThreadWords := by
  refine ⟨?threads, ?shared⟩
  case threads =>
    intro tid s v u c o1 o2 h t
    have ht : ∀ {row x}, SkimDue s tid row x c v u → getTh v c.tid = t := fun hdue => by rw [due_tid hdue]
    refine ⟨?next, ?wait, ?sleep, ?full, ?pass, fun hdue harea => next_due hdue (runSk_chsend (ht hdue) harea), ?chrecv,
      fun hdue harea => next_due hdue (runSk_signal (ht hdue) harea), fun hdue harea => next_due hdue (runSk_tmrset (ht hdue) harea),
      fun hdue harea => next_due hdue (runSk_tmrcan (ht hdue) harea), ?tmrpop⟩
    case next =>
      intro hdue hservice
      rw [← due_tid hdue] at hservice
      exact ⟨fun hwork hkept => next_due hdue (runSk_next_work hservice hwork hkept), fun hnone => next_due hdue (runSk_next_wait hservice hnone)⟩
    case wait =>
      exact fun hdue => ⟨fun harmed => next_due hdue (runSk_wait_armed harmed), fun hnone => next_due hdue (runSk_wait_unarmed hnone)⟩
    case sleep =>
      intro hdue hawake hroom
      rw [← due_tid hdue] at hawake
      have hadd : addTimer u (sleepTimer c.tid t) = (true, (addTimer u (sleepTimer c.tid t)).2) := Prod.ext (addTimer_room hroom) rfl
      exact ⟨_, hadd, fun hblocks => next_due hdue ((runSk_sleep_room (ht hdue) hawake hadd).trans (if_pos hblocks)),
        fun hblocks => next_due hdue ((runSk_sleep_room (ht hdue) hawake hadd).trans (if_neg (Bool.eq_false_iff.mp hblocks)))⟩
    case full =>
      intro hdue hawake hfull
      rw [← due_tid hdue] at hawake
      exact next_due hdue (runSk_sleep_full (ht hdue) hawake (addTimer_full hfull))
    case pass =>
      exact fun it hdue harea hitem hheld hcoat hroom hwords =>
        ⟨_, rfl, next_due hdue (runSk_pass_on (ht hdue) harea hitem hheld hcoat hroom hwords rfl)⟩
    case chrecv =>
      exact fun hdue => ⟨fun hmsg => next_due hdue (runSk_chrecv_message hmsg),
        fun hnone hblocks => next_due hdue ((runSk_chrecv_empty hnone).trans (if_pos hblocks)),
        fun hnone hblocks => next_due hdue ((runSk_chrecv_empty hnone).trans (if_neg (Bool.eq_false_iff.mp hblocks)))⟩
    case tmrpop =>
      exact fun hdue => ⟨fun e hpop => next_due hdue (runSk_tmrpop_due hpop), fun hnone => next_due hdue (runSk_tmrpop_none hnone)⟩
  case shared =>
    intro tid s v u c r n t k meets
    have ht : ∀ {row x}, SkimDue s tid row x c v u → getTh v c.tid = t := fun hdue => by rw [due_tid hdue]
    exact ⟨fun hdue hmeet => next_due hdue (runSk_srld (ht hdue) hmeet), fun hdue hmeet => next_due hdue (runSk_srst (ht hdue) hmeet),
      fun hdue hmeet => next_due hdue (runSk_sradd (ht hdue) hmeet), fun hdue hmeet => next_due hdue (runSk_srswap (ht hdue) hmeet),
      fun hdue hapart => ⟨_, rfl, next_due hdue (runSk_sr_rights (ht hdue) hapart)⟩⟩

end Sys2Proof.Proofs.ThreadWords
end

section
/-!
PROOFS. Exceptions and events (R268, R315, R317, R318): what a handler starts with, when an exception restarts its thread,
when an event takes a thread's position, and O46 from them.
-/

namespace Sys2Proof.Proofs.ExceptionEntry
open Sys2Proof Sys2Proof.Machine Sys2Proof.Proofs.CoreState

section Entry
variable {s s1 : State} {v t : Thread} {k p addr len : Nat} {trap : Bool} {e : Exc} {b : Binding}

/-! ### Exceptions (R268, R317, R318) -/

/-- The state with an exception counted: ADDRESS and RIGHTS have counters. -/
def exceptionCounted (s : State) (k : Nat) (e : Exc) : State :=
  if e.cause = 1 then coreCnt s k 0x48 1 else if e.cause = 2 then coreCnt s k 0x50 1 else s

/-- Counting an exception leaves the threads alone. -/
@[simp] theorem getTh_exceptionCounted {i : Nat} : getTh (exceptionCounted s k e) i = getTh s i := by
  unfold exceptionCounted
  split
  · rfl
  · split <;> rfl

/-- An exception of another cause than ADDRESS and RIGHTS has no counter. -/
theorem exceptionCounted_other (haddress : e.cause ≠ 1) (hrights : e.cause ≠ 2) : exceptionCounted s k e = s := by
  rw [exceptionCounted, if_neg haddress, if_neg hrights]

/-- The address that an exception reports: ADDRESS and RIGHTS have one (Table 10-4). -/
def reported (e : Exc) : Option Nat := if e.cause = 1 ∨ e.cause = 2 then some e.eaddr else none

/-- A thread as its handler starts with it: `v` is the thread as the word read it. -/
def handlerThread (t v : Thread) (cause : Nat) (eaddr : Option Nat) (place : Nat × Nat) (pc nextAt : Nat) : Thread :=
  { t with
    epc := place.1 % 2 ^ 24, ef := fWord v, elc := t.lc, ecause := cause, einfo := place.2, eaddr := eaddr.getD t.eaddr
    ex := true, ie := false, pc := pc, flow := .plain, rprog := none, block := none, resume := 0, resv := none, nextAt := nextAt }

/-- Entering a handler leaves the thread as its handler starts with it. -/
theorem getTh_enterHandler {cause pc nextAt : Nat} {eaddr : Option Nat} {place : Nat × Nat} :
    getTh (enterHandler s v k cause eaddr place pc nextAt) k = handlerThread (getTh s k) v cause eaddr place pc nextAt := getTh_modTh ..

/-- Where a thread's exceptions are handled; 0xFFFFFFFF where none are. -/
def excPcOf (t : Thread) : Nat := (t.bind.map (·.excPc)).getD 0xFFFFFFFF

/-- An exception restarts a thread that is in a handler or has none, and enters the handler of any other (R317, R318). -/
theorem deliverExc_eq (ht : getTh s k = t) : deliverExc s v k p addr len trap e =
    if t.ex = true ∨ excPcOf t = 0xFFFFFFFF then exceptionRestart (exceptionCounted s k e) k e.cause e.eaddr p
    else enterHandler (exceptionCounted s k e) v k e.cause (reported e) (savedPlace t addr len trap) (excPcOf t) (p + 5) := by
  have hcounted : getTh (exceptionCounted s k e) k = t := getTh_exceptionCounted.trans ht
  rw [← hcounted]
  rfl

/-- Outside a handler, with an EXC_PC, an exception starts the handler there five ticks later (R317). -/
theorem getTh_deliverExc (ht : getTh s k = t) (hbind : t.bind = some b) (hex : t.ex = false) (hpc : b.excPc ≠ 0xFFFFFFFF) :
    getTh (deliverExc s v k p addr len trap e) k =
      handlerThread t v e.cause (reported e) (savedPlace t addr len trap) b.excPc (p + 5) := by
  have hpcOf : excPcOf t = b.excPc := by rw [excPcOf, hbind, Option.map_some, Option.getD_some]
  have henter : ¬ (t.ex = true ∨ b.excPc = 0xFFFFFFFF) := by simp [hex, hpc]
  rw [deliverExc_eq ht, hpcOf, if_neg henter, getTh_enterHandler, getTh_exceptionCounted, ht]

/-- In a handler an exception restarts its thread (R318). -/
theorem deliverExc_in_handler (hex : (getTh s k).ex = true) (haddress : e.cause ≠ 1) (hrights : e.cause ≠ 2) :
    deliverExc s v k p addr len trap e = exceptionRestart s k e.cause e.eaddr p := by
  rw [deliverExc_eq rfl, if_pos (Or.inl hex), exceptionCounted_other haddress hrights]

/-- In program order the place of an exception is its word, and that of TRAP the next one (R317). -/
theorem savedPlace_plain (hflow : t.flow = .plain) : (savedPlace t addr len trap).1 = if trap then addr + len else addr := by
  cases trap <;> simp [savedPlace, hflow]

/-! ### Events (R315) -/

/-- The place that an event's delivery at a thread's PC saves. -/
def eventPlace (s : State) (k : Nat) (t : Thread) : Nat × Nat := savedPlace t t.pc (if t.mode then renderLenAt s k t.pc else 4) false

/-- An event starts the handler at EVENT_PC three ticks later, with cause 6 and no address. -/
theorem getTh_takeEvent (ht : getTh s k = t) (hbind : t.bind = some b) : getTh (takeEvent s k p) k =
    handlerThread t (getTh (stage3 s k p) k) 6 none (eventPlace s k t) b.eventPc (p + 3) := by
  subst ht
  simp only [takeEvent, getTh_enterHandler, hbind, Option.map_some, Option.getD_some, eventPlace]

section Delivery
variable (hslot : slotFor s k = some (p, s1)) (hblock : (getTh s1 k).block = none)
include hslot hblock

/-- An armed event takes the position of a thread that is at the start of a word. -/
theorem eventDelivery_taken (hrprog : (getTh s1 k).rprog = none) (htakes : eventTakes s1 k p = true) : eventDelivery s k = takeEvent s1 k p := by
  simp only [eventDelivery, hslot, hblock, hrprog, htakes, Option.isNone_none, Bool.and_self, if_true]

/-- Without an armed event no position is taken. -/
theorem eventDelivery_unarmed (hnone : eventTakes s1 k p = false) : eventDelivery s k = s := by
  simp only [eventDelivery, hslot, hblock, hnone, Bool.and_false, Bool.false_eq_true, if_false]

end Delivery
end Entry

/-- Settles O46: what a handler starts with are the fields of `handlerThread`. -/
theorem exceptionEntry : Obligations.ExceptionEntry := by
  intro s v k p addr len trap e b t
  refine ⟨?handler, fun hex haddress hrights => deliverExc_in_handler hex haddress hrights, ?event, ?taken, ?unarmed⟩
  case handler =>
    intro hbind hex hpc u
    have hu : u = handlerThread t v e.cause (reported e) (savedPlace t addr len trap) b.excPc (p + 5) := getTh_deliverExc rfl hbind hex hpc
    rw [hu]
    refine ⟨rfl, rfl, rfl, rfl, rfl, rfl, rfl, rfl, rfl, ?reports, ?keeps, ?word, ?behind, rfl, rfl, rfl, rfl, rfl, rfl, rfl, rfl⟩
    case reports => exact fun hcause => by rw [handlerThread, reported, if_pos hcause, Option.getD_some]
    case keeps => exact fun hcause => by rw [handlerThread, reported, if_neg hcause, Option.getD_none]
    case word =>
      rintro hflow rfl
      exact congrArg (· % 2 ^ 24) (savedPlace_plain hflow)
    case behind =>
      rintro hflow rfl
      exact congrArg (· % 2 ^ 24) (savedPlace_plain hflow)
  case event =>
    intro hbind u
    have hu : u = handlerThread t (getTh (stage3 s k p) k) 6 none (eventPlace s k t) b.eventPc (p + 3) := getTh_takeEvent rfl hbind
    rw [hu]
    exact ⟨rfl, rfl, rfl, rfl, rfl, rfl, rfl⟩
  case taken =>
    rintro tid s1 rfl hslot hblock hrprog htakes
    exact congrArg Host.Outcome.next (eventDelivery_taken hslot hblock hrprog htakes)
  case unarmed =>
    rintro tid s1 rfl hslot hblock hnone
    exact congrArg Host.Outcome.next (eventDelivery_unarmed hslot hblock hnone)

end Sys2Proof.Proofs.ExceptionEntry
end

section
/-!
PROOFS. The ALU's flags (Table 11-7, R336): Z and N of every result, carry and signed overflow of sums and differences from
the numbers that their operands stand for, the last bit shifted out of a shift, and O34 from them.
-/

namespace Sys2Proof.Proofs.AluFlags
open Sys2Proof Sys2Proof.Machine

section Functions
variable {a b q : BitVec 64} {k : Bool} {f : Fl}

/-! ### Z and N -/

/-- Whatever sets flags sets Z and N by its result. -/
theorem aluRun_eq_flOf {fn : Nat} (hrun : aluRun fn a b k = (some q, some f)) : ∃ carry overflow, f = flOf q carry overflow := by
  unfold aluRun at hrun
  split at hrun <;> cases hrun <;> exact ⟨_, _, rfl⟩

/-- Z is set for the result 0. -/
theorem flOf_z_iff {carry overflow : Bool} : (flOf q carry overflow).z = true ↔ q = 0 := beq_iff_eq

/-- The sign bit is set in a word below 0. -/
theorem msb_iff_neg (x : BitVec 64) : x.msb = true ↔ x.toInt < 0 := by
  rw [BitVec.msb_eq_toInt, decide_eq_true_iff]

/-- Words have the same sign bit when both or neither are below 0. -/
theorem msb_eq_iff (x y : BitVec 64) : x.msb = y.msb ↔ (x.toInt < 0 ↔ y.toInt < 0) := by
  rw [Bool.eq_iff_iff, msb_iff_neg, msb_iff_neg]

/-- N is set for a result below 0. -/
theorem flOf_n_iff {carry overflow : Bool} : (flOf q carry overflow).n = true ↔ q.toInt < 0 := msb_iff_neg q

/-! ### Sums -/

/-- A sum is that of the operands and the carry in, modulo 2^64. -/
theorem addFl_toNat : (addFl a b k).1.toNat = (a.toNat + b.toNat + k.toNat) % 2 ^ 64 := by
  cases k <;> simp [addFl]

/-- The signed value of a sum is that of the signed operands, wrapped to 64 bits. -/
theorem addFl_toInt : (addFl a b k).1.toInt = (a.toInt + b.toInt + k.toNat).bmod (2 ^ 64) := by
  cases k <;> simp [addFl, BitVec.toInt_add]

/-- C of a sum is its carry out of bit 63. -/
theorem addFl_c_iff : (addFl a b k).2.c = true ↔ 2 ^ 64 ≤ a.toNat + b.toNat + k.toNat := by
  cases k <;> exact decide_eq_true_iff

/-- V of a sum is its signed overflow: two operands of one sign have a sum of the other. -/
theorem addFl_v_iff : (addFl a b k).2.v = true ↔ a.toInt + b.toInt + k.toNat < -2 ^ 63 ∨ 2 ^ 63 ≤ a.toInt + b.toInt + k.toNat := by
  have hv : (addFl a b k).2.v = (a.msb == b.msb && (addFl a b k).1.msb != a.msb) := rfl
  have hsum := addFl_toInt (a := a) (b := b) (k := k)
  have hk := k.toNat_le
  have ha := And.intro a.le_toInt a.toInt_lt
  have hb := And.intro b.le_toInt b.toInt_lt
  rw [Int.bmod_def] at hsum
  simp only [hv, Bool.and_eq_true, beq_iff_eq, bne_iff_ne, ne_eq, msb_eq_iff]
  omega

/-! ### Differences -/

/-- A difference is that of the operands less the borrow, modulo 2^64. -/
theorem subFl_toNat : ((subFl a b k).1.toNat : Int) = ((a.toNat : Int) - b.toNat - k.toNat) % 2 ^ 64 := by
  cases k <;> simp [subFl, BitVec.toNat_sub] <;> omega

/-- The signed value of a difference is that of the signed operands, wrapped to 64 bits. -/
theorem subFl_toInt : (subFl a b k).1.toInt = (a.toInt - b.toInt - k.toNat).bmod (2 ^ 64) := by
  cases k <;> simp [subFl, BitVec.toInt_sub]

/-- C of a difference is that no borrow occurs. -/
theorem subFl_c_iff : (subFl a b k).2.c = true ↔ b.toNat + k.toNat ≤ a.toNat := by
  cases k <;> exact decide_eq_true_iff

/-- V of a difference is its signed overflow: operands of two signs have a difference of the second's. -/
theorem subFl_v_iff : (subFl a b k).2.v = true ↔ a.toInt - b.toInt - k.toNat < -2 ^ 63 ∨ 2 ^ 63 ≤ a.toInt - b.toInt - k.toNat := by
  have hv : (subFl a b k).2.v = (a.msb != b.msb && (subFl a b k).1.msb != a.msb) := rfl
  have hdiff := subFl_toInt (a := a) (b := b) (k := k)
  have hk := k.toNat_le
  have ha := And.intro a.le_toInt a.toInt_lt
  have hb := And.intro b.le_toInt b.toInt_lt
  rw [Int.bmod_def] at hdiff
  simp only [hv, Bool.and_eq_true, bne_iff_ne, ne_eq, msb_eq_iff]
  omega

/-! ### Logic and shifts -/

/-- The logic functions (AND, OR, XOR and ANDN) clear C and V. -/
theorem aluRun_logic {fn : Nat} (hlow : 4 ≤ fn) (hhigh : fn ≤ 7) : ∃ r, aluRun fn a b k = (some r, some (flOf r false false)) := by
  obtain rfl | rfl | rfl | rfl : fn = 4 ∨ fn = 5 ∨ fn = 6 ∨ fn = 7 := by omega
  all_goals exact ⟨_, rfl⟩

/-- A shift left by 0 is its operand, with C clear. -/
theorem shlFl_zero : shlFl a 0 = (a, flOf a false false) := by simp [shlFl]

/-- A shift right by 0 is its operand, with C clear. -/
theorem shrFl_zero {arith : Bool} : shrFl a 0 arith = (a, flOf a false false) := by simp [shrFl]

/-- A shift by 0 modulo 64 leaves its operand as it is and clears C. -/
theorem aluRun_shift_zero {fn : Nat} (hzero : b.toNat % 64 = 0) (hlow : 11 ≤ fn) (hhigh : fn ≤ 13) :
    aluRun fn a b k = (some a, some (flOf a false false)) := by
  obtain rfl | rfl | rfl : fn = 11 ∨ fn = 12 ∨ fn = 13 := by omega
  · simp only [aluRun, hzero, shlFl_zero]
  all_goals simp only [aluRun, hzero, shrFl_zero]

/-- C of a shift left is the last bit shifted out, at the upper end. -/
theorem shlFl_c {n : Nat} (hn : 0 < n) : (shlFl a n).2.c = a.getLsbD (64 - n) := by
  simp [shlFl, flOf, hn.ne']

/-- C of a shift right is the last bit shifted out, at the lower end. -/
theorem shrFl_c {n : Nat} {arith : Bool} (hn : 0 < n) : (shrFl a n arith).2.c = a.getLsbD (n - 1) := by
  simp [shrFl, flOf, hn.ne']

end Functions

/-- Settles O34: every flag is the lemma of its function's result. -/
theorem aluFlags : Obligations.AluFlags := by
  intro a b c
  have hborrow : (1 - c.toNat : Nat) = (!c).toNat := by cases c <;> rfl
  rw [hborrow]
  refine ⟨?signs, ?add, ?adc, ?sub, ?sbc, ?logic, ?unshifted, ?shifted, rfl, rfl, ⟨_, rfl⟩⟩
  case signs =>
    intro fn q f hrun
    obtain ⟨carry, overflow, rfl⟩ := aluRun_eq_flOf hrun
    exact ⟨flOf_z_iff, flOf_n_iff⟩
  case add =>
    have hsum : (addFl a b false).1 = a + b := BitVec.add_zero _
    exact ⟨_, congrArg (fun r => (some r, some (addFl a b false).2)) hsum, addFl_c_iff, by simpa using addFl_v_iff (k := false)⟩
  case adc => exact ⟨_, _, rfl, addFl_toNat, addFl_c_iff, addFl_v_iff⟩
  case sub =>
    have hdiff : (subFl a b false).1 = a - b := BitVec.sub_zero _
    exact ⟨_, congrArg (fun r => (some r, some (subFl a b false).2)) hdiff, rfl, subFl_c_iff, by simpa using subFl_v_iff (k := false)⟩
  case sbc => exact ⟨_, _, rfl, subFl_c_iff, subFl_toNat, subFl_v_iff⟩
  case logic =>
    intro fn hlow hhigh
    obtain ⟨r, hrun⟩ := aluRun_logic hlow hhigh
    exact ⟨_, _, hrun, rfl, rfl⟩
  case unshifted => exact fun hzero fn hlow hhigh => ⟨_, aluRun_shift_zero hzero hlow hhigh, rfl⟩
  case shifted => exact fun hn => ⟨⟨_, rfl, shlFl_c hn⟩, ⟨_, rfl, shrFl_c hn⟩, ⟨_, rfl, shrFl_c hn⟩⟩

end Sys2Proof.Proofs.AluFlags
end

section
/-!
PROOFS. Which row a Skim word issues under, what an issue does besides the word's own effect, and where a word that is done
leaves its thread (R268, R274, R331, R335, R340, R341, R344), and O33 from them.
-/

namespace Sys2Proof.Proofs.IssueRules
open Sys2Proof Sys2Proof.Machine Sys2Proof.Proofs.CoreState

/-! ### The row of a word -/

section Rows
variable {w : Nat} {x : SkWord} {r : Row}

/-- A word of one operation that decodes has the row of its operation code (R335): where a function selects the row, decoding
has checked that it names one. -/
theorem opcRow_of_decodeSingle (hpaired : w.testBit 31 = false) (hdecode : decodeSingle w = some x) (hrow : wordRow x = some r) :
    opcRow w = r := by
  unfold decodeSingle at hdecode
  split at hdecode
  all_goals rename_i hopc
  all_goals simp only [Option.ite_none_right_eq_some, Bool.and_eq_true, decide_eq_true_eq, Option.some.injEq] at hdecode
  -- BR, LOOKUP, LEARN and EPOST decode whatever their fields hold.
  case h_9 | h_21 | h_22 | h_24 =>
    subst hdecode
    cases hrow
    simp only [opcRow, hpaired, hopc, Bool.false_eq_true, if_false]
  -- TCMD has no row of its own.
  case h_25 =>
    subst hdecode
    cases hrow
  -- THR: ten functions.
  case h_19 =>
    obtain ⟨⟨hsub, -⟩, rfl⟩ := hdecode
    cases hrow
    simp only [opcRow, hpaired, hopc, hsub, Bool.false_eq_true, if_false, if_true]
  -- SR and LOCK: four functions.
  case h_20 | h_26 =>
    obtain ⟨hfields, rfl⟩ := hdecode
    have hsub : bits w 24 21 ≤ 3 := by simp only [and_assoc] at hfields; exact hfields.1
    obtain hfn | hfn | hfn | hfn : bits w 24 21 = 0 ∨ bits w 24 21 = 1 ∨ bits w 24 21 = 2 ∨ bits w 24 21 = 3 := by omega
    all_goals
      rw [hfn] at hrow
      cases hrow
      simp [opcRow, hpaired, hopc, hfn]
  -- BUF: three functions.
  case h_23 =>
    obtain ⟨⟨hsub, -⟩, rfl⟩ := hdecode
    obtain hfn | hfn | hfn : bits w 24 21 = 0 ∨ bits w 24 21 = 1 ∨ bits w 24 21 = 2 := by omega
    all_goals
      rw [hfn] at hrow
      cases hrow
      simp [opcRow, hpaired, hopc, hfn]
  -- COP: FUNC is one of its unit's.
  case h_27 =>
    split at hdecode
    · obtain ⟨-, hx⟩ := Option.ite_none_right_eq_some.mp hdecode
      cases hx
      cases hrow
      simp only [opcRow, hpaired, hopc, Bool.false_eq_true, if_false]
    · cases hdecode
  -- CSTATE: two directions.
  case h_29 =>
    obtain ⟨-, rfl⟩ := hdecode
    cases hdir : w.testBit 23
    all_goals
      rw [hdir] at hrow
      cases hrow
      simp [opcRow, hpaired, hopc, hdir]
  -- No word has another operation code.
  case h_30 => cases hdecode
  -- The operation code is the row.
  all_goals
    obtain ⟨-, rfl⟩ := hdecode
    cases hrow
    simp only [opcRow, hpaired, hopc, Bool.false_eq_true, if_false]

/-- A word that decodes, a table command apart, has the row of what it decodes to. -/
theorem opcRow_of_decodeSkim (hdecode : decodeSkim w = some x) (hrow : wordRow x = some r) : opcRow w = r := by
  rw [decodeSkim] at hdecode
  split at hdecode
  case isTrue hpaired =>
    have hx : ∃ a b, x = .paired a b := by
      split at hdecode
      · cases hdecode
      split at hdecode
      · split at hdecode
        · cases hdecode
        · cases hdecode
          exact ⟨_, _, rfl⟩
      · cases hdecode
    obtain ⟨a, b, rfl⟩ := hx
    cases hrow
    simp only [opcRow, hpaired, if_true]
  case isFalse hpaired => exact opcRow_of_decodeSingle (Bool.eq_false_of_not_eq_true hpaired) hdecode hrow

/-- Only a table command's row depends on its record. -/
theorem skRow_of_decodeSkim {v : State} {k : Nat} (hdecode : decodeSkim w = some x) (hrow : wordRow x = some r) : skRow v k w = r := by
  have hopc := opcRow_of_decodeSkim hdecode hrow
  rw [skRow, hdecode]
  cases x
  case tcmd => cases hrow
  all_goals exact hopc

end Rows

/-! ### What an issue does -/

section Issue
variable {s s1 : State} {k p w : Nat}

/-- A thread that does not run issues nothing. -/
theorem issue_stopped (hstop : (getTh s k).running = false) (row : Row) : issue s k row = s := by
  have hslot : slotFor s k = none := by simp only [slotFor, hstop, true_or, if_true]
  simp only [issue, hslot]

section Due
variable (hslot : slotFor s k = some (p, s1)) (hblock : (getTh s1 k).block = none)
  (hevent : ((getTh s1 k).rprog.isNone && eventTakes s1 k p) = false)
include hslot hblock hevent

/-- A row other than the due word's changes nothing. -/
theorem issue_other_row (hfetch : fetchCode s1 k = .word w) {row : Row} (hne : row ≠ skRow (stage3 s1 k p) k w) : issue s k row = s := by
  simp only [issue, hslot, hblock, hevent, hfetch, Bool.false_eq_true, if_false, ne_eq, hne, not_false_eq_true, if_true]

/-- A word that something pending stops stays, and its position counts (R274). -/
theorem issue_scoreboard {x : SkWord} (hfetch : fetchCode s1 k = .word w) (hdecode : decodeSkim w = some x)
    (hstops : scoreboardStops (getTh s1 k) (skUses (stage3 s1 k p) k x) = true) :
    issue s k (skRow (stage3 s1 k p) k w) = coreCnt (modTh s1 k (fun t => { t with nextAt := p + 1 })) k 0x10 1 := by
  simp only [issue, hslot, hblock, hevent, hfetch, hdecode, issueSk, hstops, Bool.false_eq_true, if_false, ne_eq, not_true, if_true, finishWord]

/-- A word that decodes to nothing raises ILLEGAL and has no other effect (R268, R335). -/
theorem issue_undecodable (hfetch : fetchCode s1 k = .word w) (hdecode : decodeSkim w = none) :
    issue s k (skRow (stage3 s1 k p) k w) =
      deliverExc (wordIssued s1 k (getTh s1 k).pc 4) (getTh (stage3 s1 k p) k) k p (getTh s1 k).pc 4 false { cause := 3 } := by
  simp only [issue, hslot, hblock, hevent, hfetch, hdecode, Bool.false_eq_true, if_false, ne_eq, not_true, finishWord, excIllegal]
  rfl

/-- A PC outside the program raises CODE in Skim mode, under NOP. -/
theorem issue_outside (hfetch : fetchCode s1 k = .code) (hmode : (getTh s1 k).mode = false) :
    issue s k .nop = deliverExc s1 (getTh (stage3 s1 k p) k) k p (getTh s1 k).pc 4 false { cause := 5 } := by
  simp only [issue, hslot, hblock, hevent, hfetch, hmode, deadRow, decide_true, Bool.false_eq_true, if_false, if_true, finishWord]
  rfl

end Due
end Issue

/-! ### Where a word that is done leaves its thread -/

section After
variable {u v : State} {c : Ctx} {t : Thread}

/-- A word that is done leads its thread on. -/
theorem getTh_finishWord_seq : getTh (finishWord u v c .seq) c.tid = afterWord (getTh u c.tid) c := by
  simp only [finishWord, getTh_coreCnt, getTh_modTh]

/-- Outside a loop's end a plain word leads to the next address at the next tick. -/
theorem afterWord_plain (hflow : t.flow = .plain) (hloop : loopEndsAt t c.addr c.len = false) :
    (afterWord t c).pc = (c.addr + c.len) % 2 ^ 24 ∧ (afterWord t c).nextAt = c.p + 1 := by
  simp only [afterWord, hflow, hloop, Bool.false_eq_true, if_false, Nat.mod_mod, and_self]

/-- A delay slot leads to the target of a branch that is taken, three ticks after it at the earliest (R340, R341). -/
theorem afterWord_slot {b a tick : Nat} (hflow : t.flow = .slot b (some a) tick) :
    (afterWord t c).pc = a % 2 ^ 24 ∧ (afterWord t c).nextAt = Nat.max (c.p + 1) (tick + 3) := by
  simp only [afterWord, hflow, and_self]

/-- A loop's last word leads to its first while iterations are left (R344). -/
theorem afterWord_loop (hflow : t.flow = .plain) (hloop : loopEndsAt t c.addr c.len = true) (hlc : 1 < t.lc) (hfirst : t.loopFirst < 2 ^ 24) :
    (afterWord t c).pc = t.loopFirst ∧ (afterWord t c).lc = t.lc - 1 := by
  simp only [afterWord, hflow, hloop, hlc, if_true, Nat.mod_eq_of_lt hfirst, and_self]

end After

/-- Settles O33: the row of a word, what its issue does and where it leads are lemmas of their own. -/
theorem issueRules : Obligations.IssueRules := by
  refine ⟨fun v tid w x r _ hdecode hrow => skRow_of_decodeSkim hdecode hrow, fun tid s s1 p w => ⟨issue_stopped, ?due, ?plain, ?slot, ?loop⟩⟩
  case due =>
    intro hslot hblock hevent
    exact ⟨fun hfetch row => issue_other_row hslot hblock hevent hfetch, fun x => issue_scoreboard hslot hblock hevent,
      fun hfetch hdecode => ⟨_, _, _, rfl, rfl, rfl, issue_undecodable hslot hblock hevent hfetch hdecode⟩,
      fun hfetch hmode => congrArg Host.Outcome.next (issue_outside hslot hblock hevent hfetch hmode)⟩
  case plain =>
    intro u v c hflow hloop
    rw [getTh_finishWord_seq]
    exact afterWord_plain hflow hloop
  case slot =>
    intro u v c a b tick hflow
    rw [getTh_finishWord_seq]
    exact afterWord_slot hflow
  case loop =>
    intro u v c hflow hloop hlc hfirst
    rw [getTh_finishWord_seq]
    exact afterWord_loop hflow hloop hlc hfirst

end Sys2Proof.Proofs.IssueRules
end

section
/-!
PROOFS. How a Render instruction that is due issues (R274, R315, R365): its first word does what `runRender` says and control
goes on as it asks. What the issue of a word leaves of its thread is here too: the scoreboard judges it as it stood before.
-/

namespace Sys2Proof.Proofs.RenderIssue
open Sys2Proof Sys2Proof.Machine Sys2Proof.Proofs.CoreState

section Due
variable {s s1 x u v : State} {tid : Tid} {row : Row} {i : RIns} {c : Ctx}

/-- An instruction that nothing stops does what it does. -/
theorem issueRender_free (hfree : RenderFree x v c i) : issueRender c i v x = runRender c i v x := by
  obtain ⟨hrprog, hsb, howes, hplace⟩ := hfree
  cases i
  case skw w =>
    cases hw : decodeSkim w
    all_goals
      simp only [renderUses, hw] at hsb hplace
      simp only [issueRender, hrprog, hw, hsb, howes, Option.isNone_none, Option.isSome_none, Bool.false_eq_true, if_false]
      exact if_neg (ne_true_of_eq_false hplace)
  all_goals
    simp only [renderUses] at hsb
    simp only [issueRender, hrprog, hsb, howes, Option.isNone_none, Option.isSome_none, Bool.false_eq_true, if_false]
    exact if_neg (ne_true_of_eq_false hplace)

/-- A due instruction's thread is the thread of its command. -/
theorem due_tid (hdue : RenderDue s tid row i c v u) : c.tid = tidNum tid := by
  obtain ⟨s1, n, -, -, -, -, -, -, -, hc, -⟩ := hdue
  rw [hc]

/-- A due instruction is at its first word. -/
theorem due_rprog (hdue : RenderDue s tid row i c v u) : (getTh u c.tid).rprog = none := by
  obtain ⟨s1, n, -, -, -, -, -, -, -, -, -, ⟨hrprog, -⟩, -⟩ := hdue
  exact hrprog

/-- A due instruction is not stalled by its operands in the state before its issue. -/
theorem due_unstalled (hdue : RenderDue s tid row i c v u) :
    ∃ s1 addr len, u = wordIssued s1 c.tid addr len ∧ (getTh s1 c.tid).rprog = none ∧ (runRender c i v s1).2 ≠ .stalled := by
  obtain ⟨s1, n, -, -, -, -, -, -, hu, hc, ⟨hrprog, -⟩, -, hgoes⟩ := hdue
  have htid : c.tid = tidNum tid := by rw [hc]
  exact ⟨s1, _, _, htid ▸ hu, hrprog, hgoes⟩

/-- The issue of a due instruction: what it does in `u`, and then what it asks of the flow of control. -/
theorem issue_due {r : State × Ctl} (hdue : RenderDue s tid row i c v u) (hrun : runRender c i v u = r) :
    issue s (tidNum tid) row = finishWord r.1 v c r.2 := by
  obtain ⟨s1, n, hslot, hblock, hevent, hfetch, hfits, hv, hu, hc, hfree, hfreeu, hgoes⟩ := hdue
  have hfirst : issueRender c i v s1 = runRender c i v s1 := issueRender_free hfree
  have hthen : issueRender c i v u = r := (issueRender_free hfreeu).trans hrun
  simp only [issue, hslot, hblock, hevent, ← hv, hfetch, hfits, ← hc, ← hu, hfirst, if_neg hgoes, hthen, Bool.and_false,
    Bool.true_eq_false, Bool.false_eq_true, if_false]

/-- The command of a due instruction's row leads where the instruction's issue does. -/
theorem next_due {r : State × Ctl} (hdue : RenderDue s tid row i c v u) (hrun : runRender c i v u = r) :
    (.next (issue s (tidNum tid) row) : Res) = .next (finishWord r.1 v c r.2) :=
  congrArg Host.Outcome.next (issue_due hdue hrun)

end Due

/-! ### What the issue of a word leaves of its thread -/

section Issued
variable {s : State} {k : Nat}

/-- A corrected error met in a code line leaves the threads and clusters alone. -/
theorem corrected_core (x : State) (m : ErrorMark) :
    (coreCnt (record (clearMark x m.loc m.word) 1 0x08 0x0001 (wordLoc m.loc m.word) [] m.injected) k 0x38 1).core = x.core := by
  rw [coreCnt, record_frame]
  rfl

/-- A code line that enters the line buffer from the cache changes nothing else of its thread. -/
theorem getTh_takeLine_enter (line : Nat) (d : Bytes) :
    getTh (takeLine.enter s k line d) k = { getTh s k with line := some (line, d) } := by
  rw [← getTh_modTh s k (fun t => { t with line := some (line, d) }), takeLine.enter]
  dsimp only
  split
  · rfl
  · refine List.foldlRecOn _ _ (motive := fun x : State => getTh x k = getTh (modTh s k (fun t => { t with line := some (line, d) })) k) rfl ?_
    intro x hx m _
    rw [getTh, corrected_core]
    exact hx

/-- A code line that is read changes nothing of its thread but the line buffer. -/
theorem getTh_takeLine (line : Nat) (d : Bytes) :
    getTh (takeLine s k line d) k = { getTh s k with line := (getTh (takeLine s k line d) k).line } := by
  have henter : getTh (takeLine.enter s k line d) k = { getTh s k with line := (getTh (takeLine.enter s k line d) k).line } := by
    rw [getTh_takeLine_enter]
  rw [takeLine]
  split
  · split
    · rfl
    · exact henter
  · exact henter

/-- The state in which a thread has a code line in its line buffer, when its fetch gives the line. -/
def lineTaken (s : State) (k line : Nat) : State :=
  match fetchLine s k line with
  | .line d => takeLine s k line d
  | _ => s

/-- A code line that is fetched, or not, changes nothing of its thread but the line buffer. -/
theorem getTh_lineTaken (line : Nat) : getTh (lineTaken s k line) k = { getTh s k with line := (getTh (lineTaken s k line) k).line } := by
  rw [lineTaken]
  split
  · exact getTh_takeLine line _
  · rfl

/-- The issue of a word changes nothing of its thread but the lines that it holds. -/
theorem getTh_wordIssued (addr len : Nat) : getTh (wordIssued s k addr len) k =
    { getTh s k with line := (getTh (wordIssued s k addr len) k).line, served := (getTh (wordIssued s k addr len) k).served } := by
  have hlines : getTh (lineTaken (lineTaken s k (addr / 64)) k ((addr + len - 1) / 64)) k =
      { getTh s k with line := (getTh (lineTaken (lineTaken s k (addr / 64)) k ((addr + len - 1) / 64)) k).line } := by
    rw [getTh_lineTaken, getTh_lineTaken]
  have hissued : wordIssued s k addr len =
      (let x := coreCnt (lineTaken (lineTaken s k (addr / 64)) k ((addr + len - 1) / 64)) k 0x00 1
      if (getTh x k).served = [] then x
      else modTh x k (fun t => { t with served := t.served.filter (fun e => e.1 == addr / 64 || e.1 == (addr + len - 1) / 64) })) := rfl
  rw [hissued]
  dsimp only
  split
  · rw [getTh_coreCnt, hlines]
  · rw [getTh_modTh, getTh_coreCnt, hlines]

/-- What the scoreboard stops before the issue of a word it stops after it. -/
theorem scoreboardStops_wordIssued (addr len : Nat) (w : Uses) :
    scoreboardStops (getTh (wordIssued s k addr len) k) w = scoreboardStops (getTh s k) w := by
  rw [getTh_wordIssued]
  rfl

end Issued
end Sys2Proof.Proofs.RenderIssue
end

section
/-!
PROOFS. Render's control instructions and SKW (R365 to R367): what each instruction does at its issue and asks of the flow of
control, and O42 from them.
-/

namespace Sys2Proof.Proofs.RenderControl
open Sys2Proof Sys2Proof.Machine Sys2Proof.Proofs.RenderIssue Sys2Proof.Proofs.ControlWords

section Instructions
variable {v u : State} {c : Ctx} {t : Thread} {r csrc imm : Nat} {d : Int}

/-- BR is taken when its condition holds for the flags of stage 3. -/
theorem runRender_br {cond : Nat} (ht : getTh v c.tid = t) : runRender c (.br cond d) v u = (u,
    .branch (if condHolds cond { z := t.fz, n := t.fn, c := t.fc, v := t.fv } t.fe then some (codeAdd (c.addr + c.len) (2 * d)) else none)) := by
  subst ht; rfl

/-- BAL is taken, and the address behind its delay slot is on its way to Y. -/
theorem runRender_bal : runRender c (.bal d) v u = (pendTh u c.tid (c.p + 4)
    (.reg .y (BitVec.ofNat 64 ((c.addr + c.len + renderLenAt u c.tid (c.addr + c.len)) % 2 ^ 24))),
    .branch (some (codeAdd (c.addr + c.len) (2 * d)))) := rfl

/-- JR is taken to the address in its register. -/
theorem runRender_jr (ht : getTh v c.tid = t) : runRender c (.jr r) v u = (u, .branch (some ((getReg t (regA r)).toNat % 2 ^ 24))) := by
  subst ht; rfl

/-- A LOOP with iterations to do writes LC and its bounds. -/
theorem runRender_loop_enter {len n : Nat} (ht : getTh u c.tid = t) (hn : n = loopCount t csrc imm) (hne : n ≠ 0) :
    runRender c (.loop csrc len imm) v u = (modTh u c.tid (fun t => { t with
      lc := n, loopFirst := c.addr + c.len, loopLast := c.addr + c.len + 2 * len, loopValid := true }), .seq) := by
  subst ht hn
  rw [loopCount] at hne ⊢
  simp only [runRender, semLoop, if_neg hne]

/-- A LOOP without iterations goes on behind its body. -/
theorem runRender_loop_skip {len : Nat} (ht : getTh u c.tid = t) (hn : loopCount t csrc imm = 0) :
    runRender c (.loop csrc len imm) v u = (modTh u c.tid (fun t => { t with lc := 0, loopValid := false }), .skip (c.addr + c.len + 2 * len)) := by
  subst ht
  rw [loopCount] at hn
  simp only [runRender, semLoop, if_pos hn]

/-- SETLC writes LC and ends any loop in force. -/
theorem runRender_setlc (ht : getTh u c.tid = t) :
    runRender c (.setlc csrc imm) v u = (modTh u c.tid (fun t' => { t' with lc := loopCount t csrc imm, loopValid := false }), .seq) := by
  subst ht; rfl

/-- SKW runs its embedded word (R365). -/
theorem runRender_skw {w : Nat} {x : SkWord} (hdecode : decodeSkim w = some x) : runRender c (.skw w) v u = runSk c x v u := by
  simp only [runRender, hdecode]

end Instructions

/-- Settles O42: a due instruction is issued by `next_due`, and what it does is the lemma of its instruction. -/
theorem renderControl : Obligations.RenderControl := by
  intro tid s v u c t
  have ht : ∀ {row i}, RenderDue s tid row i c v u → getTh v c.tid = t := fun hdue => by rw [due_tid hdue]
  have hu : ∀ {row i}, RenderDue s tid row i c v u → getTh u c.tid = getTh u (tidNum tid) := fun hdue => by rw [due_tid hdue]
  refine ⟨fun hdue => next_due hdue rfl, fun cond d hdue => next_due hdue (runRender_br (ht hdue)), fun d hdue => next_due hdue runRender_bal,
    fun r hdue => next_due hdue (runRender_jr (ht hdue)), ?loop, ?setlc, fun w x hdue hdecode => next_due hdue (runRender_skw hdecode)⟩
  case loop =>
    intro csrc len imm n hdue hn
    exact ⟨fun hne => next_due hdue (runRender_loop_enter (hu hdue) hn hne),
      fun hzero => next_due hdue (runRender_loop_skip (hu hdue) (hn.symm.trans hzero))⟩
  case setlc =>
    rintro csrc imm n hdue rfl
    exact next_due hdue (runRender_setlc (hu hdue))

end Sys2Proof.Proofs.RenderControl
end

section
/-!
PROOFS. Render instructions with operands whose first word is their last (R358 to R364, Table 12-5): what their checks come
to, and what their word does.
-/

namespace Sys2Proof.Proofs.RenderOperands
open Sys2Proof Sys2Proof.Machine Sys2Proof.Proofs.CoreState Sys2Proof.Proofs.RenderIssue

section Words
variable {s x u v : State} {tid : Tid} {row : Row} {c : Ctx} {o : GOp} {ops : List Spec} {as : Table (Bool × Nat)}

/-- What holds of every specifier, and of the operand that stands for a missing one, holds of each operand. -/
theorem operandAt_of_forall (P : Spec → Prop) (hops : ∀ sp ∈ ops, P sp) (hnone : P (.imm 0)) (k : Nat) : P (operandAt ops k) := by
  rw [operandAt]
  cases hdrop : ops.drop k with
  | nil => exact hnone
  | cons sp rest => exact hops sp (List.mem_of_mem_drop (i := k) (by simp [hdrop]))

/-- The first word of an instruction with operands checks them and goes on with its issue words (R359, R360). -/
theorem runRender_g (hrprog : (getTh x c.tid).rprog = none) : runRender c (.g o ops) v x = gFirst c o ops (crossesLine c) v x := by
  simp only [runRender, hrprog, crossesLine]

/-- An instruction's operands pass the checks of its first word with one address `as` among them or none, and the first
word is the last: no operand is a TIND, none moves a pointer, and nothing is read ahead. -/
structure OneWord (c : Ctx) (v : State) (o : GOp) (ops : List Spec) (as : Table (Bool × Nat)) : Prop where
  checked : checkOps v c.tid o ops = .ok (as, [])
  single : as.length ≤ 1
  direct : ∀ e ∈ as, (operandAt ops e.1).isTind = false
  legal : addressBad c.tid o ops as = false
  last : stepsOf c.tid o ops as false = [.final]

/-- The issue words of an instruction at its only word. -/
def onlyWord (as : Table (Bool × Nat)) : RProg := { steps := [.final], addrs := as }

/-- The areas of bank 0 that an instruction's operands name. -/
def privRanges (o : GOp) (as : Table (Bool × Nat)) : List (Nat × Nat) := as.filterMap (fun e => if e.2.1 then some (e.2.2, o.size) else none)

/-- Without a TIND the addresses of the first word are the final ones. -/
theorem finalAddrs_direct (hsingle : as.length ≤ 1) (hdirect : ∀ e ∈ as, (operandAt ops e.1).isTind = false) :
    finalAddrs v c.tid o ops (onlyWord as) [] = .ok as := by
  match as, hsingle with
  | [], _ => rfl
  | [(k, e)], _ =>
    have hk : (operandAt ops k).isTind = false := hdirect (k, e) (List.mem_singleton_self _)
    simp [finalAddrs, onlyWord, hk, tblSet]

/-- The only word of an instruction is stopped by what is pending at its areas of bank 0 and by a lack of entries or places,
and does what the final word does otherwise. -/
theorem gFirst_oneWord (hone : OneWord c v o ops as) : gFirst c o ops false v x =
    if scoreboardStops (getTh x c.tid) { ranges := privRanges o as } then (x, .stalled)
    else if scoreboardStops (getTh x c.tid) (finalUses c.tid o ops as) then (x, .stalled)
    else (gFinal c o ops (onlyWord as) as v x, .seq) := by
  obtain ⟨hchecked, hsingle, hdirect, hlegal, hlast⟩ := hone
  have hplain : as.filter (fun e => !(operandAt ops e.1).isTind) = as := List.filter_eq_self.mpr (fun e he => by rw [hdirect e he]; rfl)
  have htable : tableBad c.tid ops as = false := List.any_eq_false.mpr (fun e he => by simp [hdirect e he])
  have hfinal := finalAddrs_direct (v := v) (c := c) (o := o) hsingle hdirect
  rw [onlyWord] at hfinal
  simp only [gFirst, hchecked, hplain, htable, hlegal, hlast, gStep, hfinal, Bool.false_eq_true, or_self, if_false]
  rfl

/-- The issue of a due instruction of one word within a line does what its final word does. -/
theorem runRender_oneWord (hdue : RenderDue s tid row (.g o ops) c v u) (hline : crossesLine c = false) (hone : OneWord c v o ops as) :
    runRender c (.g o ops) v u = (gFinal c o ops (onlyWord as) as v u, .seq) := by
  have hrprog := due_rprog hdue
  obtain ⟨s1, addr, len, rfl, hrprog1, hgoes⟩ := due_unstalled hdue
  rw [runRender_g hrprog1, hline, gFirst_oneWord hone] at hgoes
  rw [runRender_g hrprog, hline, gFirst_oneWord hone]
  simp only [scoreboardStops_wordIssued]
  split at hgoes
  · exact absurd rfl hgoes
  · split at hgoes
    · exact absurd rfl hgoes
    · next hranges hplaces => rw [if_neg hranges, if_neg hplaces]

end Words

/-! ### What a final word computes -/

section Final
variable {v u : State} {c : Ctx} {o : GOp} {ops : List Spec} {g : RProg} {as : Table (Bool × Nat)} {t : Thread}

/-- The value of operand `k` as a final word sees it: that of a register or an immediate, or one that an earlier word has read. -/
def operandValue (t : Thread) (o : GOp) (ops : List Spec) (g : RProg) (k : Nat) : W64 :=
  match operandAt ops k with
  | .reg n => regVal t n
  | .imm x => x
  | sp => memValue o sp (toLE o.size ((tblFind g.vals k).getD 0).toNat)

/-- What an instruction computes from the values of its operands (R364). -/
def computedOf (t : Thread) (o : GOp) (ops : List Spec) (g : RProg) : Option W64 × Option Fl :=
  gCompute o (operandValue t o ops g (if o.tri then 1 else 0)) (operandValue t o ops g (if o.tri then 2 else 1)) t.fc

/-- What an instruction computes goes to its destination, when it has one, after three ticks and MUL's product after five,
and its flags after three (R361, R364). -/
def computedLands (u : State) (c : Ctx) (o : GOp) (ops : List Spec) (as : Table (Bool × Nat)) (q : Option W64 × Option Fl) : State :=
  resFlags (match q.1 with
    | some x => if hasDest o.op then putDest u c o ops as 0 x (if o.op = 0x0E then 5 else 3) else u
    | none => u) c q.2

/-- Without an address there is no far operand. -/
theorem near_of_nil (k : Nat) : ∀ i e, tblFind ([] : Table (Bool × Nat)) i = some e → isFar k e = false := fun _ _ he => nomatch he

/-- The state in which a load's value is on its way: LR holds the reservation of its line from the load on (R369). -/
def loadBegun (u : State) (c : Ctx) (o : GOp) (a : Nat) : State :=
  if o.op = 0x13 then modTh u c.tid (fun t => { t with resv := some (lineOf a, c.p) }) else u

/-- The value that an instruction of the load form reads, as it is or changed by BSWAP, goes to its register after the latency
of the place (R361, R369). -/
def loadedLands (v u : State) (c : Ctx) (o : GOp) (ops : List Spec) (as : Table (Bool × Nat)) : State :=
  match tblFind as 1, operandAt ops 0 with
  | some e, .reg n =>
    let b := memValue o (operandAt ops 1) (shortRead v c.tid (unpackPlace c.tid e) o.size)
    pendTh (loadBegun u c o e.2) c.tid (c.p + shortLat (unpackPlace c.tid e) o.size + 1)
      (.reg (regR n) ((gCompute { o with op := if o.op = 0x13 then 0x01 else o.op } 0 b false).1.getD b))
  | _, _ => u

/-- The only word of an instruction that is neither LEA nor SC, with no far operand, loads or computes. -/
theorem gFinal_near (ht : getTh v c.tid = t) (hlea : o.op ≠ 0x12) (hsc : o.op ≠ 0x14)
    (hnear : ∀ k e, tblFind as k = some e → isFar c.tid e = false) : gFinal c o ops (onlyWord as) as v u =
      if loadForm o ops then loadedLands v u c o ops as else computedLands u c o ops as (computedOf t o ops (onlyWord as)) := by
  subst ht
  rw [gFinal]
  simp only [if_neg hlea, if_neg hsc]
  split
  · next k hlong =>
    have hfar := List.find?_some hlong
    split at hfar
    · next e he => rw [hnear k e he] at hfar; cases hfar
    · cases hfar
  · rfl

end Final

/-! ### Operands that are registers or immediates -/

section Plain
variable {v u : State} {c : Ctx} {o : GOp} {t : Thread} {d : Nat} {l r : Spec} {a b : W64}

/-- A register or an immediate is no operand in memory. -/
theorem isMem_plain (hplain : plainOperand t r = some b) : r.isMem = false := by
  cases r
  case reg | imm => rfl
  all_goals cases hplain

/-- Operands that LEA names, or that lie outside memory, pass the checks without an address. -/
theorem checkOps_none {ops : List Spec} (hnone : ∀ k, (operandAt ops k).isMem = false ∨ o.op = 0x12) :
    checkOps v c.tid o ops = .ok ([], []) := by
  rw [checkOps]
  refine List.foldlRecOn _ _ (motive := fun acc : Except Exc (Table (Bool × Nat) × Table W64) => acc = .ok ([], [])) rfl ?_
  rintro _ rfl k -
  have hcheck : checkOp v c.tid o ops k [] = .ok (none, []) := by rw [checkOp, if_pos (hnone k)]
  simp only [hcheck]

/-- No address is illegal where there is none. -/
theorem addressBad_nil {ops : List Spec} : addressBad c.tid o ops [] = false := by
  simp [addressBad]

/-- An instruction without an operand in memory, and LEA, has one word. -/
theorem oneWord_none {ops : List Spec} (hnone : (∀ sp ∈ ops, sp.isMem = false) ∨ o.op = 0x12) : OneWord c v o ops [] where
  checked := checkOps_none (fun k => hnone.imp_left (fun hops => operandAt_of_forall (·.isMem = false) hops rfl k))
  single := Nat.zero_le _
  direct := fun _ he => nomatch he
  legal := addressBad_nil
  last := by
    have hbody : o.op = 0x12 ∨ ops.any Spec.isMem = false :=
      hnone.symm.imp_right (fun hops => List.any_eq_false.mpr (fun sp hsp => by simp [hops sp hsp]))
    simp only [stepsOf, if_pos hbody, Bool.false_eq_true, if_false, List.nil_append]

/-- The value of an operand that is a register or an immediate is its own. -/
theorem operandValue_plain {ops : List Spec} {g : RProg} {k : Nat} (hplain : plainOperand t (operandAt ops k) = some b) :
    operandValue t o ops g k = b := by
  rw [operandValue]
  revert hplain
  cases operandAt ops k
  case reg n => exact Option.some.inj
  case imm x => exact Option.some.inj
  all_goals exact fun hplain => nomatch hplain

/-- A due instruction without an operand in memory, LEA and SC apart, computes from its operands. -/
theorem runRender_plain {s : State} {tid : Tid} {row : Row} {ops : List Spec} (hdue : RenderDue s tid row (.g o ops) c v u)
    (hline : crossesLine c = false) (ht : getTh v c.tid = t) (hlea : o.op ≠ 0x12) (hsc : o.op ≠ 0x14) (hops : ∀ sp ∈ ops, sp.isMem = false) :
    runRender c (.g o ops) v u = (computedLands u c o ops [] (computedOf t o ops (onlyWord [])), .seq) := by
  have hload : loadForm o ops = false := by simp [loadForm, operandAt_of_forall (·.isMem = false) hops rfl 1]
  rw [runRender_oneWord hdue hline (oneWord_none (.inl hops)), gFinal_near ht hlea hsc (near_of_nil c.tid), hload, if_neg Bool.false_ne_true]

/-- What goes to a register lands there. -/
theorem putDest_reg {ops : List Spec} {as : Table (Bool × Nat)} {old x : W64} {lat : Nat} (hdest : operandAt ops 0 = .reg d) :
    putDest u c o ops as old x lat = pendTh u c.tid (c.p + lat + 1) (.reg (regR d) x) := by
  rw [putDest, hdest]
  rfl

/-- An instruction of two operands computes from a register and a register or an immediate. -/
theorem computedOf_two {g : RProg} (htri : o.tri = false) (hb : plainOperand t r = some b) :
    computedOf t o [.reg d, r] g = gCompute o (regVal t d) b t.fc := by
  rw [computedOf, htri]
  exact congrArg₂ (gCompute o · · t.fc) (operandValue_plain rfl) (operandValue_plain hb)

/-- An instruction of three operands computes from its second and its third. -/
theorem computedOf_three {dst : Spec} {g : RProg} (htri : o.tri = true) (ha : plainOperand t l = some a) (hb : plainOperand t r = some b) :
    computedOf t o [dst, l, r] g = gCompute o a b t.fc := by
  rw [computedOf, htri]
  exact congrArg₂ (gCompute o · · t.fc) (operandValue_plain ha) (operandValue_plain hb)

end Plain
end Sys2Proof.Proofs.RenderOperands
end

section
/-!
PROOFS. Render's computations (R358 to R364): what each instruction computes from registers and immediates, where it lands, and
O43 from both.
-/

namespace Sys2Proof.Proofs.RenderComputations
open Sys2Proof Sys2Proof.Machine Sys2Proof.Proofs.RenderIssue Sys2Proof.Proofs.RenderOperands

/-! ### What an instruction computes -/

section Compute
variable {o : GOp} {a b : W64} {k : Bool}

/-- MOV computes its source. -/
theorem gCompute_mov (hop : o.op = 0x01) : gCompute o a b k = (some b, none) := by
  simp [gCompute, hop]

/-- BSWAP computes its source with the bytes of its size in the other order. -/
theorem gCompute_bswap (hop : o.op = 0x0F) : gCompute o a b k = (some (bswapV b o.size), none) := by
  simp [gCompute, hop]

/-- MUL computes the product with its flags. -/
theorem gCompute_mul (hop : o.op = 0x0E) (hnf : o.nf = false) : gCompute o a b k = (some (mulFl a b).1, some (mulFl a b).2) := by
  simp [gCompute, hop, hnf]

/-- CMP computes the flags of the ALU's comparison. -/
theorem gCompute_cmp (hop : o.op = 0x10) (hnf : o.nf = false) : gCompute o a b k = aluRun 9 a b k := by
  simp [gCompute, hop, hnf]

/-- TST computes the flags of the ALU's test. -/
theorem gCompute_tst (hop : o.op = 0x11) (hnf : o.nf = false) : gCompute o a b k = aluRun 10 a b k := by
  simp [gCompute, hop, hnf]

section Alu
variable {q : W64} {f : Fl} (hlow : 0x02 ≤ o.op) (hhigh : o.op ≤ 0x0D) (halu : aluRun (aluFnOf o.op) a b k = (some q, some f))
include hlow hhigh halu

/-- ADD to ROL compute what the ALU's function does, without its flags under NF. -/
theorem gCompute_alu : gCompute o a b k = (some q, if o.nf then none else some f) := by
  rw [gCompute]
  split
  case h_6 => rw [halu]
  all_goals omega

/-- Without NF they compute the flags. -/
theorem gCompute_alu_flags (hnf : o.nf = false) : gCompute o a b k = (some q, some f) := by
  rw [gCompute_alu hlow hhigh halu, hnf, if_neg Bool.false_ne_true]

/-- Under NF they do not. -/
theorem gCompute_alu_quiet (hnf : o.nf = true) : gCompute o a b k = (some q, none) := by
  rw [gCompute_alu hlow hhigh halu, if_pos hnf]

end Alu
end Compute

/-! ### Where it lands -/

section Lands
variable {u : State} {c : Ctx} {o : GOp} {d : Nat} {q : W64} {f : Fl} {ops : List Spec}

/-- All instructions up to BSWAP but CMP and TST have a destination. -/
theorem hasDest_of_le (hle : o.op ≤ 0x0F) : hasDest o.op = true := by
  simp only [hasDest, Bool.and_eq_true, bne_iff_ne]
  omega

section Result
variable (hdest : operandAt ops 0 = .reg d) (hle : o.op ≤ 0x0F) (hmul : o.op ≠ 0x0E)
include hdest hle hmul

/-- A result without flags lands in its register after three ticks (R361). -/
theorem computedLands_result : computedLands u c o ops [] (some q, none) = pendTh u c.tid (c.p + 4) (.reg (regR d) q) := by
  simp only [computedLands, hasDest_of_le hle, if_true, if_neg hmul, putDest_reg hdest, resFlags]

/-- A result and its flags land after three ticks (R361, R364). -/
theorem computedLands_both : computedLands u c o ops [] (some q, some f) =
    pendTh (pendTh u c.tid (c.p + 4) (.reg (regR d) q)) c.tid (c.p + 4) (.flags f.z f.n f.c f.v) := by
  simp only [computedLands, hasDest_of_le hle, if_true, if_neg hmul, putDest_reg hdest, resFlags, res]

end Result

/-- MUL's product lands after five ticks, and its flags after three. -/
theorem computedLands_mul (hdest : operandAt ops 0 = .reg d) (hmul : o.op = 0x0E) : computedLands u c o ops [] (some q, some f) =
    pendTh (pendTh u c.tid (c.p + 6) (.reg (regR d) q)) c.tid (c.p + 4) (.flags f.z f.n f.c f.v) := by
  simp only [computedLands, hasDest_of_le (o := o) (by omega), if_true, if_pos hmul, putDest_reg hdest, resFlags, res]

/-- Flags without a result land after three ticks. -/
theorem computedLands_flags : computedLands u c o ops [] (none, some f) = pendTh u c.tid (c.p + 4) (.flags f.z f.n f.c f.v) := rfl

end Lands

/-! ### The issue of an instruction without an operand in memory -/

section Issue
variable {s u v : State} {tid : Tid} {row : Row} {c : Ctx} {o : GOp} {t : Thread} {d : Nat} {l r : Spec} {a b : W64}
  {p : Option W64 × Option Fl}
variable (hline : crossesLine c = false) (ht : getTh v c.tid = t) (hop : o.op ≤ 0x11)
include hline ht hop

/-- A due instruction of a register and a register or an immediate computes from both. -/
theorem next_two (hdue : RenderDue s tid row (.g o [.reg d, r]) c v u) (htri : o.tri = false) (hb : plainOperand t r = some b)
    (hp : gCompute o (regVal t d) b t.fc = p) :
    (.next (issue s (tidNum tid) row) : Res) = .next (finishWord (computedLands u c o [.reg d, r] [] p) v c .seq) := by
  have hops : ∀ sp ∈ [Spec.reg d, r], sp.isMem = false := List.forall_mem_cons.mpr ⟨rfl, List.forall_mem_singleton.mpr (isMem_plain hb)⟩
  rw [next_due hdue (runRender_plain hdue hline ht (by omega) (by omega) hops), computedOf_two htri hb, hp]

/-- A due instruction of three operands outside memory computes from its second and its third. -/
theorem next_three (hdue : RenderDue s tid row (.g o [.reg d, l, r]) c v u) (htri : o.tri = true) (ha : plainOperand t l = some a)
    (hb : plainOperand t r = some b) (hp : gCompute o a b t.fc = p) :
    (.next (issue s (tidNum tid) row) : Res) = .next (finishWord (computedLands u c o [.reg d, l, r] [] p) v c .seq) := by
  have hops : ∀ sp ∈ [Spec.reg d, l, r], sp.isMem = false :=
    List.forall_mem_cons.mpr ⟨rfl, List.forall_mem_cons.mpr ⟨isMem_plain ha, List.forall_mem_singleton.mpr (isMem_plain hb)⟩⟩
  rw [next_due hdue (runRender_plain hdue hline ht (by omega) (by omega) hops), computedOf_three htri ha hb, hp]

end Issue

/-- Settles O43: a due instruction computes from its operands, by `gCompute`'s equation for its opcode, and what it computes
lands by `computedLands`'s. -/
theorem renderComputations : Obligations.RenderComputations := by
  intro tid s v u c o t
  have ht : ∀ {row i}, RenderDue s tid row i c v u → getTh v c.tid = t := fun hdue => by rw [due_tid hdue]
  refine ⟨fun row ops hdue => issue_due hdue (runRender_g (due_rprog hdue)), ?two, ?three⟩
  case two =>
    intro d sp b hline htri _ hb
    have hnext : ∀ {row p}, RenderDue s tid row (.g o [.reg d, sp]) c v u → o.op ≤ 0x11 → gCompute o (regVal t d) b t.fc = p →
        (.next (issue s (tidNum tid) row) : Res) = .next (finishWord (computedLands u c o [.reg d, sp] [] p) v c .seq) :=
      fun hdue hop hp => next_two hline (ht hdue) hop hdue htri hb hp
    refine ⟨fun hop hdue => ?mov, fun hop hdue => ?bswap, fun q f hop hnf hmul hdue => ?mul, fun q f hlow hhigh halu hdue => ?alu,
      fun f hop hnf hcmp hdue => ?cmp, fun f hop hnf htst hdue => ?tst⟩
    case mov =>
      refine (hnext hdue (by omega) (gCompute_mov hop)).trans ?_
      rw [computedLands_result rfl (by omega) (by omega)]
    case bswap =>
      refine (hnext hdue (by omega) (gCompute_bswap hop)).trans ?_
      rw [computedLands_result rfl (by omega) (by omega)]
    case mul =>
      refine (hnext hdue (by omega) (gCompute_mul hop hnf)).trans ?_
      rw [hmul, computedLands_mul rfl hop]
    case alu =>
      refine ⟨fun hnf => ?flags, fun hnf => ?quiet⟩
      case flags =>
        refine (hnext hdue (by omega) (gCompute_alu_flags hlow hhigh halu hnf)).trans ?_
        rw [computedLands_both rfl (by omega) (by omega)]
      case quiet =>
        refine (hnext hdue (by omega) (gCompute_alu_quiet hlow hhigh halu hnf)).trans ?_
        rw [computedLands_result rfl (by omega) (by omega)]
    case cmp =>
      refine (hnext hdue (by omega) ((gCompute_cmp hop hnf).trans hcmp)).trans ?_
      rw [computedLands_flags]
    case tst =>
      refine (hnext hdue (by omega) ((gCompute_tst hop hnf).trans htst)).trans ?_
      rw [computedLands_flags]
  case three =>
    intro d l r a b q f hline htri hnf hlow hhigh _ ha hb halu hdue
    refine (next_three hline (ht hdue) (by omega) hdue htri ha hb (gCompute_alu_flags hlow hhigh halu hnf)).trans ?_
    rw [computedLands_both rfl (by omega) (by omega)]

end Sys2Proof.Proofs.RenderComputations
end

section
/-!
PROOFS. Render's memory instructions (R355, R358, R361, R369, R370): the checks of an operand in bank 0 or in the own cluster's
memory, what LEA, LR, SC and a MOV with such an operand do, and O44 from them.
-/

namespace Sys2Proof.Proofs.RenderMemory
open Sys2Proof Sys2Proof.Machine Sys2Proof.Proofs.RenderIssue
open Sys2Proof.Proofs.RenderOperands Sys2Proof.Proofs.RenderComputations

/-! ### Checks -/

section Checks
variable {v : State} {c : Ctx} {o : GOp} {ops : List Spec} {k off a : Nat} {l r : Spec} {e : Bool × Nat} {pl : Place}

/-- An access that only reads is allowed when its read is. -/
theorem checkBoth_read {f : Bool → Except Exc Place} (hread : f false = .ok pl) : checkBoth f true false = .ok pl := by
  simp only [checkBoth, if_true, hread, Bool.false_eq_true, if_false]

/-- An access that only writes is allowed when its write is. -/
theorem checkBoth_write {f : Bool → Except Exc Place} (hwrite : f true = .ok pl) : checkBoth f false true = .ok pl := by
  simp only [checkBoth, if_true, hwrite, Bool.false_eq_true, if_false]

/-- An access to the local area of bank 0 is allowed. -/
theorem resolveBank_local {tid n : Nat} {write : Bool} (hn : 0 < n) (hoff : off + n ≤ 0x1000) : resolveBank v tid 0 off n write = .ok (.priv off) := by
  have hlt : off < 0x1000 := by omega
  have hin : privBad off n = none := by simp only [privBad, privEnd, if_pos hlt, if_pos hoff]
  simp only [resolveBank, if_true, hin]

/-- A register operand is not checked. -/
theorem checkOp_reg {d : Nat} (hreg : operandAt ops k = .reg d) : checkOp v c.tid o ops k [] = .ok (none, []) := by
  simp only [checkOp, hreg, Spec.isMem, true_or, if_true]

section Accesses
variable {rd wr : Bool} (hlea : o.op ≠ 0x12) (hrd : (sourcesOf o ops).contains k = rd) (hwr : writesOp o k = wr)
include hlea hrd hwr

/-- An operand in bank 0 is checked for its accesses. -/
theorem checkOp_bank0 (hspec : operandAt ops k = .bank0 off) (hcheck : checkBoth (resolveBank v c.tid 0 off o.size) rd wr = .ok pl) :
    checkOp v c.tid o ops k [] = .ok (some (packPlace pl), []) := by
  simp only [checkOp, hspec, Spec.isMem, Bool.true_eq_false, hlea, or_self, if_false, specLoc, hrd, hwr, hcheck]

/-- An operand at an address is checked for its accesses. -/
theorem checkOp_abs (hspec : operandAt ops k = .abs a) (hcheck : checkBoth (resolvePtr v c.tid a o.size) rd wr = .ok pl) :
    checkOp v c.tid o ops k [] = .ok (some (packPlace pl), []) := by
  simp only [checkOp, hspec, Spec.isMem, Bool.true_eq_false, hlea, or_self, if_false, specLoc, hrd, hwr, hcheck]

end Accesses

/-- The right operand alone has an address. -/
theorem checkOps_right (hl : checkOp v c.tid o [l, r] 0 [] = .ok (none, [])) (hr : checkOp v c.tid o [l, r] 1 [] = .ok (some e, [])) :
    checkOps v c.tid o [l, r] = .ok ([(1, e)], []) := by
  simp [checkOps, List.range_succ, hl, hr, tblSet]

/-- The left operand alone has an address. -/
theorem checkOps_left (hl : checkOp v c.tid o [l, r] 0 [] = .ok (some e, [])) (hr : checkOp v c.tid o [l, r] 1 [] = .ok (none, [])) :
    checkOps v c.tid o [l, r] = .ok ([(0, e)], []) := by
  simp [checkOps, List.range_succ, hl, hr, tblSet]

end Checks

/-! ### One operand near at hand -/

section Near
variable {u v : State} {c : Ctx} {o : GOp} {ops : List Spec} {k d off a : Nat} {sp : Spec} {e : Bool × Nat} {t : Thread}

/-- Whether a specifier states its address itself: BANK0 and ABS. -/
def statesAddress : Spec → Bool
  | .bank0 _ => true
  | .abs _ => true
  | _ => false

/-- The specifiers that state their address. -/
theorem stated_cases (hstated : statesAddress sp = true) : (∃ off, sp = .bank0 off) ∨ ∃ a, sp = .abs a := by
  cases sp
  case bank0 off => exact .inl ⟨off, rfl⟩
  case abs a => exact .inr ⟨a, rfl⟩
  all_goals cases hstated

/-- A place in bank 0 is not far. -/
theorem isFar_priv : isFar c.tid (true, off) = false := rfl

/-- An address in the own cluster's memory is its place there. -/
theorem unpackPlace_own (hown : isOwn c.tid (false, a) = true) : unpackPlace c.tid (false, a) = .own a := by
  have hplace : unpackPlace c.tid (false, a) = .own a ∨ unpackPlace c.tid (false, a) = .far a := by
    simp only [unpackPlace, Bool.false_eq_true, if_false]
    split
    · split
      · exact .inl rfl
      · exact .inr rfl
    · exact .inr rfl
  obtain hplace | hplace := hplace
  · exact hplace
  · rw [isOwn, hplace] at hown
    cases hown

/-- An address in the own cluster's memory is not far. -/
theorem isFar_own (hown : isOwn c.tid (false, a) = true) : isFar c.tid (false, a) = false := by
  rw [isFar, unpackPlace_own hown]

/-- The only address, near at hand, is legal; LR and SC ask for an aligned one in the own cluster's memory (R369, R370). -/
theorem addressBad_near (hstated : statesAddress (operandAt ops k) = true) (hnear : isFar c.tid e = false)
    (hatomic : o.op = 0x13 ∨ o.op = 0x14 → e.1 = false ∧ e.2 % o.size = 0 ∧ isOwn c.tid e = true) : addressBad c.tid o ops [(k, e)] = false := by
  have hplace : ((o.op == 0x13 || o.op == 0x14) && (e.1 || e.2 % o.size != 0 || !(isOwn c.tid e || inHbm e.2))) = false := by
    by_cases hop : o.op = 0x13 ∨ o.op = 0x14
    · obtain ⟨hcluster, haligned, hown⟩ := hatomic hop
      simp [hcluster, haligned, hown]
    · simp only [not_or] at hop
      simp [hop]
  simp only [addressBad, List.filter_cons, List.filter_nil, hnear, List.any_cons, List.any_nil, hplace, Bool.or_false, Bool.false_eq_true,
    if_false, List.length_nil]
  obtain ⟨_, hspec⟩ | ⟨_, hspec⟩ := stated_cases hstated <;> rw [hspec] <;> rfl

/-- An operand that states its address is in memory. -/
theorem isMem_stated (hstated : statesAddress sp = true) : sp.isMem = true := by
  obtain ⟨_, rfl⟩ | ⟨_, rfl⟩ := stated_cases hstated <;> rfl

/-- An operand that states its address is no TIND. -/
theorem isTind_stated (hstated : statesAddress sp = true) : sp.isTind = false := by
  obtain ⟨_, rfl⟩ | ⟨_, rfl⟩ := stated_cases hstated <;> rfl

/-- An instruction of the load or the store form with one checked address and no TIND has one word. -/
theorem oneWord_form (hchecked : checkOps v c.tid o ops = .ok ([(k, e)], [])) (htind : ∀ sp ∈ ops, sp.isTind = false)
    (hform : loadForm o ops = true ∨ storeForm o ops = true) (hlegal : addressBad c.tid o ops [(k, e)] = false) :
    OneWord c v o ops [(k, e)] where
  checked := hchecked
  single := Nat.le_refl _
  direct := fun _ _ => operandAt_of_forall (·.isTind = false) htind rfl _
  legal := hlegal
  last := by
    have htab : ∀ i, (operandAt ops i).isTind = false := operandAt_of_forall (·.isTind = false) htind rfl
    simp only [stepsOf, htab, Bool.false_eq_true, if_false, List.nil_append]
    split
    · rfl
    · split
      · rfl
      · next hload => rw [if_pos (hform.resolve_left hload)]

/-! ### Loads: MOV and LR -/

section Loads
variable (hop : o.op = 0x01 ∨ o.op = 0x13)
include hop

/-- MOV and LR read their right operand. -/
theorem sourcesOf_load : (sourcesOf o [.reg d, sp]).contains 1 = true := by
  obtain hop | hop := hop <;> simp [sourcesOf, isAluOp, hop]

section Stated
variable (hstated : statesAddress sp = true)
include hstated

/-- MOV and LR from an address to a register are of the load form. -/
theorem loadForm_stated : loadForm o [.reg d, sp] = true := by
  obtain hop | hop := hop <;> simp [loadForm, hop, operandAt, isMem_stated hstated]

/-- MOV and LR from an address near at hand to a register have one word. -/
theorem oneWord_load (hnear : isFar c.tid e = false) (hchecked : checkOp v c.tid o [.reg d, sp] 1 [] = .ok (some e, []))
    (hatomic : o.op = 0x13 → e.1 = false ∧ e.2 % o.size = 0 ∧ isOwn c.tid e = true) : OneWord c v o [.reg d, sp] [(1, e)] :=
  oneWord_form (checkOps_right (checkOp_reg rfl) hchecked) (List.forall_mem_cons.mpr ⟨rfl, List.forall_mem_singleton.mpr (isTind_stated hstated)⟩)
    (.inl (loadForm_stated hop hstated)) (addressBad_near hstated hnear (fun h => hatomic (by omega)))

end Stated
end Loads

/-! ### Stores: MOV and SC -/

section Stores
variable (hop : o.op = 0x01 ∨ o.op = 0x14) (hstated : statesAddress sp = true)
include hop hstated

/-- MOV and SC do not read the address that they store to. -/
theorem sourcesOf_store : (sourcesOf o [sp, .reg d]).contains 0 = false := by
  obtain ⟨_, rfl⟩ | ⟨_, rfl⟩ := stated_cases hstated
  all_goals obtain hop | hop := hop <;> simp [sourcesOf, isAluOp, hop]

/-- MOV and SC from a register to an address are of the store form. -/
theorem storeForm_stated : storeForm o [sp, .reg d] = true := by
  obtain ⟨_, rfl⟩ | ⟨_, rfl⟩ := stated_cases hstated
  all_goals obtain hop | hop := hop <;> simp [storeForm, operandAt, Spec.isMem, hop]

/-- MOV and SC from a register to an address near at hand have one word. -/
theorem oneWord_store (hnear : isFar c.tid e = false) (hchecked : checkOp v c.tid o [sp, .reg d] 0 [] = .ok (some e, []))
    (hatomic : o.op = 0x14 → e.1 = false ∧ e.2 % o.size = 0 ∧ isOwn c.tid e = true) : OneWord c v o [sp, .reg d] [(0, e)] :=
  oneWord_form (checkOps_left hchecked (checkOp_reg rfl)) (List.forall_mem_cons.mpr ⟨isTind_stated hstated, List.forall_mem_singleton.mpr rfl⟩)
    (.inr (storeForm_stated hop hstated)) (addressBad_near hstated hnear (fun h => hatomic (by omega)))

end Stores

/-- One address near at hand leaves no far operand. -/
theorem near_of_single (hnear : isFar c.tid e = false) : ∀ i e', tblFind [(k, e)] i = some e' → isFar c.tid e' = false := by
  intro i e' hfind
  simp only [tblFind, Option.ite_none_right_eq_some, Option.some.injEq] at hfind
  rw [← hfind.2, hnear]

/-! ### Final words -/

/-- An operand that states its address is in memory and no bit field: its value is that of its bytes, extended (R355). -/
theorem memValue_stated {bytes : Bytes} (hstated : statesAddress sp = true) :
    memValue o sp bytes = loadValue { size := o.size, be := o.be, sx := o.sx } bytes := by
  obtain ⟨_, rfl⟩ | ⟨_, rfl⟩ := stated_cases hstated <;> rfl

/-- MOV and LR of an operand near at hand load it, extended, after its latency. -/
theorem gFinal_loads (hop : o.op = 0x01 ∨ o.op = 0x13) (hstated : statesAddress sp = true) (hnear : isFar c.tid e = false) :
    gFinal c o [.reg d, sp] (onlyWord [(1, e)]) [(1, e)] v u =
      pendTh (loadBegun u c o e.2) c.tid (c.p + shortLat (unpackPlace c.tid e) o.size + 1)
        (.reg (regR d) (loadValue { size := o.size, be := o.be, sx := o.sx } (shortRead v c.tid (unpackPlace c.tid e) o.size))) := by
  have hmov : (if o.op = 0x13 then 0x01 else o.op) = 0x01 := by
    split
    · rfl
    · next hnot => exact hop.resolve_right hnot
  rw [gFinal_near rfl (by omega) (by omega) (near_of_single hnear), loadForm_stated hop hstated, if_pos rfl]
  have hvalue : ∀ b, gCompute { o with op := if o.op = 0x13 then 0x01 else o.op } 0 b false = (some b, none) := fun _ => gCompute_mov hmov
  simp only [loadedLands, tblFind, if_true, operandAt, List.drop_zero, List.headD_cons, List.drop_succ_cons, hvalue, Option.getD_some,
    memValue_stated hstated]

/-- MOV to bank 0 stores the register's low bytes. -/
theorem gFinal_stores (ht : getTh v c.tid = t) (hop : o.op = 0x01) (htri : o.tri = false) :
    gFinal c o [.bank0 off, .reg d] (onlyWord [(0, (true, off))]) [(0, (true, off))] v u =
      shortWrite u c.tid c.p (.priv off) (storeBytes { size := o.size, be := o.be } (regVal t d)) := by
  have hload : loadForm o [.bank0 off, .reg d] = false := by simp [loadForm, operandAt]
  have hcomputed : computedOf t o [.bank0 off, .reg d] (onlyWord [(0, (true, off))]) = (some (regVal t d), none) := by
    rw [computedOf, htri]
    exact gCompute_mov hop
  rw [gFinal_near ht (by omega) (by omega) (near_of_single isFar_priv), hload, if_neg Bool.false_ne_true, hcomputed]
  simp only [computedLands, hasDest_of_le (o := o) (by omega), if_true, putDest, operandAt, List.drop_zero, List.headD_cons, tblFind, resFlags]
  rfl

/-- SC of an address in the own cluster's memory starts its store (R370). -/
theorem gFinal_sc (ht : getTh v c.tid = t) (hop : o.op = 0x14) (hown : isOwn c.tid (false, a) = true) :
    gFinal c o [.abs a, .reg d] (onlyWord [(0, (false, a))]) [(0, (false, a))] v u = scStart u c o (regR d) (regVal t d) (.own a) := by
  subst ht
  have hlea : o.op ≠ 0x12 := by omega
  rw [gFinal, ← unpackPlace_own hown]
  simp only [if_neg hlea, if_pos hop]
  rfl

/-- LEA's address goes to its register (R358). -/
theorem gFinal_lea {pn : Nat} {dis : Int} (ht : getTh v c.tid = t) (hop : o.op = 0x12) :
    gFinal c o [.reg d, .ptr pn none dis] (onlyWord []) [] v u =
      pendTh u c.tid (c.p + 4) (.reg (regR d) (BitVec.ofNat 64 (mod48 ((getReg t (.p pn)).toNat + dis)))) := by
  subst ht
  have haddr : specLoc (getTh v c.tid) o.size (.ptr pn none dis) [] = (.ptr (mod48 ((getReg (getTh v c.tid) (.p pn)).toNat + dis)), []) := by
    simp [specLoc, ptrNow, tblFind]
  simp only [gFinal, hop, if_true, operandAt, List.drop_zero, List.drop_succ_cons, List.headD_cons, haddr]
  rfl

end Near

/-- Settles O44: an instruction of one word has checked its operand in memory, and its final word loads, stores or forms its
address. -/
theorem renderMemory : Obligations.RenderMemory := by
  intro tid s v u c o t hline htri hsize
  have ht : ∀ {row i}, RenderDue s tid row i c v u → getTh v c.tid = t := fun hdue => by rw [due_tid hdue]
  refine ⟨?lea, ?load, ?store, ?lr, ?sc⟩
  case lea =>
    intro d pn dis hop hdue
    refine (next_due hdue (runRender_oneWord hdue hline (oneWord_none (.inr hop)))).trans ?_
    rw [gFinal_lea (ht hdue) hop]
  case load =>
    intro d off hop hoff hdue
    have hchecked : checkOp v c.tid o [.reg d, .bank0 off] 1 [] = .ok (some (true, off), []) :=
      checkOp_bank0 (by omega) (sourcesOf_load (.inl hop)) rfl rfl (checkBoth_read (resolveBank_local hsize hoff))
    have hone := oneWord_load (.inl hop) rfl isFar_priv hchecked (by omega)
    refine (next_due hdue (runRender_oneWord hdue hline hone)).trans ?_
    rw [gFinal_loads (.inl hop) rfl isFar_priv, loadBegun, if_neg (by omega), ← ht hdue]
    rfl
  case store =>
    intro d off hop hoff hdue
    have hwrites : writesOp o 0 = true := hasDest_of_le (by omega)
    have hchecked : checkOp v c.tid o [.bank0 off, .reg d] 0 [] = .ok (some (true, off), []) :=
      checkOp_bank0 (by omega) (sourcesOf_store (.inl hop) rfl) hwrites rfl (checkBoth_write (resolveBank_local hsize hoff))
    have hone := oneWord_store (.inl hop) rfl isFar_priv hchecked (by omega)
    refine (next_due hdue (runRender_oneWord hdue hline hone)).trans ?_
    rw [gFinal_stores (ht hdue) hop htri]
  case lr =>
    intro d a hop haligned hown hdue hplace
    have hchecked : checkOp v c.tid o [.reg d, .abs a] 1 [] = .ok (some (false, a), []) :=
      checkOp_abs (by omega) (sourcesOf_load (.inr hop)) rfl rfl (checkBoth_read hplace)
    have hone := oneWord_load (.inr hop) rfl (isFar_own hown) hchecked (fun _ => ⟨rfl, haligned, hown⟩)
    refine (next_due hdue (runRender_oneWord hdue hline hone)).trans ?_
    rw [gFinal_loads (.inr hop) rfl (isFar_own hown), loadBegun, if_pos hop, unpackPlace_own hown]
    rfl
  case sc =>
    intro d a hop haligned hown hdue hplace
    have hwrites : writesOp o 0 = true := by rw [writesOp, hop]; rfl
    have hchecked : checkOp v c.tid o [.abs a, .reg d] 0 [] = .ok (some (false, a), []) :=
      checkOp_abs (by omega) (sourcesOf_store (.inr hop) rfl) hwrites rfl (checkBoth_write hplace)
    have hone := oneWord_store (.inr hop) rfl (isFar_own hown) hchecked (fun _ => ⟨rfl, haligned, hown⟩)
    refine (next_due hdue (runRender_oneWord hdue hline hone)).trans ?_
    rw [gFinal_sc (ht hdue) hop hown]

end Sys2Proof.Proofs.RenderMemory
end

section
/-!
PROOFS. Block instructions and their elements (R372 to R376): how a block starts, what its further positions and its elements
do, and O45 from them.
-/

namespace Sys2Proof.Proofs.BlockInstructions
open Sys2Proof Sys2Proof.Machine Sys2Proof.Proofs.CoreState Sys2Proof.Proofs.RenderIssue

/-! ### LC of a thread -/

section Lc
variable {s : State} {k : Nat}

/-- A result that lands leaves LC alone: no register and no status register is LC. -/
theorem applyDst_lc (t : Thread) (land : Nat) (d : Dst) : (applyDst t land d).lc = t.lc := by
  cases d
  case reg r v => cases r <;> rfl
  case status n v =>
    simp only [applyDst, setStatus]
    split <;> rfl
  all_goals rfl

/-- A thread that is set reads as it was set. -/
theorem getTh_setTh (t : Thread) : getTh (setTh s k t) k = t := getTh_modTh s k (fun _ => t)

/-- The results that land leave LC alone. -/
theorem landTh_lc (upto : Nat) : (getTh (landTh s k upto) k).lc = (getTh s k).lc := by
  rw [landTh]
  dsimp only
  split
  · rfl
  · refine List.foldlRecOn _ _ (motive := fun x : State => (getTh x k).lc = (getTh s k).lc) ?thread ?copro
    case thread =>
      rw [getTh_setTh]
      exact List.foldlRecOn _ _ (motive := fun t : Thread => t.lc = (getTh s k).lc) rfl (fun t ht e _ => (applyDst_lc t e.land e.dst).trans ht)
    case copro =>
      intro x hx e _
      split
      · split <;> exact hx
      · exact hx

/-- A new scoreboard entry leaves LC alone. -/
theorem allocEntry_lc {names : List Names} {op : LongOp} {due : Option Nat} {exact : Bool} :
    (getTh (allocEntry s k names op due exact).2 k).lc = (getTh s k).lc := by
  have hentry : ∃ t : Thread, getTh (allocEntry s k names op due exact).2 k = t ∧ t.lc = (getTh s k).lc := ⟨_, getTh_setTh _, rfl⟩
  obtain ⟨t, ht, hlc⟩ := hentry
  rw [ht, hlc]

end Lc

/-! ### The first word (R372) -/

section First
variable {u v : State} {c : Ctx} {op pd ps n : Nat} {fn : Bool}

/-- A block of no items sets Z where it compares or scans, and does nothing otherwise. -/
theorem semBlock_empty (hlc : (getTh u c.tid).lc = 0) :
    semBlock c op pd ps fn v u = (if op = 0x22 ∨ op = 0x24 then pendTh u c.tid (c.p + 4) (.zbit true) else u, .seq) := by
  simp only [semBlock, hlc, if_true]
  rfl

/-- A thread with a block of `n` items under its scoreboard entry. -/
def withBlock (op pd ps : Nat) (fn : Bool) (entry n : Nat) (t : Thread) : Thread :=
  { t with block := some { op := op, pd := pd, ps := ps, fn := fn, total := n, entry := entry } }

/-- The state in which a block of `n` items has its entry `e` and its first element is requested. -/
def blockStarted (v : State) (c : Ctx) (op pd ps : Nat) (fn : Bool) (n : Nat) (e : Nat × State) : State :=
  blockRequest v (modTh (landTh e.2 c.tid (c.p + 1)) c.tid (withBlock op pd ps fn e.1 n)) c

/-- A block of some items in legal ranges takes its entry and requests its first element. -/
theorem semBlock_started (hn : (getTh u c.tid).lc = n) (hsome : n ≠ 0) (hlegal : blockBad v c.tid op pd ps n = none) :
    semBlock c op pd ps fn v u = (blockStarted v c op pd ps fn n (allocEntry u c.tid [.lc] .block none false), .placed) := by
  subst hn
  have hlc : (getTh (landTh (allocEntry u c.tid [.lc] .block none false).2 c.tid (c.p + 1)) c.tid).lc = (getTh u c.tid).lc := by
    rw [landTh_lc, allocEntry_lc]
  simp only [semBlock, if_neg hsome, hlegal]
  exact congrArg (fun x => (blockRequest v x c, Ctl.placed)) (modTh_congr (congrArg (fun n => withBlock op pd ps fn _ n _) hlc))

end First

/-! ### Further positions and elements (R373, R374, R376) -/

section Elements
variable {s s1 : State} {k p d : Nat} {b : Block} {e : BlockElem} {rest : List BlockElem}

/-- The row of a block operation. -/
def blockRow (op : Nat) : Row := match op with | 0x20 => .bmove | 0x21 => .bfill | 0x22 => .bcmp | 0x23 => .bsum | _ => .bscan

/-- A position of a thread whose block runs is the block's, under the row of its operation. -/
theorem issue_block (hslot : slotFor s k = some (p, s1)) (hblock : (getTh s1 k).block = some b) {row : Row} (hrow : row = blockRow b.op) :
    issue s k row = blockWord s1 k p b := by
  subst hrow
  simp only [issue, hslot, hblock]
  exact if_pos rfl

/-- The oldest element of a block that goes on has its effect at its tick; counting it, unless it stops the block, LC goes down
and the pointers move. -/
theorem blockElementDone_due {x : State} {r : Bool × State} (hblock : (getTh s k).block = some b) (hflight : b.inflight = e :: rest)
    (hgoes : b.stop = false) (hdue : e.due = some d) (hr : r = elemEffect (advanceTo s d) k b e)
    (hx : x = if r.1 then r.2 else blockCount r.2 k b) : blockElementDone s k = blockSettle (modTh x k (fun t => { t with
      block := t.block.map (fun b => { b with inflight := rest, stop := b.stop || r.1 }) })) k (advanceTo s d).now := by
  subst hx hr
  simp only [blockElementDone, hblock, hflight, hdue, hgoes, elemValues, Bool.false_eq_true, if_false]

/-- A counted element takes 1 from LC. -/
theorem blockCount_lc : (getTh (blockCount s k b) k).lc = (getTh s k).lc - 1 := by
  rw [blockCount, getTh_modTh]

/-- A counted element moves the source pointer on by 8, modulo 2^48. -/
theorem blockCount_source (hsource : b.op ≠ 0x21) (hapart : b.pd ≠ b.ps) :
    tblGet 0 (getTh (blockCount s k b) k).p b.ps = (tblGet 0 (getTh s k).p b.ps + 8) &&& 0xFFFFFFFFFFFF := by
  have hps : blockUsesPs b.op = true := bne_iff_ne.mpr hsource
  rw [blockCount, getTh_modTh]
  cases blockUsesPd b.op <;> simp [hps, setReg, tblGet, tblFind_tblSet_other _ hapart.symm]

end Elements

/-- Settles O45: how a block starts, goes on and counts are lemmas of their own. -/
theorem blockInstructions : Obligations.BlockInstructions := by
  intro tid s v u c op pd ps fn k out started
  refine ⟨?empty, ?some, ?position, ?element, fun x b => ⟨blockCount_lc, blockCount_source⟩⟩
  case empty =>
    intro hlc
    have hnext : ∀ {row}, RenderDue s tid row (.block op pd ps fn) c v u → (.next (issue s k row) : Res) =
        .next (finishWord (if op = 0x22 ∨ op = 0x24 then pendTh u c.tid (c.p + 4) (.zbit true) else u) v c .seq) :=
      fun hdue => next_due hdue (semBlock_empty (by rw [due_tid hdue, hlc]))
    refine ⟨?_, ?_, ?_, ?_, ?_⟩ <;> rintro rfl hdue <;> exact hnext hdue
  case some =>
    intro hlc hlegal
    have hnext : ∀ {row}, RenderDue s tid row (.block op pd ps fn) c v u →
        (.next (issue s k row) : Res) = .next (started (allocEntry u c.tid [.lc] .block none false)) :=
      fun hdue => next_due hdue (semBlock_started (by rw [due_tid hdue]) hlc hlegal)
    exact ⟨_, rfl, fun _ => hnext, fun _ => hnext, fun _ => hnext, fun _ => hnext, fun _ => hnext⟩
  case position =>
    intro p s1 b hslot hblock
    have hnext : ∀ {row}, row = blockRow b.op → (.next (issue s k row) : Res) = .next (blockWord s1 k p b) :=
      fun hrow => congrArg Host.Outcome.next (issue_block hslot hblock hrow)
    refine ⟨?_, ?_, ?_, ?_, ?_⟩ <;> intro hop <;> exact hnext (by rw [hop]; rfl)
  case element =>
    intro b e rest d r x hblock hflight hgoes hdue hr hx
    exact congrArg Host.Outcome.next (blockElementDone_due hblock hflight hgoes hdue hr hx)

end Sys2Proof.Proofs.BlockInstructions
end

section
/-!
PROOFS. The laws that every step keeps: the ring, the package's registers, and the rules of soundness.
-/

namespace Sys2Proof.Proofs.StepInvariants
open Sys2Proof Sys2Proof.Machine

/-! ### The on-die ring (R492) -/

section Ring
variable {f g : FaultState} {r : ErrRecord}

theorem ringHeld_closed (hm : f.summary = none) : ringHeld f = f.ring.length := by simp [ringHeld, hm]

theorem ringHeld_open {m : Summary} (hm : f.summary = some m) : ringHeld f = f.ring.length + 1 := by simp [ringHeld, hm]

theorem ringOk_of_empty (hr : f.ring = []) (hm : f.summary = none) : RingOk f := by simp [RingOk, ringHeld, hr, hm]

/-- A summary closes and the record is stored behind it. -/
theorem ringStore_closing {m : Summary} (hm : f.summary = some m) (hheld : ringHeld f < 63) (r : ErrRecord) :
    ringStore f r = { f with ring := f.ring ++ [summaryRecord m, r], summary := none, counters := cntAdd f.counters (8 * r.sev) 1 } := by
  simp [ringStore, hm, hheld]

/-- The record is lost behind an open summary. -/
theorem ringStore_lost {m : Summary} (hm : f.summary = some m) (hheld : 63 ≤ ringHeld f) (r : ErrRecord) :
    ringStore f r = { f with overflow := f.overflow + 1, summary := some (summaryAdd m r) } := by
  simp [ringStore, hm, Nat.not_lt.mpr hheld]

/-- The record is stored. -/
theorem ringStore_stored (hm : f.summary = none) (hheld : ringHeld f < 63) (r : ErrRecord) :
    ringStore f r = { f with ring := f.ring ++ [r], counters := cntAdd f.counters (8 * r.sev) 1 } := by
  simp [ringStore, hm, hheld]

/-- The record is lost and opens a summary. -/
theorem ringStore_opening (hm : f.summary = none) (hheld : 63 ≤ ringHeld f) (r : ErrRecord) :
    ringStore f r = { f with overflow := f.overflow + 1, summary := some (summaryOpen r) } := by
  simp [ringStore, hm, Nat.not_lt.mpr hheld]

theorem ringStore_ok (h : RingOk f) (r : ErrRecord) : RingOk (ringStore f r) := by
  obtain ⟨hheld, hclosed⟩ := h
  cases hm : f.summary with
  | some m =>
    rw [ringHeld_open hm] at hheld
    by_cases hlow : ringHeld f < 63
    · rw [ringHeld_open hm] at hlow
      simp [ringStore_closing hm (by rwa [ringHeld_open hm]), RingOk, ringHeld]
      omega
    · rw [ringStore_lost hm (by omega)]
      exact ⟨hheld, nofun⟩
  | none =>
    have hle := hclosed hm
    rw [ringHeld_closed hm] at hle
    by_cases hlow : ringHeld f < 63
    · rw [ringHeld_closed hm] at hlow
      simp [ringStore_stored hm (by rwa [ringHeld_closed hm]), RingOk, ringHeld, hm]
      omega
    · rw [ringStore_opening hm (by omega)]
      exact ⟨Nat.succ_le_succ hle, nofun⟩

theorem foldl_ringStore_ok (h : RingOk f) (rs : List ErrRecord) : RingOk (rs.foldl ringStore f) :=
  List.foldlRecOn rs ringStore h fun _ hf r _ => ringStore_ok hf r

/-- A ring from which the oldest record was taken is within the bound. -/
theorem ringTake_ok (h : RingOk f) (e : ringTake f = some (r, g)) : RingOk g := by
  obtain ⟨hheld, hclosed⟩ := h
  unfold ringTake at e
  split at e
  · next hr =>
    cases e
    simp only [RingOk, ringHeld, hr, List.length_cons] at hheld hclosed ⊢
    exact ⟨by omega, fun hm => by have := hclosed hm; omega⟩
  · next hr =>
    split at e
    · cases e
      exact ringOk_of_empty hr rfl
    · nomatch e

theorem ringTakeN_ok (h : RingOk f) (n : Nat) : RingOk (ringTakeN n f).2 := by
  induction n generalizing f with
  | zero => exact h
  | succ n ih =>
    unfold ringTakeN
    split
    · exact h
    · next e => exact ih (ringTake_ok h e)

end Ring

/-! ### The package's registers (Table 20-10, R613) -/

section Registers
variable {p : PkgState}

theorem pkgOk_reset : PkgOk {} := ⟨by decide, by decide, by decide, by decide, by decide, Nat.two_pow_pos _, fun _ h => nomatch h⟩

/-- Another instruction, another level of the board's and other driven cells leave the registers in their bits. -/
theorem pkgOk_driven (h : PkgOk p) {ir : TapIr} {board : Nat} {d : Option Nat} (hd : ∀ v, d = some v → v < 2 ^ 1211) :
    PkgOk { p with ir := ir, gpioBoard := board, driven := d } := by
  obtain ⟨hin, hdir, hout, hod, hchg, hb, _⟩ := h
  exact ⟨hin, hdir, hout, hod, hchg, hb, hd⟩

theorem pkgOk_boundary (h : PkgOk p) {b : Nat} (hb : b < 2 ^ 1211) : PkgOk { p with boundary := b } := by
  obtain ⟨hin, hdir, hout, hod, hchg, _, hd⟩ := h
  exact ⟨hin, hdir, hout, hod, hchg, hb, hd⟩

theorem pkgOk_driveBoundary (h : PkgOk p) : PkgOk { p with driven := some p.boundary } := by
  obtain ⟨hin, hdir, hout, hod, hchg, hb, _⟩ := h
  exact ⟨hin, hdir, hout, hod, hchg, hb, fun v hv => by cases hv; exact hb⟩

theorem putBit_lt {v i n : Nat} (hv : v < 2 ^ n) (hi : i < n) (b : Bool) : putBit v i b < 2 ^ n := by
  cases b with
  | true => exact Nat.or_lt_two_pow hv (Nat.pow_lt_pow_right (by decide) hi)
  | false =>
    simp only [putBit, clearBit, Bool.false_eq_true, if_false]
    split
    · exact Nat.lt_of_le_of_lt (Nat.sub_le _ _) hv
    · exact hv

/-- 16 balls have 16 levels. -/
theorem gpioLevels_lt (p : PkgState) : gpioLevels p < 2 ^ 16 :=
  List.foldlRecOn (List.range 16) _ (motive := fun v => v < 2 ^ 16) (by decide) fun _ hv k hk => putBit_lt hv (List.mem_range.mp hk) _

theorem gpioSample_ok (h : PkgOk p) : PkgOk (gpioSample p) := by
  obtain ⟨hin, hdir, hout, hod, hchg, hb, hd⟩ := h
  have hl := gpioLevels_lt p
  exact ⟨hl, hdir, hout, hod, Nat.or_lt_two_pow hchg (Nat.xor_lt_two_pow hin hl), hb, hd⟩

theorem gpioRegWrite_ok (h : PkgOk p) (off v : Nat) : PkgOk (gpioRegWrite p off v) := by
  have hw : v % 65536 < 2 ^ 16 := Nat.mod_lt _ (by decide)
  have ⟨hin, hdir, hout, hod, hchg, hb, hd⟩ := h
  unfold gpioRegWrite
  dsimp only
  split
  · exact gpioSample_ok (p := { p with gpioDir := v % 65536 }) ⟨hin, hw, hout, hod, hchg, hb, hd⟩
  · exact gpioSample_ok (p := { p with gpioOut := v % 65536 }) ⟨hin, hdir, hw, hod, hchg, hb, hd⟩
  · exact gpioSample_ok (p := { p with gpioOd := v % 65536 }) ⟨hin, hdir, hout, hw, hchg, hb, hd⟩
  · exact ⟨hin, hdir, hout, hod, Nat.lt_of_le_of_lt (Nat.sub_le _ _) hchg, hb, hd⟩
  · exact h

end Registers

/-! ### The laws -/

/-- The laws that every step keeps: a next state exists at all, R492's bound of the on-die ring, the reserved bits of the
GPIO registers with the cells of the boundary register, and the canonical form of the memories. -/
inductive Law | completion | ring | package | memory

/-- What a law asks of the parts of the state that any law speaks of: the ring, its summary, the package's registers, the
device's memory and the host's. -/
def Law.Asks : Law → List ErrRecord → Option Summary → PkgState → Memory → Memory → Prop
  | .completion, _, _, _, _, _ => True
  | .ring, r, m, _, _, _ => RingOk { ring := r, summary := m }
  | .package, _, _, p, _, _ => PkgOk p
  | .memory, _, _, _, m, h => m.wf = true ∧ h.wf = true

/-- The state satisfies a law. A state that differs in other parts alone satisfies it by the same proof, `⟨h.1⟩`. -/
structure Sound (I : Law) (s : State) : Prop where
  asks : I.Asks s.fault.ring s.fault.summary s.pkg s.mem s.host.mem

/-- A command answers a next state, and that state satisfies a law. -/
def Completes (I : Law) (r : Res) : Prop := ∃ t, r = .next t ∧ Sound I t

section Rules
variable {I : Law} {s t : State} {α β : Type}

section Updates
variable {pending now ready laneReady cnt plan ports hod stencil cls egress core table hbm span time fault host kept svc power log out free}

/-- An update of the fault manager, of the host's interface and of other parts that leaves the ring, its summary, the
package and the memories. -/
theorem Sound.updFault (h : Sound I s) (hr : fault.ring = s.fault.ring) (hm : fault.summary = s.fault.summary) (hh : host.mem = s.host.mem) :
    Sound I { pending, now, ready, laneReady, mem := s.mem, cnt, plan, ports, hod, stencil, cls, egress, core, table, hbm, span, time, fault, host
              kept, svc, power, log, pkg := s.pkg, out, free } :=
  ⟨by dsimp only; rw [hr, hm, hh]; exact h.1⟩

/-- An update of the host's interface and of other parts that leaves the host's memory. -/
theorem Sound.updHost (h : Sound I s) (hh : host.mem = s.host.mem) :
    Sound I { pending, now, ready, laneReady, mem := s.mem, cnt, plan, ports, hod, stencil, cls, egress, core, table, hbm, span, time
              fault := s.fault, host, kept, svc, power, log, pkg := s.pkg, out, free } := h.updFault rfl rfl hh

/-- An update of other parts of the state. -/
theorem Sound.upd (h : Sound I s) :
    Sound I { pending, now, ready, laneReady, mem := s.mem, cnt, plan, ports, hod, stencil, cls, egress, core, table, hbm, span, time
              fault := s.fault, host := s.host, kept, svc, power, log, pkg := s.pkg, out, free } := h.updFault rfl rfl rfl

end Updates

theorem snd_sound {a : α} (h : Sound I s) : Sound I (a, s).2 := h

theorem fst_sound {a : α} (h : Sound I s) : Sound I (s, a).1 := h

theorem snd_snd_sound {a : α} {b : β} (h : Sound I s) : Sound I (a, b, s).2.2 := h

theorem snd_snd_snd_sound {γ : Type} {a : α} {b : β} {c : γ} (h : Sound I s) : Sound I (a, b, c, s).2.2.2 := h

theorem Sound.of_snd_snd_snd {γ : Type} {p : α × β × γ × State} {a : α} {b : β} {c : γ} (h : Sound I p.2.2.2) (e : p = (a, b, c, t)) : Sound I t := by
  rw [e] at h; exact h

/-! ### Results that hold a state beside other values -/

theorem Sound.of_snd {p : α × State} {a : α} (h : Sound I p.2) (e : p = (a, t)) : Sound I t := by rw [e] at h; exact h

theorem Sound.of_snd_snd {p : α × β × State} {a : α} {b : β} (h : Sound I p.2.2) (e : p = (a, b, t)) : Sound I t := by rw [e] at h; exact h

/-! ### Conditionals -/

section Conditionals
variable {c : Prop} [Decidable c]

theorem ite_sound (hs : Sound I s) (ht : Sound I t) : Sound I (if c then s else t) := by split <;> assumption

theorem ite_snd_sound {p q : α × State} (hp : Sound I p.2) (hq : Sound I q.2) : Sound I (if c then p else q).2 := by split <;> assumption

theorem ite_fst_sound {p q : State × α} (hp : Sound I p.1) (hq : Sound I q.1) : Sound I (if c then p else q).1 := by split <;> assumption

theorem ite_snd_snd_sound {p q : α × β × State} (hp : Sound I p.2.2) (hq : Sound I q.2.2) : Sound I (if c then p else q).2.2 := by
  split <;> assumption

end Conditionals

/-! ### Results that may be missing -/

section Missing
variable {f : α → State} {o p : Option α} {c : Prop} [Decidable c]

theorem some_yields {a : α} (h : Sound I (f a)) : ∀ b, some a = some b → Sound I (f b) := fun _ e => Option.some.inj e ▸ h

theorem none_yields : ∀ b, none = some b → Sound I (f b) := nofun

theorem ite_yields (ho : ∀ b, o = some b → Sound I (f b)) (hp : ∀ b, p = some b → Sound I (f b)) :
    ∀ b, (if c then o else p) = some b → Sound I (f b) := by split <;> assumption

end Missing

/-- A command that answers a sound next state completes. -/
theorem next_sound (h : Sound I s) : Completes I (.next s) := ⟨s, rfl, h⟩

/-! ### Repetitions -/

theorem foldl_sound {f : State → α → State} {l : List α} (hs : Sound I s) (hf : ∀ x a, Sound I x → Sound I (f x a)) : Sound I (l.foldl f s) :=
  List.foldlRecOn l f hs fun x hx a _ => hf x a hx

theorem foldl_snd_sound {f : β × State → α → β × State} {l : List α} {p : β × State} (hp : Sound I p.2)
    (hf : ∀ x a, Sound I x.2 → Sound I (f x a).2) : Sound I (l.foldl f p).2 :=
  List.foldlRecOn l f (motive := fun x => Sound I x.2) hp fun x hx a _ => hf x a hx

theorem foldl_fst_sound {f : State × β → α → State × β} {l : List α} {p : State × β} (hp : Sound I p.1)
    (hf : ∀ x a, Sound I x.1 → Sound I (f x a).1) : Sound I (l.foldl f p).1 :=
  List.foldlRecOn l f (motive := fun x => Sound I x.1) hp fun x hx a _ => hf x a hx

theorem foldl_snd_snd_sound {γ : Type} {f : β × γ × State → α → β × γ × State} {l : List α} {p : β × γ × State} (hp : Sound I p.2.2)
    (hf : ∀ x a, Sound I x.2.2 → Sound I (f x a).2.2) : Sound I (l.foldl f p).2.2 :=
  List.foldlRecOn l f (motive := fun x => Sound I x.2.2) hp fun x hx a _ => hf x a hx

/-! ### Changes of the parts that laws speak of -/

/-- The fault manager's ring changes within its bound. -/
theorem Sound.setFault {f : FaultState} (h : Sound I s) (hf : RingOk s.fault → RingOk f) : Sound I { s with fault := f } := by
  obtain ⟨h⟩ := h
  cases I with
  | completion => exact ⟨trivial⟩
  | ring => exact ⟨hf h⟩
  | package => exact ⟨h⟩
  | memory => exact ⟨h⟩

/-- The package's registers change within their bits. -/
theorem Sound.setPkg {p : PkgState} (h : Sound I s) (hp : PkgOk s.pkg → PkgOk p) : Sound I { s with pkg := p } := by
  obtain ⟨h⟩ := h
  cases I with
  | completion => exact ⟨trivial⟩
  | ring => exact ⟨h⟩
  | package => exact ⟨hp h⟩
  | memory => exact ⟨h⟩

/-- The device's memory changes to one in canonical form. -/
theorem Sound.setMem {m : Memory} (h : Sound I s) (hm : s.mem.wf = true → m.wf = true) : Sound I { s with mem := m } := by
  obtain ⟨h⟩ := h
  cases I with
  | completion => exact ⟨trivial⟩
  | ring => exact ⟨h⟩
  | package => exact ⟨h⟩
  | memory => exact ⟨hm h.1, h.2⟩

/-- Bytes are written to the device's memory. -/
theorem Sound.writeMem (h : Sound I s) (a : Nat) (d : Bytes) : Sound I { s with mem := memWrite s.mem a d } :=
  h.setMem fun hm => memWrite_wf d _ a hm

/-- Bytes are written to the host's memory. -/
theorem hostWrite_sound (h : Sound I s) {a : Nat} {d : Bytes} : Sound I (hostWrite s a d) := by
  obtain ⟨h⟩ := h
  cases I with
  | completion => exact ⟨trivial⟩
  | ring => exact ⟨h⟩
  | package => exact ⟨h⟩
  | memory => exact ⟨h.1, memWrite_wf d _ a h.2⟩

end Rules

end Sys2Proof.Proofs.StepInvariants
end

section
/-!
PROOFS. The laws that every step keeps: the operations the units share.
-/

namespace Sys2Proof.Proofs.StepInvariants
open Sys2Proof Sys2Proof.Machine

variable {I : Law} {s : State}

/-! ### Ops -/

theorem advanceTo_sound {tick : Nat} (hs : Sound I s) : Sound I (advanceTo s tick) :=
  ite_sound hs (.upd hs)

theorem signalVector_sound {n : Nat} (hs : Sound I s) : Sound I (signalVector s n) :=
  ite_sound (.updHost hs rfl) (.upd hs)

theorem raiseInt_sound {n : Nat} (hs : Sound I s) : Sound I (raiseInt s n) :=
  ite_sound hs (ite_sound (signalVector_sound (.updHost hs rfl)) (.updHost hs rfl))

theorem modMb_sound {n : Nat} {f : Mailbox → Mailbox} (hs : Sound I s) : Sound I (modMb s n f) :=
  .updHost hs rfl

theorem replyWith_sound {n : Nat} {r : Reply} (hs : Sound I s) : Sound I (replyWith s n r) :=
  modMb_sound hs

theorem reply_sound {n status : Nat} {data : Bytes} (hs : Sound I s) : Sound I (reply s n status data) :=
  replyWith_sound hs

theorem whenReady_sound {mb bit : Nat} {k : State → State} (hs : Sound I s) (hk : ∀ x, Sound I x → Sound I (k x)) :
     Sound I (whenReady s mb bit k) :=
  ite_sound (hk _ hs) (reply_sound hs)

theorem settleWaits_sound (hs : Sound I s) : Sound I (settleWaits s) :=
  .updHost hs rfl

theorem setReady_sound {i : Nat} {b : Bool} (hs : Sound I s) : Sound I (setReady s i b) :=
  ite_sound hs (settleWaits_sound (raiseInt_sound (.updHost hs rfl)))

theorem flushVectors_sound (hs : Sound I s) : Sound I (flushVectors s) :=
  foldl_sound hs (fun _ _ hx => ite_sound (signalVector_sound (.updHost hx rfl)) hx)

theorem refreshDma_sound (hs : Sound I s) : Sound I (refreshDma s) :=
  flushVectors_sound (setReady_sound hs)

theorem hostCount_sound {off n : Nat} (hs : Sound I s) : Sound I (hostCount s off n) :=
  .updHost hs rfl

theorem logCount_sound {id n : Nat} (hs : Sound I s) : Sound I (logCount s id n) :=
  .upd hs

theorem logEvent_sound {r : ErrRecord} (hs : Sound I s) : Sound I (logEvent s r) :=
  ite_sound hs (ite_sound hs (ite_sound (logCount_sound hs) (.upd hs)))

theorem logRecord_sound {r : ErrRecord} (hs : Sound I s) : Sound I (logRecord s r) :=
  logEvent_sound (logCount_sound hs)

theorem assertFaultN_sound (hs : Sound I s) : Sound I (assertFaultN s) :=
  raiseInt_sound (.upd hs)

theorem putRecord_sound {r : ErrRecord} (hs : Sound I s) : Sound I (putRecord s r) := by
  have hr : Sound I (logRecord { s with fault := ringStore s.fault r } r) := logRecord_sound (hs.setFault fun h => ringStore_ok h r)
  exact ite_sound (assertFaultN_sound hr) hr

theorem record_sound {sev cls code : Nat} {l : Loc} {detail : Bytes} {injected : Bool} (hs : Sound I s) :
     Sound I (record s sev cls code l detail injected) :=
  putRecord_sound hs

theorem svcRecord_sound {sev cls code : Nat} {l : Loc} {detail : Bytes} (hs : Sound I s) : Sound I (svcRecord s sev cls code l detail) :=
  ite_sound (putRecord_sound hs) (ite_sound (assertFaultN_sound (logRecord_sound (.upd hs))) (logRecord_sound (.upd hs)))

theorem faultCount_sound {off n : Nat} (hs : Sound I s) : Sound I (faultCount s off n) :=
  .updFault hs rfl rfl rfl

theorem emit_sound {o : Output} (hs : Sound I s) : Sound I (emit s o) :=
  .upd hs

theorem drawFree_sound (hs : Sound I s) : Sound I (drawFree s).2 :=
  snd_sound (.upd hs)

/-! ### Cross -/

theorem planStagingToLoaded_sound (hs : Sound I s) : Sound I (planStagingToLoaded s) :=
  ite_sound (.upd hs) hs

theorem planHawkRestart_sound (hs : Sound I s) : Sound I (planHawkRestart s) := by
  unfold planHawkRestart
  split
  · exact hs
  · exact ite_sound hs (.upd hs)

theorem dieWipe_sound (hs : Sound I s) : Sound I (dieWipe s) := by
  have hf : Sound I { s with fault := { marks := s.fault.marks.filter (fun m => m.loc.l6 == 1) } } := hs.setFault fun _ => ringOk_of_empty
      rfl rfl
  exact .updHost (hf.setMem fun _ => rfl) rfl

/-! ### Firmware -/

theorem mramWrite_sound {pulses b : Nat} (hs : Sound I s) : Sound I (mramWrite pulses s b) :=
  .upd (logCount_sound (logCount_sound hs))

theorem serviceRecord_sound {sev code n : Nat} {detail : Bytes} (hs : Sound I s) : Sound I (serviceRecord s sev code n detail) :=
  svcRecord_sound hs

theorem journalCopy_sound {i pulses : Nat} (hs : Sound I s) : Sound I (journalCopy s i pulses) := by
  unfold journalCopy
  dsimp only
  split
  · exact hs
  · exact ite_sound (foldl_sound (.upd hs) (fun _ _ hx => mramWrite_sound hx)) (.upd hs)

theorem journalWrite_sound {i : Nat} {data : Bytes} {pulses : Nat} (hs : Sound I s) : Sound I (journalWrite s i data pulses) :=
  foldl_sound (.upd hs) (fun _ _ hx => mramWrite_sound hx)

theorem journalRepair_sound (hs : Sound I s) : Sound I (journalRepair s) :=
  .upd hs

theorem sendUpdate_sound {addr : Bytes} {port type session seq : Nat} {body : Bytes} (hs : Sound I s) :
     Sound I (sendUpdate s addr port type session seq body) :=
  emit_sound hs

theorem closeSession_sound {reason : Nat} (hs : Sound I s) : Sound I (closeSession s reason) :=
  ite_sound hs (.upd (serviceRecord_sound (raiseInt_sound (ite_sound hs (sendUpdate_sound (drawFree_sound hs))))))

theorem hawkRestartNow_sound (hs : Sound I s) : Sound I (hawkRestartNow s) :=
  raiseInt_sound (setReady_sound (setReady_sound (planHawkRestart_sound (.updHost hs rfl))))

theorem fallback_sound {reason : Nat} (hs : Sound I s) : Sound I (fallback s reason) :=
  ite_sound hs (logCount_sound (serviceRecord_sound (.upd hs)))

theorem hawkRestartDue_sound {activation : Bool} (hs : Sound I s) : Sound I (hawkRestartDue s activation) :=
  ite_sound hs (ite_sound (.updHost hs rfl) (hawkRestartNow_sound (ite_sound (fallback_sound hs) hs)))

theorem fallbackRestart_sound {reason : Nat} (hs : Sound I s) : Sound I (fallbackRestart s reason) :=
  hawkRestartDue_sound (fallback_sound hs)

theorem activateFirmware_sound (hs : Sound I s) : Sound I (activateFirmware s) :=
  hawkRestartDue_sound (logCount_sound (serviceRecord_sound (.upd hs)))

theorem rollbackFirmware_sound (hs : Sound I s) : Sound I (rollbackFirmware s) := by
  unfold rollbackFirmware
  split
  · exact .upd hs
  · exact .upd hs
  · exact fallbackRestart_sound hs
  · exact hs
  · exact hs

theorem mramRecord_sound {sev code b byte : Nat} (hs : Sound I s) : Sound I (mramRecord s sev code b byte) :=
  svcRecord_sound hs

theorem takeDonor_sound {b byte : Nat} (hs : Sound I s) : Sound I (takeDonor s b byte).1 :=
  ite_fst_sound (ite_fst_sound (fst_sound (mramRecord_sound (.upd (.upd hs)))) (fst_sound (.upd hs))) (ite_fst_sound (fst_sound (.upd hs))
      (ite_fst_sound (fst_sound (mramRecord_sound (.upd hs))) (ite_fst_sound (fst_sound (mramRecord_sound (.upd hs))) (fst_sound hs))))

theorem retireBlock_sound {b byte : Nat} (hs : Sound I s) : Sound I (retireBlock s b byte) :=
  ite_sound hs (ite_sound (mramRecord_sound (.upd hs)) (ite_sound (mramRecord_sound (.upd (takeDonor_sound hs))) (takeDonor_sound hs)))

theorem loseItem_sound {it : StoreItem} (hs : Sound I s) : Sound I (loseItem s it) := by
  unfold loseItem
  split
  · exact .upd hs
  · exact .upd hs
  · exact .upd hs
  · dsimp only
    split
    · exact rollbackFirmware_sound (.upd hs)
    · exact rollbackFirmware_sound (.upd hs)
    · exact fallbackRestart_sound (.upd hs)
    · exact .upd hs
    · exact .upd hs
  · exact .upd (journalRepair_sound hs)
  · exact .upd hs
  · exact svcRecord_sound (logCount_sound (.upd hs))

/-! ### Errors -/

theorem clusterDown_sound {n : Nat} (hs : Sound I s) : Sound I (clusterDown s n) :=
  setReady_sound (.updHost hs rfl)

theorem unitReadyClear_sound {u : Loc} (hs : Sound I s) : Sound I (unitReadyClear s u) := by
  unfold unitReadyClear
  refine ite_sound ?_ ?_
  · refine clusterDown_sound ?_
    split
    · exact setReady_sound hs
    · exact hs
  · split
    · exact setReady_sound hs
    · exact hs

theorem decideDevice_sound {cls code loc : Nat} (hs : Sound I s) : Sound I (decideDevice s cls code loc) := by
  unfold decideDevice
  split
  · exact hs
  · exact .updFault hs rfl rfl rfl

theorem escalated_sound {sev old cls code : Nat} {l : Loc} (hs : Sound I s) : Sound I (escalated s sev old cls code l) :=
  faultCount_sound (record_sound hs)

theorem startRestart_sound {u : Loc} {cls code : Nat} {mailbox : Option Nat} (hs : Sound I s) :
     Sound I (startRestart s u cls code mailbox) := by
  unfold startRestart
  refine ite_sound (decideDevice_sound (escalated_sound (.updFault hs rfl rfl rfl))) ?_
  split
  · exact decideDevice_sound (.updFault hs rfl rfl rfl)
  · exact ite_sound (hawkRestartNow_sound (ite_sound (fallback_sound (record_sound (unitReadyClear_sound (faultCount_sound (record_sound
      (.updFault (.updFault hs rfl rfl rfl) rfl rfl rfl)))))) (record_sound (unitReadyClear_sound (faultCount_sound (record_sound
      (.updFault (.updFault hs rfl rfl rfl) rfl rfl rfl))))))) (unitReadyClear_sound (faultCount_sound (record_sound (.updFault (.updFault
      hs rfl rfl rfl) rfl rfl rfl))))

theorem handleError_sound {sev cls code : Nat} {l : Loc} (hs : Sound I s) : Sound I (handleError s sev cls code l) := by
  unfold handleError
  refine ite_sound hs ?_
  split
  · exact decideDevice_sound (escalated_sound hs)
  · exact ite_sound (decideDevice_sound hs) (ite_sound (ite_sound (decideDevice_sound hs) (startRestart_sound hs)) (ite_sound (.updFault hs
      rfl rfl rfl) (ite_sound (decideDevice_sound (escalated_sound (.updFault (.updFault hs rfl rfl rfl) rfl rfl rfl))) (startRestart_sound
      (escalated_sound (.updFault (.updFault hs rfl rfl rfl) rfl rfl rfl))))))

theorem errorIn_sound {sev cls code : Nat} {l : Loc} {detail : Bytes} {injected : Bool} (hs : Sound I s) :
     Sound I (errorIn s sev cls code l detail injected) :=
  handleError_sound (record_sound hs)

theorem clearMark_sound {l : Loc} {w : Nat} (hs : Sound I s) : Sound I (clearMark s l w) :=
  .updFault hs rfl rfl rfl

end Sys2Proof.Proofs.StepInvariants
end

section
/-!
PROOFS. The laws that every step keeps: power, the package and the logbook.
-/

namespace Sys2Proof.Proofs.StepInvariants
open Sys2Proof Sys2Proof.Machine

variable {I : Law} {s : State}

/-! ### Power -/

theorem powerRecord_sound {sev code : Nat} {l : Loc} {detail : Bytes} (hs : Sound I s) : Sound I (powerRecord s sev code l detail) :=
  svcRecord_sound hs

theorem deviceRestartNow_sound {cls code loc : Nat} (hs : Sound I s) : Sound I (deviceRestartNow s cls code loc) :=
  .upd (logCount_sound (assertFaultN_sound (dieWipe_sound (fallback_sound hs))))

theorem dieRelease_sound (hs : Sound I s) : Sound I (dieRelease s) := by
  refine ite_sound hs (.upd (Sound.setFault (dieWipe_sound hs) fun h => foldl_ringStore_ok ?_ _))
  split
  · exact ringStore_ok h _
  · exact h

theorem execProcessorResetRelease_sound (hs : Sound I s) : Completes I (execProcessorResetRelease s) :=
  next_sound (ite_sound (dieRelease_sound (ite_sound (advanceTo_sound hs) hs)) hs)

theorem powerOff_sound (hs : Sound I s) : Sound I (powerOff s) :=
  .upd (Sound.setPkg (dieWipe_sound hs) fun _ => pkgOk_reset)

theorem execVinUvlo_sound (hs : Sound I s) : Completes I (execVinUvlo s) :=
  next_sound (ite_sound (powerOff_sound hs) hs)

theorem execVinValid_sound (hs : Sound I s) : Completes I (execVinValid s) :=
  next_sound (ite_sound hs (fallback_sound (.upd (powerOff_sound hs))))

theorem execRailGroupUp_sound {g : RailGroup} (hs : Sound I s) : Completes I (execRailGroupUp g s) := by
  unfold execRailGroupUp
  refine next_sound ?_
  split
  · exact ite_sound (.upd hs) hs
  · exact ite_sound hs (.upd (ite_sound (advanceTo_sound hs) hs))
  · exact ite_sound hs (ite_sound (dieRelease_sound (.upd hs)) (.upd hs))

theorem railDown_sound (hs : Sound I s) : Sound I (execRailFault.railDown s) :=
  ite_sound hs (.upd (deviceRestartNow_sound (powerRecord_sound hs)))

theorem execRailFault_sound {g : RailGroup} (hs : Sound I s) : Completes I (execRailFault g s) := by
  cases g with
  | one => exact next_sound (powerOff_sound hs)
  | two => exact next_sound (railDown_sound hs)
  | three => exact next_sound (railDown_sound hs)

theorem withAlert_sound {old new : State} (_ : Sound I old) (hnew : Sound I new) : Sound I (withAlert old new) :=
  ite_sound hnew (.upd hnew)

theorem execVinAverage_sound {mv ma : Nat} (hs : Sound I s) : Completes I (execVinAverage mv ma s) :=
  next_sound (ite_sound hs (withAlert_sound hs (ite_sound (powerRecord_sound (ite_sound (powerRecord_sound (logCount_sound (.upd hs)))
      (logCount_sound (.upd hs)))) (ite_sound (powerRecord_sound (logCount_sound (.upd hs))) (logCount_sound (.upd hs))))))

theorem governorReady_sound (hs : Sound I s) : Sound I (governorReady s) :=
  ite_sound (ite_sound (setReady_sound (.updHost (setReady_sound hs) rfl)) (setReady_sound hs)) hs

theorem sensorLost_sound {n : Nat} {p : Plumb} (hs : Sound I s) : Sound I (sensorLost s n p) :=
  ite_sound hs (powerRecord_sound (.upd hs))

theorem marginLaw_sound {n : Nat} {p : Plumb} {d : Nat} (hs : Sound I s) : Sound I (marginLaw s n p d) :=
  ite_sound (ite_sound (powerRecord_sound (.upd (logCount_sound (.upd hs)))) (logCount_sound (.upd hs))) (ite_sound (.upd hs) (.upd hs))

theorem execPlumbReading_sound {c : ClusterId} {ps : Option Nat} {rate : Nat} (hs : Sound I s) :
     Completes I (execPlumbReading c ps rate s) := by
  unfold execPlumbReading
  refine next_sound (ite_sound hs ?_)
  dsimp only
  split
  · exact governorReady_sound (withAlert_sound hs (sensorLost_sound hs))
  · exact ite_sound (governorReady_sound (withAlert_sound hs (sensorLost_sound hs))) (governorReady_sound (withAlert_sound hs (ite_sound
      (logCount_sound (ite_sound (.upd hs) (marginLaw_sound hs))) (ite_sound (.upd hs) (marginLaw_sound hs)))))

theorem execTempMeasure_sound {cs : List Int} {stage svc : Int} (hs : Sound I s) : Completes I (execTempMeasure cs stage svc s) :=
  next_sound (ite_sound hs (ite_sound (.upd hs) (withAlert_sound hs (ite_sound (powerRecord_sound (ite_sound (powerRecord_sound (.upd hs))
      (.upd hs))) (ite_sound (powerRecord_sound (.upd hs)) (.upd hs))))))

theorem execSmbusReadWord_sound {cmd : BitVec 8} (hs : Sound I s) : Completes I (execSmbusReadWord cmd s) := by
  unfold execSmbusReadWord
  refine next_sound (ite_sound hs ?_)
  split
  · exact emit_sound hs
  · exact emit_sound hs

theorem execSmbusAlertResponse_sound (hs : Sound I s) : Completes I (execSmbusAlertResponse s) :=
  next_sound (ite_sound (emit_sound (.upd hs)) hs)

theorem execSmbusNack_sound {_cmd : BitVec 8} {_write : Bool} (hs : Sound I s) : Completes I (execSmbusNack _cmd _write s) :=
  next_sound (ite_sound (emit_sound hs) hs)

theorem pfailDelta_sound (hs : Sound I s) : Sound I (pfailDelta s) :=
  ite_sound hs (ite_sound (.upd hs) (logCount_sound (.upd hs)))

theorem execPfailAssert_sound (hs : Sound I s) : Completes I (execPfailAssert s) :=
  next_sound (ite_sound hs (ite_sound (.upd hs) (.upd (pfailDelta_sound (deviceRestartNow_sound (logCount_sound (powerRecord_sound hs)))))))

theorem execPfailRelease_sound (hs : Sound I s) : Completes I (execPfailRelease s) :=
  next_sound (ite_sound (.upd hs) hs)

theorem resetPinRestart_sound (hs : Sound I s) : Sound I (resetPinRestart s) :=
  ite_sound hs (deviceRestartNow_sound (logCount_sound (powerRecord_sound hs)))

theorem execResetAssert_sound (hs : Sound I s) : Completes I (execResetAssert s) :=
  next_sound (ite_sound hs (.upd (resetPinRestart_sound hs)))

theorem execResetRelease_sound (hs : Sound I s) : Completes I (execResetRelease s) :=
  next_sound (ite_sound (.upd hs) hs)

theorem execTestEnRise_sound (hs : Sound I s) : Completes I (execTestEnRise s) :=
  next_sound (ite_sound hs (.upd (resetPinRestart_sound hs)))

theorem execTestEnFall_sound (hs : Sound I s) : Completes I (execTestEnFall s) :=
  have h (ir : TapIr) : Sound I { s with pkg := { s.pkg with ir := ir, driven := none } } := hs.setPkg fun h => pkgOk_driven h nofun
  next_sound (ite_sound (.upd (h _)) hs)

theorem execServiceDieStart_sound (hs : Sound I s) : Completes I (execServiceDieStart s) :=
  next_sound (ite_sound hs (setReady_sound (journalRepair_sound (.upd hs))))

theorem execOnDieMemoryInit_sound (hs : Sound I s) : Completes I (execOnDieMemoryInit s) :=
  next_sound (ite_sound hs (governorReady_sound (foldl_sound (.upd hs) (fun _ _ hx => setReady_sound hx))))

theorem execPcieEndpointUp_sound (hs : Sound I s) : Completes I (execPcieEndpointUp s) :=
  next_sound (ite_sound (refreshDma_sound (.upd hs)) hs)

/-! ### Logbook -/

theorem replyBulk_sound {mb : Nat} {indOut : Option (BitVec 64)} {data direct : Bytes} (hs : Sound I s) :
     Sound I (replyBulk s mb indOut data direct) := by
  cases indOut with
  | none => exact reply_sound hs
  | some a => exact ite_sound (replyWith_sound (hostCount_sound (hostWrite_sound hs))) (replyWith_sound hs)

theorem withPayload_sound {mb : Nat} {payload : Option Bytes} {len : Nat} {k : Bytes → State → State} (hs : Sound I s) (hk : ∀ x0 x1, Sound
    I x1 → Sound I (k x0 x1)) :
     Sound I (withPayload s mb payload len k) := by
  unfold withPayload
  refine ite_sound (reply_sound hs) ?_
  split
  · exact reply_sound (ite_sound (hostCount_sound hs) hs)
  · exact ite_sound (reply_sound hs) (modMb_sound (hk _ _ (hostCount_sound hs)))

theorem writeGeneration_sound {pulses : Nat} (hs : Sound I s) : Sound I (writeGeneration s pulses) :=
  foldl_sound (.upd hs) (fun _ _ hx => mramWrite_sound hx)

theorem writeDelta_sound {pulses : Nat} (hs : Sound I s) : Sound I (writeDelta s pulses) :=
  mramWrite_sound (.upd hs)

theorem execLogbookDeltaWrite_sound {pulses : Fin 9} (hs : Sound I s) : Completes I (execLogbookDeltaWrite pulses s) :=
  next_sound (ite_sound hs (ite_sound (.upd (ite_sound (logCount_sound (logCount_sound hs)) (logCount_sound hs))) (ite_sound
      (writeGeneration_sound (.upd (ite_sound (logCount_sound (logCount_sound hs)) (logCount_sound hs)))) (writeDelta_sound (.upd
      (ite_sound (logCount_sound (logCount_sound hs)) (logCount_sound hs)))))))

theorem execLogbookGenerationWrite_sound {pulses : Fin 9} (hs : Sound I s) : Completes I (execLogbookGenerationWrite pulses s) :=
  next_sound (ite_sound (writeGeneration_sound hs) hs)

theorem execLogbookMount_sound (hs : Sound I s) : Completes I (execLogbookMount s) :=
  next_sound (ite_sound hs (setReady_sound (ite_sound (powerRecord_sound (ite_sound (powerRecord_sound (logCount_sound (logCount_sound
      (.upd hs)))) (logCount_sound (.upd hs)))) (ite_sound (powerRecord_sound (logCount_sound (logCount_sound (.upd hs)))) (logCount_sound
      (.upd hs))))))

theorem histSample_sound {h k : Nat} (hs : Sound I s) : Sound I (histSample s h k) :=
  logCount_sound hs

theorem execHistogramSample_sound (hs : Sound I s) : Completes I (execHistogramSample s) := by
  unfold execHistogramSample
  refine next_sound (ite_sound hs ?_)
  refine ite_sound (histSample_sound (histSample_sound hs)) ?_
  dsimp only
  split
  · exact histSample_sound (foldl_sound (histSample_sound (histSample_sound (histSample_sound (histSample_sound hs)))) (fun _ _ hx =>
      histSample_sound hx))
  · exact foldl_sound (histSample_sound (histSample_sound (histSample_sound (histSample_sound hs)))) (fun _ _ hx1 => histSample_sound hx1)

theorem execLogbookStatus_sound {mb : MbId} (hs : Sound I s) : Completes I (execLogbookStatus mb s) :=
  next_sound (whenReady_sound hs (fun _ hx => reply_sound hx))

theorem execLogbookRead_sound {mb : MbId} {kind : BitVec 8} {first : BitVec 64} {count : BitVec 32} {ind : Option (BitVec 64)} (hs : Sound I s) :
     Completes I (execLogbookRead mb kind first count ind s) :=
  next_sound (whenReady_sound hs (fun _ hx => ite_sound (ite_sound (reply_sound hx) (replyBulk_sound hx)) (ite_sound (ite_sound
      (reply_sound hx) (replyBulk_sound hx)) (reply_sound hx))))

theorem execHistogramRead_sound {mb : MbId} {id : BitVec 32} {fb n : BitVec 16} (hs : Sound I s) :
     Completes I (execHistogramRead mb id fb n s) := by
  unfold execHistogramRead
  refine next_sound ?_
  refine whenReady_sound hs ?_
  intro _ hx
  split
  · exact reply_sound hx
  · exact ite_sound (reply_sound hx) (reply_sound hx)

/-! ### Package -/

theorem execGpioWrite_sound {reg : BitVec 6} {v : BitVec 64} (hs : Sound I s) : Completes I (execGpioWrite reg v s) :=
  next_sound (ite_sound (hs.setPkg fun h => gpioRegWrite_ok h _ _) hs)

theorem execGpioInputChange_sound {levels : BitVec 16} (hs : Sound I s) : Completes I (execGpioInputChange levels s) :=
  next_sound (ite_sound (hs.setPkg fun h => gpioSample_ok (pkgOk_driven (board := levels.toNat) h h.2.2.2.2.2.2)) hs)

theorem tapSelect_sound {ir : TapIr} {needsTestEn : Bool} (hs : Sound I s) : Sound I (tapSelect s ir needsTestEn) :=
  hs.setPkg fun h => pkgOk_driven h fun _ hv => nomatch hv

theorem tapBypassScan_sound (hs : Sound I s) : Sound I (tapBypassScan s) :=
  emit_sound hs

theorem tapBoundaryScan_sound {captured shifted : Nat} (hs : Sound I s) : Sound I (tapBoundaryScan s captured shifted) :=
  (emit_sound hs).setPkg fun h => pkgOk_boundary h (Nat.mod_lt _ (Nat.two_pow_pos _))

theorem tapExternal_sound {ir : TapIr} {captured shifted : Nat} (hs : Sound I s) : Sound I (tapExternal s ir captured shifted) :=
  ite_sound hs (ite_sound ((tapBoundaryScan_sound (tapSelect_sound hs)).setPkg fun h => pkgOk_driveBoundary h) (tapBypassScan_sound
      (tapSelect_sound hs)))

theorem execTapReset_sound (hs : Sound I s) : Completes I (execTapReset s) :=
  next_sound (hs.setPkg fun h => pkgOk_driven h fun _ hv => nomatch hv)

theorem execExtest_sound {captured shifted : Nat} (hs : Sound I s) : Completes I (execExtest captured shifted s) :=
  next_sound (tapExternal_sound hs)

theorem execSamplePreload_sound {captured shifted : Nat} (hs : Sound I s) : Completes I (execSamplePreload captured shifted s) :=
  next_sound (ite_sound (tapBoundaryScan_sound (tapSelect_sound hs)) hs)

theorem execIdcode_sound (hs : Sound I s) : Completes I (execIdcode s) :=
  next_sound (ite_sound (emit_sound (tapSelect_sound hs)) hs)

theorem execHighz_sound (hs : Sound I s) : Completes I (execHighz s) :=
  next_sound (ite_sound (tapBypassScan_sound (tapSelect_sound hs)) hs)

theorem execClamp_sound (hs : Sound I s) : Completes I (execClamp s) := by
  refine next_sound (ite_sound (tapBypassScan_sound ((tapSelect_sound hs).setPkg fun h => ?_)) hs)
  split
  · exact pkgOk_driveBoundary h
  · exact pkgOk_driven h fun _ hv => nomatch hv

theorem execExtestPulse_sound {captured shifted : Nat} (hs : Sound I s) : Completes I (execExtestPulse captured shifted s) :=
  next_sound (tapExternal_sound hs)

theorem execExtestTrain_sound {captured shifted : Nat} (hs : Sound I s) : Completes I (execExtestTrain captured shifted s) :=
  next_sound (tapExternal_sound hs)

theorem execBypass_sound {_code : BitVec 8} (hs : Sound I s) : Completes I (execBypass _code s) :=
  next_sound (ite_sound (tapBypassScan_sound (tapSelect_sound hs)) hs)

end Sys2Proof.Proofs.StepInvariants
end

section
/-!
PROOFS. The laws that every step keeps: memory and packet buffers.
-/

namespace Sys2Proof.Proofs.StepInvariants
open Sys2Proof Sys2Proof.Machine

variable {I : Law} {s : State}

/-! ### Hbm -/

theorem qosCnt_sound {q off n : Nat} (hs : Sound I s) : Sound I (qosCnt s q off n) :=
  .upd hs

theorem pcCnt_sound {g off : Nat} (hs : Sound I s) : Sound I (pcCnt s g off) :=
  .upd hs

theorem rowCross_sound {q src g b r : Nat} (hs : Sound I s) : Sound I (rowCross s q src g b r) :=
  ite_sound (.upd hs) (record_sound (qosCnt_sound (.upd (.upd hs))))

theorem hbmActivate_sound {q src a : Nat} (hs : Sound I s) : Sound I (hbmActivate s q src a) :=
  ite_sound (rowCross_sound (pcCnt_sound (.upd hs))) (.upd (pcCnt_sound (.upd hs)))

theorem hbmLost_sound {a q src : Nat} {inj : Bool} (hs : Sound I s) : Sound I (hbmLost s a q src inj) := by
  unfold hbmLost
  exact handleError_sound (record_sound (pcCnt_sound (qosCnt_sound hs)))

theorem hbmCorrected_sound {a : Nat} {inj : Bool} (hs : Sound I s) : Sound I (hbmCorrected s a inj) :=
  ite_sound (record_sound (pcCnt_sound hs)) (.upd (record_sound (pcCnt_sound hs)))

theorem hbmReadLine_sound {q src line : Nat} (hs : Sound I s) : Sound I (hbmReadLine s q src line).2 := by
  unfold hbmReadLine
  dsimp only
  split
  · exact snd_sound (qosCnt_sound (hbmActivate_sound hs))
  · split
    · exact snd_sound (hbmLost_sound (qosCnt_sound (hbmActivate_sound hs)))
    · exact snd_sound (foldl_sound (qosCnt_sound (hbmActivate_sound hs)) (fun _ _ hx => hbmCorrected_sound hx))

theorem hbmRead_sound {q src a n : Nat} (hs : Sound I s) : Sound I (hbmRead s q src a n).2.2 := by
  unfold hbmRead
  refine snd_snd_sound ?_
  refine foldl_snd_sound (snd_sound hs) ?_
  intro _ _ hx
  split
  · exact hx
  · exact snd_sound (hbmReadLine_sound hx)

theorem dropResv_sound {a n : Nat} (hs : Sound I s) : Sound I (dropResv s a n) :=
  ite_sound (.upd hs) hs

theorem unmark_sound {w : Nat} (hs : Sound I s) : Sound I (unmark s w) :=
  ite_sound hs (clearMark_sound hs)

theorem hbmWriteLine_sound {q src a : Nat} {d : Bytes} (hs : Sound I s) : Sound I (hbmWriteLine s q src a d).2 := by
  unfold hbmWriteLine
  extract_lets line n s1 parts s2 s3 hbm s4
  have h1 : Sound I s1 := hbmActivate_sound hs
  split
  · exact hbmLost_sound h1
  · have h2 : Sound I s2 := foldl_sound h1 fun x w hx => by
      split
      · exact record_sound (pcCnt_sound (unmark_sound hx))
      · exact hx
    have h3 : Sound I s3 := foldl_sound h2 fun _ _ hx => unmark_sound hx
    have h4 : Sound I s4 := .upd h3
    exact qosCnt_sound (dropResv_sound (h4.writeMem a d))

theorem hbmWrite_sound {q src a : Nat} {d : Bytes} (hs : Sound I s) : Sound I (hbmWrite s q src a d).2 := by
  unfold hbmWrite
  refine foldl_snd_sound (snd_sound hs) ?_
  intro _ _ hx
  split
  · exact hx
  · exact snd_sound (hbmWriteLine_sound hx)

theorem hbmPut_sound {q src a : Nat} {d : Bytes} (hs : Sound I s) : Sound I (hbmPut s q src a d) :=
  hbmWrite_sound hs

theorem execHbmActivate_sound {g : Fin 128} {b : Fin 32} (hs : Sound I s) : Completes I (execHbmActivate g b s) := by
  unfold execHbmActivate
  refine next_sound ?_
  split
  · exact hs
  · exact .upd (ite_sound (qosCnt_sound (hbmActivate_sound hs)) (hbmActivate_sound hs))

theorem loadPart_sound {tid entry a st : Nat} {d : Bytes} (hs : Sound I s) : Sound I (loadPart s tid entry a st d) :=
  .upd hs

theorem storePart_sound {tid seq st : Nat} (hs : Sound I s) : Sound I (storePart s tid seq st) :=
  .upd hs

theorem qosDone_sound {r : HbmReq} (hs : Sound I s) : Sound I (qosDone s r) :=
  ite_sound (qosCnt_sound (.upd (qosCnt_sound hs))) (.upd (qosCnt_sound hs))

theorem hbmServe_sound {r : HbmReq} (hs : Sound I s) : Sound I (hbmServe s r).2.2 := by
  unfold hbmServe
  dsimp only
  split
  · exact snd_snd_sound (.upd (.upd (hbmReadLine_sound (.upd hs))))
  · exact snd_snd_sound (.upd (.upd (hbmWriteLine_sound (.upd hs))))

theorem putResv_sound {tid : Nat} {v : Option (Nat × Nat)} (hs : Sound I s) : Sound I (putResv s tid v) :=
  .upd hs

theorem lrDone_sound {tid entry a : Nat} (hs : Sound I s) : Sound I (lrDone s tid entry a) := by
  unfold lrDone
  split
  · exact putResv_sound hs
  · exact hs

theorem scDone_sound {r : HbmReq} {tid entry : Nat} (hs : Sound I s) : Sound I (scDone s r tid entry) :=
  ite_sound (loadPart_sound (qosDone_sound (hbmServe_sound (putResv_sound hs)))) (loadPart_sound (qosDone_sound (.upd (putResv_sound hs))))

theorem execHbmRequestDone_sound {g : Fin 128} {b : Fin 32} (hs : Sound I s) : Completes I (execHbmRequestDone g b s) := by
  unfold execHbmRequestDone
  refine next_sound ?_
  split
  · exact hs
  · split
    · exact scDone_sound hs
    · dsimp only
      split
      · exact loadPart_sound (qosDone_sound (hbmServe_sound hs))
      · exact loadPart_sound (ite_sound (lrDone_sound (qosDone_sound (hbmServe_sound hs))) (qosDone_sound (hbmServe_sound hs)))
      · exact storePart_sound (qosDone_sound (hbmServe_sound hs))
      · exact qosDone_sound (hbmServe_sound hs)

theorem execEccWriteback_sound (hs : Sound I s) : Completes I (execEccWriteback s) := by
  unfold execEccWriteback
  refine next_sound ?_
  split
  · exact hs
  · exact foldl_sound (qosCnt_sound (hbmActivate_sound (.upd hs))) (fun _ _ hx => ite_sound (unmark_sound hx) hx)

theorem execPatrolScrub_sound (hs : Sound I s) : Completes I (execPatrolScrub s) :=
  next_sound (ite_sound hs (.upd (pcCnt_sound (hbmReadLine_sound hs))))

theorem execTargetedRefresh_sound (hs : Sound I s) : Completes I (execTargetedRefresh s) := by
  unfold execTargetedRefresh
  refine next_sound ?_
  split
  · exact hs
  · exact pcCnt_sound (.upd hs)

theorem execHbmRefresh_sound {g : Fin 128} {b : Fin 32} {s0 : State} (hs0 : Sound I s0) : Completes I (execHbmRefresh g b s0) :=
  next_sound (ite_sound hs0 (ite_sound (pcCnt_sound (.upd (advanceTo_sound hs0))) (.upd (advanceTo_sound hs0))))

theorem execRefreshWindowEnd_sound {s0 : State} (hs0 : Sound I s0) : Completes I (execRefreshWindowEnd s0) :=
  next_sound (.upd (advanceTo_sound hs0))

theorem modStack_sound {n : Nat} {f : StackSt → StackSt} (hs : Sound I s) : Sound I (modStack s n f) :=
  .upd hs

theorem stackTemp_sound {n : Nat} {t : Int} (hs : Sound I s) : Sound I (stackTemp s n t) :=
  ite_sound (record_sound (modStack_sound hs)) (modStack_sound hs)

theorem execHbmTempRead_sound {t0 t1 t2 t3 : Int} (hs : Sound I s) : Completes I (execHbmTempRead t0 t1 t2 t3 s) :=
  next_sound (ite_sound (stackTemp_sound (stackTemp_sound (stackTemp_sound (stackTemp_sound hs)))) hs)

theorem zeroStack_sound {n : Nat} (hs : Sound I s) : Sound I (zeroStack s n) :=
  .updFault (hs.setMem fun h => filter_wf h _) rfl rfl rfl

theorem stackReply_sound {n : Nat} (hs : Sound I s) : Sound I (stackReply s n) := by
  unfold stackReply
  split
  · exact reply_sound (modStack_sound hs)
  · exact hs

theorem tablesReady_sound (hs : Sound I s) : Sound I (tablesReady s) :=
  ite_sound (setReady_sound (.upd hs)) hs

theorem execHbmTrainStep_sound {st : Fin 4} {passed : Bool} {report : Bytes} (hs : Sound I s) :
     Completes I (execHbmTrainStep st passed report s) :=
  next_sound (ite_sound hs (ite_sound (tablesReady_sound (stackReply_sound (setReady_sound (modStack_sound (zeroStack_sound (ite_sound
      (modStack_sound (modStack_sound hs)) (modStack_sound hs))))))) (ite_sound (modStack_sound (ite_sound (modStack_sound (modStack_sound
      hs)) (modStack_sound hs))) (ite_sound (modStack_sound (ite_sound (modStack_sound (modStack_sound hs)) (modStack_sound hs)))
      (stackReply_sound (record_sound (modStack_sound (ite_sound (modStack_sound (modStack_sound hs)) (modStack_sound hs)))))))))

theorem execHbmTrackingStep_sound {pc : Fin 128} {eye : Nat} {s0 : State} (hs0 : Sound I s0) :
     Completes I (execHbmTrackingStep pc eye s0) :=
  next_sound (ite_sound hs0 (ite_sound (pcCnt_sound (.upd (advanceTo_sound hs0))) (ite_sound (modStack_sound (pcCnt_sound (.upd
      (advanceTo_sound hs0)))) (record_sound (.upd (modStack_sound (pcCnt_sound (.upd (advanceTo_sound hs0)))))))))

theorem execHbmStatus_sound {mb : MbId} (hs : Sound I s) : Completes I (execHbmStatus mb s) :=
  next_sound (reply_sound hs)

theorem execHbmTrainReport_sound {mb : MbId} {stack : BitVec 8} {ind : Option (BitVec 64)} (hs : Sound I s) :
     Completes I (execHbmTrainReport mb stack ind s) := by
  unfold execHbmTrainReport
  refine next_sound ?_
  refine ite_sound (reply_sound hs) ?_
  dsimp only
  split
  · exact reply_sound hs
  · exact replyBulk_sound hs

theorem execHbmRetrain_sound {mb : MbId} {stack : BitVec 8} (hs : Sound I s) : Completes I (execHbmRetrain mb stack s) :=
  next_sound (ite_sound (reply_sound hs) (ite_sound (reply_sound hs) (setReady_sound (modStack_sound hs))))

/-! ### Buffers -/

theorem modPool_sound {p : Nat} {f : PoolSt → PoolSt} (hs : Sound I s) : Sound I (modPool s p f) :=
  .upd hs

theorem modWord_sound {h : Nat} {f : BufWord → BufWord} (hs : Sound I s) : Sound I (modWord s h f) :=
  .upd hs

theorem poolCnt_sound {p off : Nat} (hs : Sound I s) : Sound I (poolCnt s p off) :=
  .upd hs

theorem domPoolCnt_sound {d p off : Nat} (hs : Sound I s) : Sound I (domPoolCnt s d p off) :=
  .upd hs

theorem modHeld_sound {d p : Nat} {f : Nat → Nat} (hs : Sound I s) : Sound I (modHeld s d p f) :=
  .upd hs

theorem dupTouch_sound {l4 w : Nat} (hs : Sound I s) : Sound I (dupTouch s l4 w) := by
  unfold dupTouch
  dsimp only
  split
  · exact hs
  · exact ite_sound (errorIn_sound (clearMark_sound (clearMark_sound hs))) (record_sound (clearMark_sound (clearMark_sound hs)))

theorem hodTouch_sound {p w : Nat} (hs : Sound I s) : Sound I (hodTouch s p w) :=
  dupTouch_sound hs

theorem slotTouch_sound {t : Nat} (hs : Sound I s) : Sound I (slotTouch s t) :=
  ite_sound hs (foldl_sound hs (fun _ _ hx => dupTouch_sound hx))

theorem stateTouch_sound {h : Nat} (hs : Sound I s) : Sound I (stateTouch s h) := by
  unfold stateTouch
  dsimp only
  split
  · exact hs
  · exact record_sound (clearMark_sound hs)

theorem poolGrant_sound {d p : Nat} (hs : Sound I s) : Sound I (poolGrant s d p).2 := by
  unfold poolGrant
  dsimp only
  split
  · exact snd_sound hs
  · exact snd_sound (poolCnt_sound (modHeld_sound (.upd (modPool_sound (hodTouch_sound (hodTouch_sound hs))))))

theorem allocFrom_sound {d : Nat} {ps : List Nat} (hs : Sound I s) : Sound I (allocFrom s d ps).2 := by
  induction ps generalizing s with
  | nil => exact hs
  | cons p r ih =>
    unfold allocFrom
    split
    · exact poolGrant_sound hs
    · have h1 := ih (domPoolCnt_sound (d := d) (p := p) (off := 0x08) (poolCnt_sound (p := p) (off := refusalCounter ‹_›) hs))
      dsimp only
      split
      · next e => exact h1.of_snd e
      · next e => exact h1.of_snd e

theorem hodAlloc_sound {d n : Nat} (hs : Sound I s) : Sound I (hodAlloc s d n).2 := by
  unfold hodAlloc
  refine ite_snd_sound hs ?_
  split
  · exact hs
  · split
    · next e => exact ite_sound ((allocFrom_sound hs).of_snd e) (poolCnt_sound ((allocFrom_sound hs).of_snd e))
    · exact allocFrom_sound hs

theorem bufFree_sound {h : Nat} (hs : Sound I s) : Sound I (bufFree s h) :=
  ite_sound (ite_sound (modPool_sound (modWord_sound (poolCnt_sound (modHeld_sound (hodTouch_sound hs))))) (modPool_sound (modWord_sound
      (poolCnt_sound (modHeld_sound (hodTouch_sound hs)))))) (ite_sound (modPool_sound (modWord_sound (hodTouch_sound (poolCnt_sound
      (modHeld_sound (hodTouch_sound hs)))))) (modPool_sound (modWord_sound (poolCnt_sound (modHeld_sound (hodTouch_sound hs))))))

theorem bufDrop_sound {h : Nat} (hs : Sound I s) : Sound I (bufDrop s h) :=
  ite_sound hs (ite_sound (bufFree_sound (poolCnt_sound hs)) (modWord_sound (poolCnt_sound hs)))

theorem refReject_sound {h : Nat} {r : Requester} {x : RefReject} (hs : Sound I s) : Sound I (refReject s h r x) := by
  unfold refReject
  dsimp only
  split
  · refine record_sound ?_
    split
    · exact poolCnt_sound hs
    · exact hs
  · split
    · exact poolCnt_sound hs
    · exact hs

theorem modSlots_sound {t : Nat} {f : List Nat → List Nat} (hs : Sound I s) : Sound I (modSlots s t f) :=
  .upd hs

theorem hodHold_sound {h : Nat} {r : Requester} (hs : Sound I s) : Sound I (hodHold s h r).2 := by
  unfold hodHold
  dsimp only
  split
  · refine snd_sound ?_
    refine refReject_sound ?_
    refine stateTouch_sound ?_
    split
    · exact slotTouch_sound hs
    · exact hs
  · refine snd_sound ?_
    refine poolCnt_sound ?_
    refine modWord_sound ?_
    refine stateTouch_sound ?_
    split
    · exact slotTouch_sound hs
    · exact hs

theorem hodRelease_sound {h : Nat} {r : Requester} (hs : Sound I s) : Sound I (hodRelease s h r).2 := by
  unfold hodRelease
  dsimp only
  split
  · refine snd_sound ?_
    refine refReject_sound ?_
    refine ite_sound ?_ ?_
    · split
      · refine modSlots_sound ?_
        refine stateTouch_sound ?_
        split
        · exact slotTouch_sound hs
        · exact hs
      · refine stateTouch_sound ?_
        split
        · exact slotTouch_sound hs
        · exact hs
    · refine stateTouch_sound ?_
      split
      · exact slotTouch_sound hs
      · exact hs
  · refine snd_sound ?_
    refine bufDrop_sound ?_
    split
    · refine modSlots_sound ?_
      refine stateTouch_sound ?_
      split
      · exact slotTouch_sound hs
      · exact hs
    · refine stateTouch_sound ?_
      split
      · exact slotTouch_sound hs
      · exact hs

theorem unitRelease_sound {h l5 l4 : Nat} (hs : Sound I s) : Sound I (unitRelease s h l5 l4) :=
  ite_sound hs (hodRelease_sound hs)

theorem revokeRef_sound {h : Nat} (hs : Sound I s) : Sound I (revokeRef s h) :=
  poolCnt_sound (bufDrop_sound hs)

theorem recharge_sound {h d : Nat} (hs : Sound I s) : Sound I (recharge s h d) :=
  ite_sound hs (modWord_sound (modHeld_sound (modHeld_sound hs)))

theorem execHeadCacheRefill_sound {pool : Fin 5} (hs : Sound I s) : Completes I (execHeadCacheRefill pool s) :=
  next_sound (ite_sound hs (ite_sound (modPool_sound (foldl_sound hs (fun _ _ hx => hodTouch_sound hx))) (ite_sound (modPool_sound
      (hodTouch_sound hs)) hs)))

theorem cacheHandle_sound {h : Nat} (hs : Sound I s) : Sound I (cacheHandle s h) :=
  modWord_sound hs

theorem execBundleReadDone_sound {pool : Fin 5} {lost : Bool} (hs : Sound I s) : Completes I (execBundleReadDone pool lost s) := by
  unfold execBundleReadDone
  refine next_sound ?_
  split
  · exact hs
  · exact ite_sound (poolCnt_sound (modPool_sound (modWord_sound (errorIn_sound (hbmRead_sound hs))))) (modPool_sound (foldl_sound
      (hbmRead_sound hs) (fun _ _ hx => cacheHandle_sound hx)))

theorem writeBundle_sound {p c : Nat} {hs : List Nat} (hs' : Sound I s) : Sound I (writeBundle s p c hs) := by
  unfold writeBundle
  split
  · exact hs'
  · exact modPool_sound (hodTouch_sound (foldl_sound (hbmPut_sound hs') (fun _ _ hx => modWord_sound hx)))

theorem writeOut_sound {p fuel : Nat} (hs : Sound I s) : Sound I (writeOut p fuel s) := by
  induction fuel generalizing s with
  | zero => exact hs
  | succ fuel ih =>
    unfold writeOut
    dsimp only
    split
    · exact hs
    · exact ite_sound hs (ih (modPool_sound (writeBundle_sound hs)))

theorem execHeadCacheWriteout_sound {pool : Fin 5} (hs : Sound I s) : Completes I (execHeadCacheWriteout pool s) :=
  next_sound (ite_sound hs (writeOut_sound hs))

theorem bundleUp_sound {p c fuel : Nat} {bs : List Nat} (hs : Sound I s) : Sound I (bundleUp p c fuel bs s) := by
  induction fuel generalizing s bs with
  | zero => exact hs
  | succ fuel ih => exact ite_sound hs (ih (writeBundle_sound hs))

theorem execChainSweepDone_sound {pool : Fin 5} {chain : Fin 64} (hs : Sound I s) : Completes I (execChainSweepDone pool chain s) :=
  next_sound (ite_sound hs (bundleUp_sound (modPool_sound hs)))

theorem execUnlinkedSweep_sound {pool : Fin 5} (hs : Sound I s) : Completes I (execUnlinkedSweep pool s) := by
  unfold execUnlinkedSweep
  refine next_sound (ite_sound hs ?_)
  split
  · exact hs
  · exact bundleUp_sound hs

theorem hodRestartEnd_sound (hs : Sound I s) : Sound I (hodRestartEnd s) :=
  foldl_sound hs (fun _ _ hx => modPool_sound hx)

end Sys2Proof.Proofs.StepInvariants
end

section
/-!
PROOFS. The laws that every step keeps: order, gates and egress.
-/

namespace Sys2Proof.Proofs.StepInvariants
open Sys2Proof Sys2Proof.Machine

variable {I : Law} {s : State}

/-! ### Order -/

theorem domCnt_sound {d off : Nat} (hs : Sound I s) : Sound I (domCnt s d off) :=
  .upd hs

theorem portEgr_sound {n off : Nat} (hs : Sound I s) : Sound I (portEgr s n off) :=
  .upd hs

theorem queueCnt_sound {n q off k : Nat} (hs : Sound I s) : Sound I (queueCnt s n q off k) :=
  .upd hs

theorem orderCnt_sound {off : Nat} (hs : Sound I s) : Sound I (orderCnt s off) :=
  .upd hs

theorem ageDrop_sound {d source : Nat} (hs : Sound I s) : Sound I (ageDrop s d source) :=
  ite_sound (portEgr_sound (domCnt_sound (.upd hs))) (domCnt_sound (.upd hs))

theorem modEntry_sound {tick source : Nat} {f : OrderEntry → OrderEntry} (hs : Sound I s) : Sound I (modEntry s tick source f) :=
  .upd hs

theorem delEntry_sound {tick source : Nat} (hs : Sound I s) : Sound I (delEntry s tick source) :=
  .upd hs

theorem orderEnter_sound {e : OrderEntry} (hs : Sound I s) : Sound I (orderEnter s e).2 :=
  ite_snd_sound (snd_sound (domCnt_sound (orderCnt_sound hs))) (snd_sound (.upd hs))

theorem releaseAll_sound {hs : List Nat} (hs' : Sound I s) : Sound I (releaseAll s hs) :=
  foldl_sound hs' (fun _ _ hx => unitRelease_sound hx)

theorem orderDrop_sound {tick source : Nat} (hs : Sound I s) : Sound I (orderDrop s tick source) := by
  unfold orderDrop
  split
  · exact hs
  · exact modEntry_sound (releaseAll_sound hs)

theorem unslot_sound {t : Option Nat} {hs : List Nat} (hs' : Sound I s) : Sound I (unslot s t hs) := by
  unfold unslot
  split
  · exact foldl_sound hs' (fun _ _ hx => modSlots_sound hx)
  · exact hs'

theorem postEntry_sound {t : Option Nat} {tick source item : Nat} {d : Bytes} {last : Bool} (hs : Sound I s) :
     Sound I (postEntry s t tick source item d last).2 := by
  unfold postEntry
  dsimp only
  split
  · exact snd_sound (foldl_sound (unslot_sound (orderCnt_sound hs)) (fun _ _ hx => bufDrop_sound hx))
  · exact ite_snd_sound (snd_sound (orderCnt_sound hs)) (ite_snd_sound (ite_snd_sound (snd_sound (modEntry_sound (domCnt_sound
      (releaseAll_sound (unslot_sound hs))))) (snd_sound (unslot_sound hs))) (snd_sound (modEntry_sound (unslot_sound hs))))

theorem orderTouch_sound {tick source : Nat} (hs : Sound I s) : Sound I (orderTouch s tick source) := by
  unfold orderTouch
  dsimp only
  split
  · exact errorIn_sound (foldl_sound hs (fun _ _ hx => clearMark_sound hx))
  · exact foldl_sound hs (fun _ _ hx1 => clearMark_sound hx1)

theorem execOrderRelease_sound {s0 : State} (hs0 : Sound I s0) : Completes I (execOrderRelease s0) := by
  unfold execOrderRelease
  refine next_sound ?_
  refine ite_sound hs0 ?_
  split
  · exact hs0
  · exact ite_sound (orderCnt_sound (delEntry_sound (orderTouch_sound (advanceTo_sound hs0)))) (ite_sound (ageDrop_sound (releaseAll_sound
      (delEntry_sound (orderTouch_sound (advanceTo_sound hs0))))) (orderCnt_sound (.upd (ite_sound (delEntry_sound (orderTouch_sound
      (advanceTo_sound hs0))) (unitRelease_sound (delEntry_sound (orderTouch_sound (advanceTo_sound hs0))))))))

theorem execOrderAgeClose_sound {od : BitVec 16} {s0 : State} (hs0 : Sound I s0) : Completes I (execOrderAgeClose od s0) := by
  unfold execOrderAgeClose
  refine next_sound ?_
  split
  · exact hs0
  · exact ageDrop_sound (orderCnt_sound (delEntry_sound (releaseAll_sound (advanceTo_sound hs0))))

/-! ### Gates -/

theorem modGate_sound {n : Nat} {f : GateSt → GateSt} (hs : Sound I s) : Sound I (modGate s n f) :=
  .upd hs

theorem modQueue_sound {n q : Nat} {f : List QFrame → List QFrame} (hs : Sound I s) : Sound I (modQueue s n q f) :=
  .upd hs

theorem modPort_sound {n : Nat} {f : PortSt → PortSt} (hs : Sound I s) : Sound I (modPort s n f) :=
  .upd hs

theorem cbsSync_sound (hs : Sound I s) : Sound I (cbsSync s) :=
  .upd hs

theorem makeClaim_sound {p : PlanCopy} {h stream n q i ready : Nat} {b : Bool} {t : State} (hs : Sound I s)
    (e : makeClaim s p h stream n q i ready = some (b, t)) : Sound I t := by
  unfold makeClaim at e
  split at e
  · nomatch e
  · cases e
    exact .upd hs

theorem modClaim_sound {h : Nat} {f : Claim → Claim} (hs : Sound I s) : Sound I (modClaim s h f) :=
  .upd hs

theorem cancelClaim_sound {h : Nat} (hs : Sound I s) : Sound I (cancelClaim s h) :=
  modClaim_sound hs

theorem sweepClaims_sound {n : Nat} {jumped : Bool} (hs : Sound I s) : Sound I (sweepClaims s n jumped) :=
  .upd (foldl_sound hs (fun _ _ hx => ite_sound hx (ite_sound (portEgr_sound (ite_sound (portEgr_sound hx) hx)) (portEgr_sound hx))))

theorem setHold_sound {n : Nat} {b : Bool} (hs : Sound I s) : Sound I (setHold s n b) :=
  ite_sound (.upd (modGate_sound hs)) (modGate_sound hs)

/-- Every outcome of a gate event leaves the state or changes a gate's operation, hold and claims. -/
theorem gateOutcome_sound {s0 : State} {n t u : Nat} {g : GateSt} (hs0 : Sound I s0) (hs : Sound I s) :
    Completes I (.next (match g.list, g.op with
    | none, _ => s0
    | some l, none =>
      match locate l u with
      | none => s0
      | some o => sweepClaims (setHold (modGate s n (fun g => { g with op := some o })) n (holdOf (opKind l o.1) g.hold)) n false
    | some l, some (i, st) =>
      let nx := st + opLen l i
      let j := (i + 1) % l.ops.length
      let k := opKind l j
      let early := if k = 1 ∧ g.hold = false then l.holdAdv else if k = 2 ∧ g.hold then l.relAdv else 0
      if nx * unitNs ≤ t then
        sweepClaims (setHold (modGate s n (fun g => { g with op := some (j, nx) })) n (holdOf k g.hold)) n false
      else if (nx - early) * unitNs ≤ t then setHold s n (holdOf k g.hold)
      else s0)) := by
  apply next_sound
  split
  · exact hs0
  · split
    · exact hs0
    · exact sweepClaims_sound (setHold_sound (modGate_sound hs))
  · exact ite_sound (sweepClaims_sound (setHold_sound (modGate_sound hs))) (ite_sound (setHold_sound hs) hs0)

theorem execGateEvent_sound {port : PortId} {s0 : State} (hs0 : Sound I s0) : Completes I (execGateEvent port s0) :=
  gateOutcome_sound hs0 (cbsSync_sound hs0)

theorem execGateListSwitch_sound {port : PortId} {s0 : State} (hs0 : Sound I s0) : Completes I (execGateListSwitch port s0) := by
  unfold execGateListSwitch
  refine next_sound ?_
  split
  · exact hs0
  · refine ite_sound hs0 ?_
    dsimp only
    split
    · exact sweepClaims_sound (setHold_sound (modGate_sound (cbsSync_sound hs0)))
    · exact modGate_sound (.upd (foldl_sound (cbsSync_sound hs0) (fun _ _ hx => ite_sound (portEgr_sound hx) hx)))

theorem gatePortEpoch_sound {old new : PlanCopy} {n : Nat} (hs : Sound I s) : Sound I (gatePortEpoch old new s n) := by
  unfold gatePortEpoch
  refine ite_sound hs ?_
  dsimp only
  split
  · exact modGate_sound (portEgr_sound hs)
  · exact modGate_sound (portEgr_sound hs)
  · exact modGate_sound (portEgr_sound hs)

theorem gatesEpoch_sound {old new : PlanCopy} (hs : Sound I s) : Sound I (gatesEpoch s old new) :=
  foldl_sound (cbsSync_sound hs) (fun _ _ hx => gatePortEpoch_sound hx)

theorem gatesStepped_sound (hs : Sound I s) : Sound I (gatesStepped s) := by
  unfold gatesStepped
  refine foldl_sound (cbsSync_sound hs) ?_
  intro _ _ hx
  split
  · exact sweepClaims_sound hx
  · exact sweepClaims_sound (modGate_sound hx)

/-! ### Egress -/

theorem fnCnt_sound {f off k : Nat} (hs : Sound I s) : Sound I (fnCnt s f off k) :=
  .upd hs

theorem pairCnt_sound {p off : Nat} (hs : Sound I s) : Sound I (pairCnt s p off) :=
  .upd hs

theorem mirrorCnt_sound {m off : Nat} (hs : Sound I s) : Sound I (mirrorCnt s m off) :=
  .upd hs

theorem setFn_sound {f : Nat} {v : CbFn} (hs : Sound I s) : Sound I (setFn s f v) :=
  .upd hs

theorem modPair_sound {p : Nat} {f : PairSt → PairSt} (hs : Sound I s) : Sound I (modPair s p f) :=
  .upd hs

theorem refuseCopy_sound {n q l4 : Nat} {f : QFrame} {down : Bool} (hs : Sound I s) : Sound I (refuseCopy s n q l4 f down) := by
  unfold refuseCopy
  refine unitRelease_sound ?_
  split
  · exact mirrorCnt_sound (ite_sound (portEgr_sound hs) (domCnt_sound (queueCnt_sound hs)))
  · exact ite_sound (portEgr_sound hs) (domCnt_sound (queueCnt_sound hs))

theorem enqueue_sound {n q : Nat} {f : QFrame} (hs : Sound I s) : Sound I (enqueue s n q f) :=
  ite_sound (refuseCopy_sound hs) (ite_sound (refuseCopy_sound hs) (ite_sound (unitRelease_sound (cancelClaim_sound (portEgr_sound hs)))
      (.upd (queueCnt_sound (modQueue_sound (cbsSync_sound (ite_sound (portEgr_sound hs) hs)))))))

theorem takeRefs_sound {own : Bool} {cs : List Copy} (hs : Sound I s) : Sound I (takeRefs s own cs).2 := by
  induction cs generalizing s own with
  | nil => exact hs
  | cons c r ih =>
    unfold takeRefs
    refine ite_snd_sound (ih hs) ?_
    split
    · next e => exact ih ((hodHold_sound hs).of_snd e)
    · next e =>
      have h1 := (hodHold_sound hs).of_snd e
      exact ih (ite_sound (portEgr_sound h1) h1)

theorem admitCopies_sound {h : Nat} {own : Bool} {cs : List Copy} (hs : Sound I s) : Sound I (admitCopies s h own cs) := by
  unfold admitCopies
  split
  · exact ite_sound (unitRelease_sound hs) hs
  · exact foldl_sound (takeRefs_sound hs) (fun _ _ hx => enqueue_sound hx)

theorem cbRecovery_sound {f : Nat} {e d : Bytes} (hs : Sound I s) : Sound I (cbRecovery s f e d).2 :=
  ite_snd_sound (snd_sound (fnCnt_sound hs)) (ite_snd_sound (ite_snd_sound (snd_sound (setFn_sound (fnCnt_sound hs))) (snd_sound
      (fnCnt_sound (fnCnt_sound hs)))) (ite_snd_sound (snd_sound (setFn_sound (fnCnt_sound (fnCnt_sound (fnCnt_sound (fnCnt_sound hs))))))
      (snd_sound (setFn_sound (fnCnt_sound (fnCnt_sound (fnCnt_sound (fnCnt_sound hs))))))))

theorem admitCb_sound {i : AdmitItem} {p : PlanCopy} (hs : Sound I s) : Sound I (admitCb s i p) := by
  unfold admitCb
  dsimp only
  split
  · exact ite_sound (unitRelease_sound hs) hs
  · split
    · rename_i e
      exact ite_sound (unitRelease_sound ((cbRecovery_sound hs).of_snd e)) ((cbRecovery_sound hs).of_snd e)
    · rename_i e1
      exact admitCopies_sound (ite_sound (setFn_sound ((cbRecovery_sound hs).of_snd e1)) ((cbRecovery_sound hs).of_snd e1))

theorem execCbRecoveryReset_sound {fn : BitVec 16} {s0 : State} (hs0 : Sound I s0) : Completes I (execCbRecoveryReset fn s0) := by
  unfold execCbRecoveryReset
  refine next_sound ?_
  split
  · exact hs0
  · exact ite_sound hs0 (fnCnt_sound (setFn_sound (advanceTo_sound hs0)))

theorem execCbLatentTest_sound {fn : BitVec 16} {s0 : State} (hs0 : Sound I s0) : Completes I (execCbLatentTest fn s0) := by
  unfold execCbLatentTest
  refine next_sound ?_
  split
  · exact hs0
  · exact ite_sound hs0 (ite_sound (fnCnt_sound (record_sound (setFn_sound (advanceTo_sound hs0)))) (setFn_sound (advanceTo_sound hs0)))

theorem admitPair_sound {i : AdmitItem} {p : PlanCopy} (hs : Sound I s) : Sound I (admitPair s i p) := by
  unfold admitPair
  dsimp only
  split
  · exact ite_sound (unitRelease_sound hs) hs
  · exact admitCopies_sound (modPair_sound hs)

theorem queueRing_sound {c : RingCopy} (hs : Sound I s) : Sound I (queueRing s c) :=
  .upd hs

theorem mirrorCopy_sound {m : Nat} {p : PlanCopy} {f : QFrame} {rc : RingCopy} (hs : Sound I s) : Sound I (mirrorCopy s m p f rc) := by
  unfold mirrorCopy
  dsimp only
  split
  · exact unitRelease_sound hs
  · exact ite_sound (unitRelease_sound (mirrorCnt_sound (.upd hs))) (ite_sound (enqueue_sound (.upd hs)) (queueRing_sound (.upd hs)))

theorem spanAdmit_sound {i : AdmitItem} (hs : Sound I s) : Sound I (spanAdmit s i) :=
  ite_sound (unitRelease_sound (.upd hs)) (.upd hs)

theorem admitItem_sound {i : AdmitItem} (hs : Sound I s) : Sound I (admitItem s i) := by
  unfold admitItem
  refine ite_sound (admitCopies_sound hs) ?_
  refine ite_sound (admitCopies_sound hs) ?_
  refine ite_sound (admitCb_sound hs) ?_
  refine ite_sound (admitPair_sound hs) ?_
  refine ite_sound (ite_sound (unitRelease_sound hs) hs) ?_
  dsimp only
  split
  · exact ite_snd_sound (snd_sound hs) (hodHold_sound hs)
  · exact ite_sound (spanAdmit_sound (ite_snd_sound (snd_sound hs) (hodHold_sound hs))) (queueRing_sound (ite_snd_sound (snd_sound hs)
      (hodHold_sound hs)))

theorem execEgressAdmit_sound (hs : Sound I s) : Completes I (execEgressAdmit s) := by
  unfold execEgressAdmit
  refine next_sound (ite_sound hs ?_)
  split
  · exact admitItem_sound (.upd hs)
  · exact admitItem_sound (.upd hs)
  · exact hs

theorem postDirect_sound {t epoch domain : Nat} {desc : Bytes} (hs : Sound I s) : Sound I (postDirect s t epoch domain desc).2 :=
  ite_snd_sound (snd_sound (orderCnt_sound hs)) (ite_snd_sound (snd_sound (orderCnt_sound hs)) (ite_snd_sound (snd_sound hs) (snd_sound
      (.upd (unslot_sound hs)))))

theorem flushPort_sound {n : Nat} (hs : Sound I s) : Sound I (flushPort s n) :=
  .upd (foldl_sound (cbsSync_sound hs) (fun _ _ hx => modQueue_sound (foldl_sound hx (fun _ _ hx1 => unitRelease_sound (portEgr_sound
      hx1)))))

theorem redundancyEpoch_sound {old new : PlanCopy} (hs : Sound I s) : Sound I (redundancyEpoch s old new) :=
  .upd hs

theorem execDupEntryExpire_sound {pair : Fin 16} {s0 : State} (hs0 : Sound I s0) : Completes I (execDupEntryExpire pair s0) := by
  unfold execDupEntryExpire
  refine next_sound ?_
  split
  · exact pairCnt_sound (modPair_sound (advanceTo_sound hs0))
  · exact modPair_sound hs0
  · exact hs0

theorem dequeue_sound {n q : Nat} {f : QFrame} (hs : Sound I s) : Sound I (dequeue s n q f) :=
  modQueue_sound hs

theorem queueAgeDrop_sound {n q : Nat} {f : QFrame} (hs : Sound I s) : Sound I (queueAgeDrop s n q f) :=
  unitRelease_sound (.upd (domCnt_sound (queueCnt_sound (cancelClaim_sound (dequeue_sound hs)))))

theorem transmitSelect_sound {n fuel : Nat} (hs : Sound I s) : Sound I (transmitSelect s n fuel) := by
  induction fuel generalizing s with
  | zero => exact hs
  | succ fuel ih =>
    have hr (q : Nat) (f : QFrame) := hbmRead_sound (q := 2) (src := n) (a := bufAddr s f.handle + f.start) (n := f.len)
      (cancelClaim_sound (h := f.handle) (dequeue_sound (n := n) (q := q) (f := f) hs))
    unfold transmitSelect
    split
    · exact hs
    · refine ite_sound (ih (queueAgeDrop_sound hs)) ?_
      dsimp only
      split
      · exact modPort_sound (hr _ _)
      · exact ih (unitRelease_sound (hr _ _))

theorem execTransmitOpportunity_sound {port : PortId} {s0 : State} (hs0 : Sound I s0) : Completes I (execTransmitOpportunity port s0) :=
  next_sound (ite_sound hs0 (transmitSelect_sound (cbsSync_sound (ite_sound (advanceTo_sound hs0) hs0))))

theorem execQueueAgeDrop_sound {port : PortId} {queue : Fin 16} {s0 : State} (hs0 : Sound I s0) :
     Completes I (execQueueAgeDrop port queue s0) := by
  unfold execQueueAgeDrop
  refine next_sound ?_
  split
  · exact hs0
  · exact queueAgeDrop_sound (cbsSync_sound (advanceTo_sound hs0))

end Sys2Proof.Proofs.StepInvariants
end

section
/-!
PROOFS. The laws that every step keeps: time, MACsec and the ports.
-/

namespace Sys2Proof.Proofs.StepInvariants
open Sys2Proof Sys2Proof.Machine

variable {I : Law} {s : State}

/-! ### TimeUnit -/

theorem timeStep_sound {d : Int} (hs : Sound I s) : Sound I (timeStep s d) :=
  gatesStepped_sound (record_sound (.upd hs))

theorem timeCorrect_sound {d : Int} (hs : Sound I s) : Sound I (timeCorrect s d) :=
  ite_sound (.upd hs) (timeStep_sound hs)

theorem execTimeReady_sound (hs : Sound I s) : Completes I (execTimeReady s) :=
  next_sound (ite_sound hs (setReady_sound (.upd hs)))

theorem execTimeGet_sound {mb : MbId} (hs : Sound I s) : Completes I (execTimeGet mb s) :=
  next_sound (whenReady_sound hs (fun _ hx => reply_sound hx))

theorem execTimeSet_sound {mb : MbId} {sec : BitVec 48} {ns : BitVec 32} {frac : BitVec 16} (hs : Sound I s) :
     Completes I (execTimeSet mb sec ns frac s) :=
  next_sound (whenReady_sound hs (fun _ hx => ite_sound (reply_sound hx) (ite_sound (reply_sound hx) (reply_sound (.upd (timeStep_sound
      hx))))))

theorem execTimeOffset_sound {mb : MbId} {ns : BitVec 64} {frac : BitVec 16} (hs : Sound I s) : Completes I (execTimeOffset mb ns frac s) :=
  next_sound (whenReady_sound hs (fun _ hx => ite_sound (reply_sound hx) (ite_sound (reply_sound hx) (reply_sound (timeCorrect_sound hx)))))

theorem execTimeFreq_sound {mb : MbId} {adj : BitVec 32} (hs : Sound I s) : Completes I (execTimeFreq mb adj s) :=
  next_sound (whenReady_sound hs (fun _ hx => ite_sound (reply_sound hx) (ite_sound (reply_sound hx) (reply_sound (.upd hx)))))

theorem execTimeStatus_sound {mb : MbId} (hs : Sound I s) : Completes I (execTimeStatus mb s) :=
  next_sound (whenReady_sound hs (fun _ hx => reply_sound hx))

theorem execHawkServoCorrection_sound {freq : BitVec 32} {ns : BitVec 64} {frac : BitVec 16} {off : BitVec 64} (hs : Sound I s) :
     Completes I (execHawkServoCorrection freq ns frac off s) :=
  next_sound (ite_sound hs (ite_sound (.upd hs) (timeCorrect_sound (.upd hs))))

theorem execPpsOutEdge_sound (hs : Sound I s) : Completes I (execPpsOutEdge s) :=
  next_sound (ite_sound hs (emit_sound (.upd hs)))

theorem execPpsInEdge_sound {rising : Bool} (hs : Sound I s) : Completes I (execPpsInEdge rising s) :=
  next_sound (ite_sound hs (.upd hs))

theorem execRefCheck_sound {ppm : BitVec 16} {stopped : Bool} (hs : Sound I s) : Completes I (execRefCheck ppm stopped s) :=
  next_sound (ite_sound hs (ite_sound (record_sound (.upd hs)) (.upd hs)))

/-! ### Macsec -/

theorem portCount_sound {n off k : Nat} (hs : Sound I s) : Sound I (portCount s n off k) :=
  .upd hs

theorem macCount_sound {n i k : Nat} (hs : Sound I s) : Sound I (macCount s n i k) :=
  portCount_sound hs

theorem putSa_sound {a : MacSa} (hs : Sound I s) : Sound I (putSa s a) :=
  .upd hs

theorem withSecy_sound {mb port : Nat} {k : Bytes → State} (hs : Sound I s) (hk : ∀ x, Sound I (k x)) : Sound I (withSecy s mb port k) := by
  unfold withSecy
  refine ite_sound (reply_sound hs) ?_
  split
  · exact reply_sound hs
  · exact hk _

theorem execMacsecSaInstall_sound {mb : MbId} {args : Bytes} (hs : Sound I s) : Completes I (execMacsecSaInstall mb args s) := by
  unfold execMacsecSaInstall
  refine next_sound ?_
  refine withSecy_sound hs ?_
  intro _
  refine ite_sound (reply_sound hs) ?_
  refine ite_sound (reply_sound hs) ?_
  split
  · exact reply_sound hs
  · exact reply_sound (putSa_sound hs)

theorem execMacsecTxSelect_sound {mb : MbId} {port an : BitVec 8} (hs : Sound I s) : Completes I (execMacsecTxSelect mb port an s) :=
  next_sound (withSecy_sound hs (fun _ => ite_sound (reply_sound hs) (ite_sound (reply_sound hs) (reply_sound (.upd hs)))))

theorem execMacsecSaErase_sound {mb : MbId} {port dir : BitVec 8} {sci : BitVec 64} {an : BitVec 8} (hs : Sound I s) :
     Completes I (execMacsecSaErase mb port dir sci an s) :=
  next_sound (withSecy_sound hs (fun _ => ite_sound (reply_sound hs) (ite_sound (reply_sound hs) (reply_sound (.upd hs)))))

theorem execMacsecStatus_sound {mb : MbId} {port : BitVec 8} (hs : Sound I s) : Completes I (execMacsecStatus mb port s) :=
  next_sound (withSecy_sound hs (fun _ => reply_sound hs))

/-! ### Ports -/

theorem rmonFrame_sound {n base len : Nat} (hs : Sound I s) : Sound I (rmonFrame s n base len) := by
  unfold rmonFrame
  dsimp only
  split
  · exact portCount_sound (portCount_sound (portCount_sound hs))
  · exact portCount_sound (portCount_sound hs)

theorem rmonCast_sound {n base : Nat} {f : Bytes} (hs : Sound I s) : Sound I (rmonCast s n base f) :=
  ite_sound (portCount_sound hs) (ite_sound (portCount_sound hs) hs)

theorem dupMake_sound {x : Nat} {d : DupEntry} (hs : Sound I s) : Sound I (dupMake s x d) :=
  ite_sound (pairCnt_sound hs) (modPair_sound hs)

theorem requestAlloc_sound {rx : RxFields} {f : Bytes} {pass : Option Nat} (hs : Sound I s) : Sound I (requestAlloc s rx f pass) :=
  .upd hs

theorem prpReceive_sound {x : Nat} {e : Bytes} {b : Bool} {f : Bytes} (hs : Sound I s) : Sound I (prpReceive s x e b f).st := by
  unfold prpReceive
  dsimp only
  split
  · exact pairCnt_sound hs
  · split
    · exact ite_sound (pairCnt_sound (ite_sound (pairCnt_sound hs) (pairCnt_sound (pairCnt_sound hs))))
        (modPair_sound (pairCnt_sound (ite_sound (pairCnt_sound hs) (pairCnt_sound (pairCnt_sound hs)))))
    · exact dupMake_sound (ite_sound (pairCnt_sound hs) (pairCnt_sound (pairCnt_sound hs)))

theorem hsrReceive_sound {p : PlanCopy} {x : Nat} {e : Bytes} {b : Bool} {f : Bytes} (hs : Sound I s) :
     Sound I (hsrReceive s p x e b f).st := by
  unfold hsrReceive
  extract_lets o s1 src dst seq proxies group mine known old forwarded toPass pass here new s2 s3 s4
  have h1 : Sound I s1 := pairCnt_sound hs
  clear_value known
  split
  · exact pairCnt_sound hs
  · split
    · exact pairCnt_sound h1
    · have h2 : Sound I s2 := by
        dsimp only [s2]
        split
        · exact modPair_sound h1
        · exact ite_sound (dupMake_sound h1) h1
      have h3 : Sound I s3 := ite_sound (pairCnt_sound h2) h2
      exact ite_sound (pairCnt_sound h3) h3

theorem acceptFrame_sound {p : PlanCopy} {n : Nat} {rx : RxFields} {f : Bytes} (hs : Sound I s) : Sound I (acceptFrame s p n rx f) := by
  unfold acceptFrame
  split
  · exact requestAlloc_sound hs
  · next x e b _ =>
    extract_lets r s1
    have hr : Sound I r.st := by
      dsimp only [r]
      split
      · exact prpReceive_sound hs
      · exact hsrReceive_sound hs
    have h1 : Sound I s1 := by
      dsimp only [s1]
      split
      · exact requestAlloc_sound hr
      · exact hr
    split
    · exact requestAlloc_sound h1
    · exact h1

/-- The state that a frame's way through a SecY leaves. -/
def rxState : MacRx → State
  | .dropped s => s
  | .passed s _ _ _ => s

theorem ite_rxState_sound {c : Prop} [Decidable c] {a b : MacRx} (ha : Sound I (rxState a)) (hb : Sound I (rxState b)) :
    Sound I (rxState (if c then a else b)) := by split <;> assumption

theorem macValidate_sound {n idx : Nat} {y f : Bytes} {t : SecTag} {a : MacSa} (hs : Sound I s) :
     Sound I (rxState (macValidate s n y f t idx a)) := by
  unfold macValidate
  extract_lets xpn pn late
  split
  refine ite_rxState_sound (macCount_sound hs) (ite_rxState_sound (macCount_sound hs) ?_)
  dsimp only
  split
  · exact ite_rxState_sound (macCount_sound hs) (macCount_sound hs)
  · exact putSa_sound (macCount_sound (macCount_sound hs))

theorem macReceive_sound {p : PlanCopy} {n : Nat} {f : Bytes} (hs : Sound I s) : Sound I (rxState (macReceive s p n f)) := by
  unfold macReceive
  split
  · exact hs
  · split
    · exact ite_rxState_sound hs (ite_rxState_sound (macCount_sound hs) (macCount_sound hs))
    · refine ite_rxState_sound (macCount_sound hs) ?_
      dsimp only
      split
      · exact macCount_sound hs
      · split
        · exact macCount_sound hs
        · exact macValidate_sound hs

theorem portReceive_sound {s0 : State} {n : Nat} {frame : Bytes} {lost fecBad pre : Bool} {time : Nat} (hs0 : Sound I s0) :
    Sound I (portReceive s0 n frame lost fecBad pre time) := by
  have h1 : Sound I (rmonFrame s0 n 0 frame.length) := rmonFrame_sound hs0
  have hm := macReceive_sound (p := s0.plan.now) (n := n) (f := frame.take (frame.length - 4)) (rmonCast_sound (n := n) (base := 0) (f :=
      frame) h1)
  unfold portReceive
  refine ite_sound (portCount_sound h1) (ite_sound (portCount_sound (ite_sound (portCount_sound h1) h1))
    (ite_sound (portCount_sound h1) (ite_sound (portCount_sound h1) ?_)))
  split
  · next e => rw [e] at hm; exact hm
  · next e => rw [e] at hm; exact ite_sound (portCount_sound hm) (acceptFrame_sound hm)

theorem execRxFrame_sound {port : PortId} {frame : Bytes} {lost fecBad : Bool} (hs : Sound I s) :
     Completes I (execRxFrame port frame lost fecBad s) :=
  next_sound (ite_sound hs (ite_sound (emit_sound (portReceive_sound hs)) (portReceive_sound hs)))

theorem execMmFragmentRx_sound {port : PortId} {start : Bool} {frameCount fragCount : BitVec 2} {data : Bytes} {s0 : State} (hs0 : Sound I s0) :
     Completes I (execMmFragmentRx port start frameCount fragCount data s0) := by
  unfold execMmFragmentRx
  refine next_sound ?_
  refine ite_sound hs0 ?_
  split
  · exact ite_sound (portReceive_sound (ite_sound (modPort_sound (ite_sound (modPort_sound (portCount_sound hs0)) hs0)) (portCount_sound
      (modPort_sound (ite_sound (modPort_sound (portCount_sound hs0)) hs0))))) (ite_sound (modPort_sound (ite_sound (modPort_sound
      (portCount_sound hs0)) hs0)) (modPort_sound (portCount_sound (ite_sound (modPort_sound (portCount_sound hs0)) hs0))))
  · exact portCount_sound (portCount_sound hs0)
  · exact ite_sound (modPort_sound (portCount_sound (portCount_sound hs0))) (ite_sound (portReceive_sound (ite_sound (modPort_sound
      (portCount_sound hs0)) (portCount_sound (modPort_sound (portCount_sound hs0))))) (ite_sound (modPort_sound (portCount_sound hs0))
      (modPort_sound (portCount_sound (portCount_sound hs0)))))

theorem passForward_sound {w : RxWait} {h y : Nat} (hs : Sound I s) : Sound I (passForward s w h y) := by
  unfold passForward
  dsimp only
  split
  · exact unitRelease_sound hs
  · exact enqueue_sound (pairCnt_sound hs)

theorem execHodAllocAnswer_sound {s0 : State} (hs0 : Sound I s0) : Completes I (execHodAllocAnswer s0) := by
  unfold execHodAllocAnswer
  refine next_sound ?_
  split
  · exact hs0
  · dsimp only
    split
    · rename_i e
      split
      · exact passForward_sound (hbmPut_sound ((hodAlloc_sound (.upd hs0)).of_snd e))
      · exact ite_sound (faultCount_sound (unitRelease_sound (hbmPut_sound ((hodAlloc_sound (.upd hs0)).of_snd e)))) (.upd (hbmPut_sound
          ((hodAlloc_sound (.upd hs0)).of_snd e)))
    · rename_i e1
      exact domCnt_sound (portCount_sound ((hodAlloc_sound (.upd hs0)).of_snd e1))

theorem txStamp_sound {n : Nat} {i : TxItem} {f : Bytes} (hs : Sound I s) : Sound I (txStamp s n i f).2 := by
  unfold txStamp
  refine ite_snd_sound ?_ ?_
  · refine snd_sound ?_
    split
    · exact hs
    · exact ite_sound (portCount_sound hs) (modPort_sound hs)
  · split
    · refine snd_sound ?_
      split
      · exact hs
      · exact ite_sound (portCount_sound hs) (modPort_sound hs)
    · refine snd_sound ?_
      refine portCount_sound ?_
      split
      · exact hs
      · exact ite_sound (portCount_sound hs) (modPort_sound hs)

theorem txRelease_sound {n : Nat} {i : TxItem} (hs : Sound I s) : Sound I (txRelease s n i) :=
  unitRelease_sound hs

/-- The state that a frame's protection leaves. -/
def txState : MacTx → State
  | .dropped s => s
  | .sent s _ => s

theorem ite_txState_sound {c : Prop} [Decidable c] {a b : MacTx} (ha : Sound I (txState a)) (hb : Sound I (txState b)) :
    Sound I (txState (if c then a else b)) := by split <;> assumption

theorem macTransmit_sound {p : PlanCopy} {n : Nat} {f : Bytes} (hs : Sound I s) : Sound I (txState (macTransmit s p n f)) := by
  unfold macTransmit
  split
  · exact hs
  · dsimp only
    split
    · exact hs
    · refine ite_txState_sound hs (ite_txState_sound (macCount_sound hs) ?_)
      have h1 (v : MacSa) (k : Nat) : Sound I (putSa (macCount (macCount s n 1 1) n 3 k) v) := putSa_sound (macCount_sound (macCount_sound
          hs))
      exact ite_sound (record_sound (h1 _ _)) (h1 _ _)

theorem startFrame_sound {n : Nat} {i : TxItem} (hs : Sound I s) : Sound I (startFrame s n i) := by
  have hm := macTransmit_sound (p := s.plan.of i.epoch) (n := n) (f := (txStamp s n i (pad60 i.bytes)).1)
    (txStamp_sound (n := n) (i := i) (f := pad60 i.bytes) hs)
  unfold startFrame
  refine ite_sound (txRelease_sound (portCount_sound hs)) ?_
  dsimp only
  split
  · next e => rw [e] at hm; exact txRelease_sound hm
  · next e => rw [e] at hm; exact modPort_sound hm

theorem execTxFrame_sound {port : PortId} {s0 : State} (hs0 : Sound I s0) : Completes I (execTxFrame port s0) := by
  unfold execTxFrame
  refine next_sound ?_
  refine ite_sound hs0 ?_
  split
  · exact startFrame_sound (modPort_sound hs0)
  · split
    · exact hs0
    · exact ite_sound hs0 (portCount_sound (modPort_sound (advanceTo_sound hs0)))
  · refine ite_sound hs0 ?_
    split
    · exact hs0
    · exact startFrame_sound (modPort_sound (emit_sound (cbsSync_sound (advanceTo_sound hs0))))
  · exact hs0

theorem txCounters_sound {n : Nat} {w : OnWire} (hs : Sound I s) : Sound I (txCounters s n w) := by
  unfold txCounters
  dsimp only
  split
  · refine mirrorCnt_sound ?_
    split
    · exact pairCnt_sound (queueCnt_sound (queueCnt_sound (rmonCast_sound (rmonFrame_sound hs))))
    · exact queueCnt_sound (queueCnt_sound (rmonCast_sound (rmonFrame_sound hs)))
  · split
    · exact pairCnt_sound (queueCnt_sound (queueCnt_sound (rmonCast_sound (rmonFrame_sound hs))))
    · exact queueCnt_sound (queueCnt_sound (rmonCast_sound (rmonFrame_sound hs)))

theorem execTxComplete_sound {port : PortId} {s0 : State} (hs0 : Sound I s0) : Completes I (execTxComplete port s0) := by
  unfold execTxComplete
  refine next_sound ?_
  split
  · exact hs0
  · exact ite_sound (portReceive_sound (txRelease_sound (modPort_sound (txCounters_sound (cbsSync_sound (advanceTo_sound hs0))))))
      (ite_sound (txRelease_sound (modPort_sound (txCounters_sound (cbsSync_sound (advanceTo_sound hs0))))) (ite_sound (emit_sound
      (txRelease_sound (modPort_sound (txCounters_sound (cbsSync_sound (advanceTo_sound hs0)))))) (emit_sound (txRelease_sound
      (modPort_sound (txCounters_sound (cbsSync_sound (advanceTo_sound hs0))))))))

theorem portState_sound {n st : Nat} (hs : Sound I s) : Sound I (portState s n st) :=
  modPort_sound hs

theorem portDrop_sound {s0 : State} {n : Nat} (hs0 : Sound I s0) : Sound I (portDrop s0 n) := by
  unfold portDrop
  refine flushPort_sound ?_
  refine modPort_sound ?_
  refine foldl_sound ?_ (fun _ _ hx => txRelease_sound (portEgr_sound hx))
  dsimp only
  split
  · refine txRelease_sound ?_
    refine portCount_sound ?_
    split
    · exact txRelease_sound (portCount_sound (ite_sound (emit_sound (.upd (cbsSync_sound hs0))) (.upd (cbsSync_sound hs0))))
    · exact ite_sound (emit_sound (.upd (cbsSync_sound hs0))) (.upd (cbsSync_sound hs0))
  · split
    · exact txRelease_sound (portCount_sound (ite_sound (emit_sound (.upd (cbsSync_sound hs0))) (.upd (cbsSync_sound hs0))))
    · exact ite_sound (emit_sound (.upd (cbsSync_sound hs0))) (.upd (cbsSync_sound hs0))

theorem sendVerify_sound {n : Nat} (hs : Sound I s) : Sound I (sendVerify s n) :=
  emit_sound (modPort_sound hs)

theorem startVerify_sound {p : PlanCopy} {n : Nat} (hs : Sound I s) : Sound I (startVerify s p n) :=
  ite_sound hs (ite_sound (modPort_sound hs) (sendVerify_sound (modPort_sound hs)))

theorem execLinkUp_sound {port : PortId} (hs : Sound I s) : Completes I (execLinkUp port s) :=
  next_sound (ite_sound hs (startVerify_sound (portState_sound (.upd hs))))

theorem linkLost_sound {n : Nat} (hs : Sound I s) : Sound I (linkLost s n) :=
  portState_sound (portCount_sound (record_sound (portDrop_sound hs)))

theorem execAnRestart_sound {port : PortId} (hs : Sound I s) : Completes I (execAnRestart port s) :=
  next_sound (ite_sound hs (ite_sound (linkLost_sound (portCount_sound hs)) (portCount_sound hs)))

theorem execLinkLoss_sound {port : PortId} (hs : Sound I s) : Completes I (execLinkLoss port s) :=
  next_sound (ite_sound (linkLost_sound hs) hs)

theorem execVerifyTimeout_sound {port : PortId} {s0 : State} (hs0 : Sound I s0) : Completes I (execVerifyTimeout port s0) :=
  next_sound (ite_sound hs0 (ite_sound (sendVerify_sound (advanceTo_sound hs0)) (portCount_sound (modPort_sound (advanceTo_sound hs0)))))

theorem execVerifyResponseRx_sound {port : PortId} {respond : Bool} (hs : Sound I s) : Completes I (execVerifyResponseRx port respond s) :=
  next_sound (ite_sound hs (ite_sound (emit_sound hs) (ite_sound hs (modPort_sound hs))))

theorem withPort_sound {mb : MbId} {port : BitVec 8} {k : Nat → State} (hs : Sound I s) (hk : ∀ x, Sound I (k x)) :
     Sound I (withPort s mb port k) :=
  ite_sound (hk _) (reply_sound hs)

theorem execPortStatus_sound {mb : MbId} {port : BitVec 8} (hs : Sound I s) : Completes I (execPortStatus mb port s) :=
  next_sound (withPort_sound hs (fun _ => reply_sound hs))

theorem portBringUp_sound {n : Nat} (hs : Sound I s) : Sound I (portBringUp s n) :=
  portState_sound (portDrop_sound hs)

theorem execPortRestart_sound {mb : MbId} {port : BitVec 8} (hs : Sound I s) : Completes I (execPortRestart mb port s) :=
  next_sound (withPort_sound hs (fun _ => reply_sound (modPort_sound (portBringUp_sound hs))))

theorem execPortLoopback_sound {mb : MbId} {port mode : BitVec 8} (hs : Sound I s) : Completes I (execPortLoopback mb port mode s) :=
  next_sound (withPort_sound hs (fun _ => ite_sound (reply_sound hs) (reply_sound (modPort_sound hs))))

theorem execPortCounters_sound {mb : MbId} {port : BitVec 8} {first count : BitVec 16} (hs : Sound I s) :
     Completes I (execPortCounters mb port first count s) :=
  next_sound (withPort_sound hs (fun _ => ite_sound (reply_sound hs) (reply_sound hs)))

theorem execTxTsRead_sound {mb : MbId} {port max : BitVec 8} (hs : Sound I s) : Completes I (execTxTsRead mb port max s) :=
  next_sound (withPort_sound hs (fun _ => reply_sound (modPort_sound hs)))

theorem portEpoch_sound {old new : PlanCopy} {n : Nat} (hs : Sound I s) : Sound I (portEpoch old new s n) :=
  ite_sound hs (ite_sound (portState_sound (portDrop_sound (ite_sound (modPort_sound hs) hs))) (ite_sound (portBringUp_sound (ite_sound
      (modPort_sound hs) hs)) (ite_sound (startVerify_sound (modPort_sound (ite_sound (modPort_sound hs) hs))) (ite_sound (modPort_sound
      hs) hs))))

theorem sasEpoch_sound {old new : PlanCopy} (hs : Sound I s) : Sound I (sasEpoch s old new) :=
  .upd hs

theorem portsEpoch_sound {old new : PlanCopy} (hs : Sound I s) : Sound I (portsEpoch s old new) :=
  foldl_sound (sasEpoch_sound hs) (fun _ _ hx => portEpoch_sound hx)

theorem sasRetire_sound (hs : Sound I s) : Sound I (sasRetire s) :=
  .upd hs

end Sys2Proof.Proofs.StepInvariants
end

section
/-!
PROOFS. The laws that every step keeps: Stencil and classification.
-/

namespace Sys2Proof.Proofs.StepInvariants
open Sys2Proof Sys2Proof.Machine

variable {I : Law} {s : State}

/-! ### Stencil -/

theorem nodeTouch_sound {e epoch i : Nat} (hs : Sound I s) : Sound I (nodeTouch s e epoch i) := by
  unfold nodeTouch
  dsimp only
  split
  · exact ite_sound hs (errorIn_sound (.upd hs))
  · exact foldl_sound hs (fun _ _ hx => record_sound (clearMark_sound hx))

theorem stencilCnt_sound {e off k : Nat} (hs : Sound I s) : Sound I (stencilCnt s e off k) :=
  .upd hs

theorem deliver_sound {k : Packet} (hs : Sound I s) : Sound I (deliver s k) :=
  .upd hs

theorem parseDrop_sound {k : Packet} (hs : Sound I s) : Sound I (parseDrop s k) :=
  unitRelease_sound (domCnt_sound hs)

theorem finishParse_sound {k : Packet} {r : Nat} (hs : Sound I s) : Sound I (finishParse s k r) :=
  ite_sound (parseDrop_sound (stencilCnt_sound hs)) (deliver_sound (stencilCnt_sound hs))

theorem putCtx_sound {c : FragCtx} (hs : Sound I s) : Sound I (putCtx s c) :=
  .upd hs

theorem delCtx_sound {e : Nat} {key : Bytes} (hs : Sound I s) : Sound I (delCtx s e key) :=
  .upd hs

theorem ctxComplete_sound {e : Nat} {key : Bytes} (hs : Sound I s) : Sound I (ctxComplete s e key) := by
  unfold ctxComplete
  split
  · split
    · exact ite_sound (stencilCnt_sound (delCtx_sound hs)) hs
    · exact hs
  · exact hs

theorem takeDecision_sound {e : Nat} {k : Packet} {r : ClassRes} (hs : Sound I s) : Sound I (takeDecision s e k r) :=
  deliver_sound (ite_sound (stencilCnt_sound (stencilCnt_sound (stencilCnt_sound hs))) (stencilCnt_sound (stencilCnt_sound hs)))

theorem fragDecide_sound {e : Nat} {key : Bytes} {r : ClassRes} (hs : Sound I s) : Sound I (fragDecide s e key r) := by
  unfold fragDecide
  split
  · exact ite_sound hs (ctxComplete_sound (foldl_sound (putCtx_sound hs) (fun _ _ hx => ite_sound (takeDecision_sound hx)
      (finishParse_sound hx))))
  · exact hs

theorem followFirst_sound {e : Nat} {k : Packet} {w : Walk} (hs : Sound I s) : Sound I (followFirst s e k w) := by
  unfold followFirst
  dsimp only
  split
  · exact ite_sound (ite_sound (fragDecide_sound (finishParse_sound (stencilCnt_sound (putCtx_sound hs)))) (finishParse_sound
      (stencilCnt_sound (putCtx_sound hs)))) (ctxComplete_sound (finishParse_sound (stencilCnt_sound (putCtx_sound hs))))
  · exact ite_sound (ite_sound (fragDecide_sound (finishParse_sound (stencilCnt_sound (putCtx_sound hs)))) (finishParse_sound
      (stencilCnt_sound (putCtx_sound hs)))) (finishParse_sound hs)

theorem followLater_sound {e : Nat} {k : Packet} {w : Walk} (hs : Sound I s) : Sound I (followLater s e k w) := by
  unfold followLater
  dsimp only
  split
  · exact ite_sound (ite_sound (ctxComplete_sound (takeDecision_sound (putCtx_sound hs))) (finishParse_sound hs)) (ite_sound
      (stencilCnt_sound (putCtx_sound hs)) (finishParse_sound hs))
  · exact ite_sound (finishParse_sound hs) (ite_sound (finishParse_sound hs) (stencilCnt_sound (putCtx_sound hs)))

theorem execParseComplete_sound {s0 : State} (hs0 : Sound I s0) : Completes I (execParseComplete s0) := by
  unfold execParseComplete
  refine next_sound ?_
  split
  · exact hs0
  · exact ite_sound (finishParse_sound (ite_sound (stencilCnt_sound (.upd (stencilCnt_sound (foldl_sound (advanceTo_sound (.upd hs0)) (fun
      _ _ hx => nodeTouch_sound hx))))) (.upd (stencilCnt_sound (foldl_sound (advanceTo_sound (.upd hs0)) (fun _ _ hx1 => nodeTouch_sound
      hx1)))))) (ite_sound (followFirst_sound (ite_sound (stencilCnt_sound (.upd (stencilCnt_sound (foldl_sound (advanceTo_sound (.upd
      hs0)) (fun _ _ hx2 => nodeTouch_sound hx2))))) (.upd (stencilCnt_sound (foldl_sound (advanceTo_sound (.upd hs0)) (fun _ _ hx3 =>
      nodeTouch_sound hx3)))))) (ite_sound (finishParse_sound (ite_sound (stencilCnt_sound (.upd (stencilCnt_sound (foldl_sound
      (advanceTo_sound (.upd hs0)) (fun _ _ hx4 => nodeTouch_sound hx4))))) (.upd (stencilCnt_sound (foldl_sound (advanceTo_sound (.upd
      hs0)) (fun _ _ hx5 => nodeTouch_sound hx5)))))) (followLater_sound (ite_sound (stencilCnt_sound (.upd (stencilCnt_sound (foldl_sound
      (advanceTo_sound (.upd hs0)) (fun _ _ hx6 => nodeTouch_sound hx6))))) (.upd (stencilCnt_sound (foldl_sound (advanceTo_sound (.upd
      hs0)) (fun _ _ hx7 => nodeTouch_sound hx7))))))))

theorem execFragContextExpire_sound {engine : Fin 2} {key : Bytes} {s0 : State} (hs0 : Sound I s0) :
     Completes I (execFragContextExpire engine key s0) := by
  unfold execFragContextExpire
  refine next_sound ?_
  split
  · exact hs0
  · exact ite_sound (stencilCnt_sound (delCtx_sound (advanceTo_sound hs0))) (foldl_sound (delCtx_sound (advanceTo_sound hs0)) (fun _ _ hx
      => finishParse_sound hx))

theorem execParseNodeRepair_sound {engine : Fin 2} {node : Fin 1024} (hs : Sound I s) : Completes I (execParseNodeRepair engine node s) :=
  next_sound (ite_sound hs (.updFault hs rfl rfl rfl))

/-! ### Classify -/

theorem filterCnt_sound {f off : Nat} (hs : Sound I s) : Sound I (filterCnt s f off) :=
  .upd hs

theorem meterCnt_sound {m off : Nat} (hs : Sound I s) : Sound I (meterCnt s m off) :=
  .upd hs

theorem setSGate_sound {g : Nat} {v : SGateSt} (hs : Sound I s) : Sound I (setSGate s g v) :=
  .upd hs

theorem gateDecide_sound {p : PlanCopy} {g : Nat} {e : Bytes} {t len : Nat} (hs : Sound I s) : Sound I (gateDecide s p g e t len).2.2 := 
  ite_snd_snd_sound hs (ite_snd_snd_sound (setSGate_sound hs) (ite_snd_snd_sound (setSGate_sound hs) (setSGate_sound hs)))

theorem meterDecide_sound {p : PlanCopy} {m t len : Nat} {yellowIn : Bool} (hs : Sound I s) :
     Sound I (meterDecide s p m t len yellowIn).2.2 := by
  unfold meterDecide
  split
  · exact snd_snd_sound hs
  · split
    · dsimp only
      split
      · exact snd_snd_sound (meterCnt_sound (.upd hs))
      · exact snd_snd_sound (meterCnt_sound (.upd hs))
      · exact snd_snd_sound (meterCnt_sound (.upd hs))

theorem filterRun_sound {p : PlanCopy} {f : Nat} {e : Bytes} {t len : Nat} {dei : Bool} (hs : Sound I s) :
    Sound I (filterRun s p f e t len dei).2 := by
  unfold filterRun
  extract_lets s1 stop sdu s2
  have h1 : Sound I s1 := filterCnt_sound hs
  have hstop {x : State} {off : Nat} (hx : Sound I x) : Sound I (stop x off).2 := filterCnt_sound (ite_sound hx (filterCnt_sound hx))
  refine ite_snd_sound (hstop h1) (ite_snd_sound (hstop (ite_sound (.upd h1) h1)) ?_)
  split
  next ok ipv s3 e3 =>
  have h3 : Sound I s3 := by
    split at e3
    · exact (gateDecide_sound (filterCnt_sound h1)).of_snd_snd e3
    · cases e3; exact filterCnt_sound h1
  refine ite_snd_sound (hstop h3) ?_
  extract_lets s4
  split
  next c drop s5 e5 =>
  have h5 : Sound I s5 := by
    split at e5
    · cases e5; exact filterCnt_sound h3
    · exact (meterDecide_sound (filterCnt_sound h3)).of_snd_snd e5
  exact ite_snd_sound (hstop h5) h5

theorem clsCnt_sound {pipe off : Nat} (hs : Sound I s) : Sound I (clsCnt s pipe off) :=
  .upd hs

theorem ruleSearch_sound {p : PlanCopy} {pipe port : Nat} {c : ClsKey} (hs : Sound I s) : Sound I (ruleSearch s p pipe port c).2.2.2 := by
  unfold ruleSearch
  split
  · split
    · exact snd_snd_snd_sound (clsCnt_sound hs)
    · exact snd_snd_snd_sound (clsCnt_sound hs)
  · dsimp only
    split
    · exact snd_snd_snd_sound (foldl_sound (foldl_sound hs (fun _ _ hx => clsCnt_sound hx)) (fun _ _ hx1 => clsCnt_sound hx1))
    · exact snd_snd_snd_sound (clsCnt_sound (foldl_sound (foldl_sound hs (fun _ _ hx2 => clsCnt_sound hx2)) (fun _ _ hx3 => clsCnt_sound
        hx3)))
  · exact snd_snd_snd_sound (clsCnt_sound hs)

theorem police_sound {p : PlanCopy} {c : ClsKey} {t : Nat} {res : ClassRes} (hs : Sound I s) : Sound I (police s p c t res).2 := by
  unfold police
  extract_lets tci pcp dei
  split
  next a s1 e1 =>
  have h1 : Sound I s1 := by
    split at e1
    · cases e1; exact hs
    · split at e1
      · exact (filterRun_sound hs).of_snd e1
      · cases e1; exact hs
  split
  · split
    next e2 => exact (meterDecide_sound h1).of_snd_snd e2
  · exact h1

theorem reserve_sound {p : PlanCopy} {k : Packet} {h : Nat} {e : Bytes} (hs : Sound I s) : Sound I (reserve s p k h e).2 := by
  unfold reserve
  refine ite_snd_sound (snd_sound (clsCnt_sound hs)) ?_
  split
  · exact snd_sound hs
  · rename_i e
    exact snd_sound (clsCnt_sound (ite_sound (clsCnt_sound (makeClaim_sound hs e)) (makeClaim_sound hs e)))

theorem clsBadWord_sound {m : ErrorMark} (hs : Sound I s) : Sound I (clsBadWord s m) :=
  ite_sound hs (errorIn_sound (.upd hs))

theorem resultTouch_sound {pipe epoch : Nat} {w : Option Nat} (hs : Sound I s) : Sound I (resultTouch s pipe epoch w).2 := by
  unfold resultTouch
  split
  · exact snd_sound hs
  · dsimp only
    split
    · exact snd_sound (clsBadWord_sound hs)
    · exact snd_sound (foldl_sound hs (fun _ _ hx => record_sound (clearMark_sound hx)))

theorem clsDiscard_sound {k : Packet} (hs : Sound I s) : Sound I (clsDiscard s k) :=
  ite_sound (unitRelease_sound hs) (fragDecide_sound (unitRelease_sound hs))

theorem enterSearch_sound {s0 : State} {pipe : Nat} {k : Packet} (hs0 : Sound I s0) : Sound I (enterSearch s0 pipe k) := by
  unfold enterSearch
  extract_lets s p c push ident
  have hs : Sound I s := clsCnt_sound hs0
  split
  · split
    next e => exact .upd ((police_sound (clsCnt_sound hs)).of_snd e)
  · split
    next e1 =>
    have h1 := (ruleSearch_sound hs).of_snd_snd_snd e1
    split
    next e2 =>
    have h2 := (resultTouch_sound h1).of_snd e2
    refine ite_sound (clsDiscard_sound (clsCnt_sound h2)) ?_
    extract_lets res
    split
    next e3 =>
    have h3 := (police_sound h2).of_snd e3
    split
    next e4 =>
    clear_value ident
    refine .upd (?_ : Sound I _)
    split at e4
    · split at e4
      · exact (reserve_sound h3).of_snd e4
      · cases e4; exact h3
    · cases e4; exact h3

theorem execClassifyEnter_sound {pipe : Fin 2} {s0 : State} (hs0 : Sound I s0) : Completes I (execClassifyEnter pipe s0) := by
  unfold execClassifyEnter
  refine next_sound ?_
  split
  · exact hs0
  · exact ite_sound (faultCount_sound (clsDiscard_sound (ite_sound (.upd (ite_sound (advanceTo_sound hs0) hs0)) (clsCnt_sound (.upd (.upd
      (ite_sound (advanceTo_sound hs0) hs0))))))) (ite_sound (clsDiscard_sound (clsCnt_sound (clsCnt_sound (ite_sound (.upd (ite_sound
      (advanceTo_sound hs0) hs0)) (clsCnt_sound (.upd (.upd (ite_sound (advanceTo_sound hs0) hs0)))))))) (enterSearch_sound (ite_sound
      (.upd (ite_sound (advanceTo_sound hs0) hs0)) (clsCnt_sound (.upd (.upd (ite_sound (advanceTo_sound hs0) hs0)))))))

theorem releaseClaim_sound {b : ClsBusy} (hs : Sound I s) : Sound I (releaseClaim s b) :=
  ite_sound (cancelClaim_sound (clsCnt_sound hs)) hs

theorem actionCopy_sound {b : ClsBusy} (hs : Sound I s) : Sound I (actionCopy s b) := by
  unfold actionCopy
  refine ite_sound hs ?_
  split
  · rename_i e
    exact (hodHold_sound hs).of_snd e
  · rename_i e1
    exact ite_sound (queueRing_sound ((hodHold_sound hs).of_snd e1)) (mirrorCopy_sound ((hodHold_sound hs).of_snd e1))

theorem handOn_sound {b : ClsBusy} (hs : Sound I s) : Sound I (handOn s b) := by
  unfold handOn
  refine ite_sound (unitRelease_sound (domPoolCnt_sound (releaseClaim_sound hs))) ?_
  refine ite_sound (unitRelease_sound (releaseClaim_sound (actionCopy_sound (recharge_sound hs)))) ?_
  dsimp only
  split
  · rename_i e
    exact unitRelease_sound (releaseClaim_sound ((orderEnter_sound (actionCopy_sound (recharge_sound hs))).of_snd e))
  · rename_i e1
    exact .upd ((orderEnter_sound (actionCopy_sound (recharge_sound hs))).of_snd e1)

theorem execClassifyHandon_sound {s0 : State} (hs0 : Sound I s0) : Completes I (execClassifyHandon s0) := by
  unfold execClassifyHandon
  refine next_sound ?_
  split
  · exact hs0
  · exact ite_sound (unitRelease_sound (domCnt_sound (ite_sound (advanceTo_sound (.upd hs0)) (fragDecide_sound (advanceTo_sound (.upd
      hs0)))))) (ite_sound (unitRelease_sound (domCnt_sound (releaseClaim_sound (ite_sound (advanceTo_sound (.upd hs0)) (fragDecide_sound
      (advanceTo_sound (.upd hs0))))))) (handOn_sound (ite_sound (advanceTo_sound (.upd hs0)) (fragDecide_sound (advanceTo_sound (.upd
      hs0))))))

theorem execClassifyScrub_sound (hs : Sound I s) : Completes I (execClassifyScrub s) :=
  next_sound (foldl_sound hs (fun _ _ hx => ite_sound (record_sound (clearMark_sound hx)) (clsBadWord_sound hx)))

theorem execClassifyRewriteDone_sound (hs : Sound I s) : Completes I (execClassifyRewriteDone s) :=
  next_sound (ite_sound hs (.updFault hs rfl rfl rfl))

theorem execStreamGateReopen_sound {mb : MbId} {gate : BitVec 16} (hs : Sound I s) : Completes I (execStreamGateReopen mb gate s) :=
  next_sound (ite_sound (reply_sound hs) (reply_sound (setSGate_sound hs)))

theorem execStreamFilterUnblock_sound {mb : MbId} {filter : BitVec 16} (hs : Sound I s) :
     Completes I (execStreamFilterUnblock mb filter s) :=
  next_sound (ite_sound (reply_sound hs) (reply_sound (.upd hs)))

theorem execMeterClearRed_sound {mb : MbId} {meter : BitVec 16} (hs : Sound I s) : Completes I (execMeterClearRed mb meter s) :=
  next_sound (ite_sound (reply_sound hs) (reply_sound (.upd hs)))

theorem metersEpoch_sound {old new : PlanCopy} (hs : Sound I s) : Sound I (metersEpoch s old new) :=
  .upd hs

end Sys2Proof.Proofs.StepInvariants
end

section
/-!
PROOFS. The laws that every step keeps: internal frames, span links and the forwarding table.
-/

namespace Sys2Proof.Proofs.StepInvariants
open Sys2Proof Sys2Proof.Machine

variable {I : Law} {s : State}

/-! ### Internal -/

theorem controlWrite_sound {a : Nat} {d : Bytes} (hs : Sound I s) : Sound I (controlWrite s a d) := by
  unfold controlWrite
  extract_lets o reg old
  split
  · exact hs.setPkg fun h => gpioRegWrite_ok h _ _
  · exact hs

theorem directRead_sound {q src a n : Nat} (hs : Sound I s) : Sound I (directRead s q src a n).2.2 := by
  unfold directRead
  split
  · exact hbmRead_sound hs
  · exact snd_snd_sound hs
  · exact snd_snd_sound hs
  · exact snd_snd_sound hs

theorem directWrite_sound {q src a : Nat} {d : Bytes} (hs : Sound I s) : Sound I (directWrite s q src a d).2 := by
  unfold directWrite
  generalize regionOf a = region
  split
  · exact hbmWrite_sound hs
  · exact dropResv_sound (hs.writeMem _ _)
  · exact hs.writeMem _ _
  · exact snd_sound (controlWrite_sound hs)
  · exact hs

/-! ### SpanSend -/

theorem modSpan_sound {k : Nat} {f : SpanLink → SpanLink} (hs : Sound I s) : Sound I (modSpan s k f) :=
  .upd hs

theorem spanCnt_sound {k off n : Nat} (hs : Sound I s) : Sound I (spanCnt s k off n) :=
  .upd hs

theorem putFlit_sound {k : Nat} {f : Bytes} (hs : Sound I s) : Sound I (putFlit s k f) :=
  emit_sound (modSpan_sound hs)

theorem sendFlit_sound {k : Nat} {f : Bytes} (hs : Sound I s) : Sound I (sendFlit s k f) :=
  ite_sound (modSpan_sound hs) (putFlit_sound (spanCnt_sound (modSpan_sound hs)))

theorem sendQueued_sound {k fuel : Nat} (hs : Sound I s) : Sound I (sendQueued k fuel s) := by
  induction fuel generalizing s with
  | zero => exact hs
  | succ fuel ih =>
    unfold sendQueued
    dsimp only
    split
    · exact hs
    · exact ite_sound hs (ih (putFlit_sound (spanCnt_sound (modSpan_sound hs))))

theorem sendIdle_sound {k : Nat} (hs : Sound I s) : Sound I (sendIdle s k) :=
  putFlit_sound hs

theorem sendControl_sound {k : Nat} {msg : Bytes} (hs : Sound I s) : Sound I (sendControl s k msg) :=
  foldl_sound hs (fun _ _ hx => sendFlit_sound hx)

theorem sendMsg_sound {k vc : Nat} {msg : Bytes} (hs : Sound I s) : Sound I (sendMsg s k vc msg) :=
  foldl_sound (modSpan_sound hs) (fun _ _ hx => sendFlit_sound hx)

theorem drain0_sound {k fuel : Nat} (hs : Sound I s) : Sound I (drain0 k fuel s) := by
  induction fuel generalizing s with
  | zero => exact hs
  | succ fuel ih =>
    unfold drain0
    dsimp only
    split
    · exact hs
    · split
      · exact ite_sound hs (ih (spanCnt_sound (sendMsg_sound (modSpan_sound hs))))
      · exact ite_sound hs (ih (ite_sound (spanCnt_sound (sendMsg_sound (modSpan_sound hs))) (sendMsg_sound (modSpan_sound hs))))

theorem post0_sound {k : Nat} {r : Option SpanRead} {msg : Bytes} (hs : Sound I s) : Sound I (post0 s k r msg) :=
  drain0_sound (modSpan_sound hs)

theorem windowRead_sound {k : Nat} {who : SpanWho} {off n : Nat} (hs : Sound I s) : Sound I (windowRead s k who off n) :=
  post0_sound hs

theorem windowWrite_sound {k off : Nat} {d : Bytes} (hs : Sound I s) : Sound I (windowWrite s k off d) :=
  post0_sound hs

theorem learnOn_sound {key : Bytes} {port : Nat} {move : Bool} {k : Nat} (hs : Sound I s) : Sound I (learnOn s key port move k) :=
  ite_sound hs (ite_sound (spanCnt_sound (sendMsg_sound hs)) (spanCnt_sound hs))

theorem spanLearn_sound {key : Bytes} {port : Nat} {move : Bool} (hs : Sound I s) : Sound I (spanLearn s key port move) :=
  foldl_sound hs (fun _ _ hx => learnOn_sound hx)

/-! ### TableOps -/

theorem tabCnt_sound {off n : Nat} (hs : Sound I s) : Sound I (tabCnt s off n) :=
  .upd hs

theorem tabDom_sound {d off : Nat} (hs : Sound I s) : Sound I (tabDom s d off) :=
  .upd hs

theorem pinnedMark_sound {m : ErrorMark} (hs : Sound I s) : Sound I (pinnedMark s m) :=
  ite_sound (record_sound (clearMark_sound hs)) (ite_sound hs (errorIn_sound (.upd hs)))

theorem pinnedTouch_sound {epoch : Nat} {ix : List Nat} (hs : Sound I s) : Sound I (pinnedTouch s epoch ix) :=
  foldl_sound hs (fun _ _ hx => pinnedMark_sound hx)

theorem pinnedFind_sound {s0 : State} {p : PlanCopy} {k : Bytes} (hs0 : Sound I s0) : Sound I (pinnedFind s0 p k).2.2 :=
  snd_snd_sound (ite_sound (pinnedTouch_sound hs0) (tabCnt_sound (pinnedTouch_sound hs0)))

theorem expireCache_sound (hs : Sound I s) : Sound I (expireCache s) :=
  ite_sound hs (tabCnt_sound (.upd hs))

theorem cacheDrop_sound {loc : Nat} (hs : Sound I s) : Sound I (cacheDrop s loc) :=
  .upd hs

theorem cacheUpdate_sound {loc : Nat} {e : Bytes} (hs : Sound I s) : Sound I (cacheUpdate s loc e) :=
  ite_sound (.upd hs) (cacheDrop_sound hs)

theorem cacheFill_sound {set loc : Nat} {e : Bytes} (hs : Sound I s) : Sound I (cacheFill s set loc e) :=
  .upd (.updFault (cacheDrop_sound hs) rfl rfl rfl)

theorem cacheFind_sound {set : Nat} {k : Bytes} {b : Nat} (hs : Sound I s) : Sound I (cacheFind s set k b).2 := by
  unfold cacheFind
  split
  · exact snd_sound hs
  · split
    · exact snd_sound (.upd hs)
    · exact ite_snd_sound (snd_sound (record_sound (clearMark_sound hs))) (snd_sound (record_sound (cacheDrop_sound (clearMark_sound hs))))

theorem entryLost_sound {loc : Nat} (hs : Sound I s) : Sound I (entryLost s loc) :=
  ite_sound (tabCnt_sound hs) (errorIn_sound (.upd (tabCnt_sound hs)))

theorem readBucket_sound {q src b : Nat} (hs : Sound I s) : Sound I (readBucket s q src b).2.2 := by
  unfold readBucket
  dsimp only
  split
  · exact snd_snd_sound (foldl_sound (hbmRead_sound hs) (fun _ _ hx => entryLost_sound hx))
  · exact snd_snd_sound (foldl_sound (hbmRead_sound hs) (fun _ _ hx1 => entryLost_sound hx1))

theorem readBuckets_sound {q src : Nat} {bs : List (Nat × Nat)} {seen : List Nat} (hs : Sound I s) :
     Sound I (readBuckets q src bs seen s).2.2 := by
  induction bs generalizing s seen with
  | nil => exact hs
  | cons b r ih => exact ite_snd_snd_sound (ih hs) (ih (readBucket_sound hs))

theorem recount_sound {loc : Nat} {old new : Bytes} (hs : Sound I s) : Sound I (recount s loc old new) :=
  .upd hs

theorem putLoc_sound {q src loc : Nat} {e : Bytes} (hs : Sound I s) : Sound I (putLoc s q src loc e) :=
  cacheUpdate_sound (.upd (hbmPut_sound (recount_sound hs)))

theorem clearLoc_sound {q src loc : Nat} (hs : Sound I s) : Sound I (clearLoc s q src loc) :=
  putLoc_sound hs

theorem searchKey_sound {s0 : State} {p : PlanCopy} {q src : Nat} {k : Bytes} {fill : Bool} (hs0 : Sound I s0) :
     Sound I (searchKey s0 p q src k fill).2.2.2 := by
  unfold searchKey
  dsimp only
  split
  · exact snd_snd_snd_sound (pinnedFind_sound (expireCache_sound hs0))
  · split
    · rename_i e
      exact snd_snd_snd_sound ((cacheFind_sound (pinnedFind_sound (expireCache_sound hs0))).of_snd e)
    · rename_i e1
      split
      · exact snd_snd_snd_sound (ite_sound (cacheFill_sound (readBuckets_sound ((cacheFind_sound (pinnedFind_sound (expireCache_sound
          hs0))).of_snd e1))) (readBuckets_sound ((cacheFind_sound (pinnedFind_sound (expireCache_sound hs0))).of_snd e1)))
      · split
        · exact snd_snd_snd_sound (ite_sound (cacheFill_sound (readBuckets_sound (readBuckets_sound ((cacheFind_sound (pinnedFind_sound
            (expireCache_sound hs0))).of_snd e1)))) (readBuckets_sound (readBuckets_sound ((cacheFind_sound (pinnedFind_sound
            (expireCache_sound hs0))).of_snd e1))))
        · exact snd_snd_snd_sound (readBuckets_sound (readBuckets_sound ((cacheFind_sound (pinnedFind_sound (expireCache_sound
            hs0))).of_snd e1)))

theorem refreshAge_sound {f : Found} (hs : Sound I s) : Sound I (refreshAge s f) :=
  ite_sound (ite_sound (putLoc_sound hs) hs) hs

theorem lookupRun_sound {p : PlanCopy} {pipe d : Nat} {req : Bytes} (hs : Sound I s) : Sound I (lookupRun s p pipe d req).2.2.2 := by
  unfold lookupRun
  dsimp only
  split
  · exact snd_snd_snd_sound (ite_sound (refreshAge_sound (tabCnt_sound (searchKey_sound (tabCnt_sound hs)))) (tabCnt_sound (searchKey_sound
      (tabCnt_sound hs))))
  · exact snd_snd_snd_sound (tabCnt_sound (searchKey_sound (tabCnt_sound hs)))

theorem relocate_sound {q src fuel : Nat} {ns : List (RNode × Nat)} {seen : List Nat} {reads : Nat} (hs : Sound I s) :
    Sound I (relocate q src fuel ns seen reads s).2 := by
  induction fuel generalizing s ns seen reads with
  | zero => exact hs
  | succ fuel ih =>
    cases ns with
    | nil => exact hs
    | cons n rest =>
      unfold relocate
      refine ite_snd_sound (ih hs) (ite_snd_sound hs ?_)
      dsimp only
      split
      · exact readBucket_sound hs
      · exact ih (readBucket_sound hs)

theorem doMoves_sound {q src f : Nat} {ms : List (Nat × Bytes)} (hs : Sound I s) : Sound I (doMoves q src ms f s).2 := by
  induction ms generalizing s f with
  | nil => exact hs
  | cons m r ih => exact ih (tabCnt_sound (clearLoc_sound (putLoc_sound hs)))

theorem findPlace_sound {q src : Nat} {k : Bytes} (hs : Sound I s) : Sound I (findPlace s q src k).2.2 := by
  unfold findPlace
  dsimp only
  split
  · exact snd_snd_sound (readBuckets_sound hs)
  · split
    · rename_i e
      exact snd_snd_sound (doMoves_sound ((relocate_sound (readBuckets_sound hs)).of_snd e))
    · rename_i e1
      exact snd_snd_sound ((relocate_sound (readBuckets_sound hs)).of_snd e1)

theorem findPosition_sound {q src : Nat} {k : Bytes} (hs : Sound I s) : Sound I (findPosition s q src k).2 :=
  snd_sound (findPlace_sound hs)

theorem victims_sound {q src : Nat} {k : Bytes} (hs : Sound I s) : Sound I (victims s q src k).2 :=
  snd_sound (readBuckets_sound hs)

theorem chooseVictim_sound {k : Bytes} (hs : Sound I s) : Sound I (chooseVictim s k).2 :=
  ite_snd_sound (snd_sound hs) (ite_snd_sound (snd_sound (drawFree_sound (victims_sound hs))) (snd_sound (victims_sound hs)))

/-! ### Tables -/

theorem learnPost_sound {s0 : State} {r : LearnReq} (hs0 : Sound I s0) : Sound I (learnPost s0 r) :=
  ite_sound (tabCnt_sound (tabCnt_sound hs0)) (.upd (tabCnt_sound hs0))

theorem tellPeers_sound {r : LearnReq} {move : Bool} (hs : Sound I s) : Sound I (tellPeers s r move) :=
  ite_sound hs (spanLearn_sound hs)

theorem rateCount_sound {d : Nat} (hs : Sound I s) : Sound I (rateCount s d) :=
  .upd hs

theorem learnNew_sound {r : LearnReq} (hs : Sound I s) : Sound I (learnNew s r) := by
  unfold learnNew
  extract_lets d cfg drop evict
  have hdrop {x : State} {off : Nat} (hx : Sound I x) : Sound I (drop x off) := tabDom_sound (tabCnt_sound hx)
  have hevict {x : State} {off : Nat} (hx : Sound I x) : Sound I (evict x off) := by
    dsimp only [evict]
    split
    · next e => exact tellPeers_sound (rateCount_sound (tabDom_sound (tabCnt_sound (putLoc_sound ((chooseVictim_sound hx).of_snd e)))))
    · next e => exact hdrop ((chooseVictim_sound hx).of_snd e)
  refine ite_sound (tabCnt_sound hs) (ite_sound (hdrop hs) (ite_sound (hevict hs) ?_))
  split
  · next e => exact tellPeers_sound (rateCount_sound (tabCnt_sound (putLoc_sound ((findPosition_sound hs).of_snd e))))
  · next e => exact hevict ((findPosition_sound hs).of_snd e)

theorem learnDecide_sound {r : LearnReq} (hs : Sound I s) : Sound I (learnDecide s r) := by
  unfold learnDecide
  dsimp only
  split
  · exact tabCnt_sound (pinnedFind_sound (expireCache_sound hs))
  · split
    · exact learnNew_sound (readBuckets_sound (pinnedFind_sound (expireCache_sound hs)))
    · exact ite_sound (tabCnt_sound (readBuckets_sound (pinnedFind_sound (expireCache_sound hs)))) (ite_sound (tabCnt_sound (ite_sound
        (readBuckets_sound (pinnedFind_sound (expireCache_sound hs))) (putLoc_sound (readBuckets_sound (pinnedFind_sound (expireCache_sound
        hs)))))) (ite_sound (tellPeers_sound (tabCnt_sound (putLoc_sound (readBuckets_sound (pinnedFind_sound (expireCache_sound hs))))))
        (tabCnt_sound (readBuckets_sound (pinnedFind_sound (expireCache_sound hs))))))

theorem execLearnApply_sound (hs : Sound I s) : Completes I (execLearnApply s) := by
  unfold execLearnApply
  refine next_sound ?_
  split
  · exact hs
  · exact ite_sound hs (learnDecide_sound (.upd hs))

theorem execLearnRatePeriod_sound {s0 : State} (hs0 : Sound I s0) : Completes I (execLearnRatePeriod s0) :=
  next_sound (.upd (advanceTo_sound hs0))

theorem execAgeClockTick_sound {s0 : State} (hs0 : Sound I s0) : Completes I (execAgeClockTick s0) :=
  next_sound (ite_sound hs0 (.upd (advanceTo_sound hs0)))

theorem answerHolder_sound {h : RoutineHolder} {d : Bytes} {revoked : Bool} (hs : Sound I s) : Sound I (answerHolder s h d revoked) := by
  unfold answerHolder
  split
  · exact replyWith_sound (tabCnt_sound hs)
  · exact ite_sound (tabCnt_sound hs) (loadPart_sound (tabCnt_sound hs))
  · exact hs

theorem endRoutine_sound {r : Routine} {status cursor : Nat} (hs : Sound I s) : Sound I (endRoutine s r status cursor) :=
  foldl_sound (.upd hs) (fun _ _ hx => answerHolder_sound hx)

theorem startPass_sound {hs : List RoutineHolder} {start : Nat} (hs' : Sound I s) : Sound I (startPass s hs start) :=
  .upd hs'

theorem finishPass_sound {r : Routine} (hs : Sound I s) : Sound I (finishPass s r) := by
  unfold finishPass
  dsimp only
  split
  · exact endRoutine_sound (ite_sound (.upd (tabCnt_sound hs)) hs)
  · exact startPass_sound (.upd (endRoutine_sound (ite_sound (.upd (tabCnt_sound hs)) hs)))

theorem sweepRead_sound {loc : Nat} (hs : Sound I s) : Sound I (sweepRead s loc).2 :=
  snd_sound (readBucket_sound hs)

theorem passAt_sound {s0 : State} {loc : Nat} (hs0 : Sound I s0) : Sound I (passAt s0 loc) := by
  unfold passAt
  split
  · rename_i e
    exact (sweepRead_sound hs0).of_snd e
  · rename_i e1
    exact ite_sound ((sweepRead_sound hs0).of_snd e1) (ite_sound (tabCnt_sound (clearLoc_sound ((sweepRead_sound hs0).of_snd e1)))
        (ite_sound (tabDom_sound (tabCnt_sound (clearLoc_sound ((sweepRead_sound hs0).of_snd e1)))) (ite_sound (putLoc_sound
        ((sweepRead_sound hs0).of_snd e1)) ((sweepRead_sound hs0).of_snd e1))))

theorem flushAt_sound {cmd : Bytes} {x : State × Nat} {loc : Nat} (hx : Sound I x.1) : Sound I (flushAt cmd x loc).1 := by
  unfold flushAt
  split
  · rename_i e
    exact ite_fst_sound (fst_sound (clearLoc_sound ((sweepRead_sound hx).of_snd e))) (fst_sound ((sweepRead_sound hx).of_snd e))
  · rename_i e1
    exact fst_sound ((sweepRead_sound hx).of_snd e1)

theorem startFlushes_sound (hs : Sound I s) : Sound I (startFlushes s) := by
  unfold startFlushes
  split
  · exact hs
  · exact ite_sound hs (.upd hs)

theorem chunkRun_sound {r : Routine} (hs : Sound I s) : Sound I (chunkRun s r) :=
  ite_sound (ite_sound (startFlushes_sound (finishPass_sound (.upd (foldl_sound hs (fun _ _ hx => passAt_sound hx))))) (.upd (foldl_sound
      hs (fun _ _ hx => passAt_sound hx)))) (ite_sound (startFlushes_sound (endRoutine_sound (.upd (foldl_fst_sound (fst_sound hs) (fun _ _
      hx => flushAt_sound hx))))) (.upd (foldl_fst_sound (fst_sound hs) (fun _ _ hx1 => flushAt_sound hx1))))

theorem execRoutineChunk_sound {i : Fin 4} (hs : Sound I s) : Completes I (execRoutineChunk i s) := by
  unfold execRoutineChunk
  refine next_sound ?_
  split
  · exact hs
  · exact ite_sound hs (ite_sound (startFlushes_sound (endRoutine_sound hs)) (chunkRun_sound hs))

theorem execAgeingPassStart_sound {s0 : State} (hs0 : Sound I s0) : Completes I (execAgeingPassStart s0) :=
  next_sound (ite_sound hs0 (ite_sound (.upd (.upd (advanceTo_sound hs0))) (ite_sound (.upd (advanceTo_sound hs0)) (startPass_sound (.upd
      (advanceTo_sound hs0))))))

theorem nextScan_sound {dom b fuel loc : Nat} (hs : Sound I s) : Sound I (nextScan dom b fuel loc s).2.2 := by
  induction fuel generalizing s loc with
  | zero => exact hs
  | succ fuel ih =>
    unfold nextScan
    refine ite_snd_snd_sound hs ?_
    dsimp only
    split
    · exact readBucket_sound hs
    · exact ih (readBucket_sound hs)

theorem hbmFind_sound {k : Bytes} (hs : Sound I s) : Sound I (hbmFind s k).2.2 :=
  snd_snd_sound (readBuckets_sound hs)

theorem commandEntry_sound {cmd k : Bytes} (hs : Sound I s) : Sound I (commandEntry s cmd k).2 :=
  snd_sound (drawFree_sound hs)

theorem cmdSearch_sound {k : Bytes} (hs : Sound I s) : Sound I (cmdSearch s k).2 := by
  unfold cmdSearch
  dsimp only
  split
  · exact snd_sound (searchKey_sound hs)
  · exact snd_sound (searchKey_sound hs)

theorem cmdNext_sound {dom : Nat} {cmd : Bytes} (hs : Sound I s) : Sound I (cmdNext s dom cmd).2 := by
  unfold cmdNext
  dsimp only
  split
  · exact snd_sound (nextScan_sound hs)
  · exact snd_sound (nextScan_sound hs)

theorem cmdInsert_sound {cmd k : Bytes} (hs : Sound I s) : Sound I (cmdInsert s cmd k).2 := by
  unfold cmdInsert
  refine ite_snd_sound (snd_sound hs) ?_
  refine ite_snd_sound (snd_sound (pinnedFind_sound hs)) ?_
  dsimp only
  split
  · exact ite_snd_sound (snd_sound (hbmFind_sound (pinnedFind_sound hs))) (ite_snd_sound (snd_sound (hbmFind_sound (pinnedFind_sound hs)))
      (snd_sound (putLoc_sound (commandEntry_sound (hbmFind_sound (pinnedFind_sound hs))))))
  · refine ite_snd_sound (snd_sound (hbmFind_sound (pinnedFind_sound hs))) ?_
    split
    · rename_i e
      exact snd_sound (putLoc_sound ((findPosition_sound (commandEntry_sound (hbmFind_sound (pinnedFind_sound hs)))).of_snd e))
    · rename_i e1
      exact snd_sound ((findPosition_sound (commandEntry_sound (hbmFind_sound (pinnedFind_sound hs)))).of_snd e1)

theorem cmdDelete_sound {k : Bytes} (hs : Sound I s) : Sound I (cmdDelete s k).2 := by
  unfold cmdDelete
  refine ite_snd_sound (snd_sound (pinnedFind_sound hs)) ?_
  dsimp only
  split
  · exact ite_snd_sound (snd_sound (hbmFind_sound (pinnedFind_sound hs))) (snd_sound (clearLoc_sound (hbmFind_sound (pinnedFind_sound hs))))
  · exact snd_sound (hbmFind_sound (pinnedFind_sound hs))

theorem cmdInvalidate_sound {s0 : State} {cmd k : Bytes} (hs0 : Sound I s0) : Sound I (cmdInvalidate s0 cmd k).2 :=
  ite_snd_sound (snd_sound (.upd (expireCache_sound hs0))) (ite_snd_sound (snd_sound (expireCache_sound hs0)) (snd_sound (.upd
      (expireCache_sound hs0))))

theorem cmdRoutine_sound {pass : Bool} {h : RoutineHolder} {dom : Nat} {cmd : Bytes} (hs : Sound I s) :
     Sound I (cmdRoutine s pass h dom cmd).2 :=
  ite_snd_sound (snd_sound hs) (ite_snd_sound (snd_sound (.upd hs)) (ite_snd_sound (snd_sound hs) (ite_snd_sound (snd_sound
      (startPass_sound hs)) (snd_sound (.upd hs)))))

theorem tableCommand_sound {h : RoutineHolder} {d : Option Nat} {cmd : Bytes} (hs : Sound I s) : Sound I (tableCommand s h d cmd).2 := by
  unfold tableCommand
  extract_lets op dom k now
  have hnow {x : Bytes × State} (hx : Sound I x.2) : Sound I (now x).2 := tabCnt_sound hx
  refine ite_snd_sound (hnow hs) (ite_snd_sound (hnow hs) (ite_snd_sound (hnow hs) (ite_snd_sound (hnow (cmdSearch_sound hs))
    (ite_snd_sound (hnow (cmdNext_sound hs)) (ite_snd_sound (hnow (cmdInsert_sound hs)) (ite_snd_sound (hnow (cmdDelete_sound hs))
    (ite_snd_sound (hnow (cmdInvalidate_sound hs)) ?_)))))))
  split
  · next e => exact tabCnt_sound ((cmdRoutine_sound hs).of_snd e)
  · exact cmdRoutine_sound hs

theorem mailboxTable_sound {mb op : Nat} {cmd : Bytes} (hs : Sound I s) : Sound I (mailboxTable s mb op cmd) := by
  unfold mailboxTable
  refine whenReady_sound hs ?_
  intro _ hx
  refine ite_sound (reply_sound hx) ?_
  split
  · rename_i e1
    exact reply_sound ((tableCommand_sound hx).of_snd e1)
  · rename_i e2
    exact (tableCommand_sound hx).of_snd e2

theorem execCacheLineExpire_sound {s0 : State} (hs0 : Sound I s0) : Completes I (execCacheLineExpire s0) := by
  unfold execCacheLineExpire
  refine next_sound ?_
  split
  · exact hs0
  · exact expireCache_sound (advanceTo_sound hs0)

theorem execTableEntryRepair_sound (hs : Sound I s) : Completes I (execTableEntryRepair s) := by
  unfold execTableEntryRepair
  refine next_sound ?_
  split
  · exact hs
  · split
    · exact putLoc_sound hs
    · exact clearLoc_sound hs

theorem execPinnedScrub_sound (hs : Sound I s) : Completes I (execPinnedScrub s) :=
  next_sound (foldl_sound (.updFault hs rfl rfl rfl) (fun _ _ hx => pinnedMark_sound hx))

theorem confSet_sound {loc : Nat} {e : Option Bytes} (hs : Sound I s) : Sound I (confSet s loc e) :=
  .upd hs

theorem cleanupAt_sound {loc : Nat} (hs : Sound I s) : Sound I (cleanupAt s loc) :=
  ite_sound hs (ite_sound (confSet_sound (clearLoc_sound hs)) (ite_sound (confSet_sound (putLoc_sound hs)) hs))

theorem cleanupAll_sound (hs : Sound I s) : Sound I (cleanupAll s) :=
  .upd (foldl_sound hs (fun _ _ hx => cleanupAt_sound hx))

theorem execConfigCleanup_sound {s0 : State} (hs0 : Sound I s0) : Completes I (execConfigCleanup s0) := by
  unfold execConfigCleanup
  refine next_sound ?_
  split
  · exact cleanupAll_sound (advanceTo_sound hs0)
  · exact hs0

end Sys2Proof.Proofs.StepInvariants
end

section
/-!
PROOFS. The laws that every step keeps: threads, locks, coprocessors, pairs and dispatchers.
-/

namespace Sys2Proof.Proofs.StepInvariants
open Sys2Proof Sys2Proof.Machine

variable {I : Law} {s : State}

/-! ### ThreadOps -/

theorem setTh_sound {t : Nat} {v : Thread} (hs : Sound I s) : Sound I (setTh s t v) :=
  .upd hs

theorem modTh_sound {t : Nat} {f : Thread → Thread} (hs : Sound I s) : Sound I (modTh s t f) :=
  setTh_sound hs

theorem modCl_sound {n : Nat} {f : Cluster → Cluster} (hs : Sound I s) : Sound I (modCl s n f) :=
  .upd hs

theorem modCop_sound {u k : Nat} {f : Copro → Copro} (hs : Sound I s) : Sound I (modCop s u k f) :=
  .upd hs

theorem coreCnt_sound {tid off n : Nat} (hs : Sound I s) : Sound I (coreCnt s tid off n) :=
  .upd hs

theorem dispCnt_sound {n off k : Nat} (hs : Sound I s) : Sound I (dispCnt s n off k) :=
  .upd hs

theorem copCnt_sound {tid off : Nat} (hs : Sound I s) : Sound I (copCnt s tid off) :=
  .upd hs

theorem setFlag_sound {tid bit : Nat} (hs : Sound I s) : Sound I (setFlag s tid bit) :=
  modTh_sound hs

theorem raiseFault_sound {tid status reason detail : Nat} (hs : Sound I s) : Sound I (raiseFault s tid status reason detail) :=
  modTh_sound hs

theorem landTh_sound {tid upto : Nat} (hs : Sound I s) : Sound I (landTh s tid upto) := by
  unfold landTh
  dsimp only
  split
  · exact hs
  · refine foldl_sound (setTh_sound hs) ?_
    intro _ _ hx
    split
    · exact ite_sound (modCop_sound hx) hx
    · exact hx

theorem gotOp_sound {tid entry : Nat} {v : W64} (hs : Sound I s) : Sound I (gotOp s tid entry v) :=
  modTh_sound hs

theorem plainStore_sound {a : Nat} {d : Bytes} (hs : Sound I s) : Sound I (plainStore s a d) := dropResv_sound (hs.writeMem _ _)

theorem loseResv_sound {tid : Nat} (hs : Sound I s) : Sound I (loseResv s tid) :=
  ite_sound (modTh_sound hs) hs

theorem applyOp_sound {n : Nat} {o : ClOp} (hs : Sound I s) : Sound I (applyOp s n o) := by
  unfold applyOp
  dsimp only
  split
  · exact plainStore_sound hs
  · exact gotOp_sound (plainStore_sound hs)
  · exact gotOp_sound (ite_sound (plainStore_sound (loseResv_sound hs)) (loseResv_sound hs))
  · exact modCl_sound hs
  · exact modTh_sound (modCl_sound hs)
  · exact modTh_sound (modCl_sound hs)

theorem landCl_sound {n upto : Nat} (hs : Sound I s) : Sound I (landCl s n upto) := by
  unfold landCl
  dsimp only
  split
  · exact hs
  · exact foldl_sound (modCl_sound hs) (fun _ _ hx => applyOp_sound hx)

theorem pendTh_sound {tid land : Nat} {d : Dst} (hs : Sound I s) : Sound I (pendTh s tid land d) :=
  modTh_sound hs

theorem clusterOp_sound {tid land : Nat} {k : ClKind} (hs : Sound I s) : Sound I (clusterOp s tid land k) :=
  modCl_sound hs

theorem shortWrite_sound {tid p : Nat} {pl : Place} {d : Bytes} (hs : Sound I s) : Sound I (shortWrite s tid p pl d) := by
  unfold shortWrite
  split
  · exact ite_sound (modTh_sound (pendTh_sound hs)) (pendTh_sound hs)
  · exact clusterOp_sound hs
  · exact hs

theorem takeLine_enter_sound {tid line : Nat} {d : Bytes} (hs : Sound I s) : Sound I (takeLine.enter s tid line d) := by
  unfold takeLine.enter
  dsimp only
  split
  · exact modTh_sound hs
  · exact foldl_sound (.upd (modTh_sound hs)) fun _ _ hx => coreCnt_sound (record_sound (clearMark_sound hx))

theorem takeLine_sound {tid line : Nat} {d : Bytes} (hs : Sound I s) : Sound I (takeLine s tid line d) := by
  unfold takeLine
  dsimp only
  split
  · exact ite_sound hs (takeLine_enter_sound hs)
  · exact takeLine_enter_sound hs

theorem clearEntry_sound {tid id : Nat} (hs : Sound I s) : Sound I (clearEntry s tid id) :=
  modTh_sound hs

theorem allocEntry_sound {tid : Nat} {names : List Names} {op : LongOp} {due : Option Nat} {exact : Bool} {need : Nat} (hs : Sound I s) :
     Sound I (allocEntry s tid names op due exact need).2 :=
  snd_sound (.upd (setTh_sound hs))

/-! ### Locks -/

theorem lockCnt_sound {off : Nat} (hs : Sound I s) : Sound I (lockCnt s off) :=
  .upd hs

theorem setLock_sound {n : Nat} {v : LockSt} (hs : Sound I s) : Sound I (setLock s n v) :=
  .upd hs

theorem freeLock_sound {n : Nat} (hs : Sound I s) : Sound I (freeLock s n) :=
  .upd hs

theorem grantTo_sound {n tid tick : Nat} {waiters : List LockWait} (hs : Sound I s) : Sound I (grantTo s n tid tick waiters) :=
  setLock_sound hs

theorem passLock_sound {n status tick : Nat} (hs : Sound I s) : Sound I (passLock s n status tick) := by
  unfold passLock
  split
  · exact hs
  · split
    · exact freeLock_sound hs
    · exact .upd (grantTo_sound hs)

theorem lockAnswer_sound {tid entry status : Nat} {flag fault : Option Nat} (hs : Sound I s) :
     Sound I (lockAnswer s tid entry status flag fault) :=
  modTh_sound hs

theorem lockLost_sound {n : Nat} {inj : Bool} (hs : Sound I s) : Sound I (lockLost s n inj) := by
  unfold lockLost
  refine errorIn_sound ?_
  refine lockCnt_sound ?_
  split
  · exact hs
  · exact foldl_sound (freeLock_sound hs) (fun _ _ hx => lockAnswer_sound hx)

theorem lockTouch_sound {n : Nat} (hs : Sound I s) : Sound I (lockTouch s n) := by
  unfold lockTouch
  split
  · exact hs
  · exact ite_sound (lockLost_sound (foldl_sound hs (fun _ _ hx => clearMark_sound hx))) (foldl_sound (foldl_sound hs (fun _ _ hx1 =>
      clearMark_sound hx1)) (fun _ _ hx2 => record_sound hx2))

theorem applyLock_sound {s0 : State} {o : LockOp} (hs0 : Sound I s0) : Sound I (applyLock s0 o).2.2 := by
  unfold applyLock
  dsimp only
  split
  · refine ite_snd_snd_sound (snd_snd_sound (lockCnt_sound (lockTouch_sound hs0))) ?_
    refine ite_snd_snd_sound (snd_snd_sound (lockTouch_sound hs0)) ?_
    refine ite_snd_snd_sound (snd_snd_sound (lockTouch_sound hs0)) ?_
    split
    · exact snd_snd_sound (grantTo_sound (lockCnt_sound (lockCnt_sound (lockTouch_sound hs0))))
    · exact snd_snd_sound (.upd (setLock_sound (lockCnt_sound (lockTouch_sound hs0))))
  · refine ite_snd_snd_sound (snd_snd_sound (lockCnt_sound (lockTouch_sound hs0))) ?_
    refine ite_snd_snd_sound (snd_snd_sound (lockTouch_sound hs0)) ?_
    split
    · exact snd_snd_sound (grantTo_sound (lockCnt_sound (lockCnt_sound (lockTouch_sound hs0))))
    · exact snd_snd_sound (lockCnt_sound (lockCnt_sound (lockTouch_sound hs0)))
  · exact ite_snd_snd_sound (snd_snd_sound (passLock_sound (lockCnt_sound (lockTouch_sound hs0)))) (snd_snd_sound (record_sound
      (lockCnt_sound (lockTouch_sound hs0))))
  · refine ite_snd_snd_sound (snd_snd_sound (lockCnt_sound (lockTouch_sound hs0))) ?_
    split
    · exact snd_snd_sound (passLock_sound (lockCnt_sound (lockTouch_sound hs0)))
    · exact snd_snd_sound (lockTouch_sound hs0)

theorem settleOne_sound {o : LockOp} (hs : Sound I s) : Sound I (settleOne s o) := by
  unfold settleOne
  dsimp only
  split
  · exact lockAnswer_sound (applyLock_sound hs)
  · exact modTh_sound (applyLock_sound hs)

theorem settleLocks_sound {upto : Nat} (hs : Sound I s) : Sound I (settleLocks s upto) := by
  unfold settleLocks
  split
  · exact hs
  · exact ite_sound hs (foldl_sound (.upd hs) (fun _ _ hx => settleOne_sound hx))

theorem locksRevoke_sound {s0 : State} {tid : Nat} (hs0 : Sound I s0) : Sound I (locksRevoke s0 tid) :=
  foldl_sound (.upd (settleLocks_sound hs0)) (fun _ _ hx => passLock_sound (lockCnt_sound hx))

theorem execLockGrant_sound {s0 : State} (hs0 : Sound I s0) : Completes I (execLockGrant s0) := by
  unfold execLockGrant
  refine next_sound ?_
  dsimp only
  split
  · exact settleLocks_sound hs0
  · exact lockAnswer_sound (lockCnt_sound (.upd (settleLocks_sound hs0)))

theorem execLockWaitTimeout_sound {lock : Fin 4096} {s0 : State} (hs0 : Sound I s0) : Completes I (execLockWaitTimeout lock s0) := by
  unfold execLockWaitTimeout
  refine next_sound ?_
  dsimp only
  split
  · exact settleLocks_sound hs0
  · split
    · exact settleLocks_sound hs0
    · exact lockAnswer_sound (lockCnt_sound (setLock_sound (advanceTo_sound (settleLocks_sound hs0))))

theorem execLockHoldLong_sound {lock : Fin 4096} {s0 : State} (hs0 : Sound I s0) : Completes I (execLockHoldLong lock s0) := by
  unfold execLockHoldLong
  refine next_sound ?_
  dsimp only
  split
  · exact settleLocks_sound hs0
  · exact ite_sound (settleLocks_sound hs0) (record_sound (lockCnt_sound (setLock_sound (advanceTo_sound (settleLocks_sound hs0)))))

theorem execLockStatus_sound {mb : MbId} {lock : BitVec 16} {s0 : State} (hs0 : Sound I s0) : Completes I (execLockStatus mb lock s0) := by
  unfold execLockStatus
  refine next_sound ?_
  refine whenReady_sound (settleLocks_sound hs0) ?_
  intro _ hx
  refine ite_sound (reply_sound hx) ?_
  dsimp only
  split
  · exact reply_sound (lockTouch_sound hx)
  · exact reply_sound (lockTouch_sound hx)

theorem execLockForceRelease_sound {mb : MbId} {lock : BitVec 16} {s0 : State} (hs0 : Sound I s0) :
     Completes I (execLockForceRelease mb lock s0) := by
  unfold execLockForceRelease
  refine next_sound ?_
  refine whenReady_sound (settleLocks_sound hs0) ?_
  intro _ hx
  refine ite_sound (reply_sound hx) ?_
  dsimp only
  split
  · exact reply_sound (lockTouch_sound hx)
  · exact reply_sound (passLock_sound (lockCnt_sound (lockTouch_sound hx)))

theorem execLockGroupStatus_sound {mb : MbId} {group : BitVec 8} {s0 : State} (hs0 : Sound I s0) :
     Completes I (execLockGroupStatus mb group s0) :=
  next_sound (whenReady_sound (settleLocks_sound hs0) (fun _ hx => ite_sound (reply_sound hx) (reply_sound hx)))

/-! ### Copro -/

theorem withTag_sound {r : Table W64} {verify : Bool} {tag : Bytes} (hs : Sound I s) : Sound I (withTag s r verify tag).2 := by
  unfold withTag
  split
  · exact ite_snd_sound (snd_sound hs) (snd_sound hs)
  · exact ite_snd_sound (snd_sound (drawFree_sound hs)) (snd_sound (drawFree_sound (drawFree_sound hs)))

theorem sealerRun_sound {d func : Nat} {r : Table W64} {b : Bytes} (hs : Sound I s) : Sound I (sealerRun s d func r b).2.2 := by
  unfold sealerRun
  extract_lets key fin f g open_ tooLong p w
  have hopen (k : Nat) : Sound I (open_ k).2 := drawFree_sound (drawFree_sound hs)
  have hfin {x : Table W64 × State} (h : Sound I x.2) : Sound I (fin x).2.2 := h
  split
  · exact hfin hs
  · exact hfin hs
  · exact hfin (withTag_sound hs)
  · exact hfin (withTag_sound hs)
  · exact hfin hs
  · exact hfin (ite_snd_sound (hopen 2) hs)
  · exact hfin (ite_snd_sound (hopen 0) (withTag_sound hs))
  · exact hfin (ite_snd_sound (drawFree_sound hs) (withTag_sound hs))
  · exact hfin hs
  · split
    · exact hs
    · exact hfin hs
  · exact hs

theorem copRelease_sound {u k : Nat} (hs : Sound I s) : Sound I (copRelease s u k) := by
  unfold copRelease
  refine modCop_sound ?_
  refine Sound.updFault ?_ rfl rfl rfl
  split
  · exact modTh_sound hs
  · exact hs

theorem copsRevoke_sound {tid : Nat} (hs : Sound I s) : Sound I (copsRevoke s tid) :=
  foldl_sound hs (fun _ _ hx => ite_sound (copRelease_sound hx) hx)

theorem copParity_sound {tid k entry : Nat} {ms : List ErrorMark} (hs : Sound I s) : Sound I (copParity s tid k entry ms) :=
  copCnt_sound (errorIn_sound (raiseFault_sound (modCop_sound (foldl_sound hs (fun _ _ hx => clearMark_sound hx)))))

theorem execSealerKeyInstall_sound {mb : MbId} {index : BitVec 16} {domain use : BitVec 8} {wrapped : Bytes} (hs : Sound I s) :
     Completes I (execSealerKeyInstall mb index domain use wrapped s) := by
  unfold execSealerKeyInstall
  refine next_sound ?_
  refine whenReady_sound hs ?_
  intro _ hx
  refine ite_sound (reply_sound hx) ?_
  split
  · exact reply_sound hx
  · split
    · exact reply_sound hx
    · exact reply_sound (.upd hx)

theorem execSealerKeyErase_sound {mb : MbId} {index : BitVec 16} (hs : Sound I s) : Completes I (execSealerKeyErase mb index s) :=
  next_sound (whenReady_sound hs (fun _ hx => ite_sound (reply_sound hx) (ite_sound (reply_sound hx) (reply_sound (.upd hx)))))

theorem execSealerKeyStatus_sound {mb : MbId} {index : BitVec 16} (hs : Sound I s) : Completes I (execSealerKeyStatus mb index s) := by
  unfold execSealerKeyStatus
  refine next_sound ?_
  refine whenReady_sound hs ?_
  intro _ hx
  refine ite_sound (reply_sound hx) ?_
  split
  · exact reply_sound hx
  · exact reply_sound hx

/-! ### Pairs -/

theorem modPairItem_sound {key : Nat} {f : PairItem → PairItem} (hs : Sound I s) : Sound I (modPairItem s key f) :=
  .updFault hs rfl rfl rfl

theorem pairDrop_sound {x : PairItem} (hs : Sound I s) : Sound I (pairDrop s x) :=
  ite_sound (unitRelease_sound (unitRelease_sound (.updFault (orderDrop_sound hs) rfl rfl rfl))) (unitRelease_sound (.updFault
      (orderDrop_sound hs) rfl rfl rfl))

theorem pairAbandon_sound {key : Nat} (hs : Sound I s) : Sound I (pairAbandon s key) := by
  unfold pairAbandon
  split
  · exact faultCount_sound (pairDrop_sound hs)
  · exact hs

theorem pairPost_sound {tid : Nat} {it : Item} {side : Nat} {d : Bytes} {last : Bool} {words : List (Nat × Bytes)} (hs : Sound I s) :
     Sound I (pairPost s tid it side d last words).2 := by
  unfold pairPost
  dsimp only
  split
  · exact snd_sound (foldl_sound (unslot_sound hs) (fun _ _ hx => bufDrop_sound hx))
  · refine ite_snd_sound (snd_sound hs) ?_
    refine ite_snd_sound ?_ (snd_sound (modPairItem_sound (unslot_sound hs)))
    split
    · exact snd_sound (faultCount_sound (pairDrop_sound (modPairItem_sound (unslot_sound hs))))
    · exact snd_sound (modPairItem_sound (unslot_sound hs))

theorem execPairDecision_sound {pair : BitVec 9} {entry : Nat} (hs : Sound I s) : Completes I (execPairDecision pair entry s) := by
  unfold execPairDecision
  refine next_sound ?_
  split
  · exact hs
  · exact ite_sound hs (ite_sound (faultCount_sound (pairDrop_sound hs)) (ite_sound (foldl_sound (unitRelease_sound (.updFault (foldl_sound
      (faultCount_sound (.updFault hs rfl rfl rfl)) (fun _ _ hx => hbmPut_sound hx)) rfl rfl rfl)) (fun _ _ hx1 => postEntry_sound hx1))
      (errorIn_sound (faultCount_sound (pairDrop_sound (faultCount_sound (.updFault hs rfl rfl rfl)))))))

theorem execPairWaitTimeout_sound {pair : BitVec 9} {entry : Nat} {s0 : State} (hs0 : Sound I s0) :
     Completes I (execPairWaitTimeout pair entry s0) := by
  unfold execPairWaitTimeout
  refine next_sound ?_
  split
  · exact hs0
  · split
    · exact hs0
    · exact ite_sound hs0 (errorIn_sound (faultCount_sound (pairDrop_sound (advanceTo_sound hs0))))

/-! ### Dispatcher -/

theorem discardItem_sound {n : Nat} {it : Item} (hs : Sound I s) : Sound I (discardItem s n it) := by
  unfold discardItem
  split
  · exact ite_sound (unitRelease_sound (pairAbandon_sound hs)) (pairAbandon_sound hs)
  · exact unitRelease_sound (ite_sound (orderDrop_sound hs) hs)

theorem setQ_sound {n : Nat} {q : DispQueue} (hs : Sound I s) : Sound I (setQ s n q) :=
  modCl_sound hs

theorem enterQueue_sound {n : Nat} {it0 : Item} (hs : Sound I s) : Sound I (enterQueue s n it0) := by
  unfold enterQueue
  refine ite_sound (setQ_sound hs) ?_
  refine ite_sound ?_ (ite_sound (dispCnt_sound (setQ_sound hs)) (discardItem_sound hs))
  split
  · exact dispCnt_sound (setQ_sound hs)
  · exact ite_sound (dispCnt_sound (setQ_sound hs)) (discardItem_sound hs)

theorem execUnspill_sound {cluster : ClusterId} {pool : BitVec 16} (hs : Sound I s) : Completes I (execUnspill cluster pool s) := by
  unfold execUnspill
  refine next_sound ?_
  dsimp only
  split
  · exact hs
  · split
    · exact hs
    · exact ite_sound hs (dispCnt_sound (setQ_sound hs))

theorem enterItem_sound {it : Item} {pass : Bool} (hs : Sound I s) : Sound I (enterItem s it pass) := by
  unfold enterItem
  dsimp only
  split
  · exact discardItem_sound hs
  · refine ite_sound (ageDrop_sound (discardItem_sound hs)) ?_
    refine ite_sound (discardItem_sound hs) ?_
    refine ite_sound (discardItem_sound (dispCnt_sound hs)) ?_
    refine ite_sound (discardItem_sound (faultCount_sound hs)) ?_
    split
    · exact enterQueue_sound (ite_sound (dispCnt_sound hs) hs)
    · split
      · rename_i e
        exact faultCount_sound (discardItem_sound ((hodHold_sound (ite_sound (dispCnt_sound hs) hs)).of_snd e))
      · rename_i e1
        exact ite_sound (pairAbandon_sound (enterQueue_sound (.updFault ((hodHold_sound (ite_sound (dispCnt_sound hs) hs)).of_snd e1) rfl
            rfl rfl))) (enterQueue_sound (enterQueue_sound (.updFault ((hodHold_sound (ite_sound (dispCnt_sound hs) hs)).of_snd e1) rfl rfl
            rfl)))

theorem execDispatchEnqueue_sound {s0 : State} (hs0 : Sound I s0) : Completes I (execDispatchEnqueue s0) := by
  unfold execDispatchEnqueue
  refine next_sound ?_
  split
  · exact hs0
  · exact enterItem_sound (advanceTo_sound (.upd hs0))

theorem windowOf_sound {n : Nat} {it : Item} {winStart : Nat} (hs : Sound I s) : Sound I (windowOf s n it winStart).2.2 :=
  snd_snd_sound (hbmRead_sound hs)

theorem queueTouch_sound {n : Nat} {it : Item} (hs : Sound I s) : Sound I (queueTouch s n it).2 :=
  foldl_snd_sound (snd_sound hs) (fun _ _ hx => ite_snd_sound hx (ite_snd_sound (snd_sound (record_sound (clearMark_sound hx)))
      (ite_snd_sound (snd_sound (errorIn_sound (clearMark_sound hx))) (snd_sound (errorIn_sound (clearMark_sound hx))))))

theorem execDispatchFill_sound {cluster : ClusterId} {s0 : State} (hs0 : Sound I s0) : Completes I (execDispatchFill cluster s0) := by
  unfold execDispatchFill
  refine next_sound ?_
  refine ite_sound hs0 ?_
  split
  · exact hs0
  · refine ite_sound (discardItem_sound (setQ_sound (queueTouch_sound (advanceTo_sound hs0)))) ?_
    refine ite_sound (queueTouch_sound (advanceTo_sound hs0)) ?_
    split
    · exact discardItem_sound (windowOf_sound (setQ_sound (queueTouch_sound (advanceTo_sound hs0))))
    · refine modTh_sound ?_
      split
      · exact dispCnt_sound (windowOf_sound (setQ_sound (queueTouch_sound (advanceTo_sound hs0))))
      · exact modSlots_sound (dispCnt_sound (windowOf_sound (setQ_sound (queueTouch_sound (advanceTo_sound hs0)))))

theorem discardHeld_sound {tid : Nat} {it : Item} (hs : Sound I s) : Sound I (discardHeld s tid it) := by
  unfold discardHeld
  split
  · exact ite_sound (bufDrop_sound (modSlots_sound (pairAbandon_sound hs))) (pairAbandon_sound hs)
  · exact ite_sound (bufDrop_sound (modSlots_sound (ite_sound (orderDrop_sound hs) hs))) (ite_sound (orderDrop_sound hs) hs)

/-! ### Restart -/

theorem dropResults_sound {tid : Nat} (hs : Sound I s) : Sound I (dropResults s tid) :=
  .upd hs

theorem dropStores_sound {tid : Nat} (hs : Sound I s) : Sound I (dropStores s tid) :=
  modTh_sound (.upd hs)

theorem flushPassing_sound {tid : Nat} (hs : Sound I s) : Sound I (flushPassing s tid) :=
  foldl_sound (modTh_sound hs) (fun _ _ hx => enterItem_sound hx)

theorem dropTimers_sound {tid : Nat} (hs : Sound I s) : Sound I (dropTimers s tid) :=
  modCl_sound hs

theorem revokeThread_sound {tid : Nat} {keepShadow : Bool} (hs : Sound I s) : Sound I (revokeThread s tid keepShadow) := by
  unfold revokeThread
  refine modTh_sound ?_
  refine dropStores_sound ?_
  refine dropResults_sound ?_
  refine dropTimers_sound ?_
  refine copsRevoke_sound ?_
  refine locksRevoke_sound ?_
  refine foldl_sound ?_ (fun _ _ hx => revokeRef_sound hx)
  refine modSlots_sound ?_
  split
  · refine ite_sound ?_ ?_
    · split
      · exact ite_sound (faultCount_sound (flushPassing_sound hs)) (discardHeld_sound (faultCount_sound (flushPassing_sound hs)))
      · exact faultCount_sound (flushPassing_sound hs)
    · refine discardHeld_sound ?_
      split
      · exact ite_sound (faultCount_sound (flushPassing_sound hs)) (discardHeld_sound (faultCount_sound (flushPassing_sound hs)))
      · exact faultCount_sound (flushPassing_sound hs)
  · split
    · exact ite_sound (faultCount_sound (flushPassing_sound hs)) (discardHeld_sound (faultCount_sound (flushPassing_sound hs)))
    · exact faultCount_sound (flushPassing_sound hs)

theorem exceptionRestart_sound {tid cause eaddr t0 : Nat} (hs : Sound I s) : Sound I (exceptionRestart s tid cause eaddr t0) := by
  unfold exceptionRestart
  exact modTh_sound (dispCnt_sound (revokeThread_sound (errorIn_sound hs)))

theorem rebindRestart_sound {tid p : Nat} {b : Binding} (hs : Sound I s) : Sound I (rebindRestart s tid p b) := by
  unfold rebindRestart
  exact modTh_sound (dropResults_sound (copsRevoke_sound (locksRevoke_sound (flushPassing_sound hs))))

theorem threadStop_sound {tid : Nat} (hs : Sound I s) : Sound I (threadStop s tid) :=
  modTh_sound (revokeThread_sound hs)

theorem threadStart_sound {tid at_ : Nat} {b : Binding} (hs : Sound I s) : Sound I (threadStart s tid at_ b) :=
  modTh_sound hs

theorem enterHandler_sound {v : Thread} {tid cause : Nat} {eaddr : Option Nat} {place : Nat × Nat} {pc nextAt : Nat} (hs : Sound I s) :
     Sound I (enterHandler s v tid cause eaddr place pc nextAt) :=
  modTh_sound hs

theorem deliverExc_sound {v : Thread} {tid p addr len : Nat} {trap : Bool} {e : Exc} (hs : Sound I s) :
     Sound I (deliverExc s v tid p addr len trap e) :=
  ite_sound (exceptionRestart_sound (ite_sound (coreCnt_sound hs) (ite_sound (coreCnt_sound hs) hs))) (enterHandler_sound (ite_sound
      (coreCnt_sound hs) (ite_sound (coreCnt_sound hs) hs)))

end Sys2Proof.Proofs.StepInvariants
end

section
/-!
PROOFS. The laws that every step keeps: the words of Skim and Render.
-/

namespace Sys2Proof.Proofs.StepInvariants
open Sys2Proof Sys2Proof.Machine

variable {I : Law} {s : State}

/-! ### Issue -/

theorem slotFor_sound {tid p : Nat} {t : State} (hs : Sound I s) (e : slotFor s tid = some (p, t)) : Sound I t := by
  unfold slotFor at e
  dsimp only at e
  split at e
  · nomatch e
  · split at e
    · nomatch e
    · split at e
      · nomatch e
      · cases e
        exact modTh_sound (landTh_sound (landCl_sound (advanceTo_sound hs)))

theorem stage3_sound {tid p : Nat} (hs : Sound I s) : Sound I (stage3 s tid p) :=
  landTh_sound (landCl_sound hs)

theorem finishWord_sound {v : State} {c : Ctx} {ctl : Ctl} (hs : Sound I s) (_ : Sound I v) : Sound I (finishWord s v c ctl) := by
  unfold finishWord
  dsimp only
  split
  · exact coreCnt_sound (modTh_sound hs)
  · exact deliverExc_sound hs
  · exact coreCnt_sound (modTh_sound hs)
  · exact coreCnt_sound (modTh_sound hs)
  · exact modTh_sound hs
  · exact modTh_sound hs
  · exact coreCnt_sound (modTh_sound hs)
  · exact ite_sound (coreCnt_sound (modTh_sound hs)) (modTh_sound hs)
  · exact coreCnt_sound (modTh_sound hs)
  · exact hs

theorem res_sound {c : Ctx} {lat : Nat} {d : Dst} (hs : Sound I s) : Sound I (res s c lat d) :=
  pendTh_sound hs

theorem resFlags_sound {c : Ctx} {f : Option Fl} (hs : Sound I s) : Sound I (resFlags s c f) := by
  unfold resFlags
  split
  · exact res_sound hs
  · exact hs

theorem askLoad_sound {tid a n entry : Nat} {use : HbmFor} (hs : Sound I s) : Sound I (askLoad s tid a n entry use) := by
  unfold askLoad
  split
  · exact .upd hs
  · exact ite_sound (foldl_sound hs (fun _ _ hx => windowRead_sound hx)) (loadPart_sound hs)
  · exact ite_sound hs (hostCount_sound (loadPart_sound hs))
  · exact hs

theorem longLoad_sound {c : Ctx} {a n : Nat} {names : List Names} {op : LongOp} {lr : Bool} (hs : Sound I s) :
     Sound I (longLoad s c a n names op lr) :=
  askLoad_sound (allocEntry_sound hs)

theorem longStore_sound {c : Ctx} {a : Nat} {d : Bytes} (hs : Sound I s) : Sound I (longStore s c a d) := by
  unfold longStore
  dsimp only
  split
  · exact .upd (modTh_sound hs)
  · exact ite_sound (foldl_sound (modTh_sound hs) (fun _ _ hx => windowWrite_sound hx)) (storePart_sound (modTh_sound hs))
  · exact ite_sound (modTh_sound hs) (hostCount_sound (storePart_sound (modTh_sound hs)))
  · exact modTh_sound hs

theorem loadReg_sound {v : State} {c : Ctx} {pl : Place} {f : LoadFmt} {r : Reg} (_ : Sound I v) (hs : Sound I s) :
     Sound I (loadReg v s c pl f r) := by
  unfold loadReg
  split
  · exact longLoad_sound hs
  · exact res_sound hs

theorem storeTo_sound {c : Ctx} {pl : Place} {d : Bytes} (hs : Sound I s) : Sound I (storeTo s c pl d) := by
  unfold storeTo
  split
  · exact longStore_sound hs
  · exact shortWrite_sound hs

theorem opEntry_sound {c : Ctx} {opd2 n : Nat} {op : LongOp} {due : Option Nat} {exact : Bool} (hs : Sound I s) :
     Sound I (opEntry s c opd2 n op due exact).2 :=
  allocEntry_sound hs

/-! ### SkimOps -/

theorem semHalf_sound {v : State} {c : Ctx} {h : Half} (hv : Sound I v) (hs : Sound I s) : Sound I (semHalf v s c h) := by
  unfold semHalf
  dsimp only
  split
  · exact hs
  · exact loadReg_sound hv hs
  · exact storeTo_sound hs
  · refine resFlags_sound ?_
    split
    · exact res_sound hs
    · exact hs

theorem semPaired_sound {c : Ctx} {a b : Half} {v : State} (hv : Sound I v) (hs : Sound I s) : Sound I (semPaired c a b v s).1 := by
  unfold semPaired
  split
  · exact fst_sound hs
  · exact fst_sound hs
  · exact fst_sound (coreCnt_sound (semHalf_sound hv (semHalf_sound hv hs)))

theorem semAlu_sound {c : Ctx} {fn d sk src imm : Nat} {v : State} (_ : Sound I v) (hs : Sound I s) :
     Sound I (semAlu c fn d sk src imm v s).1 := by
  unfold semAlu
  refine fst_sound ?_
  refine resFlags_sound ?_
  split
  · exact res_sound hs
  · exact hs

theorem semInsh_sound {c : Ctx} {d imm : Nat} {v : State} (_ : Sound I v) (hs : Sound I s) : Sound I (semInsh c d imm v s).1 :=
  fst_sound (res_sound hs)

theorem semLd_sound {c : Ctx} {r size am : Nat} {f : LoadFmt} {z0 : Bool} {disp : Nat} {v : State} (hv : Sound I v) (hs : Sound I s) :
     Sound I (semLd c r size am f z0 disp v s).1 := by
  unfold semLd
  dsimp only
  split
  · exact fst_sound hs
  · exact fst_sound (loadReg_sound hv hs)

theorem semSt_sound {c : Ctx} {r size am : Nat} {f : LoadFmt} {z0 : Bool} {disp : Nat} {v : State} (_ : Sound I v) (hs : Sound I s) :
     Sound I (semSt c r size am f z0 disp v s).1 := by
  unfold semSt
  dsimp only
  split
  · exact fst_sound hs
  · exact fst_sound (storeTo_sound hs)

theorem semTas_sound {c : Ctx} {r am : Nat} {z0 : Bool} {disp : Nat} {v : State} (_ : Sound I v) (hs : Sound I s) :
     Sound I (semTas c r am z0 disp v s).1 := by
  unfold semTas
  dsimp only
  split
  · exact fst_sound hs
  · exact fst_sound hs
  · exact fst_sound (clusterOp_sound (allocEntry_sound hs))
  · exact fst_sound hs

theorem semLoop_sound {c : Ctx} {csrc body imm : Nat} (hs : Sound I s) : Sound I (semLoop c csrc body imm s).1 :=
  ite_fst_sound (fst_sound (modTh_sound hs)) (fst_sound (modTh_sound hs))

theorem semSetlc_sound {c : Ctx} {csrc imm : Nat} (hs : Sound I s) : Sound I (semSetlc c csrc imm s).1 :=
  fst_sound (modTh_sound hs)

theorem semBr_sound {c : Ctx} {cond target : Nat} {v : State} (_ : Sound I v) (hs : Sound I s) : Sound I (semBr c cond target v s).1 :=
  fst_sound hs

theorem semBal_sound {c : Ctx} {target link : Nat} (hs : Sound I s) : Sound I (semBal c target link s).1 :=
  fst_sound (res_sound hs)

theorem semJr_sound {c : Ctx} {r : Nat} {v : State} (_ : Sound I v) (hs : Sound I s) : Sound I (semJr c r v s).1 :=
  fst_sound hs

theorem semFence_sound {c : Ctx} (hs : Sound I s) : Sound I (semFence c s).1 :=
  fst_sound (modTh_sound (finishWord_sound (coreCnt_sound hs) hs))

theorem semMfs_sound {c : Ctx} {r n : Nat} {v : State} (_ : Sound I v) (hs : Sound I s) : Sound I (semMfs c r n v s).1 :=
  fst_sound (res_sound hs)

theorem semMts_sound {c : Ctx} {r n : Nat} {v : State} (_ : Sound I v) (hs : Sound I s) : Sound I (semMts c r n v s).1 :=
  fst_sound (res_sound hs)

theorem semFmov_sound {c : Ctx} {dir : Bool} {r : Nat} {v : State} (_ : Sound I v) (hs : Sound I s) : Sound I (semFmov c dir r v s).1 :=
  fst_sound (ite_sound (res_sound hs) (res_sound hs))

theorem rebind_sound {tid p epoch : Nat} (hs : Sound I s) : Sound I (rebind s tid p epoch).2 := by
  unfold rebind
  dsimp only
  split
  · exact ite_snd_sound (snd_sound (modTh_sound hs)) (snd_sound (rebindRestart_sound (modTh_sound hs)))
  · exact snd_sound hs

theorem nextSwap_sound {tid p : Nat} (hs : Sound I s) : Sound I (nextSwap s tid p).2 := by
  unfold nextSwap
  dsimp only
  split
  · exact snd_sound hs
  · refine rebind_sound ?_
    refine modTh_sound ?_
    split
    · exact ite_sound hs (dispCnt_sound (discardHeld_sound hs))
    · exact hs

theorem semNext_sound {c : Ctx} (hs : Sound I s) : Sound I (semNext c s).1 :=
  ite_fst_sound (fst_sound (rebind_sound (modTh_sound hs))) (ite_fst_sound (fst_sound (nextSwap_sound hs)) (fst_sound hs))

theorem semPass_sound {c : Ctx} {o2 : Nat} {v : State} (_ : Sound I v) (hs : Sound I s) : Sound I (semPass c o2 v s).1 := by
  unfold semPass
  split
  · exact fst_sound hs
  · dsimp only
    split
    · exact fst_sound (opEntry_sound hs)
    · exact ite_fst_sound (fst_sound (opEntry_sound hs)) (ite_fst_sound (fst_sound (opEntry_sound (dispCnt_sound hs))) (fst_sound
        (modTh_sound (opEntry_sound (modSlots_sound (foldl_sound hs (fun _ _ hx => hbmPut_sound hx)))))))

theorem semWait_sound {c : Ctx} (hs : Sound I s) : Sound I (semWait c s).1 :=
  ite_fst_sound (fst_sound hs) (fst_sound hs)

theorem addTimer_sound {e : TimerEnt} (hs : Sound I s) : Sound I (addTimer s e).2 :=
  ite_snd_sound (snd_sound hs) (snd_sound (modCl_sound hs))

theorem endSleep_sound {tid : Nat} (hs : Sound I s) : Sound I (endSleep s tid) :=
  modTh_sound (modCl_sound hs)

theorem semSleep_sound {c : Ctx} {v : State} (_ : Sound I v) (hs : Sound I s) : Sound I (semSleep c v s).1 := by
  unfold semSleep
  refine ite_fst_sound ?_ ?_
  · split
    · exact ite_fst_sound (fst_sound (res_sound (endSleep_sound hs))) (fst_sound hs)
    · exact fst_sound (res_sound (endSleep_sound hs))
  · split
    · rename_i e
      exact fst_sound (res_sound (dispCnt_sound hs))
    · rename_i e1
      exact ite_fst_sound (fst_sound ((addTimer_sound hs).of_snd e1)) (fst_sound (modTh_sound ((addTimer_sound hs).of_snd e1)))

theorem semTmrset_sound {c : Ctx} {o2 : Nat} {v : State} (_ : Sound I v) (hs : Sound I s) : Sound I (semTmrset c o2 v s).1 := by
  unfold semTmrset
  split
  · exact fst_sound hs
  · exact fst_sound (opEntry_sound hs)

theorem semTmrcan_sound {c : Ctx} {o2 : Nat} {v : State} (_ : Sound I v) (hs : Sound I s) : Sound I (semTmrcan c o2 v s).1 := by
  unfold semTmrcan
  split
  · exact fst_sound hs
  · exact fst_sound (opEntry_sound hs)

theorem semTmrpop_sound {c : Ctx} (hs : Sound I s) : Sound I (semTmrpop c s).1 := by
  unfold semTmrpop
  split
  · exact fst_sound (res_sound hs)
  · exact fst_sound (res_sound (res_sound (modCl_sound hs)))

theorem semChsend_sound {c : Ctx} {o1 o2 : Nat} {h : Bool} {v : State} (_ : Sound I v) (hs : Sound I s) :
     Sound I (semChsend c o1 o2 h v s).1 := by
  unfold semChsend
  split
  · exact fst_sound hs
  · exact fst_sound (opEntry_sound hs)

theorem semSignal_sound {c : Ctx} {o1 o2 : Nat} {v : State} (_ : Sound I v) (hs : Sound I s) : Sound I (semSignal c o1 o2 v s).1 := by
  unfold semSignal
  split
  · exact fst_sound hs
  · exact fst_sound (opEntry_sound hs)

theorem takeMessage_sound {tid k land : Nat} (hs : Sound I s) : Sound I (takeMessage s tid k land) := by
  unfold takeMessage
  split
  · exact pendTh_sound hs
  · exact pendTh_sound (pendTh_sound (pendTh_sound (modTh_sound hs)))

theorem semChrecv_sound {c : Ctx} {o1 : Nat} (hs : Sound I s) : Sound I (semChrecv c o1 s).1 :=
  ite_fst_sound (fst_sound (takeMessage_sound hs)) (ite_fst_sound (fst_sound hs) (fst_sound (res_sound hs)))

theorem semSr_sound {c : Ctx} {sub r n : Nat} {v : State} (_ : Sound I v) (hs : Sound I s) : Sound I (semSr c sub r n v s).1 := by
  unfold semSr
  refine ite_fst_sound (fst_sound (drawFree_sound hs)) ?_
  dsimp only
  split
  · exact fst_sound (res_sound hs)
  · exact fst_sound (clusterOp_sound hs)
  · exact fst_sound (clusterOp_sound hs)
  · exact fst_sound (clusterOp_sound hs)

/-! ### SkimLong -/

theorem decided_sound {c : Ctx} {o2 : Nat} {d : Bytes} {flag fault due : Option Nat} {exact : Bool} (hs : Sound I s) :
     Sound I (decided s c o2 d flag fault due exact) :=
  opEntry_sound hs

theorem semLookup_sound {c : Ctx} {o1 o2 : Nat} {v : State} (_ : Sound I v) (hs : Sound I s) : Sound I (semLookup c o1 o2 v s).1 := by
  unfold semLookup
  split
  · exact fst_sound hs
  · exact fst_sound hs
  · exact ite_fst_sound (fst_sound (decided_sound hs)) (fst_sound (decided_sound (lookupRun_sound hs)))

theorem semLearn_sound {c : Ctx} {o1 : Nat} {v : State} (_ : Sound I v) (hs : Sound I s) : Sound I (semLearn c o1 v s).1 := by
  unfold semLearn
  split
  · exact fst_sound hs
  · dsimp only
    split
    · exact fst_sound (tabCnt_sound (tabCnt_sound hs))
    · exact fst_sound (learnPost_sound hs)

theorem bufAlloc_sound {t : Thread} {tid n : Nat} (hs : Sound I s) : Sound I (bufAlloc s t tid n).2 := by
  unfold bufAlloc
  refine ite_snd_sound (snd_sound hs) ?_
  split
  · rename_i e
    exact snd_sound (modSlots_sound ((hodAlloc_sound hs).of_snd e))
  · rename_i e1
    exact snd_sound ((hodAlloc_sound hs).of_snd e1)
  · rename_i e2
    exact snd_sound ((hodAlloc_sound hs).of_snd e2)

theorem bufHold_sound {t : Thread} {tid h : Nat} (hs : Sound I s) : Sound I (bufHold s t tid h).2 := by
  unfold bufHold
  refine ite_snd_sound (snd_sound (stateTouch_sound hs)) ?_
  split
  · rename_i e
    exact snd_sound ((hodHold_sound hs).of_snd e)
  · rename_i e1
    exact snd_sound (modSlots_sound ((hodHold_sound hs).of_snd e1))

theorem bufRelease_sound {t : Thread} {tid h : Nat} (hs : Sound I s) : Sound I (bufRelease s t tid h).2 := by
  unfold bufRelease
  split
  · rename_i e
    exact snd_sound ((hodRelease_sound hs).of_snd e)
  · rename_i e1
    exact snd_sound ((hodRelease_sound hs).of_snd e1)

theorem semBuf_sound {c : Ctx} {sub r o2 : Nat} {v : State} (_ : Sound I v) (hs : Sound I s) : Sound I (semBuf c sub r o2 v s).1 := by
  unfold semBuf
  split
  · exact fst_sound hs
  · dsimp only
    split
    · exact fst_sound (decided_sound (bufAlloc_sound hs))
    · exact fst_sound (decided_sound (bufHold_sound hs))
    · exact fst_sound (decided_sound (bufRelease_sound hs))

theorem postItem_sound {v : State} {c : Ctx} {it : Item} {d : Bytes} {last : Bool} (_ : Sound I v) (hs : Sound I s) :
     Sound I (postItem v s c it d last).2 := by
  unfold postItem
  dsimp only
  split
  · exact pairPost_sound hs
  · exact ite_snd_sound (snd_sound (orderCnt_sound hs)) (ite_snd_sound (snd_sound (foldl_sound (postEntry_sound hs) (fun _ _ hx =>
      hbmPut_sound hx))) (postEntry_sound hs))

theorem postedItem_sound {c : Ctx} {st : Nat} {last : Bool} (hs : Sound I s) : Sound I (postedItem s c st last) :=
  ite_sound (modTh_sound hs) hs

theorem semEpost_sound {c : Ctx} {direct last : Bool} {o1 o2 : Nat} {v : State} (hv : Sound I v) (hs : Sound I s) :
     Sound I (semEpost c direct last o1 o2 v s).1 := by
  unfold semEpost
  split
  · exact fst_sound hs
  · exact fst_sound hs
  · refine ite_fst_sound ?_ ?_
    · split
      · rename_i e
        exact fst_sound (decided_sound (postedItem_sound ((postDirect_sound hs).of_snd e)))
      · rename_i e1
        exact fst_sound (opEntry_sound (postedItem_sound ((postDirect_sound hs).of_snd e1)))
    · split
      · exact fst_sound (decided_sound (orderCnt_sound hs))
      · exact ite_fst_sound (fst_sound (decided_sound (orderCnt_sound hs))) (fst_sound (decided_sound (postedItem_sound (postItem_sound hv
          hs))))

theorem semTcmd_sound {c : Ctx} {o1 o2 : Nat} {v : State} (_ : Sound I v) (hs : Sound I s) : Sound I (semTcmd c o1 o2 v s).1 := by
  unfold semTcmd
  split
  · exact fst_sound hs
  · exact fst_sound hs
  · exact ite_fst_sound (fst_sound (decided_sound hs)) (fst_sound (opEntry_sound hs))

theorem semLock_sound {c : Ctx} {sub r o2 : Nat} {v : State} (_ : Sound I v) (hs : Sound I s) : Sound I (semLock c sub r o2 v s).1 := by
  unfold semLock
  split
  · exact fst_sound hs
  · exact fst_sound (.upd (opEntry_sound hs))

theorem copClaim_sound {tid k : Nat} {t : State} (hs : Sound I s) (e : copClaim s tid k = .ok t) : Sound I t := by
  unfold copClaim at e
  dsimp only at e
  split at e
  · cases e
    exact modCop_sound hs
  · split at e
    · cases e
      exact hs
    · nomatch e

theorem ownerReject_sound {c : Ctx} {e : Exc} (hs : Sound I s) : Sound I (ownerReject s c e).1 :=
  fst_sound (copCnt_sound hs)

theorem semCop_sound {c : Ctx} {k func args : Nat} {v : State} (_ : Sound I v) (hs : Sound I s) :
     Sound I (semCop c k func args v s).1 := by
  unfold semCop
  dsimp only
  split
  · exact ownerReject_sound hs
  · rename_i e
    split
    · exact fst_sound hs
    · split
      · exact fst_sound (copParity_sound (allocEntry_sound (copClaim_sound hs e)))
      · refine ite_fst_sound (fst_sound (allocEntry_sound (copClaim_sound hs e))) ?_
        split
        · exact fst_sound (allocEntry_sound (copClaim_sound hs e))
        · exact fst_sound (allocEntry_sound (sealerRun_sound (copClaim_sound hs e)))

theorem semCmov_sound {c : Ctx} {k : Nat} {dir : Bool} {r n : Nat} {v : State} (_ : Sound I v) (hs : Sound I s) :
     Sound I (semCmov c k dir r n v s).1 := by
  unfold semCmov
  dsimp only
  split
  · exact ownerReject_sound hs
  · rename_i e
    refine ite_fst_sound ?_ (fst_sound (res_sound (clearMark_sound (copClaim_sound hs e))))
    split
    · exact fst_sound (copParity_sound (drawFree_sound (copClaim_sound hs e)))
    · exact fst_sound (res_sound (copClaim_sound hs e))

theorem semCsave_sound {c : Ctx} {k o1 : Nat} {v : State} (_ : Sound I v) (hs : Sound I s) : Sound I (semCsave c k o1 v s).1 := by
  unfold semCsave
  dsimp only
  split
  · refine ite_fst_sound (ownerReject_sound hs) ?_
    split
    · exact fst_sound hs
    · split
      · exact fst_sound (copParity_sound (drawFree_sound hs))
      · exact fst_sound (res_sound (copCnt_sound (modCop_sound hs)))
  · split
    · exact fst_sound hs
    · exact fst_sound (res_sound hs)

theorem semCrestore_sound {c : Ctx} {k o1 : Nat} {v : State} (_ : Sound I v) (hs : Sound I s) : Sound I (semCrestore c k o1 v s).1 := by
  unfold semCrestore
  dsimp only
  split
  · exact ownerReject_sound hs
  · rename_i e
    split
    · exact fst_sound hs
    · exact fst_sound (allocEntry_sound (copClaim_sound hs e))

/-! ### RenderOps -/

theorem putPtrs_sound {c : Ctx} {g : RProg} (hs : Sound I s) : Sound I (putPtrs s c g) :=
  foldl_sound hs (fun _ _ hx => res_sound hx)

theorem putDest_sound {c : Ctx} {o : GOp} {ops : List Spec} {as : Table (Bool × Nat)} {old r : W64} {lat : Nat} (hs : Sound I s) :
     Sound I (putDest s c o ops as old r lat) := by
  unfold putDest
  split
  · exact res_sound hs
  · split
    · exact storeTo_sound hs
    · exact hs

theorem scStart_sound {c : Ctx} {o : GOp} {r : Reg} {val : W64} {pl : Place} (hs : Sound I s) : Sound I (scStart s c o r val pl) := by
  unfold scStart
  dsimp only
  split
  · exact clusterOp_sound (allocEntry_sound hs)
  · exact .upd (allocEntry_sound hs)
  · exact hs

theorem gFinal_sound {c : Ctx} {o : GOp} {ops : List Spec} {g : RProg} {as : Table (Bool × Nat)} {v : State} (_ : Sound I v) (hs : Sound I s) :
     Sound I (gFinal c o ops g as v s) := by
  unfold gFinal
  refine ite_sound ?_ ?_
  · split
    · exact putDest_sound (putPtrs_sound hs)
    · exact putPtrs_sound hs
  · refine ite_sound ?_ ?_
    · split
      · exact scStart_sound (putPtrs_sound hs)
      · exact putPtrs_sound hs
    · dsimp only
      split
      · refine ite_sound ?_ (longLoad_sound (putPtrs_sound hs))
        split
        · exact longLoad_sound (putPtrs_sound hs)
        · exact putPtrs_sound hs
      · refine ite_sound ?_ ?_
        · split
          · exact res_sound (ite_sound (modTh_sound (putPtrs_sound hs)) (putPtrs_sound hs))
          · exact putPtrs_sound hs
        · refine resFlags_sound ?_
          split
          · exact ite_sound (putDest_sound (putPtrs_sound hs)) (putPtrs_sound hs)
          · exact putPtrs_sound hs

theorem gStep_sound {c : Ctx} {o : GOp} {ops : List Spec} {v : State} {fuel : Nat} {g : RProg} (hv : Sound I v) (hs : Sound I s) :
    Sound I (gStep c o ops v s fuel g).1 := by
  induction fuel generalizing g with
  | zero => exact hs
  | succ fuel ih =>
    unfold gStep
    dsimp only
    split
    · exact hs
    · exact fst_sound (modTh_sound hs)
    · exact fst_sound (modTh_sound hs)
    · split
      · exact hs
      · exact ih
      · exact fst_sound (modTh_sound hs)
    · split
      · exact hs
      · exact ite_fst_sound hs (ite_fst_sound hs (gFinal_sound hv hs))

/-! ### RenderIssue -/

theorem runSk_sound {c : Ctx} {x : SkWord} {v : State} (hv : Sound I v) (hs : Sound I s) : Sound I (runSk c x v s).1 := by
  unfold runSk
  split
  · exact semPaired_sound hv hs
  · exact fst_sound hs
  · exact semAlu_sound hv hs
  · exact semInsh_sound hv hs
  · exact semLd_sound hv hs
  · exact semSt_sound hv hs
  · exact semTas_sound hv hs
  · exact semLoop_sound hs
  · exact semSetlc_sound hs
  · exact semBr_sound hv hs
  · exact semBal_sound hs
  · exact semJr_sound hv hs
  · exact fst_sound hs
  · exact semFence_sound hs
  · exact fst_sound hs
  · exact ite_fst_sound (fst_sound hs) (fst_sound hs)
  · exact semMfs_sound hv hs
  · exact semMts_sound hv hs
  · exact semFmov_sound hv hs
  · split
    · exact semNext_sound hs
    · exact semWait_sound hs
    · exact semSleep_sound hv hs
    · exact semPass_sound hv hs
    · exact semChsend_sound hv hs
    · exact semChrecv_sound hs
    · exact semSignal_sound hv hs
    · exact semTmrset_sound hv hs
    · exact semTmrcan_sound hv hs
    · exact semTmrpop_sound hs
  · exact semSr_sound hv hs
  · exact semLookup_sound hv hs
  · exact semLearn_sound hv hs
  · exact semBuf_sound hv hs
  · exact semEpost_sound hv hs
  · exact semTcmd_sound hv hs
  · exact semLock_sound hv hs
  · exact semCop_sound hv hs
  · exact semCmov_sound hv hs
  · exact ite_fst_sound (semCrestore_sound hv hs) (semCsave_sound hv hs)

theorem issueSk_sound {c : Ctx} {x : SkWord} {v : State} (hv : Sound I v) (hs : Sound I s) : Sound I (issueSk c x v s).1 :=
  ite_fst_sound (fst_sound hs) (ite_fst_sound (fst_sound hs) (runSk_sound hv hs))

theorem gFirst_sound {c : Ctx} {o : GOp} {ops : List Spec} {cross : Bool} {v : State} (hv : Sound I v) (hs : Sound I s) :
     Sound I (gFirst c o ops cross v s).1 := by
  unfold gFirst
  split
  · exact fst_sound hs
  · exact ite_fst_sound (fst_sound hs) (ite_fst_sound (fst_sound hs) (gStep_sound hv hs))

theorem blockEnd_sound {tid at_ : Nat} {b : Block} (hs : Sound I s) : Sound I (blockEnd s tid at_ b) := by
  unfold blockEnd
  exact finishWord_sound (modTh_sound hs) (modTh_sound hs)

theorem blockFull_sound {tid op : Nat} (hs : Sound I s) : Sound I (blockFull s tid op) :=
  ite_sound (modTh_sound (drawFree_sound hs)) (ite_sound (modTh_sound hs) hs)

theorem blockCount_sound {tid : Nat} {b : Block} (hs : Sound I s) : Sound I (blockCount s tid b) :=
  modTh_sound hs

theorem blockSettle_sound {tid at_ : Nat} (hs : Sound I s) : Sound I (blockSettle s tid at_) := by
  unfold blockSettle
  split
  · exact ite_sound hs (ite_sound (blockEnd_sound hs) (ite_sound (blockEnd_sound (blockFull_sound hs)) hs))
  · exact hs

theorem blockRequest_sound {v : State} {c : Ctx} (_ : Sound I v) (hs : Sound I s) : Sound I (blockRequest v s c) := by
  unfold blockRequest
  split
  · exact hs
  · exact ite_sound (blockSettle_sound (modTh_sound (blockCount_sound (longStore_sound hs)))) (modTh_sound hs)

theorem semBlock_sound {c : Ctx} {op pd ps : Nat} {fn : Bool} {v : State} (hv : Sound I v) (hs : Sound I s) :
     Sound I (semBlock c op pd ps fn v s).1 := by
  unfold semBlock
  refine ite_fst_sound (fst_sound (ite_sound (res_sound hs) hs)) ?_
  split
  · exact fst_sound hs
  · exact fst_sound (blockRequest_sound hv (modTh_sound (landTh_sound (allocEntry_sound hs))))

theorem blockWord_sound {tid p : Nat} {b : Block} (hs : Sound I s) : Sound I (blockWord s tid p b) :=
  ite_sound (modTh_sound hs) (ite_sound (modTh_sound hs) (ite_sound (coreCnt_sound (modTh_sound hs)) (blockRequest_sound (stage3_sound hs)
      hs)))

theorem runRender_sound {c : Ctx} {i : RIns} {v : State} (hv : Sound I v) (hs : Sound I s) : Sound I (runRender c i v s).1 := by
  unfold runRender
  dsimp only
  split
  · exact fst_sound hs
  · split
    · exact gStep_sound hv hs
    · exact gFirst_sound hv hs
  · exact semBr_sound hv hs
  · exact semBal_sound hs
  · exact semJr_sound hv hs
  · exact semLoop_sound hs
  · exact semSetlc_sound hs
  · exact semBlock_sound hv hs
  · split
    · exact runSk_sound hv hs
    · exact fst_sound hs

theorem issueRender_sound {c : Ctx} {i : RIns} {v : State} (hv : Sound I v) (hs : Sound I s) : Sound I (issueRender c i v s).1 :=
  ite_fst_sound (fst_sound hs) (ite_fst_sound (fst_sound hs) (ite_fst_sound (fst_sound (modTh_sound hs)) (runRender_sound hv hs)))

theorem fetchWaits_sound {tid p line : Nat} (hs : Sound I s) : Sound I (fetchWaits s tid p line) :=
  ite_sound (coreCnt_sound (modTh_sound hs)) (modTh_sound hs)

theorem wordIssued_sound {tid addr len : Nat} (hs : Sound I s) : Sound I (wordIssued s tid addr len) := by
  unfold wordIssued
  refine ite_sound ?_ ?_
  · refine coreCnt_sound ?_
    dsimp only
    split
    · refine takeLine_sound ?_
      split
      · exact takeLine_sound hs
      · exact hs
    · split
      · exact takeLine_sound hs
      · exact hs
  · refine modTh_sound ?_
    refine coreCnt_sound ?_
    dsimp only
    split
    · refine takeLine_sound ?_
      split
      · exact takeLine_sound hs
      · exact hs
    · split
      · exact takeLine_sound hs
      · exact hs

theorem issue_sound {tid : Nat} {row : Row} (hs : Sound I s) : Sound I (issue s tid row) := by
  unfold issue
  split
  · exact hs
  · rename_i e
    dsimp only
    split
    · exact ite_sound (blockWord_sound (slotFor_sound hs e)) hs
    · refine ite_sound hs ?_
      split
      · exact fetchWaits_sound (slotFor_sound hs e)
      · exact ite_sound (finishWord_sound (slotFor_sound hs e) (stage3_sound (slotFor_sound hs e))) hs
      · exact ite_sound (finishWord_sound (slotFor_sound hs e) (stage3_sound (slotFor_sound hs e))) hs
      · exact ite_sound (finishWord_sound (slotFor_sound hs e) (stage3_sound (slotFor_sound hs e))) hs
      · refine ite_sound hs ?_
        split
        · exact finishWord_sound (wordIssued_sound (slotFor_sound hs e)) (stage3_sound (slotFor_sound hs e))
        · exact ite_sound (finishWord_sound (slotFor_sound hs e) (stage3_sound (slotFor_sound hs e))) (finishWord_sound (issueSk_sound
            (stage3_sound (slotFor_sound hs e)) (wordIssued_sound (slotFor_sound hs e))) (stage3_sound (slotFor_sound hs e)))
      · exact ite_sound hs (ite_sound (finishWord_sound (slotFor_sound hs e) (stage3_sound (slotFor_sound hs e))) (finishWord_sound
          (issueRender_sound (stage3_sound (slotFor_sound hs e)) (wordIssued_sound (slotFor_sound hs e))) (stage3_sound (slotFor_sound hs
          e))))

end Sys2Proof.Proofs.StepInvariants
end

section
/-!
PROOFS. The laws that every step keeps: the service die.
-/

namespace Sys2Proof.Proofs.StepInvariants
open Sys2Proof Sys2Proof.Machine

variable {I : Law} {s : State}

theorem svcDrop_sound (hs : Sound I s) : Sound I (svcDrop s) :=
  .upd hs

theorem execNeighborSolicitation_sound {f : Bytes} (hs : Sound I s) : Completes I (execNeighborSolicitation f s) :=
  next_sound (ite_sound hs (ite_sound (emit_sound hs) (svcDrop_sound hs)))

theorem execIcmpv6EchoRequest_sound {f : Bytes} (hs : Sound I s) : Completes I (execIcmpv6EchoRequest f s) :=
  next_sound (ite_sound hs (ite_sound (emit_sound hs) (svcDrop_sound hs)))

theorem execSvcFrameDrop_sound {_f : Bytes} (hs : Sound I s) : Completes I (execSvcFrameDrop _f s) :=
  next_sound (ite_sound (svcDrop_sound hs) hs)

theorem answer_sound {h : UpdHeader} {type session : Nat} {body : Bytes} (hs : Sound I s) : Sound I (answer s h type session body) :=
  .upd (sendUpdate_sound hs)

theorem answerStatus_sound {h : UpdHeader} {status detail : Nat} (hs : Sound I s) : Sound I (answerStatus s h status detail) :=
  answer_sound hs

theorem touchSession_sound (hs : Sound I s) : Sound I (touchSession s) :=
  .upd hs

theorem modSession_sound {f : Session → Session} (hs : Sound I s) : Sound I (modSession s f) :=
  .upd hs

theorem sessionMsg_sound {h : UpdHeader} {accepted : List SessState} {k : State → State} (hs : Sound I s) (hk : ∀ x, Sound I x → Sound I (k x)) :
     Sound I (sessionMsg s h accepted k) :=
  ite_sound hs (ite_sound (sendUpdate_sound hs) (ite_sound (svcDrop_sound hs) (ite_sound (sendUpdate_sound hs) (ite_sound (hk _
      (touchSession_sound hs)) (answerStatus_sound hs)))))

theorem drawTrng_sound {n : Nat} (hs : Sound I s) : Sound I (drawTrng s n).2 :=
  snd_sound (.upd hs)

theorem drawFreeBytes_sound {n : Nat} (hs : Sound I s) : Sound I (drawFreeBytes s n).2 :=
  snd_sound (.upd hs)

theorem helloAck_sound (hs : Sound I s) : Sound I (helloAck s).2 :=
  snd_sound (ite_snd_sound (drawFreeBytes_sound hs) (snd_sound hs))

theorem execHello_sound {h : UpdHeader} (hs : Sound I s) : Completes I (execHello h s) :=
  next_sound (ite_sound hs (ite_sound (sendUpdate_sound hs) (ite_sound (sendUpdate_sound hs) (ite_sound (sendUpdate_sound hs) (ite_sound
      (sendUpdate_sound hs) (serviceRecord_sound (raiseInt_sound (answer_sound (helloAck_sound (modSession_sound (drawTrng_sound
      hs)))))))))))

theorem execManifestPart_sound {h : UpdHeader} {off : BitVec 32} {d : Bytes} (hs : Sound I s) : Completes I (execManifestPart h off d s) :=
  next_sound (sessionMsg_sound hs (fun _ hx => ite_sound (answerStatus_sound hx) (answerStatus_sound (modSession_sound hx))))

theorem execManifestEnd_sound {h : UpdHeader} {size : BitVec 32} (hs : Sound I s) : Completes I (execManifestEnd h size s) := by
  unfold execManifestEnd
  refine next_sound ?_
  refine sessionMsg_sound hs ?_
  intro _ hx
  dsimp only
  split
  · exact answerStatus_sound (serviceRecord_sound hx)
  · exact answerStatus_sound (modSession_sound (.upd hx))

theorem execBlock_sound {h : UpdHeader} {chunk : BitVec 16} {blk : BitVec 8} {crc : BitVec 32} {d : Bytes} (hs : Sound I s) :
     Completes I (execBlock h chunk blk crc d s) :=
  next_sound (ite_sound (ite_sound hs (ite_sound (svcDrop_sound hs) (ite_sound hs (ite_sound hs (touchSession_sound (modSession_sound
      hs)))))) (sessionMsg_sound hs (fun _ hx => hx)))

theorem execChunkQuery_sound {h : UpdHeader} {chunk : BitVec 16} (hs : Sound I s) : Completes I (execChunkQuery h chunk s) :=
  next_sound (sessionMsg_sound hs (fun _ hx => ite_sound (answerStatus_sound hx) (answer_sound hx)))

theorem becomeWritten_sound (hs : Sound I s) : Sound I (becomeWritten s) :=
  ite_sound hs (serviceRecord_sound (.upd hs))

theorem execFinish_sound {h : UpdHeader} (hs : Sound I s) : Completes I (execFinish h s) := by
  unfold execFinish
  refine next_sound ?_
  refine sessionMsg_sound hs ?_
  intro _ hx
  split
  · exact answerStatus_sound (modSession_sound (becomeWritten_sound hx))
  · exact ite_sound (modSession_sound hx) (answerStatus_sound hx)

theorem execActivate_sound {h : UpdHeader} (hs : Sound I s) : Completes I (execActivate h s) :=
  next_sound (sessionMsg_sound hs (fun _ hx => ite_sound (activateFirmware_sound (closeSession_sound (answerStatus_sound (.upd hx))))
      (answerStatus_sound hx)))

theorem execSessionAbort_sound {h : UpdHeader} {_reason : BitVec 8} {rollback : Bool} (hs : Sound I s) :
     Completes I (execSessionAbort h _reason rollback s) :=
  next_sound (sessionMsg_sound hs (fun _ hx => ite_sound (rollbackFirmware_sound (closeSession_sound hx)) (closeSession_sound hx)))

theorem execSessionTimeout_sound (hs : Sound I s) : Completes I (execSessionTimeout s) :=
  next_sound (ite_sound hs (closeSession_sound (advanceTo_sound hs)))

theorem enablesChanged_sound (hs : Sound I s) : Sound I (enablesChanged s) :=
  ite_sound hs (ite_sound (modSession_sound hs) (closeSession_sound hs))

theorem execSvcEnChange_sound {level : Bool} (hs : Sound I s) : Completes I (execSvcEnChange level s) :=
  next_sound (enablesChanged_sound (.upd hs))

theorem execSvcEnableLapse_sound (hs : Sound I s) : Completes I (execSvcEnableLapse s) := by
  unfold execSvcEnableLapse
  refine next_sound ?_
  split
  · exact hs
  · exact enablesChanged_sound (.upd (advanceTo_sound hs))

theorem execChunkComplete_sound {chunk : BitVec 16} (hs : Sound I s) : Completes I (execChunkComplete chunk s) :=
  next_sound (ite_sound hs (ite_sound (modSession_sound hs) (ite_sound (journalCopy_sound (modSession_sound hs)) (modSession_sound hs))))

theorem execChunkWritten_sound {chunk : BitVec 16} {pulses : Fin 9} (hs : Sound I s) : Completes I (execChunkWritten chunk pulses s) := by
  unfold execChunkWritten
  refine next_sound (ite_sound hs ?_)
  refine ite_sound ?_ ?_
  · refine closeSession_sound ?_
    split
    · exact ite_sound (answerStatus_sound (modSession_sound (ite_sound (becomeWritten_sound (modSession_sound (journalWrite_sound
        (journalCopy_sound hs)))) (modSession_sound (journalWrite_sound (journalCopy_sound hs)))))) (ite_sound (becomeWritten_sound
        (modSession_sound (journalWrite_sound (journalCopy_sound hs)))) (modSession_sound (journalWrite_sound (journalCopy_sound hs))))
    · exact ite_sound (becomeWritten_sound (modSession_sound (journalWrite_sound (journalCopy_sound hs)))) (modSession_sound
        (journalWrite_sound (journalCopy_sound hs)))
  · split
    · exact ite_sound (answerStatus_sound (modSession_sound (ite_sound (becomeWritten_sound (modSession_sound (journalWrite_sound
        (journalCopy_sound hs)))) (modSession_sound (journalWrite_sound (journalCopy_sound hs)))))) (ite_sound (becomeWritten_sound
        (modSession_sound (journalWrite_sound (journalCopy_sound hs)))) (modSession_sound (journalWrite_sound (journalCopy_sound hs))))
    · exact ite_sound (becomeWritten_sound (modSession_sound (journalWrite_sound (journalCopy_sound hs)))) (modSession_sound
        (journalWrite_sound (journalCopy_sound hs)))

theorem execLoaderVerify_sound (hs : Sound I s) : Completes I (execLoaderVerify s) :=
  next_sound (ite_sound hs (ite_sound (setReady_sound (.upd (journalRepair_sound hs))) (ite_sound (setReady_sound (.upd (ite_sound
      (fallback_sound (journalRepair_sound hs)) (journalRepair_sound hs)))) (setReady_sound (.upd (serviceRecord_sound (ite_sound
      (fallback_sound (journalRepair_sound hs)) (journalRepair_sound hs))))))))

theorem blowRevokes_sound {flags : Nat} {readsBack : Bool} (hs : Sound I s) : Sound I (blowRevokes s flags readsBack) :=
  ite_sound hs (ite_sound (serviceRecord_sound (.upd hs)) (serviceRecord_sound hs))

theorem execHealthConfirm_sound {readsBack : Bool} (hs : Sound I s) : Completes I (execHealthConfirm readsBack s) :=
  next_sound (ite_sound hs (serviceRecord_sound (.upd (blowRevokes_sound (.upd hs)))))

theorem execHealthTimeout_sound (hs : Sound I s) : Completes I (execHealthTimeout s) := by
  unfold execHealthTimeout
  refine next_sound ?_
  split
  · exact hs
  · exact fallbackRestart_sound (advanceTo_sound hs)

theorem execRestoreDone_sound (hs : Sound I s) : Completes I (execRestoreDone s) :=
  next_sound (ite_sound (.upd hs) hs)

theorem execMramBlockRetire_sound {block : BitVec 14} {byte : BitVec 12} {cause : WearCause} (hs : Sound I s) :
     Completes I (execMramBlockRetire block byte cause s) := by
  unfold execMramBlockRetire
  refine next_sound ?_
  dsimp only
  split
  · exact ite_sound (retireBlock_sound hs) (ite_sound hs (mramRecord_sound (.upd hs)))
  · exact retireBlock_sound hs
  · split
    · exact ite_sound (mramRecord_sound (retireBlock_sound hs)) (retireBlock_sound (mramRecord_sound (.upd hs)))
    · exact loseItem_sound (retireBlock_sound (mramRecord_sound hs))

theorem execTrngStartupDone_sound {passed : Bool} (hs : Sound I s) : Completes I (execTrngStartupDone passed s) :=
  next_sound (ite_sound hs (ite_sound (setReady_sound (.upd hs)) (ite_sound (serviceRecord_sound (.upd hs)) (.upd hs))))

theorem execTrngHealthFail_sound (hs : Sound I s) : Completes I (execTrngHealthFail s) :=
  next_sound (ite_sound hs (serviceRecord_sound (setReady_sound (.upd hs))))

theorem execDrbgReseed_sound (hs : Sound I s) : Completes I (execDrbgReseed s) :=
  next_sound (ite_sound (.upd hs) hs)

theorem execUartCharacterRx_sound {_c : BitVec 8} (hs : Sound I s) : Completes I (execUartCharacterRx _c s) :=
  next_sound hs

theorem execSvcEnable_sound {mb : MbId} {en : BitVec 8} {secs : BitVec 32} (hs : Sound I s) : Completes I (execSvcEnable mb en secs s) :=
  next_sound (whenReady_sound hs (fun _ hx => ite_sound (reply_sound hx) (ite_sound (reply_sound (.upd hx)) (reply_sound
      (enablesChanged_sound (.upd hx))))))

theorem execSvcStatus_sound {mb : MbId} (hs : Sound I s) : Completes I (execSvcStatus mb s) :=
  next_sound (whenReady_sound hs (fun _ hx => reply_sound (drawFree_sound hx)))

theorem execFwStatus_sound {mb : MbId} (hs : Sound I s) : Completes I (execFwStatus mb s) :=
  next_sound (whenReady_sound hs (fun _ hx => reply_sound hx))

theorem execFwActivate_sound {mb : MbId} (hs : Sound I s) : Completes I (execFwActivate mb s) :=
  next_sound (whenReady_sound hs (fun _ hx => ite_sound (activateFirmware_sound (reply_sound hx)) (reply_sound hx)))

theorem execFwRollback_sound {mb : MbId} (hs : Sound I s) : Completes I (execFwRollback mb s) :=
  next_sound (whenReady_sound hs (fun _ hx => ite_sound (reply_sound hx) (ite_sound (reply_sound hx) (rollbackFirmware_sound (ite_sound
      (closeSession_sound (reply_sound hx)) (reply_sound hx))))))

theorem violation_sound {off : Option Nat} (hs : Sound I s) : Sound I (violation s off) :=
  raiseInt_sound (.updHost hs rfl)

theorem execKeySlotWrite_sound {mb : MbId} {slot : BitVec 8} {key : Bytes} (hs : Sound I s) :
     Completes I (execKeySlotWrite mb slot key s) := by
  unfold execKeySlotWrite
  refine next_sound ?_
  refine whenReady_sound hs ?_
  intro _ hx
  refine ite_sound (reply_sound hx) ?_
  split
  · exact serviceRecord_sound (reply_sound (.upd hx))
  · exact reply_sound (violation_sound hx)
  · exact reply_sound (violation_sound hx)

theorem execKeySlotRevoke_sound {mb : MbId} {slot : BitVec 8} (hs : Sound I s) : Completes I (execKeySlotRevoke mb slot s) := by
  unfold execKeySlotRevoke
  refine next_sound ?_
  refine whenReady_sound hs ?_
  intro _ hx
  refine ite_sound (reply_sound hx) ?_
  split
  · exact reply_sound hx
  · exact reply_sound hx
  · exact ite_sound (reply_sound hx) (serviceRecord_sound (planStagingToLoaded_sound (reply_sound (.upd hx))))

theorem execKeyStatus_sound {mb : MbId} (hs : Sound I s) : Completes I (execKeyStatus mb s) :=
  next_sound (whenReady_sound hs (fun _ hx => reply_sound hx))

theorem execKekInstall_sound {mb : MbId} {kind : BitVec 8} {key : Bytes} (hs : Sound I s) : Completes I (execKekInstall mb kind key s) := by
  unfold execKekInstall
  refine next_sound ?_
  refine whenReady_sound hs ?_
  intro _ hx
  refine ite_sound (reply_sound hx) ?_
  split
  · exact reply_sound (violation_sound hx)
  · exact reply_sound (.upd hx)

theorem execFusePlanSigned_sound {mb : MbId} {confirm : BitVec 32} {readsBack : Bool} (hs : Sound I s) :
     Completes I (execFusePlanSigned mb confirm readsBack s) :=
  next_sound (whenReady_sound hs (fun _ hx => ite_sound (reply_sound hx) (ite_sound (reply_sound hx) (ite_sound (reply_sound
      (violation_sound hx)) (ite_sound (serviceRecord_sound (planStagingToLoaded_sound (reply_sound (.upd hx)))) (serviceRecord_sound
      (reply_sound hx)))))))

theorem execTrngRead_sound {mb : MbId} {count : BitVec 16} (hs : Sound I s) : Completes I (execTrngRead mb count s) :=
  next_sound (whenReady_sound hs (fun _ hx => ite_sound (reply_sound hx) (reply_sound (drawTrng_sound hx))))

end Sys2Proof.Proofs.StepInvariants
end

section
/-!
PROOFS. The laws that every step keeps: the host's registers and windows.
-/

namespace Sys2Proof.Proofs.StepInvariants
open Sys2Proof Sys2Proof.Machine

variable {I : Law} {s : State}

/-! ### HostRegs -/

theorem acceptCommand_sound {n : Nat} (hs : Sound I s) : Sound I (acceptCommand s n) := by
  unfold acceptCommand
  dsimp only
  split
  · exact reply_sound (modMb_sound hs)
  · exact modMb_sound hs

theorem doorbell_sound {n v : Nat} (hs : Sound I s) : Sound I (doorbell s n v) :=
  ite_sound (ite_sound (hostCount_sound (modMb_sound (hostCount_sound hs))) (hostCount_sound (modMb_sound (modMb_sound (hostCount_sound
      hs))))) (ite_sound (hostCount_sound (raiseInt_sound (modMb_sound (hostCount_sound hs)))) (ite_sound (acceptCommand_sound (modMb_sound
      (modMb_sound (hostCount_sound hs)))) (modMb_sound (modMb_sound (hostCount_sound hs)))))

theorem execMbDoorbell_sound {mb : MbId} {v : BitVec 16} (hs : Sound I s) : Completes I (execMbDoorbell mb v s) :=
  next_sound (doorbell_sound hs)

theorem execResultRead_sound {mb : MbId} {off : BitVec 9} {len : BitVec 4} (hs : Sound I s) : Completes I (execResultRead mb off len s) :=
  next_sound (.updHost (ite_sound (modMb_sound hs) hs) rfl)

theorem publish_sound {n : Nat} {r : Reply} (hs : Sound I s) : Sound I (publish s n r) :=
  raiseInt_sound (ite_sound (hostCount_sound (hostCount_sound (modMb_sound hs))) (hostCount_sound (modMb_sound hs)))

theorem execMailboxResult_sound {mb : MbId} (hs : Sound I s) : Completes I (execMailboxResult mb s) := by
  unfold execMailboxResult
  refine next_sound ?_
  dsimp only
  split
  · exact publish_sound hs
  · split
    · exact publish_sound (advanceTo_sound hs)
    · exact hs

theorem lockdownWrite_sound {v : Bool} (hs : Sound I s) : Sound I (lockdownWrite s v) :=
  ite_sound (violation_sound hs) (.upd hs)

theorem execHostLockdown_sound {v : BitVec 1} (hs : Sound I s) : Completes I (execHostLockdown v s) :=
  next_sound (lockdownWrite_sound hs)

theorem execIntStatusClear_sound {mask : BitVec 64} (hs : Sound I s) : Completes I (execIntStatusClear mask s) :=
  next_sound (.updHost hs rfl)

theorem intEnableSet_sound {v : Nat} (hs : Sound I s) : Sound I (intEnableSet s v) :=
  foldl_sound (.updHost hs rfl) (fun _ _ hx => ite_sound (signalVector_sound hx) hx)

theorem execIntEnableWrite_sound {v : BitVec 64} (hs : Sound I s) : Completes I (execIntEnableWrite v s) :=
  next_sound (intEnableSet_sound hs)

theorem msixWrite_sound {word v : Nat} (hs : Sound I s) : Sound I (msixWrite s word v) :=
  ite_sound (signalVector_sound (.updHost (.updHost hs rfl) rfl)) (.updHost hs rfl)

theorem modRing_sound {tx : Bool} {r : Nat} {f : RingCtl → RingCtl} (hs : Sound I s) : Sound I (modRing s tx r f) :=
  ite_sound (.updHost hs rfl) (.updHost hs rfl)

theorem execRingEnable_sound {tx : Bool} {r : Fin 8} {log2 : BitVec 5} {units : BitVec 8} (hs : Sound I s) :
     Completes I (execRingEnable tx r log2 units s) :=
  next_sound (modRing_sound hs)

theorem dropTxPending_sound {r : Nat} (hs : Sound I s) : Sound I (dropTxPending s r) := by
  unfold dropTxPending
  split
  · exact hs
  · dsimp only
    split
    · exact unitRelease_sound (.updHost hs rfl)
    · exact .updHost hs rfl

theorem execRingDisable_sound {tx : Bool} {r : Fin 8} (hs : Sound I s) : Completes I (execRingDisable tx r s) :=
  next_sound (modRing_sound (ite_sound (dropTxPending_sound hs) hs))

theorem execTxRingHeadWrite_sound {r : Fin 8} {head : BitVec 32} (hs : Sound I s) : Completes I (execTxRingHeadWrite r head s) :=
  next_sound (modRing_sound hs)

theorem execErrRingEnable_sound {en : Bool} {log2 : BitVec 5} (hs : Sound I s) : Completes I (execErrRingEnable en log2 s) :=
  next_sound (.updHost hs rfl)

theorem mirrorIndex_sound {c : RingCtl} {idx : Nat} (hs : Sound I s) : Sound I (mirrorIndex s c idx) :=
  ite_sound hs (hostWrite_sound hs)

theorem execErrorRecordDeliver_sound (hs : Sound I s) : Completes I (execErrorRecordDeliver s) := by
  unfold execErrorRecordDeliver
  extract_lets c
  refine next_sound (ite_sound hs ?_)
  split
  · exact hs
  · next e =>
    extract_lets s1 h s2
    have h1 : Sound I s1 := hostWrite_sound (hs.setFault fun h => ringTake_ok h e)
    clear_value s1
    have h2 : Sound I s2 := mirrorIndex_sound (.updHost h1 rfl)
    exact raiseInt_sound (hostCount_sound h2)

theorem rwlWrite_sound {off : Nat} {f : HostKept → HostKept} (hs : Sound I s) : Sound I (rwlWrite s off f) :=
  ite_sound (violation_sound hs) (.upd hs)

theorem bar0WriteWord_sound {a v m : Nat} (hs : Sound I s) : Sound I (bar0WriteWord s a v m) :=
  ite_sound (.updHost hs rfl) (ite_sound (.updHost hs rfl) (ite_sound (intEnableSet_sound hs) (ite_sound (ite_sound (lockdownWrite_sound
      hs) hs) (ite_sound (ite_sound (.upd hs) hs) (ite_sound (ite_sound (.updHost hs rfl) hs) (ite_sound (rwlWrite_sound hs) (ite_sound
      (ite_sound (rwlWrite_sound hs) hs) (ite_sound (rwlWrite_sound hs) (ite_sound (.updHost hs rfl) (ite_sound (modRing_sound hs)
      (ite_sound (modRing_sound hs) (ite_sound (ite_sound (ite_sound hs (doorbell_sound hs)) (ite_sound (ite_sound (modMb_sound hs) hs)
      hs)) (ite_sound (ite_sound (ite_sound hs (msixWrite_sound hs)) (msixWrite_sound (ite_sound hs (msixWrite_sound hs)))) hs)))))))))))))

theorem bar0Write_sound {off : Nat} {d : Bytes} (hs : Sound I s) : Sound I (bar0Write s off d) :=
  ite_sound (modMb_sound hs) (ite_sound hs (ite_sound (bar0WriteWord_sound hs) (ite_sound (ite_sound (bar0WriteWord_sound hs)
      (bar0WriteWord_sound hs)) (hostCount_sound hs))))

theorem execRegisterWrite_sound {off : BitVec 16} {d : Bytes} (hs : Sound I s) : Completes I (execRegisterWrite off d s) :=
  next_sound (bar0Write_sound hs)

theorem execPcieHotReset_sound (hs : Sound I s) : Completes I (execPcieHotReset s) :=
  next_sound (refreshDma_sound (.updHost (foldl_sound hs (fun _ _ hx => dropTxPending_sound hx)) rfl))

theorem execPcieLinkUp_sound (hs : Sound I s) : Completes I (execPcieLinkUp s) :=
  next_sound (ite_sound (refreshDma_sound (.updHost hs rfl)) hs)

theorem execConfigurationSpaceWrite_sound {bm : Bool} (hs : Sound I s) : Completes I (execConfigurationSpaceWrite bm s) :=
  next_sound (ite_sound (refreshDma_sound (.updHost hs rfl)) hs)

theorem execDeviceInfo_sound {mb : MbId} (hs : Sound I s) : Completes I (execDeviceInfo mb s) :=
  next_sound (reply_sound hs)

theorem execReadyWait_sound {mb : MbId} {mask us : BitVec 32} (hs : Sound I s) : Completes I (execReadyWait mb mask us s) :=
  next_sound (ite_sound (reply_sound hs) (ite_sound (reply_sound hs) (modMb_sound hs)))

theorem execEcho_sound {mb : MbId} {args : Bytes} (hs : Sound I s) : Completes I (execEcho mb args s) :=
  next_sound (ite_sound (reply_sound hs) (reply_sound hs))

theorem execErrorRingRead_sound {mb : MbId} {max : BitVec 16} {consume : Bool} {ind : Option (BitVec 64)} (hs : Sound I s) :
    Completes I (execErrorRingRead mb max consume ind s) :=
  next_sound (ite_sound (reply_sound hs) (replyBulk_sound (ite_sound (hs.setFault fun h => ringTakeN_ok h _) hs)))

theorem execHawkRestart_sound {mb : MbId} (hs : Sound I s) : Completes I (execHawkRestart mb s) :=
  next_sound (hawkRestartDue_sound (reply_sound hs))

theorem hawkRunning_sound (hs : Sound I s) : Sound I (hawkRunning s) := by
  unfold hawkRunning
  exact ite_sound (.upd (setReady_sound (setReady_sound (.updHost hs rfl)))) (setReady_sound (setReady_sound (.updHost hs rfl)))

theorem acceptHeld_sound (hs : Sound I s) : Sound I (acceptHeld s) :=
  foldl_sound hs (fun _ _ hx => ite_sound (acceptCommand_sound hx) hx)

theorem execHawkStart_sound (hs : Sound I s) : Completes I (execHawkStart s) :=
  next_sound (ite_sound (acceptHeld_sound (hawkRunning_sound hs)) hs)

theorem hawkEvent_sound (hs : Sound I s) : Sound I (hawkEvent s) :=
  foldl_sound hs (fun _ _ hx => ite_sound (foldl_sound hx (fun _ _ hx1 => setFlag_sound hx1)) hx)

/-! ### Windows -/

theorem winFault_sound {st byte : Nat} (hs : Sound I s) : Sound I (winFault s st byte) :=
  raiseInt_sound (.updHost (ite_sound hs (.updHost hs rfl)) rfl)

theorem bar2Answer_sound {st byte n : Nat} {data : Bytes} (hs : Sound I s) : Sound I (bar2Answer s st byte n data) :=
  ite_sound (.updHost hs rfl) (.updHost (winFault_sound hs) rfl)

theorem memReadDone_sound {mb : Nat} {ind : Option Nat} {st byte : Nat} {data : Bytes} (hs : Sound I s) :
    Sound I (memReadDone s mb ind st byte data) := by
  refine ite_sound (replyBulk_sound hs) ?_
  cases ind with
  | none => exact reply_sound hs
  | some a => exact ite_sound (replyWith_sound (hostCount_sound (hostWrite_sound hs))) (replyWith_sound hs)

theorem localRead_sound {src a n : Nat} (hs : Sound I s) : Sound I (localRead s src a n).2.2 := by
  unfold localRead
  dsimp only
  split
  · exact snd_snd_sound (directRead_sound hs)
  · exact snd_snd_sound (directRead_sound hs)

theorem startXfer_sound {who : XferFor} {k off n : Nat} (hs : Sound I s) : Sound I (startXfer s who k off n) :=
  windowRead_sound (.upd hs)

theorem windowPut_sound {k off : Nat} {d : Bytes} (hs : Sound I s) : Sound I (windowPut s k off d) :=
  foldl_sound hs (fun _ _ hx => windowWrite_sound hx)

theorem execBar2Read_sound {off : BitVec 26} {len : Nat} (hs : Sound I s) : Completes I (execBar2Read off len s) := by
  unfold execBar2Read
  refine next_sound (?_ : Sound I _)
  extract_lets +onlyGivenNames a n
  have hr := localRead_sound (src := 0) (a := a) (n := n) hs
  generalize bar2Check s off.toNat n false = check
  generalize regionOf a = region
  generalize localRead s 0 a n = r at hr ⊢
  as_aux_lemma =>
    refine ite_sound hs ?_
    split
    · exact bar2Answer_sound hs
    · split
      · exact startXfer_sound hs
      · dsimp only
        split
        · exact bar2Answer_sound hr
        · exact bar2Answer_sound hr

theorem execBar2Write_sound {off : BitVec 26} {data : Bytes} (hs : Sound I s) : Completes I (execBar2Write off data s) := by
  unfold execBar2Write
  refine next_sound (?_ : Sound I _)
  extract_lets +onlyGivenNames a
  have hr := directWrite_sound (q := 5) (src := 0) (a := a) (d := data) hs
  generalize bar2Check s off.toNat data.length true = check
  generalize regionOf a = region
  generalize directWrite s 5 0 a data = r at hr ⊢
  as_aux_lemma =>
    refine ite_sound hs ?_
    split
    · exact winFault_sound hs
    · split
      · exact windowPut_sound hs
      · dsimp only
        split
        · exact winFault_sound hr
        · exact hr

theorem execMemRead_sound {mb : MbId} {addr : BitVec 64} {length : BitVec 32} {ind : Option (BitVec 64)} (hs : Sound I s) :
     Completes I (execMemRead mb addr length ind s) := by
  unfold execMemRead
  refine next_sound ?_
  refine ite_sound (reply_sound hs) ?_
  split
  · exact reply_sound hs
  · refine ite_sound (reply_sound hs) ?_
    split
    · exact startXfer_sound hs
    · exact memReadDone_sound (localRead_sound hs)

theorem execMemWrite_sound {mb : MbId} {addr : BitVec 64} {length : BitVec 32} {payload : Option Bytes} (hs : Sound I s) :
     Completes I (execMemWrite mb addr length payload s) := by
  unfold execMemWrite
  refine next_sound ?_
  refine withPayload_sound hs ?_
  intro _ _ hx
  dsimp only
  split
  · exact reply_sound hx
  · refine ite_sound (reply_sound hx) ?_
    split
    · exact reply_sound (windowPut_sound hx)
    · split
      · exact reply_sound (directWrite_sound hx)
      · exact reply_sound (directWrite_sound hx)

end Sys2Proof.Proofs.StepInvariants
end

section
/-!
PROOFS. The laws that every step keeps: span links, the plan and the commit.
-/

namespace Sys2Proof.Proofs.StepInvariants
open Sys2Proof Sys2Proof.Machine

variable {I : Law} {s : State}

/-! ### Span -/

theorem xferDone_sound {x : Xfer} {st first : Nat} (hs : Sound I s) : Sound I (xferDone s x st first) := by
  unfold xferDone
  dsimp only
  split
  · exact bar2Answer_sound (.upd hs)
  · exact memReadDone_sound (.upd hs)

theorem readFails_sound {who : SpanWho} (hs : Sound I s) : Sound I (readFails s who) := by
  unfold readFails
  split
  · exact loadPart_sound hs
  · split
    · exact xferDone_sound hs
    · exact hs
  · exact hs

theorem spanCleanup_sound {k : Nat} {down : Bool} (hs : Sound I s) : Sound I (spanCleanup s k down) :=
  ite_sound (startFlushes_sound (.upd (modSpan_sound (spanCnt_sound (foldl_sound (foldl_sound (foldl_sound hs (fun _ _ hx =>
      readFails_sound hx)) (fun _ _ hx => unitRelease_sound hx)) (fun _ _ hx1 => unitRelease_sound hx1)))))) (modSpan_sound (spanCnt_sound
      (foldl_sound (foldl_sound (foldl_sound hs (fun _ _ hx => readFails_sound hx)) (fun _ _ hx2 => unitRelease_sound hx2)) (fun _ _ hx3 =>
      unitRelease_sound hx3))))

theorem spanGo_sound {k st reason : Nat} (hs : Sound I s) : Sound I (spanGo s k st reason) :=
  setReady_sound (ite_sound (spanCleanup_sound (modSpan_sound hs)) (modSpan_sound hs))

theorem spanJoin_sound {k : Nat} (hs : Sound I s) : Sound I (spanJoin s k) :=
  spanGo_sound (ite_sound (spanCnt_sound (modSpan_sound hs)) (modSpan_sound hs))

theorem spanQuarantine_sound {k reason : Nat} (hs : Sound I s) : Sound I (spanQuarantine s k reason) :=
  record_sound (spanCnt_sound (spanGo_sound hs))

theorem spanTraining_sound {k : Nat} (hs : Sound I s) : Sound I (spanTraining s k) :=
  modSpan_sound (spanGo_sound hs)

theorem execSpanFecLock_sound {link : Fin 3} (hs : Sound I s) : Completes I (execSpanFecLock link s) :=
  next_sound (ite_sound hs (modSpan_sound (spanGo_sound hs)))

theorem spanEpoch_sound {old new : PlanCopy} (hs : Sound I s) : Sound I (spanEpoch s old new) :=
  foldl_sound hs (fun _ _ hx => ite_sound (ite_sound hx (modSpan_sound (spanGo_sound hx))) (ite_sound hx (spanTraining_sound hx)))

theorem execSpanStateTx_sound {link : Fin 3} {s0 : State} (hs0 : Sound I s0) : Completes I (execSpanStateTx link s0) :=
  next_sound (ite_sound hs0 (foldl_sound (sendControl_sound (modSpan_sound (advanceTo_sound hs0))) (fun _ _ hx => ite_sound (sendIdle_sound
      hx) hx)))

theorem spanJudge_sound {k : Nat} {m : Bytes} (hs : Sound I s) : Sound I (spanJudge s k m) :=
  ite_sound hs (ite_sound hs (ite_sound (ite_sound (spanJoin_sound hs) (spanQuarantine_sound hs)) (ite_sound (ite_sound hs (ite_sound
      (spanJoin_sound hs) (modSpan_sound hs))) (ite_sound hs (spanQuarantine_sound hs)))))

theorem takeMsg_sound {k code p : Nat} {m : Bytes} {t : State} (hs : Sound I s) (e : takeMsg s k code = some (p, m, t)) : Sound I t := by
  unfold takeMsg at e
  dsimp only at e
  split at e
  · nomatch e
  · split at e
    · nomatch e
    · cases e
      exact modSpan_sound hs

theorem onMsg_sound {k code : Nat} {f : Nat → Bytes → State → State} (hs : Sound I s) (hf : ∀ x0 x1 x2, Sound I x2 → Sound I (f x0 x1 x2)) :
     Sound I (onMsg s k code f) := by
  unfold onMsg
  split
  · exact hs
  · rename_i e
    exact ite_sound (hf _ _ _ (takeMsg_sound hs e)) (takeMsg_sound hs e)

theorem execSpanState_sound {link : Fin 3} (hs : Sound I s) : Completes I (execSpanState link s) :=
  next_sound (onMsg_sound hs (fun _ _ _ hx => spanJudge_sound (modSpan_sound hx)))

theorem execSpanLinkDown_sound {link : Fin 3} {lockLost : Bool} (hs : Sound I s) : Completes I (execSpanLinkDown link lockLost s) :=
  next_sound (ite_sound hs (record_sound (spanCnt_sound (spanTraining_sound hs))))

theorem ackTo_sound {k ack : Nat} (hs : Sound I s) : Sound I (ackTo s k ack) := by
  unfold ackTo
  dsimp only
  split
  · exact hs
  · exact sendQueued_sound (foldl_sound (modSpan_sound hs) (fun _ _ hx => unitRelease_sound hx))

theorem replayAll_sound {k : Nat} (hs : Sound I s) : Sound I (replayAll s k) :=
  ite_sound hs (foldl_sound (spanCnt_sound (spanCnt_sound (modSpan_sound hs))) (fun _ _ hx => putFlit_sound hx))

theorem flitPayload_sound {k : Nat} {f : Bytes} (hs : Sound I s) : Sound I (flitPayload s k f) := by
  unfold flitPayload
  dsimp only
  split
  · exact ite_sound (modSpan_sound hs) (modSpan_sound hs)
  · exact modSpan_sound hs
  · exact modSpan_sound hs
  · exact ite_sound (modSpan_sound hs) (modSpan_sound hs)
  · exact ite_sound (modSpan_sound hs) (modSpan_sound hs)
  · exact hs

theorem execFlitRx_sound {link : Fin 3} {flit : Bytes} {fecBad : Bool} (hs : Sound I s) : Completes I (execFlitRx link flit fecBad s) :=
  next_sound (ite_sound hs (ite_sound (spanCnt_sound (modSpan_sound (modSpan_sound hs))) (ite_sound (drain0_sound (ite_sound
      (replayAll_sound (modSpan_sound (ackTo_sound (modSpan_sound hs)))) (modSpan_sound (ackTo_sound (modSpan_sound hs))))) (ite_sound
      (modSpan_sound (drain0_sound (ite_sound (replayAll_sound (modSpan_sound (ackTo_sound (modSpan_sound hs)))) (modSpan_sound
      (ackTo_sound (modSpan_sound hs)))))) (flitPayload_sound (spanCnt_sound (modSpan_sound (drain0_sound (ite_sound (replayAll_sound
      (modSpan_sound (ackTo_sound (modSpan_sound hs)))) (modSpan_sound (ackTo_sound (modSpan_sound hs))))))))))))

theorem execTimeSyncTx_sound {link : Fin 3} {s0 : State} (hs0 : Sound I s0) : Completes I (execTimeSyncTx link s0) :=
  next_sound (ite_sound hs0 (sendControl_sound (modSpan_sound (advanceTo_sound hs0))))

theorem spanOffset_sound {k : Nat} {ps freq : Int} (hs : Sound I s) : Sound I (spanOffset s k ps freq) :=
  ite_sound (record_sound (spanCnt_sound (modSpan_sound (spanGo_sound (ite_sound (timeCorrect_sound (.upd (modSpan_sound hs)))
      (modSpan_sound hs)))))) (ite_sound (spanGo_sound (ite_sound (timeCorrect_sound (.upd (modSpan_sound hs))) (modSpan_sound hs)))
      (ite_sound (timeCorrect_sound (.upd (modSpan_sound hs))) (modSpan_sound hs)))

theorem execTimeSync_sound {link : Fin 3} (hs : Sound I s) : Completes I (execTimeSync link s) :=
  next_sound (onMsg_sound hs (fun _ _ _ hx => ite_sound (sendControl_sound hx) (ite_sound hx (spanOffset_sound hx))))

theorem inboundViolation_sound {k : Nat} (hs : Sound I s) : Sound I (inboundViolation s k) :=
  ite_sound (spanQuarantine_sound (spanCnt_sound (modSpan_sound hs))) (spanCnt_sound (modSpan_sound hs))

theorem execReadReq_sound {link : Fin 3} (hs : Sound I s) : Completes I (execReadReq link s) := by
  unfold execReadReq
  refine next_sound ?_
  refine onMsg_sound hs ?_
  intro _ _ _ hx
  refine ite_sound ?_ (inboundViolation_sound (sendMsg_sound hx))
  dsimp only
  split
  · exact sendMsg_sound (directRead_sound (spanCnt_sound hx))
  · exact sendMsg_sound (directRead_sound (spanCnt_sound hx))

theorem execWriteReq_sound {link : Fin 3} (hs : Sound I s) : Completes I (execWriteReq link s) :=
  next_sound (onMsg_sound hs (fun _ _ _ hx => ite_sound (directWrite_sound (spanCnt_sound hx)) (inboundViolation_sound hx)))

theorem xferPart_sound {id st : Nat} {d : Bytes} (hs : Sound I s) : Sound I (xferPart s id st d) := by
  unfold xferPart
  split
  · exact hs
  · exact ite_sound (xferDone_sound hs) (ite_sound (xferDone_sound (.upd hs)) (windowRead_sound (.upd hs)))

theorem execReadResp_sound {link : Fin 3} (hs : Sound I s) : Completes I (execReadResp link s) := by
  unfold execReadResp
  refine next_sound ?_
  refine onMsg_sound hs ?_
  intro _ _ _ hx
  split
  · exact hx
  · refine drain0_sound ?_
    split
    · exact loadPart_sound (modSpan_sound hx)
    · exact xferPart_sound (modSpan_sound hx)
    · exact modSpan_sound hx

theorem execLearnMessage_sound {link : Fin 3} (hs : Sound I s) : Completes I (execLearnMessage link s) :=
  next_sound (onMsg_sound hs (fun _ _ _ hx => ite_sound (spanCnt_sound hx) (ite_sound (spanCnt_sound hx) (learnPost_sound (spanCnt_sound
      hx)))))

theorem execHawkMsg_sound {link : Fin 3} (hs : Sound I s) : Completes I (execHawkMsg link s) :=
  next_sound (onMsg_sound hs (fun _ _ _ hx => .upd hx))

theorem execPacket_sound {link : Fin 3} (hs : Sound I s) : Completes I (execPacket link s) := by
  unfold execPacket
  refine next_sound (ite_sound hs ?_)
  refine onMsg_sound hs ?_
  intro _ _ _ hx
  refine ite_sound (spanCnt_sound hx) ?_
  refine ite_sound (spanCnt_sound hx) ?_
  refine ite_sound (spanCnt_sound hx) ?_
  split
  · rename_i e1
    exact spanCnt_sound (.upd (hbmPut_sound ((hodAlloc_sound hx).of_snd e1)))
  · rename_i e2
    exact spanCnt_sound ((hodAlloc_sound hx).of_snd e2)

theorem execSpanPacketSend_sound {link : Fin 3} (hs : Sound I s) : Completes I (execSpanPacketSend link s) := by
  unfold execSpanPacketSend
  refine next_sound ?_
  dsimp only
  split
  · exact hs
  · refine ite_sound hs ?_
    split
    · exact unitRelease_sound (hbmRead_sound (modSpan_sound hs))
    · exact modSpan_sound (spanCnt_sound (sendMsg_sound (hbmRead_sound (modSpan_sound hs))))

theorem execSpanStatus_sound {mb : MbId} {link : BitVec 8} (hs : Sound I s) : Completes I (execSpanStatus mb link s) :=
  next_sound (ite_sound (reply_sound hs) (reply_sound hs))

theorem execSpanRejoin_sound {mb : MbId} {link : BitVec 8} (hs : Sound I s) : Completes I (execSpanRejoin mb link s) :=
  next_sound (ite_sound (reply_sound hs) (ite_sound (reply_sound hs) (reply_sound (spanTraining_sound hs))))

theorem execSpanCounters_sound {mb : MbId} {link : BitVec 8} {first count : BitVec 16} (hs : Sound I s) :
     Completes I (execSpanCounters mb link first count s) :=
  next_sound (ite_sound (reply_sound hs) (reply_sound hs))

/-! ### Plan -/

theorem setStaging_sound {x : Staging} (hs : Sound I s) : Sound I (setStaging s x) :=
  .upd hs

theorem markLoc_sound {loc : Nat} (hs : Sound I s) : Sound I (markLoc s loc) :=
  .upd hs

theorem markOld_sound {loc bit : Nat} (hs : Sound I s) : Sound I (markOld s loc bit) :=
  ite_sound (confSet_sound (markLoc_sound (putLoc_sound hs))) (markLoc_sound (putLoc_sound hs))

theorem rivals_sound {k : Bytes} (hs : Sound I s) : Sound I (rivals s k).2 :=
  snd_sound (readBuckets_sound hs)

theorem prepAdded_sound {bit : Nat} {acc : Option (Nat × Nat) × List Nat × State} {e : Nat × Bytes} (hacc : Sound I acc.2.2) :
    Sound I (prepAdded bit acc e).2.2 := by
  obtain ⟨_ | f, bs, s⟩ := acc
  · have h1 : Sound I ((rivals s (keyOf e.2)).1.foldl (fun x l => markOld x l bit) (rivals s (keyOf e.2)).2) :=
      foldl_sound (rivals_sound hacc) fun _ _ hx => markOld_sound hx
    unfold prepAdded
    dsimp only
    split
    · next e2 => exact (findPlace_sound h1).of_snd_snd e2
    · next e2 => exact snd_snd_sound (confSet_sound (markLoc_sound (putLoc_sound ((findPlace_sound h1).of_snd_snd e2))))
  · exact hacc

theorem prepConf_sound {new old : PlanCopy} {bit : Nat} (hs : Sound I s) : Sound I (prepConf s new old bit).2.2 :=
  snd_snd_sound (foldl_snd_snd_sound (snd_snd_sound (foldl_sound hs (fun _ _ hx => markOld_sound hx))) (fun _ _ hx1 => prepAdded_sound hx1))

theorem undoConf_sound (hs : Sound I s) : Sound I (undoConf s) :=
  .upd (foldl_sound hs (fun _ _ hx => ite_sound (confSet_sound (clearLoc_sound hx)) (ite_sound (ite_sound (confSet_sound (putLoc_sound hx))
      (putLoc_sound hx)) hx)))

theorem fixSeeds_sound {p : PlanCopy} (hs : Sound I s) : Sound I (fixSeeds s p) := by
  unfold fixSeeds
  split
  · exact hs
  · exact ite_sound (.upd (drawTrng_sound hs)) (.upd hs)

theorem loadLines_sound {p : PlanCopy} {bit : Nat} (hs : Sound I s) : Sound I (loadLines s p bit) :=
  .upd hs

theorem dropLines_sound {bit : Nat} (hs : Sound I s) : Sound I (dropLines s bit) :=
  .upd hs

theorem failReport_sound {f : CheckFail} (hs : Sound I s) : Sound I (failReport s f).2 :=
  snd_sound (drawFreeBytes_sound hs)

theorem planCommand_sound {mb : MbId} {ok : List StageState} {k : State → State} (hs : Sound I s) (hk : ∀ x, Sound I x → Sound I (k x)) :
     Sound I (planCommand s mb ok k) :=
  ite_sound (reply_sound hs) (ite_sound (hk _ hs) (reply_sound hs))

theorem execPlanStageBegin_sound {mb : MbId} {size : BitVec 32} (hs : Sound I s) : Completes I (execPlanStageBegin mb size s) :=
  next_sound (planCommand_sound hs (fun _ hx => ite_sound (reply_sound hx) (ite_sound (reply_sound hx) (reply_sound (setStaging_sound
      hx)))))

theorem execPlanStageData_sound {mb : MbId} {off len : BitVec 32} {payload : Option Bytes} (hs : Sound I s) :
     Completes I (execPlanStageData mb off len payload s) :=
  next_sound (planCommand_sound hs (fun _ hx => withPayload_sound hx (fun _ _ hx1 => ite_sound (reply_sound hx1) (reply_sound
      (setStaging_sound hx1)))))

theorem execPlanStageEnd_sound {mb : MbId} (hs : Sound I s) : Completes I (execPlanStageEnd mb s) := by
  unfold execPlanStageEnd
  refine next_sound ?_
  refine planCommand_sound hs ?_
  intro _ hx
  split
  · exact reply_sound (failReport_sound hx)
  · exact reply_sound (setStaging_sound hx)

theorem execPlanCheck_sound {mb : MbId} (hs : Sound I s) : Completes I (execPlanCheck mb s) := by
  unfold execPlanCheck
  refine next_sound ?_
  refine planCommand_sound hs ?_
  intro _ hx
  split
  · exact reply_sound (setStaging_sound (failReport_sound hx))
  · exact reply_sound (setStaging_sound hx)

theorem execPlanStatus_sound {mb : MbId} (hs : Sound I s) : Completes I (execPlanStatus mb s) :=
  next_sound (reply_sound hs)

/-! ### Commit -/

theorem tellGroup_sound {code : Nat} {c : Commit} (hs : Sound I s) : Sound I (tellGroup s code c) := by
  unfold tellGroup
  refine ite_sound hs ?_
  refine foldl_sound hs ?_
  intro _ _ hx
  split
  · exact ite_sound (post0_sound hx) hx
  · exact hx

theorem modCommit_sound {f : Commit → Commit} (hs : Sound I s) : Sound I (modCommit s f) :=
  .upd hs

theorem undoCommit_sound {wrote linesIn : Bool} (hs : Sound I s) : Sound I (undoCommit s wrote linesIn) :=
  ite_sound (dropLines_sound (ite_sound (undoConf_sound hs) hs)) (ite_sound (undoConf_sound hs) hs)

theorem endCommit_sound {status : Nat} {report : Bytes} {after : Staging} (hs : Sound I s) : Sound I (endCommit s status report after) := by
  unfold endCommit
  split
  · exact hs
  · exact reply_sound (.upd (undoCommit_sound hs))

theorem failCommit_sound {f : CheckFail} (hs : Sound I s) : Sound I (failCommit s f) := by
  unfold failCommit
  split
  · exact hs
  · exact endCommit_sound (tellGroup_sound (failReport_sound hs))

theorem beginPrepare_sound (hs : Sound I s) : Sound I (beginPrepare s) := by
  unfold beginPrepare
  split
  · exact hs
  · split
    · exact hs
    · refine ite_sound (modCommit_sound hs) ?_
      dsimp only
      split
      · exact failCommit_sound (modCommit_sound (prepConf_sound (fixSeeds_sound hs)))
      · exact ite_sound (failCommit_sound (modCommit_sound (prepConf_sound (fixSeeds_sound hs)))) (modCommit_sound (modCommit_sound
          (prepConf_sound (fixSeeds_sound hs))))

theorem afterCheck_sound {x : Passed} (hs : Sound I s) : Sound I (afterCheck s x) :=
  ite_sound (modCommit_sound (modCommit_sound hs)) (beginPrepare_sound (modCommit_sound hs))

theorem execPlanCommit_sound {mb : MbId} {args : Bytes} (hs : Sound I s) : Completes I (execPlanCommit mb args s) := by
  unfold execPlanCommit
  refine next_sound ?_
  refine ite_sound (reply_sound hs) ?_
  refine ite_sound (reply_sound hs) ?_
  refine ite_sound (reply_sound hs) ?_
  refine ite_sound ?_ (setStaging_sound (.upd hs))
  split
  · exact afterCheck_sound (setStaging_sound (.upd hs))
  · exact setStaging_sound (.upd hs)

theorem execCommitCheckDone_sound (hs : Sound I s) : Completes I (execCommitCheckDone s) := by
  unfold execCommitCheckDone
  refine next_sound ?_
  split
  · exact hs
  · refine ite_sound hs ?_
    split
    · exact failCommit_sound hs
    · exact afterCheck_sound hs

theorem execCommitEntropyReady_sound (hs : Sound I s) : Completes I (execCommitEntropyReady s) := by
  unfold execCommitEntropyReady
  refine next_sound ?_
  split
  · exact hs
  · exact ite_sound hs (ite_sound (beginPrepare_sound hs) (ite_sound (endCommit_sound hs) hs))

theorem loadCommitLines_sound (hs : Sound I s) : Sound I (loadCommitLines s) := by
  unfold loadCommitLines
  split
  · split
    · exact ite_sound hs (modCommit_sound (loadLines_sound hs))
    · exact hs
  · exact hs

theorem armCommit_sound (hs : Sound I s) : Sound I (armCommit s) :=
  modCommit_sound hs

theorem execCommitPrepareDone_sound {s0 : State} (hs0 : Sound I s0) : Completes I (execCommitPrepareDone s0) := by
  unfold execCommitPrepareDone
  refine next_sound ?_
  split
  · exact hs0
  · exact ite_sound hs0 (ite_sound (tellGroup_sound (modCommit_sound (loadCommitLines_sound hs0))) (armCommit_sound (modCommit_sound
      (loadCommitLines_sound hs0))))

theorem execGroupDecisionPoint_sound {s0 : State} (hs0 : Sound I s0) : Completes I (execGroupDecisionPoint s0) := by
  unfold execGroupDecisionPoint
  refine next_sound ?_
  split
  · exact hs0
  · split
    · exact hs0
    · exact ite_sound hs0 (ite_sound (endCommit_sound (advanceTo_sound hs0)) (ite_sound (endCommit_sound (advanceTo_sound hs0)) (ite_sound
        (endCommit_sound (advanceTo_sound hs0)) (armCommit_sound (advanceTo_sound hs0)))))

theorem switchPlan_sound {c : Commit} {p : PlanCopy} (hs : Sound I s) : Sound I (switchPlan s c p) :=
  .upd (spanEpoch_sound (redundancyEpoch_sound (metersEpoch_sound (gatesEpoch_sound (portsEpoch_sound hs)))))

theorem epochEvent_sound (hs : Sound I s) : Sound I (epochEvent s) :=
  foldl_sound hs (fun _ _ hx => ite_sound (setFlag_sound hx) hx)

theorem execEpochInstant_sound {s0 : State} (hs0 : Sound I s0) : Completes I (execEpochInstant s0) := by
  unfold execEpochInstant
  refine next_sound ?_
  split
  · exact hs0
  · split
    · exact hs0
    · exact ite_sound hs0 (ite_sound (hawkRestartDue_sound (.updHost (reply_sound (raiseInt_sound (logCount_sound (setReady_sound
        (setReady_sound (ite_sound (cleanupAll_sound (epochEvent_sound (switchPlan_sound (loadCommitLines_sound (advanceTo_sound hs0)))))
        (epochEvent_sound (switchPlan_sound (loadCommitLines_sound (advanceTo_sound hs0)))))))))) rfl)) (reply_sound (raiseInt_sound
        (logCount_sound (setReady_sound (setReady_sound (ite_sound (cleanupAll_sound (epochEvent_sound (switchPlan_sound
        (loadCommitLines_sound (advanceTo_sound hs0))))) (epochEvent_sound (switchPlan_sound (loadCommitLines_sound (advanceTo_sound
        hs0)))))))))))

theorem execEpochRetire_sound {s0 : State} (hs0 : Sound I s0) : Completes I (execEpochRetire s0) := by
  unfold execEpochRetire
  refine next_sound ?_
  split
  · exact hs0
  · dsimp only
    split
    · exact ite_sound (beginPrepare_sound (.upd (dropLines_sound (foldl_sound (sasRetire_sound (cleanupAll_sound (advanceTo_sound hs0)))
        (fun _ _ hx => threadStop_sound hx))))) (ite_sound (loadCommitLines_sound (.upd (dropLines_sound (foldl_sound (sasRetire_sound
        (cleanupAll_sound (advanceTo_sound hs0))) (fun _ _ hx => threadStop_sound hx))))) (.upd (dropLines_sound (foldl_sound
        (sasRetire_sound (cleanupAll_sound (advanceTo_sound hs0))) (fun _ _ hx => threadStop_sound hx)))))
    · exact .upd (dropLines_sound (foldl_sound (sasRetire_sound (cleanupAll_sound (advanceTo_sound hs0))) (fun _ _ hx => threadStop_sound
        hx)))

theorem execPlanAbort_sound {mb : MbId} (hs : Sound I s) : Completes I (execPlanAbort mb s) := by
  unfold execPlanAbort
  refine next_sound ?_
  split
  · exact reply_sound hs
  · split
    · exact ite_sound (reply_sound hs) (reply_sound (endCommit_sound (tellGroup_sound hs)))
    · exact reply_sound (setStaging_sound hs)
  · exact reply_sound (setStaging_sound hs)

theorem execPrepared_sound {link : Fin 3} (hs : Sound I s) : Completes I (execPrepared link s) :=
  next_sound (onMsg_sound hs (fun _ _ _ hx => sendMsg_sound (.upd hx)))

theorem execAbort_sound {link : Fin 3} (hs : Sound I s) : Completes I (execAbort link s) :=
  next_sound (onMsg_sound hs (fun _ _ _ hx => modCommit_sound (.upd hx)))

theorem execPreparedAck_sound {link : Fin 3} (hs : Sound I s) : Completes I (execPreparedAck link s) :=
  next_sound (onMsg_sound hs (fun _ _ _ hx => modCommit_sound hx))

theorem execHawkRestartEnd_sound (hs : Sound I s) : Completes I (execHawkRestartEnd s) := by
  unfold execHawkRestartEnd
  refine next_sound (ite_sound hs ?_)
  split
  · exact decideDevice_sound hs
  · exact acceptHeld_sound (hawkEvent_sound (raiseInt_sound (logCount_sound (.updHost (hawkRunning_sound (.upd (foldl_sound (ite_sound
      (undoCommit_sound (.upd (.updFault hs rfl rfl rfl))) (.updFault hs rfl rfl rfl)) (fun _ _ hx => ite_sound (publish_sound hx) hx))))
      rfl))))

end Sys2Proof.Proofs.StepInvariants
end

section
/-!
PROOFS. The laws that every step keeps: long operations, host rings and recovery.
-/

namespace Sys2Proof.Proofs.StepInvariants
open Sys2Proof Sys2Proof.Machine

variable {I : Law} {s : State}

/-! ### LongOps -/

theorem loadOutcome_sound {tid a n st : Nat} {e : SbEntry} {host : BitVec 64} {d : Bytes} {t : State} (hs : Sound I s)
    (h : loadOutcome s tid e a n host = some (st, d, t)) : Sound I t := by
  suffices hall : ∀ r, loadOutcome s tid e a n host = some r → Sound I r.2.2 from hall _ h
  clear h
  unfold loadOutcome
  generalize regionOf a = region
  split
  · exact ite_yields (some_yields hs) none_yields
  · exact ite_yields (some_yields hs) none_yields
  · exact ite_yields (some_yields hs) (ite_yields none_yields (some_yields hs))
  · exact ite_yields none_yields (ite_yields (some_yields hs) (some_yields hs))
  · exact ite_yields none_yields (some_yields (directRead_sound hs))

theorem longFails_sound {tid st : Nat} {e : SbEntry} (hs : Sound I s) : Sound I (longFails s tid st e) :=
  raiseFault_sound (clearEntry_sound hs)

theorem loadDone_sound {tid : Nat} {e : SbEntry} (hs : Sound I s) : Sound I (loadDone s tid e) :=
  setFlag_sound (clearEntry_sound hs)

theorem sendMessage_sound {tid target chan : Nat} {v : W64} {handle : Option Nat} (hs : Sound I s) :
     Sound I (sendMessage s tid target chan v handle).2 := by
  unfold sendMessage
  refine ite_snd_sound (snd_sound hs) ?_
  refine ite_snd_sound (snd_sound hs) ?_
  refine ite_snd_sound (snd_sound (dispCnt_sound hs)) ?_
  split
  · exact snd_sound (dispCnt_sound (modTh_sound hs))
  · exact ite_snd_sound (snd_sound hs) (snd_sound (dispCnt_sound (modTh_sound (modSlots_sound (modSlots_sound hs)))))

theorem sendSignal_sound {tid target n : Nat} (hs : Sound I s) : Sound I (sendSignal s tid target n).2 :=
  ite_snd_sound (snd_sound hs) (ite_snd_sound (snd_sound hs) (snd_sound (setFlag_sound hs)))

theorem putResult_sound {tid : Nat} {e : SbEntry} {off : Nat} {d : Bytes} (hs : Sound I s) : Sound I (putResult s tid e off d) :=
  modTh_sound (clearEntry_sound hs)

theorem putStatus_sound {tid : Nat} {e : SbEntry} {off st : Nat} (hs : Sound I s) : Sound I (putStatus s tid e off st) :=
  putResult_sound hs

theorem copEnd_sound {tid : Nat} {e : SbEntry} {k func : Nat} {regs : Table W64} {err : Option Nat} {key : Option (Nat × Nat × Bytes)} (hs : Sound I s) :
     Sound I (copEnd s tid e k func regs err key) := by
  unfold copEnd
  dsimp only
  split
  · refine raiseFault_sound ?_
    refine copCnt_sound ?_
    split
    · exact .upd (ite_sound (copCnt_sound (ite_sound (copCnt_sound (copCnt_sound (modCop_sound (setFlag_sound (clearEntry_sound hs)))))
        (copCnt_sound (modCop_sound (setFlag_sound (clearEntry_sound hs)))))) (ite_sound (copCnt_sound (copCnt_sound (modCop_sound
        (setFlag_sound (clearEntry_sound hs))))) (copCnt_sound (modCop_sound (setFlag_sound (clearEntry_sound hs))))))
    · exact ite_sound (copCnt_sound (ite_sound (copCnt_sound (copCnt_sound (modCop_sound (setFlag_sound (clearEntry_sound hs)))))
        (copCnt_sound (modCop_sound (setFlag_sound (clearEntry_sound hs)))))) (ite_sound (copCnt_sound (copCnt_sound (modCop_sound
        (setFlag_sound (clearEntry_sound hs))))) (copCnt_sound (modCop_sound (setFlag_sound (clearEntry_sound hs)))))
  · split
    · exact .upd (ite_sound (copCnt_sound (ite_sound (copCnt_sound (copCnt_sound (modCop_sound (setFlag_sound (clearEntry_sound hs)))))
        (copCnt_sound (modCop_sound (setFlag_sound (clearEntry_sound hs)))))) (ite_sound (copCnt_sound (copCnt_sound (modCop_sound
        (setFlag_sound (clearEntry_sound hs))))) (copCnt_sound (modCop_sound (setFlag_sound (clearEntry_sound hs))))))
    · exact ite_sound (copCnt_sound (ite_sound (copCnt_sound (copCnt_sound (modCop_sound (setFlag_sound (clearEntry_sound hs)))))
        (copCnt_sound (modCop_sound (setFlag_sound (clearEntry_sound hs)))))) (ite_sound (copCnt_sound (copCnt_sound (modCop_sound
        (setFlag_sound (clearEntry_sound hs))))) (copCnt_sound (modCop_sound (setFlag_sound (clearEntry_sound hs)))))

theorem timerInsert_sound {tid : Nat} {e : SbEntry} {off deadline tag : Nat} (hs : Sound I s) :
     Sound I (timerInsert s tid e off deadline tag) :=
  ite_sound (putStatus_sound (dispCnt_sound hs)) (putStatus_sound (modCl_sound hs))

theorem timerCancel_sound {tid : Nat} {e : SbEntry} {off tag : Nat} (hs : Sound I s) : Sound I (timerCancel s tid e off tag) := by
  unfold timerCancel
  dsimp only
  split
  · exact putStatus_sound hs
  · exact putStatus_sound (modCl_sound hs)

theorem settleEntry_sound {tid id : Nat} (hs : Sound I s) : Sound I (settleEntry s tid id) :=
  ite_sound (modTh_sound (settleLocks_sound hs)) (settleLocks_sound hs)

theorem completeEntry_sound {tid : Nat} {e : SbEntry} {host : BitVec 64} (hs : Sound I s) : Sound I (completeEntry s tid e host) := by
  unfold completeEntry
  split
  · split
    · exact hs
    · rename_i e
      exact ite_sound (modTh_sound (loadDone_sound (loadOutcome_sound hs e))) (longFails_sound (loadOutcome_sound hs e))
  · split
    · exact hs
    · rename_i e1
      exact ite_sound (modTh_sound (loadDone_sound (loadOutcome_sound hs e1))) (longFails_sound (loadOutcome_sound hs e1))
  · split
    · exact hs
    · rename_i e2
      exact ite_sound (modTh_sound (loadDone_sound (loadOutcome_sound hs e2))) (longFails_sound (loadOutcome_sound hs e2))
  · exact modTh_sound (clearEntry_sound hs)
  · exact hs
  · exact modTh_sound (clearEntry_sound hs)
  · split
    · exact hs
    · exact ite_sound (modTh_sound (clearEntry_sound hs)) (longFails_sound hs)
  · dsimp only
    split
    · refine raiseFault_sound ?_
      split
      · exact setFlag_sound (putResult_sound hs)
      · exact putResult_sound hs
    · split
      · exact setFlag_sound (putResult_sound hs)
      · exact putResult_sound hs
  · exact ite_sound hs (putStatus_sound (sendMessage_sound hs))
  · exact putStatus_sound (sendSignal_sound hs)
  · exact putStatus_sound hs
  · dsimp only
    split
    · exact enterItem_sound (putStatus_sound (modTh_sound hs))
    · exact putStatus_sound (modTh_sound hs)
  · dsimp only
    split
    · rename_i e3
      exact setFlag_sound (putStatus_sound ((postDirect_sound hs).of_snd e3))
    · rename_i e4
      exact hs
  · exact timerInsert_sound hs
  · exact timerCancel_sound hs
  · split
    · rename_i e5
      exact setFlag_sound (putResult_sound ((tableCommand_sound hs).of_snd e5))
    · rename_i e6
      exact modTh_sound ((tableCommand_sound hs).of_snd e6)
  · split
    · exact setFlag_sound (putResult_sound hs)
    · exact hs
  · exact hs
  · exact copEnd_sound hs
  · exact modCop_sound (setFlag_sound (clearEntry_sound hs))
  · exact hs

theorem longOpComplete_sound {s0 : State} {tid entry : Nat} {host : BitVec 64} (hs0 : Sound I s0) :
     Sound I (longOpComplete s0 tid entry host) := by
  unfold longOpComplete
  split
  · exact hs0
  · dsimp only
    split
    · split
      · refine completeEntry_sound ?_
        refine settleEntry_sound ?_
        refine ite_sound ?_ hs0
        split
        · exact advanceTo_sound hs0
        · exact hs0
      · refine settleEntry_sound ?_
        refine ite_sound ?_ hs0
        split
        · exact advanceTo_sound hs0
        · exact hs0
    · split
      · refine completeEntry_sound ?_
        refine landCl_sound ?_
        refine ite_sound ?_ hs0
        split
        · exact advanceTo_sound hs0
        · exact hs0
      · refine landCl_sound ?_
        refine ite_sound ?_ hs0
        split
        · exact advanceTo_sound hs0
        · exact hs0
    · split
      · refine completeEntry_sound ?_
        refine landCl_sound ?_
        refine ite_sound ?_ hs0
        split
        · exact advanceTo_sound hs0
        · exact hs0
      · refine landCl_sound ?_
        refine ite_sound ?_ hs0
        split
        · exact advanceTo_sound hs0
        · exact hs0
    · refine completeEntry_sound ?_
      refine ite_sound ?_ hs0
      split
      · exact advanceTo_sound hs0
      · exact hs0

theorem hostWinWrite_sound {a : Nat} {d : Bytes} (hs : Sound I s) : Sound I (hostWinWrite s a d) := hostWrite_sound hs

theorem storeOutcome_sound {tid st : Nat} {x : PostedStore} {t : State} (hs : Sound I s) (h : storeOutcome s tid x = some (st, t)) :
     Sound I t := by
  suffices hall : ∀ r, storeOutcome s tid x = some r → Sound I r.2 from hall _ h
  clear h
  unfold storeOutcome
  generalize regionOf x.addr = region
  dsimp only
  split
  · exact ite_yields (some_yields hs) none_yields
  · exact ite_yields (some_yields hs) none_yields
  · exact ite_yields (some_yields hs) (ite_yields none_yields (some_yields (hostWinWrite_sound hs)))
  · exact ite_yields none_yields (ite_yields (some_yields hs) (some_yields (directWrite_sound hs)))

theorem storePerformed_sound {tid index : Nat} (hs : Sound I s) : Sound I (storePerformed s tid index) := by
  unfold storePerformed
  split
  · exact hs
  · split
    · exact hs
    · rename_i e
      exact ite_sound (ite_sound (setFlag_sound (modTh_sound (storeOutcome_sound hs e))) (modTh_sound (storeOutcome_sound hs e)))
          (raiseFault_sound (drawFree_sound (ite_sound (setFlag_sound (modTh_sound (storeOutcome_sound hs e))) (modTh_sound
          (storeOutcome_sound hs e)))))

theorem blockRead_sound {tid a : Nat} (hs : Sound I s) : Sound I (blockRead s tid a).2.2 :=
  snd_snd_sound (directRead_sound hs)

theorem elemValues_sound {tid : Nat} {b : Block} {e : BlockElem} (hs : Sound I s) : Sound I (elemValues s tid b e).2.2 := by
  unfold elemValues
  split
  · exact snd_snd_sound hs
  · exact snd_snd_sound (ite_snd_snd_sound (blockRead_sound (ite_snd_snd_sound (blockRead_sound hs) (snd_snd_sound hs))) (snd_snd_sound
      (ite_snd_snd_sound (blockRead_sound hs) (snd_snd_sound hs))))

theorem elemEffect_sound {tid : Nat} {b : Block} {e : BlockElem} (hs : Sound I s) : Sound I (elemEffect s tid b e).2 := by
  unfold elemEffect
  dsimp only
  split
  · exact snd_sound (ite_sound (plainStore_sound hs) (longStore_sound hs))
  · exact snd_sound (ite_sound (plainStore_sound hs) (longStore_sound hs))
  · exact ite_snd_sound (snd_sound hs) (snd_sound (modTh_sound hs))
  · exact ite_snd_sound (snd_sound (modTh_sound hs)) (snd_sound (modTh_sound hs))
  · exact ite_snd_sound (snd_sound (modTh_sound hs)) (snd_sound hs)

theorem freeFlags_sound {tid op : Nat} (hs : Sound I s) : Sound I (freeFlags s tid op) :=
  ite_sound (modTh_sound (drawFree_sound hs)) hs

theorem blockElementDone_sound {s0 : State} {tid : Nat} (hs0 : Sound I s0) : Sound I (blockElementDone s0 tid) := by
  unfold blockElementDone
  split
  · exact hs0
  · split
    · exact hs0
    · refine ite_sound ?_ ?_
      · refine blockSettle_sound ?_
        refine modTh_sound ?_
        split
        · exact advanceTo_sound hs0
        · exact hs0
      · dsimp only
        split
        · refine blockEnd_sound ?_
          refine freeFlags_sound ?_
          refine raiseFault_sound ?_
          refine modTh_sound ?_
          refine elemValues_sound ?_
          split
          · exact advanceTo_sound hs0
          · exact hs0
        · refine blockSettle_sound ?_
          refine modTh_sound ?_
          refine ite_sound ?_ ?_
          · refine elemEffect_sound ?_
            refine elemValues_sound ?_
            split
            · exact advanceTo_sound hs0
            · exact hs0
          · refine blockCount_sound ?_
            refine elemEffect_sound ?_
            refine elemValues_sound ?_
            split
            · exact advanceTo_sound hs0
            · exact hs0

theorem takeEvent_sound {tid p : Nat} (hs : Sound I s) : Sound I (takeEvent s tid p) :=
  enterHandler_sound hs

theorem eventDelivery_sound {tid : Nat} (hs : Sound I s) : Sound I (eventDelivery s tid) := by
  unfold eventDelivery
  split
  · exact hs
  · rename_i e
    split
    · exact ite_sound (takeEvent_sound (modTh_sound (slotFor_sound hs e))) hs
    · exact ite_sound (takeEvent_sound (slotFor_sound hs e)) hs

theorem wakeAt_sound {tid m : Nat} (hs : Sound I s) : Sound I (wakeAt s tid m) :=
  coreCnt_sound (modTh_sound hs)

theorem threadWake_sound {tid : Nat} (hs : Sound I s) : Sound I (threadWake s tid) := by
  unfold threadWake
  dsimp only
  split
  · exact hs
  · exact ite_sound hs (wakeAt_sound hs)
  · exact ite_sound hs (nextSwap_sound (wakeAt_sound hs))
  · split
    · exact hs
    · exact modTh_sound (wakeAt_sound (endSleep_sound hs))
  · exact ite_sound hs (takeMessage_sound (wakeAt_sound hs))

theorem delayLost_sound {n : Nat} (hs : Sound I s) : Sound I (delayLost s n) :=
  dispCnt_sound (foldl_sound (modCl_sound hs) (fun _ _ hx => raiseFault_sound (drawFree_sound hx)))

theorem delayTouch_sound {n : Nat} (hs : Sound I s) : Sound I (delayTouch s n).2 :=
  foldl_snd_sound (snd_sound hs) (fun _ _ hx => ite_snd_sound (snd_sound (dispCnt_sound (record_sound (clearMark_sound hx)))) (snd_sound
      (ite_sound (clearMark_sound hx) (errorIn_sound (delayLost_sound (clearMark_sound hx))))))

theorem timerDue_sound {s0 : State} {n : Nat} (hs0 : Sound I s0) : Sound I (timerDue s0 n) := by
  unfold timerDue
  split
  · exact hs0
  · exact ite_sound (delayTouch_sound (advanceTo_sound hs0)) (dispCnt_sound (foldl_sound (modCl_sound (delayTouch_sound (advanceTo_sound
      hs0))) (fun _ _ hx => ite_sound hx (modTh_sound hx))))

theorem reservationExpire_sound {s0 : State} {tid : Nat} (hs0 : Sound I s0) : Sound I (reservationExpire s0 tid) := by
  unfold reservationExpire
  split
  · exact hs0
  · exact modTh_sound (advanceTo_sound hs0)

theorem slotTableSwitch_sound {s0 : State} (hs0 : Sound I s0) : Sound I (slotTableSwitch s0) := by
  unfold slotTableSwitch
  split
  · exact hs0
  · refine foldl_sound (.upd (advanceTo_sound hs0)) ?_
    intro _ _ hx
    split
    · exact ite_sound hx (threadStart_sound hx)
    · exact hx

theorem fetchGoesOn_sound {tid : Nat} (hs : Sound I s) : Sound I (fetchGoesOn s tid) :=
  ite_sound (coreCnt_sound (modTh_sound hs)) (modTh_sound hs)

theorem icacheFillDone_sound {tid : Nat} (hs : Sound I s) : Sound I (icacheFillDone s tid) := by
  unfold icacheFillDone
  split
  · exact ite_sound (fetchGoesOn_sound hs) hs
  · dsimp only
    split
    · refine fetchGoesOn_sound ?_
      split
      · exact .upd hs
      · exact modTh_sound hs
    · exact hs

theorem icacheReload_sound {tid : Nat} (hs : Sound I s) : Sound I (icacheReload s tid) := by
  unfold icacheReload
  split
  · exact hs
  · dsimp only
    split
    · exact fetchGoesOn_sound (coreCnt_sound (record_sound (.upd (foldl_sound hs (fun _ _ hx => clearMark_sound hx)))))
    · exact hs

/-! ### HostRings -/

theorem rxCnt_sound {r off k : Nat} (hs : Sound I s) : Sound I (rxCnt s r off k) :=
  hostCount_sound hs

theorem txCnt_sound {r off k : Nat} (hs : Sound I s) : Sound I (txCnt s r off k) :=
  hostCount_sound hs

theorem dropCopy_sound {c : RingCopy} (hs : Sound I s) : Sound I (dropCopy s c) := by
  unfold dropCopy
  refine unitRelease_sound ?_
  split
  · exact mirrorCnt_sound hs
  · exact hs

theorem endCopy_sound {c : RingCopy} (hs : Sound I s) : Sound I (endCopy s c) := by
  unfold endCopy
  refine unitRelease_sound ?_
  split
  · exact mirrorCnt_sound hs
  · exact hs

theorem rxWrite_sound {r : Nat} {c : RingCopy} {body : Bytes} (hs : Sound I s) : Sound I (rxWrite s r c body) :=
  raiseInt_sound (mirrorIndex_sound (rxCnt_sound (rxCnt_sound (rxCnt_sound (modRing_sound (hostWrite_sound hs))))))

theorem execRingCopyWrite_sound {s0 : State} (hs0 : Sound I s0) : Completes I (execRingCopyWrite s0) := by
  unfold execRingCopyWrite
  refine next_sound ?_
  split
  · exact hs0
  · refine ite_sound (ite_sound (endCopy_sound (.upd hs0)) (dropCopy_sound (.upd hs0))) ?_
    refine ite_sound (dropCopy_sound (.upd hs0)) ?_
    refine ite_sound (dropCopy_sound (rxCnt_sound (modRing_sound (.upd hs0)))) ?_
    dsimp only
    split
    · exact dropCopy_sound (hbmRead_sound (.upd hs0))
    · exact endCopy_sound (rxWrite_sound (hbmRead_sound (.upd hs0)))

theorem txEnd_sound {r st : Nat} {d : Bytes} (hs : Sound I s) : Sound I (txEnd s r st d) := by
  unfold txEnd
  extract_lets g tail s1 host s2 s3 s4
  have h1 : Sound I s1 := hostWrite_sound hs
  clear_value s1
  have h2 : Sound I s2 := modRing_sound (.updHost h1 rfl)
  have h3 : Sound I s3 := ite_sound (txCnt_sound (txCnt_sound h2)) (txCnt_sound h2)
  have h4 : Sound I s4 := mirrorIndex_sound h3
  exact ite_sound (raiseInt_sound h4) h4

theorem txAlloc_sound {r : Nat} {d : Bytes} (hs : Sound I s) : Sound I (txAlloc s r d) := by
  unfold txAlloc
  dsimp only
  split
  · rename_i e
    exact .updHost ((hodAlloc_sound hs).of_snd e) rfl
  · rename_i e1
    exact txCnt_sound (.updHost ((hodAlloc_sound hs).of_snd e1) rfl)

theorem execTxDescriptor_sound {r : Fin 8} {desc : Bytes} (hs : Sound I s) : Completes I (execTxDescriptor r desc s) := by
  unfold execTxDescriptor
  refine next_sound (ite_sound hs ?_)
  split
  · exact txEnd_sound hs
  · exact txAlloc_sound hs

theorem execTxDescriptorRetry_sound {r : Fin 8} (hs : Sound I s) : Completes I (execTxDescriptorRetry r s) := by
  unfold execTxDescriptorRetry
  refine next_sound ?_
  split
  · exact ite_sound (txAlloc_sound hs) hs
  · exact hs

theorem txChain_sound {r h : Nat} {d : Bytes} (hs : Sound I s) : Sound I (txChain s r h d) := by
  unfold txChain
  dsimp only
  split
  · rename_i e
    exact unitRelease_sound ((orderEnter_sound hs).of_snd e)
  · rename_i e1
    exact .upd ((orderEnter_sound hs).of_snd e1)

theorem txPort_sound {h : Nat} {d : Bytes} (hs : Sound I s) : Sound I (txPort s h d) :=
  .upd hs

theorem execTxFrameAccept_sound {r : Fin 8} {frame : Bytes} {s0 : State} (hs0 : Sound I s0) :
     Completes I (execTxFrameAccept r frame s0) := by
  unfold execTxFrameAccept
  refine next_sound ?_
  split
  · exact ite_sound hs0 (txEnd_sound (ite_sound (txChain_sound (hbmPut_sound (ite_sound (advanceTo_sound hs0) hs0))) (txPort_sound
      (hbmPut_sound (ite_sound (advanceTo_sound hs0) hs0)))))
  · exact hs0

theorem execDmaReadTimeout_sound {who : DmaReader} (hs : Sound I s) : Completes I (execDmaReadTimeout who s) := by
  unfold execDmaReadTimeout
  refine next_sound ?_
  split
  · dsimp only
    split
    · exact longFails_sound (hostCount_sound hs)
    · exact hs
  · exact ite_sound (reply_sound (hostCount_sound hs)) hs
  · split
    · exact ite_sound (txEnd_sound (unitRelease_sound (hostCount_sound hs))) hs
    · exact hs

theorem execThreadNotify_sound {mb : MbId} {thread : BitVec 16} (hs : Sound I s) : Completes I (execThreadNotify mb thread s) :=
  next_sound (ite_sound (reply_sound hs) (reply_sound (setFlag_sound hs)))

theorem execCounterRead_sound {mb : MbId} {addr : BitVec 64} {count : BitVec 32} {ind : Option (BitVec 64)} (hs : Sound I s) :
     Completes I (execCounterRead mb addr count ind s) :=
  next_sound (ite_sound (reply_sound hs) (ite_sound (reply_sound hs) (replyBulk_sound hs)))

/-! ### Recovery -/

theorem takePlanted_sound {e : Nat × Nat × Nat} (hs : Sound I s) : Sound I (takePlanted s e).2 :=
  snd_sound (.updFault hs rfl rfl rfl)

theorem restartReset_sound {u : Loc} (hs : Sound I s) : Sound I (restartReset s u) := by
  unfold restartReset
  refine ite_sound hs ?_
  refine ite_sound ?_ (ite_sound (spanTraining_sound hs) hs)
  split
  · exact ite_sound (linkLost_sound hs) hs
  · exact hs

theorem unitError_sound {cls code : Nat} {l : Loc} {injected : Bool} (hs : Sound I s) : Sound I (unitError s cls code l injected) :=
  restartReset_sound (errorIn_sound hs)

theorem execSlotOverrun_sound {l5 : BitVec 6} {l4 : BitVec 8} {l3 : BitVec 10} {l2 : BitVec 12} (hs : Sound I s) :
     Completes I (execSlotOverrun l5 l4 l3 l2 s) :=
  next_sound (ite_sound hs (unitError_sound (takePlanted_sound hs)))

theorem execStepStall_sound {cluster : ClusterId} {cores : List (Fin 12)} (hs : Sound I s) : Completes I (execStepStall cluster cores s) :=
  next_sound (ite_sound hs (foldl_sound hs (fun _ _ hx => unitError_sound hx)))

theorem execHeartbeatTimeout_sound {l5 : BitVec 6} {l4 : BitVec 8} (hs : Sound I s) : Completes I (execHeartbeatTimeout l5 l4 s) :=
  next_sound (ite_sound hs (unitError_sound (takePlanted_sound hs)))

theorem execWatchdogExpire_sound (hs : Sound I s) : Completes I (execWatchdogExpire s) :=
  next_sound (ite_sound hs (decideDevice_sound (assertFaultN_sound (logRecord_sound (takePlanted_sound hs)))))

theorem clearUnitMarks_sound {f : Loc → Bool} (hs : Sound I s) : Sound I (clearUnitMarks s f) :=
  .updFault hs rfl rfl rfl

theorem coreRestart_sound {n c : Nat} (hs : Sound I s) : Sound I (coreRestart s n c) := by
  unfold coreRestart
  refine clearUnitMarks_sound ?_
  refine Sound.upd ?_
  refine foldl_sound hs ?_
  intro _ _ hx
  dsimp only
  split
  · exact hx
  · exact modTh_sound (dispCnt_sound (ite_sound (faultCount_sound (revokeThread_sound hx)) (revokeThread_sound hx)))

theorem copRestart_sound {l5 l4 : Nat} (hs : Sound I s) : Sound I (copRestart s l5 l4) := by
  unfold copRestart
  dsimp only
  split
  · exact copRelease_sound hs
  · exact raiseFault_sound (drawFree_sound (copRelease_sound hs))

theorem dispRestart_sound {n : Nat} (hs : Sound I s) : Sound I (dispRestart s n) := by
  unfold dispRestart
  exact clearUnitMarks_sound (foldl_sound (modCl_sound hs) (fun _ _ hx => faultCount_sound (discardItem_sound hx)))

theorem delayRestart_sound {n : Nat} (hs : Sound I s) : Sound I (delayRestart s n) :=
  clearUnitMarks_sound (record_sound (delayLost_sound hs))

theorem macsecRestart_sound {n : Nat} (hs : Sound I s) : Sound I (macsecRestart s n) :=
  record_sound (.upd hs)

theorem stencilRestart_sound {e : Nat} (hs : Sound I s) : Sound I (stencilRestart s e) := by
  unfold stencilRestart
  exact clearUnitMarks_sound (foldl_sound (foldl_sound (.upd hs) (fun _ _ hx => faultCount_sound (unitRelease_sound hx))) (fun _ _ hx1 =>
      faultCount_sound (unitRelease_sound (stencilCnt_sound hx1))))

theorem classifierRestart_sound {i : Nat} (hs : Sound I s) : Sound I (classifierRestart s i) := by
  unfold classifierRestart
  exact clearUnitMarks_sound (foldl_sound (foldl_sound (.upd hs) (fun _ _ hx => faultCount_sound (clsDiscard_sound (releaseClaim_sound
      hx)))) (fun _ _ hx1 => faultCount_sound (clsDiscard_sound hx1)))

theorem routineFaults_sound {hs : List RoutineHolder} {revoked : Bool} (hs' : Sound I s) : Sound I (routineFaults s hs revoked) := by
  unfold routineFaults
  refine foldl_sound hs' ?_
  intro _ _ hx
  split
  · exact ite_sound hx (raiseFault_sound hx)
  · exact hx

theorem tableRestart_sound (hs : Sound I s) : Sound I (tableRestart s) :=
  startFlushes_sound (clearUnitMarks_sound (routineFaults_sound (foldl_sound (foldl_sound (.upd hs) (fun _ _ hx => routineFaults_sound
      (endRoutine_sound hx))) (fun _ _ hx1 => answerHolder_sound hx1))))

theorem schedulerRestart_sound {n : Nat} (hs : Sound I s) : Sound I (schedulerRestart s n) :=
  .upd (foldl_sound (cbsSync_sound hs) (fun _ _ hx => modQueue_sound (foldl_sound hx (fun _ _ hx1 => faultCount_sound (unitRelease_sound
      hx1)))))

theorem admissionRestart_sound (hs : Sound I s) : Sound I (admissionRestart s) :=
  .upd hs

theorem rebuild_sound {u : Loc} (hs : Sound I s) : Sound I (rebuild s u) :=
  ite_sound (ite_sound (coreRestart_sound hs) (ite_sound (copRestart_sound hs) (ite_sound (dispRestart_sound hs) (delayRestart_sound hs))))
      (ite_sound (ite_sound (restartReset_sound hs) (macsecRestart_sound hs)) (ite_sound (stencilRestart_sound hs) (ite_sound
      (classifierRestart_sound hs) (ite_sound (tableRestart_sound hs) (ite_sound (hodRestartEnd_sound hs) (ite_sound (ite_sound
      (schedulerRestart_sound hs) (admissionRestart_sound hs)) hs))))))

theorem readyAgain_sound {r : Recovery} (hs : Sound I s) : Sound I (readyAgain s r) := by
  unfold readyAgain
  refine ite_sound ?_ ?_
  · split
    · exact hs
    · exact ite_sound (.updFault hs rfl rfl rfl) (setReady_sound hs)
  · refine ite_sound ?_ ?_
    · refine Sound.updFault ?_ rfl rfl rfl
      split
      · exact hs
      · exact ite_sound (.updFault hs rfl rfl rfl) (setReady_sound hs)
    · refine ite_sound ?_ ?_
      · refine setReady_sound ?_
        refine Sound.updHost ?_ rfl
        split
        · exact hs
        · exact ite_sound (.updFault hs rfl rfl rfl) (setReady_sound hs)
      · refine Sound.updHost ?_ rfl
        split
        · exact hs
        · exact ite_sound (.updFault hs rfl rfl rfl) (setReady_sound hs)

theorem restartEnds_sound {r : Recovery} (hs : Sound I s) : Sound I (restartEnds s r) := by
  unfold restartEnds
  refine ite_sound (decideDevice_sound hs) ?_
  refine ite_sound (errorIn_sound hs) ?_
  dsimp only
  split
  · exact reply_sound (readyAgain_sound (.updFault (faultCount_sound (rebuild_sound hs)) rfl rfl rfl))
  · exact readyAgain_sound (.updFault (faultCount_sound (rebuild_sound hs)) rfl rfl rfl)

theorem execUnitRestartEnd_sound {l5 : BitVec 6} {l4 : BitVec 8} (hs : Sound I s) : Completes I (execUnitRestartEnd l5 l4 s) := by
  unfold execUnitRestartEnd
  refine next_sound ?_
  dsimp only
  split
  · exact hs
  · exact ite_sound hs (restartEnds_sound hs)

theorem execUnitRestart_sound {mb : MbId} {loc : BitVec 64} (hs : Sound I s) : Completes I (execUnitRestart mb loc s) :=
  next_sound (ite_sound (reply_sound hs) (ite_sound (reply_sound hs) (restartReset_sound (startRestart_sound hs))))

theorem execDeviceRestart_sound {mb : MbId} {confirm : BitVec 32} (hs : Sound I s) : Completes I (execDeviceRestart mb confirm s) := by
  unfold execDeviceRestart
  refine next_sound ?_
  refine ite_sound (reply_sound hs) ?_
  refine reply_sound ?_
  split
  · exact hs
  · exact .updFault hs rfl rfl rfl

theorem execDeviceRestartDecision_sound (hs : Sound I s) : Completes I (execDeviceRestartDecision s) := by
  unfold execDeviceRestartDecision
  refine next_sound (ite_sound hs ?_)
  split
  · exact deviceRestartNow_sound hs
  · exact deviceRestartNow_sound (logRecord_sound (advanceTo_sound hs))
  · exact hs

theorem noSpareFor_sound {n : Nat} {inj : Bool} (hs : Sound I s) : Sound I (noSpareFor s n inj) :=
  record_sound (.updFault hs rfl rfl rfl)

theorem comparatorFails_sound {k : Nat} {inj : Bool} (hs : Sound I s) : Sound I (comparatorFails s k inj) := by
  unfold comparatorFails
  dsimp only
  split
  · exact record_sound (.updFault hs rfl rfl rfl)
  · exact ite_sound (noSpareFor_sound (record_sound (.updFault hs rfl rfl rfl))) (.updFault (record_sound (.updFault hs rfl rfl rfl)) rfl
      rfl rfl)

theorem execComparatorSelfTest_sound {cmp : Fin 34} {detects codeValid : Bool} (hs : Sound I s) :
     Completes I (execComparatorSelfTest cmp detects codeValid s) :=
  next_sound (ite_sound hs (ite_sound (faultCount_sound (takePlanted_sound hs)) (comparatorFails_sound (faultCount_sound (takePlanted_sound
      hs)))))

theorem execComparatorReplace_sound {cmp : Fin 32} {s0 : State} (hs0 : Sound I s0) : Completes I (execComparatorReplace cmp s0) := by
  unfold execComparatorReplace
  refine next_sound ?_
  dsimp only
  split
  · exact hs0
  · split
    · exact noSpareFor_sound (advanceTo_sound hs0)
    · exact record_sound (.updFault (advanceTo_sound hs0) rfl rfl rfl)

theorem execRestartHoldEnd_sound {s0 : State} (hs0 : Sound I s0) : Completes I (execRestartHoldEnd s0) := by
  unfold execRestartHoldEnd
  refine next_sound ?_
  split
  · exact hs0
  · exact .upd (advanceTo_sound hs0)

theorem execFaultNRelease_sound {mb : MbId} (hs : Sound I s) : Completes I (execFaultNRelease mb s) :=
  next_sound (ite_sound (reply_sound (.upd hs)) (reply_sound hs))

theorem execFaultStatus_sound {mb : MbId} (hs : Sound I s) : Completes I (execFaultStatus mb s) :=
  next_sound (reply_sound hs)

theorem addMark_sound {m : ErrorMark} (hs : Sound I s) : Sound I (addMark s m) := by
  unfold addMark
  split
  · exact .updFault hs rfl rfl rfl
  · exact .updFault (clearMark_sound hs) rfl rfl rfl

theorem placeWord_sound {l : Loc} {kind : Nat} (hs : Sound I s) : ∀ t, placeWord s l kind = some t → Sound I t := by
  unfold placeWord
  refine ite_yields (f := id) (some_yields (addMark_sound hs)) ?_
  split
  · exact ite_yields (some_yields (addMark_sound hs)) none_yields
  · exact none_yields

theorem placeParity_sound {l : Loc} (hs : Sound I s) : ∀ t, placeParity s l = some t → Sound I t := by
  unfold placeParity
  extract_lets w a old x
  exact ite_yields (f := id) (ite_yields (some_yields (addMark_sound hs)) none_yields)
    (ite_yields (ite_yields (some_yields (addMark_sound (hs.writeMem _ _))) none_yields) none_yields)

theorem plant_sound {kind l5 l4 : Nat} (hs : Sound I s) : ∀ t, plant s kind l5 l4 = some t → Sound I t :=
  some_yields (f := id) (.updFault hs rfl rfl rfl)

theorem placeFault_sound {kind index : Nat} {l : Loc} (hs : Sound I s) : ∀ t, placeFault s kind l index = some t → Sound I t := by
  unfold placeFault
  split
  · exact placeWord_sound hs
  · exact placeWord_sound hs
  · exact placeParity_sound hs
  · exact ite_yields (f := id) (plant_sound hs) none_yields
  · exact ite_yields (f := id) (some_yields (.updFault hs rfl rfl rfl)) none_yields
  · exact ite_yields (f := id) (plant_sound hs) none_yields
  · exact ite_yields (f := id) (plant_sound hs) none_yields
  · exact ite_yields (f := id) (plant_sound hs) none_yields
  · exact none_yields (f := id)

theorem execFaultInject_sound {mb : MbId} {kind : BitVec 8} {loc : BitVec 64} {index : BitVec 16} (hs : Sound I s) :
    Completes I (execFaultInject mb kind loc index s) := by
  unfold execFaultInject
  refine next_sound ?_
  split
  · next e =>
    split at e
    · nomatch e
    · exact reply_sound (placeFault_sound hs _ e)
  · exact reply_sound hs

end Sys2Proof.Proofs.StepInvariants
end

section
/-!
PROOFS. The laws that every step keeps: threads' events, every command and every step.
-/

namespace Sys2Proof.Proofs.StepInvariants
open Sys2Proof Sys2Proof.Machine

variable {I : Law} {s : State}

/-! ### Threads -/

theorem execLookup_sound {tid : Tid} (hs : Sound I s) : Completes I (execLookup tid s) :=
  next_sound (issue_sound hs)

theorem execLearn_sound {tid : Tid} (hs : Sound I s) : Completes I (execLearn tid s) :=
  next_sound (issue_sound hs)

theorem execBufAlloc_sound {tid : Tid} (hs : Sound I s) : Completes I (execBufAlloc tid s) :=
  next_sound (issue_sound hs)

theorem execBufHold_sound {tid : Tid} (hs : Sound I s) : Completes I (execBufHold tid s) :=
  next_sound (issue_sound hs)

theorem execBufRelease_sound {tid : Tid} (hs : Sound I s) : Completes I (execBufRelease tid s) :=
  next_sound (issue_sound hs)

theorem execEgressPost_sound {tid : Tid} (hs : Sound I s) : Completes I (execEgressPost tid s) :=
  next_sound (issue_sound hs)

theorem execNext_sound {tid : Tid} (hs : Sound I s) : Completes I (execNext tid s) :=
  next_sound (issue_sound hs)

theorem execPass_sound {tid : Tid} (hs : Sound I s) : Completes I (execPass tid s) :=
  next_sound (issue_sound hs)

theorem execWait_sound {tid : Tid} (hs : Sound I s) : Completes I (execWait tid s) :=
  next_sound (issue_sound hs)

theorem execSleep_sound {tid : Tid} (hs : Sound I s) : Completes I (execSleep tid s) :=
  next_sound (issue_sound hs)

theorem execChsend_sound {tid : Tid} (hs : Sound I s) : Completes I (execChsend tid s) :=
  next_sound (issue_sound hs)

theorem execChrecv_sound {tid : Tid} (hs : Sound I s) : Completes I (execChrecv tid s) :=
  next_sound (issue_sound hs)

theorem execSignal_sound {tid : Tid} (hs : Sound I s) : Completes I (execSignal tid s) :=
  next_sound (issue_sound hs)

theorem execSrld_sound {tid : Tid} (hs : Sound I s) : Completes I (execSrld tid s) :=
  next_sound (issue_sound hs)

theorem execSrst_sound {tid : Tid} (hs : Sound I s) : Completes I (execSrst tid s) :=
  next_sound (issue_sound hs)

theorem execSradd_sound {tid : Tid} (hs : Sound I s) : Completes I (execSradd tid s) :=
  next_sound (issue_sound hs)

theorem execSrswap_sound {tid : Tid} (hs : Sound I s) : Completes I (execSrswap tid s) :=
  next_sound (issue_sound hs)

theorem execTmrset_sound {tid : Tid} (hs : Sound I s) : Completes I (execTmrset tid s) :=
  next_sound (issue_sound hs)

theorem execTmrcan_sound {tid : Tid} (hs : Sound I s) : Completes I (execTmrcan tid s) :=
  next_sound (issue_sound hs)

theorem execTmrpop_sound {tid : Tid} (hs : Sound I s) : Completes I (execTmrpop tid s) :=
  next_sound (issue_sound hs)

theorem execTrap_sound {tid : Tid} (hs : Sound I s) : Completes I (execTrap tid s) :=
  next_sound (issue_sound hs)

theorem execRetx_sound {tid : Tid} (hs : Sound I s) : Completes I (execRetx tid s) :=
  next_sound (issue_sound hs)

theorem execPairedWord_sound {tid : Tid} (hs : Sound I s) : Completes I (execPairedWord tid s) :=
  next_sound (issue_sound hs)

theorem execNop_sound {tid : Tid} (hs : Sound I s) : Completes I (execNop tid s) :=
  next_sound (issue_sound hs)

theorem execAlu_sound {tid : Tid} (hs : Sound I s) : Completes I (execAlu tid s) :=
  next_sound (issue_sound hs)

theorem execInsh_sound {tid : Tid} (hs : Sound I s) : Completes I (execInsh tid s) :=
  next_sound (issue_sound hs)

theorem execLd_sound {tid : Tid} (hs : Sound I s) : Completes I (execLd tid s) :=
  next_sound (issue_sound hs)

theorem execSt_sound {tid : Tid} (hs : Sound I s) : Completes I (execSt tid s) :=
  next_sound (issue_sound hs)

theorem execTas_sound {tid : Tid} (hs : Sound I s) : Completes I (execTas tid s) :=
  next_sound (issue_sound hs)

theorem execLoop_sound {tid : Tid} (hs : Sound I s) : Completes I (execLoop tid s) :=
  next_sound (issue_sound hs)

theorem execSetlc_sound {tid : Tid} (hs : Sound I s) : Completes I (execSetlc tid s) :=
  next_sound (issue_sound hs)

theorem execBr_sound {tid : Tid} (hs : Sound I s) : Completes I (execBr tid s) :=
  next_sound (issue_sound hs)

theorem execBal_sound {tid : Tid} (hs : Sound I s) : Completes I (execBal tid s) :=
  next_sound (issue_sound hs)

theorem execJr_sound {tid : Tid} (hs : Sound I s) : Completes I (execJr tid s) :=
  next_sound (issue_sound hs)

theorem execMode_sound {tid : Tid} (hs : Sound I s) : Completes I (execMode tid s) :=
  next_sound (issue_sound hs)

theorem execFence_sound {tid : Tid} (hs : Sound I s) : Completes I (execFence tid s) :=
  next_sound (issue_sound hs)

theorem execMfs_sound {tid : Tid} (hs : Sound I s) : Completes I (execMfs tid s) :=
  next_sound (issue_sound hs)

theorem execMts_sound {tid : Tid} (hs : Sound I s) : Completes I (execMts tid s) :=
  next_sound (issue_sound hs)

theorem execFmov_sound {tid : Tid} (hs : Sound I s) : Completes I (execFmov tid s) :=
  next_sound (issue_sound hs)

theorem execMov_sound {tid : Tid} (hs : Sound I s) : Completes I (execMov tid s) :=
  next_sound (issue_sound hs)

theorem execMul_sound {tid : Tid} (hs : Sound I s) : Completes I (execMul tid s) :=
  next_sound (issue_sound hs)

theorem execBswap_sound {tid : Tid} (hs : Sound I s) : Completes I (execBswap tid s) :=
  next_sound (issue_sound hs)

theorem execCmp_sound {tid : Tid} (hs : Sound I s) : Completes I (execCmp tid s) :=
  next_sound (issue_sound hs)

theorem execTst_sound {tid : Tid} (hs : Sound I s) : Completes I (execTst tid s) :=
  next_sound (issue_sound hs)

theorem execLea_sound {tid : Tid} (hs : Sound I s) : Completes I (execLea tid s) :=
  next_sound (issue_sound hs)

theorem execLr_sound {tid : Tid} (hs : Sound I s) : Completes I (execLr tid s) :=
  next_sound (issue_sound hs)

theorem execSc_sound {tid : Tid} (hs : Sound I s) : Completes I (execSc tid s) :=
  next_sound (issue_sound hs)

theorem execSkw_sound {tid : Tid} (hs : Sound I s) : Completes I (execSkw tid s) :=
  next_sound (issue_sound hs)

theorem execBmove_sound {tid : Tid} (hs : Sound I s) : Completes I (execBmove tid s) :=
  next_sound (issue_sound hs)

theorem execBfill_sound {tid : Tid} (hs : Sound I s) : Completes I (execBfill tid s) :=
  next_sound (issue_sound hs)

theorem execBcmp_sound {tid : Tid} (hs : Sound I s) : Completes I (execBcmp tid s) :=
  next_sound (issue_sound hs)

theorem execBsum_sound {tid : Tid} (hs : Sound I s) : Completes I (execBsum tid s) :=
  next_sound (issue_sound hs)

theorem execBscan_sound {tid : Tid} (hs : Sound I s) : Completes I (execBscan tid s) :=
  next_sound (issue_sound hs)

theorem execCop_sound {tid : Tid} (hs : Sound I s) : Completes I (execCop tid s) :=
  next_sound (issue_sound hs)

theorem execCmov_sound {tid : Tid} (hs : Sound I s) : Completes I (execCmov tid s) :=
  next_sound (issue_sound hs)

theorem execCsave_sound {tid : Tid} (hs : Sound I s) : Completes I (execCsave tid s) :=
  next_sound (issue_sound hs)

theorem execCrestore_sound {tid : Tid} (hs : Sound I s) : Completes I (execCrestore tid s) :=
  next_sound (issue_sound hs)

theorem execAcquire_sound {tid : Tid} (hs : Sound I s) : Completes I (execAcquire tid s) :=
  next_sound (issue_sound hs)

theorem execTryLock_sound {tid : Tid} (hs : Sound I s) : Completes I (execTryLock tid s) :=
  next_sound (issue_sound hs)

theorem execRelease_sound {tid : Tid} (hs : Sound I s) : Completes I (execRelease tid s) :=
  next_sound (issue_sound hs)

theorem execForce_sound {tid : Tid} (hs : Sound I s) : Completes I (execForce tid s) :=
  next_sound (issue_sound hs)

theorem execLongOpComplete_sound {tid : Tid} {entry : Fin 17} {host : BitVec 64} (hs : Sound I s) :
     Completes I (execLongOpComplete tid entry host s) :=
  next_sound (longOpComplete_sound hs)

theorem execStorePerformed_sound {tid : Tid} {index : Fin 32} (hs : Sound I s) : Completes I (execStorePerformed tid index s) :=
  next_sound (storePerformed_sound hs)

theorem execEventDelivery_sound {tid : Tid} (hs : Sound I s) : Completes I (execEventDelivery tid s) :=
  next_sound (eventDelivery_sound hs)

theorem execThreadWake_sound {tid : Tid} (hs : Sound I s) : Completes I (execThreadWake tid s) :=
  next_sound (threadWake_sound hs)

theorem execTimerDue_sound {cluster : ClusterId} (hs : Sound I s) : Completes I (execTimerDue cluster s) :=
  next_sound (timerDue_sound hs)

theorem execReservationExpire_sound {tid : Tid} (hs : Sound I s) : Completes I (execReservationExpire tid s) :=
  next_sound (reservationExpire_sound hs)

theorem execBlockElementDone_sound {tid : Tid} (hs : Sound I s) : Completes I (execBlockElementDone tid s) :=
  next_sound (blockElementDone_sound hs)

theorem execSlotTableSwitch_sound (hs : Sound I s) : Completes I (execSlotTableSwitch s) :=
  next_sound (slotTableSwitch_sound hs)

theorem execIcacheFillDone_sound {tid : Tid} (hs : Sound I s) : Completes I (execIcacheFillDone tid s) :=
  next_sound (icacheFillDone_sound hs)

theorem execIcacheReload_sound {tid : Tid} (hs : Sound I s) : Completes I (execIcacheReload tid s) :=
  next_sound (icacheReload_sound hs)

theorem tableRow_sound {who : TblSource} {op : Nat} (hs : Sound I s) : Sound I (tableRow s who op) := by
  unfold tableRow
  split
  · exact mailboxTable_sound hs
  · exact issue_sound hs

theorem execSearch_sound {who : TblSource} (hs : Sound I s) : Completes I (execSearch who s) :=
  next_sound (tableRow_sound hs)

theorem execTableNext_sound {who : TblSource} (hs : Sound I s) : Completes I (execTableNext who s) :=
  next_sound (tableRow_sound hs)

theorem execInsert_sound {who : TblSource} (hs : Sound I s) : Completes I (execInsert who s) :=
  next_sound (tableRow_sound hs)

theorem execDelete_sound {who : TblSource} (hs : Sound I s) : Completes I (execDelete who s) :=
  next_sound (tableRow_sound hs)

theorem execFlushByPort_sound {who : TblSource} (hs : Sound I s) : Completes I (execFlushByPort who s) :=
  next_sound (tableRow_sound hs)

theorem execInvalidate_sound {who : TblSource} (hs : Sound I s) : Completes I (execInvalidate who s) :=
  next_sound (tableRow_sound hs)

theorem execAgeNow_sound {who : TblSource} (hs : Sound I s) : Completes I (execAgeNow who s) :=
  next_sound (tableRow_sound hs)

theorem execTableStatus_sound {who : TblSource} (hs : Sound I s) : Completes I (execTableStatus who s) := by
  unfold execTableStatus
  refine next_sound ?_
  split
  · exact whenReady_sound hs (fun _ hx => reply_sound hx)
  · exact issue_sound hs

/-! ### Dispatch -/

theorem exec_sound {i : Instr} (hs : Sound I s) : Completes I (exec i s) := by
  unfold exec
  split
  · exact execPlanStageBegin_sound hs
  · exact execPlanStageData_sound hs
  · exact execPlanStageEnd_sound hs
  · exact execPlanCheck_sound hs
  · exact execPlanCommit_sound hs
  · exact execPlanAbort_sound hs
  · exact execPlanStatus_sound hs
  · exact execCommitCheckDone_sound hs
  · exact execCommitEntropyReady_sound hs
  · exact execCommitPrepareDone_sound hs
  · exact execEpochInstant_sound hs
  · exact execEpochRetire_sound hs
  · exact execGroupDecisionPoint_sound hs
  · exact execPrepared_sound hs
  · exact execAbort_sound hs
  · exact execPreparedAck_sound hs
  · exact execRxFrame_sound hs
  · exact execMmFragmentRx_sound hs
  · exact execLinkUp_sound hs
  · exact execAnRestart_sound hs
  · exact execLinkLoss_sound hs
  · exact execVerifyTimeout_sound hs
  · exact execVerifyResponseRx_sound hs
  · exact execTxFrame_sound hs
  · exact execPortStatus_sound hs
  · exact execPortRestart_sound hs
  · exact execPortLoopback_sound hs
  · exact execPortCounters_sound hs
  · exact execMacsecSaInstall_sound hs
  · exact execMacsecTxSelect_sound hs
  · exact execMacsecSaErase_sound hs
  · exact execMacsecStatus_sound hs
  · exact execTimeGet_sound hs
  · exact execTimeSet_sound hs
  · exact execTimeOffset_sound hs
  · exact execTimeFreq_sound hs
  · exact execTimeStatus_sound hs
  · exact execTxTsRead_sound hs
  · exact execHawkServoCorrection_sound hs
  · exact execPpsOutEdge_sound hs
  · exact execPpsInEdge_sound hs
  · exact execRefCheck_sound hs
  · exact execTimeReady_sound hs
  · exact execHodAllocAnswer_sound hs
  · exact execTxComplete_sound hs
  · exact execParseComplete_sound hs
  · exact execFragContextExpire_sound hs
  · exact execParseNodeRepair_sound hs
  · exact execClassifyEnter_sound hs
  · exact execClassifyHandon_sound hs
  · exact execClassifyScrub_sound hs
  · exact execClassifyRewriteDone_sound hs
  · exact execStreamGateReopen_sound hs
  · exact execStreamFilterUnblock_sound hs
  · exact execMeterClearRed_sound hs
  · exact execOrderRelease_sound hs
  · exact execOrderAgeClose_sound hs
  · exact execEgressAdmit_sound hs
  · exact execGateEvent_sound hs
  · exact execGateListSwitch_sound hs
  · exact execTransmitOpportunity_sound hs
  · exact execCbRecoveryReset_sound hs
  · exact execCbLatentTest_sound hs
  · exact execDupEntryExpire_sound hs
  · exact execQueueAgeDrop_sound hs
  · exact execHeadCacheRefill_sound hs
  · exact execBundleReadDone_sound hs
  · exact execHeadCacheWriteout_sound hs
  · exact execChainSweepDone_sound hs
  · exact execUnlinkedSweep_sound hs
  · exact execConfigCleanup_sound hs
  · exact execLookup_sound hs
  · exact execCacheLineExpire_sound hs
  · exact execLearn_sound hs
  · exact execLearnApply_sound hs
  · exact execLearnRatePeriod_sound hs
  · exact execAgeClockTick_sound hs
  · exact execAgeingPassStart_sound hs
  · exact execRoutineChunk_sound hs
  · exact execTableEntryRepair_sound hs
  · exact execPinnedScrub_sound hs
  · exact execSearch_sound hs
  · exact execTableNext_sound hs
  · exact execInsert_sound hs
  · exact execDelete_sound hs
  · exact execFlushByPort_sound hs
  · exact execInvalidate_sound hs
  · exact execAgeNow_sound hs
  · exact execTableStatus_sound hs
  · exact execBufAlloc_sound hs
  · exact execBufHold_sound hs
  · exact execBufRelease_sound hs
  · exact execEgressPost_sound hs
  · exact execNext_sound hs
  · exact execPass_sound hs
  · exact execWait_sound hs
  · exact execSleep_sound hs
  · exact execChsend_sound hs
  · exact execChrecv_sound hs
  · exact execSignal_sound hs
  · exact execSrld_sound hs
  · exact execSrst_sound hs
  · exact execSradd_sound hs
  · exact execSrswap_sound hs
  · exact execTmrset_sound hs
  · exact execTmrcan_sound hs
  · exact execTmrpop_sound hs
  · exact execTrap_sound hs
  · exact execRetx_sound hs
  · exact execPairedWord_sound hs
  · exact execNop_sound hs
  · exact execAlu_sound hs
  · exact execInsh_sound hs
  · exact execLd_sound hs
  · exact execSt_sound hs
  · exact execTas_sound hs
  · exact execLoop_sound hs
  · exact execSetlc_sound hs
  · exact execBr_sound hs
  · exact execBal_sound hs
  · exact execJr_sound hs
  · exact execMode_sound hs
  · exact execFence_sound hs
  · exact execMfs_sound hs
  · exact execMts_sound hs
  · exact execFmov_sound hs
  · exact execMov_sound hs
  · exact execMul_sound hs
  · exact execBswap_sound hs
  · exact execCmp_sound hs
  · exact execTst_sound hs
  · exact execLea_sound hs
  · exact execLr_sound hs
  · exact execSc_sound hs
  · exact execSkw_sound hs
  · exact execBmove_sound hs
  · exact execBfill_sound hs
  · exact execBcmp_sound hs
  · exact execBsum_sound hs
  · exact execBscan_sound hs
  · exact execCop_sound hs
  · exact execCmov_sound hs
  · exact execCsave_sound hs
  · exact execCrestore_sound hs
  · exact execAcquire_sound hs
  · exact execTryLock_sound hs
  · exact execRelease_sound hs
  · exact execForce_sound hs
  · exact execLongOpComplete_sound hs
  · exact execStorePerformed_sound hs
  · exact execEventDelivery_sound hs
  · exact execThreadWake_sound hs
  · exact execDispatchEnqueue_sound hs
  · exact execUnspill_sound hs
  · exact execDispatchFill_sound hs
  · exact execTimerDue_sound hs
  · exact execReservationExpire_sound hs
  · exact execBlockElementDone_sound hs
  · exact execSlotTableSwitch_sound hs
  · exact execIcacheFillDone_sound hs
  · exact execIcacheReload_sound hs
  · exact execLockGrant_sound hs
  · exact execLockWaitTimeout_sound hs
  · exact execLockHoldLong_sound hs
  · exact execLockStatus_sound hs
  · exact execLockForceRelease_sound hs
  · exact execLockGroupStatus_sound hs
  · exact execSealerKeyInstall_sound hs
  · exact execSealerKeyErase_sound hs
  · exact execSealerKeyStatus_sound hs
  · exact execHbmActivate_sound hs
  · exact execTargetedRefresh_sound hs
  · exact execHbmRequestDone_sound hs
  · exact execEccWriteback_sound hs
  · exact execHbmRefresh_sound hs
  · exact execRefreshWindowEnd_sound hs
  · exact execHbmTempRead_sound hs
  · exact execPatrolScrub_sound hs
  · exact execHbmTrainStep_sound hs
  · exact execHbmTrackingStep_sound hs
  · exact execHbmStatus_sound hs
  · exact execHbmTrainReport_sound hs
  · exact execHbmRetrain_sound hs
  · exact execMemRead_sound hs
  · exact execMemWrite_sound hs
  · exact execMbDoorbell_sound hs
  · exact execResultRead_sound hs
  · exact execMailboxResult_sound hs
  · exact execHostLockdown_sound hs
  · exact execIntStatusClear_sound hs
  · exact execIntEnableWrite_sound hs
  · exact execRingEnable_sound hs
  · exact execRingDisable_sound hs
  · exact execTxRingHeadWrite_sound hs
  · exact execErrRingEnable_sound hs
  · exact execRegisterWrite_sound hs
  · exact execBar2Read_sound hs
  · exact execBar2Write_sound hs
  · exact execPcieHotReset_sound hs
  · exact execPcieLinkUp_sound hs
  · exact execConfigurationSpaceWrite_sound hs
  · exact execDmaReadTimeout_sound hs
  · exact execDeviceInfo_sound hs
  · exact execReadyWait_sound hs
  · exact execHawkRestart_sound hs
  · exact execHawkRestartEnd_sound hs
  · exact execThreadNotify_sound hs
  · exact execEcho_sound hs
  · exact execCounterRead_sound hs
  · exact execErrorRingRead_sound hs
  · exact execRingCopyWrite_sound hs
  · exact execTxDescriptor_sound hs
  · exact execTxDescriptorRetry_sound hs
  · exact execTxFrameAccept_sound hs
  · exact execErrorRecordDeliver_sound hs
  · exact execSlotOverrun_sound hs
  · exact execStepStall_sound hs
  · exact execUnitRestart_sound hs
  · exact execUnitRestartEnd_sound hs
  · exact execDeviceRestart_sound hs
  · exact execDeviceRestartDecision_sound hs
  · exact execProcessorResetRelease_sound hs
  · exact execHeartbeatTimeout_sound hs
  · exact execWatchdogExpire_sound hs
  · exact execPairDecision_sound hs
  · exact execPairWaitTimeout_sound hs
  · exact execComparatorSelfTest_sound hs
  · exact execComparatorReplace_sound hs
  · exact execRestartHoldEnd_sound hs
  · exact execFaultStatus_sound hs
  · exact execFaultNRelease_sound hs
  · exact execFaultInject_sound hs
  · exact execSpanFecLock_sound hs
  · exact execSpanStateTx_sound hs
  · exact execSpanState_sound hs
  · exact execSpanLinkDown_sound hs
  · exact execFlitRx_sound hs
  · exact execTimeSyncTx_sound hs
  · exact execTimeSync_sound hs
  · exact execReadReq_sound hs
  · exact execWriteReq_sound hs
  · exact execReadResp_sound hs
  · exact execLearnMessage_sound hs
  · exact execHawkMsg_sound hs
  · exact execPacket_sound hs
  · exact execSpanPacketSend_sound hs
  · exact execSpanStatus_sound hs
  · exact execSpanRejoin_sound hs
  · exact execSpanCounters_sound hs
  · exact execNeighborSolicitation_sound hs
  · exact execIcmpv6EchoRequest_sound hs
  · exact execSvcFrameDrop_sound hs
  · exact execHello_sound hs
  · exact execManifestPart_sound hs
  · exact execManifestEnd_sound hs
  · exact execBlock_sound hs
  · exact execChunkQuery_sound hs
  · exact execFinish_sound hs
  · exact execActivate_sound hs
  · exact execSessionAbort_sound hs
  · exact execSessionTimeout_sound hs
  · exact execSvcEnChange_sound hs
  · exact execSvcEnableLapse_sound hs
  · exact execChunkComplete_sound hs
  · exact execChunkWritten_sound hs
  · exact execLoaderVerify_sound hs
  · exact execHealthConfirm_sound hs
  · exact execHealthTimeout_sound hs
  · exact execRestoreDone_sound hs
  · exact execMramBlockRetire_sound hs
  · exact execTrngStartupDone_sound hs
  · exact execTrngHealthFail_sound hs
  · exact execDrbgReseed_sound hs
  · exact execUartCharacterRx_sound hs
  · exact execSvcEnable_sound hs
  · exact execSvcStatus_sound hs
  · exact execFwStatus_sound hs
  · exact execFwActivate_sound hs
  · exact execFwRollback_sound hs
  · exact execKeySlotWrite_sound hs
  · exact execKeySlotRevoke_sound hs
  · exact execKeyStatus_sound hs
  · exact execKekInstall_sound hs
  · exact execFusePlanSigned_sound hs
  · exact execTrngRead_sound hs
  · exact execVinValid_sound hs
  · exact execVinUvlo_sound hs
  · exact execVinAverage_sound hs
  · exact execRailGroupUp_sound hs
  · exact execRailFault_sound hs
  · exact execPlumbReading_sound hs
  · exact execTempMeasure_sound hs
  · exact execSmbusReadWord_sound hs
  · exact execSmbusAlertResponse_sound hs
  · exact execSmbusNack_sound hs
  · exact execPfailAssert_sound hs
  · exact execPfailRelease_sound hs
  · exact execResetAssert_sound hs
  · exact execResetRelease_sound hs
  · exact execServiceDieStart_sound hs
  · exact execOnDieMemoryInit_sound hs
  · exact execPcieEndpointUp_sound hs
  · exact execHawkStart_sound hs
  · exact execLogbookMount_sound hs
  · exact execLogbookDeltaWrite_sound hs
  · exact execLogbookGenerationWrite_sound hs
  · exact execHistogramSample_sound hs
  · exact execLogbookStatus_sound hs
  · exact execLogbookRead_sound hs
  · exact execHistogramRead_sound hs
  · exact execTestEnRise_sound hs
  · exact execTestEnFall_sound hs
  · exact execGpioWrite_sound hs
  · exact execGpioInputChange_sound hs
  · exact execTapReset_sound hs
  · exact execExtest_sound hs
  · exact execSamplePreload_sound hs
  · exact execIdcode_sound hs
  · exact execHighz_sound hs
  · exact execClamp_sound hs
  · exact execExtestPulse_sound hs
  · exact execExtestTrain_sound hs
  · exact execBypass_sound hs

/-! ### Step -/

theorem idleTick_sound (hs : Sound I s) : Sound I (idleTick s) :=
  advanceTo_sound hs

theorem step_sound (hs : Sound I s) : Completes I (step s) := by
  unfold step
  split
  · exact next_sound (idleTick_sound hs)
  · exact exec_sound (.upd hs)

end Sys2Proof.Proofs.StepInvariants
end

section
/-!
PROOFS. What every step keeps (R492, R613, Table 20-10), what reset leaves, and how a record arrives on the ring.
-/

namespace Sys2Proof.Proofs.StepInvariants
open Sys2Proof Sys2Proof.Machine

/-- A law that a state satisfies is satisfied by the next state of a step. -/
theorem step_keeps {I : Law} {s t : State} (hs : Sound I s) (h : step s = .next t) : Sound I t := by
  obtain ⟨u, hu, hsound⟩ := step_sound hs
  rw [h] at hu
  cases hu
  exact hsound

/-- Settles O1: `step` reads the queue, and the rest of the queue stands in the state that `exec` is given. -/
theorem stepRunsFront : Obligations.StepRunsFront := fun _ _ _ => rfl

/-- Settles O3: every command completes under the law that asks nothing. -/
theorem everyCommandCompletes : Obligations.EveryCommandCompletes := fun c s =>
  let ⟨t, ht, _⟩ := exec_sound (I := .completion) (s := s) (i := c) ⟨trivial⟩
  ⟨t, ht⟩

/-- Settles O4: reset is a closed state, and each part of it is read off. -/
theorem resetValues : Obligations.ResetValues :=
  ⟨rfl, rfl, rfl, rfl, rfl, rfl, rfl, rfl, rfl, rfl, rfl, rfl, fun _ => ⟨rfl, rfl, rfl⟩, rfl, rfl⟩

/-- Settles O5: at reset the ring and the memories are empty and the package's registers are 0. -/
theorem resetInvariants : Obligations.ResetInvariants := ⟨ringOk_of_empty rfl rfl, pkgOk_reset, reset_mem_wf⟩

/-- Settles O6: the law of the ring. -/
theorem ringInvariant : Obligations.RingInvariant := fun _ _ hs h => (step_keeps (I := .ring) ⟨hs⟩ h).asks

/-- Settles O7: the law of the package's registers. -/
theorem packageInvariant : Obligations.PackageInvariant := fun _ _ hs h => (step_keeps (I := .package) ⟨hs⟩ h).asks

/-- Settles O8: the law of the memories. -/
theorem memoryInvariant : Obligations.MemoryInvariant := fun _ _ hs h => (step_keeps (I := .memory) ⟨hs⟩ h).asks

/-- Settles O9: the four equations of `ringStore`, and the bound that it keeps. -/
theorem ringCases : Obligations.RingCases := by
  refine fun f r hok => ⟨fun m hm hlow => ?closing, fun m hm hhigh => ?lost, fun hm hlow => ?stored, fun hm hfull => ?opening, ringStore_ok hok r⟩
  case closing => simp [ringStore_closing hm hlow]
  case lost => simp [ringStore_lost hm hhigh]
  case stored => simp [ringStore_stored hm hlow, hm]
  case opening =>
    have hlen : f.ring.length = 63 := by rw [← ringHeld_closed hm, hfull]
    simp [ringStore_opening hm hfull.ge, ringHeld, hlen]

end Sys2Proof.Proofs.StepInvariants
end

section
/-!
PROOFS. The lock unit (R395 to R404, Table 13-8), and Sealer's key commands (Table 13-7), on a state without planted memory
errors.
-/

namespace Sys2Proof.Proofs.LockUnit
open Sys2Proof Sys2Proof.Machine Sys2Proof.Proofs.DeviceTime

section State
variable {s : State} {n k : Nat}

/-- A lock reads as it was set. -/
@[simp] theorem getLock_setLock (s : State) (n : Nat) (v : LockSt) : getLock (setLock s n v) n = some v := tblFind_tblSet_same _ _ _

/-- The lock unit reads a lock whose word holds no planted error. -/
theorem lockTouch_unmarked (hmarks : s.fault.marks = []) (n : Nat) : lockTouch s n = s := by
  simp only [lockTouch, lockMarks, hmarks, List.filter_nil]

/-- A grant holds the lock for its thread with the waiters given. -/
theorem getLock_grantTo (s : State) (n tid tick : Nat) (ws : List LockWait) :
    ∃ l, getLock (grantTo s n tid tick ws) n = some l ∧ l.holder = tid ∧ l.waiters = ws :=
  ⟨_, getLock_setLock _ _ _, rfl, rfl⟩

/-- A lock with a waiter passes to its first one. -/
theorem passLock_waiting {l : LockSt} {w : LockWait} {r : List LockWait} (hheld : getLock s n = some l) (hwait : l.waiters = w :: r)
    (status tick : Nat) : ∃ m, getLock (passLock s n status tick) n = some m ∧ m.holder = w.tid ∧ m.waiters = r := by
  simp only [passLock, hheld, hwait]
  exact getLock_grantTo s n w.tid tick r

/-- A lock without a waiter becomes FREE. -/
theorem passLock_alone {l : LockSt} (hheld : getLock s n = some l) (hwait : l.waiters = []) (status tick : Nat) :
    passLock s n status tick = freeLock s n := by
  simp only [passLock, hheld, hwait]

end State

/-! ### Operations (Table 13-8) -/

section Operations
variable {s : State} {o : LockOp} {l : LockSt}

/-- What ACQUIRE and TRY are refused, whichever lock it is. -/
theorem applyLock_notPermitted (hmarks : s.fault.marks = []) (hsub : o.sub ≤ 1) (hright : lockPermitted s o.tid o.lock = false) :
    applyLock s o = (some eRights, false, lockCnt s 0x58) := by
  obtain hsub | hsub := Nat.le_one_iff_eq_zero_or_eq_one.mp hsub <;>
    simp [applyLock, lockTouch_unmarked hmarks, hsub, hright]

/-- ACQUIRE and TRY take a FREE lock. -/
theorem applyLock_free (hmarks : s.fault.marks = []) (hsub : o.sub ≤ 1) (hright : lockPermitted s o.tid o.lock = true)
    (hwaits : waitsOf s o.tid < 4) (hfree : getLock s o.lock = none) :
    applyLock s o = (some stOk, true, grantTo (lockCnt (lockCnt s 0x00) 0x08) o.lock o.tid o.tick []) := by
  obtain hsub | hsub := Nat.le_one_iff_eq_zero_or_eq_one.mp hsub
  · simp [applyLock, lockTouch_unmarked hmarks, hsub, hright, hfree, Nat.not_le.mpr hwaits]
  · simp [applyLock, lockTouch_unmarked hmarks, hsub, hright, hfree]

/-- ACQUIRE waits last in the queue of a lock that another thread holds. -/
theorem applyLock_acquire_held (hmarks : s.fault.marks = []) (hsub : o.sub = 0) (hright : lockPermitted s o.tid o.lock = true)
    (hwaits : waitsOf s o.tid < 4) (hheld : getLock s o.lock = some l) (hother : l.holder ≠ o.tid) : ∃ u w,
    applyLock s o = (none, false, u) ∧ getLock u o.lock = some { l with waiters := l.waiters ++ [w] } ∧ w.tid = o.tid ∧ w.entry = o.entry := by
  simp only [applyLock, lockTouch_unmarked hmarks, hsub, hright, hheld, beq_iff_eq, hother, Nat.not_le.mpr hwaits, Bool.true_eq_false, if_false]
  exact ⟨_, _, rfl, getLock_setLock _ _ _, rfl, rfl⟩

/-- TRY of a lock that another thread holds is E_BUSY. -/
theorem applyLock_try_held (hmarks : s.fault.marks = []) (hsub : o.sub = 1) (hright : lockPermitted s o.tid o.lock = true)
    (hheld : getLock s o.lock = some l) (hother : l.holder ≠ o.tid) :
    applyLock s o = (some eBusy, false, lockCnt (lockCnt s 0x00) 0x18) := by
  simp [applyLock, lockTouch_unmarked hmarks, hsub, hright, hheld, hother]

/-- RELEASE of a lock that another thread holds is E_RIGHTS and is recorded. -/
theorem applyLock_release_other (hmarks : s.fault.marks = []) (hsub : o.sub = 2) (hheld : getLock s o.lock = some l) (hother : l.holder ≠ o.tid) :
    applyLock s o = (some eRights, false, record (lockCnt s 0x28) 0 0x0B 0x0001 (groupLoc o.lock) (toLE 2 o.lock ++ toLE 2 o.tid)) := by
  simp [applyLock, lockTouch_unmarked hmarks, hsub, hheld, hother]

/-- RELEASE by the holder passes the lock on. -/
theorem applyLock_release_holder (hmarks : s.fault.marks = []) (hsub : o.sub = 2) (hheld : getLock s o.lock = some l) (hmine : l.holder = o.tid) :
    applyLock s o = (some stOk, false, passLock (lockCnt s 0x20) o.lock stOk o.tick) := by
  simp [applyLock, lockTouch_unmarked hmarks, hsub, hheld, hmine]

end Operations

/-- Settles O31: each clause is the outcome of its row of Table 13-8. -/
theorem lockOperations : Obligations.LockOperations := by
  refine fun s o hmarks => ⟨fun hsub hright hwaits hfree => ?free, fun l => applyLock_acquire_held hmarks, fun l hsub => applyLock_try_held hmarks hsub,
    fun l hsub hheld hother => ?other, fun l w r hsub hheld hmine hwait => ?pass, fun l hsub hheld hmine hwait => ?alone,
    fun hright hsub => applyLock_notPermitted hmarks hsub hright⟩
  case free => exact ⟨_, applyLock_free hmarks hsub hright hwaits hfree, getLock_grantTo _ _ _ _ _⟩
  case other => exact ⟨_, applyLock_release_other hmarks hsub hheld hother, by rw [record_frame]; rfl⟩
  case pass => exact ⟨_, (passLock_waiting (s := lockCnt s 0x20) hheld hwait stOk o.tick).imp fun m hm => ⟨applyLock_release_holder hmarks hsub hheld hmine, hm⟩⟩
  case alone => exact ⟨_, applyLock_release_holder hmarks hsub hheld hmine, by rw [passLock_alone (s := lockCnt s 0x20) hheld hwait]; rfl⟩

/-! ### Events and commands (R398 to R404) -/

section Events
variable {s : State} {t : Nat}

/-- No operation waits to be applied. -/
theorem settleLocks_idle (hops : s.core.lockOps = []) (upto : Nat) : settleLocks s upto = s := by
  simp only [settleLocks, hops, List.filter_nil]

/-- LOCK_GRANT: the oldest grant reaches its thread. -/
theorem exec_lockGrant {g : LockGrant} {r : List LockGrant} (hops : s.core.lockOps = []) (hgrants : s.core.grants = g :: r) :
    exec .lockGrant s = .next (lockAnswer (lockCnt { s with core := { s.core with grants := r } } 0x10) g.tid g.entry g.status (some 4) none) := by
  show execLockGrant s = _
  simp only [execLockGrant, settleLocks_idle hops, hgrants]

/-- LOCK_WAIT_TIMEOUT: the first overdue waiter leaves with E_TIMEOUT. -/
theorem exec_lockWaitTimeout {n : Fin 4096} {l : LockSt} {w : LockWait} (hops : s.core.lockOps = []) (hheld : getLock s n.val = some l)
    (hdue : firstOverdue l = some w) : exec (.lockWaitTimeout n) s = .next (lockAnswer (lockCnt (setLock (advanceTo s (w.since + usTicks w.maxWaitUs)) n.val
      { l with waiters := l.waiters.erase w }) 0x40) w.tid w.entry eTimeout none none) := by
  show execLockWaitTimeout n s = _
  simp only [execLockWaitTimeout, settleLocks_idle hops, hheld, hdue]

/-- LOCK_HOLD_LONG: a hold past its limit is recorded. -/
theorem exec_lockHoldLong {n : Fin 4096} {l : LockSt} (hops : s.core.lockOps = []) (hheld : getLock s n.val = some l) (hlimit : l.maxHoldUs ≠ 0)
    (hfirst : l.reported = false) : exec (.lockHoldLong n) s = .next (record (lockCnt (setLock (advanceTo s (l.grantTick + usTicks l.maxHoldUs + 1)) n.val
      { l with reported := true }) 0x48) 0 0x0B 0x0002 (unitLoc 26 (n.val / 64)) (toLE 2 n.val ++ toLE 2 l.holder)) := by
  show execLockHoldLong n s = _
  simp only [execLockHoldLong, settleLocks_idle hops, hheld, hlimit, hfirst, Bool.false_eq_true, or_self, if_false]
  rfl

variable {mb : MbId} {n : BitVec 16}

theorem exec_lockStatus_free (hops : s.core.lockOps = []) (hmarks : s.fault.marks = []) (hready : isReady s 24 = true) (hlock : n.toNat ≤ 4095)
    (hfree : getLock s n.toNat = none) :
    exec (.lockStatus mb n) s = .next (reply s mb.val stOk ([0, 0] ++ toLE 2 0xFFFF ++ zeros 12 ++ (List.replicate 8 [0xFF, 0xFF]).flatten)) := by
  show execLockStatus mb n s = _
  simp only [execLockStatus, settleLocks_idle hops, whenReady_ready hready, if_neg (Nat.not_lt.mpr hlock), lockTouch_unmarked hmarks, hfree]

/-- The thread identifiers of the first 8 waiters, and 0xFFFF in the places that are left. -/
def waiterIds (l : LockSt) : Bytes :=
  ((l.waiters.take 8).map (fun w => toLE 2 w.tid)).flatten ++
    (List.replicate (8 - ((l.waiters.take 8).map (fun w => toLE 2 w.tid)).length) [0xFF, 0xFF]).flatten

theorem waiterIds_length (l : LockSt) : (waiterIds l).length = 16 := by
  have hids : (l.waiters.take 8).length ≤ 8 := List.length_take_le _ _
  simp [waiterIds, List.length_flatten, Function.comp_def]
  omega

theorem exec_lockStatus_held {l : LockSt} (hops : s.core.lockOps = []) (hmarks : s.fault.marks = []) (hready : isReady s 24 = true) (hlock : n.toNat ≤ 4095)
    (hheld : getLock s n.toNat = some l) : exec (.lockStatus mb n) s =
      .next (reply s mb.val stOk ([1, 0] ++ toLE 2 l.holder ++ time10 l.grantNs ++ toLE 2 l.waiters.length ++ waiterIds l)) := by
  show execLockStatus mb n s = _
  simp only [execLockStatus, settleLocks_idle hops, whenReady_ready hready, if_neg (Nat.not_lt.mpr hlock), lockTouch_unmarked hmarks, hheld,
    waiterIds, List.append_assoc]

/-- LOCK_STATUS answers 32 bytes, of which the first says whether the lock is held (Table 13-10). -/
theorem exec_lockStatus (hops : s.core.lockOps = []) (hmarks : s.fault.marks = []) (hready : isReady s 24 = true) (hlock : n.toNat ≤ 4095) :
    ∃ d, exec (.lockStatus mb n) s = .next (reply s mb.val stOk d) ∧ d.length = 32 ∧ (d.head? = some 1 ↔ (getLock s n.toNat).isSome = true) := by
  cases hlk : getLock s n.toNat with
  | none => exact ⟨_, exec_lockStatus_free hops hmarks hready hlock hlk, by decide, by decide⟩
  | some l => exact ⟨_, exec_lockStatus_held hops hmarks hready hlock hlk, by simp [waiterIds_length, time10], by simp⟩

/-- LOCK_FORCE_RELEASE passes a held lock on. -/
theorem exec_lockForceRelease_held {l : LockSt} (hops : s.core.lockOps = []) (hmarks : s.fault.marks = []) (hready : isReady s 24 = true)
    (hlock : n.toNat ≤ 4095) (hheld : getLock s n.toNat = some l) :
    exec (.lockForceRelease mb n) s = .next (reply (passLock (lockCnt s 0x30) n.toNat sAbandoned s.now) mb.val stOk) := by
  show execLockForceRelease mb n s = _
  simp only [execLockForceRelease, settleLocks_idle hops, whenReady_ready hready, if_neg (Nat.not_lt.mpr hlock), lockTouch_unmarked hmarks, hheld]

/-- LOCK_FORCE_RELEASE of a FREE lock is E_NOT_FOUND. -/
theorem exec_lockForceRelease_free (hops : s.core.lockOps = []) (hmarks : s.fault.marks = []) (hready : isReady s 24 = true)
    (hlock : n.toNat ≤ 4095) (hfree : getLock s n.toNat = none) : exec (.lockForceRelease mb n) s = .next (reply s mb.val eNotFound) := by
  show execLockForceRelease mb n s = _
  simp only [execLockForceRelease, settleLocks_idle hops, whenReady_ready hready, if_neg (Nat.not_lt.mpr hlock), lockTouch_unmarked hmarks, hfree]

/-- LOCK_GROUP_STATUS answers 13 bytes. -/
theorem exec_lockGroupStatus {g : BitVec 8} (hops : s.core.lockOps = []) (hready : isReady s 24 = true) (hgroup : g.toNat ≤ 63) :
    ∃ d, exec (.lockGroupStatus mb g) s = .next (reply s mb.val stOk d) ∧ d.length = 13 := by
  show ∃ d, execLockGroupStatus mb g s = _ ∧ _
  simp only [execLockGroupStatus, settleLocks_idle hops, whenReady_ready hready, if_neg (Nat.not_lt.mpr hgroup)]
  exact ⟨_, rfl, by simp⟩

end Events

/-! ### Sealer's keys (Table 13-7) -/

section Keys
variable {s : State} {mb : MbId} {i : BitVec 16}

/-- SEALER_KEY_INSTALL holds the key that the key encryption key of kind 1 unwraps. -/
theorem exec_sealerKeyInstall {d u : BitVec 8} {w kek : Bytes} (hready : isReady s 23 = true) (hindex : i.toNat ≤ 4095) (hdomain : d.toNat ≤ 15)
    (huse : u.toNat ≤ 7) (hlen : w.length = 40) (hkek : tblFind s.svc.keks 1 = some kek) :
    exec (.sealerKeyInstall mb i d u w) s = .next (match keyUnwrap kek w with
      | some key => reply { s with core := { s.core with keys := tblSet s.core.keys i.toNat { domain := d.toNat, use := u.toNat, key := key } } } mb.val stOk
      | none => reply s mb.val eSignature) := by
  have hargs : ¬(4095 < i.toNat ∨ 15 < d.toNat ∨ 7 < u.toNat ∨ w.length ≠ 40) := by omega
  show execSealerKeyInstall mb i d u w s = _
  simp only [execSealerKeyInstall, whenReady_ready hready, if_neg hargs, hkek]
  cases keyUnwrap kek w <;> rfl

/-- SEALER_KEY_ERASE removes an installed key. -/
theorem exec_sealerKeyErase_installed {k : KeyEnt} (hready : isReady s 23 = true) (hindex : i.toNat ≤ 4095) (hkey : getKey s i.toNat = some k) :
    exec (.sealerKeyErase mb i) s = .next (reply { s with core := { s.core with keys := tblDel s.core.keys i.toNat } } mb.val stOk) := by
  show execSealerKeyErase mb i s = _
  simp [execSealerKeyErase, whenReady_ready hready, Nat.not_lt.mpr hindex, hkey]

theorem exec_sealerKeyErase_absent (hready : isReady s 23 = true) (hindex : i.toNat ≤ 4095) (hkey : getKey s i.toNat = none) :
    exec (.sealerKeyErase mb i) s = .next (reply s mb.val eNotFound) := by
  show execSealerKeyErase mb i s = _
  simp [execSealerKeyErase, whenReady_ready hready, Nat.not_lt.mpr hindex, hkey]

/-- SEALER_KEY_STATUS answers the domain and the use of an installed key. -/
theorem exec_sealerKeyStatus_installed {k : KeyEnt} (hready : isReady s 23 = true) (hindex : i.toNat ≤ 4095) (hkey : getKey s i.toNat = some k) :
    exec (.sealerKeyStatus mb i) s = .next (reply s mb.val stOk (toLE 1 1 ++ toLE 1 k.domain ++ toLE 1 k.use)) := by
  show execSealerKeyStatus mb i s = _
  simp only [execSealerKeyStatus, whenReady_ready hready, if_neg (Nat.not_lt.mpr hindex), hkey]

theorem exec_sealerKeyStatus_absent (hready : isReady s 23 = true) (hindex : i.toNat ≤ 4095) (hkey : getKey s i.toNat = none) :
    exec (.sealerKeyStatus mb i) s = .next (reply s mb.val stOk [0, 0, 0]) := by
  show execSealerKeyStatus mb i s = _
  simp only [execSealerKeyStatus, whenReady_ready hready, if_neg (Nat.not_lt.mpr hindex), hkey]

end Keys

/-- Settles O32: each clause is the lemma of its event or command. -/
theorem locksAndKeys : Obligations.LocksAndKeys := by
  refine fun s hmarks => ⟨fun hops => ⟨fun g r => exec_lockGrant hops, fun n l w hheld hdue => ⟨_, rfl, exec_lockWaitTimeout hops hheld hdue⟩,
      fun n l hheld hlimit hfirst => ⟨_, rfl, exec_lockHoldLong hops hheld hlimit hfirst⟩,
      fun mb n hready hlock => ⟨exec_lockStatus hops hmarks hready hlock, fun l => exec_lockForceRelease_held hops hmarks hready hlock,
        exec_lockForceRelease_free hops hmarks hready hlock⟩,
      fun mb g => exec_lockGroupStatus hops⟩,
    fun mb i d u w kek => exec_sealerKeyInstall,
    fun mb i hready hindex => ⟨fun k hkey => ⟨exec_sealerKeyErase_installed hready hindex hkey, exec_sealerKeyStatus_installed hready hindex hkey⟩,
      fun hkey => ⟨exec_sealerKeyErase_absent hready hindex hkey, exec_sealerKeyStatus_absent hready hindex hkey⟩⟩,
    fun mb i hready => ⟨congrArg Host.Outcome.next (whenReady_notReady hready), congrArg Host.Outcome.next (whenReady_notReady hready)⟩⟩

end Sys2Proof.Proofs.LockUnit
end

section
/-!
PROOFS. Coprocessor words (R379 to R384): who owns a unit, and what COP, CMOV, CSAVE and CRESTORE do on a unit without memory
errors.
-/

namespace Sys2Proof.Proofs.CoprocessorUnits
open Sys2Proof Sys2Proof.Machine Sys2Proof.Proofs.SkimIssue

section Ownership
variable {s w : State} {tid k o : Nat}

/-- A changed unit reads as its change. -/
@[simp] theorem getCop_modCop (s : State) (u k : Nat) (f : Copro → Copro) : getCop (modCop s u k f) u k = f (getCop s u k) :=
  tblGet_tblMod_same _ _ _ _

/-- A thread whose word passes owns the unit. -/
theorem copClaim_owner (hclaim : copClaim s tid k = .ok w) : (getCop w (tidUnit tid) k).owner = some tid := by
  unfold copClaim at hclaim
  dsimp only at hclaim
  split at hclaim
  · cases hclaim
    rw [getCop_modCop]
  · next o howner =>
    by_cases hsame : o = tid
    · rw [if_pos hsame] at hclaim
      cases hclaim
      rw [howner, hsame]
    · rw [if_neg hsame] at hclaim
      cases hclaim

/-- The word of a thread that does not own the unit is refused with the owner. -/
theorem copClaim_other (howner : (getCop s (tidUnit tid) k).owner = some o) (hother : o ≠ tid) :
    copClaim s tid k = .error { cause := 2, eaddr := o + 2 ^ 63 } := by
  simp only [copClaim, howner, if_neg hother]

end Ownership

section Words
variable {c : Ctx} {v s w : State} {k n : Nat} {r : Nat}

/-- COP of a Scrim function that takes no range starts it. -/
theorem semCop_started {func : Nat} (hclaim : copClaim s c.tid 0 = .ok w) (hmarks : copMarks w (tidUnit c.tid) 0 = [])
    (hrange : copArgs 0 func ≠ some 0xFFFF) : semCop c 0 func n v s = ((allocEntry w c.tid [.unit 0] (.cop 0 func (changedRegs (getCop v (tidUnit c.tid) 0).regs
      (scrimRun func n (getCop v (tidUnit c.tid) 0).regs (memBytes (getTh v c.tid).mem n 0))) none none) (some (c.p + scrimSlots func 0)) true).2, .seq) := by
  simp only [semCop, hrange, if_false, hclaim, if_true, hmarks]

/-- CMOV from a unit: its register reaches the thread's. -/
theorem semCmov_read (hclaim : copClaim s c.tid k = .ok w) (hmarks : copMarks w (tidUnit c.tid) k = []) :
    semCmov c k true r n v s = (pendTh w c.tid (c.p + 5) (.reg (regA r) (creg (getCop v (tidUnit c.tid) k).regs n)), .seq) := by
  simp only [semCmov, hclaim, hmarks, List.filter_nil, if_true]
  rfl

/-- CMOV to a unit: the thread's register reaches the unit's, which holds no error afterwards. -/
theorem semCmov_write (hclaim : copClaim s c.tid k = .ok w) : semCmov c k false r n v s =
    (pendTh (clearMark w (copLoc (tidUnit c.tid) k) n) c.tid (c.p + 5) (.copro k n (getReg (getTh v c.tid) (regA r))), .seq) := by
  simp only [semCmov, hclaim, Bool.false_eq_true, if_false]
  rfl

/-- CMOV on a unit of another thread counts and raises RIGHTS. -/
theorem semCmov_other {dir : Bool} {e : Exc} (hclaim : copClaim s c.tid k = .error e) : semCmov c k dir r n v s = (copCnt s c.tid 0x10, .exc e) := by
  simp only [semCmov, hclaim, ownerReject]

/-- CRESTORE takes the context in. -/
theorem semCrestore_started (hclaim : copClaim s c.tid k = .ok w) (harea : areaBad n (contextLen k) = none) : semCrestore c k n v s =
    ((allocEntry w c.tid [.unit k] (.crestore k ((List.range (contextLen k / 8)).foldl (fun (t : Table W64) i =>
      tblSet t i (BitVec.ofNat 64 (leAt (memBytes (getTh v c.tid).mem (8 * n) (contextLen k)) (8 * i) 8))) [])) (some (c.p + 4)) true).2, .seq) := by
  simp only [semCrestore, hclaim, harea]
  rfl

/-- CSAVE by the owner writes the context and frees the unit. -/
theorem semCsave_owned (howner : (getCop s (tidUnit c.tid) k).owner = some c.tid) (hmarks : copMarks s (tidUnit c.tid) k = [])
    (harea : areaBad n (contextLen k) = none) : semCsave c k n v s =
      (pendTh (copCnt (modCop s (tidUnit c.tid) k (fun _ => {})) c.tid 0x38) c.tid (c.p + 7)
        (.bytes (8 * n) ((List.range (contextLen k / 8)).flatMap (fun j => toLE 8 (creg (getCop v (tidUnit c.tid) k).regs j).toNat))), .seq) := by
  simp only [semCsave, howner, ne_eq, not_true, if_false, harea, hmarks]
  rfl

end Words

/-- Settles O41: each clause is what its word does on a unit that the thread may use. -/
theorem coprocessorWords : Obligations.CoprocessorWords := by
  intro tid s v u w c k n hmarks
  dsimp only
  refine ⟨fun hclaim => ⟨?cop, ?read, ?write, ?restore⟩, ?save, ?other, fun hclaim => copClaim_owner hclaim⟩
  case cop =>
    rintro func rfl hrange hdue
    have htid := due_tid hdue
    rw [← htid] at hclaim hmarks
    exact ⟨_, rfl, (next_due hdue (semCop_started hclaim hmarks hrange)).trans (by rw [htid])⟩
  case read =>
    intro r hdue
    have htid := due_tid hdue
    rw [← htid] at hclaim hmarks
    exact (next_due hdue (semCmov_read hclaim hmarks)).trans (by rw [htid])
  case write =>
    intro r hdue
    have htid := due_tid hdue
    rw [← htid] at hclaim
    exact (next_due hdue (semCmov_write hclaim)).trans (by rw [htid])
  case restore =>
    intro hdue harea
    rw [← due_tid hdue] at hclaim
    exact next_due hdue (semCrestore_started hclaim harea)
  case save =>
    intro howner hsound harea hdue
    have htid := due_tid hdue
    rw [← htid] at howner
    exact (next_due hdue (semCsave_owned howner (by rwa [htid]) harea)).trans (by rw [htid])
  case other =>
    intro o r howner hother hdue
    rw [← due_tid hdue] at howner hother
    exact next_due hdue (semCmov_other (copClaim_other howner hother))

end Sys2Proof.Proofs.CoprocessorUnits
end

section
/-!
PROOFS. The memory controller's accesses, write-backs, scrub and refreshes (R406 to R424).
-/

namespace Sys2Proof.Proofs.MemoryController
open Sys2Proof Sys2Proof.Machine

/-- A choice among a list is one of the list. -/
theorem foldl_choice_mem {α : Type} (p : α → α → Bool) (x : α) (l : List α) : l.foldl (fun a c => if p c a then c else a) x ∈ x :: l := by
  induction l generalizing x with
  | nil => exact List.mem_singleton.mpr rfl
  | cons y l ih =>
    rw [List.foldl_cons]
    have hmem := ih (if p y x then y else x)
    by_cases hp : p y x = true
    · rw [if_pos hp] at hmem ⊢
      exact List.mem_cons_of_mem _ hmem
    · rw [if_neg hp] at hmem ⊢
      obtain h | h := List.mem_cons.mp hmem
      · exact List.mem_cons.mpr (.inl h)
      · exact List.mem_cons_of_mem _ (List.mem_cons_of_mem _ h)

section Requests
variable {s : State} {g : Fin 128} {b : Fin 32} {r : HbmReq}

/-- The request that is activated next waits for the bank and is not active. -/
theorem nextActivate_waits {g b : Nat} (hnext : nextActivate s g b = some r) :
    r ∈ s.hbm.waiting ∧ r.active = false ∧ hbmPc r.addr = g ∧ hbmBank r.addr = b := by
  unfold nextActivate at hnext
  dsimp only at hnext
  split at hnext
  · cases hnext
  · next x l hfitting =>
    have hmem : r ∈ x :: l := Option.some.inj hnext ▸ foldl_choice_mem _ x l
    rw [← hfitting] at hmem
    obtain ⟨hwaits, hfits⟩ := List.mem_filter.mp hmem
    simp only [Bool.and_eq_true, Bool.not_eq_true', beq_iff_eq] at hfits
    obtain ⟨⟨⟨⟨⟨hactive, hpc⟩, hbank⟩, -⟩, -⟩, -⟩ := hfits
    exact ⟨hwaits, hactive, hpc, hbank⟩

/-- HBM_ACTIVATE activates the row of the chosen request and marks the request. -/
theorem exec_hbmActivate (hnext : nextActivate s g.val b.val = some r) : ∃ u,
    u = (if urgency s r = 3 then qosCnt (hbmActivate s r.port r.source r.addr) r.port 0x28 1 else hbmActivate s r.port r.source r.addr) ∧
    exec (.hbmActivate g b) s = .next { u with hbm := { u.hbm with waiting := u.hbm.waiting.map (fun x => if x = r then { x with active := true } else x) } } := by
  refine ⟨_, rfl, ?_⟩
  show execHbmActivate g b s = _
  simp only [execHbmActivate, hnext]

section Done
variable (hdone : s.hbm.waiting.find? (fun r => r.active && hbmPc r.addr == g.val && hbmBank r.addr == b.val) = some r) {tid : Nat}
include hdone

/-- HBM_REQUEST_DONE of a load: its part reaches the thread. -/
theorem exec_hbmRequestDone_load {entry : Nat} (huse : r.use = .load tid entry) : exec (.hbmRequestDone g b) s =
    .next (loadPart (qosDone (hbmServe s r).2.2 r) tid entry r.addr (hbmServe s r).1 (hbmServe s r).2.1) := by
  show execHbmRequestDone g b s = _
  simp only [execHbmRequestDone, hdone, huse]

/-- HBM_REQUEST_DONE of a store: its status reaches the thread. -/
theorem exec_hbmRequestDone_store {seq : Nat} (huse : r.use = .store tid seq) : exec (.hbmRequestDone g b) s =
    .next (storePart (qosDone (hbmServe s r).2.2 r) tid seq (hbmServe s r).1) := by
  show execHbmRequestDone g b s = _
  simp only [execHbmRequestDone, hdone, huse]

/-- HBM_REQUEST_DONE of a store conditional. -/
theorem exec_hbmRequestDone_sc {entry : Nat} (huse : r.use = .sc tid entry) : exec (.hbmRequestDone g b) s = .next (scDone s r tid entry) := by
  show execHbmRequestDone g b s = _
  simp only [execHbmRequestDone, hdone, huse]

end Done

/-- ECC_WRITEBACK clears the single errors of its line. -/
theorem exec_eccWriteback {u : State} (hfirst : s.hbm.waiting.find? (fun r => decide (r.use = HbmFor.writeback)) = some r)
    (hu : u = qosCnt (hbmActivate { s with hbm := { s.hbm with waiting := s.hbm.waiting.erase r } } 7 0 r.addr) 7 0x08 1) :
    exec .eccWriteback s = .next ((lineMarks u r.addr).foldl (fun x m => if m.2.kind = 1 then unmark x m.1 else x) u) := by
  subst hu
  show execEccWriteback s = _
  simp only [execEccWriteback, hfirst]

end Requests

section Upkeep
variable {s : State}

/-- The READY bits of the four stacks, read as one field. -/
theorem stacksReady (hready : ∀ n < 4, isReady s (6 + n) = true) : s.ready / 64 % 16 = 15 := by
  refine Nat.eq_of_testBit_eq fun i => ?_
  rw [show s.ready / 64 % 16 = s.ready / 2 ^ 6 % 2 ^ 4 from rfl, show 15 = 2 ^ 4 - 1 from rfl, Nat.testBit_mod_two_pow, Nat.testBit_div_two_pow,
    Nat.testBit_two_pow_sub_one]
  by_cases hi : i < 4
  · have hbit : s.ready.testBit (6 + i) = true := hready i hi
    simp [hi, Nat.add_comm i 6, hbit]
  · simp [hi]

/-- PATROL_SCRUB goes on by one line once the four stacks are ready. -/
theorem exec_patrolScrub (hready : ∀ n < 4, isReady s (6 + n) = true) :
    ∃ t, exec .patrolScrub s = .next t ∧ t.hbm.scrubAt = (s.hbm.scrubAt + 64) % hbmSize :=
  ⟨_, congrArg Host.Outcome.next (if_neg (not_not.mpr (stacksReady hready))), rfl⟩

/-- TARGETED_REFRESH refreshes the row that has waited longest. -/
theorem exec_targetedRefresh {x : Nat × Nat × Nat} {r : List (Nat × Nat × Nat)} (hrows : s.hbm.targeted = x :: r) :
    exec .targetedRefresh s = .next (pcCnt { s with hbm := { s.hbm with targeted := r } } x.1 0x18) := by
  show execTargetedRefresh s = _
  simp only [execTargetedRefresh, hrows]

section Refresh
variable {g : Fin 128} {b : Fin 32} {n k : Nat} {u : State} (hn : n = tblGet 0 s.hbm.refreshed (32 * g.val + b.val)) (hleft : n < refreshCount s g.val)
  (hk : k = 32 * g.val + b.val) (hu : u = advanceTo s (s.hbm.windowFrom + n * refreshWindow / refreshCount s g.val))
include hn hleft hk hu

/-- HBM_REFRESH makes its refresh, and those it put off. -/
theorem exec_hbmRefresh_made (hcalm : urgentWaits u g.val b.val = false ∨ 8 ≤ tblGet 0 u.hbm.postponed k) : exec (.hbmRefresh g b) s = .next { u with
    hbm := { u.hbm with postponed := tblSet u.hbm.postponed k 0, refreshed := tblSet u.hbm.refreshed k (n + 1) }
    cnt := cntAdd u.cnt (0x9010000 + 0x100 * g.val + 8) (tblGet 0 u.hbm.postponed k + 1) } := by
  have hgo : ¬(urgentWaits u g.val b.val = true ∧ tblGet 0 u.hbm.postponed k < 8) := fun ⟨hurgent, hlate⟩ =>
    hcalm.elim (fun h => Bool.false_ne_true (h.symm.trans hurgent)) (Nat.not_le.mpr hlate)
  show execHbmRefresh g b s = _
  simp only [execHbmRefresh, ← hk] at hn ⊢
  simp only [← hn, if_neg (Nat.not_le.mpr hleft), ← hu, if_neg hgo]

/-- HBM_REFRESH is put off for urgent work, at most eight times. -/
theorem exec_hbmRefresh_postponed (hurgent : urgentWaits u g.val b.val = true) (hlate : tblGet 0 u.hbm.postponed k < 8) :
    exec (.hbmRefresh g b) s = .next (pcCnt { u with
      hbm := { u.hbm with postponed := tblSet u.hbm.postponed k (tblGet 0 u.hbm.postponed k + 1), refreshed := tblSet u.hbm.refreshed k (n + 1) } } g.val 0x10) := by
  show execHbmRefresh g b s = _
  simp only [execHbmRefresh, ← hk] at hn ⊢
  simp only [← hn, if_neg (Nat.not_le.mpr hleft), ← hu, if_pos (And.intro hurgent hlate)]

end Refresh

end Upkeep

/-- Settles O28: each clause is the lemma of its command. -/
theorem memoryAccesses : Obligations.MemoryAccesses :=
  fun _ => ⟨fun _ _ _ hnext => ⟨nextActivate_waits hnext, exec_hbmActivate hnext⟩,
    fun _ _ _ hdone => ⟨fun _ _ => exec_hbmRequestDone_load hdone, fun _ _ => exec_hbmRequestDone_store hdone, fun _ _ => exec_hbmRequestDone_sc hdone⟩,
    fun _ _ => exec_eccWriteback, exec_patrolScrub, fun _ _ => exec_targetedRefresh,
    fun _ _ _ _ _ hn hleft hk hu => ⟨exec_hbmRefresh_made hn hleft hk hu, exec_hbmRefresh_postponed hn hleft hk hu⟩, _, rfl, rfl⟩

end Sys2Proof.Proofs.MemoryController
end

section
/-!
PROOFS. The READY bits after one of them is set.
-/

namespace Sys2Proof.Proofs.ReadyBits
open Sys2Proof Sys2Proof.Machine

theorem testBit_setBit (v k i : Nat) : (setBit v k).testBit i = (v.testBit i || decide (k = i)) := by
  rw [setBit, Nat.testBit_or, Nat.testBit_two_pow]

/-- A READY bit that is set leaves the others. -/
@[simp] theorem isReady_setReady_true (s : State) (k i : Nat) : isReady (setReady s k true) i = (isReady s i || decide (k = i)) := by
  unfold isReady
  rw [setReady_ready]
  split
  · next hset =>
    by_cases hki : k = i
    · simp [← hki, hset]
    · simp [hki]
  · exact testBit_setBit _ _ _

end Sys2Proof.Proofs.ReadyBits
end

section
/-!
PROOFS. The training of the HBM stacks, their temperatures and tracking, and the HBM commands (R425 to R434).
-/

namespace Sys2Proof.Proofs.StackTraining
open Sys2Proof Sys2Proof.Machine Sys2Proof.Proofs.ReadyBits Sys2Proof.Proofs.DeviceTime

section Stacks
variable {s : State} {n : Nat}

/-- A changed stack reads as its change. -/
@[simp] theorem getStack_modStack (s : State) (n : Nat) (f : StackSt → StackSt) : getStack (modStack s n f) n = f (getStack s n) :=
  tblGet_tblMod_same _ _ _ _

/-- Stacks stand in the part of the HBM controller. -/
theorem getStack_congr {t : State} (h : t.hbm = s.hbm) (n : Nat) : getStack t n = getStack s n := by unfold getStack; rw [h]

/-- A record leaves the HBM controller. -/
theorem record_hbm (s : State) (sev cls code : Nat) (l : Loc) (d : Bytes) (i : Bool) : (record s sev cls code l d i).hbm = s.hbm := by
  rw [record_frame]

/-- A READY bit leaves the HBM controller. -/
theorem setReady_hbm (s : State) (i : Nat) (b : Bool) : (setReady s i b).hbm = s.hbm := by rw [setReady_frame]

/-- The answer to HBM_RETRAIN leaves the state of the stack. -/
theorem stackReply_st (s : State) (n : Nat) : (getStack (stackReply s n) n).st = (getStack s n).st := by
  unfold stackReply
  split
  · exact (congrArg StackSt.st (getStack_congr (reply_hbm _ _ _ _) n)).trans (by rw [getStack_modStack])
  · rfl

/-- The answer to HBM_RETRAIN leaves the READY bits. -/
theorem stackReply_ready (s : State) (n : Nat) : (stackReply s n).ready = s.ready := by
  unfold stackReply
  split <;> rfl

/-- The forwarding table's readiness leaves the stacks. -/
theorem tablesReady_hbm (s : State) : (tablesReady s).hbm = s.hbm := by
  unfold tablesReady
  split
  · exact setReady_hbm _ _ _
  · rfl

/-- The forwarding table's readiness leaves a READY bit that is set. -/
theorem tablesReady_isReady {i : Nat} (hset : isReady s i = true) : isReady (tablesReady s) i = true := by
  unfold tablesReady
  split
  · rw [isReady_setReady_true]
    exact Bool.or_eq_true_iff.mpr (.inl hset)
  · exact hset

end Stacks

/-! ### Training (R427, R428) -/

section Training
variable {s : State} {st : Fin 4} {r : Bytes}

/-- A training stack whose step and attempt are counted from 1. -/
structure Training (s : State) (n : Nat) : Prop where
  ready : isReady s 2 = true
  state : (getStack s n).st = 1
  step : 1 ≤ (getStack s n).step
  attempt : 1 ≤ (getStack s n).attempts

/-- The stack's step and attempt as HBM_TRAIN_STEP writes them first. -/
def trainingNow (s : State) (n : Nat) : State :=
  modStack s n (fun y => { y with st := 1, step := (getStack s n).step, attempts := (getStack s n).attempts })

/-- The report that HBM_TRAIN_STEP writes. -/
def trainingReported (s : State) (n : Nat) (r : Bytes) : State :=
  modStack (trainingNow s n) n (fun y => { y with report := trainReport (getStack s n).attempts r, lanes := lanesRepaired r })

variable (h : Training s st.val)
include h

/-- HBM_TRAIN_STEP of a stack in training. -/
theorem exec_hbmTrainStep (passed : Bool) : exec (.hbmTrainStep st passed r) s = .next (
    let x := getStack s st.val
    let s2 := if x.step = 4 ∨ passed = false then trainingReported s st.val r else trainingNow s st.val
    if x.step = 5 then
      tablesReady (stackReply (setReady (modStack (zeroStack s2 st.val) st.val (fun x => { x with st := 2, step := 0, readyNs := recordNs s })) (6 + st.val) true) st.val)
    else if passed then modStack s2 st.val (fun y => { y with step := x.step + 1 })
    else if x.attempts < 3 then modStack s2 st.val (fun y => { y with step := 1, attempts := x.attempts + 1 })
    else stackReply (record (modStack s2 st.val (fun y => { y with st := 3, step := 0 })) 3 0x0C 0x0005 (stackLoc st.val)) st.val) := by
  obtain ⟨hready, hst, hstep, hattempt⟩ := h
  have hgo : ¬(isReady s 2 = false ∨ 2 ≤ (getStack s st.val).st) := by simp [hready, hst]
  show execHbmTrainStep st passed r s = _
  simp only [execHbmTrainStep, if_neg hgo, max_eq_right hstep, max_eq_right hattempt]
  rfl

/-- A step before the fourth that passes leads to the next. -/
theorem exec_hbmTrainStep_passed (hstep : (getStack s st.val).step < 4) : exec (.hbmTrainStep st true r) s =
    .next (modStack (trainingNow s st.val) st.val (fun y => { y with step := (getStack s st.val).step + 1 })) := by
  rw [exec_hbmTrainStep h]
  simp [hstep.ne, (Nat.lt_succ_of_lt hstep).ne]

/-- A step that fails in the first two attempts begins the next attempt. -/
theorem exec_hbmTrainStep_again (hattempt : (getStack s st.val).attempts < 3) (hstep : (getStack s st.val).step ≤ 4) :
    exec (.hbmTrainStep st false r) s =
      .next (modStack (trainingReported s st.val r) st.val (fun y => { y with step := 1, attempts := (getStack s st.val).attempts + 1 })) := by
  rw [exec_hbmTrainStep h]
  simp [hattempt, (Nat.lt_succ_of_le hstep).ne]

/-- A step that fails in the third attempt leaves the stack FAILED. -/
theorem exec_hbmTrainStep_failed (hattempt : (getStack s st.val).attempts = 3) (hstep : (getStack s st.val).step ≤ 4) :
    ∃ t, exec (.hbmTrainStep st false r) s = .next t ∧ (getStack t st.val).st = 3 := by
  refine ⟨_, exec_hbmTrainStep h false, ?_⟩
  simp only [hattempt, (Nat.lt_succ_of_le hstep).ne, if_false, Bool.false_eq_true, Nat.lt_irrefl]
  rw [stackReply_st, getStack_congr (record_hbm _ _ _ _ _ _ _), getStack_modStack]

/-- The fifth step makes the stack READY. -/
theorem exec_hbmTrainStep_ready (hstep : (getStack s st.val).step = 5) :
    ∃ t, exec (.hbmTrainStep st true r) s = .next t ∧ (getStack t st.val).st = 2 ∧ isReady t (6 + st.val) = true := by
  refine ⟨_, exec_hbmTrainStep h true, ?_, ?_⟩
  · simp only [hstep, if_true]
    rw [getStack_congr (tablesReady_hbm _), stackReply_st, getStack_congr (setReady_hbm _ _ _), getStack_modStack]
  · simp only [hstep, if_true]
    refine tablesReady_isReady ?_
    rw [isReady, stackReply_ready, ← isReady, isReady_setReady_true]
    simp

end Training

/-! ### Temperatures and tracking (R430, R431) -/

/-- A temperature that first passes 85 °C is recorded. -/
theorem stackTemp_passed {s : State} {n : Nat} {t : Int} (hlow : (getStack s n).temp ≤ 85) (hhigh : 85 < t) : stackTemp s n t =
    record (modStack s n (fun x => { x with temp := t, fast := true })) 0 0x0C 0x0001 (stackLoc n) (toLE 1 (toSigned 8 t)) := by
  simp only [stackTemp, hhigh, decide_true, not_lt.mpr hlow, not_false_eq_true, and_self, if_true]

section Tracking
variable {s u : State} {pc : Fin 128} {eye : Nat} (hst : (getStack s (pc.val % 4)).st = 2)
  (hu : u = advanceTo s (tblGet 0 s.hbm.tracked pc.val + trackPeriod))
include hst hu

/-- HBM_TRACKING_STEP finds the eye wide. -/
theorem exec_hbmTrackingStep_wide (heye : 350 ≤ eye) : exec (.hbmTrackingStep pc eye) s =
    .next (pcCnt { u with hbm := { u.hbm with tracked := tblSet u.hbm.tracked pc.val u.now } } pc.val 0x38) := by
  subst hu
  have hframe : (advanceTo s (tblGet 0 s.hbm.tracked pc.val + trackPeriod)).hbm = s.hbm := by rw [advanceTo_frame]
  show execHbmTrackingStep pc eye s = _
  simp only [execHbmTrackingStep, hst, ne_eq, not_true, if_false, if_pos heye, hframe]

/-- HBM_TRACKING_STEP finds the eye narrow for the first time, and records it. -/
theorem exec_hbmTrackingStep_narrow (heye : eye < 350) (hfirst : tblGet 0 u.hbm.marginAt pc.val = 0) : ∃ v, v = modStack
      (pcCnt { u with hbm := { u.hbm with tracked := tblSet u.hbm.tracked pc.val u.now } } pc.val 0x38) (pc.val % 4) (fun x => { x with marginLow := true }) ∧
    exec (.hbmTrackingStep pc eye) s =
      .next (record { v with hbm := { v.hbm with marginAt := tblSet v.hbm.marginAt pc.val (u.now + 1) } } 0 0x0C 0x0006 (unitLoc 27 pc.val)) := by
  refine ⟨_, rfl, ?_⟩
  subst hu
  have hframe : (advanceTo s (tblGet 0 s.hbm.tracked pc.val + trackPeriod)).hbm = s.hbm := by rw [advanceTo_frame]
  rw [hframe] at hfirst
  show execHbmTrackingStep pc eye s = _
  simp only [execHbmTrackingStep, hst, ne_eq, not_true, if_false, if_neg (Nat.not_le.mpr heye), hframe, hfirst, false_and]

end Tracking

/-! ### Commands (Table 14-8) -/

section Commands
variable {s : State} {mb : MbId} {st : BitVec 8}

/-- HBM_STATUS answers 16 bytes for each stack. -/
theorem exec_hbmStatus (s : State) (mb : MbId) : ∃ d, exec (.hbmStatus mb) s = .next (reply s mb.val stOk d) ∧ d.length = 64 :=
  ⟨_, rfl, by simp [List.range_succ]⟩

/-- HBM_TRAIN_REPORT answers the report as last measured. -/
theorem exec_hbmTrainReport_measured {a : BitVec 64} (hstack : st.toNat ≤ 3) (hreport : (getStack s st.toNat).report ≠ []) :
    exec (.hbmTrainReport mb st (some a)) s = .next (replyBulk s mb.val (some a) (getStack s st.toNat).report) := by
  show execHbmTrainReport mb st (some a) s = _
  simp only [execHbmTrainReport, if_neg (Nat.not_lt.mpr hstack), if_neg hreport]

/-- HBM_RETRAIN begins the training of a stack that is not in training. -/
theorem exec_hbmRetrain_begun (hstack : st.toNat ≤ 3) (hplan : isReady s 19 = false) (hidle : (getStack s st.toNat).st ≠ 1) :
    exec (.hbmRetrain mb st) s =
      .next (setReady (modStack s st.toNat (fun x => { x with st := 1, step := 1, attempts := 1, mailbox := some mb.val })) (6 + st.toNat) false) := by
  have hgo : ¬(isReady s 19 = true ∨ (getStack s st.toNat).st = 1) := by simp [hplan, hidle]
  show execHbmRetrain mb st s = _
  simp only [execHbmRetrain, if_neg (Nat.not_lt.mpr hstack), if_neg hgo]

/-- HBM_RETRAIN is E_BUSY while a plan is in force. -/
theorem exec_hbmRetrain_busy (hstack : st.toNat ≤ 3) (hplan : isReady s 19 = true) : exec (.hbmRetrain mb st) s = .next (reply s mb.val eBusy) := by
  show execHbmRetrain mb st s = _
  simp only [execHbmRetrain, if_neg (Nat.not_lt.mpr hstack), hplan, true_or, if_true]

end Commands

/-- Settles O29: each clause is the lemma of its command. -/
theorem memoryTraining : Obligations.MemoryTraining := by
  refine fun s => ⟨?train, fun t0 t1 t2 t3 hready => congrArg Host.Outcome.next (if_pos hready), fun n t => stackTemp_passed,
    fun pc eye u hst hu => ⟨exec_hbmTrackingStep_wide hst hu, exec_hbmTrackingStep_narrow hst hu⟩, fun mb => exec_hbmStatus s mb,
    fun mb st a => exec_hbmTrainReport_measured, fun mb st => exec_hbmRetrain_begun, fun mb st => exec_hbmRetrain_busy,
    fun mb st a hstack => ⟨congrArg Host.Outcome.next (if_pos hstack), congrArg Host.Outcome.next (if_pos hstack)⟩⟩
  case train =>
    rintro st r x hready rfl hst hstep hattempt
    have h : Training s st.val := ⟨hready, hst, hstep, hattempt⟩
    exact ⟨exec_hbmTrainStep_passed h, exec_hbmTrainStep_again h, exec_hbmTrainStep_failed h, exec_hbmTrainStep_ready h⟩

end Sys2Proof.Proofs.StackTraining
end

section
/-!
PROOFS. Rules for Hawk's interface: bits that a mask clears, mailboxes after a change, and what an interrupt cause, a signal
and a READY bit leave of them.
-/

namespace Sys2Proof.Proofs.HostRules
open Sys2Proof Sys2Proof.Machine Sys2Proof.Proofs.ReadyBits

/-! ### Bits, bytes and tables -/

/-- The bits that a mask leaves. -/
theorem testBit_clearMask (v m i : Nat) : (clearMask v m).testBit i = (v.testBit i && !m.testBit i) := by
  induction i generalizing v m with
  | zero =>
    have hle : v &&& m ≤ v := Nat.and_le_left
    have hodd : (v &&& m) % 2 = 1 ↔ v % 2 = 1 ∧ m % 2 = 1 := Nat.and_mod_two_eq_one
    rw [clearMask, Nat.testBit_zero, Nat.testBit_zero, Nat.testBit_zero, ← decide_not, ← Bool.decide_and, decide_eq_decide]
    omega
  | succ i ih =>
    have hle : v &&& m ≤ v := Nat.and_le_left
    have hhalf : v / 2 &&& m / 2 ≤ v / 2 := Nat.and_le_left
    have hdiv : (v &&& m) / 2 = v / 2 &&& m / 2 := Nat.and_div_two
    have hodd : (v &&& m) % 2 = 1 ↔ v % 2 = 1 ∧ m % 2 = 1 := Nat.and_mod_two_eq_one
    have hstep : clearMask v m / 2 = clearMask (v / 2) (m / 2) := by
      rw [clearMask, clearMask, ← hdiv]
      omega
    rw [Nat.testBit_succ, hstep, ih, ← Nat.testBit_succ, ← Nat.testBit_succ]

theorem byteAt_eq_getElem? (b : Bytes) (i : Nat) : byteAt b i = (b[i]?.getD 0).toNat := by
  rw [byteAt, List.headD_eq_head?_getD, List.head?_drop]

/-- Another byte at one place leaves the bytes at the others. -/
theorem byteAt_append_cons_ne {a b : Bytes} {x y : Byte} {i : Nat} (h : i ≠ a.length) : byteAt (a ++ x :: b) i = byteAt (a ++ y :: b) i := by
  rw [byteAt_eq_getElem?, byteAt_eq_getElem?]
  obtain hlt | hgt := Nat.lt_or_gt_of_ne h
  · rw [List.getElem?_append_left hlt, List.getElem?_append_left hlt]
  · obtain ⟨k, rfl⟩ := Nat.exists_eq_add_of_lt hgt
    have hplace : a.length + k + 1 - a.length = k + 1 := by omega
    rw [List.getElem?_append_right (by omega), List.getElem?_append_right (by omega), hplace, List.getElem?_cons_succ, List.getElem?_cons_succ]

/-- A change of every value that keeps a part of each keeps that part of what is read. -/
theorem tblGet_map {α β : Type} (d : α) (p : α → β) {g : Nat × α → Nat × α} (hkey : ∀ e, (g e).1 = e.1) (hpart : ∀ e, p (g e).2 = p e.2)
    (m : Table α) (k : Nat) : p (tblGet d (m.map g) k) = p (tblGet d m k) := by
  induction m with
  | nil => rfl
  | cons e m ih =>
    have hread (e : Nat × α) (m : Table α) : tblGet d (e :: m) k = if e.1 = k then e.2 else tblGet d m k := by
      unfold tblGet
      rw [tblFind]
      split <;> rfl
    rw [List.map_cons, hread, hread, hkey]
    split
    · exact hpart e
    · exact ih

/-! ### Mailboxes -/

/-- A changed mailbox reads as its change. -/
@[simp] theorem getMb_modMb_same (s : State) (n : Nat) (f : Mailbox → Mailbox) : getMb (modMb s n f) n = f (getMb s n) :=
  tblGet_tblMod_same _ _ _ _

/-- The other mailboxes read as before. -/
theorem getMb_modMb_other (s : State) {n k : Nat} (f : Mailbox → Mailbox) (h : k ≠ n) : getMb (modMb s n f) k = getMb s k :=
  tblGet_tblMod_other _ _ _ h

/-- Two changes of Hawk's interface are one. -/
theorem hostChange_trans {s t u : State} (hst : t = { s with host := t.host }) (htu : u = { t with host := u.host }) : u = { s with host := u.host } := by
  rw [htu, hst]

/-- Mailboxes stand in Hawk's interface. -/
theorem getMb_congr {s t : State} (h : t.host.mailboxes = s.host.mailboxes) (n : Nat) : getMb t n = getMb s n := by unfold getMb; rw [h]

@[simp] theorem hostCount_intStatus (s : State) (off k : Nat) : (hostCount s off k).host.intStatus = s.host.intStatus := rfl

@[simp] theorem getMb_hostCount (s : State) (off k n : Nat) : getMb (hostCount s off k) n = getMb s n := rfl

/-! ### Interrupts (R443) -/

/-- A signal changes the pending bits of Hawk's interface. -/
theorem signalVector_host (s : State) (n : Nat) : (signalVector s n).host = { s.host with pba := (signalVector s n).host.pba } := by
  unfold signalVector
  split <;> rfl

/-- An interrupt cause changes the causes and the pending bits. -/
theorem raiseInt_host (s : State) (n : Nat) :
    (raiseInt s n).host = { s.host with intStatus := (raiseInt s n).host.intStatus, pba := (raiseInt s n).host.pba } := by
  unfold raiseInt
  dsimp only
  split
  · rfl
  · split
    · rw [signalVector_host]
    · rfl

/-- The causes after one is raised. -/
@[simp] theorem raiseInt_intStatus (s : State) (n k : Nat) :
    (raiseInt s n).host.intStatus.testBit k = (s.host.intStatus.testBit k || decide (n = k)) := by
  unfold raiseInt
  dsimp only
  split
  · next hset =>
    by_cases hnk : n = k
    · simp [← hnk, hset]
    · simp [hnk]
  · split
    · rw [signalVector_host]
      exact testBit_setBit _ _ _
    · exact testBit_setBit _ _ _

/-- An interrupt cause leaves the mailboxes. -/
@[simp] theorem getMb_raiseInt (s : State) (n k : Nat) : getMb (raiseInt s n) k = getMb s k := getMb_congr (by rw [raiseInt_host]) k

/-- An interrupt cause leaves the registers that power keeps. -/
@[simp] theorem raiseInt_kept (s : State) (n : Nat) : (raiseInt s n).kept = s.kept := by rw [raiseInt_frame]

/-- An interrupt cause leaves time. -/
@[simp] theorem raiseInt_now (s : State) (n : Nat) : (raiseInt s n).now = s.now := by rw [raiseInt_frame]

/-- READY_WAITs that end leave the doorbells that are held. -/
theorem getMb_settleWaits_queued (s : State) (n : Nat) : (getMb (settleWaits s) n).queued = (getMb s n).queued := by
  refine tblGet_map {} Mailbox.queued (fun e => ?_) (fun e => ?_) s.host.mailboxes n
  · split
    · split <;> rfl
    · rfl
  · split
    · split <;> rfl
    · rfl

/-- A READY bit leaves the doorbells that are held. -/
theorem getMb_setReady_queued (s : State) (i : Nat) (b : Bool) (n : Nat) : (getMb (setReady s i b) n).queued = (getMb s n).queued := by
  unfold setReady
  split
  · rfl
  · rw [getMb_settleWaits_queued, getMb_raiseInt]
    rfl

end Sys2Proof.Proofs.HostRules
end

section
/-!
PROOFS. Doorbells (R446 to R448) and reads of a result (R445).
-/

namespace Sys2Proof.Proofs.MailboxProtocol
open Sys2Proof Sys2Proof.Machine Sys2Proof.Proofs.HostRules

/-! ### MB_DOORBELL (R447) -/

section Doorbell
variable {s : State} {mb : MbId} {v : BitVec 16}

/-- What every write to MB_DOORBELL does: DOORBELLS counts, and the register holds what was written. -/
def rung (s : State) (n v : Nat) : State := modMb (hostCount s 0x00 1) n (fun x => { x with doorbell := v })

/-- The command area is copied for a command with a sequence number. -/
def commandCopied (s : State) (n v : Nat) : State := modMb (rung s n v) n (fun x => { x with copied := mbArea (getMb s n), runSeq := v })

theorem commandCopied_frame (s : State) (n v : Nat) : commandCopied s n v = { s with host := (commandCopied s n v).host } := rfl

@[simp] theorem getMb_commandCopied (s : State) (n v : Nat) : getMb (commandCopied s n v) n =
    { getMb s n with doorbell := v, copied := mbArea (getMb s n), runSeq := v } := by simp [commandCopied, rung]

/-- A repeated doorbell of a command that runs or is held counts. -/
theorem exec_mbDoorbell_repeated (hbusy : (getMb s mb.val).run = true ∨ (getMb s mb.val).queued = true) (hseq : v.toNat = (getMb s mb.val).runSeq) :
    exec (.mbDoorbell mb v) s = .next (hostCount (rung s mb.val v.toNat) 0x18 1) :=
  congrArg Host.Outcome.next ((if_pos hbusy).trans (if_pos hseq))

/-- Another doorbell while a command runs or is held sets OVERRUN. -/
theorem exec_mbDoorbell_overrun (hbusy : (getMb s mb.val).run = true ∨ (getMb s mb.val).queued = true) (hseq : v.toNat ≠ (getMb s mb.val).runSeq) :
    exec (.mbDoorbell mb v) s = .next (hostCount (modMb (rung s mb.val v.toNat) mb.val (fun x => { x with overrun := true })) 0x20 1) :=
  congrArg Host.Outcome.next ((if_pos hbusy).trans (if_neg hseq))

section Idle
variable (hrun : (getMb s mb.val).run = false) (hqueued : (getMb s mb.val).queued = false)
include hrun hqueued

/-- The doorbell of a result that stands signals the result again. -/
theorem exec_mbDoorbell_cached (hdone : (getMb s mb.val).resDone = true) (hseq : v.toNat = (getMb s mb.val).resSeq) :
    exec (.mbDoorbell mb v) s = .next (hostCount (raiseInt (rung s mb.val v.toNat) mb.val) 0x10 1) := by
  show execMbDoorbell mb v s = _
  simp [execMbDoorbell, doorbell, rung, hrun, hqueued, hdone, hseq]

/-- The doorbell of a new command copies the command area, and the command runs or is held. -/
theorem exec_mbDoorbell_new (hnew : (getMb s mb.val).resDone = false ∨ v.toNat ≠ (getMb s mb.val).resSeq) : exec (.mbDoorbell mb v) s =
    .next (if isReady s 3 = true then acceptCommand (commandCopied s mb.val v.toNat) mb.val
      else modMb (rung s mb.val v.toNat) mb.val (fun x => { x with copied := mbArea (getMb s mb.val), runSeq := v.toNat, queued := true })) := by
  have hbusy : ¬((getMb s mb.val).run = true ∨ (getMb s mb.val).queued = true) := by simp [hrun, hqueued]
  have hfresh : ¬((getMb s mb.val).resDone = true ∧ v.toNat = (getMb s mb.val).resSeq) := fun ⟨hdone, hseq⟩ =>
    hnew.elim (fun h => Bool.false_ne_true (h.symm.trans hdone)) (fun h => h hseq)
  exact congrArg Host.Outcome.next ((if_neg hbusy).trans (if_neg hfresh))

end Idle

/-- A command that is accepted runs as it was copied; one that Hawk refuses has its status as its reply. -/
theorem acceptCommand_mailbox (s : State) (n : Nat) : acceptCommand s n = { s with host := (acceptCommand s n).host } ∧
    (getMb (acceptCommand s n) n).copied = (getMb s n).copied ∧ (getMb (acceptCommand s n) n).runSeq = (getMb s n).runSeq ∧
    (getMb (acceptCommand s n) n).run = true ∧ (getMb (acceptCommand s n) n).queued = false ∧
    ∀ st, hawkCheck s n (getMb s n).runSeq (getMb s n).copied = some st → (getMb (acceptCommand s n) n).reply = some { status := st } := by
  unfold acceptCommand
  dsimp only
  cases hawkCheck s n (getMb s n).runSeq (getMb s n).copied with
  | none => exact ⟨rfl, by simp⟩
  | some st => exact ⟨rfl, by simp [reply, replyWith]⟩

/-- A write to a command area leaves the copy of the command that runs. -/
theorem exec_registerWrite_area {off : BitVec 16} {d : Bytes} (hlow : 0x1000 + 0x400 * mb.val ≤ off.toNat) (hhigh : off.toNat < 0x1100 + 0x400 * mb.val) :
    ∃ t, exec (.registerWrite off d) s = .next t ∧ (getMb t mb.val).copied = (getMb s mb.val).copied := by
  have hmb := mb.isLt
  have hindex : (off.toNat - 0x1000) / 0x400 = mb.val := by omega
  have harea : 0x1000 ≤ off.toNat ∧ off.toNat < 0x3000 ∧ (off.toNat - 0x1000) % 0x400 < 0x100 := by omega
  refine ⟨_, congrArg Host.Outcome.next (if_pos harea), ?_⟩
  rw [hindex, getMb_modMb_same]

end Doorbell

/-- Settles O49: each case of R447 is a lemma of its own, and the fourth is read off what `acceptCommand` does. -/
theorem doorbells : Obligations.Doorbells := by
  refine fun s mb v => ⟨exec_mbDoorbell_repeated, exec_mbDoorbell_overrun, fun hrun hqueued hdone hseq => ?cached,
    fun hrun hqueued hnew => ⟨_, exec_mbDoorbell_new hrun hqueued hnew, ?new⟩, fun off d => exec_registerWrite_area⟩
  case cached =>
    exact ⟨_, exec_mbDoorbell_cached hrun hqueued hdone hseq, rfl, by simp, by simp [rung]⟩
  case new =>
    cases hready : isReady s 3 with
    | true =>
      obtain ⟨hframe, hcopied, hseq, hruns, hheld, hrefused⟩ := acceptCommand_mailbox (commandCopied s mb.val v.toNat) mb.val
      rw [getMb_commandCopied] at hcopied hseq hrefused
      rw [if_pos rfl]
      exact ⟨hostChange_trans (commandCopied_frame s mb.val v.toNat) hframe, hcopied, hseq, hruns, hheld, fun _ => hrefused⟩
    | false =>
      rw [if_neg Bool.false_ne_true]
      exact ⟨rfl, by simp [rung, hrun]⟩

/-! ### RESULT_READ (R445) -/

section ResultRead
variable {s : State} {mb : MbId} {off : BitVec 9} {len : BitVec 4}

/-- READ_COUNT goes up to 3. -/
theorem satTo_eq_min (m v : Nat) : satTo m v = Nat.min m v := by
  unfold satTo
  split
  · next h => exact (Nat.min_eq_right h).symm
  · next h => exact (Nat.min_eq_left (Nat.le_of_not_le h)).symm

/-- A read that includes byte 4 of a DONE result raises READ_COUNT. -/
theorem exec_resultRead_state (hlow : off.toNat ≤ 4) (hhigh : 4 < off.toNat + len.toNat) (hdone : (getMb s mb.val).resDone = true) : ∃ u,
    u = modMb s mb.val (fun x => { x with readCount := Nat.min 3 (x.readCount + 1) }) ∧
    exec (.resultRead mb off len) s = .next { u with host := { u.host with readData := slice (resultBytes (getMb u mb.val)) off.toNat len.toNat } } := by
  refine ⟨_, rfl, ?_⟩
  show execResultRead mb off len s = _
  simp only [execResultRead, hlow, hhigh, hdone, decide_true, Bool.and_self, if_true, satTo_eq_min]

/-- Another read only returns its bytes. -/
theorem exec_resultRead_other (h : 4 < off.toNat ∨ off.toNat + len.toNat ≤ 4 ∨ (getMb s mb.val).resDone = false) : exec (.resultRead mb off len) s =
    .next { s with host := { s.host with readData := slice (resultBytes (getMb s mb.val)) off.toNat len.toNat } } := by
  have hmiss : (decide (off.toNat ≤ 4) && decide (4 < off.toNat + len.toNat) && (getMb s mb.val).resDone) = false := by
    obtain h | h | h := h
    · simp [Nat.not_le.mpr h]
    · simp [Nat.not_lt.mpr h]
    · simp [h]
  show execResultRead mb off len s = _
  simp only [execResultRead, hmiss, Bool.false_eq_true, if_false]

/-- READ_COUNT stands in byte 4 of the result area. -/
theorem byteAt_resultBytes_readCount (m : Mailbox) (k : Nat) {i : Nat} (hi : i ≠ 4) :
    byteAt (resultBytes { m with readCount := k }) i = byteAt (resultBytes m) i := by
  have hform (c : Nat) : resultBytes { m with readCount := c } = (toLE 2 m.res.status ++ toLE 2 m.resSeq) ++ BitVec.ofNat 8 (b2n m.resDone + 4 * c) ::
      ([0] ++ toLE 2 (Nat.min 496 m.res.data.length) ++ toLE 4 m.res.cursor ++ toLE 4 m.res.indDone ++ slice m.res.data 0 496) := by
    simp [resultBytes, toLE]
  exact (congrArg (byteAt · i) (hform k)).trans ((byteAt_append_cons_ne hi).trans (congrArg (byteAt · i) (hform m.readCount)).symm)

end ResultRead

/-- Settles O50: the two cases of a read, and the place of READ_COUNT. -/
theorem resultReads : Obligations.ResultReads := by
  refine fun s mb off len => ⟨fun hlow hhigh hdone => ?hit, exec_resultRead_other, fun i _ hi => byteAt_resultBytes_readCount _ _ hi⟩
  obtain ⟨u, hu, hexec⟩ := exec_resultRead_state hlow hhigh hdone
  have hmine : getMb u mb.val = { getMb s mb.val with readCount := Nat.min 3 ((getMb s mb.val).readCount + 1) } := by rw [hu, getMb_modMb_same]
  refine ⟨_, hexec, hmine, by rw [hmine], by rw [hu]; rfl, fun n _ hn => ?_⟩
  show getMb u n = getMb s n
  rw [hu, getMb_modMb_other s _ hn]

end Sys2Proof.Proofs.MailboxProtocol
end

section
/-!
PROOFS. Results, registers, interrupts and the device commands (R439, R443, R444, R455, R456, R462 to R464, Table 15-10).
-/

namespace Sys2Proof.Proofs.HostInterface
open Sys2Proof Sys2Proof.Machine Sys2Proof.Proofs.HostRules

/-! ### MAILBOX_RESULT (R444) -/

section Results
variable {s : State} {mb : MbId}

/-- What becomes visible of a completed command. -/
theorem publish_visible (s : State) (n : Nat) (r : Reply) : (publish s n r).host.intStatus.testBit n = true ∧ (publish s n r).now = s.now ∧
    getMb (publish s n r) n =
      { getMb s n with reply := none, wait := none, run := false, resSeq := (getMb s n).runSeq, resDone := true, readCount := 0, res := r } := by
  unfold publish
  dsimp only
  split
  · exact ⟨by simp, by simp, by simp⟩
  · exact ⟨by simp, by simp, by simp⟩

theorem exec_mailboxResult_reply {r : Reply} (hreply : (getMb s mb.val).reply = some r) : exec (.mailboxResult mb) s = .next (publish s mb.val r) := by
  show execMailboxResult mb s = _
  simp only [execMailboxResult, hreply]

theorem exec_mailboxResult_wait {mask t : Nat} (hreply : (getMb s mb.val).reply = none) (hwait : (getMb s mb.val).wait = some (mask, t)) :
    exec (.mailboxResult mb) s = .next (publish (advanceTo s t) mb.val { status := eTimeout, data := toLE 4 s.ready }) := by
  have hready : (advanceTo s t).ready = s.ready := by rw [advanceTo_frame]
  show execMailboxResult mb s = _
  simp only [execMailboxResult, hreply, hwait, hready]

theorem exec_mailboxResult_idle (hreply : (getMb s mb.val).reply = none) (hwait : (getMb s mb.val).wait = none) :
    exec (.mailboxResult mb) s = .next s := by
  show execMailboxResult mb s = _
  simp only [execMailboxResult, hreply, hwait]

end Results

/-! ### Lockdown, causes and register writes (R439, R443, R455, R456) -/

section Registers
variable {s : State}

/-- A violation is counted with its offset and raises cause 27. -/
theorem violation_recorded (s : State) (off : Nat) : (violation s (some off)).kept = { s.kept with writeViolation := true } ∧
    (violation s (some off)).host.violationCount = (s.host.violationCount + 1) % 2 ^ 64 ∧ (violation s (some off)).host.violationOffset = off ∧
    (violation s (some off)).host.intStatus.testBit 27 = true := by
  unfold violation
  exact ⟨by rw [raiseInt_kept], by rw [raiseInt_host], by rw [raiseInt_host], by simp⟩

/-- The first write to HOST_LOCKDOWN sets it. -/
theorem exec_hostLockdown_first {v : BitVec 1} (hfirst : s.kept.lockdownWritten = false) : exec (.hostLockdown v) s =
    .next { s with kept := { s.kept with lockdownWritten := true, lockdown := decide (v = 1) } } := by
  have hv : decide (v.toNat = 1) = decide (v = 1) := decide_eq_decide.mpr (BitVec.toNat_inj (x := v) (y := 1))
  show execHostLockdown v s = _
  simp only [execHostLockdown, lockdownWrite, hfirst, Bool.false_eq_true, if_false, hv]

/-- Later writes to HOST_LOCKDOWN are violations. -/
theorem exec_hostLockdown_later {v : BitVec 1} (hlater : s.kept.lockdownWritten = true) :
    exec (.hostLockdown v) s = .next (violation s (some 0x0400)) :=
  congrArg Host.Outcome.next (if_pos hlater)

/-- INT_STATUS_CLEAR clears the causes of its mask. -/
theorem exec_intStatusClear (mask : BitVec 64) : ∃ t, exec (.intStatusClear mask) s = .next t ∧
    t = { s with host := { s.host with intStatus := t.host.intStatus } } ∧
    ∀ n, t.host.intStatus.testBit n = (s.host.intStatus.testBit n && !mask.getLsbD n) :=
  ⟨_, rfl, rfl, fun n => testBit_clearMask _ _ n⟩

/-- INT_ENABLE takes its value and leaves the causes. -/
theorem exec_intEnableWrite (v : BitVec 64) : ∃ t, exec (.intEnableWrite v) s = .next t ∧ t.host.intEnable = v.toNat ∧
    t.host.intStatus = s.host.intStatus := by
  refine ⟨_, rfl, ?_⟩
  refine List.foldlRecOn (motive := fun (t : State) => t.host.intEnable = v.toNat ∧ t.host.intStatus = s.host.intStatus) _ _ ⟨rfl, rfl⟩
    fun t ht n _ => ?_
  split
  · rwa [signalVector_host]
  · exact ht

/-- A register takes no access of another size than 4 or 8 aligned bytes. -/
theorem exec_registerWrite_size {off : BitVec 16} {d : Bytes} (harea : off.toNat < 0x1000 ∨ 0x3000 ≤ off.toNat)
    (h4 : d.length ≠ 4 ∨ off.toNat % 4 ≠ 0) (h8 : d.length ≠ 8 ∨ off.toNat % 8 ≠ 0) :
    exec (.registerWrite off d) s = .next (hostCount s 0x48 1) := by
  have hcommand : ¬(0x1000 ≤ off.toNat ∧ off.toNat < 0x3000 ∧ (off.toNat - 0x1000) % 0x400 < 0x100) := by omega
  have hresult : ¬(0x1000 ≤ off.toNat ∧ off.toNat < 0x3000 ∧ (off.toNat - 0x1000) % 0x400 < 0x300) := by omega
  show execRegisterWrite off d s = _
  simp only [execRegisterWrite, bar0Write, if_neg hcommand, if_neg hresult, if_neg (not_and_or.mpr h8), if_neg (not_and_or.mpr h4)]

/-- 8 bytes at 0x0500 write the first window's base. -/
theorem exec_registerWrite_window {d : Bytes} (hlen : d.length = 8) : exec (.registerWrite 0x0500 d) s = .next (rwlWrite s 0x0500 (fun k =>
    { k with windows := tblSet k.windows 0 (mergeBits (tblGet 0 k.windows 0) (leVal d) (2 ^ 64 - 1) &&& 0xFFFFFFC00003) })) := by
  show execRegisterWrite 0x0500 d s = _
  simp [execRegisterWrite, bar0Write, hlen, bar0WriteWord]

end Registers

/-! ### Device commands (Table 15-10) -/

section Commands
variable {s : State} {mb : MbId}

/-- DEVICE_INFO answers eight words. -/
theorem exec_deviceInfo (s : State) (mb : MbId) : ∃ d, exec (.deviceInfo mb) s = .next (reply s mb.val stOk d) ∧ d.length = 64 :=
  ⟨_, rfl, by simp⟩

section ReadyWait
variable {mask us : BitVec 32} (hfree : mask.toNat &&& 12 = 0) (hbits : mask.toNat < 2 ^ 25) (hlow : 1 ≤ us.toNat) (hhigh : us.toNat ≤ 10000000)
include hfree hbits hlow hhigh

/-- READY_WAIT of a mask without HAWK and MAILBOX, for a time of 1 µs to 10 s. -/
theorem exec_readyWait : exec (.readyWait mb mask us) s = .next (if mask.toNat &&& s.ready = mask.toNat then reply s mb.val stOk (toLE 4 s.ready)
    else modMb s mb.val (fun x => { x with wait := some (mask.toNat, s.now + usTicks us.toNat) })) := by
  have hclear (i : Nat) (hi : (12 : Nat).testBit i = true) : mask.toNat.testBit i = false := by
    have hand : (mask.toNat &&& 12).testBit i = false := by rw [hfree, Nat.zero_testBit]
    rwa [Nat.testBit_and, hi, Bool.and_true] at hand
  have hargs : ¬(mask.toNat.testBit 2 = true ∨ mask.toNat.testBit 3 = true ∨ 2 ^ 25 ≤ mask.toNat ∨ us.toNat < 1 ∨ 10000000 < us.toNat) := by
    simp only [hclear 2 rfl, hclear 3 rfl, Bool.false_eq_true, false_or]
    omega
  exact congrArg Host.Outcome.next (if_neg hargs)

end ReadyWait

/-- The records taken from a ring without a summary are its oldest ones. -/
theorem ringTakeN_noSummary (n : Nat) (f : FaultState) (hsummary : f.summary = none) :
    ringTakeN n f = (f.ring.take n, { f with ring := f.ring.drop n }) := by
  induction n generalizing f with
  | zero => rfl
  | succ n ih =>
    cases hring : f.ring with
    | nil =>
      have hf : { f with ring := [] } = f := by rw [← hring]
      simp only [ringTakeN, ringTake, hring, hsummary, List.take_nil, List.drop_nil]
      rw [← hsummary, hf]
    | cons r rest => simp [ringTakeN, ringTake, hring, ih { f with ring := rest } hsummary]

/-- ERROR_RING_READ into the result, of at most 15 records. -/
theorem exec_errorRingRead {max : BitVec 16} (hlow : 1 ≤ max.toNat) (hhigh : max.toNat ≤ 15) (herr : s.host.err.enabled = false)
    (hsummary : s.fault.summary = none) (consume : Bool) : exec (.errorRingRead mb max consume none) s =
      .next (reply (if consume then { s with fault := { s.fault with ring := s.fault.ring.drop max.toNat } } else s) mb.val stOk
        ((s.fault.ring.take max.toNat).flatMap recordBytes ++ toLE 8 s.fault.overflow)) := by
  have hargs : ¬(max.toNat < 1 ∨ 64 < max.toNat ∨ consume = true ∧ (s.host.err.enabled = true ∨ (none : Option (BitVec 64)).isSome = true)) := by
    simp [herr]
    omega
  have hcount : Nat.min 15 max.toNat = max.toNat := Nat.min_eq_right hhigh
  refine congrArg Host.Outcome.next ((if_neg hargs).trans ?_)
  simp only [Option.isSome_none, Bool.false_eq_true, if_false, hcount, ringTakeN_noSummary _ _ hsummary, replyBulk, List.append_nil]

/-- HAWK_RESTART restarts a running Hawk. -/
theorem exec_hawkRestart (hdie : s.power.dieOut = true) (hrunning : s.host.hawkState = 1) (hepoch : epochArmed s = false) (hfw : s.svc.fw ≠ .trial) :
    exec (.hawkRestart mb) s = .next (hawkRestartNow (reply s mb.val stOk)) := by
  have hgo : ¬((reply s mb.val stOk).power.dieOut = false ∨ (reply s mb.val stOk).host.hawkState ≠ 1) := by
    rw [reply_power, hdie]
    exact fun h => h.elim (fun h => Bool.true_eq_false_eq_False h) (fun h => h hrunning)
  have harmed : epochArmed (reply s mb.val stOk) = false := hepoch
  refine congrArg Host.Outcome.next ((if_neg hgo).trans ?_)
  simp [harmed, hfw]

/-- HAWK_START of a Hawk that runs does nothing. -/
theorem exec_hawkStart_running (hrunning : s.host.hawkState = 1) : exec .hawkStart s = .next s :=
  congrArg Host.Outcome.next (if_neg fun ⟨_, _, hreset⟩ => by rw [hrunning] at hreset; exact absurd hreset (by decide))

/-- Without held doorbells none is accepted. -/
theorem acceptHeld_none (hheld : ∀ n < 8, (getMb s n).queued = false) : acceptHeld s = s := by
  refine List.foldlRecOn (motive := fun t => t = s) _ _ rfl fun t ht n hn => ?_
  rw [ht, hheld n (List.mem_range.mp hn)]
  exact if_neg Bool.false_ne_true

/-- HAWK_START sets READY.HAWK and READY.MAILBOX. -/
theorem exec_hawkStart (hdie : s.power.dieOut = true) (hloader : s.power.loaderOk = true) (hreset : s.host.hawkState = 0)
    (hheld : ∀ n < 8, (getMb s n).queued = false) (hfw : s.svc.fw ≠ .trial) :
    exec .hawkStart s = .next (setReady (setReady { s with host := { s.host with hawkState := 1 } } 2 true) 3 true) := by
  have hrunning : hawkRunning s = setReady (setReady { s with host := { s.host with hawkState := 1 } } 2 true) 3 true := by
    refine if_neg fun h => hfw ?_
    rw [← h.1, setReady_frame, setReady_frame]
  refine congrArg Host.Outcome.next ((if_pos ⟨hdie, hloader, hreset⟩).trans ?_)
  rw [hrunning]
  refine acceptHeld_none fun n hn => ?_
  rw [getMb_setReady_queued, getMb_setReady_queued]
  exact hheld n hn

end Commands

/-- Settles O51: each clause is the lemma of its event, register or command. -/
theorem hostMailboxes : Obligations.HostMailboxes := by
  refine fun s mb => ⟨fun r hreply => ?result, fun mask t hreply hwait => ?timeout, exec_mailboxResult_idle,
    fun v => ⟨exec_hostLockdown_first, fun hlater => ⟨_, exec_hostLockdown_later hlater, violation_recorded s 0x0400⟩⟩,
    exec_intStatusClear, exec_intEnableWrite, fun off d => exec_registerWrite_size, fun d hlen hlock => ?refused, fun d hlen hlock => ?window,
    exec_deviceInfo s mb, fun mask us hfree hbits hlow hhigh => ?wait, fun args => ⟨fun h => ?echo, fun h => congrArg Host.Outcome.next (if_pos h)⟩,
    fun max hlow hhigh herr hsummary => ⟨exec_errorRingRead hlow hhigh herr hsummary true, exec_errorRingRead hlow hhigh herr hsummary false⟩,
    exec_hawkRestart, exec_hawkStart_running, exec_hawkStart⟩
  case result =>
    obtain ⟨hcause, -, hvisible⟩ := publish_visible s mb.val r
    exact ⟨_, exec_mailboxResult_reply hreply, hcause, hvisible⟩
  case timeout =>
    obtain ⟨-, hnow, hvisible⟩ := publish_visible (advanceTo s t) mb.val { status := eTimeout, data := toLE 4 s.ready }
    exact ⟨_, exec_mailboxResult_wait hreply hwait, hnow.trans (advanceTo_now s t), by rw [hvisible]⟩
  case refused =>
    obtain ⟨hkept, -, hoffset, -⟩ := violation_recorded s 0x0500
    exact ⟨_, exec_registerWrite_window hlen, by rw [rwlWrite, if_pos hlock]; exact ⟨hkept, hoffset⟩⟩
  case window => exact (exec_registerWrite_window hlen).trans (congrArg Host.Outcome.next (if_neg (Bool.eq_false_iff.mp hlock)))
  case wait =>
    have hexec := exec_readyWait (s := s) (mb := mb) hfree hbits hlow hhigh
    exact ⟨fun hset => hexec.trans (congrArg Host.Outcome.next (if_pos hset)), fun hclear => hexec.trans (congrArg Host.Outcome.next (if_neg hclear))⟩
  case echo => exact congrArg Host.Outcome.next (if_neg (Nat.not_lt.mpr h))

end Sys2Proof.Proofs.HostInterface
end

section
/-!
PROOFS. Any READY bit after one of them takes a value.
-/

namespace Sys2Proof.Proofs.ReadyBits
open Sys2Proof Sys2Proof.Machine Sys2Proof.Proofs.HostRules

theorem clearBit_eq_clearMask (v k : Nat) : clearBit v k = clearMask v (2 ^ k) := by
  unfold clearBit clearMask
  rw [Nat.and_two_pow]
  cases v.testBit k <;> simp

theorem testBit_putBit (v k i : Nat) (b : Bool) : (putBit v k b).testBit i = if k = i then b else v.testBit i := by
  cases b with
  | true =>
    refine (testBit_setBit v k i).trans ?_
    by_cases hki : k = i <;> simp [hki]
  | false =>
    refine (congrArg (Nat.testBit · i) (clearBit_eq_clearMask v k)).trans ((testBit_clearMask _ _ _).trans ?_)
    by_cases hki : k = i <;> simp [hki]

/-- A READY bit takes its value, and the others stay. -/
theorem isReady_setReady (s : State) (k i : Nat) (b : Bool) : isReady (setReady s k b) i = if k = i then b else isReady s i := by
  unfold isReady
  rw [setReady_ready]
  split
  · next hset =>
    by_cases hki : k = i
    · rw [if_pos hki, ← hki, hset]
    · rw [if_neg hki]
  · exact testBit_putBit _ _ _ _

end Sys2Proof.Proofs.ReadyBits
end

section
/-!
PROOFS. The host's rings, the PCIe link, reads of host memory, and reads and writes through the windows (R436 to R442, R453,
R457 to R462, R620).
-/

namespace Sys2Proof.Proofs.HostRingsAndWindows
open Sys2Proof Sys2Proof.Machine Sys2Proof.Proofs.HostRules Sys2Proof.Proofs.ReadyBits Sys2Proof.Proofs.MailboxProtocol

/-! ### Ring control (R457) -/

section Control
variable {s : State} {tx : Bool} {r : Nat}

/-- A changed ring reads as its change. -/
@[simp] theorem getRing_modRing (s : State) (tx : Bool) (r : Nat) (f : RingCtl → RingCtl) : getRing (modRing s tx r f) tx r = f (getRing s tx r) := by
  cases tx <;> exact tblGet_tblMod_same _ _ _ _

/-- A change of a ring is what it makes of the ring as it stands. -/
theorem modRing_congr {f g : RingCtl → RingCtl} (h : f (getRing s tx r) = g (getRing s tx r)) : modRing s tx r f = modRing s tx r g := by
  cases tx with
  | true => exact congrArg (fun c => { s with host := { s.host with tx := tblSet s.host.tx r c } }) h
  | false => exact congrArg (fun c => { s with host := { s.host with rx := tblSet s.host.rx r c } }) h

theorem modRing_frame (s : State) (tx : Bool) (r : Nat) (f : RingCtl → RingCtl) : modRing s tx r f = { s with host := (modRing s tx r f).host } := by
  cases tx <;> rfl

/-- A stopped ring starts with its indices 0. -/
theorem ringStart_stopped {c : RingCtl} {log2 units : Nat} (hstopped : c.enabled = false) (hlow : 6 ≤ log2) (hhigh : log2 ≤ 16) :
    ringStart c log2 units = { c with log2 := log2, slotUnits := units, enabled := true, head := 0, tail := 0, dropsBefore := 0 } := by
  simp [ringStart, hstopped, hlow, hhigh]

end Control

/-! ### Error records (R461) -/

section ErrorRing
variable {s : State}

/-- ERROR_RECORD_DELIVER moves the oldest record to the host ring. -/
theorem exec_errorRecordDeliver {r : ErrRecord} {l : List ErrRecord} (henabled : s.host.err.enabled = true) (hdma : isReady s 22 = true)
    (hroom : ringFull s.host.err = false) (hmirror : s.host.err.mirror = 0) (hring : s.fault.ring = r :: l) :
    exec .errorRecordDeliver s = .next (raiseInt { s with
      fault := { s.fault with ring := l }
      host := { s.host with
        mem := memWrite s.host.mem (s.host.err.base + 32 * (s.host.err.head % 2 ^ s.host.err.log2)) (recordBytes r)
        err := { s.host.err with head := (s.host.err.head + 1) % 2 ^ s.host.err.log2 }
        counters := cntAdd s.host.counters 0x50 1 } } 24) := by
  have hgo : ¬(s.host.err.enabled = false ∨ isReady s 22 = false ∨ ringFull s.host.err = true) := by simp [henabled, hdma, hroom]
  refine congrArg Host.Outcome.next ((if_neg hgo).trans ?_)
  simp only [ringTake, hring, mirrorIndex, hmirror, if_true, ringEntries, hostWrite, hostCount]

/-- ERROR_RECORD_DELIVER without a ring that takes a record. -/
theorem exec_errorRecordDeliver_idle (h : s.host.err.enabled = false ∨ isReady s 22 = false ∨ ringFull s.host.err = true) :
    exec .errorRecordDeliver s = .next s := congrArg Host.Outcome.next (if_pos h)

end ErrorRing

/-! ### The PCIe link (R436, R438) -/

section Link
variable {s : State}

/-- Signals that wait change the pending bits and the outputs. -/
theorem flushVectors_frame (s : State) : flushVectors s = { s with host := { s.host with pba := (flushVectors s).host.pba }, out := (flushVectors s).out } := by
  refine List.foldlRecOn (motive := fun (t : State) => t = { s with host := { s.host with pba := t.host.pba }, out := t.out }) _ _ rfl fun t ht n _ => ?_
  split
  · rw [signalVector_frame, signalVector_host, ht]
  · exact ht

/-- READY.PCIE_DMA follows the link, Bus Master Enable and the processor die. -/
theorem isReady_refreshDma (s : State) : isReady (refreshDma s) 22 = (s.host.linkUp && s.host.busMaster && s.power.dieOut) := by
  unfold refreshDma
  rw [flushVectors_frame]
  exact (isReady_setReady s 22 22 _).trans (if_pos rfl)

/-- READY.PCIE_DMA leaves Hawk's interface but for its waits, causes and pending bits. -/
theorem refreshDma_host (s : State) : (refreshDma s).host = { s.host with
    readyChanged := (refreshDma s).host.readyChanged, intStatus := (refreshDma s).host.intStatus, pba := (refreshDma s).host.pba
    mailboxes := (refreshDma s).host.mailboxes } := by
  have hready (b : Bool) : (setReady s 22 b).host = { s.host with
      readyChanged := (setReady s 22 b).host.readyChanged, intStatus := (setReady s 22 b).host.intStatus, pba := (setReady s 22 b).host.pba
      mailboxes := (setReady s 22 b).host.mailboxes } := by
    unfold setReady
    split
    · rfl
    · unfold settleWaits
      dsimp only
      rw [raiseInt_host]
  unfold refreshDma
  rw [flushVectors_frame, hready]

/-- A ring as PCIE_HOT_RESET leaves it. -/
def ringStopped (c : RingCtl) : RingCtl := { c with enabled := false, head := 0, tail := 0, dropsBefore := 0 }

/-- Every ring of a table of stopped rings is stopped. -/
theorem tblGet_ringStopped (m : Table RingCtl) (r : Nat) :
    (tblGet {} (m.map fun e => (e.1, ringStopped e.2)) r).enabled = false ∧ (tblGet {} (m.map fun e => (e.1, ringStopped e.2)) r).head = 0 ∧
    (tblGet {} (m.map fun e => (e.1, ringStopped e.2)) r).tail = 0 := by
  induction m with
  | nil => exact ⟨rfl, rfl, rfl⟩
  | cons e m ih =>
    rw [List.map_cons, tblGet, tblFind]
    split
    · exact ⟨rfl, rfl, rfl⟩
    · exact ih

/-- What PCIE_HOT_RESET makes of a state whose transmit descriptors are dropped. -/
def linkReset (s : State) : State :=
  refreshDma { s with host := { s.host with
    busMaster := false, linkUp := false
    rx := s.host.rx.map (fun e => (e.1, ringStopped e.2)), tx := s.host.tx.map (fun e => (e.1, ringStopped e.2)), err := ringStopped s.host.err } }

/-- The link, Bus Master Enable and every ring after a reset. -/
theorem linkReset_stopped (s : State) : (linkReset s).host.linkUp = false ∧ (linkReset s).host.busMaster = false ∧ isReady (linkReset s) 22 = false ∧
    (linkReset s).host.err.enabled = false ∧ ∀ tx, ∀ r < 8, (getRing (linkReset s) tx r).enabled = false ∧ (getRing (linkReset s) tx r).head = 0 ∧
      (getRing (linkReset s) tx r).tail = 0 := by
  unfold linkReset
  refine ⟨by rw [refreshDma_host], by rw [refreshDma_host], by rw [isReady_refreshDma]; rfl, by rw [refreshDma_host]; rfl, fun tx r _ => ?_⟩
  rw [getRing, refreshDma_host]
  cases tx with
  | true => exact tblGet_ringStopped _ r
  | false => exact tblGet_ringStopped _ r

/-- PCIE_HOT_RESET drops the descriptors that wait and resets the link. -/
theorem exec_pcieHotReset (s : State) : exec .pcieHotReset s = .next (linkReset ((List.range 8).foldl dropTxPending s)) := by
  show execPcieHotReset s = _
  unfold execPcieHotReset linkReset
  generalize (List.range 8).foldl dropTxPending s = u
  rfl

/-- CONFIGURATION_SPACE_WRITE while the link is up. -/
theorem isReady_busMaster {b : Bool} (hlink : s.host.linkUp = true) :
    isReady (refreshDma { s with host := { s.host with busMaster := b } }) 22 = (b && s.power.dieOut) := by
  rw [isReady_refreshDma]
  simp [hlink]

end Link

/-! ### Received copies (R458) -/

section Copies
variable {s u : State} {c : RingCopy} {l : List RingCopy} (hcopies : s.egress.copies = c :: l) (hu : u = { s with egress := { s.egress with copies := l } })
include hcopies hu

/-- A copy for a running Hawk ends there. -/
theorem exec_ringCopyWrite_hawk (hring : c.ring = 15) (hhawk : s.host.hawkState = 1) : exec .ringCopyWrite s = .next (endCopy u c) := by
  subst hu
  show execRingCopyWrite s = _
  simp only [execRingCopyWrite, hcopies, hring, if_true, hhawk]

/-- A copy for a stopped ring is dropped and counted. -/
theorem exec_ringCopyWrite_stopped (hring : c.ring < 8) (hstopped : (getRing s false c.ring).enabled = false) : exec .ringCopyWrite s =
    .next (dropCopy (rxCnt (modRing u false c.ring (fun x => { x with dropsBefore := Nat.min 0xFFFFFFFF (x.dropsBefore + 1) })) c.ring 0x08 1) c) := by
  have htakes : rxTakes u c.ring = false := by
    subst hu
    exact (congrArg (· && !ringFull (getRing s false c.ring) && isReady s 22) hstopped).trans rfl
  subst hu
  show execRingCopyWrite s = _
  simp only [execRingCopyWrite, hcopies, if_neg (show c.ring ≠ 15 by omega), if_neg (Nat.not_le.mpr hring), htakes, if_true, satTo_eq_min]

/-- A copy for a ring with room is written there. -/
theorem exec_ringCopyWrite_written {d : Bytes} {w : State} (hring : c.ring < 8) (hruns : (getRing s false c.ring).enabled = true)
    (hroom : ringFull (getRing s false c.ring) = false) (hdma : isReady s 22 = true)
    (hread : hbmRead u 5 1 (bufAddr u c.handle + c.start) c.len = (none, d, w)) :
    exec .ringCopyWrite s = .next (endCopy (rxWrite w c.ring c (c.bytes.getD d)) c) := by
  have htakes : rxTakes u c.ring = true := by
    subst hu
    show ((getRing s false c.ring).enabled && !ringFull (getRing s false c.ring) && isReady s 22) = true
    rw [hruns, hroom, hdma]
    rfl
  subst hu
  show execRingCopyWrite s = _
  simp only [execRingCopyWrite, hcopies, if_neg (show c.ring ≠ 15 by omega), if_neg (Nat.not_le.mpr hring), htakes, Bool.true_eq_false, if_false, hread]

end Copies

/-! ### Transmit descriptors (R441, R459, R460) -/

section Transmit
variable {s u : State} {r : Fin 8} {desc d : Bytes} {h : Nat}

/-- A descriptor whose buffer is granted holds it. -/
theorem txAlloc_granted {r : Nat} (hgrant : hodAlloc s ((txOwner s r).getD 0) (headroom s.plan.now + txLen d) = (.granted h, u)) :
    txAlloc s r d = { u with host := { u.host with txPending := tblSet u.host.txPending r { desc := d, handle := some h } } } := by
  simp only [txAlloc, hgrant]

/-- TX_DESCRIPTOR of a descriptor that fails a check. -/
theorem exec_txDescriptor_refused {st : Nat} (havail : txAvailable s r.val = true) (hcheck : txCheck s r.val (slice desc 0 32) = some st) :
    exec (.txDescriptor r desc) s = .next (txEnd s r.val st (slice desc 0 32)) := by
  show execTxDescriptor r desc s = _
  simp only [execTxDescriptor, havail, Bool.true_eq_false, if_false, hcheck]

/-- TX_DESCRIPTOR of a descriptor that passes takes a buffer. -/
theorem exec_txDescriptor_granted (havail : txAvailable s r.val = true) (hcheck : txCheck s r.val (slice desc 0 32) = none)
    (hgrant : hodAlloc s ((txOwner s r.val).getD 0) (headroom s.plan.now + txLen (slice desc 0 32)) = (.granted h, u)) :
    exec (.txDescriptor r desc) s =
      .next { u with host := { u.host with txPending := tblSet u.host.txPending r.val { desc := slice desc 0 32, handle := some h } } } := by
  show execTxDescriptor r desc s = _
  simp only [execTxDescriptor, havail, Bool.true_eq_false, if_false, hcheck, txAlloc_granted hgrant]

/-- TX_DESCRIPTOR_RETRY asks again. -/
theorem exec_txDescriptorRetry (hwaits : tblFind s.host.txPending r.val = some { desc := d, handle := none }) (hdma : isReady s 22 = true)
    (hgrant : hodAlloc s ((txOwner s r.val).getD 0) (headroom s.plan.now + txLen d) = (.granted h, u)) : exec (.txDescriptorRetry r) s =
      .next { u with host := { u.host with txPending := tblSet u.host.txPending r.val { desc := d, handle := some h } } } := by
  show execTxDescriptorRetry r s = _
  simp only [execTxDescriptorRetry, hwaits, hdma, if_true, txAlloc_granted hgrant]

section Held
variable (hheld : tblFind s.host.txPending r.val = some { desc := d, handle := some h }) (hdma : isReady s 22 = true)
include hheld hdma

/-- TX_FRAME_ACCEPT of a PORT frame puts it into the admission FIFO. -/
theorem exec_txFrameAccept_port {f : Bytes} (hkind : txKind d = 1) (hroom : s.egress.fifo.length < fifoCapacity)
    (hslot : findEntry s s.now (64 + r.val) = none) : ∃ u, u = hbmPut s 5 1 (bufAddr s h + headroom s.plan.now) (slice f 0 (txLen d)) ∧
      exec (.txFrameAccept r f) s = .next (txEnd { u with egress := { u.egress with fifo := u.egress.fifo ++
        [{ desc := txEgress u h d, epoch := u.plan.epoch, tick := u.now, domain := (getWord u h).domain }] } } r.val stOk d) := by
  have hgo : ¬(isReady s 22 = false ∨ txKind d = 1 ∧ fifoCapacity ≤ s.egress.fifo.length) := by
    rw [hdma]
    exact fun h => h.elim Bool.noConfusion fun h => absurd h.2 (Nat.not_le.mpr hroom)
  refine ⟨_, rfl, ?_⟩
  show execTxFrameAccept r f s = _
  simp only [execTxFrameAccept, hheld]
  rw [if_neg hgo]
  simp only [hslot, Option.isSome_none, Bool.false_eq_true, if_false, hkind, Nat.one_ne_zero]
  rfl

/-- DMA_READ_TIMEOUT of a frame's read ends its descriptor and frees its buffer. -/
theorem exec_dmaReadTimeout_txRing : exec (.dmaReadTimeout (.txRing r)) s = .next (txEnd (unitRelease (hostCount s 0x38 1) h 31 0) r.val eTimeout d) := by
  show execDmaReadTimeout (.txRing r) s = _
  simp only [execDmaReadTimeout, hheld, hdma, if_true]

end Held

end Transmit

/-! ### THREAD_NOTIFY and COUNTER_READ (R453) -/

section Commands
variable {s : State} {mb : MbId}

theorem exec_threadNotify_bound {n : BitVec 16} (hbound : poolOf s.plan.now n.toNat ≠ none) :
    exec (.threadNotify mb n) s = .next (reply (setFlag s n.toNat 15) mb.val stOk) :=
  congrArg Host.Outcome.next (if_neg (mt Option.isNone_iff_eq_none.mp hbound))

theorem exec_threadNotify_unbound {n : BitVec 16} (hbound : poolOf s.plan.now n.toNat = none) :
    exec (.threadNotify mb n) s = .next (reply s mb.val eArgs) :=
  congrArg Host.Outcome.next (if_pos (Option.isNone_iff_eq_none.mpr hbound))

section CounterRead
variable {a : BitVec 64} {n : BitVec 32} (hlow : 1 ≤ n.toNat) (hhigh : n.toNat ≤ 62)
include hlow hhigh

/-- COUNTER_READ into the result passes its first check. -/
theorem exec_counterRead_direct : exec (.counterRead mb a n none) s = .next (
    if a.toNat % 8 ≠ 0 ∨ a.toNat < 0x1300000000 ∨ 0x130FFFFFFF < a.toNat + 8 * n.toNat - 1 then reply s mb.val eRange
    else replyBulk s mb.val none ((List.range n.toNat).flatMap (fun i => toLE 8 (controlWord s (a.toNat - 0x1300000000 + 8 * i))))) := by
  have hargs : ¬(n.toNat < 1 ∨ 62 < n.toNat) := by omega
  exact congrArg Host.Outcome.next (if_neg hargs)

/-- COUNTER_READ of words of the control registers. -/
theorem exec_counterRead_words (haligned : a.toNat % 8 = 0) (hfrom : 0x1300000000 ≤ a.toNat) (hto : a.toNat + 8 * n.toNat ≤ 0x1310000000) :
    ∃ d, exec (.counterRead mb a n none) s = .next (reply s mb.val stOk d) ∧ d.length = 8 * n.toNat := by
  have hrange : ¬(a.toNat % 8 ≠ 0 ∨ a.toNat < 0x1300000000 ∨ 0x130FFFFFFF < a.toNat + 8 * n.toNat - 1) := by omega
  rw [exec_counterRead_direct hlow hhigh, if_neg hrange]
  refine ⟨_, rfl, ?_⟩
  simp [List.length_flatMap, Nat.mul_comm]

/-- COUNTER_READ outside the control registers is E_RANGE. -/
theorem exec_counterRead_range (hbad : a.toNat % 8 ≠ 0 ∨ a.toNat < 0x1300000000) : exec (.counterRead mb a n none) s = .next (reply s mb.val eRange) :=
  (exec_counterRead_direct hlow hhigh).trans (congrArg Host.Outcome.next (if_pos (or_assoc.mp (.inl hbad))))

end CounterRead

end Commands

/-! ### Reads and writes through the windows (R440, R442, R620) -/

section Windows
variable {s u : State} {mb : MbId} {d : Bytes}

/-- A read that succeeds. -/
theorem localRead_whole {src a n : Nat} (hread : directRead s 5 src a n = (none, d, u)) : localRead s src a n = (none, d, u) := by
  simp only [localRead, hread]

section Bar2
variable {off : BitVec 26}

/-- Lockdown refuses every access of BAR2. -/
theorem bar2Check_lockdown {off n : Nat} {w : Bool} (hlock : s.kept.lockdown = true) : bar2Check s off n w = some (eRights, bar2Addr s off) := by
  simp only [bar2Check, hlock, if_true]

theorem exec_bar2Read_refused {n st b : Nat} (hlow : 0 < n) (hhigh : n ≤ 4096) (hcheck : bar2Check s off.toNat n false = some (st, b)) :
    exec (.bar2Read off n) s = .next (bar2Answer s st b n []) := by
  have hmin : Nat.min n 4096 = n := Nat.min_eq_left hhigh
  show execBar2Read off n s = _
  simp only [execBar2Read, hmin, if_neg hlow.ne', hcheck]

theorem exec_bar2Read_here {n : Nat} (hlow : 0 < n) (hhigh : n ≤ 4096) (hcheck : bar2Check s off.toNat n false = none)
    (hhere : ∀ k lo hi, regionOf (bar2Addr s off.toNat) ≠ some (.span k, lo, hi)) (hread : directRead s 5 0 (bar2Addr s off.toNat) n = (none, d, u)) :
    exec (.bar2Read off n) s = .next { u with host := { u.host with readData := slice d 0 n } } := by
  have hmin : Nat.min n 4096 = n := Nat.min_eq_left hhigh
  have hlocal := localRead_whole hread
  show execBar2Read off n s = _
  unfold execBar2Read
  extract_lets +onlyGivenNames a m
  rw [show m = n from hmin]
  generalize bar2Check s off.toNat n false = check at hcheck ⊢
  rw [show bar2Addr s off.toNat = a from rfl] at hhere hlocal
  generalize regionOf a = region at hhere ⊢
  generalize localRead s 0 a n = r at hlocal ⊢
  as_aux_lemma =>
    subst hcheck hlocal
    dsimp only
    rw [if_neg hlow.ne']
    split
    · next k lo hi => exact absurd rfl (hhere k lo hi)
    · rfl

theorem exec_bar2Write_refused {st b : Nat} (hdata : d ≠ []) (hcheck : bar2Check s off.toNat d.length true = some (st, b)) :
    exec (.bar2Write off d) s = .next (winFault s st b) := by
  show execBar2Write off d s = _
  simp only [execBar2Write, if_neg hdata, hcheck]

theorem exec_bar2Write_here (hdata : d ≠ []) (hcheck : bar2Check s off.toNat d.length true = none)
    (hhere : ∀ k lo hi, regionOf (bar2Addr s off.toNat) ≠ some (.span k, lo, hi)) (hwrite : directWrite s 5 0 (bar2Addr s off.toNat) d = (none, u)) :
    exec (.bar2Write off d) s = .next u := by
  show execBar2Write off d s = _
  unfold execBar2Write
  extract_lets +onlyGivenNames a
  generalize bar2Check s off.toNat d.length true = check at hcheck ⊢
  rw [show bar2Addr s off.toNat = a from rfl] at hhere hwrite
  generalize regionOf a = region at hhere ⊢
  generalize directWrite s 5 0 a d = r at hwrite ⊢
  as_aux_lemma =>
    subst hcheck hwrite
    dsimp only
    rw [if_neg hdata]
    split
    · next k lo hi => exact absurd rfl (hhere k lo hi)
    · rfl

end Bar2

section MemRead
variable {a i : BitVec 64} {n : BitVec 32} (hlow : 0 < n.toNat) (hhigh : n.toNat ≤ 4194304)
include hlow hhigh

/-- MEM_READ of a range that fails its checks answers the first forbidden byte. -/
theorem exec_memRead_refused {st b : Nat} (hcheck : rangeCheck s a.toNat n.toNat false = some (st, b)) :
    exec (.memRead mb a n (some i)) s = .next (reply s mb.val st (toLE 8 b)) := by
  have hargs : ¬(n.toNat = 0 ∨ 4194304 < n.toNat ∨ (some i).isNone = true) := by
    simp only [Option.isNone_some, Bool.false_eq_true, or_false]
    omega
  refine congrArg Host.Outcome.next ((if_neg hargs).trans ?_)
  rw [hcheck]

/-- MEM_READ in this device delivers its bytes. -/
theorem exec_memRead_here (hcheck : rangeCheck s a.toNat n.toNat false = none) (hready : memNotReady s a.toNat = false)
    (hhere : ∀ k lo hi, regionOf a.toNat ≠ some (.span k, lo, hi)) (hread : directRead s 5 2 a.toNat n.toNat = (none, d, u)) :
    exec (.memRead mb a n (some i)) s = .next (replyBulk u mb.val (some i) d) := by
  have hargs : ¬(n.toNat = 0 ∨ 4194304 < n.toNat ∨ (some i).isNone = true) := by
    simp only [Option.isNone_some, Bool.false_eq_true, or_false]
    omega
  have hlocal := localRead_whole hread
  refine congrArg Host.Outcome.next ((if_neg hargs).trans ?_)
  generalize rangeCheck s a.toNat n.toNat false = check at hcheck ⊢
  generalize memNotReady s a.toNat = wait at hready ⊢
  generalize regionOf a.toNat = region at hhere ⊢
  generalize localRead s 2 a.toNat n.toNat = r at hlocal ⊢
  as_aux_lemma =>
    subst hcheck hlocal hready
    dsimp only
    rw [if_neg Bool.false_ne_true]
    split
    · next k lo hi => exact absurd rfl (hhere k lo hi)
    · simp [memReadDone]

end MemRead

section MemWrite
variable {a : BitVec 64} {n : BitVec 32} (hlow : 0 < n.toNat) (hhigh : n.toNat ≤ 4194304) (hdma : isReady s 22 = true)
include hlow hhigh hdma

/-- MEM_WRITE in this device writes its payload. -/
theorem exec_memWrite_here {w : State} (hlen : d.length = n.toNat) (hu : u = hostCount s 0x30 n.toNat) (hcheck : rangeCheck u a.toNat n.toNat true = none)
    (hready : memNotReady u a.toNat = false) (hhere : ∀ k lo hi, regionOf a.toNat ≠ some (.span k, lo, hi))
    (hwrite : directWrite u 5 2 a.toNat d = (none, w)) : exec (.memWrite mb a n (some d)) s =
      .next (modMb (reply w mb.val stOk) mb.val (fun m => { m with reply := m.reply.map (fun r => { r with indDone := n.toNat }) })) := by
  have hargs : ¬(n.toNat = 0 ∨ 4194304 < n.toNat) := by omega
  have hwhole : slice d 0 n.toNat = d := by simp [slice, ← hlen]
  refine congrArg Host.Outcome.next ((if_neg hargs).trans ((if_neg (by rw [hdma]; exact Bool.noConfusion)).trans ?_))
  refine congrArg (fun x => modMb x mb.val (fun m => { m with reply := m.reply.map (fun r => { r with indDone := n.toNat }) })) ?_
  rw [hwhole, ← hu]
  beta_reduce
  extract_lets +onlyGivenNames from_
  rw [← hlen] at hcheck
  rw [show a.toNat = from_ from rfl] at hcheck hready hhere hwrite
  generalize rangeCheck u from_ d.length true = check at hcheck ⊢
  generalize memNotReady u from_ = wait at hready ⊢
  generalize regionOf from_ = region at hhere ⊢
  generalize directWrite u 5 2 from_ d = r at hwrite ⊢
  as_aux_lemma =>
    subst hcheck hwrite hready
    dsimp only
    rw [if_neg Bool.false_ne_true]
    split
    · next k lo hi => exact absurd rfl (hhere k lo hi)
    · rfl

/-- MEM_WRITE whose payload cannot be read ends with E_TIMEOUT. -/
theorem exec_memWrite_timeout : exec (.memWrite mb a n none) s = .next (reply (hostCount s 0x38 1) mb.val eTimeout) := by
  have hargs : ¬(n.toNat = 0 ∨ 4194304 < n.toNat) := by omega
  exact congrArg Host.Outcome.next ((if_neg hargs).trans (congrArg (fun x => reply x mb.val eTimeout) (if_pos hdma)))

end MemWrite

end Windows

/-- Settles O52: each clause is the lemma of its event, register or command. -/
theorem hostRings : Obligations.HostRings := by
  refine fun s => ⟨fun tx r l u hstopped hlow hhigh => ?enable, fun tx r l u hruns => ?enabled,
    fun tx r => ⟨_, rfl, by rw [getRing_modRing], ?disable⟩, fun r h => rfl, fun l hruns => ?errOff, fun l hstopped hlow hhigh => ?errOn,
    fun r l => exec_errorRecordDeliver, exec_errorRecordDeliver_idle, ⟨_, exec_pcieHotReset s, linkReset_stopped _⟩,
    fun hup => congrArg Host.Outcome.next (if_pos hup), fun hdown => congrArg Host.Outcome.next (if_neg (Bool.eq_false_iff.mp hdown)),
    fun b hup => ⟨congrArg Host.Outcome.next (if_pos hup), isReady_busMaster hup⟩,
    fun b hdown => congrArg Host.Outcome.next (if_neg (Bool.eq_false_iff.mp hdown)),
    fun c l hcopies => ⟨exec_ringCopyWrite_hawk hcopies rfl, exec_ringCopyWrite_stopped hcopies rfl, fun d w => exec_ringCopyWrite_written hcopies rfl⟩,
    fun hnone => ?noCopy, fun r desc => ⟨fun havail => congrArg Host.Outcome.next (if_pos havail), fun st => exec_txDescriptor_refused,
      fun h u => exec_txDescriptor_granted⟩,
    fun r d h u => exec_txDescriptorRetry, fun r d h f hheld hdma => exec_txFrameAccept_port hheld hdma, fun r d h => exec_dmaReadTimeout_txRing,
    fun mb n => ⟨exec_threadNotify_bound, exec_threadNotify_unbound⟩,
    fun mb a n hlow hhigh => ⟨exec_counterRead_words hlow hhigh, exec_counterRead_range hlow hhigh⟩,
    fun off n hlow hhigh => ⟨fun hlock => exec_bar2Read_refused hlow hhigh (bar2Check_lockdown hlock),
      fun d x u hcheck hhere hread hx => hx ▸ exec_bar2Read_here hlow hhigh hcheck hhere hread⟩,
    fun off d hdata => ⟨fun hlock => exec_bar2Write_refused hdata (bar2Check_lockdown hlock), fun u => exec_bar2Write_here hdata⟩,
    fun mb a i n hlow hhigh => ⟨fun st b => exec_memRead_refused hlow hhigh, fun d u => exec_memRead_here hlow hhigh,
      congrArg Host.Outcome.next (if_pos (.inr (.inr rfl)))⟩,
    fun mb a n hlow hhigh hdma => ⟨fun d w hlen => exec_memWrite_here hlow hhigh hdma hlen rfl, exec_memWrite_timeout hlow hhigh hdma⟩⟩
  case enable =>
    exact ⟨_, rfl, (getRing_modRing s tx r.val _).trans (ringStart_stopped hstopped hlow hhigh), modRing_frame s tx r.val _⟩
  case enabled => exact congrArg Host.Outcome.next (modRing_congr (if_pos hruns))
  case disable =>
    rintro rfl
    rfl
  case errOff => exact congrArg (fun c => Host.Outcome.next { s with host := { s.host with err := c } }) (if_pos hruns)
  case errOn => exact congrArg (fun c => Host.Outcome.next { s with host := { s.host with err := c } }) (ringStart_stopped hstopped hlow hhigh)
  case noCopy =>
    show execRingCopyWrite s = _
    simp only [execRingCopyWrite, hnone]

end Sys2Proof.Proofs.HostRingsAndWindows
end

section
/-!
PROOFS. Rules for the span links: what is read of a changed link, the links as READY bits, records, releases and failed reads
leave them, and a link's fields after it takes a state (R468, R473 to R475).
-/

namespace Sys2Proof.Proofs.SpanRules
open Sys2Proof Sys2Proof.Machine Sys2Proof.Proofs.ReadyBits

variable {s t : State} {k : Nat}

/-! ### Reading a changed link -/

@[simp] theorem getSpan_modSpan (s : State) (k : Nat) (f : SpanLink → SpanLink) : getSpan (modSpan s k f) k = f (getSpan s k) :=
  tblGet_tblMod_same _ _ _ _

/-- Links stand in the span unit's state. -/
theorem getSpan_congr (h : t.span.links = s.span.links) (k : Nat) : getSpan t k = getSpan s k := by unfold getSpan; rw [h]

/-- A change counts only by what it makes of the link. -/
theorem modSpan_congr {f g : SpanLink → SpanLink} (h : f (getSpan s k) = g (getSpan s k)) : modSpan s k f = modSpan s k g := by
  unfold modSpan tblMod
  rw [show f (tblGet {} s.span.links k) = g (tblGet {} s.span.links k) from h]

@[simp] theorem getSpan_spanCnt (s : State) (j off n k : Nat) : getSpan (spanCnt s j off n) k = getSpan s k := rfl

@[simp] theorem getSpan_emit (s : State) (o : Output) (k : Nat) : getSpan (emit s o) k = getSpan s k := rfl

@[simp] theorem getSpan_advanceTo (s : State) (tick k : Nat) : getSpan (advanceTo s tick) k = getSpan s k :=
  getSpan_congr (by rw [advanceTo_frame]) k

/-! ### Operations that leave the links -/

@[simp] theorem raiseInt_span (s : State) (n : Nat) : (raiseInt s n).span = s.span := by rw [raiseInt_frame]

@[simp] theorem setReady_span (s : State) (i : Nat) (b : Bool) : (setReady s i b).span = s.span := by rw [setReady_frame]

@[simp] theorem record_span (s : State) (sev cls code : Nat) (l : Loc) (d : Bytes) (i : Bool) : (record s sev cls code l d i).span = s.span := by
  rw [record_frame]

@[simp] theorem getSpan_setReady (s : State) (i : Nat) (b : Bool) (k : Nat) : getSpan (setReady s i b) k = getSpan s k :=
  getSpan_congr (by rw [setReady_span]) k

@[simp] theorem getSpan_record (s : State) (sev cls code : Nat) (l : Loc) (d : Bytes) (i : Bool) (k : Nat) :
    getSpan (record s sev cls code l d i) k = getSpan s k := getSpan_congr (by rw [record_span]) k

/-- A record leaves the READY bits. -/
theorem isReady_record (s : State) (sev cls code : Nat) (l : Loc) (d : Bytes) (i : Bool) (n : Nat) :
    isReady (record s sev cls code l d i) n = isReady s n := by
  unfold isReady
  rw [record_frame]

theorem signalVector_withSpan (s : State) (n : Nat) (x : SpanState) :
    signalVector { s with span := x } n = { signalVector s n with span := x } := by
  by_cases hheld : vectorMasked s.host n = true ∨ isReady s 22 = false
  · exact (if_pos hheld).trans (by rw [signalVector, if_pos hheld])
  · exact (if_neg hheld).trans (by rw [signalVector, if_neg hheld])

theorem raiseInt_withSpan (s : State) (n : Nat) (x : SpanState) : raiseInt { s with span := x } n = { raiseInt s n with span := x } := by
  by_cases hraised : s.host.intStatus.testBit n = true
  · simp only [raiseInt, if_pos hraised]
  · by_cases henabled : s.host.intEnable.testBit n = true
    · simp only [raiseInt, if_neg hraised, if_pos henabled]
      exact signalVector_withSpan { s with host := { s.host with intStatus := setBit s.host.intStatus n } } n x
    · simp only [raiseInt, if_neg hraised, if_neg henabled]

/-- A READY bit and a change of the span unit's state do not meet. -/
theorem setReady_withSpan (s : State) (i : Nat) (b : Bool) (x : SpanState) :
    setReady { s with span := x } i b = { setReady s i b with span := x } := by
  by_cases hbit : s.ready.testBit i = b
  · rw [setReady, setReady, if_pos hbit, if_pos hbit]
  · rw [setReady, setReady, if_neg hbit, if_neg hbit]
    exact congrArg settleWaits (raiseInt_withSpan { s with
      ready := putBit s.ready i b, host := { s.host with readyChanged := setBit s.host.readyChanged i } } 25 x)

theorem setReady_modSpan (s : State) (i : Nat) (b : Bool) (k : Nat) (f : SpanLink → SpanLink) :
    setReady (modSpan s k f) i b = modSpan (setReady s i b) k f := by
  rw [modSpan, setReady_withSpan, modSpan, setReady_span]

/-! ### Releases of packet buffers leave the links -/

/-- A DEVICE restart's trigger is kept by the fault manager. -/
theorem decideDevice_span (s : State) (cls code loc : Nat) : (decideDevice s cls code loc).span = s.span := by
  unfold decideDevice
  split <;> rfl

/-- An S4 error is recorded, and its DEVICE restart decided. -/
theorem errorIn_critical_span (s : State) (cls code : Nat) (l : Loc) (d : Bytes) (i : Bool) : (errorIn s 4 cls code l d i).span = s.span := by
  have hhandle (x : State) : (handleError x 4 cls code l).span = x.span := by
    unfold handleError
    simp only [Nat.reduceLT, if_false, if_true]
    split
    · rw [decideDevice_span]
      exact record_span _ _ _ _ _ _ _
    · exact decideDevice_span _ _ _ _
  simp only [errorIn, Nat.reduceEqDiff, false_and, if_false]
  rw [hhandle, record_span]

theorem hodTouch_span (s : State) (p w : Nat) : (hodTouch s p w).span = s.span := by
  unfold hodTouch dupTouch
  dsimp only
  split
  · rfl
  · rw [apply_ite State.span, errorIn_critical_span, record_span]
    exact ite_self _

theorem stateTouch_span (s : State) (h : Nat) : (stateTouch s h).span = s.span := by
  unfold stateTouch
  dsimp only
  split
  · rfl
  · exact record_span _ _ _ _ _ _ _

theorem refReject_span (s : State) (h : Nat) (r : Requester) (x : RefReject) : (refReject s h r x).span = s.span := by
  unfold refReject
  dsimp only
  split
  · rw [record_span]
    split <;> rfl
  · split <;> rfl

theorem bufFree_span (s : State) (h : Nat) : (bufFree s h).span = s.span := by
  unfold bufFree
  dsimp only
  split
  · split <;> exact hodTouch_span _ _ _
  · split
    · exact (hodTouch_span _ _ _).trans (hodTouch_span _ _ _)
    · exact hodTouch_span _ _ _

theorem bufDrop_span (s : State) (h : Nat) : (bufDrop s h).span = s.span := by
  unfold bufDrop
  dsimp only
  split
  · rfl
  · split
    · exact bufFree_span _ _
    · rfl

/-- A unit's release of a handle leaves the links. -/
@[simp] theorem unitRelease_span (s : State) (h l5 l4 : Nat) : (unitRelease s h l5 l4).span = s.span := by
  unfold unitRelease hodRelease unitReq
  dsimp only
  split
  · rfl
  · split
    · rw [refReject_span]
      split <;> exact stateTouch_span _ _
    · rw [bufDrop_span]
      exact stateTouch_span _ _

/-! ### The end of a link's open state (R475) -/

/-- The end of a transfer leaves the links. -/
theorem xferDone_links (s : State) (x : Xfer) (st first : Nat) : (xferDone s x st first).span.links = s.span.links := by
  unfold xferDone
  dsimp only
  split
  · unfold bar2Answer winFault
    split
    · rfl
    · dsimp only
      rw [raiseInt_span]
      split <;> rfl
  · unfold memReadDone replyBulk
    split
    · split
      · rfl
      · split <;> rfl
    · split
      · rfl
      · split <;> rfl

/-- A read that fails leaves the links. -/
theorem readFails_links (s : State) (w : SpanWho) : (readFails s w).span.links = s.span.links := by
  cases w with
  | thread tid entry part => rfl
  | xfer id =>
    unfold readFails
    dsimp only
    split
    · exact xferDone_links _ _ _ _
    · rfl
  | nobody => rfl

theorem foldl_links {α : Type} {f : State → α → State} (h : ∀ x a, (f x a).span.links = x.span.links) (l : List α) (s : State) :
    (l.foldl f s).span.links = s.span.links := by
  induction l generalizing s with
  | nil => rfl
  | cons a l ih => rw [List.foldl_cons, ih, h]

theorem startFlushes_span (s : State) : (startFlushes s).span = s.span := by
  unfold startFlushes
  split
  · rfl
  · split <;> rfl

/-- What follows a link's closing leaves its state, its reason and what its peer has violated. -/
theorem spanCleanup_state (s : State) (k : Nat) (down : Bool) : (getSpan (spanCleanup s k down) k).st = (getSpan s k).st ∧
    (getSpan (spanCleanup s k down) k).reason = (getSpan s k).reason ∧ (getSpan (spanCleanup s k down) k).violation = (getSpan s k).violation := by
  have hkept {r : List SpanWho} {p : List AdmitItem} {u : List (Nat × Nat)} : getSpan (u.foldl (fun x e => unitRelease x e.1 28 k)
      (p.foldl (fun x i => unitRelease x (dHandle i.desc) 28 k) (r.foldl readFails s))) k = getSpan s k :=
    getSpan_congr (by
      rw [foldl_links (fun x _ => by rw [unitRelease_span]), foldl_links (fun x _ => by rw [unitRelease_span]), foldl_links readFails_links]) k
  have hflushes (x : State) (f : SpanLink → SpanLink) (y : TableState) : getSpan { modSpan x k f with table := y } k = f (getSpan x k) :=
    getSpan_modSpan x k f
  unfold spanCleanup
  dsimp only
  split
  · rw [getSpan_congr (congrArg SpanState.links (startFlushes_span _)), hflushes, getSpan_spanCnt, hkept]
    exact ⟨rfl, rfl, rfl⟩
  · rw [getSpan_modSpan, getSpan_spanCnt, hkept]
    exact ⟨rfl, rfl, rfl⟩

/-- A link in a state: its state and reason are those, and its peer's violation stays (R468). -/
theorem spanGo_state (s : State) (k st reason : Nat) : (getSpan (spanGo s k st reason) k).st = st ∧ (getSpan (spanGo s k st reason) k).reason = reason ∧
    (getSpan (spanGo s k st reason) k).violation = (getSpan s k).violation := by
  unfold spanGo
  dsimp only
  rw [getSpan_setReady]
  split
  · obtain ⟨hst, hreason, hviolation⟩ := spanCleanup_state (modSpan s k (fun l => { l with st := st, reason := reason, changeNs := recordNs s })) k (decide (st ≤ 1))
    rw [hst, hreason, hviolation, getSpan_modSpan]
    exact ⟨rfl, rfl, rfl⟩
  · rw [getSpan_modSpan]
    exact ⟨rfl, rfl, rfl⟩

/-- READY.SPANk follows JOINED (R468). -/
theorem spanGo_ready (s : State) (k st reason : Nat) : isReady (spanGo s k st reason) (15 + k) = (st == 4) := by
  rw [spanGo, isReady_setReady, spanReady, if_pos rfl]

end Sys2Proof.Proofs.SpanRules
end

section
/-!
PROOFS. The span links' states, STATE messages and time (R468, R472 to R478).
-/

namespace Sys2Proof.Proofs.SpanLinkStates
open Sys2Proof Sys2Proof.Machine Sys2Proof.Proofs.ReadyBits Sys2Proof.Proofs.SpanRules

variable {s u v : State} {k : Fin 3} {at_ r : Nat} {m : Bytes}

/-! ### Lock, STATE and the link going down -/

/-- A training link reaches lock (R468, R472). -/
theorem exec_spanFecLock_training (hst : (getSpan s k.val).st = 1) : ∃ t, exec (.spanFecLock k) s = .next t ∧
    getSpan t k.val = { getSpan s k.val with st := 2, reason := 0, changeNs := recordNs s, credits := fullCredits, lastFlit := s.now
                                             lastState := s.now, stateSentAt := s.now, syncAt := s.now } ∧
    t = setReady { s with span := t.span } (15 + k.val) false := by
  have hgo : spanGo s k.val 2 0 =
      setReady (modSpan s k.val (fun l => { l with st := 2, reason := 0, changeNs := recordNs s })) (15 + k.val) false := by
    rw [spanGo, hst]
    rfl
  refine ⟨_, congrArg Host.Outcome.next (if_neg (not_not_intro hst)), ?_, ?_⟩
  · rw [hgo, getSpan_modSpan, getSpan_setReady, getSpan_modSpan]
  · rw [hgo, ← setReady_modSpan, setReady_span]
    rfl

/-- A link with no credits to return sends no flit that returns some. -/
theorem putFlit_returns (s : State) (k : Nat) (f : Bytes) (h : (getSpan s k).returns = []) : (getSpan (putFlit s k f) k).returns = [] := by
  have hnone : returnVc (getSpan s k) = none := by rw [returnVc, h]; rfl
  unfold putFlit
  dsimp only
  rw [getSpan_emit, getSpan_modSpan, hnone]
  exact h

theorem sendFlit_returns (s : State) (k : Nat) (f : Bytes) (h : (getSpan s k).returns = []) : (getSpan (sendFlit s k f) k).returns = [] := by
  unfold sendFlit
  dsimp only
  split
  · rw [getSpan_modSpan]
    exact h
  · refine putFlit_returns _ _ _ ?_
    rw [getSpan_spanCnt, getSpan_modSpan]
    exact h

theorem sendControl_returns (s : State) (k : Nat) (msg : Bytes) (h : (getSpan s k).returns = []) :
    (getSpan (sendControl s k msg) k).returns = [] := by
  unfold sendControl
  induction flitsOf true 0 msg generalizing s with
  | nil => exact h
  | cons f l ih => exact ih _ (sendFlit_returns s k f h)

/-- Without credits to return no IDLE flit leaves (R470). -/
theorem idleFlits_none (h : (getSpan s k.val).returns = []) :
    (List.range 4).foldl (fun x _ => if (returnVc (getSpan x k.val)).isSome then sendIdle x k.val else x) s = s := by
  have hnone : (returnVc (getSpan s k.val)).isSome = false := by rw [returnVc, h]; rfl
  refine List.foldl_fixed' (fun _ => ?_) _
  rw [hnone]
  rfl

/-- STATE leaves alone where no credits are to be returned (R470, R472). -/
theorem exec_spanStateTx_sent (hopen : 2 ≤ (getSpan s k.val).st) (hreturns : (getSpan s k.val).returns = [])
    (hu : u = advanceTo s ((getSpan s k.val).stateSentAt + 1600)) : exec (.spanStateTx k) s = .next (sendControl (modSpan u k.val (fun x => { x with
      stateSentAt := u.now, sentSeen := x.sentSeen || x.peerSeen })) k.val (stateMsg u k.val)) := by
  subst hu
  refine congrArg Host.Outcome.next ((if_neg (Nat.not_lt.mpr hopen)).trans (idleFlits_none (sendControl_returns _ _ _ ?_)))
  rw [getSpan_modSpan, getSpan_advanceTo]
  exact hreturns

/-- A link that sends nothing yet leaves the state as it is, as the model has it. -/
theorem exec_unlocked (hst : (getSpan s k.val).st < 2) : exec (.spanStateTx k) s = .next s ∧ exec (.timeSyncTx k) s = .next s ∧
    ∀ b, exec (.spanLinkDown k b) s = .next s :=
  ⟨congrArg Host.Outcome.next (if_pos hst), congrArg Host.Outcome.next (if_pos hst), fun _ => congrArg Host.Outcome.next (if_pos (.inl hst))⟩

/-- A received STATE is judged as the peer's last (R472). -/
theorem exec_spanState_judged (hopen : 2 ≤ (getSpan s k.val).st) (htake : takeMsg s k.val 0x01 = some (at_, m, u)) : exec (.spanState k) s =
    .next (spanJudge (modSpan u k.val (fun x => { x with peer := m, peerSeen := true, lastState := u.now })) k.val m) := by
  show Host.Outcome.next (onMsg s k.val 0x01 _) = _
  simp only [onMsg, htake, msgPasses, Nat.reduceLeDiff, true_or, if_true, hopen, decide_true]

theorem onMsg_none {code : Nat} {f : Nat → Bytes → State → State} (htake : takeMsg s k.val code = none) : onMsg s k.val code f = s := by
  rw [onMsg, htake]

/-! ### The judgement of a STATE (R472, R473) -/

section Judged
variable (htime : isReady v 5 = false ∨ ofTime10 (slice m 16 10) = 0)
include htime

/-- Without local time, or without an instant, a STATE is judged at once. -/
theorem instant_not_near : ¬ (devNs v ≤ ofTime10 (slice m 16 10) + 1000 ∧ isReady v 5 = true ∧ ofTime10 (slice m 16 10) ≠ 0) := by
  rintro ⟨-, hready, hinstant⟩
  obtain hclear | hzero := htime
  · rw [hclear] at hready
    cases hready
  · exact hinstant hzero

theorem spanJudge_joining (hst : (getSpan v k.val).st = 2) (hsent : (getSpan v k.val).sentSeen = true) (hseen : (byteAt m 1).testBit 0 = true) :
    spanJudge v k.val m = if joinReason v k.val m = 0 then spanJoin v k.val else spanQuarantine v k.val (joinReason v k.val m) := by
  unfold spanJudge
  dsimp only
  rw [if_neg (fun h => h.2 ⟨hsent, hseen⟩), if_neg (instant_not_near htime), if_pos hst]

theorem spanJudge_joined (hst : (getSpan v k.val).st = 4) (hreason : joinReason v k.val m = 0) : spanJudge v k.val m = v := by
  unfold spanJudge
  dsimp only
  rw [hst, if_neg (by simp), if_neg (instant_not_near htime), if_neg (by simp), if_neg (by simp), if_pos hreason]

end Judged

/-- Until both ends have seen STATE a joining link waits (R472). -/
theorem spanJudge_unseen (hst : (getSpan v k.val).st = 2) (hsent : (getSpan v k.val).sentSeen = false) : spanJudge v k.val m = v :=
  if_pos ⟨hst, fun h => by rw [hsent] at h; cases h.1⟩

/-- All conditions of Table 16-7. -/
theorem joinReason_eq_zero (s : State) (k : Nat) (m : Bytes) : joinReason s k m = 0 ↔ leAt m 4 2 = 0x1C32 ∧ leAt m 8 4 = runningVersion s.svc ∧
    slice m 32 48 = slice (judgedAgainst s (ofTime10 (slice m 16 10))).2 0 48 ∧ leAt m 12 4 = (judgedAgainst s (ofTime10 (slice m 16 10))).1 ∧
    byteAt m 2 = spanPeerId s.plan.now k ∧ byteAt m 3 = 2 - k := by
  unfold joinReason
  dsimp only
  split_ifs <;> grind

/-! ### A link after it takes a state -/

theorem spanQuarantine_state (s : State) (k r : Nat) : (getSpan (spanQuarantine s k r) k).st = 3 ∧ (getSpan (spanQuarantine s k r) k).reason = r ∧
    (getSpan (spanQuarantine s k r) k).violation = (getSpan s k).violation := by
  unfold spanQuarantine
  dsimp only
  rw [getSpan_record, getSpan_spanCnt]
  exact spanGo_state s k 3 r

theorem spanJoin_state (s : State) (k : Nat) : (getSpan (spanJoin s k) k).st = 4 ∧ isReady (spanJoin s k) (15 + k) = true :=
  ⟨(spanGo_state _ k 4 0).1, spanGo_ready _ k 4 0⟩

theorem spanTraining_state (s : State) (k : Nat) : (getSpan (spanTraining s k) k).st = 1 ∧ (getSpan (spanTraining s k) k).replay = [] ∧
    (getSpan (spanTraining s k) k).reads = [] ∧ isReady (spanTraining s k) (15 + k) = false := by
  have hready : isReady (spanTraining s k) (15 + k) = false := spanGo_ready s k 1 0
  unfold spanTraining at hready ⊢
  rw [getSpan_modSpan]
  exact ⟨rfl, rfl, rfl, hready⟩

/-! ### The link goes down (R474) -/

theorem exec_spanLinkDown_down {b : Bool} (hopen : 2 ≤ (getSpan s k.val).st) (hwhy : b = true ∨ (getSpan s k.val).lastFlit + 16000 ≤ s.now ∨
      (getSpan s k.val).lastState + 16000 ≤ s.now ∨ 16 ≤ (getSpan s k.val).replayed) :
    exec (.spanLinkDown k b) s = .next (record (spanCnt (spanTraining s k.val) k.val 0x20 1) 0 0x0D 0x0002 (spanLoc k.val)) := by
  refine congrArg Host.Outcome.next (if_neg ?_)
  rintro (hlow | hnone)
  · exact absurd hopen (Nat.not_le.mpr hlow)
  · simp only [Bool.or_eq_false_iff, decide_eq_false_iff_not] at hnone
    obtain ⟨⟨⟨hb, hflit⟩, hstate⟩, hreplay⟩ := hnone
    rw [hb] at hwhy
    simp [hflit, hstate, hreplay] at hwhy

theorem exec_spanLinkDown_live (hflit : s.now < (getSpan s k.val).lastFlit + 16000) (hstate : s.now < (getSpan s k.val).lastState + 16000)
    (hreplay : (getSpan s k.val).replayed < 16) : exec (.spanLinkDown k false) s = .next s := by
  refine congrArg Host.Outcome.next (if_pos (.inr ?_))
  simp only [Bool.or_eq_false_iff, decide_eq_false_iff_not, Nat.not_le]
  exact ⟨⟨⟨trivial, hflit⟩, hstate⟩, hreplay⟩

/-! ### Time across a link (R476 to R478) -/

theorem exec_timeSyncTx_sent {q : Nat} (hopen : 2 ≤ (getSpan s k.val).st) (hu : u = advanceTo s ((getSpan s k.val).syncAt + 200000))
    (hq : q = ((getSpan s k.val).syncSeq + 1) % 65536) : exec (.timeSyncTx k) s =
    .next (sendControl (modSpan u k.val (fun x => { x with syncSeq := q, syncT1 := devNs u, syncAt := u.now })) k.val
      ([0x02, 0] ++ toLE 2 q ++ time10 (devNs u) ++ zeros 38)) := by
  subst hu hq
  refine congrArg Host.Outcome.next ((if_neg (Nat.not_lt.mpr hopen)).trans ?_)
  dsimp only
  rw [getSpan_advanceTo]

section Synced
variable (hopen : 2 ≤ (getSpan s k.val).st) (htake : takeMsg s k.val 0x02 = some (at_, m, u))
include hopen htake

/-- A request is answered with the times of its receipt and of the answer (R476). -/
theorem exec_timeSync_request (hreq : (byteAt m 1).testBit 0 = false) : exec (.timeSync k) s = .next (sendControl u k.val
    ([0x02, 1] ++ slice m 2 2 ++ slice m 4 10 ++ time10 at_ ++ time10 (devNs u) ++ toLE 4 (toSigned 32 u.time.freqAdj) ++ zeros 14)) := by
  show Host.Outcome.next (onMsg s k.val 0x02 _) = _
  simp only [onMsg, htake, msgPasses, Nat.reduceLeDiff, true_or, if_true, hopen, decide_true, hreq]

theorem exec_timeSync_stale (hreply : (byteAt m 1).testBit 0 = true) (hseq : leAt m 2 2 ≠ (getSpan u k.val).syncSeq) :
    exec (.timeSync k) s = .next u := by
  show Host.Outcome.next (onMsg s k.val 0x02 _) = _
  simp only [onMsg, htake, msgPasses, Nat.reduceLeDiff, true_or, if_true, hopen, decide_true, hreply, Bool.true_eq_false, if_false, if_pos (Or.inl hseq)]

end Synced

/-- Nanoseconds of a signed number of picoseconds, towards zero. -/
theorem nanoseconds_eq (ps : Int) : (if ps < 0 then -((ps.natAbs / 1000 : Nat) : Int) else ((ps.natAbs / 1000 : Nat) : Int)) = ps.tdiv 1000 := by
  obtain ⟨n, rfl | rfl⟩ := ps.eq_nat_or_neg
  · rw [if_neg (Int.not_lt.mpr (Int.natCast_nonneg n)), Int.natAbs_natCast]
    exact Int.ofNat_tdiv n 1000
  · have hquotient : (-(n : Int)).tdiv 1000 = -((n / 1000 : Nat) : Int) := (Int.neg_tdiv _ _).trans (congrArg Neg.neg (Int.ofNat_tdiv n 1000))
    rw [hquotient, Int.natAbs_neg, Int.natAbs_natCast]
    split <;> omega

/-- An offset of at most 100 ns is noted (R477). -/
theorem spanOffset_near {ps f : Int} (hst : (getSpan s k.val).st = 4) (hlead : spanFollow s.plan.now k.val = false)
    (hnear : ps.natAbs ≤ 100000) : spanOffset s k.val ps f = modSpan s k.val (fun x => { x with
    offset := ps.tdiv 1000, offsetMax := Nat.max x.offsetMax (ps.natAbs / 1000), good := x.good + 1 }) := by
  have hmagnitude : (ps.tdiv 1000).natAbs = ps.natAbs / 1000 := Int.natAbs_tdiv ps 1000
  unfold spanOffset
  dsimp only
  rw [nanoseconds_eq, hst, hlead, decide_eq_false (Nat.not_lt.mpr hnear), hmagnitude]
  simp only [Bool.false_eq_true, and_false, if_false, if_true, Nat.reduceEqDiff, false_and]
  exact modSpan_congr rfl

/-- A larger offset puts a joined link into TIME_HOLD (R477). -/
theorem spanOffset_far {ps f : Int} (hst : (getSpan s k.val).st = 4) (hfar : 100000 < ps.natAbs) :
    (getSpan (spanOffset s k.val ps f) k.val).st = 5 ∧ isReady (spanOffset s k.val ps f) (15 + k.val) = false := by
  have hhold (x : State) : (getSpan (record (spanCnt (modSpan (spanGo x k.val 5 0) k.val (fun l => { l with good := 0 })) k.val 0x38 1)
      0 0x0D 0x0003 (spanLoc k.val)) k.val).st = 5 := by
    rw [getSpan_record, getSpan_spanCnt, getSpan_modSpan]
    exact (spanGo_state x k.val 5 0).1
  have hready (x : State) : isReady (record (spanCnt (modSpan (spanGo x k.val 5 0) k.val (fun l => { l with good := 0 })) k.val 0x38 1)
      0 0x0D 0x0003 (spanLoc k.val)) (15 + k.val) = false := by
    rw [isReady_record]
    exact spanGo_ready x k.val 5 0
  unfold spanOffset
  dsimp only
  rw [if_pos ⟨hst, decide_eq_true hfar⟩]
  exact ⟨hhold _, hready _⟩

/-- Settles O53: each event by its lemma above. -/
theorem spanLinks : Obligations.SpanLinks := by
  unfold Obligations.SpanLinks
  intro s k
  refine ⟨exec_spanFecLock_training, fun h => congrArg Host.Outcome.next (if_pos h), fun hopen hreturns => ⟨_, rfl, exec_spanStateTx_sent hopen hreturns rfl⟩,
    exec_unlocked, fun at_ m u hopen htake => ?_, fun htake => congrArg Host.Outcome.next (onMsg_none htake), joinReason_eq_zero s k.val,
    fun r => ⟨(spanQuarantine_state s k.val r).1, (spanQuarantine_state s k.val r).2.1⟩, spanJoin_state s k.val, spanTraining_state s k.val,
    fun _ hopen hwhy => exec_spanLinkDown_down hopen hwhy, exec_spanLinkDown_live, fun hopen => ⟨_, _, rfl, rfl, exec_timeSyncTx_sent hopen rfl rfl⟩,
    fun at_ m u hopen htake => ⟨exec_timeSync_request hopen htake, exec_timeSync_stale hopen htake⟩,
    fun ps f hst hlead => ⟨spanOffset_near hst hlead, spanOffset_far hst⟩⟩
  refine ⟨_, rfl, fun hst hsent hseen htime => ⟨fun hall => ?_, fun r hr hne => ?_⟩, fun hst hsent => ?_, fun hst htime hall => ?_⟩
  · rw [exec_spanState_judged hopen htake, spanJudge_joining htime hst hsent hseen, if_pos hall]
  · rw [exec_spanState_judged hopen htake, spanJudge_joining htime hst hsent hseen, hr, if_neg hne]
  · rw [exec_spanState_judged hopen htake, spanJudge_unseen hst hsent]
  · rw [exec_spanState_judged hopen htake, spanJudge_joined htime hst hall]

end Sys2Proof.Proofs.SpanLinkStates
end

section
/-!
PROOFS. The span links' flits, window requests, learning messages, packets and commands (R469 to R471, R479 to R488).
-/

namespace Sys2Proof.Proofs.SpanTraffic
open Sys2Proof Sys2Proof.Machine Sys2Proof.Proofs.DeviceTime Sys2Proof.Proofs.ReadyBits Sys2Proof.Proofs.SpanRules Sys2Proof.Proofs.SpanLinkStates

variable {s u v w : State} {k : Fin 3} {at_ : Nat} {f m d : Bytes}

/-! ### Flits (R469, R470) -/

/-- A slice of the whole length is the whole. -/
theorem slice_whole {b : Bytes} {n : Nat} (h : b.length = n) : slice b 0 n = b := by
  subst h
  simp [slice]

theorem ackTo_nothing (h : (getSpan s k.val).replay = []) (a : Nat) : ackTo s k.val a = s := by
  unfold ackTo
  dsimp only
  rw [h]
  rfl

theorem exec_flitRx_none {b : Bool} (h : (getSpan s k.val).st < 2 ∨ f.length ≠ 64) : exec (.flitRx k f b) s = .next s :=
  congrArg Host.Outcome.next (if_pos h)

section Flit
variable (hopen : 2 ≤ (getSpan s k.val).st) (hlen : f.length = 64) (hu : u = modSpan s k.val (fun x => { x with lastFlit := s.now }))
include hopen hlen hu

/-- A bad flit asks for the retry. -/
theorem exec_flitRx_bad {b : Bool} (hbad : b = true ∨ crc32c (slice f 0 60) ≠ leAt f 60 4) :
    exec (.flitRx k f b) s = .next (spanCnt (modSpan u k.val (fun x => { x with retry := true })) k.val 0x10 1) := by
  subst hu
  refine congrArg Host.Outcome.next ((if_neg (by omega)).trans ?_)
  dsimp only
  rw [slice_whole hlen, if_pos hbad]

/-- A good flit with nothing to acknowledge, to replay and to send returns its credits; then its place in the sequence counts. -/
theorem exec_flitRx_good (hcrc : crc32c (slice f 0 60) = leAt f 60 4) (hreplay : (getSpan s k.val).replay = []) (hwait : (getSpan s k.val).wait0 = [])
    (hretry : (byteAt f 3).testBit 7 = false) (hv : v = modSpan u k.val (fun x => { x with
      credits := tblMod 0 x.credits (byteAt f 3 % 4) (fun c => Nat.min (vcBuffer (byteAt f 3 % 4)) (c + leAt f 4 2)) })) :
    exec (.flitRx k f false) s = .next (if byteAt f 0 % 8 = 0 then v
      else if byteAt f 1 ≠ (getSpan s k.val).rxSeq then modSpan v k.val (fun x => { x with retry := true })
      else flitPayload (spanCnt (modSpan v k.val (fun x => { x with rxSeq := (x.rxSeq + 1) % 256, retry := false })) k.val 0x08 1) k.val f) := by
  have hidle : (getSpan v k.val).wait0 = [] := by
    rw [hv, getSpan_modSpan, hu, getSpan_modSpan]
    exact hwait
  have hseq : (getSpan v k.val).rxSeq = (getSpan s k.val).rxSeq := by
    rw [hv, getSpan_modSpan, hu, getSpan_modSpan]
  have hack : ackTo u k.val (byteAt f 2) = u := ackTo_nothing (by rw [hu, getSpan_modSpan]; exact hreplay) _
  subst hu
  refine congrArg Host.Outcome.next ((if_neg (by omega)).trans ?_)
  dsimp only
  rw [slice_whole hlen, if_neg (by simp [hcrc]), hack, hretry, ← hv]
  simp only [Bool.false_eq_true, if_false, hidle, List.length_nil, drain0, hseq]

end Flit

theorem length_slice (b : Bytes) (i n : Nat) : (slice b i n).length = n := by
  simp only [slice, List.length_append, List.length_take, List.length_drop, List.length_replicate]
  omega

/-- The first byte of a slice. -/
theorem byteAt_slice_first (b : Bytes) (i n : Nat) : byteAt (slice b i (n + 1)) 0 = byteAt b i := by
  unfold byteAt slice
  cases b.drop i with
  | nil => rfl
  | cons x l => rfl

/-- A message of one flit is whole when its flit arrives (R469). -/
theorem flitPayload_whole (k : Nat) (htype : byteAt f 0 % 8 = 2) (hcode : vcOf (byteAt f 8) ≠ none) : flitPayload s k f =
    modSpan s k (fun l => { l with partials := tblDel l.partials (byteAt f 0 / 8 % 4), rx := l.rx ++ [(devNs s, 1, slice f 8 52)] }) := by
  have hsome : (vcOf (byteAt f 8)).isSome = true := Option.isSome_iff_ne_none.mpr hcode
  have hnone : (vcOf (byteAt f 8)).isNone = false := by rw [Option.isNone_eq_false_iff]; exact hsome
  unfold flitPayload
  simp only [htype, Nat.reduceEqDiff, if_false, length_slice, byteAt_slice_first f 8 51, hsome, hnone, if_true, Bool.false_eq_true, false_and,
    Nat.reduceDiv]

/-! ### Received messages -/

theorem onMsg_taken {code : Nat} {g : Nat → Bytes → State → State} (htake : takeMsg s k.val code = some (at_, m, u))
    (hpass : msgPasses (getSpan s k.val).st code = true) : onMsg s k.val code g = g at_ m u := by
  simp only [onMsg, htake, hpass, if_true]

/-- What passes an open link (Tables 16-4 and 16-6). -/
theorem msgPasses_open {st : Nat} (hst : st = 4 ∨ st = 5) : msgPasses st 0x10 = true ∧ msgPasses st 0x11 = true ∧ msgPasses st 0x18 = true ∧
    msgPasses st 0x20 = true ∧ msgPasses st 0x21 = true := by
  obtain rfl | rfl := hst <;> decide

section Open
variable (hst : (getSpan s k.val).st = 4 ∨ (getSpan s k.val).st = 5)
include hst

/-! ### Window requests for the peer (R480, R481) -/

theorem exec_readReq_done (htake : takeMsg s k.val 0x10 = some (at_, m, u)) (hok : requestOk (leAt m 4 6) (byteAt m 1) false = true)
    (hread : directRead (spanCnt u k.val 0x50 1) 4 (0xC10 + k.val) (leAt m 4 6) (byteAt m 1) = (none, d, w)) :
    exec (.readReq k) s = .next (sendMsg w k.val 1 (respMsg (byteAt m 1) (leAt m 2 2) stOk d)) := by
  refine congrArg Host.Outcome.next ((onMsg_taken htake (msgPasses_open hst).1).trans ?_)
  dsimp only
  rw [hok, hread]
  rfl

theorem exec_readReq_refused (htake : takeMsg s k.val 0x10 = some (at_, m, u)) (hbad : requestOk (leAt m 4 6) (byteAt m 1) false = false) :
    exec (.readReq k) s = .next (inboundViolation (sendMsg u k.val 1 (respMsg (byteAt m 1) (leAt m 2 2) eQuarantine [])) k.val) := by
  refine congrArg Host.Outcome.next ((onMsg_taken htake (msgPasses_open hst).1).trans ?_)
  dsimp only
  rw [hbad]
  rfl

theorem exec_writeReq_done (htake : takeMsg s k.val 0x11 = some (at_, m, u)) (hok : requestOk (leAt m 4 6) (byteAt m 1) true = true)
    (hwrite : directWrite (spanCnt u k.val 0x50 1) 4 (0xC10 + k.val) (leAt m 4 6) (slice m 12 (byteAt m 1)) = (none, w)) :
    exec (.writeReq k) s = .next w := by
  refine congrArg Host.Outcome.next ((onMsg_taken htake (msgPasses_open hst).2.1).trans ?_)
  dsimp only
  rw [hok, hwrite]
  rfl

theorem exec_writeReq_refused (htake : takeMsg s k.val 0x11 = some (at_, m, u)) (hbad : requestOk (leAt m 4 6) (byteAt m 1) true = false) :
    exec (.writeReq k) s = .next (inboundViolation u k.val) := by
  refine congrArg Host.Outcome.next ((onMsg_taken htake (msgPasses_open hst).2.1).trans ?_)
  dsimp only
  rw [hbad]
  rfl

/-- A response with no request that waits behind it (R479). -/
theorem exec_readResp {r : SpanRead} (htake : takeMsg s k.val 0x18 = some (at_, m, u))
    (hfind : (getSpan u k.val).reads.find? (fun r => r.tag == leAt m 2 2) = some r) (hwait : (getSpan u k.val).wait0 = [])
    (hw : w = modSpan u k.val (fun x => { x with reads := x.reads.erase r })) :
    (∀ tid e p, r.who = .thread tid e p → exec (.readResp k) s = .next (loadPart w tid e p (leAt m 4 2) (slice m 8 r.n))) ∧
    (r.who = .nobody → exec (.readResp k) s = .next w) := by
  have hidle : (getSpan w k.val).wait0 = [] := by rw [hw, getSpan_modSpan]; exact hwait
  have hpart (tid e p : Nat) : (getSpan (loadPart w tid e p (leAt m 4 2) (slice m 8 r.n)) k.val).wait0 = [] := hidle
  refine ⟨fun tid e p hwho => ?_, fun hwho => ?_⟩
  · refine congrArg Host.Outcome.next ((onMsg_taken htake (msgPasses_open hst).2.2.1).trans ?_)
    simp only [hfind, hwho, ← hw, hpart, List.length_nil, drain0]
  · refine congrArg Host.Outcome.next ((onMsg_taken htake (msgPasses_open hst).2.2.1).trans ?_)
    simp only [hfind, hwho, ← hw, hidle, List.length_nil, drain0]

/-! ### Learning and Hawk messages (R486) -/

theorem exec_learnMessage (htake : takeMsg s k.val 0x20 = some (at_, m, u)) : exec (.learnMessage k) s = .next (
    if leAt m 2 4 ≠ u.plan.epoch then spanCnt u k.val 0xB0 1
    else if spanDomain u.plan.now k.val (byteAt m 24 / 16) = false then spanCnt u k.val 0x80 1
    else learnPost (spanCnt u k.val 0xA8 1) { key := slice m 8 19, port := byteAt m 6, link := some k.val }) :=
  congrArg Host.Outcome.next (onMsg_taken htake (msgPasses_open hst).2.2.2.1)

theorem exec_hawkMsg (htake : takeMsg s k.val 0x21 = some (at_, m, u)) : exec (.hawkMsg k) s =
    .next { u with span := { u.span with hawkMsgs := u.span.hawkMsgs ++ [(k.val, slice m 4 48)] } } :=
  congrArg Host.Outcome.next (onMsg_taken htake (msgPasses_open hst).2.2.2.2)

end Open

/-- A request that fails its check puts an open link into QUARANTINE (R480). -/
theorem inboundViolation_state (s : State) (k : Nat) : (getSpan (inboundViolation s k) k).violation = true ∧ (spanOpen s k = true →
    (getSpan (inboundViolation s k) k).st = 3 ∧ (getSpan (inboundViolation s k) k).reason = 6) := by
  have hnoted : getSpan (spanCnt (modSpan s k (fun l => { l with violation := true })) k 0x58 1) k = { getSpan s k with violation := true } :=
    getSpan_modSpan _ _ _
  have hsame : spanOpen (spanCnt (modSpan s k (fun l => { l with violation := true })) k 0x58 1) k = spanOpen s k := by
    unfold spanOpen
    rw [hnoted]
  unfold inboundViolation
  dsimp only
  rw [hsame]
  split
  · next hopen =>
    obtain ⟨hst, hreason, hviolation⟩ := spanQuarantine_state (spanCnt (modSpan s k (fun l => { l with violation := true })) k 0x58 1) k 6
    rw [hnoted] at hviolation
    exact ⟨hviolation, fun _ => ⟨hst, hreason⟩⟩
  · next hclosed =>
    rw [hnoted]
    exact ⟨rfl, fun hopen => absurd hopen hclosed⟩

/-! ### Packet hand-off (R482 to R484) -/

/-- The value of a little-endian number. -/
theorem leVal_toLE (n v : Nat) : leVal (toLE n v) = v % 256 ^ n := by
  induction n generalizing v with
  | zero => rw [Nat.pow_zero, Nat.mod_one]; rfl
  | succ n ih =>
    rw [toLE, leVal, ih, Nat.pow_succ', Nat.mod_mul, BitVec.toNat_ofNat]

/-- A field in front of the others. -/
theorem leAt_append (n v : Nat) (b : Bytes) : leAt (toLE n v ++ b) 0 n = v % 256 ^ n := by
  have hlen : (toLE n v).length = n := length_toLE n v
  have hfront : slice (toLE n v ++ b) 0 n = toLE n v := by
    rw [slice, List.drop_zero, List.take_left' hlen, hlen, Nat.sub_self, List.replicate_zero, List.append_nil]
  rw [leAt, hfront, leVal_toLE]

/-- The admission item of a received packet in the copy `h` (R483). -/
def receivedItem (m : Bytes) (h room tick : Nat) : AdmitItem :=
  { desc := toLE 4 h ++ toLE 2 room ++ toLE 2 (leAt m 8 2) ++ [0] ++ slice m 1 1 ++ zeros 2 ++ toLE 1 (byteAt m 2 % 16) ++ slice m 10 1 ++
      slice m 12 2 ++ slice m 14 2 ++ slice m 16 2 ++ zeros 12
    owned := true, epoch := leAt m 4 4, tick := tick, prio := byteAt m 3 / 16, domain := byteAt m 3 % 16, rxTime := ofTime10 (slice m 18 10) }

theorem dHandle_receivedItem (m : Bytes) (h room tick : Nat) : dHandle (receivedItem m h room tick).desc = h % 2 ^ 32 := by
  unfold dHandle receivedItem
  simp only [List.append_assoc]
  exact leAt_append 4 h _

section Packet
variable (hst : (getSpan s k.val).st = 4) (hroom : s.egress.fifo.length < fifoCapacity) (htake : takeMsg s k.val 0x30 = some (at_, m, u))
include hst hroom htake

theorem exec_packet_domain (hdomain : spanDomain u.plan.now k.val (byteAt m 3 % 16) = false) : exec (.packet k) s = .next (spanCnt u k.val 0x80 1) := by
  refine congrArg Host.Outcome.next (((if_neg (Nat.not_le.mpr hroom)).trans (onMsg_taken htake (by rw [hst]; rfl))).trans ?_)
  exact if_pos hdomain

theorem exec_packet_epoch (hdomain : spanDomain u.plan.now k.val (byteAt m 3 % 16) = true) (hepoch : leAt m 4 4 = 0) :
    exec (.packet k) s = .next (spanCnt u k.val 0x88 1) := by
  refine congrArg Host.Outcome.next (((if_neg (Nat.not_le.mpr hroom)).trans (onMsg_taken htake (by rw [hst]; rfl))).trans ?_)
  dsimp only
  rw [if_neg (by rw [hdomain]; simp), hepoch]
  rfl

/-- A packet of the present epoch for an enabled port is admitted with its copy (R483). -/
theorem exec_packet_admitted {h : Nat} (hdomain : spanDomain u.plan.now k.val (byteAt m 3 % 16) = true) (hnonzero : leAt m 4 4 ≠ 0)
    (hepoch : u.plan.epoch = leAt m 4 4) (hport : portEnabled (u.plan.of (leAt m 4 4)) (byteAt m 1) = true)
    (halloc : hodAlloc u (byteAt m 3 % 16) (leAt m 8 2) = (.granted h, v)) : ∃ w i,
      w = hbmPut v 1 (81 + k.val) (bufAddr v h + headroom (v.plan.of (leAt m 4 4))) (slice m 32 (leAt m 8 2)) ∧
      exec (.packet k) s = .next (spanCnt { w with egress := { w.egress with fifo := w.egress.fifo ++ [i] } } k.val 0x70 1) ∧
      dHandle i.desc = h % 2 ^ 32 ∧ i.domain = byteAt m 3 % 16 ∧ i.epoch = leAt m 4 4 ∧ i.owned = true := by
  have hlive : (leAt m 4 4 != 0 && (u.plan.epoch == leAt m 4 4 || (match u.plan.old with | some o => o.epoch == leAt m 4 4 | none => false))) = true := by
    simp [hnonzero, hepoch]
  refine ⟨_, receivedItem m h (headroom (v.plan.of (leAt m 4 4)))
    (hbmPut v 1 (81 + k.val) (bufAddr v h + headroom (v.plan.of (leAt m 4 4))) (slice m 32 (leAt m 8 2))).now, rfl,
    congrArg Host.Outcome.next (((if_neg (Nat.not_le.mpr hroom)).trans (onMsg_taken htake (by rw [hst]; rfl))).trans ?_),
    dHandle_receivedItem _ _ _ _, rfl, rfl, rfl⟩
  dsimp only
  refine (if_neg (by rw [hdomain]; simp)).trans ((if_neg (fun hdead => ?_)).trans ((if_neg (by rw [hport]; simp)).trans ?_))
  · exact Bool.false_ne_true (hdead.symm.trans hlive)
  · rw [halloc]
    rfl

end Packet

/-- A queued copy leaves once VC3 holds its credits (R470, R482). -/
theorem exec_spanPacketSend_sent {i : AdmitItem} {r : List AdmitItem} (hpackets : (getSpan s k.val).packets = i :: r) (hst : (getSpan s k.val).st = 4)
    (hcredits : hasCredits s k.val 3 (zeros (32 + leAt i.desc 6 2)) = true)
    (hread : hbmRead (modSpan s k.val (fun x => { x with packets := r })) 2 (81 + k.val) (bufAddr s (dHandle i.desc) + leAt i.desc 4 2) (leAt i.desc 6 2) = (none, d, w)) :
    exec (.spanPacketSend k) s = .next (modSpan (spanCnt (sendMsg w k.val 3 (packetMsg i d)) k.val 0x68 1) k.val (fun x => { x with
      unacked := x.unacked ++ [(dHandle i.desc, x.formed)] })) := by
  show Host.Outcome.next _ = _
  have hsame : bufAddr (modSpan s k.val (fun x => { x with packets := r })) (dHandle i.desc) = bufAddr s (dHandle i.desc) := rfl
  simp only [hpackets, hst, hcredits, hsame, hread, ne_eq, not_true_eq_false, Bool.true_eq_false, or_self, if_false]

theorem exec_spanPacketSend_waits {i : AdmitItem} {r : List AdmitItem} (hpackets : (getSpan s k.val).packets = i :: r)
    (hcredits : hasCredits s k.val 3 (zeros (32 + leAt i.desc 6 2)) = false) : exec (.spanPacketSend k) s = .next s := by
  show Host.Outcome.next _ = _
  simp only [hpackets, hcredits, or_true, if_true]

/-! ### Commands (Table 16-8) -/

section Commands
variable {mb : MbId} {n : BitVec 8}

/-- The answer of SPAN_STATUS (R627). -/
theorem exec_spanStatus (hlink : n.toNat ≤ 2) : ∃ d, exec (.spanStatus mb n) s = .next (reply s mb.val stOk d) ∧ d.length = 96 ∧
    slice d 0 1 = toLE 1 (getSpan s n.toNat).st := by
  refine ⟨_, congrArg Host.Outcome.next (if_neg (Nat.not_lt.mpr hlink)), ?_, rfl⟩
  have hseen (p : Bytes) : (if decide (p ≠ []) then slice p 2 1 else [0xFF]).length = 1 := by
    split
    · exact length_slice _ _ _
    · rfl
  simp only [List.length_append, length_toLE, length_slice, length_time10, hseen, zeros, List.length_replicate, List.length_cons, List.length_nil]

theorem exec_spanRejoin (hlink : n.toNat ≤ 2) : exec (.spanRejoin mb n) s = .next (
    if (getSpan s n.toNat).st = 0 then reply s mb.val eNotFound else reply (spanTraining s n.toNat) mb.val stOk) :=
  congrArg Host.Outcome.next (if_neg (Nat.not_lt.mpr hlink))

theorem exec_spanCounters {a c : BitVec 16} (hlink : n.toNat ≤ 2) (haligned : a.toNat % 8 = 0) (hcount : c.toNat ≤ 62) (hend : a.toNat + 8 * c.toNat ≤ 0x100) :
    exec (.spanCounters mb n a c) s = .next (reply s mb.val stOk
      ((List.range c.toNat).flatMap (fun i => toLE 8 (spanWord s (0x100 * n.toNat + a.toNat + 8 * i))))) :=
  congrArg Host.Outcome.next (if_neg (by omega))

theorem exec_spanCommand_args (a c : BitVec 16) (hlink : 2 < n.toNat) : exec (.spanStatus mb n) s = .next (reply s mb.val eArgs) ∧
    exec (.spanRejoin mb n) s = .next (reply s mb.val eArgs) ∧ exec (.spanCounters mb n a c) s = .next (reply s mb.val eArgs) :=
  ⟨congrArg Host.Outcome.next (if_pos hlink), congrArg Host.Outcome.next (if_pos hlink), congrArg Host.Outcome.next (if_pos (.inl hlink))⟩

end Commands

/-- Settles O54: each message and command by its lemma above. -/
theorem spanMessages : Obligations.SpanMessages := by
  unfold Obligations.SpanMessages
  intro s k
  refine ⟨fun f hopen hlen => ?flits, fun f b h => exec_flitRx_none h, fun at_ m u hst htake => ?reads, fun at_ m u hst htake => ?writes,
    inboundViolation_state s k.val, fun at_ m u r hst htake hfind hwait => ⟨_, rfl, exec_readResp hst htake hfind hwait rfl⟩,
    fun at_ m u hst htake => ?learns, fun at_ m u hst htake => exec_hawkMsg hst htake, fun at_ m u hst hroom htake => ?packets, ?idle,
    fun i r hpackets hst hcredits d w hread => exec_spanPacketSend_sent hpackets hst hcredits hread,
    fun i r hpackets hcredits => exec_spanPacketSend_waits hpackets hcredits, fun mb n hlink => ?commands,
    fun mb n a c hlink => exec_spanCommand_args a c hlink⟩
  case flits =>
    refine ⟨_, rfl, fun b hbad => exec_flitRx_bad hopen hlen rfl hbad, fun hcrc hreplay hwait hretry => ⟨_, rfl, fun hidle => ?_, fun hpayload hseq => ?_,
      fun htype hseq hcode => ?_⟩⟩
    · rw [exec_flitRx_good hopen hlen rfl hcrc hreplay hwait hretry rfl, if_pos hidle]
    · rw [exec_flitRx_good hopen hlen rfl hcrc hreplay hwait hretry rfl, if_neg hpayload, if_pos hseq]
    · rw [exec_flitRx_good hopen hlen rfl hcrc hreplay hwait hretry rfl, if_neg (by omega), if_neg (not_not_intro hseq), flitPayload_whole _ htype hcode]
      refine ⟨_, rfl, ?_⟩
      simp only [getSpan_modSpan, getSpan_spanCnt, true_and]
      exact ⟨rfl, rfl⟩
  case reads => exact ⟨fun d w hok hread => exec_readReq_done hst htake hok hread, exec_readReq_refused hst htake⟩
  case writes => exact ⟨fun w hok hwrite => exec_writeReq_done hst htake hok hwrite, exec_writeReq_refused hst htake⟩
  case learns =>
    rw [exec_learnMessage hst htake]
    refine ⟨fun hepoch => by rw [if_pos hepoch], fun hepoch hdomain => ?_, fun hepoch hdomain => ?_⟩
    · rw [if_neg (not_not_intro hepoch), if_pos hdomain]
    · rw [if_neg (not_not_intro hepoch), if_neg (by rw [hdomain]; simp)]
  case packets =>
    exact ⟨exec_packet_domain hst hroom htake, exec_packet_epoch hst hroom htake,
      fun h v hdomain hnonzero hepoch hport halloc => exec_packet_admitted hst hroom htake hdomain hnonzero hepoch hport halloc⟩
  case idle =>
    refine ⟨fun h => congrArg Host.Outcome.next (onMsg_none h), fun h => congrArg Host.Outcome.next (onMsg_none h),
      fun h => congrArg Host.Outcome.next (onMsg_none h), fun h => congrArg Host.Outcome.next ?_⟩
    exact (congrArg (ite _ s) (onMsg_none h)).trans (ite_self s)
  case commands =>
    refine ⟨exec_spanStatus hlink, fun hoff => ?_, fun hon => ?_, fun a c haligned hcount hend => exec_spanCounters hlink haligned hcount hend⟩
    · rw [exec_spanRejoin hlink, if_pos hoff]
    · rw [exec_spanRejoin hlink, if_neg hon]

end Sys2Proof.Proofs.SpanTraffic
end

section
/-!
PROOFS. What a record of the service die leaves of the service die's state.
-/

namespace Sys2Proof.Proofs.ServiceRecords
open Sys2Proof Sys2Proof.Machine

/-- The service die's own queue of records takes a record, or counts its loss. -/
theorem svcQueueStore_frame (v : SvcState) (r : ErrRecord) : svcQueueStore v r =
    { v with queue := (svcQueueStore v r).queue, queueSummary := (svcQueueStore v r).queueSummary, queueLost := (svcQueueStore v r).queueLost } := by
  cases hsummary : v.queueSummary with
  | none =>
    simp only [svcQueueStore, hsummary]
    split <;> rfl
  | some m =>
    simp only [svcQueueStore, hsummary]
    split <;> rfl

/-- A record changes the service die's queue and FAULT_N. -/
theorem svcRecord_svc (s : State) (sev cls code : Nat) (l : Loc) (d : Bytes) : (svcRecord s sev cls code l d).svc =
    { s.svc with queue := (svcRecord s sev cls code l d).svc.queue, queueSummary := (svcRecord s sev cls code l d).svc.queueSummary
                 queueLost := (svcRecord s sev cls code l d).svc.queueLost, faultN := (svcRecord s sev cls code l d).svc.faultN } := by
  unfold svcRecord
  dsimp only
  split
  · rw [putRecord_svc]
    split <;> rfl
  · split
    · rw [assertFaultN_svc, logRecord_frame, svcQueueStore_frame]
    · rw [logRecord_frame]
      dsimp only
      rw [svcQueueStore_frame]

end Sys2Proof.Proofs.ServiceRecords
end

section
/-!
PROOFS. Detection, unit and DEVICE restarts, comparators and the fault commands (R494 to R507, R515 to R519, R522).
-/

namespace Sys2Proof.Proofs.FaultRecovery
open Sys2Proof Sys2Proof.Machine Sys2Proof.Proofs.DeviceTime Sys2Proof.Proofs.ReadyBits Sys2Proof.Proofs.HostRules Sys2Proof.Proofs.ServiceRecords

variable {s u : State} {l5 : BitVec 6} {l4 : BitVec 8} {r : Recovery} {mb : MbId}

/-! ### Detection (R22, R494, R506) -/

/-- Without placed faults none is met. -/
theorem takePlanted_none (h : s.fault.planted = []) (e : Nat × Nat × Nat) : takePlanted s e = (false, s) := by
  have hsame : { s with fault := { s.fault with planted := s.fault.planted.erase e } } = s := by
    obtain ⟨⟩ := s
    rename_i fault _ _ _ _ _ _ _ _
    obtain ⟨⟩ := fault
    dsimp only at h
    subst h
    rfl
  rw [takePlanted, hsame, h]
  rfl

theorem exec_slotOverrun_detected (l3 : BitVec 10) (l2 : BitVec 12) (hdie : s.power.dieOut = true) (hcovers : completionCovers s l5.toNat l4.toNat = true)
    (hplanted : s.fault.planted = []) : exec (.slotOverrun l5 l4 l3 l2) s =
    .next (unitError s 0x08 0x0004 { unitLoc l5.toNat l4.toNat with l3 := l3.toNat, l2 := l2.toNat } false) := by
  refine congrArg Host.Outcome.next ((if_neg (by simp [hdie, hcovers])).trans ?_)
  dsimp only
  rw [takePlanted_none hplanted]

theorem exec_stepStall_core {n : ClusterId} {c : Fin 12} (hdie : s.power.dieOut = true) (hfree : clusterFree s n.val = true) :
    exec (.stepStall n [c]) s = .next (unitError s 0x08 0x0005 (unitLoc n.val c.val) false) :=
  congrArg Host.Outcome.next (if_neg (by simp [hdie, hfree]))

theorem exec_heartbeatTimeout_detected (hdie : s.power.dieOut = true) (hlow : 16 ≤ l5.toNat) (hhigh : l5.toNat ≤ 29)
    (hunit : unitExists l5.toNat l4.toNat = true) (hplanted : s.fault.planted = []) :
    exec (.heartbeatTimeout l5 l4) s = .next (unitError s 0x0F 0x0004 (unitLoc l5.toNat l4.toNat) false) := by
  refine congrArg Host.Outcome.next ((if_neg ?_).trans ?_)
  · rw [hdie, hunit]
    simp only [Bool.true_eq_false, false_or]
    omega
  · dsimp only
    rw [takePlanted_none hplanted]

/-- A DEVICE restart with no trigger before it keeps its own. -/
theorem decideDevice_first (h : s.fault.trigger = none) (cls code loc : Nat) :
    decideDevice s cls code loc = { s with fault := { s.fault with trigger := some (cls, code, loc) } } := by
  rw [decideDevice, h]

theorem exec_watchdogExpire (hdie : s.power.dieOut = true) (htrigger : s.fault.trigger = none) : ∃ t, exec .watchdogExpire s = .next t ∧
    t.fault.trigger = some (0x0F, 0x0004, locCode s (unitLoc 29 35)) ∧ t.svc.faultN = true := by
  refine ⟨_, congrArg Host.Outcome.next (if_neg (by simp [hdie])), ?_⟩
  have hkept (x : ErrRecord) : (assertFaultN (logRecord (takePlanted s (8, 29, 35)).2 x)).fault.trigger = none := by
    rw [assertFaultN_frame, logRecord_frame]
    exact htrigger
  dsimp only
  rw [decideDevice_first (hkept _)]
  refine ⟨rfl, ?_⟩
  dsimp only
  rw [assertFaultN_svc]

/-! ### Unit restarts (R500 to R502) -/

/-- A record leaves the units that recover. -/
theorem record_recovering (s : State) (sev cls code : Nat) (l : Loc) (d : Bytes) (i : Bool) :
    (record s sev cls code l d i).fault.recovering = s.fault.recovering := by
  rw [record, putRecord_fault]
  unfold ringStore
  split
  · split <;> rfl
  · split <;> rfl

/-- A READY bit leaves the clusters' own. -/
theorem setReady_clusterReady (s : State) (i : Nat) (b : Bool) : (setReady s i b).host.clusterReady = s.host.clusterReady := by
  unfold setReady
  split
  · rfl
  · show (raiseInt _ 25).host.clusterReady = _
    rw [raiseInt_host]

/-- The restart of a core, when it is the unit's first: the core recovers, and its cluster's bit is clear (R501, step 1). -/
theorem startRestart_core {u : Loc} (cls code : Nat) (hcluster : u.l5 ≤ 15) (hcore : u.l4 ≤ 11) (hfirst : ∀ e ∈ s.fault.restartLog, e.1 ≠ u) :
    ∃ r, r ∈ (startRestart s u cls code none).fault.recovering ∧ r.loc = u ∧ r.since = s.now ∧ r.cls = cls ∧ r.code = code ∧
      (startRestart s u cls code none).host.clusterReady.testBit u.l5 = false := by
  have hnone : ((s.fault.restartLog.filter (fun e => decide (s.now < e.2 + secTicks 10))).filter (fun e => e.1 == u)).length = 0 := by
    rw [List.length_eq_zero_iff, List.filter_eq_nil_iff]
    intro e he
    simp only [beq_iff_eq]
    exact hfirst e (List.mem_of_mem_filter he)
  have hbound : restartBound u.l5 u.l4 = some (usTicks 20) := by rw [restartBound, if_pos hcluster, if_pos hcore]
  have hbit : unitReadyBit u = none := by rw [unitReadyBit, if_pos hcluster, if_neg (by omega)]
  have hclear (x : State) : unitReadyClear x u = clusterDown x u.l5 := by
    rw [unitReadyClear, hbit]
    exact if_pos ⟨hcluster, .inl hcore⟩
  have hkept (x : State) (l : Loc) (d : Bytes) :
      (clusterDown (faultCount (record x 3 0x0F 0x0002 l d) 0x40 1) u.l5).fault.recovering = x.fault.recovering := by
    unfold clusterDown
    rw [setReady_frame]
    exact record_recovering _ _ _ _ _ _ _
  unfold startRestart
  dsimp only
  rw [hnone, if_neg (by omega), hbound, hbit]
  dsimp only
  rw [hclear, if_neg (by omega)]
  refine ⟨{ loc := u, sev := 3, cls := cls, code := code, since := s.now, mailbox := none, ready := none
            cluster := decide (u.l5 ≤ 15) && (decide (u.l4 ≤ 11) || decide (u.l4 = 36)) && s.host.clusterReady.testBit u.l5 }, ?_, rfl, rfl, rfl, rfl, ?_⟩
  · rw [hkept]
    exact List.mem_append_right _ (List.mem_singleton_self _)
  · unfold clusterDown
    rw [setReady_clusterReady, clearBit_eq_clearMask, testBit_clearMask, Nat.testBit_two_pow_self, Bool.not_true, Bool.and_false]

section Ends
variable (hfind : s.fault.recovering.find? (fun r => r.loc == restartUnit (unitLoc l5.toNat l4.toNat)) = some r) (hunit : l5.toNat ≠ 30)
include hfind hunit

theorem exec_unitRestartEnd_found : exec (.unitRestartEnd l5 l4) s = .next (restartEnds s r) := by
  show Host.Outcome.next _ = _
  simp only [hfind, if_neg hunit]

theorem exec_unitRestartEnd_rejoins (hbound : pastBound s r = false) (hstore : storeSpoilt s r.loc = false) (hmailbox : r.mailbox = none)
    (hu : u = faultCount (rebuild s r.loc) 0x48 1) : exec (.unitRestartEnd l5 l4) s =
    .next (readyAgain { u with fault := { u.fault with recovering := u.fault.recovering.filter (fun o => o.loc != r.loc) } } r) := by
  subst hu
  rw [exec_unitRestartEnd_found hfind hunit]
  unfold restartEnds
  dsimp only
  rw [hbound, hstore, hmailbox]
  rfl

theorem exec_unitRestartEnd_late (hbound : pastBound s r = true) :
    exec (.unitRestartEnd l5 l4) s = .next (decideDevice s r.cls r.code (locCode s r.loc)) := by
  rw [exec_unitRestartEnd_found hfind hunit, restartEnds, if_pos hbound]

end Ends

theorem exec_unitRestartEnd_none (h : s.fault.recovering = []) (l5 : BitVec 6) (l4 : BitVec 8) : exec (.unitRestartEnd l5 l4) s = .next s := by
  show Host.Outcome.next _ = _
  simp only [h, List.find?_nil]

section Command
variable {x : BitVec 64}

theorem exec_unitRestart_elsewhere (hdev : bits x.toNat 63 60 ≠ s.svc.devId) : exec (.unitRestart mb x) s = .next (reply s mb.val eArgs) :=
  congrArg Host.Outcome.next (if_pos (.inl hdev))

theorem exec_unitRestart_unit (hdev : bits x.toNat 63 60 = s.svc.devId) (hdie : (locOfCode x.toNat).l6 = 0)
    (hexists : unitExists (locOfCode x.toNat).l5 (locOfCode x.toNat).l4 = true)
    (hbound : restartBound (restartUnit (locOfCode x.toNat)).l5 (restartUnit (locOfCode x.toNat)).l4 ≠ none) : exec (.unitRestart mb x) s = .next (
    if recovering s (restartUnit (locOfCode x.toNat)) then reply s mb.val eBusy
    else restartReset (startRestart s (restartUnit (locOfCode x.toNat)) 0x0F 0x0002 (some mb.val)) (restartUnit (locOfCode x.toNat))) := by
  refine congrArg Host.Outcome.next (if_neg ?_)
  rintro (hother | hpart | hmissing | hnever)
  · exact hother hdev
  · exact hpart hdie
  · exact Bool.false_ne_true (hmissing.symm.trans hexists)
  · exact hbound (Option.isNone_iff_eq_none.mp hnever)

end Command

/-! ### DEVICE restarts (R504, R505) -/

theorem exec_deviceRestart_confirmed (h : s.fault.commandRestartAt = none) : exec (.deviceRestart mb 0x1C32) s =
    .next (reply { s with fault := { s.fault with commandRestartAt := some (s.now + 1600000) } } mb.val stOk) := by
  refine congrArg Host.Outcome.next ((if_neg (by decide)).trans ?_)
  dsimp only
  rw [h]
  rfl

/-- A fallback leaves the count of DEVICE restarts, and time. -/
theorem fallback_kept (s : State) (reason : Nat) : (fallback s reason).svc.deviceRestarts = s.svc.deviceRestarts ∧ (fallback s reason).now = s.now := by
  unfold fallback
  split
  · exact ⟨rfl, rfl⟩
  · exact ⟨by rw [logCount_svc, serviceRecord, svcRecord_svc], by rw [logCount_now, serviceRecord, svcRecord_frame]⟩

/-- What a DEVICE restart leaves (R505). -/
theorem deviceRestartNow_state {t : State} {cls code loc : Nat} (ht : t = deviceRestartNow s cls code loc) : t.power.dieOut = false ∧
    t.power.holding = true ∧ t.power.holdFrom = s.now ∧ t.svc.faultN = true ∧ t.svc.lastClass = cls ∧ t.svc.lastCode = code ∧ t.svc.lastLoc = loc ∧
    t.plan = {} ∧ t.mem = [] ∧ t.svc.deviceRestarts = s.svc.deviceRestarts + 1 ∧ isReady t 11 = false := by
  obtain ⟨hcount, -⟩ := fallback_kept s 2
  have hready (x : State) : (x.ready &&& readyKept).testBit 11 = false := by
    rw [Nat.testBit_and]
    exact Bool.and_false _
  have hasserted : logCount (assertFaultN (dieWipe (fallback s 2))) 0x005 1 =
      { logCount (assertFaultN (dieWipe (fallback s 2))) 0x005 1 with
        plan := {}, mem := [], ready := (fallback s 2).ready &&& readyKept, svc := { (fallback s 2).svc with faultN := true } } := by
    rw [logCount, assertFaultN_frame, assertFaultN_svc]
    rfl
  unfold deviceRestartNow at ht
  dsimp only at ht
  rw [hasserted] at ht
  subst ht
  refine ⟨rfl, rfl, rfl, rfl, rfl, rfl, rfl, rfl, rfl, ?_, hready _⟩
  exact congrArg (· + 1) hcount

theorem exec_deviceRestartDecision_none (htrigger : s.fault.trigger = none) (hcommand : s.fault.commandRestartAt = none) :
    exec .deviceRestartDecision s = .next s := by
  show Host.Outcome.next _ = _
  simp only [htrigger, hcommand, ite_self]

theorem exec_deviceRestartDecision_decided {a b c : Nat} (hdie : s.power.dieOut = true) (htrigger : s.fault.trigger = some (a, b, c)) :
    exec .deviceRestartDecision s = .next (deviceRestartNow s a b c) := by
  show Host.Outcome.next _ = _
  simp only [htrigger, hdie, Bool.true_eq_false, if_false]

/-! ### Comparators (R515 to R517) -/

section Comparator
variable {k : Fin 34} (hdie : s.power.dieOut = true) (hgood : k.val ∉ s.fault.cmpFailed) (hplanted : s.fault.planted = [])
include hdie hgood hplanted

/-- A comparator's self-test, and what follows where it does not detect its mismatch (R515, R516). -/
theorem exec_comparatorSelfTest (detects : Bool) : exec (.comparatorSelfTest k detects true) s =
    .next (if detects then faultCount s 0x88 1 else comparatorFails (faultCount s 0x88 1) k.val false) := by
  refine congrArg Host.Outcome.next ((if_neg (by simp [hdie, hgood])).trans ?_)
  dsimp only
  rw [takePlanted_none hplanted, Bool.and_true, Bool.not_false, Bool.and_true]

end Comparator

/-- The lower spare takes over at the boundary (R516). -/
theorem exec_comparatorReplace_spare {n : Fin 32} {w at_ ns k : Nat} (hwaits : s.fault.cmpWaiting.find? (fun w => w.1 == n.val) = some (w, at_, ns))
    (hspare : (sparesFree s).head? = some k) (hu : u = advanceTo s (boundaryTick s at_ ns)) :
    exec (.comparatorReplace n) s = .next (record { u with fault := { u.fault with
      cmpServer := tblSet u.fault.cmpServer n.val k
      sparesUsed := u.fault.sparesUsed ++ [k]
      cmpWaiting := u.fault.cmpWaiting.filter (fun w => w.1 ≠ n.val) } } 0 0x0F 0x0008 (unitLoc 29 n.val)) := by
  obtain ⟨l, hl⟩ : ∃ l, sparesFree s = k :: l := List.head?_eq_some_iff.mp hspare
  have hfree : sparesFree u = k :: l := by
    rw [hu, ← hl, advanceTo_frame]
    rfl
  subst hu
  show Host.Outcome.next _ = _
  simp only [hwaits, hfree]

/-! ### FAULT_N and the fault commands (R518, R519, R522) -/

theorem exec_restartHoldEnd_over {at_ : Nat} (hhold : s.svc.restartHoldUntil = some at_) : ∃ u, u = advanceTo s at_ ∧
    exec .restartHoldEnd s = .next { u with svc := { u.svc with restartHoldUntil := none } } := by
  refine ⟨_, rfl, ?_⟩
  show Host.Outcome.next _ = _
  simp only [hhold]

theorem exec_restartHoldEnd_none (hhold : s.svc.restartHoldUntil = none) : exec .restartHoldEnd s = .next s := by
  show Host.Outcome.next _ = _
  simp only [hhold]

theorem exec_faultStatus (s : State) (mb : MbId) : ∃ d, exec (.faultStatus mb) s = .next (reply s mb.val stOk d) ∧ d.length = 112 := by
  refine ⟨_, rfl, ?_⟩
  unfold faultStatusBytes
  simp only [List.length_append, length_toLE, zeros, List.length_replicate, List.length_cons, List.length_nil, List.length_flatMap,
    List.map_const', List.length_range, List.sum_replicate]
  rfl

section Inject
variable {x : BitVec 64} {i : BitVec 16}

theorem exec_faultInject_digest (h : i.toNat < 512) : exec (.faultInject mb 5 x i) s =
    .next (reply { s with fault := { s.fault with digestFlips := s.fault.digestFlips ++ [i.toNat] } } mb.val stOk) := by
  have hplace : (if (5 : BitVec 8).toNat ≠ 5 ∧ bits x.toNat 63 60 ≠ s.svc.devId then none
      else placeFault s (5 : BitVec 8).toNat (locOfCode x.toNat) i.toNat) =
      some { s with fault := { s.fault with digestFlips := s.fault.digestFlips ++ [i.toNat] } } :=
    (if_neg (fun h => h.1 rfl)).trans (if_pos h)
  show Host.Outcome.next _ = _
  rw [hplace]

theorem exec_faultInject_elsewhere (h : bits x.toNat 63 60 ≠ s.svc.devId) : exec (.faultInject mb 1 x i) s = .next (reply s mb.val eArgs) := by
  have hplace : (if (1 : BitVec 8).toNat ≠ 5 ∧ bits x.toNat 63 60 ≠ s.svc.devId then none
      else placeFault s (1 : BitVec 8).toNat (locOfCode x.toNat) i.toNat) = none := if_pos ⟨by decide, h⟩
  show Host.Outcome.next _ = _
  rw [hplace]

theorem exec_faultInject_heartbeat (hdev : bits x.toNat 63 60 = s.svc.devId) (hdie : (locOfCode x.toNat).l6 = 0) (hunit : (locOfCode x.toNat).l5 = 29) :
    exec (.faultInject mb 8 x i) s = .next (reply { s with fault := { s.fault with planted := s.fault.planted ++ [(8, 29, 35)] } } mb.val stOk) := by
  have hplace : (if (8 : BitVec 8).toNat ≠ 5 ∧ bits x.toNat 63 60 ≠ s.svc.devId then none
      else placeFault s (8 : BitVec 8).toNat (locOfCode x.toNat) i.toNat) =
      some { s with fault := { s.fault with planted := s.fault.planted ++ [(8, 29, 35)] } } :=
    (if_neg (fun h => h.2 hdev)).trans (if_pos ⟨hdie, hunit⟩)
  show Host.Outcome.next _ = _
  rw [hplace]

end Inject

/-- Settles O57: each event and command by its lemma above. -/
theorem faultHandling : Obligations.FaultHandling := by
  unfold Obligations.FaultHandling
  intro s
  refine ⟨fun a b c d hdie hcovers hplanted => exec_slotOverrun_detected c d hdie hcovers hplanted, fun a b c d h => congrArg Host.Outcome.next (if_pos h),
    fun n c hdie hfree => exec_stepStall_core hdie hfree,
    fun a b hdie hlow hhigh hunit hplanted => exec_heartbeatTimeout_detected hdie hlow hhigh hunit hplanted, exec_watchdogExpire,
    fun u cls code hcluster hcore hfirst => startRestart_core cls code hcluster hcore hfirst,
    fun a b r hfind hunit hbound hstore hmailbox => ⟨_, rfl, exec_unitRestartEnd_rejoins hfind hunit hbound hstore hmailbox rfl⟩,
    fun a b r hfind hunit hbound => exec_unitRestartEnd_late hfind hunit hbound, exec_unitRestartEnd_none,
    fun mb x => ⟨exec_unitRestart_elsewhere, fun hdev hdie hexists hbound => ?command⟩, fun mb h => exec_deviceRestart_confirmed h,
    fun mb c h => congrArg Host.Outcome.next (if_pos h),
    fun a b c hdie htrigger => ⟨_, exec_deviceRestartDecision_decided hdie htrigger, deviceRestartNow_state rfl⟩, exec_deviceRestartDecision_none,
    fun k hdie hgood hplanted => ⟨exec_comparatorSelfTest hdie hgood hplanted true, exec_comparatorSelfTest hdie hgood hplanted false⟩,
    fun n w at_ ns k hwaits hspare => ⟨_, rfl, exec_comparatorReplace_spare hwaits hspare rfl⟩, fun at_ => exec_restartHoldEnd_over, exec_restartHoldEnd_none,
    fun mb => ⟨fun h => congrArg Host.Outcome.next (if_pos h), fun h => congrArg Host.Outcome.next (if_neg h)⟩, exec_faultStatus s,
    fun mb x i => ⟨exec_faultInject_digest, exec_faultInject_elsewhere, exec_faultInject_heartbeat⟩⟩
  case command =>
    rw [exec_unitRestart_unit hdev hdie hexists hbound]
    exact ⟨fun h => by rw [if_pos h], fun h => by rw [h]; rfl⟩

end Sys2Proof.Proofs.FaultRecovery
end

section
/-!
PROOFS. Rules for the service die: what its records, a Hawk restart and the close of a session leave, and which messages of a
session act (R536, R537).
-/

namespace Sys2Proof.Proofs.ServiceRules
open Sys2Proof Sys2Proof.Machine Sys2Proof.Proofs.ServiceRecords Sys2Proof.Proofs.HostRules

variable {s : State}

/-! ### Records -/

theorem serviceRecord_svc (s : State) (sev code n : Nat) (d : Bytes) : (serviceRecord s sev code n d).svc =
    { s.svc with queue := (serviceRecord s sev code n d).svc.queue, queueSummary := (serviceRecord s sev code n d).svc.queueSummary
                 queueLost := (serviceRecord s sev code n d).svc.queueLost, faultN := (serviceRecord s sev code n d).svc.faultN } :=
  svcRecord_svc _ _ _ _ _ _

@[simp] theorem serviceRecord_session (s : State) (sev code n : Nat) (d : Bytes) : (serviceRecord s sev code n d).svc.session = s.svc.session := by
  rw [serviceRecord_svc]

@[simp] theorem serviceRecord_fw (s : State) (sev code n : Nat) (d : Bytes) : (serviceRecord s sev code n d).svc.fw = s.svc.fw := by
  rw [serviceRecord_svc]

/-- A record below S3 leaves Hawk's interface. -/
theorem svcRecord_host {sev : Nat} (hminor : sev < 3) (s : State) (cls code : Nat) (l : Loc) (d : Bytes) :
    (svcRecord s sev cls code l d).host = s.host := by
  unfold svcRecord putRecord
  dsimp only
  split
  · rw [if_neg (by omega), logRecord_frame]
  · rw [if_neg (by omega), logRecord_frame]

/-! ### Hawk restarts -/

theorem planHawkRestart_svc (s : State) : (planHawkRestart s).svc = s.svc := by
  unfold planHawkRestart
  split
  · rfl
  · split <;> rfl

theorem setReady_svc (s : State) (i : Nat) (b : Bool) : (setReady s i b).svc = s.svc := by rw [setReady_frame]

/-- A Hawk restart leaves the service die (R464). -/
theorem hawkRestartNow_svc (s : State) : (hawkRestartNow s).svc = s.svc := by
  unfold hawkRestartNow
  dsimp only
  rw [raiseInt_frame]
  dsimp only
  rw [setReady_svc, setReady_svc, planHawkRestart_svc]

/-- The Hawk restart of an activation or a fallback leaves the service die (R463). -/
theorem hawkRestartDue_svc (s : State) : (hawkRestartDue s true).svc = s.svc := by
  unfold hawkRestartDue
  split
  · rfl
  · split
    · rfl
    · exact hawkRestartNow_svc s

/-- An activation runs PENDING on trial and leaves the session (R549). -/
theorem activateFirmware_svc (s : State) : (activateFirmware s).svc.fw = .trial ∧ (activateFirmware s).svc.session = s.svc.session := by
  unfold activateFirmware
  dsimp only
  rw [hawkRestartDue_svc, logCount_svc, serviceRecord_fw, serviceRecord_session]
  exact ⟨rfl, rfl⟩

/-! ### Sessions (R536, R537) -/

/-- A close leaves no session. -/
theorem closeSession_st (s : State) (reason : Nat) : (closeSession s reason).svc.session.st = .listen := by
  unfold closeSession
  dsimp only
  split
  · assumption
  · rfl

/-- With an enable or without a session a change of the enables does nothing more (R534). -/
theorem enablesChanged_none (h : s.svc.session.st = .listen) : enablesChanged s = s := if_pos (.inr h)

section Message
variable {h : UpdHeader} {accepted : List SessState} {k : State → State} (hup : svcPortUp s = true) (hopen : s.svc.session.st ≠ .listen)
include hup hopen

/-- A message of another host is dropped. -/
theorem sessionMsg_other (haddr : h.addr ≠ s.svc.session.peerAddr) : sessionMsg s h accepted k = svcDrop s := by
  unfold sessionMsg
  dsimp only
  rw [if_neg (by simp [hup]), if_neg hopen, if_pos (.inl haddr)]

variable (haddr : h.addr = s.svc.session.peerAddr) (hport : h.port.toNat = s.svc.session.peerPort) (hid : h.session.toNat = s.svc.session.id)
  (hseq : s.svc.session.lastSeq ≠ some h.seq.toNat)
include haddr hport hid hseq

/-- A new message of the session's host acts in an accepted state, and gets E_SEQUENCE in another. -/
theorem sessionMsg_new : sessionMsg s h accepted k =
    if accepted.contains s.svc.session.st then k (touchSession s) else answerStatus s h eSequence 0 := by
  unfold sessionMsg
  dsimp only
  rw [if_neg (by simp [hup]), if_neg hopen, if_neg (by simp [haddr, hport, hid]), if_neg hseq]

theorem sessionMsg_accepted (haccepted : accepted.contains s.svc.session.st = true) : sessionMsg s h accepted k = k (touchSession s) :=
  (sessionMsg_new hup hopen haddr hport hid hseq).trans (if_pos haccepted)

end Message

end Sys2Proof.Proofs.ServiceRules
end

section
/-!
PROOFS. The service port and the update protocol (R532 to R545).
-/

namespace Sys2Proof.Proofs.UpdateSessions
open Sys2Proof Sys2Proof.Machine Sys2Proof.Proofs.DeviceTime Sys2Proof.Proofs.HostRules Sys2Proof.Proofs.ServiceRules

variable {s u : State} {h : UpdHeader} {f d : Bytes}

/-! ### Frames of the service port (R533) -/

section Port
variable (hup : svcPortUp s = true)
include hup

theorem exec_svcFrameDrop_up (f : Bytes) : exec (.svcFrameDrop f) s = .next (svcDrop s) := congrArg Host.Outcome.next (if_pos hup)

theorem exec_neighborSolicitation_answered (htype : beAt f 12 2 = 0x86DD) (hnext : byteAt f 20 = 58) (hhops : byteAt f 21 = 255)
    (hsolicit : byteAt f 54 = 135) (htarget : slice f 62 16 = svcIp) (hsource : allZero (slice f 22 16) = false) :
    exec (.neighborSolicitation f) s = .next { s with out := .service (svcIpFrame (slice f 6 6) (slice f 22 16)
      ([136, 0, 0, 0, 0x60, 0, 0, 0] ++ svcIp ++ [2, 1] ++ svcMac)) :: s.out } := by
  refine congrArg Host.Outcome.next ((if_neg (by simp [hup])).trans ((if_pos ⟨htype, hnext, hhops, hsolicit, htarget⟩).trans ?_))
  dsimp only
  rw [hsource]
  rfl

theorem exec_neighborSolicitation_other (htarget : slice f 62 16 ≠ svcIp) : exec (.neighborSolicitation f) s = .next (svcDrop s) :=
  congrArg Host.Outcome.next ((if_neg (by simp [hup])).trans (if_neg (fun h => htarget h.2.2.2.2)))

theorem exec_echoRequest_answered (htype : beAt f 12 2 = 0x86DD) (hnext : byteAt f 20 = 58) (hecho : byteAt f 54 = 128)
    (hours : slice f 38 16 = svcIp) (hlen : beAt f 18 2 ≤ 1240) : exec (.icmpv6EchoRequest f) s =
    .next { s with out := .service (svcIpFrame (slice f 6 6) (slice f 22 16) ([129, 0, 0, 0] ++ (slice f 54 (beAt f 18 2)).drop 4)) :: s.out } :=
  congrArg Host.Outcome.next ((if_neg (by simp [hup])).trans (if_pos ⟨htype, hnext, hecho, hours, by omega⟩))

end Port

/-- A port that does not work leaves the state as it is, as the model has it. -/
theorem exec_portDown (hdown : svcPortUp s = false) (f : Bytes) : exec (.svcFrameDrop f) s = .next s ∧ exec (.neighborSolicitation f) s = .next s ∧
    exec (.icmpv6EchoRequest f) s = .next s :=
  ⟨congrArg Host.Outcome.next (if_neg (by simp [hdown])), congrArg Host.Outcome.next (if_pos hdown), congrArg Host.Outcome.next (if_pos hdown)⟩

/-! ### HELLO (R534, R536) -/

/-- A session as HELLO opens it, with its acknowledgement (R536). -/
def openSession (s : State) (h : UpdHeader) : State :=
  let d := drawTrng s 4
  let s1 := modSession d.2 (fun y => { y with
    st := .opened, id := beVal d.1, peerAddr := h.addr, peerPort := h.port.toNat, lastTick := s.now, manifest := [], closing := false, finishSeq := none })
  let b := helloAck s1
  serviceRecord (raiseInt (answer b.2 h 2 (beVal d.1) b.1) 31) 0 0x0001 5

/-- The acknowledgement of HELLO leaves the session. -/
theorem helloAck_svc (s : State) : (helloAck s).2.svc = s.svc := by
  unfold helloAck
  dsimp only
  split <;> rfl

/-- An answer leaves the session but for what it keeps of the answer. -/
theorem answer_session (s : State) (h : UpdHeader) (type session : Nat) (b : Bytes) : (answer s h type session b).svc.session =
    { s.svc.session with lastSeq := some h.seq.toNat, lastReply := toBE 1 type ++ b } := rfl

theorem answerStatus_fw (s : State) (g : Session → Session) (h : UpdHeader) (st n : Nat) : (answerStatus (modSession s g) h st n).svc.fw = s.svc.fw := rfl

/-- What HELLO opens. -/
theorem openSession_session (s : State) (h : UpdHeader) : (openSession s h).svc.session.st = .opened ∧
    (openSession s h).svc.session.peerAddr = h.addr ∧ (openSession s h).svc.session.peerPort = h.port.toNat ∧
    (openSession s h).svc.session.id = beVal ((List.range 4).map (fun i => Config.trngByte (s.svc.trngPos + i))) ∧
    (openSession s h).host.intStatus.testBit 31 = true := by
  unfold openSession
  dsimp only
  rw [serviceRecord_session, serviceRecord, svcRecord_host (by omega), raiseInt_intStatus, raiseInt_frame]
  dsimp only
  rw [answer_session, helloAck_svc]
  exact ⟨rfl, rfl, rfl, rfl, Bool.or_true _⟩

/-- HELLO, where it does not repeat the one that the session answers. -/
theorem exec_hello_first (hup : svcPortUp s = true) (hnew : ¬ (s.svc.session.st ≠ .listen ∧ h.addr = s.svc.session.peerAddr)) : exec (.hello h) s = .next (
    if svcEnabled s = false then sendUpdate s h.addr h.port.toNat 10 0 h.seq.toNat (statusBody s.svc eRights 0)
    else if isReady s 4 = false then sendUpdate s h.addr h.port.toNat 10 0 h.seq.toNat (statusBody s.svc eNotReady 0)
    else if s.svc.session.st ≠ .listen then sendUpdate s h.addr h.port.toNat 10 0 h.seq.toNat (statusBody s.svc eBusy 0)
    else openSession s h) :=
  congrArg Host.Outcome.next ((if_neg (by simp [hup])).trans (if_neg (fun hrepeat => hnew ⟨hrepeat.1, hrepeat.2.1⟩)))

theorem becomeWritten_svc (s : State) : (becomeWritten s).svc.fw = .written := by
  unfold becomeWritten
  split
  · assumption
  · rw [serviceRecord_fw]

/-! ### Messages of a session (R537 to R544) -/

section Message
variable (hup : svcPortUp s = true) (haddr : h.addr = s.svc.session.peerAddr) (hport : h.port.toNat = s.svc.session.peerPort)
  (hid : h.session.toNat = s.svc.session.id) (hseq : s.svc.session.lastSeq ≠ some h.seq.toNat)
include hup haddr hport hid hseq

theorem exec_manifestPart {off : BitVec 32} (hst : s.svc.session.st = .opened ∨ s.svc.session.st = .manifest) (hsome : 0 < d.length)
    (hmost : d.length ≤ 1024) (hend : off.toNat + d.length ≤ 16384) : exec (.manifestPart h off d) s =
    .next (answerStatus (modSession (touchSession s) (fun y => { y with st := .manifest, manifest := patchBytes y.manifest off.toNat d })) h stOk 0) := by
  have hopen : s.svc.session.st ≠ .listen := by obtain hst | hst := hst <;> rw [hst] <;> nofun
  have haccepted : [SessState.opened, .manifest].contains s.svc.session.st = true := by obtain hst | hst := hst <;> rw [hst] <;> rfl
  exact congrArg Host.Outcome.next ((sessionMsg_accepted hup hopen haddr hport hid hseq haccepted).trans (if_neg (by omega)))

section Manifest
variable {n : BitVec 32} (hst : s.svc.session.st = .manifest)
include hst

theorem exec_manifestEnd_refused {c st : Nat} (hcheck : manifestCheck s.svc s.svc.session.manifest n.toNat = some (c, st)) :
    exec (.manifestEnd h n) s = .next (answerStatus (serviceRecord (touchSession s) 0 0x0003 5) h st c) := by
  have hsame : manifestCheck (touchSession s).svc (touchSession s).svc.session.manifest n.toNat = some (c, st) := hcheck
  refine congrArg Host.Outcome.next ((sessionMsg_accepted hup (by rw [hst]; nofun) haddr hport hid hseq (by rw [hst]; rfl)).trans ?_)
  dsimp only
  rw [hsame]

theorem exec_manifestEnd_accepted (hcheck : manifestCheck s.svc s.svc.session.manifest n.toNat = none) :
    ∃ t, exec (.manifestEnd h n) s = .next t ∧ t.svc.pending = s.svc.session.manifest ∧ t.svc.session.st = .transfer := by
  have hsame : manifestCheck (touchSession s).svc (touchSession s).svc.session.manifest n.toNat = none := hcheck
  refine ⟨answerStatus (modSession { touchSession s with svc := { (touchSession s).svc with pending := (touchSession s).svc.session.manifest } }
    (fun y => { y with st := .transfer })) h stOk 0, congrArg Host.Outcome.next
    ((sessionMsg_accepted hup (by rw [hst]; nofun) haddr hport hid hseq (by rw [hst]; rfl)).trans ?_), rfl, rfl⟩
  dsimp only
  rw [hsame]

end Manifest

/-- A chunk's answer is of 12 bytes, with its state. -/
theorem exec_chunkQuery {c : BitVec 16} (hst : s.svc.session.st = .transfer) (hchunk : c.toNat < mfChunks s.svc.pending) :
    ∃ d, exec (.chunkQuery h c) s = .next (answer (touchSession s) h 7 s.svc.session.id d) ∧ d.length = 12 ∧
      slice d 2 1 = toBE 1 (chunkCode (chunkState s.svc c.toNat)) := by
  have hchunk' : ¬ mfChunks (touchSession s).svc.pending ≤ c.toNat := Nat.not_le.mpr hchunk
  refine ⟨_, congrArg Host.Outcome.next
    ((sessionMsg_accepted hup (by rw [hst]; nofun) haddr hport hid hseq (by rw [hst]; rfl)).trans (if_neg hchunk')), ?_, rfl⟩
  simp only [List.length_append, toBE, List.length_reverse, length_toLE, List.length_cons, List.length_nil]

section Finish
variable (hst : s.svc.session.st = .transfer)
include hst

theorem exec_finish_written (hall : chunksLeft s.svc = []) : ∃ t, exec (.finish h) s = .next t ∧ t.svc.fw = .written ∧ t.svc.session.st = .done := by
  have hleft : chunksLeft (touchSession s).svc = [] := hall
  refine ⟨answerStatus (modSession (becomeWritten (touchSession s)) (fun y => { y with st := .done })) h stOk 0, congrArg Host.Outcome.next
    ((sessionMsg_accepted hup (by rw [hst]; nofun) haddr hport hid hseq (by rw [hst]; rfl)).trans ?_), (answerStatus_fw _ _ _ _ _).trans (becomeWritten_svc _), rfl⟩
  rw [hleft]

theorem exec_finish_missing {i : Nat} {r : List Nat} (hleft : chunksLeft s.svc = i :: r) (hempty : chunkState s.svc i = .empty) :
    exec (.finish h) s = .next (answerStatus (touchSession s) h eArgs i) := by
  have hleft' : chunksLeft (touchSession s).svc = i :: r := hleft
  have hempty' : chunkState (touchSession s).svc i = .empty := hempty
  refine congrArg Host.Outcome.next ((sessionMsg_accepted hup (by rw [hst]; nofun) haddr hport hid hseq (by rw [hst]; rfl)).trans ?_)
  rw [hleft']
  exact if_neg (by simp [hempty'])

end Finish

/-- ACTIVATE ends the session (R549, R537). -/
theorem exec_activate_written (hst : s.svc.session.st = .done) (hfw : s.svc.fw = .written) :
    ∃ t, exec (.activate h) s = .next t ∧ t.svc.session.st = .listen := by
  have hfw' : (touchSession s).svc.fw = .written := hfw
  refine ⟨_, congrArg Host.Outcome.next ((sessionMsg_accepted hup (by rw [hst]; nofun) haddr hport hid hseq (by rw [hst]; rfl)).trans (if_pos hfw')), ?_⟩
  dsimp only
  rw [(activateFirmware_svc _).2]
  exact closeSession_st _ _

theorem exec_activate_notWritten (hst : s.svc.session.st = .done) (hfw : s.svc.fw ≠ .written) :
    exec (.activate h) s = .next (answerStatus (touchSession s) h eSequence 0) :=
  congrArg Host.Outcome.next ((sessionMsg_accepted hup (by rw [hst]; nofun) haddr hport hid hseq (by rw [hst]; rfl)).trans (if_neg hfw))

theorem exec_sessionAbort (r : BitVec 8) (hst : s.svc.session.st ≠ .listen) : exec (.sessionAbort h r false) s = .next (closeSession (touchSession s) 1) := by
  have haccepted : [SessState.opened, .manifest, .transfer, .done].contains s.svc.session.st = true := by
    cases hcase : s.svc.session.st with
    | listen => exact absurd hcase hst
    | opened => rfl
    | manifest => rfl
    | transfer => rfl
    | done => rfl
  exact congrArg Host.Outcome.next (sessionMsg_accepted hup hst haddr hport hid hseq haccepted)

theorem exec_finish_opened (hst : s.svc.session.st = .opened) : exec (.finish h) s = .next (answerStatus s h eSequence 0) :=
  congrArg Host.Outcome.next ((sessionMsg_new hup (by rw [hst]; nofun) haddr hport hid hseq).trans (if_neg (by rw [hst]; nofun)))

end Message

/-! ### Blocks (R539) -/

section Block
variable {c : BitVec 16} {b : BitVec 8} {crc : BitVec 32} (hup : svcPortUp s = true) (haddr : h.addr = s.svc.session.peerAddr)
  (hport : h.port.toNat = s.svc.session.peerPort) (hid : h.session.toNat = s.svc.session.id) (hst : s.svc.session.st = .transfer)
include hup haddr hport hid hst

/-- The first block of a chunk. -/
theorem exec_block_first (hchunk : ((chunksLeft s.svc).take 2).contains c.toNat = true) (hblock : b.toNat < chunkBlockCount s.svc.pending c.toNat)
    (hlen : d.length = 1024) (hcrc : crc32c d = crc.toNat) (hempty : chunkState s.svc c.toNat = .empty) : exec (.block h c b crc d) s =
    .next (touchSession (modSession s (fun y => { y with
      chunks := tblSet y.chunks c.toNat .receiving, rx := tblSet y.rx c.toNat { received := 2 ^ b.toNat, blocks := [(b.toNat, d)] } }))) := by
  refine congrArg Host.Outcome.next ((if_pos ⟨hst, haddr, hport, hid⟩).trans ((if_neg (by simp [hup])).trans ?_))
  dsimp only
  rw [hempty]
  refine (if_neg ?_).trans ((if_neg nofun).trans (if_neg (fun h => nomatch h.1)) |>.trans ?_)
  · rintro (hmissing | hcount | hshort | hbad)
    · exact Bool.false_ne_true (hmissing.symm.trans hchunk)
    · exact absurd hblock (Nat.not_lt.mpr hcount)
    · exact hshort hlen
    · exact hbad hcrc
  · simp only [setBit, if_neg (show ¬ ChunkSt.empty = ChunkSt.receiving from nofun), Nat.zero_or]
    rfl

/-- A damaged block is dropped. -/
theorem exec_block_bad (hcrc : crc32c d ≠ crc.toNat) : exec (.block h c b crc d) s = .next (svcDrop s) :=
  congrArg Host.Outcome.next ((if_pos ⟨hst, haddr, hport, hid⟩).trans ((if_neg (by simp [hup])).trans (if_pos (.inr (.inr (.inr hcrc))))))

end Block

/-! ### The end of a session (R534, R537) -/

theorem exec_sessionTimeout_open (hopen : s.svc.session.st ≠ .listen) :
    exec .sessionTimeout s = .next (closeSession (advanceTo s (s.svc.session.lastTick + secTicks 30)) 2) := congrArg Host.Outcome.next (if_neg hopen)

theorem exec_svcEnableLapse {t : Nat} (hhost : s.svc.hostEnableUntil = some t) (hlisten : s.svc.session.st = .listen) :
    ∃ u, u = advanceTo s t ∧ exec .svcEnableLapse s = .next { u with svc := { u.svc with hostEnableUntil := none } } := by
  refine ⟨_, rfl, ?_⟩
  show Host.Outcome.next _ = _
  rw [hhost]
  refine congrArg Host.Outcome.next (enablesChanged_none ?_)
  rw [advanceTo_frame]
  exact hlisten

/-! ### Chunks (R540, R541, R545) -/

section Chunk
variable {c : BitVec 16}

section Complete
variable (hreceiving : chunkState s.svc c.toNat = .receiving)
  (hall : (tblGet ({} : ChunkRx) s.svc.session.rx c.toNat).received = 2 ^ chunkBlockCount s.svc.pending c.toNat - 1)
include hreceiving hall

theorem exec_chunkComplete_bad (hdigest : sha384 (rxData s.svc c.toNat) ≠ mfChunkDigest s.svc.pending c.toNat) : exec (.chunkComplete c) s =
    .next (modSession s (fun y => { y with chunks := tblSet y.chunks c.toNat .bad, rx := tblDel y.rx c.toNat })) :=
  congrArg Host.Outcome.next ((if_neg (by simp [hreceiving, hall])).trans (if_pos hdigest))

theorem exec_chunkComplete_later (hdigest : sha384 (rxData s.svc c.toNat) = mfChunkDigest s.svc.pending c.toNat)
    (hlater : (chunksLeft s.svc).head? ≠ some c.toNat) : exec (.chunkComplete c) s =
    .next (modSession s (fun y => { y with chunks := tblSet y.chunks c.toNat .writing })) :=
  congrArg Host.Outcome.next ((if_neg (by simp [hreceiving, hall])).trans ((if_neg (not_not_intro hdigest)).trans (if_neg hlater)))

end Complete

/-- Writes to MRAM leave the session and the image's chunks. -/
theorem mramWrites_svc (p : Nat) (l : List Nat) (s : State) : (l.foldl (mramWrite p) s).svc.session = s.svc.session ∧
    (l.foldl (mramWrite p) s).svc.image = s.svc.image := by
  induction l generalizing s with
  | nil => exact ⟨rfl, rfl⟩
  | cons b l ih => exact ih (mramWrite p s b)

theorem journalCopy_session (s : State) (i p : Nat) : (journalCopy s i p).svc.session = s.svc.session := by
  unfold journalCopy
  dsimp only
  split
  · rfl
  · split
    · exact (mramWrites_svc p _ _).1
    · rfl

/-- The written chunk stands in the image, and the session stays. -/
theorem journalWrite_svc (s : State) (i p : Nat) (d : Bytes) : (journalWrite s i d p).svc.session = s.svc.session ∧
    tblFind (journalWrite s i d p).svc.image i = some d := by
  unfold journalWrite
  dsimp only
  rw [(mramWrites_svc p _ _).1, (mramWrites_svc p _ _).2]
  exact ⟨rfl, tblFind_tblSet_same _ _ _⟩

theorem modSession_image (s : State) (g : Session → Session) : (modSession s g).svc.image = s.svc.image := rfl

theorem becomeWritten_session (s : State) : (becomeWritten s).svc.session = s.svc.session := by
  unfold becomeWritten
  split
  · rfl
  · exact serviceRecord_session _ _ _ _ _

/-- The lowest chunk is written (R541, R545). -/
theorem exec_chunkWritten {p : Fin 9} (hwriting : chunkState s.svc c.toNat = .writing) (hlowest : (chunksLeft s.svc).head? = some c.toNat)
    (hfinish : s.svc.session.finishSeq = none) (hclosing : s.svc.session.closing = false)
    (hu : u = modSession (journalWrite (journalCopy s c.toNat p.val) c.toNat (rxData s.svc c.toNat) p.val) (fun y => { y with
      chunks := tblDel y.chunks c.toNat, rx := tblDel y.rx c.toNat })) :
    exec (.chunkWritten c p) s = .next (if chunksLeft u.svc = [] then becomeWritten u else u) := by
  have hsession : u.svc.session.finishSeq = none ∧ u.svc.session.closing = false := by
    rw [hu]
    dsimp only [modSession]
    rw [(journalWrite_svc _ _ _ _).1, journalCopy_session]
    exact ⟨hfinish, hclosing⟩
  have hafter : (if chunksLeft u.svc = [] then becomeWritten u else u).svc.session = u.svc.session := by
    split
    · exact becomeWritten_session u
    · rfl
  refine congrArg Host.Outcome.next ((if_neg (by simp [hwriting, hlowest])).trans ?_)
  dsimp only
  rw [← hu, hafter, hsession.1]
  dsimp only
  rw [hafter, hsession.2]
  rfl

end Chunk

/-- Settles O55: each message and event by its lemma above. -/
theorem updateProtocol : Obligations.UpdateProtocol := by
  unfold Obligations.UpdateProtocol
  intro s
  refine ⟨fun f hup => ⟨exec_svcFrameDrop_up hup f, exec_neighborSolicitation_answered hup, exec_echoRequest_answered hup, fun htarget =>
      (exec_neighborSolicitation_other hup htarget).trans (exec_svcFrameDrop_up hup f).symm⟩, fun f hdown => exec_portDown hdown f,
    fun h hup hlisten => ?hello, fun h hup hopen henabled htrng haddr => ?others, fun h hup haddr hport hid hseq => ?session,
    fun hopen => ⟨_, rfl, exec_sessionTimeout_open hopen⟩, fun hlisten => congrArg Host.Outcome.next (if_pos hlisten),
    fun b hlisten => congrArg Host.Outcome.next (enablesChanged_none hlisten), fun _ => rfl, fun t hhost hlisten => exec_svcEnableLapse hhost hlisten,
    fun c hreceiving hall => ⟨exec_chunkComplete_bad hreceiving hall, exec_chunkComplete_later hreceiving hall⟩,
    fun c p hwriting hlowest hfinish hclosing => ?written⟩
  case hello =>
    refine ⟨fun hoff => ?_, fun henabled htrng => ?_, fun henabled htrng => ⟨openSession s h, ?_, openSession_session s h⟩⟩
    · rw [exec_hello_first hup (fun hn => hn.1 hlisten), if_pos hoff]
    · rw [exec_hello_first hup (fun hn => hn.1 hlisten), if_neg (by simp [henabled]), if_pos htrng]
    · rw [exec_hello_first hup (fun hn => hn.1 hlisten), if_neg (by simp [henabled]), if_neg (by simp [htrng]), if_neg (not_not_intro hlisten)]
  case others =>
    refine ⟨?_, congrArg Host.Outcome.next (sessionMsg_other hup hopen haddr), congrArg Host.Outcome.next (sessionMsg_other hup hopen haddr),
      fun n => congrArg Host.Outcome.next (sessionMsg_other hup hopen haddr)⟩
    rw [exec_hello_first hup (fun hn => haddr hn.2), if_neg (by simp [henabled]), if_neg (by simp [htrng]), if_pos hopen]
  case session =>
    refine ⟨fun off d hst hsome hmost hend => exec_manifestPart hup haddr hport hid hseq hst hsome hmost hend, fun n hst => ?_,
      fun c b crc d hst hchunk hblock hlen hcrc hempty => exec_block_first hup haddr hport hid hst hchunk hblock hlen hcrc hempty,
      fun c b crc d hst hcrc => exec_block_bad hup haddr hport hid hst hcrc, fun c hst hchunk => exec_chunkQuery hup haddr hport hid hseq hst hchunk,
      exec_finish_written hup haddr hport hid hseq, fun i r hst hleft hempty => exec_finish_missing hup haddr hport hid hseq hst hleft hempty,
      exec_activate_written hup haddr hport hid hseq, exec_activate_notWritten hup haddr hport hid hseq,
      fun r hst => exec_sessionAbort hup haddr hport hid hseq r hst, exec_finish_opened hup haddr hport hid hseq⟩
    split
    · next hcheck => exact exec_manifestEnd_accepted hup haddr hport hid hseq hst hcheck
    · next c st hcheck => exact exec_manifestEnd_refused hup haddr hport hid hseq hst hcheck
  case written =>
    refine ⟨_, rfl, ?_, fun hleft => ?_, fun hnone => ?_⟩
    · rw [modSession_image, (journalWrite_svc _ _ _ _).2]
    · rw [exec_chunkWritten hwriting hlowest hfinish hclosing rfl, if_neg hleft]
    · rw [exec_chunkWritten hwriting hlowest hfinish hclosing rfl, if_pos hnone]

end Sys2Proof.Proofs.UpdateSessions
end

section
/-!
PROOFS. The loader, the trial, MRAM, random numbers, keys and fuses (R528 to R531, R546 to R562).
-/

namespace Sys2Proof.Proofs.FirmwareAndKeys
open Sys2Proof Sys2Proof.Machine Sys2Proof.Proofs.DeviceTime Sys2Proof.Proofs.ReadyBits Sys2Proof.Proofs.ServiceRecords Sys2Proof.Proofs.ServiceRules
  Sys2Proof.Proofs.FaultRecovery

variable {s u : State} {mb : MbId}

/-! ### Loader (R546 to R551) -/

/-- A journal without a torn record needs no repair (R546). -/
theorem journalRepair_whole (h : ∀ r ∈ s.svc.journal, r.done = true) : journalRepair s = s := by
  have htorn : s.svc.journal.filter (fun r => !r.done) = [] := List.filter_eq_nil_iff.mpr (fun r hr => by simp [h r hr])
  have hwhole : s.svc.journal.filter (fun r => r.done) = s.svc.journal := List.filter_eq_self.mpr h
  unfold journalRepair
  dsimp only
  rw [htorn, hwhole]
  rfl

/-- An image that the loader lets run. -/
def loaded (s : State) (pending : Bool) : State :=
  setReady { s with power := { s.power with loaderOk := true }, svc := { s.svc with runningPending := pending, trialFirst := false } } 1 true

/-- The processor die is held where no image verifies (R548). -/
def notLoaded (s : State) : State :=
  setReady { serviceRecord s 3 0x0008 2 with
    svc := { (serviceRecord s 3 0x0008 2).svc with imageBad := true }
    power := { (serviceRecord s 3 0x0008 2).power with loaderOk := false, dieOut := false } } 1 false

theorem loaded_state (s : State) (p : Bool) : (loaded s p).power.loaderOk = true ∧ isReady (loaded s p) 1 = true ∧
    (loaded s p).svc = { s.svc with runningPending := p, trialFirst := false } := by
  unfold loaded
  refine ⟨?_, ?_, setReady_svc _ _ _⟩
  · rw [setReady_frame]
  · rw [isReady_setReady, if_pos rfl]

theorem notLoaded_state (s : State) : (notLoaded s).power.loaderOk = false ∧ (notLoaded s).power.dieOut = false ∧ isReady (notLoaded s) 1 = false ∧
    (notLoaded s).svc = { (serviceRecord s 3 0x0008 2).svc with imageBad := true } := by
  unfold notLoaded
  refine ⟨?_, ?_, ?_, setReady_svc _ _ _⟩
  · rw [setReady_frame]
  · rw [setReady_frame]
  · rw [isReady_setReady, if_pos rfl]

section Loader
variable (hready : isReady s 0 = true) (hwhole : ∀ r ∈ s.svc.journal, r.done = true)
include hready hwhole

/-- Outside of a trial's first start the loader verifies CURRENT (R547). -/
theorem exec_loaderVerify_current (hfw : s.svc.fw ≠ .trial) : exec .loaderVerify s =
    .next (if imageVerifies s.svc.current (currentChunk s.svc) then loaded s false else notLoaded s) := by
  have hpending : (decide (s.svc.fw = .trial) && s.svc.trialFirst) = false := by rw [decide_eq_false hfw, Bool.false_and]
  refine congrArg Host.Outcome.next ((if_neg (by simp [hready])).trans ?_)
  rw [journalRepair_whole hwhole]
  dsimp only
  rw [hpending, if_neg (fun h => Bool.false_ne_true h.1), if_neg Bool.false_ne_true]
  rfl

/-- A trial's first start verifies PENDING; a failure falls back to CURRENT (R551). -/
theorem exec_loaderVerify_pending (hfw : s.svc.fw = .trial) (hfirst : s.svc.trialFirst = true) : exec .loaderVerify s =
    .next (if imageVerifies s.svc.pending (pendingChunk s.svc) then loaded s true
      else if imageVerifies (fallback s 4).svc.current (currentChunk (fallback s 4).svc) then loaded (fallback s 4) false else notLoaded (fallback s 4)) := by
  have hpending : (decide (s.svc.fw = .trial) && s.svc.trialFirst) = true := by rw [decide_eq_true hfw, hfirst]; rfl
  refine congrArg Host.Outcome.next ((if_neg (by simp [hready])).trans ?_)
  rw [journalRepair_whole hwhole]
  dsimp only
  rw [hpending]
  by_cases hverifies : imageVerifies s.svc.pending (pendingChunk s.svc) = true
  · rw [if_pos ⟨rfl, hverifies⟩, if_pos hverifies]
    rfl
  · rw [if_neg (fun h => hverifies h.2), if_neg hverifies, if_pos rfl]
    rfl

end Loader

/-! ### Trial and fallback (R550, R551) -/

/-- A fallback restores CURRENT with its reason. -/
theorem fallback_svc (hfw : s.svc.fw = .trial) (reason : Nat) : (fallback s reason).svc.fw = .restoring ∧ (fallback s reason).svc.fallbackReason = reason ∧
    (fallback s reason).svc.runningPending = false := by
  unfold fallback
  rw [if_neg (not_not_intro hfw)]
  dsimp only
  rw [logCount_svc, serviceRecord_svc]
  exact ⟨rfl, rfl, rfl⟩

/-- The revoke fuses leave the manifests and the minimum version. -/
theorem blowRevokes_svc (s : State) (flags : Nat) (b : Bool) : (blowRevokes s flags b).svc.current = s.svc.current ∧
    (blowRevokes s flags b).svc.minFwVersion = s.svc.minFwVersion := by
  unfold blowRevokes
  split
  · exact ⟨rfl, rfl⟩
  · split
    · dsimp only
      rw [serviceRecord_svc]
      exact ⟨rfl, rfl⟩
    · rw [serviceRecord_svc]
      exact ⟨rfl, rfl⟩

/-- A confirmed trial becomes CURRENT (R550). -/
theorem exec_healthConfirm_trial (b : Bool) (hfw : s.svc.fw = .trial) (hmailbox : isReady s 3 = true) : ∃ t, exec (.healthConfirm b) s = .next t ∧
    t.svc.current = s.svc.pending ∧ t.svc.fw = .idle ∧ t.svc.minFwVersion = Nat.max s.svc.minFwVersion (mfSec s.svc.pending) ∧
    t.svc.journal = [] ∧ t.svc.pending = [] := by
  refine ⟨_, congrArg Host.Outcome.next (if_neg (by simp [hfw, hmailbox])), ?_⟩
  dsimp only
  obtain ⟨hcurrent, hmin⟩ := blowRevokes_svc
    { s with svc := { s.svc with current := s.svc.pending, minFwVersion := Nat.max s.svc.minFwVersion (mfSec s.svc.pending) } } (leAt s.svc.pending 8 4) b
  rw [serviceRecord_svc]
  exact ⟨hcurrent, rfl, hmin, rfl, rfl⟩

theorem planHawkRestart_now (s : State) : (planHawkRestart s).now = s.now := by
  unfold planHawkRestart
  split
  · rfl
  · split <;> rfl

theorem hawkRestartDue_now (s : State) : (hawkRestartDue s true).now = s.now := by
  unfold hawkRestartDue
  split
  · rfl
  · split
    · rfl
    · unfold hawkRestartNow
      rw [raiseInt_frame, setReady_frame, setReady_frame]
      exact planHawkRestart_now _

/-- A trial that is not confirmed in time falls back with reason HEALTH (R551). -/
theorem exec_healthTimeout_trial {at_ : Nat} (hby : s.svc.healthBy = some at_) (hfw : s.svc.fw = .trial) : ∃ t, exec .healthTimeout s = .next t ∧
    t.svc.fw = .restoring ∧ t.svc.fallbackReason = 1 ∧ t.now = Nat.max s.now at_ := by
  have hfw' : (advanceTo s at_).svc.fw = .trial := by rw [advanceTo_frame]; exact hfw
  obtain ⟨hrestoring, hreason, -⟩ := fallback_svc hfw' 1
  refine ⟨fallbackRestart (advanceTo s at_) 1, ?_, ?_⟩
  · show Host.Outcome.next _ = _
    rw [hby]
  · unfold fallbackRestart
    rw [hawkRestartDue_svc, hawkRestartDue_now, (fallback_kept _ _).2, advanceTo_now]
    exact ⟨hrestoring, hreason, rfl⟩

/-! ### MRAM (R528) -/

/-- A worn block with a spare left is retired to the next spare. -/
theorem retireBlock_spare {b y : Nat} (hregion : regionDonated s.svc b = false) (hspare : 0 < s.svc.sparesLeft) (hmost : s.svc.sparesLeft ≤ 1312) :
    retireBlock s b y = mramRecord { s with svc := { s.svc with
      sparesLeft := s.svc.sparesLeft - 1, retired := tblSet s.svc.retired b (16384 - s.svc.sparesLeft) } } 1 0x000A b y := by
  have hnext : 15072 + (1312 - s.svc.sparesLeft) = 16384 - s.svc.sparesLeft := by omega
  unfold retireBlock
  rw [hregion, if_neg Bool.false_ne_true, if_pos hspare]
  dsimp only
  rw [hnext]

theorem exec_mramBlockRetire_corrected {b : BitVec 14} {y : BitVec 12} {n : Nat} (hmany : 4 < n) :
    exec (.mramBlockRetire b y (.corrected n)) s = .next (retireBlock s b.toNat y.toNat) := congrArg Host.Outcome.next (if_pos hmany)

/-! ### Random numbers (R560 to R562) -/

section Collecting
variable (hruns : s.svc.running = true) (hcollecting : s.svc.trng = .collecting)
include hruns hcollecting

theorem exec_trngStartupDone (passed : Bool) : exec (.trngStartupDone passed) s = .next (
    if passed then setReady { s with svc := { s.svc with trng := .ready, trngFails := 0 } } 4 true
    else if 2 ≤ s.svc.trngFails then serviceRecord { s with svc := { s.svc with trng := .failed, trngFails := s.svc.trngFails + 1 } } 3 0x0010 3
    else { s with svc := { s.svc with trngFails := s.svc.trngFails + 1 } }) :=
  congrArg Host.Outcome.next (if_neg (by simp [hruns, hcollecting]))

end Collecting

theorem exec_trngRead {n : BitVec 16} (hlow : 1 ≤ n.toNat) (hhigh : n.toNat ≤ 256) (hready : isReady s 4 = true) : exec (.trngRead mb n) s =
    .next (reply { s with svc := { s.svc with trngPos := s.svc.trngPos + n.toNat } } mb.val stOk
      ((List.range n.toNat).map (fun i => Config.trngByte (s.svc.trngPos + i)))) :=
  congrArg Host.Outcome.next ((whenReady_ready hready).trans (if_neg (by omega)))

/-! ### Mailbox commands (Table 18-9) -/

section Commands
variable (hready : isReady s 0 = true)
include hready

theorem exec_svcEnable_set {n : BitVec 32} (hlow : 1 ≤ n.toNat) (hhigh : n.toNat ≤ 86400) : exec (.svcEnable mb 1 n) s =
    .next (reply { s with svc := { s.svc with hostEnableUntil := some (s.now + secTicks n.toNat) } } mb.val stOk) :=
  congrArg Host.Outcome.next ((whenReady_ready hready).trans ((if_neg (by simp; omega)).trans (if_pos rfl)))

theorem exec_svcEnable_args {n : BitVec 32} (hhigh : 86400 < n.toNat) : exec (.svcEnable mb 1 n) s = .next (reply s mb.val eArgs) :=
  congrArg Host.Outcome.next ((whenReady_ready hready).trans (if_pos (.inr (.inr hhigh))))

theorem exec_svcStatus : ∃ d, exec (.svcStatus mb) s = .next (reply { s with free := s.free + 1 } mb.val stOk d) ∧ d.length = 31 := by
  refine ⟨_, congrArg Host.Outcome.next (whenReady_ready hready), ?_⟩
  simp only [List.length_append, length_toLE, SpanTraffic.length_slice]

theorem exec_fwStatus : ∃ d, exec (.fwStatus mb) s = .next (reply s mb.val stOk d) ∧ d.length = 26 ∧ slice d 0 1 = toLE 1 (fwCode s.svc.fw) := by
  refine ⟨_, congrArg Host.Outcome.next (whenReady_ready hready), ?_, rfl⟩
  simp only [List.length_append, length_toLE]

theorem exec_fwActivate_written (hfw : s.svc.fw = .written) : ∃ t, exec (.fwActivate mb) s = .next t ∧ t.svc.fw = .trial :=
  ⟨_, congrArg Host.Outcome.next ((whenReady_ready hready).trans (if_pos hfw)), (activateFirmware_svc _).1⟩

theorem exec_fwActivate_sequence (hfw : s.svc.fw ≠ .written) : exec (.fwActivate mb) s = .next (reply s mb.val eSequence) :=
  congrArg Host.Outcome.next ((whenReady_ready hready).trans (if_neg hfw))

theorem exec_fwRollback_idle (hfw : s.svc.fw = .idle) : exec (.fwRollback mb) s = .next (reply s mb.val eSequence) :=
  congrArg Host.Outcome.next ((whenReady_ready hready).trans (if_pos hfw))

/-- A rollback of a written image without a session (R552). -/
theorem exec_fwRollback_written (hfw : s.svc.fw = .written) (hlisten : s.svc.session.st = .listen) (hu : u = reply s mb.val stOk) :
    exec (.fwRollback mb) s = .next { u with svc := { u.svc with fw := .restoring } } := by
  have hroll : rollbackFirmware u = { u with svc := { u.svc with fw := .restoring } } := by
    have hsame : u.svc.fw = .written := by rw [hu]; exact hfw
    rw [rollbackFirmware, hsame]
  subst hu
  refine congrArg Host.Outcome.next ((whenReady_ready hready).trans ((if_neg (by rw [hfw]; nofun)).trans ((if_neg (by rw [hfw]; nofun)).trans ?_)))
  dsimp only
  rw [if_neg (by rw [hlisten]; nofun), hroll]

/-! #### Key slots (R555, R556) -/

section Slot
variable {n : BitVec 8} {k : Bytes} (hslot : n.toNat ≤ 3)
include hslot

theorem exec_keySlotWrite_empty (hlen : k.length = 96) (hvalid : p384KeyValid k = true) (hempty : tblGet KeySlot.empty s.svc.keySlots n.toNat = .empty) :
    exec (.keySlotWrite mb n k) s = .next (serviceRecord (reply { s with svc := { s.svc with
      keySlots := tblSet s.svc.keySlots n.toNat (.written k) } } mb.val stOk) 0 0x0013 1) := by
  refine congrArg Host.Outcome.next ((whenReady_ready hready).trans ((if_neg (by simp [hlen, hvalid]; omega)).trans ?_))
  rw [hempty]

theorem exec_keySlotWrite_locked (hlen : k.length = 96) (hvalid : p384KeyValid k = true) (hused : tblGet KeySlot.empty s.svc.keySlots n.toNat ≠ .empty) :
    exec (.keySlotWrite mb n k) s = .next (reply (violation s none) mb.val eLocked) := by
  refine congrArg Host.Outcome.next ((whenReady_ready hready).trans ((if_neg (by simp [hlen, hvalid]; omega)).trans ?_))
  cases hstate : tblGet KeySlot.empty s.svc.keySlots n.toNat with
  | empty => exact absurd hstate hused
  | written _ => rfl
  | revoked => rfl

theorem exec_keySlotRevoke (hwritten : tblGet KeySlot.empty s.svc.keySlots n.toNat = .written k) (hfuse : s.svc.planSigFuse = false) :
    exec (.keySlotRevoke mb n) s = .next (serviceRecord (planStagingToLoaded (reply { s with svc := { s.svc with
      keySlots := tblSet s.svc.keySlots n.toNat .revoked } } mb.val stOk)) 0 0x0014 1) := by
  refine congrArg Host.Outcome.next ((whenReady_ready hready).trans ((if_neg (by omega)).trans ?_))
  rw [hwritten]
  exact if_neg (by simp [hfuse])

end Slot

/-! #### Key-encryption keys (R558) -/

section Kek
variable {n : BitVec 8} {k : Bytes} (hkind : n.toNat ≤ 1) (hlen : k.length = 32)
include hkind hlen

theorem exec_kekInstall_first (hnone : tblFind s.svc.keks n.toNat = none) : exec (.kekInstall mb n k) s =
    .next (reply { s with svc := { s.svc with keks := tblSet s.svc.keks n.toNat k } } mb.val stOk) := by
  refine congrArg Host.Outcome.next ((whenReady_ready hready).trans ((if_neg (by omega)).trans ?_))
  rw [hnone]

theorem exec_kekInstall_locked (hset : tblFind s.svc.keks n.toNat ≠ none) : exec (.kekInstall mb n k) s = .next (reply (violation s none) mb.val eLocked) := by
  obtain ⟨v, hv⟩ := Option.ne_none_iff_exists'.mp hset
  refine congrArg Host.Outcome.next ((whenReady_ready hready).trans ((if_neg (by omega)).trans ?_))
  rw [hv]

end Kek

/-! #### The fuse for signed plans (R557) -/

theorem exec_fusePlanSigned_live (b : Bool) (hlive : liveSlots s.svc ≠ []) (hfuse : s.svc.planSigFuse = false) : exec (.fusePlanSigned mb 0x1C32 b) s =
    .next (if b then serviceRecord (planStagingToLoaded (reply { s with svc := { s.svc with planSigFuse := true } } mb.val stOk)) 0 0x0011 4
      else serviceRecord (reply s mb.val eCheck) 3 0x0012 4) :=
  congrArg Host.Outcome.next ((whenReady_ready hready).trans ((if_neg (by decide)).trans ((if_neg hlive).trans (if_neg (by simp [hfuse])))))

theorem exec_fusePlanSigned_noKey (b : Bool) (hnone : liveSlots s.svc = []) : exec (.fusePlanSigned mb 0x1C32 b) s = .next (reply s mb.val eSequence) :=
  congrArg Host.Outcome.next ((whenReady_ready hready).trans ((if_neg (by decide)).trans (if_pos hnone)))

end Commands

/-- Settles O56: each event and command by its lemma above. -/
theorem firmwareStore : Obligations.FirmwareStore := by
  unfold Obligations.FirmwareStore
  intro s
  refine ⟨fun hready hfw hwhole => ?current, fun hready hfw hfirst hwhole => ?pending, exec_healthConfirm_trial,
    fun b hfw => congrArg Host.Outcome.next (if_pos (.inl hfw)), fun at_ => exec_healthTimeout_trial,
    fun hfw => ⟨congrArg Host.Outcome.next (if_pos hfw), rfl⟩, fun b y hregion hspare => ⟨_, rfl, fun hmost => ⟨?_, fun n hmany => ?_⟩⟩,
    fun b y => congrArg Host.Outcome.next ((if_neg (Nat.not_lt_zero 4)).trans (if_pos (Or.inl rfl))), fun hruns hcollecting => ⟨exec_trngStartupDone hruns hcollecting true, fun hfew => ?_, fun hmany => ?_⟩,
    fun htrng => ⟨congrArg Host.Outcome.next (if_neg (not_not_intro htrng)), congrArg Host.Outcome.next (if_pos htrng)⟩,
    fun htrng => ⟨congrArg Host.Outcome.next (if_pos htrng), congrArg Host.Outcome.next (if_neg htrng)⟩, fun c => rfl, fun mb hready => ?commands,
    fun mb n hlow hhigh => ⟨exec_trngRead hlow hhigh, fun h => congrArg Host.Outcome.next (whenReady_notReady h)⟩,
    fun mb h => ⟨congrArg Host.Outcome.next (whenReady_notReady h), congrArg Host.Outcome.next (whenReady_notReady h)⟩⟩
  case current =>
    refine ⟨_, exec_loaderVerify_current hready hwhole hfw, ?_⟩
    obtain ⟨hok, hbit, hsvc⟩ := loaded_state s false
    obtain ⟨hbad, hdie, hclear, hsvc'⟩ := notLoaded_state s
    generalize imageVerifies s.svc.current (currentChunk s.svc) = verifies
    cases verifies with
    | true => exact ⟨hok, by rw [if_pos rfl, hsvc], hbit⟩
    | false => exact ⟨hbad, hdie, hclear, by rw [if_neg Bool.false_ne_true, hsvc']⟩
  case pending =>
    refine ⟨_, exec_loaderVerify_pending hready hwhole hfw hfirst, ?_⟩
    obtain ⟨-, hbit, hsvc⟩ := loaded_state s true
    obtain ⟨hrestoring, hreason, hrunning⟩ := fallback_svc hfw 4
    generalize imageVerifies s.svc.pending (pendingChunk s.svc) = verifies
    generalize imageVerifies (fallback s 4).svc.current (currentChunk (fallback s 4).svc) = falls
    cases verifies with
    | true => exact ⟨by rw [if_pos rfl, hsvc], by rw [if_pos rfl, hsvc]; exact hfw, hbit⟩
    | false =>
      dsimp only
      rw [if_neg Bool.false_ne_true]
      cases falls with
      | true =>
        rw [if_pos rfl, (loaded_state _ _).2.2]
        exact ⟨hrestoring, hreason, rfl⟩
      | false =>
        rw [if_neg Bool.false_ne_true, (notLoaded_state _).2.2.2, serviceRecord_svc]
        exact ⟨hrestoring, hreason, hrunning⟩
  · exact congrArg Host.Outcome.next (retireBlock_spare hregion hspare hmost)
  · rw [exec_mramBlockRetire_corrected hmany, retireBlock_spare hregion hspare hmost]
  · rw [exec_trngStartupDone hruns hcollecting, if_neg Bool.false_ne_true, if_neg (by omega)]
  · rw [exec_trngStartupDone hruns hcollecting, if_neg Bool.false_ne_true, if_pos hmany]
  case commands =>
    exact ⟨fun n => exec_svcEnable_set hready, fun n => exec_svcEnable_args hready, exec_svcStatus hready, exec_fwStatus hready, exec_fwActivate_written hready,
      exec_fwActivate_sequence hready, exec_fwRollback_idle hready, fun hfw hlisten => ⟨_, rfl, exec_fwRollback_written hready hfw hlisten rfl⟩,
      fun n k hslot hlen hvalid => ⟨exec_keySlotWrite_empty hready hslot hlen hvalid, exec_keySlotWrite_locked hready hslot hlen hvalid⟩,
      fun n k hslot hwritten hfuse => exec_keySlotRevoke hready hslot hwritten hfuse, ⟨_, congrArg Host.Outcome.next (whenReady_ready hready)⟩,
      fun n k hkind hlen => ⟨exec_kekInstall_first hready hkind hlen, exec_kekInstall_locked hready hkind hlen⟩,
      fun hlive hfuse => ⟨exec_fusePlanSigned_live hready true hlive hfuse, exec_fusePlanSigned_live hready false hlive hfuse⟩,
      fun hnone b => exec_fusePlanSigned_noKey hready b hnone⟩

end Sys2Proof.Proofs.FirmwareAndKeys
end

section
/-!
PROOFS. The logbook: its counters, records, mount, histograms and reads (R586 to R592).
-/

namespace Sys2Proof.Proofs.LogbookRecords
open Sys2Proof Sys2Proof.Machine Sys2Proof.Proofs.DeviceTime Sys2Proof.Proofs.MailboxProtocol

variable {s u : State} {p : Fin 9} {mb : MbId}

/-! ### Writing and mount (R588, R589) -/

/-- A second counts; then a delta record or a generation is written where writing is allowed. -/
theorem exec_logbookDeltaWrite (hruns : s.svc.running = true) (hdie : s.power.dieOut = false) (hu : u = { logCount s 0x000 1 with log := {
      (logCount s 0x000 1).log with eventsThisSecond := 0, secondsSinceGen := s.log.secondsSinceGen + 1 } }) :
    exec (.logbookDeltaWrite p) s = .next (
      if logMayWrite s = false then u else if 504 < u.log.dirty.length then writeGeneration u p.val else writeDelta u p.val) := by
  have hmay : logMayWrite s = logMayWrite u := by rw [hu]; rfl
  refine congrArg Host.Outcome.next ((if_neg (by simp [hruns])).trans ?_)
  dsimp only
  rw [hdie, if_neg Bool.false_ne_true, hmay, hu]
  rfl

/-- A mount with nothing but one generation takes its words and counts the power-up (R589). -/
theorem exec_logbookMount_first (hready : isReady s 0 = true) (hmounted : s.log.mounted = false) (hgen : s.log.genB = none) (hdeltas : s.log.deltas = [])
    (hdirty : s.log.dirty = []) (hclean : s.power.lastLossUnclean = false) (hu : u = { s with log := { s.log with
      words := (match s.log.genA with | some g => g.words | none => []), mounted := true, deltaLost := false } }) :
    exec .logbookMount s = .next (setReady (logCount u 0x001 1) 21 true) := by
  have hnewer : newerGen s.log.genA none = s.log.genA := by cases s.log.genA <;> rfl
  subst hu
  refine congrArg Host.Outcome.next ((if_neg (by simp [hready, hmounted])).trans ?_)
  dsimp only
  rw [hgen, hdeltas, hdirty, hnewer]
  cases s.log.genA <;> simp only [List.filter_nil, List.getLast?_nil, List.foldl_nil, Bool.false_eq_true, if_false, hclean]

/-! ### Counters and histograms (R586, R587) -/

/-- A counted word saturates at 2^40 - 1. -/
theorem logCount_word (s : State) (id n : Nat) : tblGet {} (logCount s id n).log.words id = logWordAdd (tblGet {} s.log.words id) n := by
  show tblGet {} (tblMod {} s.log.words id (fun w => logWordAdd w n)) id = _
  rw [tblGet_tblMod_same]

theorem logWordAdd_value (w : LogWord) (n : Nat) : (logWordAdd w n).value = Nat.min 0xFFFFFFFFFF (w.value + n) := satTo_eq_min _ _

theorem exec_histogramSample_held (hruns : s.svc.running = true) (hdie : s.power.dieOut = false) : exec .histogramSample s =
    .next (histSample (histSample s 2 (histBin s.power.vinMv 30000 2000 27)) 3 (Nat.min 33 (s.power.vinMv * s.power.iinMa / 10000000))) :=
  congrArg Host.Outcome.next ((if_neg (by simp [hruns])).trans (if_pos hdie))

/-! ### Commands (Tables 19-12, 19-13) -/

section Commands
variable (hready : isReady s 21 = true)
include hready

theorem exec_logbookStatus : ∃ d, exec (.logbookStatus mb) s = .next (reply s mb.val stOk d) ∧ d.length = 48 ∧ slice d 0 1 = toLE 1 s.svc.wearStage := by
  refine ⟨_, congrArg Host.Outcome.next (whenReady_ready hready), ?_, rfl⟩
  simp only [List.length_append, length_toLE, List.length_cons, List.length_nil, zeros, List.length_replicate]

theorem exec_logbookRead_words {f : BitVec 64} {n : BitVec 32} (hcount : n.toNat ≤ 62) (hend : f.toNat + n.toNat ≤ 0x14000) :
    exec (.logbookRead mb 0 f n none) s = .next (reply s mb.val stOk
      ((List.range n.toNat).flatMap (fun i => toLE 8 (if counterIdKnown (f.toNat + i) then logWordBits s (f.toNat + i) else 0)))) := by
  refine congrArg Host.Outcome.next ((whenReady_ready hready).trans ((if_pos rfl).trans ((if_neg ?_).trans ?_)))
  · simp only [Option.isSome_none, Bool.false_eq_true, if_false]
    omega
  · rw [replyBulk, List.append_nil]

theorem exec_logbookRead_events {f : BitVec 64} {n : BitVec 32} (hcount : n.toNat ≤ 12) (hfirst : s.log.eventFirst ≤ f.toNat)
    (hend : f.toNat + n.toNat ≤ s.log.eventNext) : exec (.logbookRead mb 1 f n none) s =
    .next (reply s mb.val stOk (((s.log.events.drop (f.toNat - s.log.eventFirst)).take n.toNat).flatMap eventBytes)) := by
  refine congrArg Host.Outcome.next ((whenReady_ready hready).trans ((if_neg (by decide)).trans ((if_pos rfl).trans ((if_neg ?_).trans ?_))))
  · simp only [Option.isSome_none, Bool.false_eq_true, if_false]
    omega
  · rw [replyBulk, List.append_nil]

theorem exec_logbookRead_args (f : BitVec 64) (n : BitVec 32) : exec (.logbookRead mb 2 f n none) s = .next (reply s mb.val eArgs) :=
  congrArg Host.Outcome.next ((whenReady_ready hready).trans ((if_neg (by decide)).trans (if_neg (by decide))))

theorem exec_histogramRead_bins {id : BitVec 32} {f n : BitVec 16} {b : Nat} (hbins : histBins id.toNat = some b) (hend : f.toNat + n.toNat ≤ b) :
    exec (.histogramRead mb id f n) s = .next (reply s mb.val stOk
      ((List.range n.toNat).flatMap (fun i => toLE 8 (logWordBits s (binWord id.toNat (f.toNat + i)))))) := by
  refine congrArg Host.Outcome.next ((whenReady_ready hready).trans ?_)
  rw [hbins]
  exact if_neg (Nat.not_lt.mpr hend)

theorem exec_histogramRead_args {id : BitVec 32} {f n : BitVec 16} (hbins : histBins id.toNat = none) :
    exec (.histogramRead mb id f n) s = .next (reply s mb.val eArgs) := by
  refine congrArg Host.Outcome.next ((whenReady_ready hready).trans ?_)
  rw [hbins]

end Commands

/-- Settles O58: each event and command by its lemma above. -/
theorem logbook : Obligations.Logbook := by
  unfold Obligations.Logbook
  intro s
  refine ⟨fun p hruns hdie => ⟨_, rfl, fun hno => ?_, fun hmay hfew => ?_, fun hmay hmany => ?_⟩, fun p hstopped => congrArg Host.Outcome.next (if_pos hstopped),
    fun p => ⟨fun hmay hlate => congrArg Host.Outcome.next (if_pos ⟨hmay, hlate⟩), fun hearly => congrArg Host.Outcome.next (if_neg (fun h => absurd h.2 (by omega)))⟩,
    fun hready hmounted hgen hdeltas hdirty hclean => ⟨_, rfl, exec_logbookMount_first hready hmounted hgen hdeltas hdirty hclean rfl⟩,
    fun hmounted => congrArg Host.Outcome.next (if_pos (.inr hmounted)), exec_histogramSample_held, fun hstopped => congrArg Host.Outcome.next (if_pos hstopped),
    fun id n => ⟨logCount_word s id n, (congrArg LogWord.value (logCount_word s id n)).trans (logWordAdd_value _ _)⟩,
    fun mb hready => ⟨exec_logbookStatus hready, fun f n => exec_logbookRead_words hready, fun f n => exec_logbookRead_events hready,
      exec_logbookRead_args hready, fun id f n b => exec_histogramRead_bins hready, fun id f n => exec_histogramRead_args hready⟩⟩
  · rw [exec_logbookDeltaWrite hruns hdie rfl, if_pos hno]
  · rw [exec_logbookDeltaWrite hruns hdie rfl, if_neg (by simp [hmay]), if_neg (Nat.not_lt.mpr hfew)]
  · rw [exec_logbookDeltaWrite hruns hdie rfl, if_neg (by simp [hmay]), if_pos hmany]

end Sys2Proof.Proofs.LogbookRecords
end

section
/-!
PROOFS. The GPIO registers and the TAP (R609 to R613).
-/

namespace Sys2Proof.Proofs.GpioAndBoundaryScan
open Sys2Proof Sys2Proof.Machine Sys2Proof.Proofs.ReadyBits Sys2Proof.Proofs.HostRules

variable {s : State}

/-! ### GPIO (Table 20-10) -/

/-- A word put together bit by bit. -/
theorem testBit_foldl_putBit (f : Nat → Bool) (n k : Nat) :
    ((List.range n).foldl (fun a i => putBit a i (f i)) 0).testBit k = (decide (k < n) && f k) := by
  induction n with
  | zero => simp
  | succ n ih =>
    rw [List.range_succ, List.foldl_append, List.foldl_cons, List.foldl_nil, testBit_putBit, ih]
    by_cases hlast : n = k
    · subst hlast
      simp
    · have hless : k < n + 1 ↔ k < n := by omega
      simp only [hlast, if_false, hless]

/-- The level at a ball, and the change that GPIO_CHANGED keeps. -/
theorem gpioSample_bit (q : PkgState) {k : Nat} (hk : k < 16) : (gpioSample q).gpioIn.testBit k =
      (if q.gpioDir.testBit k = true ∧ (q.gpioOd.testBit k = false ∨ q.gpioOut.testBit k = false) then q.gpioOut.testBit k else q.gpioBoard.testBit k) ∧
    (gpioSample q).gpioChanged.testBit k = (q.gpioChanged.testBit k || (q.gpioIn.testBit k != (gpioSample q).gpioIn.testBit k)) := by
  refine ⟨?_, by rw [gpioSample, Nat.testBit_or, Nat.testBit_xor]⟩
  show (gpioLevels q).testBit k = _
  rw [gpioLevels, testBit_foldl_putBit, decide_eq_true hk, Bool.true_and]
  cases q.gpioDir.testBit k <;> cases q.gpioOd.testBit k <;> cases q.gpioOut.testBit k <;> rfl

/-- GPIO_CHANGED clears where 1 is written. -/
theorem gpioChanged_clear (c : Nat) (v : BitVec 64) {n : Nat} (hn : n < 16) :
    (clearMask c (v.toNat % 65536)).testBit n = (c.testBit n && !v.getLsbD n) := by
  have hlow : (v.toNat % 65536).testBit n = v.getLsbD n := by
    rw [show (65536 : Nat) = 2 ^ 16 from rfl, Nat.testBit_mod_two_pow, decide_eq_true hn, Bool.true_and, BitVec.testBit_toNat]
  rw [testBit_clearMask, hlow]

theorem exec_gpioWrite_on (r : BitVec 6) (v : BitVec 64) (hdie : s.power.dieOut = true) :
    exec (.gpioWrite r v) s = .next { s with pkg := gpioRegWrite s.pkg r.toNat v.toNat } := congrArg Host.Outcome.next (if_pos hdie)

/-! ### Boundary scan (R611 to R613) -/

/-- An instruction that needs TEST_EN, with it. -/
theorem tapSelect_test (htest : s.power.testEn = true) (ir : TapIr) : tapSelect s ir true = { s with pkg := { s.pkg with ir := ir, driven := none } } := by
  rw [tapSelect, htest]
  rfl

/-- An instruction that needs TEST_EN acts as BYPASS without it (R612). -/
theorem tapSelect_noTest (htest : s.power.testEn = false) (ir : TapIr) : tapSelect s ir true = tapSelect s .bypass false := by
  rw [tapSelect, htest]
  rfl

/-- A scan of the boundary register within its cells. -/
theorem tapBoundaryScan_cells (s : State) {c x : Nat} (hc : c < 2 ^ 1211) (hx : x < 2 ^ 1211) :
    tapBoundaryScan s c x = { s with pkg := { s.pkg with boundary := x }, out := .tap 1211 c :: s.out } := by
  rw [tapBoundaryScan, boundaryCells, Nat.mod_eq_of_lt hc, Nat.mod_eq_of_lt hx]
  rfl

section Powered
variable (hpower : s.power.group1 = true)
include hpower

theorem tapExternal_test {c x : Nat} (htest : s.power.testEn = true) (ir : TapIr) (hc : c < 2 ^ 1211) (hx : x < 2 ^ 1211) : tapExternal s ir c x =
    { s with pkg := { s.pkg with ir := ir, boundary := x, driven := some x }, out := .tap 1211 c :: s.out } := by
  have hon : ¬ tapPowered s = false := by rw [tapPowered, hpower]; nofun
  unfold tapExternal
  rw [if_neg hon, htest, if_pos rfl, tapSelect_test htest]
  dsimp only
  rw [tapBoundaryScan_cells _ hc hx]

theorem exec_bypass (c : BitVec 8) : exec (.bypass c) s = .next { s with pkg := { s.pkg with ir := .bypass, driven := none }, out := .tap 1 0 :: s.out } :=
  congrArg Host.Outcome.next (if_pos hpower)

theorem tapExternal_noTest (htest : s.power.testEn = false) (ir : TapIr) (c x : Nat) :
    tapExternal s ir c x = { s with pkg := { s.pkg with ir := .bypass, driven := none }, out := .tap 1 0 :: s.out } := by
  have hon : ¬ tapPowered s = false := by rw [tapPowered, hpower]; nofun
  unfold tapExternal
  rw [if_neg hon, htest, if_neg Bool.false_ne_true, tapSelect_noTest htest]
  rfl

theorem exec_samplePreload {c x : Nat} (hc : c < 2 ^ 1211) (hx : x < 2 ^ 1211) : exec (.samplePreload c x) s =
    .next { s with pkg := { s.pkg with ir := .sample, boundary := x, driven := none }, out := .tap 1211 c :: s.out } :=
  congrArg Host.Outcome.next ((if_pos hpower).trans (tapBoundaryScan_cells _ hc hx))

theorem exec_highz : exec .highz s = .next (tapBypassScan (tapSelect s .highz true)) := congrArg Host.Outcome.next (if_pos hpower)

theorem exec_clamp_test (htest : s.power.testEn = true) :
    exec .clamp s = .next { s with pkg := { s.pkg with ir := .clamp, driven := some s.pkg.boundary }, out := .tap 1 0 :: s.out } := by
  refine congrArg Host.Outcome.next ((if_pos hpower).trans ?_)
  rw [tapSelect_test htest, htest]
  rfl

theorem exec_clamp_noTest (htest : s.power.testEn = false) : exec .clamp s = exec (.bypass 0) s := by
  refine Eq.trans (congrArg Host.Outcome.next ((if_pos hpower).trans ?_)) (exec_bypass hpower 0).symm
  rw [tapSelect_noTest htest, htest]
  rfl

end Powered

/-- Without group 1 the TAP leaves the state as it is, as the model has it. -/
theorem tapExternal_off (hpower : s.power.group1 = false) (ir : TapIr) (c x : Nat) : tapExternal s ir c x = s := if_pos hpower

/-- Settles O60: each register write and instruction by its lemma above. -/
theorem gpioAndTap : Obligations.GpioAndTap := by
  unfold Obligations.GpioAndTap
  intro s
  have hoff (hpower : s.power.group1 = false) : ¬ tapPowered s = true := by rw [tapPowered, hpower]; nofun
  refine ⟨fun v hdie => ⟨exec_gpioWrite_on _ v hdie, exec_gpioWrite_on _ v hdie, exec_gpioWrite_on _ v hdie,
      ⟨_, exec_gpioWrite_on _ v hdie, rfl, fun n hn => gpioChanged_clear _ v hn⟩, exec_gpioWrite_on _ v hdie⟩,
    fun r v hdie => congrArg Host.Outcome.next (if_neg (by simp [hdie])), fun l hruns => congrArg Host.Outcome.next (if_pos hruns),
    fun q k hk => gpioSample_bit q hk, rfl, fun c x hpower htest hc hx => ⟨congrArg Host.Outcome.next (tapExternal_test hpower htest _ hc hx),
      congrArg Host.Outcome.next (tapExternal_test hpower htest _ hc hx), congrArg Host.Outcome.next (tapExternal_test hpower htest _ hc hx)⟩,
    fun c x hpower hc hx => exec_samplePreload hpower hc hx, fun hpower => ⟨congrArg Host.Outcome.next (if_pos hpower), exec_bypass hpower, ?_, ?_⟩,
    fun hpower => ⟨congrArg Host.Outcome.next (if_neg (hoff hpower)), congrArg Host.Outcome.next (if_neg (hoff hpower)),
      congrArg Host.Outcome.next (if_neg (hoff hpower)), fun c => congrArg Host.Outcome.next (if_neg (hoff hpower)), fun c x =>
      ⟨congrArg Host.Outcome.next (tapExternal_off hpower _ c x), congrArg Host.Outcome.next (if_neg (hoff hpower)),
        congrArg Host.Outcome.next (tapExternal_off hpower _ c x), congrArg Host.Outcome.next (tapExternal_off hpower _ c x)⟩⟩⟩
  · intro htest
    refine ⟨?_, exec_clamp_test hpower htest⟩
    rw [exec_highz hpower, tapSelect_test htest]
    rfl
  · intro htest
    have hbypass := exec_bypass hpower 0
    refine ⟨?_, exec_clamp_noTest hpower htest, fun c x => ?_⟩
    · rw [exec_highz hpower, tapSelect_noTest htest, hbypass]
      rfl
    · rw [hbypass]
      exact ⟨congrArg Host.Outcome.next (tapExternal_noTest hpower htest _ c x), congrArg Host.Outcome.next (tapExternal_noTest hpower htest _ c x),
        congrArg Host.Outcome.next (tapExternal_noTest hpower htest _ c x)⟩

end Sys2Proof.Proofs.GpioAndBoundaryScan
end

section
/-!
PROOFS. Input power, rails, resets, Plumb, temperatures, SMBus and the start-up (R464, R565 to R585, R603).
-/

namespace Sys2Proof.Proofs.PowerAndStart
open Sys2Proof Sys2Proof.Machine Sys2Proof.Proofs.ReadyBits Sys2Proof.Proofs.HostRules Sys2Proof.Proofs.MailboxProtocol Sys2Proof.Proofs.ServiceRecords
  Sys2Proof.Proofs.ServiceRules Sys2Proof.Proofs.FaultRecovery Sys2Proof.Proofs.FirmwareAndKeys

variable {s u : State}

/-! ### Records -/

theorem powerRecord_power (s : State) (sev code : Nat) (l : Loc) (d : Bytes) : (powerRecord s sev code l d).power = s.power := by
  unfold powerRecord
  rw [svcRecord_frame]

theorem powerRecord_now (s : State) (sev code : Nat) (l : Loc) (d : Bytes) : (powerRecord s sev code l d).now = s.now := by
  unfold powerRecord
  rw [svcRecord_frame]

theorem powerRecord_restarts (s : State) (sev code : Nat) (l : Loc) (d : Bytes) :
    (powerRecord s sev code l d).svc.deviceRestarts = s.svc.deviceRestarts := by
  unfold powerRecord
  rw [svcRecord_svc]

/-- A record below S3 leaves FAULT_N. -/
theorem svcRecord_faultN {sev : Nat} (hminor : sev < 3) (s : State) (cls code : Nat) (l : Loc) (d : Bytes) :
    (svcRecord s sev cls code l d).svc.faultN = s.svc.faultN := by
  unfold svcRecord
  dsimp only
  split
  · rw [putRecord_svc, if_neg (by dsimp only; omega)]
  · rw [if_neg (by omega), logRecord_frame]
    dsimp only
    rw [svcQueueStore_frame]

/-! ### Input power (R566, R568, R569) -/

theorem fallback_power (s : State) (reason : Nat) : (fallback s reason).power = s.power := by
  unfold fallback
  split
  · rfl
  · rw [logCount_power, serviceRecord, svcRecord_frame]

theorem fallback_faultN (s : State) (reason : Nat) : (fallback s reason).svc.faultN = s.svc.faultN := by
  unfold fallback
  split
  · rfl
  · rw [logCount_svc, serviceRecord, svcRecord_faultN (by omega)]

theorem exec_vinUvlo_valid (hvalid : s.power.vinValid = true) : exec .vinUvlo s = .next (powerOff s) := congrArg Host.Outcome.next (if_pos hvalid)

/-- A power-up of the service die begins (R518, R551, R582). -/
theorem exec_vinValid_rises (hlow : s.power.vinValid = false) : ∃ t, exec .vinValid s = .next t ∧ t.power.vinValid = true ∧ t.svc.faultN = false ∧
    t.power.lastLossUnclean = !s.power.cleanMarker ∧ t.power.cleanMarker = false ∧
    (s.svc.fw = .trial → t.svc.fw = .restoring ∧ t.svc.fallbackReason = 3) := by
  refine ⟨_, congrArg Host.Outcome.next (if_neg (by simp [hlow])), ?_⟩
  dsimp only
  rw [fallback_power, fallback_faultN]
  refine ⟨rfl, rfl, rfl, rfl, fun hfw => ?_⟩
  obtain ⟨hrestoring, hreason, -⟩ := fallback_svc (s := { powerOff s with
    svc := { (powerOff s).svc with faultN := false, deviceRestarts := 0, lastClass := 0, lastCode := 0, lastLoc := 0 }
    power := { (powerOff s).power with vinValid := true, cleanMarker := false, lastLossUnclean := !s.power.cleanMarker } }) hfw 3
  exact ⟨hrestoring, hreason⟩

theorem exec_railGroupUp_two (hone : s.power.group1 = true) (hheld : s.power.railsHeldOff = false) (hpfail : s.power.pfailLow = false)
    (hholding : s.power.holding = false) : exec (.railGroupUp .two) s = .next { s with power := { s.power with group2 := true } } := by
  refine congrArg Host.Outcome.next ((if_neg (by simp [hone, hheld, hpfail])).trans ?_)
  rw [if_neg (Bool.eq_false_iff.mp hholding)]

theorem exec_railGroupUp_three (htwo : s.power.group2 = true) (hthree : s.power.group3 = false)
    (hallowed : releaseAllowed { s with power := { s.power with group3 := true } } = true) :
    exec (.railGroupUp .three) s = .next (dieRelease { s with power := { s.power with group3 := true } }) :=
  congrArg Host.Outcome.next ((if_neg (by simp [htwo, hthree])).trans (if_pos hallowed))

/-- The processor die leaves reset (R507, R563). -/
theorem dieRelease_state (hdie : s.power.dieOut = false) : (dieRelease s).power.dieOut = true ∧ (dieRelease s).power.holding = false ∧
    (dieRelease s).svc.queue = [] := by
  unfold dieRelease
  rw [hdie, if_neg Bool.false_ne_true]
  exact ⟨rfl, rfl, rfl⟩

theorem exec_processorResetRelease_held (hallowed : releaseAllowed s = true) (hdie : s.power.dieOut = false) (hholding : s.power.holding = true)
    (hu : u = advanceTo s (s.power.holdFrom + 16000000)) : exec .processorResetRelease s = .next (dieRelease u) := by
  refine congrArg Host.Outcome.next ((if_pos ⟨hallowed, hdie⟩).trans ?_)
  rw [if_pos hholding, hu]
  rfl

/-! ### DEVICE restarts of the service die (R569, R580, R583, R603) -/

theorem deviceRestartNow_now (s : State) (cls code loc : Nat) : (deviceRestartNow s cls code loc).now = s.now := by
  unfold deviceRestartNow
  dsimp only
  rw [logCount_now, assertFaultN_frame]
  exact (fallback_kept s 2).2

/-- A DEVICE restart after a record or a count, with the cause it names. -/
theorem deviceRestartNow_restarted {v : State} (hnow : v.now = s.now) (hcount : v.svc.deviceRestarts = s.svc.deviceRestarts) (cls code loc : Nat) :
    Restarted s (deviceRestartNow v cls code loc) cls code loc := by
  obtain ⟨hdie, hholding, -, hfault, hclass, hcode, hloc, hplan, hmem, hrestarts, -⟩ := deviceRestartNow_state (s := v) (cls := cls) (code := code) (loc := loc) rfl
  exact ⟨hdie, hholding, hfault, hclass, hcode, hloc, hrestarts.trans (congrArg (· + 1) hcount), hplan, hmem, (deviceRestartNow_now v cls code loc).trans hnow⟩

/-- Power pins and the logbook stand apart from what a DEVICE restart leaves. -/
theorem restarted_of_same {t w : State} {cls code loc : Nat} (h : Restarted s t cls code loc) (hdie : w.power.dieOut = t.power.dieOut)
    (hholding : w.power.holding = t.power.holding) (hsvc : w.svc = t.svc) (hplan : w.plan = t.plan) (hmem : w.mem = t.mem) (hnow : w.now = t.now) :
    Restarted s w cls code loc := by
  unfold Restarted at h ⊢
  rw [hdie, hholding, hsvc, hplan, hmem, hnow]
  exact h

theorem exec_railFault_two (hruns : s.svc.running = true) (htwo : s.power.group2 = true) : ∃ t, exec (.railFault .two) s = .next t ∧
    Restarted s t 0x11 0x0005 (locCode s powerLoc) ∧ t.power.group2 = false ∧ t.power.group3 = false := by
  have hrestart := deviceRestartNow_restarted (s := s) (powerRecord_now s 4 0x0005 powerLoc []) (powerRecord_restarts s 4 0x0005 powerLoc []) 0x11 0x0005 (locCode s powerLoc)
  exact ⟨_, congrArg Host.Outcome.next (if_neg (by simp [hruns, htwo])), restarted_of_same hrestart rfl rfl rfl rfl rfl rfl, rfl, rfl⟩

/-- The delta record at PFAIL_N changes the logbook only. -/
theorem pfailDelta_frame (s : State) : pfailDelta s = { s with log := (pfailDelta s).log } := by
  unfold pfailDelta
  dsimp only
  split
  · rfl
  · split <;> rfl

theorem exec_pfailAssert_runs (hhigh : s.power.pfailLow = false) (hruns : s.svc.running = true) : ∃ t, exec .pfailAssert s = .next t ∧
    Restarted s t 0x11 0x0003 (locCode s powerLoc) ∧ t.power.pfailLow = true ∧ t.power.group2 = false ∧ t.power.group3 = false ∧
    t.power.cleanMarker = true := by
  have hrestart := deviceRestartNow_restarted (s := s) (v := logCount (powerRecord s 4 0x0003) 0x003 1) (powerRecord_now s 4 0x0003 powerLoc [])
    (powerRecord_restarts s 4 0x0003 powerLoc []) 0x11 0x0003 (locCode s powerLoc)
  refine ⟨_, congrArg Host.Outcome.next ((if_neg (by simp [hhigh])).trans (if_neg (by simp [hruns]))), restarted_of_same hrestart ?_ ?_ ?_ ?_ ?_ ?_, rfl, rfl, rfl, rfl⟩
  all_goals
    dsimp only
    rw [pfailDelta_frame]

/-- A DEVICE restart by the RESET_PIN code. -/
theorem resetPinRestart_restarted (hruns : s.svc.running = true) : Restarted s (resetPinRestart s) 0x11 0x000A (locCode s powerLoc) := by
  unfold resetPinRestart
  rw [if_neg (by simp [hruns])]
  exact deviceRestartNow_restarted (v := logCount (powerRecord s 4 0x000A) 0x004 1) (powerRecord_now s 4 0x000A powerLoc [])
    (powerRecord_restarts s 4 0x000A powerLoc []) _ _ _

theorem exec_resetAssert_runs (hhigh : s.power.resetLow = false) (hruns : s.svc.running = true) : ∃ t, exec .resetAssert s = .next t ∧
    Restarted s t 0x11 0x000A (locCode s powerLoc) ∧ t.power.resetLow = true ∧ t.power.railsHeldOff = false :=
  ⟨_, congrArg Host.Outcome.next (if_neg (by simp [hhigh])), restarted_of_same (resetPinRestart_restarted hruns) rfl rfl rfl rfl rfl rfl, rfl, rfl⟩

theorem exec_testEnRise_runs (hlow : s.power.testEn = false) (hruns : s.svc.running = true) : ∃ t, exec .testEnRise s = .next t ∧
    Restarted s t 0x11 0x000A (locCode s powerLoc) ∧ t.power.testEn = true :=
  ⟨_, congrArg Host.Outcome.next (if_neg (by simp [hlow])), restarted_of_same (resetPinRestart_restarted hruns) rfl rfl rfl rfl rfl rfl, rfl⟩

theorem exec_testEnFall_falls (hhigh : s.power.testEn = true) : ∃ t, exec .testEnFall s = .next t ∧ t.power.testEn = false ∧ t.power.holdFrom = s.now ∧
    t.power.holding = true ∧ t.pkg.driven = none ∧ (s.pkg.ir = .extest → t.pkg.ir = .bypass) ∧ t = { s with power := t.power, pkg := t.pkg } :=
  ⟨_, congrArg Host.Outcome.next (if_pos hhigh), rfl, rfl, rfl, rfl, fun hir => by dsimp only; rw [hir], rfl⟩

/-! ### Averages (R567, R578) -/

/-- An alert changes nothing else (R578). -/
theorem withAlert_frame (old new : State) : withAlert old new = { new with power := { new.power with alert := (withAlert old new).power.alert } } := by
  unfold withAlert
  split <;> rfl

theorem exec_vinAverage_normal {mv ma : Nat} (hruns : s.svc.running = true) (hlow : 33500 ≤ mv) (hhigh : mv ≤ 79500) (hvinLow : s.power.vinLow = false)
    (hvinHigh : s.power.vinHigh = false) : ∃ t, exec (.vinAverage mv ma) s = .next t ∧ t.power.vinMv = mv ∧ t.power.iinMa = ma ∧
    t.power.energyNj = s.power.energyNj + mv * ma ∧ t.power.vinLow = false ∧ t.power.vinHigh = false ∧ t.fault = s.fault := by
  have hbelow : decide (mv < 33000) = false := decide_eq_false (by omega)
  have habove : decide (80000 < mv) = false := decide_eq_false (by omega)
  refine ⟨_, congrArg Host.Outcome.next (if_neg (by simp [hruns])), ?_⟩
  dsimp only
  rw [withAlert_frame, hbelow, habove, hvinLow, hvinHigh]
  simp only [Bool.false_eq_true, if_false, OfNat.zero_ne_ofNat, false_and, ite_self, logCount_power, logCount_fault, and_self]

theorem exec_vinAverage_low {mv ma : Nat} (hruns : s.svc.running = true) (hlow : mv < 33000) (hrun : s.power.lowRun = 9) :
    ∃ t, exec (.vinAverage mv ma) s = .next t ∧ t.power.vinLow = true := by
  refine ⟨_, congrArg Host.Outcome.next (if_neg (by simp [hruns])), ?_⟩
  dsimp only
  rw [withAlert_frame]
  simp only [apply_ite State.power, powerRecord_power, logCount_power, ite_self, hrun, decide_eq_true hlow, if_true, Nat.reduceAdd]

/-! ### Plumb (R571 to R575) -/

theorem getPlumb_congr {t : State} (h : t.power.plumb = s.power.plumb) (n : Nat) : getPlumb t n = getPlumb s n := by unfold getPlumb; rw [h]

theorem getPlumb_set (s : State) (n : Nat) (p : Plumb) : getPlumb { s with power := { s.power with plumb := tblSet s.power.plumb n p } } n = p := by
  rw [getPlumb, tblGet, tblFind_tblSet_same]
  rfl

theorem getPlumb_withAlert (old new : State) (n : Nat) : getPlumb (withAlert old new) n = getPlumb new n := getPlumb_congr (by rw [withAlert_frame]) n

theorem getPlumb_powerRecord (s : State) (sev code : Nat) (l : Loc) (d : Bytes) (n : Nat) : getPlumb (powerRecord s sev code l d) n = getPlumb s n :=
  getPlumb_congr (by rw [powerRecord_power]) n

/-- READY.GOVERNOR leaves the set points (R575). -/
theorem governorReady_power (s : State) : (governorReady s).power = s.power := by
  have hset (x : State) (i : Nat) (b : Bool) : (setReady x i b).power = x.power := by rw [setReady_frame]
  unfold governorReady
  split
  · dsimp only
    split
    · rw [hset]
      exact hset _ _ _
    · exact hset _ _ _
  · rfl

theorem getPlumb_governorReady (s : State) (n : Nat) : getPlumb (governorReady s) n = getPlumb s n := getPlumb_congr (by rw [governorReady_power]) n

/-- The set point and the reading stay where the margin is judged (R573). -/
theorem marginLaw_plumb (s : State) (n : Nat) (p : Plumb) (d : Nat) : (getPlumb (marginLaw s n p d) n).vcode = p.vcode ∧
    (getPlumb (marginLaw s n p d) n).delay = p.delay := by
  unfold marginLaw
  dsimp only
  split
  · split
    · rw [getPlumb_powerRecord, getPlumb_set]
      exact ⟨rfl, rfl⟩
    · rw [getPlumb_congr (congrArg PowerState.plumb (logCount_power _ _ _)), getPlumb_set]
      exact ⟨rfl, rfl⟩
  · split
    · rw [getPlumb_set]
      exact ⟨rfl, rfl⟩
    · rw [getPlumb_set]
      exact ⟨rfl, rfl⟩

/-- The law looks at the set point and the count only. -/
theorem beaconLaw_vcode {p q : Plumb} (hvcode : q.vcode = p.vcode) (hcount : q.count = p.count) (d : Nat) :
    (beaconLaw q d).vcode = (beaconLaw p d).vcode := by
  unfold beaconLaw
  dsimp only
  rw [hvcode, hcount]
  split
  · rfl
  · split
    · split <;> rfl
    · rfl

theorem beaconLaw_delay (p : Plumb) (d : Nat) : (beaconLaw p d).delay = p.delay := by
  unfold beaconLaw
  dsimp only
  split
  · rfl
  · split
    · split <;> rfl
    · rfl

/-- The law below, in and above its band (R571). -/
theorem beaconLaw_bands (p : Plumb) : (beaconLaw p 600).vcode = Nat.min 88 (p.vcode + 1) ∧ (beaconLaw p 490).vcode = p.vcode ∧
    (p.count = 63 → (beaconLaw p 400).vcode = p.vcode - 1) := by
  refine ⟨rfl, rfl, fun hcount => ?_⟩
  rw [beaconLaw, if_neg (by decide), if_pos (by decide), if_pos (by rw [hcount])]

theorem exec_plumbReading_none {c : ClusterId} (rate : Nat) (hdie : s.power.dieOut = true) (hsensor : (getPlumb s c.val).sensorLost = false) :
    ∃ t, exec (.plumbReading c none rate) s = .next t ∧ (getPlumb t c.val).sensorLost = true ∧ (getPlumb t c.val).vcode = 88 := by
  refine ⟨_, congrArg Host.Outcome.next (if_neg (by simp [hdie])), ?_⟩
  dsimp only
  rw [getPlumb_governorReady, getPlumb_withAlert, sensorLost, hsensor, if_neg Bool.false_ne_true, getPlumb_powerRecord, getPlumb_set]
  exact ⟨rfl, rfl⟩

/-- A reading of a BEACON cluster moves its set point by the law (R571). -/
theorem exec_plumbReading_beacon {c : ClusterId} {d : Nat} (rate : Nat) (hdie : s.power.dieOut = true) (hbeacon : clusterFree s c.val = false)
    (hlow : 150 ≤ d) (hhigh : d ≤ 700) (hsensor : (getPlumb s c.val).sensorLost = false) : ∃ t, exec (.plumbReading c (some d) rate) s = .next t ∧
    (getPlumb t c.val).delay = d ∧ (getPlumb t c.val).vcode = (beaconLaw (getPlumb s c.val) d).vcode := by
  have hcount (x : State) (b : Prop) [Decidable b] (id : Nat) : getPlumb (if b then logCount x id 1 else x) c.val = getPlumb x c.val := by split <;> rfl
  refine ⟨_, congrArg Host.Outcome.next ((if_neg (by simp [hdie])).trans (if_neg (by omega))), ?_⟩
  dsimp only
  rw [getPlumb_governorReady, getPlumb_withAlert, hcount, hsensor, hbeacon, if_neg (by simp), (marginLaw_plumb _ _ _ _).1, (marginLaw_plumb _ _ _ _).2]
  dsimp only
  rw [if_neg Bool.false_ne_true, if_neg Bool.false_ne_true, beaconLaw_delay]
  exact ⟨rfl, beaconLaw_vcode (by rfl) (by rfl) d⟩

/-! ### Temperatures (R576) -/

theorem exec_tempMeasure_held {cs : List Int} {a b : Int} (hruns : s.svc.running = true) (hdie : s.power.dieOut = false) :
    exec (.tempMeasure cs a b) s = .next { s with power := { s.power with tempStage := a, tempSvc := b } } :=
  congrArg Host.Outcome.next ((if_neg (by simp [hruns])).trans (if_pos (.inl hdie)))

theorem exec_tempMeasure_one {x : Int} (a b : Int) (hruns : s.svc.running = true) (hdie : s.power.dieOut = true) : ∃ t, exec (.tempMeasure [x] a b) s = .next t ∧
    t.power.tjMax = x ∧ (100000 ≤ x → t.power.tempHigh = true) ∧ (x < 95000 → t.power.tempHigh = false) ∧ (105000 ≤ x → t.power.tempOver = true) := by
  have hhottest : [x].foldl (fun a b => if a < b then b else a) ([x].headD 0) = x := if_neg (Int.lt_irrefl x)
  refine ⟨_, congrArg Host.Outcome.next ((if_neg (by simp [hruns])).trans (if_neg (by simp [hdie]))), ?_⟩
  dsimp only
  rw [withAlert_frame, hhottest]
  simp only [apply_ite State.power, powerRecord_power, ite_self, true_and]
  refine ⟨fun h => if_pos h, fun h => ?_, fun h => if_pos h⟩
  rw [if_neg (by omega), if_pos h]

/-! ### SMBus (R578) -/

section Smbus
variable (hup : smbusUp s = true)
include hup

theorem exec_smbusReadWord_known {c : BitVec 8} {w : Nat} (hword : smbusWord s c.toNat = some w) :
    exec (.smbusReadWord c) s = .next { s with out := .smbusWord w :: s.out } := by
  refine congrArg Host.Outcome.next ((if_neg (by simp [hup])).trans ?_)
  rw [hword]
  rfl

theorem exec_smbusReadWord_other {c : BitVec 8} (hword : smbusWord s c.toNat = none) :
    exec (.smbusReadWord c) s = .next { s with out := .smbusNack :: s.out } := by
  refine congrArg Host.Outcome.next ((if_neg (by simp [hup])).trans ?_)
  rw [hword]
  rfl

theorem exec_smbusAlertResponse (halert : s.power.alert = true) : exec .smbusAlertResponse s = .next { s with
    power := { s.power with alert := false }, out := .smbusWord (2 * (0x58 + s.svc.devId)) :: s.out } :=
  congrArg Host.Outcome.next (if_pos (by simp [hup, halert]))

end Smbus

/-! ### Start-up (R584) -/

theorem exec_serviceDieStart (hone : s.power.group1 = true) (hstopped : s.svc.running = false) : ∃ t, exec .serviceDieStart s = .next t ∧
    t.svc.running = true ∧ t.svc.devId = s.svc.devIdStrap % 4 ∧ isReady t 0 = true := by
  refine ⟨_, congrArg Host.Outcome.next (if_neg (by simp [hone, hstopped])), ?_, ?_, ?_⟩
  · rw [setReady_svc]
    rfl
  · rw [setReady_svc]
    rfl
  · rw [isReady_setReady_true]
    exact Bool.or_true _

/-- READY.GOVERNOR clears no bit (R575). -/
theorem governorReady_isReady (s : State) {i : Nat} (h : isReady s i = true) : isReady (governorReady s) i = true := by
  unfold governorReady
  split
  · dsimp only
    split
    · rw [isReady_setReady_true]
      refine Bool.or_eq_true_iff.mpr (.inl ((isReady_setReady_true s 20 i).trans ?_))
      rw [h]
      rfl
    · rw [isReady_setReady_true, h]
      rfl
  · exact h

theorem exec_onDieMemoryInit (hdie : s.power.dieOut = true) : ∃ t, exec .onDieMemoryInit s = .next t ∧ t.power.memInit = true ∧
    isReady t 12 = true ∧ isReady t 13 = true ∧ isReady t 14 = true ∧ isReady t 23 = true ∧ isReady t 24 = true := by
  refine ⟨_, congrArg Host.Outcome.next (if_neg (by simp [hdie])), ?_, ?_, ?_, ?_, ?_, ?_⟩
  · rw [governorReady_power]
    simp only [List.foldl_cons, List.foldl_nil]
    rw [setReady_frame, setReady_frame, setReady_frame, setReady_frame, setReady_frame]
  all_goals exact governorReady_isReady _ (by simp)

/-! ### The end of a Hawk restart (R464) -/

/-- A result that becomes visible leaves the count of restarts and the recoveries. -/
theorem publish_hawkRestarts (s : State) (n : Nat) (r : Reply) : (publish s n r).host.hawkRestarts = s.host.hawkRestarts := by
  unfold publish
  dsimp only
  rw [raiseInt_host]
  dsimp only
  split <;> rfl

/-- Hawk runs. -/
theorem hawkRunning_state (s : State) : (hawkRunning s).host.hawkState = 1 ∧ isReady (hawkRunning s) 2 = true ∧ isReady (hawkRunning s) 3 = true ∧
    (hawkRunning s).host.hawkRestarts = s.host.hawkRestarts := by
  have hhost (x : State) (i : Nat) : (setReady x i true).host.hawkState = x.host.hawkState ∧ (setReady x i true).host.hawkRestarts = x.host.hawkRestarts := by
    unfold setReady
    split
    · exact ⟨rfl, rfl⟩
    · constructor
      · show (raiseInt _ 25).host.hawkState = _
        rw [raiseInt_host]
      · show (raiseInt _ 25).host.hawkRestarts = _
        rw [raiseInt_host]
  have hset (x : State) : (setReady (setReady x 2 true) 3 true).host.hawkState = x.host.hawkState ∧ isReady (setReady (setReady x 2 true) 3 true) 2 = true ∧
      isReady (setReady (setReady x 2 true) 3 true) 3 = true ∧ (setReady (setReady x 2 true) 3 true).host.hawkRestarts = x.host.hawkRestarts := by
    rw [(hhost _ _).1, (hhost _ _).1, (hhost _ _).2, (hhost _ _).2]
    simp
  unfold hawkRunning
  dsimp only
  split
  · exact hset { s with host := { s.host with hawkState := 1 } }
  · exact hset { s with host := { s.host with hawkState := 1 } }

/-- The end of a Hawk restart from the state `w` in which the results are out: Hawk runs and its restart counts. -/
def hawkBack (w : State) : State :=
  acceptHeld (hawkEvent (raiseInt (logCount { hawkRunning w with host := { (hawkRunning w).host with
    hawkRestarts := satTo 0xFFFF ((hawkRunning w).host.hawkRestarts + 1) } } 0x006 1) 28))

theorem hawkBack_eq (w : State) : hawkBack w = acceptHeld (hawkEvent (raiseInt (logCount { hawkRunning w with host := { (hawkRunning w).host with
    hawkRestarts := satTo 0xFFFF ((hawkRunning w).host.hawkRestarts + 1) } } 0x006 1) 28)) := rfl

/-- What every step keeps a fold keeps. -/
theorem foldl_keeps {α β : Type} {f : State → α → State} {p : State → β} (h : ∀ x a, p (f x a) = p x) (l : List α) (s : State) : p (l.foldl f s) = p s := by
  induction l generalizing s with
  | nil => rfl
  | cons a l ih => rw [List.foldl_cons, ih, h]

theorem restarts_foldl {α : Type} {f : State → α → State} (h : ∀ x a, (f x a).host.hawkRestarts = x.host.hawkRestarts) (l : List α) (s : State) :
    (l.foldl f s).host.hawkRestarts = s.host.hawkRestarts :=
  foldl_keeps (p := fun (x : State) => x.host.hawkRestarts) h l s

/-- Hawk's state, its restarts and the READY bits. -/
def hawkView (s : State) : Nat × Nat × Nat := (s.host.hawkState, s.host.hawkRestarts, s.ready)

theorem acceptCommand_view (s : State) (n : Nat) : hawkView (acceptCommand s n) = hawkView s := by
  unfold acceptCommand
  dsimp only
  split <;> rfl

theorem acceptHeld_view (s : State) : hawkView (acceptHeld s) = hawkView s := by
  refine foldl_keeps (fun x n => ?_) _ s
  split
  · exact acceptCommand_view x n
  · rfl

/-- The HAWK event sets flags of threads. -/
theorem hawkEvent_view (s : State) : hawkView (hawkEvent s) = hawkView s := by
  refine foldl_keeps (fun x e => ?_) _ s
  split
  · exact foldl_keeps (p := hawkView) (f := fun y t => setFlag y t 15) (fun _ _ => rfl) _ x
  · rfl

theorem raiseInt_view (s : State) (n : Nat) : hawkView (raiseInt s n) = hawkView s := by
  unfold hawkView
  rw [raiseInt_host, raiseInt_frame]

theorem hawkBack_state (w : State) {n : Nat} (hn : w.host.hawkRestarts = n) : (hawkBack w).host.hawkState = 1 ∧ isReady (hawkBack w) 2 = true ∧
    isReady (hawkBack w) 3 = true ∧ (hawkBack w).host.hawkRestarts = Nat.min 0xFFFF (n + 1) := by
  subst hn
  obtain ⟨hstate, hready, hmailbox, hcount⟩ := hawkRunning_state w
  have hview : hawkView (hawkBack w) = (1, Nat.min 0xFFFF (w.host.hawkRestarts + 1), (hawkRunning w).ready) := by
    rw [hawkBack, acceptHeld_view, hawkEvent_view, raiseInt_view, ← hcount, ← satTo_eq_min, ← hstate]
    rfl
  obtain ⟨hstate', hview⟩ := Prod.mk.inj hview
  obtain ⟨hcount', hready'⟩ := Prod.mk.inj hview
  unfold isReady at *
  rw [hready']
  exact ⟨hstate', hready, hmailbox, hcount'⟩

/-- The end of Hawk's restart within its bound, with nothing of a commit to undo (R464). -/
theorem exec_hawkRestartEnd (hstate : s.host.hawkState = 2) (hloader : s.power.loaderOk = true) (hothers : ∀ r ∈ s.fault.recovering, r.loc.l5 ≠ 30)
    (hundo : s.plan.undo = false) : ∃ t, exec .hawkRestartEnd s = .next t ∧ t.host.hawkState = 1 ∧ isReady t 2 = true ∧ isReady t 3 = true ∧
    t.host.hawkRestarts = Nat.min 0xFFFF (s.host.hawkRestarts + 1) := by
  have hnone : s.fault.recovering.find? (fun r => decide (r.loc.l5 = 30) && decide (r.since + msTicks 60 < s.now)) = none :=
    List.find?_eq_none.mpr (fun r hr => by simp [hothers r hr])
  refine ⟨_, congrArg Host.Outcome.next (if_neg (by simp [hstate, hloader])), ?_⟩
  rw [hnone]
  dsimp only
  rw [hundo, if_neg Bool.false_ne_true, ← hawkBack_eq]
  refine hawkBack_state _ ?_
  dsimp only
  refine (restarts_foldl (fun x n => ?_) _ _).trans rfl
  split
  · exact publish_hawkRestarts _ _ _
  · rfl

/-- Settles O59: each event by its lemma above. -/
theorem powerAndResets : Obligations.PowerAndResets := by
  unfold Obligations.PowerAndResets
  intro s
  exact ⟨fun hvalid => ⟨_, exec_vinUvlo_valid hvalid, rfl, rfl, rfl, rfl, rfl, rfl, rfl, rfl, rfl, rfl, rfl⟩,
    fun hlow => congrArg Host.Outcome.next (if_neg (Bool.eq_false_iff.mp hlow)), exec_vinValid_rises, fun hvalid => congrArg Host.Outcome.next (if_pos hvalid),
    exec_railGroupUp_two, fun htwo => congrArg Host.Outcome.next (if_pos (.inl htwo)), exec_railGroupUp_three, dieRelease_state, exec_railFault_two, rfl,
    fun hallowed hdie hholding => ⟨_, rfl, exec_processorResetRelease_held hallowed hdie hholding rfl⟩, exec_pfailAssert_runs,
    fun hlow => ⟨congrArg Host.Outcome.next (if_pos hlow), congrArg Host.Outcome.next (if_pos hlow)⟩, exec_resetAssert_runs,
    fun hlow => congrArg Host.Outcome.next (if_pos hlow), exec_testEnRise_runs, exec_testEnFall_falls, fun mv ma => exec_vinAverage_normal,
    fun mv ma hruns hlow hrun _ => exec_vinAverage_low hruns hlow hrun, fun c rate => exec_plumbReading_none rate,
    fun c d rate hdie hbeacon hlow hhigh hsensor => exec_plumbReading_beacon rate hdie hbeacon hlow hhigh hsensor,
    fun c ps rate hdie => congrArg Host.Outcome.next (if_pos hdie), beaconLaw_bands, fun cs a b => exec_tempMeasure_held,
    fun x a b => exec_tempMeasure_one a b, fun hup => ⟨fun c w => exec_smbusReadWord_known hup, fun c => exec_smbusReadWord_other hup,
      fun c w => congrArg Host.Outcome.next (if_pos hup), exec_smbusAlertResponse hup⟩, exec_serviceDieStart, exec_onDieMemoryInit,
    fun hdie => congrArg Host.Outcome.next (if_pos hdie),
    fun hdie => ⟨congrArg Host.Outcome.next (if_neg (Bool.eq_false_iff.mp hdie)), congrArg Host.Outcome.next (if_pos hdie)⟩, exec_hawkRestartEnd,
    fun hstate => congrArg Host.Outcome.next (if_pos (.inl hstate))⟩

end Sys2Proof.Proofs.PowerAndStart
end

section
/-!
PROOFS. A device without a commit stays without one where errors are handled, words of HBM are written, references are
given back and threads stop (R62, R298). What leaves the plan state as it is by definition needs no lemma here: there
`NoCommit` is the same proposition before and after.
-/

namespace Sys2Proof.Proofs.NoCommitInForce
open Sys2Proof Sys2Proof.Machine

/- One lemma after the other, as in the tests: side by side, the many case splits here want a thread's stack each. -/
set_option Elab.async false

/-- No commit is under way. -/
def NoCommit (s : State) : Prop := s.plan.commit = none

section Rules
variable {s : State}

theorem ite_noCommit {c : Prop} [Decidable c] {t : State} (hs : NoCommit s) (ht : NoCommit t) : NoCommit (if c then s else t) := by
  split <;> assumption

/-- A state with the same plan state has no commit either. -/
theorem NoCommit.same {t : State} (hs : NoCommit s) (h : t.plan = s.plan := by rfl) : NoCommit t := by
  rw [NoCommit, h]
  exact hs

theorem NoCommit.of_snd {α : Type} {p : α × State} {a : α} {t : State} (h : NoCommit p.2) (e : p = (a, t)) : NoCommit t := by
  rw [e] at h
  exact h

theorem ite_snd_snd_noCommit {α β : Type} {c : Prop} [Decidable c] {p q : α × β × State} (hp : NoCommit p.2.2) (hq : NoCommit q.2.2) :
    NoCommit (if c then p else q).2.2 := by
  split <;> assumption

theorem foldl_noCommit {α : Type} {f : State → α → State} {l : List α} (hs : NoCommit s) (hf : ∀ x a, NoCommit x → NoCommit (f x a)) :
    NoCommit (l.foldl f s) :=
  List.foldlRecOn l f hs fun x hx a _ => hf x a hx

/-! ### Records, READY bits and time -/

theorem record_noCommit {sev cls code : Nat} {l : Loc} {d : Bytes} {i : Bool} (hs : NoCommit s) : NoCommit (record s sev cls code l d i) := by
  rw [record_frame]
  exact hs

theorem svcRecord_noCommit {sev cls code : Nat} {l : Loc} {d : Bytes} (hs : NoCommit s) : NoCommit (svcRecord s sev cls code l d) := by
  rw [svcRecord_frame]
  exact hs

theorem serviceRecord_noCommit {sev code n : Nat} {d : Bytes} (hs : NoCommit s) : NoCommit (serviceRecord s sev code n d) :=
  svcRecord_noCommit hs

theorem logCount_noCommit {id n : Nat} (hs : NoCommit s) : NoCommit (logCount s id n) := hs

theorem faultCount_noCommit {off n : Nat} (hs : NoCommit s) : NoCommit (faultCount s off n) := hs

theorem setReady_noCommit {i : Nat} {b : Bool} (hs : NoCommit s) : NoCommit (setReady s i b) := by
  rw [setReady_frame]
  exact hs

theorem raiseInt_noCommit {n : Nat} (hs : NoCommit s) : NoCommit (raiseInt s n) := by
  rw [raiseInt_frame]
  exact hs

theorem advanceTo_noCommit {t : Nat} (hs : NoCommit s) : NoCommit (advanceTo s t) := by
  rw [advanceTo_frame]
  exact hs

/-! ### Errors and restarts -/

/-- A Hawk restart can only cut a commit. -/
theorem planHawkRestart_noCommit (hs : NoCommit s) : NoCommit (planHawkRestart s) := by
  unfold planHawkRestart
  rw [show s.plan.commit = none from hs]
  exact hs

theorem hawkRestartNow_noCommit (hs : NoCommit s) : NoCommit (hawkRestartNow s) :=
  raiseInt_noCommit (setReady_noCommit (setReady_noCommit (planHawkRestart_noCommit hs)))

theorem fallback_noCommit {reason : Nat} (hs : NoCommit s) : NoCommit (fallback s reason) :=
  ite_noCommit hs (logCount_noCommit (serviceRecord_noCommit hs))

theorem unitReadyClear_noCommit {u : Loc} (hs : NoCommit s) : NoCommit (unitReadyClear s u) := by
  have hbit : NoCommit (match unitReadyBit u with | some b => setReady s b false | none => s) := by
    split
    · exact setReady_noCommit hs
    · exact hs
  exact ite_noCommit (setReady_noCommit hbit) hbit

theorem decideDevice_noCommit {cls code loc : Nat} (hs : NoCommit s) : NoCommit (decideDevice s cls code loc) := by
  unfold decideDevice
  split <;> exact hs

theorem escalated_noCommit {sev old cls code : Nat} {l : Loc} (hs : NoCommit s) : NoCommit (escalated s sev old cls code l) :=
  record_noCommit hs

theorem startRestart_noCommit {u : Loc} {cls code : Nat} {mailbox : Option Nat} (hs : NoCommit s) : NoCommit (startRestart s u cls code mailbox) := by
  unfold startRestart
  refine ite_noCommit (decideDevice_noCommit (escalated_noCommit hs)) ?_
  split
  · exact decideDevice_noCommit hs
  · exact ite_noCommit (hawkRestartNow_noCommit (ite_noCommit (fallback_noCommit (record_noCommit (unitReadyClear_noCommit (faultCount_noCommit (record_noCommit hs)))))
      (record_noCommit (unitReadyClear_noCommit (faultCount_noCommit (record_noCommit hs)))))) (unitReadyClear_noCommit (faultCount_noCommit (record_noCommit hs)))

theorem handleError_noCommit {sev cls code : Nat} {l : Loc} (hs : NoCommit s) : NoCommit (handleError s sev cls code l) := by
  unfold handleError
  refine ite_noCommit hs ?_
  split
  · exact decideDevice_noCommit (escalated_noCommit hs)
  · refine ite_noCommit (decideDevice_noCommit hs) (ite_noCommit (ite_noCommit (decideDevice_noCommit hs) (startRestart_noCommit hs)) ?_)
    exact ite_noCommit hs (ite_noCommit (decideDevice_noCommit (escalated_noCommit hs)) (startRestart_noCommit (escalated_noCommit hs)))

theorem errorIn_noCommit {sev cls code : Nat} {l : Loc} {d : Bytes} {i : Bool} (hs : NoCommit s) : NoCommit (errorIn s sev cls code l d i) :=
  handleError_noCommit (record_noCommit hs)

/-! ### Words of HBM -/

theorem rowCross_noCommit {q src g b r : Nat} (hs : NoCommit s) : NoCommit (rowCross s q src g b r) :=
  ite_noCommit hs (record_noCommit hs)

theorem hbmActivate_noCommit {q src a : Nat} (hs : NoCommit s) : NoCommit (hbmActivate s q src a) :=
  ite_noCommit (rowCross_noCommit hs) hs

theorem hbmLost_noCommit {a q src : Nat} {inj : Bool} (hs : NoCommit s) : NoCommit (hbmLost s a q src inj) :=
  handleError_noCommit (record_noCommit hs)

theorem unmark_noCommit {w : Nat} (hs : NoCommit s) : NoCommit (unmark s w) :=
  ite_noCommit hs hs

theorem dropResv_noCommit {a n : Nat} (hs : NoCommit s) : NoCommit (dropResv s a n) :=
  ite_noCommit hs hs

theorem hbmWriteLine_noCommit {q src a : Nat} {d : Bytes} (hs : NoCommit s) : NoCommit (hbmWriteLine s q src a d).2 := by
  unfold hbmWriteLine
  extract_lets line n s1 parts s2 s3 hbm s4
  have h1 : NoCommit s1 := hbmActivate_noCommit hs
  split
  · exact hbmLost_noCommit h1
  · have h2 : NoCommit s2 := foldl_noCommit h1 fun x w hx => by
      split
      · exact record_noCommit (unmark_noCommit hx).same
      · exact hx
    have h3 : NoCommit s3 := foldl_noCommit h2 fun _ _ hx => unmark_noCommit hx
    exact (dropResv_noCommit (s := { s4 with mem := memWrite s4.mem a d }) h3).same

theorem hbmPut_noCommit {q src a : Nat} {d : Bytes} (hs : NoCommit s) : NoCommit (hbmPut s q src a d) := by
  unfold hbmPut hbmWrite
  refine List.foldlRecOn (motive := fun (x : Option Nat × State) => NoCommit x.2) _ _ hs fun x hx p _ => ?_
  split
  · exact hx
  · exact hbmWriteLine_noCommit hx

/-! ### Clean-up of the forwarding table (R188) -/

theorem cacheUpdate_noCommit {loc : Nat} {e : Bytes} (hs : NoCommit s) : NoCommit (cacheUpdate s loc e) :=
  ite_noCommit hs hs

theorem recount_noCommit {loc : Nat} {old new : Bytes} (hs : NoCommit s) : NoCommit (recount s loc old new) := hs

theorem putLoc_noCommit {q src loc : Nat} {e : Bytes} (hs : NoCommit s) : NoCommit (putLoc s q src loc e) := by
  unfold putLoc
  extract_lets v s1 s2 table
  have h2 : NoCommit s2 := hbmPut_noCommit (recount_noCommit hs)
  exact cacheUpdate_noCommit h2

theorem confSet_noCommit {loc : Nat} {e : Option Bytes} (hs : NoCommit s) : NoCommit (confSet s loc e) := hs

theorem cleanupAt_noCommit {loc : Nat} (hs : NoCommit s) : NoCommit (cleanupAt s loc) :=
  ite_noCommit hs (ite_noCommit (confSet_noCommit (putLoc_noCommit hs)) (ite_noCommit (confSet_noCommit (putLoc_noCommit hs)) hs))

theorem cleanupAll_noCommit (hs : NoCommit s) : NoCommit (cleanupAll s) :=
  (foldl_noCommit hs (fun _ _ hx => cleanupAt_noCommit hx)).same

/-! ### References to buffers -/

theorem dupTouch_noCommit {l4 w : Nat} (hs : NoCommit s) : NoCommit (dupTouch s l4 w) := by
  unfold dupTouch
  dsimp only
  split
  · exact hs
  · exact ite_noCommit (errorIn_noCommit hs) (record_noCommit hs)

theorem slotTouch_noCommit {t : Nat} (hs : NoCommit s) : NoCommit (slotTouch s t) :=
  ite_noCommit hs (foldl_noCommit hs (fun _ _ hx => dupTouch_noCommit hx))

theorem stateTouch_noCommit {h : Nat} (hs : NoCommit s) : NoCommit (stateTouch s h) := by
  unfold stateTouch
  dsimp only
  split
  · exact hs
  · exact record_noCommit hs

theorem modPool_noCommit {p : Nat} {f : PoolSt → PoolSt} (hs : NoCommit s) : NoCommit (modPool s p f) := hs

theorem modWord_noCommit {h : Nat} {f : BufWord → BufWord} (hs : NoCommit s) : NoCommit (modWord s h f) := hs

theorem modHeld_noCommit {d p : Nat} {f : Nat → Nat} (hs : NoCommit s) : NoCommit (modHeld s d p f) := hs

theorem poolCnt_noCommit {p off : Nat} (hs : NoCommit s) : NoCommit (poolCnt s p off) := hs

theorem hodTouch_noCommit {p w : Nat} (hs : NoCommit s) : NoCommit (hodTouch s p w) :=
  dupTouch_noCommit hs

theorem bufFree_noCommit {h : Nat} (hs : NoCommit s) : NoCommit (bufFree s h) := by
  unfold bufFree
  extract_lets p w g nh s1 q
  have h1 : NoCommit s1 := poolCnt_noCommit (modHeld_noCommit (hodTouch_noCommit hs))
  have hkept : ∀ f f', NoCommit (modPool (modWord s1 h f) p f') := fun _ _ => modPool_noCommit (modWord_noCommit h1)
  exact ite_noCommit (ite_noCommit (hkept _ _) (hkept _ _)) (ite_noCommit (modPool_noCommit (modWord_noCommit (hodTouch_noCommit h1))) (hkept _ _))

theorem bufDrop_noCommit {h : Nat} (hs : NoCommit s) : NoCommit (bufDrop s h) :=
  ite_noCommit hs (ite_noCommit (bufFree_noCommit hs) hs)

theorem refReject_noCommit {h : Nat} {r : Requester} {x : RefReject} (hs : NoCommit s) : NoCommit (refReject s h r x) := by
  have hcount : NoCommit (match x.counter with | some off => poolCnt s (hPool h) off | none => s) := by
    split <;> exact hs
  unfold refReject
  dsimp only
  split
  · exact record_noCommit hcount
  · exact hcount

theorem requesterTouch_noCommit {h : Nat} {r : Requester} (hs : NoCommit s) :
    NoCommit (stateTouch (match r.thread with | some t => slotTouch s t | none => s) h) := by
  refine stateTouch_noCommit ?_
  split
  · exact slotTouch_noCommit hs
  · exact hs

theorem hodHold_noCommit {h : Nat} {r : Requester} (hs : NoCommit s) : NoCommit (hodHold s h r).2 := by
  unfold hodHold
  dsimp only
  split
  · exact refReject_noCommit (requesterTouch_noCommit hs)
  · exact (requesterTouch_noCommit hs).same

theorem hodRelease_noCommit {h : Nat} {r : Requester} (hs : NoCommit s) : NoCommit (hodRelease s h r).2 := by
  have hslot : ∀ x : State, NoCommit x → NoCommit (match r.thread with | some t => modSlots x t (fun l => l.erase h) | none => x) := fun x hx => by
    split <;> exact hx
  unfold hodRelease
  dsimp only
  split
  · exact refReject_noCommit (ite_noCommit (hslot _ (requesterTouch_noCommit hs)) (requesterTouch_noCommit hs))
  · exact bufDrop_noCommit (hslot _ (requesterTouch_noCommit hs))

theorem unitRelease_noCommit {h l5 l4 : Nat} (hs : NoCommit s) : NoCommit (unitRelease s h l5 l4) :=
  ite_noCommit hs (hodRelease_noCommit hs)

/-! ### Items of the dispatchers -/

theorem orderDrop_noCommit {tick source : Nat} (hs : NoCommit s) : NoCommit (orderDrop s tick source) := by
  unfold orderDrop
  split
  · exact hs
  · exact (foldl_noCommit hs (fun _ _ hx => unitRelease_noCommit hx)).same

theorem pairDrop_noCommit {x : PairItem} (hs : NoCommit s) : NoCommit (pairDrop s x) :=
  have hdrop := unitRelease_noCommit (h := x.handle) (l5 := 29) (l4 := x.pair % 32) (NoCommit.same
    (t := { orderDrop s (x.entry / 128) (x.entry % 128) with fault := { (orderDrop s (x.entry / 128) (x.entry % 128)).fault with
      pairItems := (orderDrop s (x.entry / 128) (x.entry % 128)).fault.pairItems.filter (fun y => y.entry ≠ x.entry) } }) (orderDrop_noCommit hs))
  ite_noCommit (unitRelease_noCommit hdrop) hdrop

theorem pairAbandon_noCommit {key : Nat} (hs : NoCommit s) : NoCommit (pairAbandon s key) := by
  unfold pairAbandon
  split
  · exact (pairDrop_noCommit hs).same
  · exact hs

theorem discardItem_noCommit {n : Nat} {it : Item} (hs : NoCommit s) : NoCommit (discardItem s n it) := by
  unfold discardItem
  split
  · exact ite_noCommit (unitRelease_noCommit (pairAbandon_noCommit hs)) (pairAbandon_noCommit hs)
  · exact unitRelease_noCommit (ite_noCommit (orderDrop_noCommit hs) hs)

theorem enterQueue_noCommit {n : Nat} {it : Item} (hs : NoCommit s) : NoCommit (enterQueue s n it) := by
  unfold enterQueue
  refine ite_noCommit hs (ite_noCommit ?_ (ite_noCommit hs (discardItem_noCommit hs)))
  split
  · exact hs
  · exact ite_noCommit hs (discardItem_noCommit hs)

theorem ageDrop_noCommit {d source : Nat} (hs : NoCommit s) : NoCommit (ageDrop s d source) :=
  ite_noCommit hs hs

theorem enterItem_noCommit {it : Item} {pass : Bool} (hs : NoCommit s) : NoCommit (enterItem s it pass) := by
  have hpass : ∀ n, NoCommit (if pass then dispCnt s n 0x08 1 else s) := fun _ => ite_noCommit hs hs
  unfold enterItem
  dsimp only
  split
  · exact discardItem_noCommit hs
  · refine ite_noCommit (ageDrop_noCommit (discardItem_noCommit hs)) (ite_noCommit (discardItem_noCommit hs) ?_)
    refine ite_noCommit (discardItem_noCommit (s := dispCnt s _ _ _) hs) (ite_noCommit (discardItem_noCommit (s := faultCount s _ _) hs) ?_)
    split
    · exact enterQueue_noCommit (hpass _)
    · split
      · rename_i hheld
        exact faultCount_noCommit (discardItem_noCommit ((hodHold_noCommit (hpass _)).of_snd hheld))
      · rename_i hheld
        have hhold := (hodHold_noCommit (hpass _)).of_snd hheld
        exact ite_noCommit (pairAbandon_noCommit (enterQueue_noCommit hhold)) (enterQueue_noCommit (enterQueue_noCommit hhold))

theorem discardHeld_noCommit {tid : Nat} {it : Item} (hs : NoCommit s) : NoCommit (discardHeld s tid it) := by
  unfold discardHeld
  split
  · exact ite_noCommit (bufDrop_noCommit (pairAbandon_noCommit hs).same) (pairAbandon_noCommit hs)
  · exact ite_noCommit (bufDrop_noCommit (ite_noCommit (orderDrop_noCommit hs) hs).same) (ite_noCommit (orderDrop_noCommit hs) hs)

/-! ### Locks and coprocessors -/

theorem passLock_noCommit {n status tick : Nat} (hs : NoCommit s) : NoCommit (passLock s n status tick) := by
  unfold passLock
  split
  · exact hs
  · split <;> exact hs

theorem lockLost_noCommit {n : Nat} {inj : Bool} (hs : NoCommit s) : NoCommit (lockLost s n inj) := by
  unfold lockLost
  refine errorIn_noCommit (NoCommit.same ?_)
  split
  · exact hs
  · exact foldl_noCommit hs (fun _ _ hx => hx)

theorem lockTouch_noCommit {n : Nat} (hs : NoCommit s) : NoCommit (lockTouch s n) := by
  have hclear : ∀ ms : List ErrorMark, NoCommit (ms.foldl (fun y m => clearMark y m.loc m.word) s) := fun _ => foldl_noCommit hs (fun _ _ hx => hx)
  unfold lockTouch
  split
  · exact hs
  · exact ite_noCommit (lockLost_noCommit (hclear _)) (foldl_noCommit (hclear _) (fun _ _ hx => record_noCommit hx))

theorem lockCnt_noCommit {off : Nat} (hs : NoCommit s) : NoCommit (lockCnt s off) := hs

theorem grantTo_noCommit {n tid tick : Nat} {ws : List LockWait} (hs : NoCommit s) : NoCommit (grantTo s n tid tick ws) := hs

theorem applyLock_noCommit {o : LockOp} (hs : NoCommit s) : NoCommit (applyLock s o).2.2 := by
  unfold applyLock
  extract_lets u l mine grant
  clear_value mine l
  have hu : NoCommit u := lockTouch_noCommit hs
  have hgrant : NoCommit (grant u) := grantTo_noCommit (lockCnt_noCommit (lockCnt_noCommit hu))
  split
  · refine ite_snd_snd_noCommit (lockCnt_noCommit hu) (ite_snd_snd_noCommit hu (ite_snd_snd_noCommit hu ?_))
    split
    · exact hgrant
    · exact hu
  · refine ite_snd_snd_noCommit (lockCnt_noCommit hu) (ite_snd_snd_noCommit hu ?_)
    split
    · exact hgrant
    · exact lockCnt_noCommit (lockCnt_noCommit hu)
  · exact ite_snd_snd_noCommit (passLock_noCommit (lockCnt_noCommit hu)) (record_noCommit (lockCnt_noCommit hu))
  · refine ite_snd_snd_noCommit (lockCnt_noCommit hu) ?_
    split
    · exact passLock_noCommit (lockCnt_noCommit hu)
    · exact hu

theorem settleOne_noCommit {o : LockOp} (hs : NoCommit s) : NoCommit (settleOne s o) := by
  unfold settleOne
  dsimp only
  split <;> exact (applyLock_noCommit hs).same

theorem settleLocks_noCommit {upto : Nat} (hs : NoCommit s) : NoCommit (settleLocks s upto) := by
  unfold settleLocks
  split
  · exact hs
  · exact ite_noCommit hs (foldl_noCommit hs (fun _ _ hx => settleOne_noCommit hx))

theorem locksRevoke_noCommit {tid : Nat} (hs : NoCommit s) : NoCommit (locksRevoke s tid) :=
  foldl_noCommit (NoCommit.same (settleLocks_noCommit hs)) (fun _ _ hx => passLock_noCommit (s := lockCnt _ _) hx)

theorem copRelease_noCommit {u k : Nat} (hs : NoCommit s) : NoCommit (copRelease s u k) := by
  unfold copRelease
  dsimp only
  split <;> exact hs

theorem copsRevoke_noCommit {tid : Nat} (hs : NoCommit s) : NoCommit (copsRevoke s tid) :=
  foldl_noCommit hs (fun _ _ hx => ite_noCommit (copRelease_noCommit hx) hx)

/-! ### Threads -/

theorem flushPassing_noCommit {tid : Nat} (hs : NoCommit s) : NoCommit (flushPassing s tid) :=
  foldl_noCommit (NoCommit.same hs) (fun _ _ hx => enterItem_noCommit hx)

theorem modTh_noCommit {tid : Nat} {f : Thread → Thread} (hs : NoCommit s) : NoCommit (modTh s tid f) := hs

/-- What waits for a thread is dropped. -/
theorem dropAll_noCommit {tid : Nat} (hs : NoCommit s) : NoCommit (dropStores (dropResults (dropTimers s tid) tid) tid) := hs

theorem revokeThread_noCommit {tid : Nat} {keepShadow : Bool} (hs : NoCommit s) : NoCommit (revokeThread s tid keepShadow) := by
  unfold revokeThread
  extract_lets t s0 s1 s2 keep gone s3 s4
  have h0 : NoCommit s0 := (flushPassing_noCommit hs).same
  have h1 : NoCommit s1 := by
    show NoCommit (match t.item with | some it => if it.done then s0 else discardHeld s0 tid it | none => s0)
    split
    · exact ite_noCommit h0 (discardHeld_noCommit h0)
    · exact h0
  have h2 : NoCommit s2 := by
    show NoCommit (match t.shadow with | some sh => if keepShadow then s1 else discardHeld s1 tid sh.item | none => s1)
    split
    · exact ite_noCommit h1 (discardHeld_noCommit h1)
    · exact h1
  have h3 : NoCommit s3 := foldl_noCommit (NoCommit.same h2) (fun _ _ hx => (bufDrop_noCommit hx).same)
  have h4 : NoCommit s4 := dropAll_noCommit (copsRevoke_noCommit (locksRevoke_noCommit h3))
  exact modTh_noCommit h4

theorem threadStop_noCommit {tid : Nat} (hs : NoCommit s) : NoCommit (threadStop s tid) :=
  modTh_noCommit (revokeThread_noCommit hs)

end Rules
end Sys2Proof.Proofs.NoCommitInForce
end

section
/-!
PROOFS. Staging, the steps of a commit, its messages and the epoch (R46 to R74).
-/

namespace Sys2Proof.Proofs.PlansAndCommits
open Sys2Proof Sys2Proof.Machine Sys2Proof.Proofs.HostRules Sys2Proof.Proofs.SpanLinkStates Sys2Proof.Proofs.SpanTraffic Sys2Proof.Proofs.NoCommitInForce

/-! ### Who may give a staging command, and when (R47, Table 2-8) -/

section Staging
variable {s : State} {mb : MbId} {k : State → State}

theorem planCommand_elsewhere {ok : List StageState} (helse : StagedElsewhere s mb) : planCommand s mb ok k = reply s mb.val eBusy := if_pos helse

theorem planCommand_accepted {ok : List StageState} (hhere : ¬ StagedElsewhere s mb) (hok : ok.contains s.plan.staging.st = true) :
    planCommand s mb ok k = k s :=
  (if_neg hhere).trans (if_pos hok)

theorem planCommand_sequence {ok : List StageState} (hhere : ¬ StagedElsewhere s mb) (hok : ok.contains s.plan.staging.st = false) :
    planCommand s mb ok k = reply s mb.val eSequence :=
  (if_neg hhere).trans (if_neg (Bool.eq_false_iff.mp hok))

theorem not_stagedElsewhere_of_empty (hst : s.plan.staging.st = .empty) : ¬ StagedElsewhere s mb := fun h => h.1 hst

theorem exec_planStageBegin_opens {size : BitVec 32} (hst : s.plan.staging.st = .empty) (hready : ∀ n < 4, isReady s (6 + n) = true)
    (hsize : size.toNat ≤ 256 * 2 ^ 20) : exec (.planStageBegin mb size) s = .next (reply { s with plan := { s.plan with
      staging := { st := .loading, owner := some mb.val, size := size.toNat } } } mb.val stOk) := by
  have hall : ¬ (List.range 4).any (fun n => !isReady s (6 + n)) = true := by
    simpa [List.any_eq_true] using hready
  refine congrArg Host.Outcome.next ((planCommand_accepted (not_stagedElsewhere_of_empty hst) (by rw [hst]; rfl)).trans ?_)
  exact (if_neg hall).trans (if_neg (Nat.not_lt.mpr hsize))

theorem exec_planStageData_loads {off len : BitVec 32} {d : Bytes} (hst : s.plan.staging.st = .loading) (hhere : ¬ StagedElsewhere s mb)
    (hready : isReady s 22 = true) (hpos : 0 < len.toNat) (hlen : len.toNat ≤ 4194304) (hd : d.length = len.toNat)
    (hfits : off.toNat + len.toNat ≤ s.plan.staging.size) : exec (.planStageData mb off len (some d)) s =
      .next (modMb (reply (setStaging (hostCount s 0x30 len.toNat) { s.plan.staging with
        image := memSplice s.plan.staging.image off.toNat len.toNat (Machine.memWrite [] 0 d) }) mb.val stOk) mb.val
          (fun m => { m with reply := m.reply.map (fun r => { r with indDone := len.toNat }) })) := by
  refine congrArg Host.Outcome.next ((planCommand_accepted hhere (by rw [hst]; rfl)).trans ?_)
  unfold withPayload
  rw [if_neg (by omega)]
  dsimp only
  rw [hready, if_neg (by decide), ← hd, slice_whole rfl, if_neg (by simp only [hostCount_plan]; omega)]
  rfl

theorem exec_planStageData_answers {off len : BitVec 32} {d : Bytes} (hst : s.plan.staging.st = .loading) (hhere : ¬ StagedElsewhere s mb)
    (hready : isReady s 22 = true) (hpos : 0 < len.toNat) (hlen : len.toNat ≤ 4194304) (hd : d.length = len.toNat)
    (hfits : off.toNat + len.toNat ≤ s.plan.staging.size) : ∃ t, exec (.planStageData mb off len (some d)) s = .next t ∧
      t.plan = { s.plan with staging := { s.plan.staging with image := memSplice s.plan.staging.image off.toNat len.toNat (Machine.memWrite [] 0 d) } } ∧
      (getMb t mb.val).reply = some { status := stOk, indDone := len.toNat } ∧ t = { s with plan := t.plan, host := t.host } := by
  refine ⟨_, exec_planStageData_loads hst hhere hready hpos hlen hd hfits, rfl, ?_, rfl⟩
  rw [getMb_modMb_same, reply_reply]
  rfl

/-- What PLAN_STAGE_END reports of a plan that the container checks accept (R50). -/
def containerPassed (s : State) (p : PlanCopy) : Passed :=
  let b := (prepConf (fixSeeds s p) p s.plan.now (nextEpoch s.plan.epoch % 2)).2.1.length
  { plan := p, buckets := b, kib := storeKib p s.plan.now, bound := prepBound b (dieWords p s.plan.now) (storeKib p s.plan.now) }

theorem exec_planStageEnd_passes {p : PlanCopy} (hst : s.plan.staging.st = .loading) (hhere : ¬ StagedElsewhere s mb)
    (hpass : checkContainer s.plan.staging s.svc s.plan.cur none = .ok p) : exec (.planStageEnd mb) s = .next (reply { s with plan := { s.plan with
      staging := { s.plan.staging with st := .loaded } } } mb.val stOk (passReport (containerPassed s p))) := by
  refine congrArg Host.Outcome.next ((planCommand_accepted hhere (by rw [hst]; rfl)).trans ?_)
  dsimp only
  rw [show checkContainer s.plan.staging s.svc (planNow? s) none = .ok p from hpass]
  rfl

theorem exec_planStageEnd_fails {f : CheckFail} (hst : s.plan.staging.st = .loading) (hhere : ¬ StagedElsewhere s mb)
    (hfail : checkContainer s.plan.staging s.svc s.plan.cur none = .error f) :
    exec (.planStageEnd mb) s = .next (reply (failReport s f).2 mb.val f.status (failReport s f).1) := by
  refine congrArg Host.Outcome.next ((planCommand_accepted hhere (by rw [hst]; rfl)).trans ?_)
  dsimp only
  rw [show checkContainer s.plan.staging s.svc (planNow? s) none = .error f from hfail]

theorem planCheck_accepted (hst : s.plan.staging.st = .loaded ∨ s.plan.staging.st = .checked) :
    [StageState.loaded, .checked].contains s.plan.staging.st = true := by
  obtain h | h := hst <;> rw [h] <;> rfl

theorem exec_planCheck_passes {x : Passed} (hst : s.plan.staging.st = .loaded ∨ s.plan.staging.st = .checked) (hhere : ¬ StagedElsewhere s mb)
    (hpass : runCheck s none = .ok x) : exec (.planCheck mb) s = .next (reply { s with plan := { s.plan with
      staging := { s.plan.staging with st := .checked, checkedAt := some s.plan.epoch, prepBound := x.bound } } } mb.val stOk (passReport x)) := by
  refine congrArg Host.Outcome.next ((planCommand_accepted hhere (planCheck_accepted hst)).trans ?_)
  dsimp only
  rw [hpass]
  rfl

theorem exec_planCheck_fails {f : CheckFail} (hst : s.plan.staging.st = .loaded ∨ s.plan.staging.st = .checked) (hhere : ¬ StagedElsewhere s mb)
    (hfail : runCheck s none = .error f) : exec (.planCheck mb) s = .next (reply { (failReport s f).2 with plan := { s.plan with
      staging := { s.plan.staging with st := .loaded, checkedAt := none } } } mb.val f.status (failReport s f).1) := by
  refine congrArg Host.Outcome.next ((planCommand_accepted hhere (planCheck_accepted hst)).trans ?_)
  dsimp only
  rw [hfail]
  rfl

theorem exec_planAbort_empties (hst : s.plan.staging.st = .loading ∨ s.plan.staging.st = .loaded ∨ s.plan.staging.st = .checked) :
    exec (.planAbort mb) s = .next (reply { s with plan := { s.plan with staging := {} } } mb.val stOk) := by
  refine congrArg Host.Outcome.next ?_
  obtain h | h | h := hst <;> rw [h] <;> rfl

/-- Settles O11: each staging command by its lemma above. -/
theorem planStaging : Obligations.PlanStaging := by
  unfold Obligations.PlanStaging
  intro mb s
  refine ⟨fun size => exec_planStageBegin_opens, fun off len d => exec_planStageData_answers, fun hst hhere => ?_, fun hst hhere => ?_,
    exec_planAbort_empties, rfl, fun size helse => congrArg Host.Outcome.next (planCommand_elsewhere helse),
    fun helse => ⟨congrArg Host.Outcome.next (planCommand_elsewhere helse), congrArg Host.Outcome.next (planCommand_elsewhere helse)⟩,
    fun hhere hst => congrArg Host.Outcome.next (planCommand_sequence hhere (by rw [hst]; rfl))⟩
  · cases hcheck : checkContainer s.plan.staging s.svc s.plan.cur none with
    | ok p => exact ⟨_, exec_planStageEnd_passes hst hhere hcheck⟩
    | error f => exact exec_planStageEnd_fails hst hhere hcheck
  · cases hcheck : runCheck s none with
    | ok x => exact exec_planCheck_passes hst hhere hcheck
    | error f => exact exec_planCheck_fails hst hhere hcheck

end Staging

/-! ### The steps of a commit (R58) -/

section Steps
variable {s : State} {c : Commit}

theorem modCommit_some {f : Commit → Commit} (hc : s.plan.commit = some c) : modCommit s f = { s with plan := { s.plan with commit := some (f c) } } := by
  rw [modCommit, hc]
  rfl

theorem exec_planCommit_loaded {mb : MbId} {args : Bytes} (hst : s.plan.staging.st = .loaded) (howner : s.plan.staging.owner = some mb.val)
    (hargs : argBad s args = false) : exec (.planCommit mb args) s = .next { s with plan := { s.plan with
      staging := { s.plan.staging with st := .committing }
      commit := some {
        mailbox := mb.val, step := .checking, fromState := .loaded, sel := argSel args
        atTime := if argFlag args 0 then some (argTime args) else none, group := argFlag args 1, groupMask := byteAt args 14 } } } := by
  refine congrArg Host.Outcome.next ?_
  dsimp only
  rw [if_neg (fun h => h.2 howner), if_neg (fun h => h.1 hst), if_neg (Bool.eq_false_iff.mp hargs),
    if_neg (fun h => by rw [hst] at h; exact absurd h.2.1 (by decide)), hst]
  rfl

theorem exec_commitCheckDone_checking (hc : s.plan.commit = some c) (hstep : c.step = .checking) : exec .commitCheckDone s =
    .next (match runCheck s c.sel with | .error f => failCommit s f | .ok x => afterCheck s x) := by
  refine congrArg Host.Outcome.next ?_
  rw [hc]
  exact if_neg (not_not_intro hstep)

/-- After a passing check a commit draws its seeds, for which it may wait, or prepares (R58 step 3). -/
theorem afterCheck_eq {x : Passed} {y : Commit} (hc : s.plan.commit = some c)
    (hy : y = { c with plan := some x.plan, prepBound := x.bound, report := passReport x }) : afterCheck s x =
    if isReady s 4 = false ∧ (x.plan.randomSeeds = true ∨ (s.plan.epoch = 0 ∧ x.plan.has 9 = false))
    then { s with plan := { s.plan with commit := some { y with step := .entropy } } }
    else beginPrepare { s with plan := { s.plan with commit := some y } } := by
  subst hy
  unfold afterCheck
  rw [modCommit_some hc]
  dsimp only
  rw [modCommit_some rfl]

theorem exec_commitEntropyReady_ready (hc : s.plan.commit = some c) (hstep : c.step = .entropy) (hready : isReady s 4 = true) :
    exec .commitEntropyReady s = .next (beginPrepare s) := by
  refine congrArg Host.Outcome.next ?_
  rw [hc]
  exact (if_neg (not_not_intro hstep)).trans (if_pos hready)

theorem beginPrepare_waits {p : PlanCopy} (hc : s.plan.commit = some c) (hp : c.plan = some p) (hold : s.plan.old.isSome = true)
    (hwrites : confWrites p s.plan.now = true) :
    beginPrepare s = { s with plan := { s.plan with commit := some { c with step := .waiting } } } := by
  unfold beginPrepare
  rw [hc]
  dsimp only
  rw [hp]
  dsimp only
  rw [if_pos ⟨hwrites, hold⟩, modCommit_some hc, ← hp]

theorem exec_commitPrepareDone_alone (hc : s.plan.commit = some c) (hstep : c.step = .preparing) (halone : c.group = false) :
    exec .commitPrepareDone s = .next (armCommit (modCommit (loadCommitLines s) (fun c => { c with step := .prepared, prepEnd := s.now }))) := by
  refine congrArg Host.Outcome.next ?_
  rw [hc]
  exact (if_neg (not_not_intro hstep)).trans (if_neg (Bool.eq_false_iff.mp halone))

theorem armCommit_some (hc : s.plan.commit = some c) : armCommit s = { s with plan := { s.plan with commit := some { c with
    step := .armed, notBefore := Nat.max (c.prepEnd + usTicks 10) (if s.plan.old.isSome then s.plan.retireTick else 0) } } } := by
  unfold armCommit
  rw [modCommit_some hc]
  cases s.plan.old <;> rfl

/-- A group commit whose peers have all prepared alike is armed at its decision point (R73). -/
theorem exec_groupDecisionPoint_agreed {t : Nat} {u : State} (hc : s.plan.commit = some c) (hat : c.atTime = some t) (hgroup : c.group = true)
    (hstep : c.step = .prepared) (habort : c.abortSeen = false) (hu : u = advanceTo s (s.now + ticksTo s (t - 20000)))
    (hagree : ∀ m ∈ u.plan.prepared, (groupPeers u c).contains m.dev = true →
      m.digest = memBytes u.plan.staging.image 128 48 ∧ m.epoch = u.plan.epoch ∧ m.atTime = t)
    (hall : ∀ d ∈ groupPeers u c, ∃ m ∈ u.plan.prepared, m.dev = d) : exec .groupDecisionPoint s = .next (armCommit u) := by
  have hheld : ∀ m ∈ u.plan.prepared.filter (fun m => (groupPeers u c).contains m.dev),
      m.digest = memBytes u.plan.staging.image 128 48 ∧ m.epoch = u.plan.epoch ∧ m.atTime = t := fun m hm =>
    hagree m (List.mem_filter.mp hm).1 (List.mem_filter.mp hm).2
  refine congrArg Host.Outcome.next ?_
  rw [hc]
  dsimp only
  rw [hat]
  dsimp only
  rw [← hu, if_neg (by simp [hgroup, hstep]), if_neg, if_neg, if_neg]
  · rintro (h | h | h)
    · exact h hstep
    · exact Bool.eq_false_iff.mp habort h
    · obtain ⟨d, hd, hmissing⟩ := List.any_eq_true.mp h
      obtain ⟨m, hm, rfl⟩ := hall d hd
      rw [Bool.not_eq_true', Bool.eq_false_iff] at hmissing
      exact hmissing (List.any_eq_true.mpr ⟨m, List.mem_filter.mpr ⟨hm, List.contains_iff_mem.mpr hd⟩, beq_self_eq_true _⟩)
  · rintro h
    obtain ⟨m, hm, hne⟩ := List.any_eq_true.mp h
    simp [(hheld m hm).2.2] at hne
  · rintro h
    obtain ⟨m, hm, hne⟩ := List.any_eq_true.mp h
    simp [(hheld m hm).1, (hheld m hm).2.1] at hne

end Steps

/-! ### The messages of a group commit (R72) -/

section Messages
variable {s u : State} {k : Fin 3} {at_ : Nat} {m : Bytes}

theorem exec_prepared_held (htake : takeMsg s k.val 0x12 = some (at_, m, u)) (hpass : msgPasses (getSpan s k.val).st 0x12 = true) :
    exec (.prepared k) s = .next (sendMsg { u with plan := { u.plan with
      prepared := u.plan.prepared.filter (fun y => y.dev ≠ devAt u k.val) ++
        [{ dev := devAt u k.val, digest := slice m 16 48, epoch := leAt m 2 4, atTime := ofTime10 (slice m 6 10) }] } } k.val 1
      (toLE 1 0x19 ++ zeros 1 ++ slice m 2 14)) :=
  congrArg Host.Outcome.next (onMsg_taken htake hpass)

theorem exec_abort_taken (htake : takeMsg s k.val 0x13 = some (at_, m, u)) (hpass : msgPasses (getSpan s k.val).st 0x13 = true) :
    ∃ t, exec (.abort k) s = .next t ∧ t.plan.prepared = u.plan.prepared.filter (fun y => y.dev ≠ devAt u k.val) ∧
      t.plan.commit = u.plan.commit.map (fun c => if c.group ∧ c.groupMask.testBit (devAt u k.val) then { c with abortSeen := true } else c) ∧
      t = { u with plan := t.plan } :=
  ⟨_, congrArg Host.Outcome.next (onMsg_taken htake hpass), rfl, rfl, rfl⟩

theorem exec_preparedAck_taken (htake : takeMsg s k.val 0x19 = some (at_, m, u)) (hpass : msgPasses (getSpan s k.val).st 0x19 = true) :
    ∃ t, exec (.preparedAck k) s = .next t ∧
      t.plan.commit = u.plan.commit.map (fun c => if c.group then { c with acks := c.acks ++ [devAt u k.val] } else c) ∧
      t = { u with plan := t.plan } :=
  ⟨_, congrArg Host.Outcome.next (onMsg_taken htake hpass), rfl, rfl⟩

end Messages

/-- Settles O12: each step and each message by its lemma above. -/
theorem commitSteps : Obligations.CommitSteps := by
  unfold Obligations.CommitSteps
  refine ⟨fun s => ⟨fun mb args => exec_planCommit_loaded, fun c hc hstep => ?_, fun c => exec_commitEntropyReady_ready, fun c p => beginPrepare_waits,
    fun c => exec_commitPrepareDone_alone, fun c t hc hat hgroup hstep habort hagree hall =>
      exec_groupDecisionPoint_agreed hc hat hgroup hstep habort rfl hagree hall, fun c => armCommit_some⟩,
    fun s u k at_ m => ⟨exec_prepared_held, exec_abort_taken, exec_preparedAck_taken, fun htake => congrArg Host.Outcome.next (onMsg_none htake),
      fun htake => congrArg Host.Outcome.next (onMsg_none htake), fun htake => congrArg Host.Outcome.next (onMsg_none htake)⟩⟩
  rw [exec_commitCheckDone_checking hc hstep]
  cases runCheck s c.sel with
  | ok x => exact congrArg Host.Outcome.next (afterCheck_eq hc rfl)
  | error f => rfl

/-! ### The epoch (R59 to R62) -/

section Epoch
variable {s : State}

theorem exec_epochInstant_armed {c : Commit} {p : PlanCopy} (hc : s.plan.commit = some c) (hp : c.plan = some p) (hstep : c.step = .armed) :
    ∃ u, u = reply (switched s c p) c.mailbox stOk (commitResult (switched s c p) c.report) ∧ exec .epochInstant s =
      .next (if u.host.hawkDeferred then hawkRestartDue { u with host := { u.host with hawkDeferred := false } } u.svc.trialFirst else u) := by
  refine ⟨_, rfl, congrArg Host.Outcome.next ?_⟩
  rw [hc]
  dsimp only
  rw [hp]
  exact if_neg (not_not_intro hstep)

/-- The state in which the old epoch `o` is gone: what was its own is free, and the threads that only it bound stand (R62). -/
def epochFreed (s : State) (o : PlanCopy) : State :=
  let u := advanceTo s s.plan.retireTick
  dropLines ((((boundThreads o).map (·.1)).filter (fun t => (bindingOf u.plan.now t).isNone)).foldl threadStop (sasRetire (cleanupAll u))) (o.epoch % 2)

theorem epochFreed_noCommit (o : PlanCopy) (hnone : NoCommit s) : NoCommit (epochFreed s o) := by
  have hclean : NoCommit (cleanupAll (advanceTo s s.plan.retireTick)) := cleanupAll_noCommit (advanceTo_noCommit hnone)
  have hstart : NoCommit (sasRetire (cleanupAll (advanceTo s s.plan.retireTick))) := hclean.same
  exact (foldl_noCommit hstart (fun _ _ hx => threadStop_noCommit hx)).same

/-- Without a commit the old epoch's retirement only frees what is its own. -/
theorem exec_epochRetire_idle {o : PlanCopy} (hold : s.plan.old = some o) (hnone : s.plan.commit = none) :
    exec .epochRetire s = .next { epochFreed s o with plan := { (epochFreed s o).plan with old := none } } := by
  have hfreed : (epochFreed s o).plan.commit = none := epochFreed_noCommit o hnone
  refine congrArg Host.Outcome.next ?_
  rw [hold]
  dsimp only
  split
  · rename_i c hc
    exact absurd (hfreed.symm.trans hc) nofun
  · rfl

/-- Settles O13: the instant and the retirement by their lemmas above. -/
theorem epochSwitch : Obligations.EpochSwitch := by
  unfold Obligations.EpochSwitch
  intro s
  refine ⟨fun c p hc hp hstep hkept => ?_, fun c p hc hp hstep hdeferred => ?_, fun o hold hnone => ⟨_, exec_epochRetire_idle hold hnone, rfl⟩,
    fun hnone => ?_, fun hnone => ?_⟩
  · obtain ⟨u, rfl, hexec⟩ := exec_epochInstant_armed hc hp hstep
    exact hexec.trans (congrArg Host.Outcome.next (if_neg (Bool.eq_false_iff.mp hkept)))
  · obtain ⟨u, rfl, hexec⟩ := exec_epochInstant_armed hc hp hstep
    exact ⟨_, rfl, hexec.trans (congrArg Host.Outcome.next (if_pos hdeferred))⟩
  · refine congrArg Host.Outcome.next ?_
    rw [hnone]
  · refine congrArg Host.Outcome.next ?_
    rw [hnone]

end Epoch
end Sys2Proof.Proofs.PlansAndCommits
end
